-- ==== Sys2Proof/Word.lean ====
section
/-! DEFINITION. The word types of the device and the plainest arithmetic on them: 32-bit register words, bytes, and the
numbering types of casks, racks, quadrants, rings, threads and members (R15, R32, R232, R337). -/

namespace Sys2Proof

/-- A 32-bit word: a register, a count, an FP32 value or an instruction word. -/
abbrev Word := BitVec 32

/-- One byte of a memory. -/
abbrev Byte := BitVec 8

/-- A 64-bit word: a scalar register of a thread, a wide counter (R263). -/
abbrev DWord := BitVec 64

/-- Cask number c = 16·r + k, 0–4,095 (R15). -/
abbrev CaskId := Fin 4096

/-- Rack number r, 0–255 (R15). -/
abbrev Rack := Fin 256

/-- Quadrant number q, 0–3 (R15). -/
abbrev Quad := Fin 4

/-- Thread context number within a rack, 0–63 (R232). -/
abbrev Tid := Fin 64

/-- Number of an s or v register, 0–31 (R263). -/
abbrev Reg := Fin 32

/-- Number of a t register, 0–15 (R263). -/
abbrev TReg := Fin 16

/-- Ring number, 0–65,535 (R337). -/
abbrev RingId := Fin 65536

/-- Member number of a device within its pod, 0–15 (R32). -/
abbrev Member := Fin 16

/-- A free-running 32-bit packet index (R338). -/
abbrev Index := BitVec 32

end Sys2Proof
end

