-- ==== Sys2Proof/Machine/Bits.lean ====
section
/-! DEFINITION. Bit fields, byte order and the integer roundings that the chapters name. -/

namespace Sys2Proof.Machine

/-- Bits hi to lo of a number, as a number. -/
def bits (hi lo : Nat) (x : Nat) : Nat := (x / 2 ^ lo) % 2 ^ (hi + 1 - lo)

/-- Bit b of a number. -/
def bitAt (b : Nat) (x : Nat) : Bool := (x / 2 ^ b) % 2 == 1

/-- Bits hi to lo of a register word (Units and numbers: ranges are written [msb:lsb]). -/
def fieldOf (hi lo : Nat) (w : Word) : Nat := bits hi lo w.toNat

/-- Bit b of a register word. -/
def flagOf (b : Nat) (w : Word) : Bool := bitAt b w.toNat

/-- A word with bits hi to lo replaced. -/
def setField (hi lo : Nat) (v : Nat) (w : Word) : Word :=
  BitVec.ofNat 32 (w.toNat - bits hi lo w.toNat * 2 ^ lo + (v % 2 ^ (hi + 1 - lo)) * 2 ^ lo)

/-- A word with bit b set or cleared. -/
def setFlag (b : Nat) (v : Bool) (w : Word) : Word := setField b b v.toNat w

/-- A number from its bytes, the first byte least significant (multi-byte quantities are little-endian). -/
def leNat : List Byte → Nat
  | [] => 0
  | b :: bs => b.toNat + 256 * leNat bs

/-- The n little-endian bytes of a number. -/
def leBytes : Nat → Nat → List Byte
  | 0, _ => []
  | n + 1, x => BitVec.ofNat 8 x :: leBytes n (x / 256)

/-- The little-endian number in bytes a to a + n − 1 of a byte list. -/
def leAt (a n : Nat) (bs : List Byte) : Nat := leNat ((bs.drop a).take n)

/-- Byte a of a byte list, 0 past its end. -/
def byteAt (a : Nat) (bs : List Byte) : Nat := ((bs.drop a).headD 0).toNat

/-- A byte list with the bytes from a on replaced. -/
def patchAt (a : Nat) (new : List Byte) (bs : List Byte) : List Byte :=
  bs.take a ++ new ++ bs.drop (a + new.length)

/-- A byte list brought to n bytes: cut, or filled with zeros. -/
def padTo (n : Nat) (bs : List Byte) : List Byte := bs.take n ++ List.replicate (n - bs.length) 0

/-- The signed value of the low w bits of a number. -/
def signedOf (w x : Nat) : Int :=
  if x % 2 ^ w < 2 ^ (w - 1) then (x % 2 ^ w : Nat) else ((x % 2 ^ w : Nat) : Int) - (2 ^ w : Nat)

/-- The w-bit two's complement pattern of an integer, as a number. -/
def patternOf (w : Nat) (x : Int) : Nat := (x % ((2 ^ w : Nat) : Int)).toNat

/-- An integer limited to lo … hi. -/
def clampInt (lo hi x : Int) : Int := if x < lo then lo else if hi < x then hi else x

/-- The nearest integer to n / d, ties away from zero (R160, R195). -/
def roundAway (n : Int) (d : Nat) : Int :=
  if n < 0 then -(((2 * n.natAbs + d) / (2 * d) : Nat) : Int) else ((2 * n.natAbs + d) / (2 * d) : Nat)

/-- The quotient n / d rounded up, 0 when d is 0. -/
def ceilDiv (n d : Nat) : Nat := (n + d - 1) / d

/-- The numbers whose bit is set, among the lowest n bits of a mask, in rising order. -/
def maskBits (n mask : Nat) : List Nat := (List.range n).filter fun k => bitAt k mask

/-- The number of bits set among the lowest n. -/
def popCount (n x : Nat) : Nat := (maskBits n x).length

/-- The sum of f over 0 … n − 1. -/
def sumRange (n : Nat) (f : Nat → Int) : Int := (List.range n).foldl (fun a k => a + f k) 0

/-- The sum of f over a list. -/
def sumList {α : Type} (f : α → Int) (l : List α) : Int := l.foldl (fun a x => a + f x) 0

/-- A 32-bit counter one higher, wrapping at 2³². -/
def wrapInc (w : Word) (n : Nat) : Word := w + BitVec.ofNat 32 n

/-- Element k of a list, with a default past its end. -/
def nthD {α : Type} (d : α) (k : Nat) (l : List α) : α := (l.drop k).headD d

/-- A list with element k replaced (unchanged past its end). -/
def setNth {α : Type} (k : Nat) (v : α) (l : List α) : List α := l.set k v

/-- A word from its fields: low bit and value of each. -/
def fieldsWord (fs : List (Nat × Nat)) : Word := BitVec.ofNat 32 ((fs.map fun f => f.2 * 2 ^ f.1).sum)

end Sys2Proof.Machine
end

