-- ==== Sys2Proof/Machine/Digest.lean ====
section
/-! DEFINITION. SHA-384, the digest that the spec names for cask, device and image digests and for attestation (R131, R132, R538, R544).
The spec refers to the standard and does not repeat it: FIPS 180-4, PRESUMED (log entry 19). -/

namespace Sys2Proof.Machine

/-- Round constants 0 to 15 (FIPS 180-4, 4.2.3). -/
def shaK0 : List DWord :=
  [0x428A2F98D728AE22, 0x7137449123EF65CD, 0xB5C0FBCFEC4D3B2F, 0xE9B5DBA58189DBBC,
   0x3956C25BF348B538, 0x59F111F1B605D019, 0x923F82A4AF194F9B, 0xAB1C5ED5DA6D8118,
   0xD807AA98A3030242, 0x12835B0145706FBE, 0x243185BE4EE4B28C, 0x550C7DC3D5FFB4E2,
   0x72BE5D74F27B896F, 0x80DEB1FE3B1696B1, 0x9BDC06A725C71235, 0xC19BF174CF692694]

/-- Round constants 16 to 31 (FIPS 180-4, 4.2.3). -/
def shaK1 : List DWord :=
  [0xE49B69C19EF14AD2, 0xEFBE4786384F25E3, 0x0FC19DC68B8CD5B5, 0x240CA1CC77AC9C65,
   0x2DE92C6F592B0275, 0x4A7484AA6EA6E483, 0x5CB0A9DCBD41FBD4, 0x76F988DA831153B5,
   0x983E5152EE66DFAB, 0xA831C66D2DB43210, 0xB00327C898FB213F, 0xBF597FC7BEEF0EE4,
   0xC6E00BF33DA88FC2, 0xD5A79147930AA725, 0x06CA6351E003826F, 0x142929670A0E6E70]

/-- Round constants 32 to 47 (FIPS 180-4, 4.2.3). -/
def shaK2 : List DWord :=
  [0x27B70A8546D22FFC, 0x2E1B21385C26C926, 0x4D2C6DFC5AC42AED, 0x53380D139D95B3DF,
   0x650A73548BAF63DE, 0x766A0ABB3C77B2A8, 0x81C2C92E47EDAEE6, 0x92722C851482353B,
   0xA2BFE8A14CF10364, 0xA81A664BBC423001, 0xC24B8B70D0F89791, 0xC76C51A30654BE30,
   0xD192E819D6EF5218, 0xD69906245565A910, 0xF40E35855771202A, 0x106AA07032BBD1B8]

/-- Round constants 48 to 63 (FIPS 180-4, 4.2.3). -/
def shaK3 : List DWord :=
  [0x19A4C116B8D2D0C8, 0x1E376C085141AB53, 0x2748774CDF8EEB99, 0x34B0BCB5E19B48A8,
   0x391C0CB3C5C95A63, 0x4ED8AA4AE3418ACB, 0x5B9CCA4F7763E373, 0x682E6FF3D6B2B8A3,
   0x748F82EE5DEFB2FC, 0x78A5636F43172F60, 0x84C87814A1F0AB72, 0x8CC702081A6439EC,
   0x90BEFFFA23631E28, 0xA4506CEBDE82BDE9, 0xBEF9A3F7B2C67915, 0xC67178F2E372532B]

/-- Round constants 64 to 79 (FIPS 180-4, 4.2.3). -/
def shaK4 : List DWord :=
  [0xCA273ECEEA26619C, 0xD186B8C721C0C207, 0xEADA7DD6CDE0EB1E, 0xF57D4F7FEE6ED178,
   0x06F067AA72176FBA, 0x0A637DC5A2C898A6, 0x113F9804BEF90DAE, 0x1B710B35131C471B,
   0x28DB77F523047D84, 0x32CAAB7B40C72493, 0x3C9EBE0A15C9BEBC, 0x431D67C49C100D4C,
   0x4CC5D4BECB3E42B6, 0x597F299CFC657E2A, 0x5FCB6FAB3AD6FAEC, 0x6C44198C4A475817]

/-- The eight working variables. -/
structure Sha where
  a : DWord
  b : DWord
  c : DWord
  d : DWord
  e : DWord
  f : DWord
  g : DWord
  h : DWord
  deriving DecidableEq, Repr

/-- The initial hash value of SHA-384 (FIPS 180-4, 5.3.4). -/
def shaInit : Sha :=
  ⟨0xCBBB9D5DC1059ED8, 0x629A292A367CD507, 0x9159015A3070DD17, 0x152FECD8F70E5939,
   0x67332667FFC00B31, 0x8EB44A8768581511, 0xDB0C2E0D64F98FA7, 0x47B5481DBEFA4FA4⟩

/-- The next word of the message schedule, from the last sixteen (FIPS 180-4, 6.4.2). -/
def shaNext (w : List DWord) : DWord :=
  let x := nthD 0 1 w
  let y := nthD 0 14 w
  nthD 0 0 w + nthD 0 9 w + (x.rotateRight 1 ^^^ x.rotateRight 8 ^^^ (x >>> 7)) + (y.rotateRight 19 ^^^ y.rotateRight 61 ^^^ (y >>> 6))

/-- One round (FIPS 180-4, 6.4.2). -/
def shaRound (k w : DWord) (s : Sha) : Sha :=
  let t1 := s.h + (s.e.rotateRight 14 ^^^ s.e.rotateRight 18 ^^^ s.e.rotateRight 41) + ((s.e &&& s.f) ^^^ (~~~s.e &&& s.g)) + k + w
  let t2 := (s.a.rotateRight 28 ^^^ s.a.rotateRight 34 ^^^ s.a.rotateRight 39) + ((s.a &&& s.b) ^^^ (s.a &&& s.c) ^^^ (s.b &&& s.c))
  ⟨t1 + t2, s.a, s.b, s.c, s.d + t1, s.e, s.f, s.g⟩

/-- The rounds of a list of constants, over a window of sixteen schedule words. -/
def shaRounds : List DWord → List DWord → Sha → Sha
  | [], _, s => s
  | k :: ks, w, s => shaRounds ks (w.drop 1 ++ [shaNext w]) (shaRound k (nthD 0 0 w) s)

/-- A hash value after one block of sixteen words. -/
def shaBlock (s : Sha) (w : List DWord) : Sha :=
  let t := shaRounds (shaK0 ++ shaK1 ++ shaK2 ++ shaK3 ++ shaK4) w s
  ⟨s.a + t.a, s.b + t.b, s.c + t.c, s.d + t.d, s.e + t.e, s.f + t.f, s.g + t.g, s.h + t.h⟩

/-- The number of a list of bytes, the first byte most significant. -/
def beNat (bs : List Byte) : Nat := leNat bs.reverse

/-- The n bytes of a number, the most significant first. -/
def beBytes (n x : Nat) : List Byte := (leBytes n x).reverse

/-- The words of a padded message, block after block. -/
def shaBlocks : Nat → List Byte → Sha → Sha
  | 0, _, s => s
  | n + 1, bs, s =>
    shaBlocks n (bs.drop 128) (shaBlock s ((List.range 16).map fun k => BitVec.ofNat 64 (beNat (((bs.take 128).drop (8 * k)).take 8))))

/-- A message padded to whole blocks of 128 bytes (FIPS 180-4, 5.1.2). -/
def shaPad (bs : List Byte) : List Byte :=
  bs ++ [0x80] ++ List.replicate ((239 - bs.length % 128) % 128) 0 ++ beBytes 16 (8 * bs.length)

/-- The 48 bytes of the SHA-384 of a message. -/
def sha384 (bs : List Byte) : List Byte :=
  let p := shaPad bs
  let s := shaBlocks (p.length / 128) p shaInit
  [s.a, s.b, s.c, s.d, s.e, s.f].flatMap fun x => beBytes 8 x.toNat

end Sys2Proof.Machine
end

