-- ==== Sys2Proof/Config.lean ====
section
/-! DEFINITION. What the spec leaves open or leaves to another standard: constants with no body. A statement about the model holds
for every value they could have. -/

namespace Sys2Proof

/-- A free value, drawn at the model's counter (log entry 6): a byte that no rule of the spec states. -/
opaque Config.freeByte : Nat → Byte

/-- A free word, drawn at the model's counter. -/
opaque Config.freeWord : Nat → Word

/-- The error of an approximated function, in units of 2⁻⁴⁰, by function number and operand: the spec bounds it (R252, R280), the
model limits it to that bound and leaves it free inside. -/
opaque Config.approxErr : Nat → Nat → Int

/-- The set of the shared cache a line belongs to (R387 gives 16,384 sets of a slice and no index function). -/
opaque Config.cacheSet : Nat → Nat

/-- The header of a TLP that Advanced Error Reporting logs, by its kind, its offset or DMA engine, and the step clock in which it came: no
command carries it (log entry 123). -/
opaque Config.tlpHeader : Nat → Nat → Nat → BitVec 128

/-- The sector of a thread's register in its rack's register file, by thread and register, which no rule states (R390, log entry 121). -/
opaque Config.registerSector : Nat → Nat → Nat

/-- The sector of a rack's instruction buffer that holds a sector of DRAM, which no rule states (R390, log entry 121). -/
opaque Config.bufferSector : Nat → Nat

/-- ECDSA P-384 verification: key, message digest, signature (R538). -/
opaque Config.ecdsaOk : List Byte → List Byte → List Byte → Bool

/-- LMS verification under RFC 8554 with the parameter sets R538 accepts: key, message, signature. -/
opaque Config.lmsOk : List Byte → List Byte → List Byte → Bool

/-- The device's ECDSA signature over a digest (R544). -/
opaque Config.ecdsaSign : List Byte → List Byte

/-- The device's LMS signature with a leaf over a message (R544, R545). -/
opaque Config.lmsSign : Nat → List Byte → List Byte

/-- The device's ECDSA public key (R544). -/
opaque Config.ecdsaKey : List Byte

/-- The device's LMS public key (R544). -/
opaque Config.lmsKey : List Byte

/-- The bytes of the operator library's kernels inside a verified image, as they lie in the library region (R540). -/
opaque Config.libKernels : List Byte → List Byte

/-- The first instruction of the library kernel of an operator in the library region (R366, R540): a byte offset. -/
opaque Config.libEntry : Nat → Nat

/-- How many threads the library kernel of an operator takes on each of its racks, which no rule states (log entry 32); at most 64
of them are placed. -/
opaque Config.libThreads : Nat → Nat

/-- The rack of the library kernel of an operator whose operands name none (log entry 32). -/
opaque Config.libRack : Nat → Nat

/-- The sector of DRAM from which a walker keeps its coded blocks, by the layer's partial buffer region; of the sectors where they fit. No
rule states it (log entry 109). -/
opaque Config.walkData : Nat → Nat

/-- The block sequence number of the first data block of a replica of a layer (log entry 109). -/
opaque Config.walkBsn : Nat → Nat → Nat

/-- Where the capabilities stand in configuration space, by capability, which no rule states (log entry 123). -/
opaque Config.capAt : Nat → Nat

/-- A configuration-space word that the PCI Express specification or the board gives and no rule states, by offset (log entry 11). -/
opaque Config.cfgWord : Nat → Word

/-- Whether a fused multiply-add of 0 × ∞ and a quiet NaN sets NV: IEEE 754 leaves it open and R272 does not settle it (log
entry 21). -/
opaque Config.fmaNanInvalid : Bool

/-- The code that VSCL writes for a NaN in a code format of a width, which R284 does not state (log entry 18). -/
opaque Config.sclNanCode : Nat → Nat

/-- What an infinity or a NaN in a coefficient of the vintage counts as, which no rule states (log entry 43). -/
opaque Config.badCoef : Word → Int

end Sys2Proof
end

