-- ==== Sys2Proof/Machine/Float.lean ====
section
/-! DEFINITION. Floating-point numbers (Table 6.1, R188, R272): exact values, and one rounding per operation to nearest with ties
to even, with the IEEE 754 flags as R272 fixes them. A value of a format is its bit pattern, as a number. -/

namespace Sys2Proof.Machine

/-- A floating-point format: exponent and mantissa widths, bias, the pattern of the largest finite magnitude, whether the format
has infinities and NaNs, and its canonical NaN (Tables 6.1 and 6.2). -/
structure FFmt where
  ew : Nat
  mw : Nat
  bias : Nat
  maxFin : Nat
  hasInf : Bool
  hasNan : Bool
  nan : Nat
  deriving DecidableEq, Repr

/-- IEEE 754 binary32 (Table 6.1). -/
def fp32 : FFmt := ⟨8, 23, 127, 0x7F7FFFFF, true, true, 0x7FC00000⟩
/-- BF16, the upper half of a binary32 (Table 6.1). -/
def bf16 : FFmt := ⟨8, 7, 127, 0x7F7F, true, true, 0x7FC0⟩
/-- FP8 E5M2 (Table 6.1). -/
def e5m2 : FFmt := ⟨5, 2, 15, 0x7B, true, true, 0x7E⟩
/-- FP8 E4M3: no infinities, S.1111.111 is NaN (Table 6.1). -/
def e4m3 : FFmt := ⟨4, 3, 7, 0x7E, false, true, 0x7F⟩
/-- FP4 E2M1: no infinities and no NaN; a NaN becomes +0 (Table 6.1, R188). -/
def e2m1 : FFmt := ⟨2, 1, 1, 7, false, false, 0⟩

/-- The position of a format's sign bit. -/
def FFmt.signBit (f : FFmt) : Nat := f.ew + f.mw

/-- What a pattern stands for: a NaN (signalling or quiet), an infinity, or ± n / d. -/
inductive FVal where
  | nan (signalling : Bool)
  | inf (neg : Bool)
  | fin (neg : Bool) (n d : Nat)
  deriving DecidableEq, Repr

/-- Flags of R272 as the bits of FFLAGS: [4] NV, [3] DZ, [2] OF, [1] UF, [0] NX. -/
def flNV : Nat := 16
/-- Divide by zero. -/
def flDZ : Nat := 8
/-- Overflow. -/
def flOF : Nat := 4
/-- Underflow. -/
def flUF : Nat := 2
/-- Inexact. -/
def flNX : Nat := 1

/-- The value 2^e × m as a fraction. -/
def scaled (neg : Bool) (m : Nat) (e : Int) : FVal :=
  if 0 ≤ e then .fin neg (m * 2 ^ e.toNat) 1 else .fin neg m (2 ^ (-e).toNat)

/-- The value of a bit pattern (Table 6.1). -/
def fdecode (f : FFmt) (x : Nat) : FVal :=
  let neg := bitAt f.signBit x
  let mag := x % 2 ^ f.signBit
  let e := mag / 2 ^ f.mw
  let m := mag % 2 ^ f.mw
  if mag > f.maxFin then
    if f.hasInf && decide (m = 0) then .inf neg else .nan (decide (m < 2 ^ (f.mw - 1)))
  else if e = 0 then scaled neg m (1 - (f.bias : Int) - f.mw)
  else scaled neg (2 ^ f.mw + m) ((e : Int) - f.bias - f.mw)

/-- n / d rounded to an integer, ties to even. -/
def roundEven (n d : Nat) : Nat :=
  let q := n / d
  let r := n % d
  if 2 * r < d then q else if d < 2 * r then q + 1 else if q % 2 = 0 then q else q + 1

/-- The exponent e with 2^e ≤ n / d < 2^(e + 1), for n and d above 0. -/
def fexp (n d : Nat) : Int :=
  let e : Int := (Nat.log2 n : Int) - Nat.log2 d
  let ge := if 0 ≤ e then decide (d * 2 ^ e.toNat ≤ n) else decide (d ≤ n * 2 ^ (-e).toNat)
  if ge then e else e - 1

/-- n / d in multiples of 2^q, rounded to nearest even, and whether that is exact. -/
def roundAt (n d : Nat) (q : Int) : Nat × Bool :=
  let a := if 0 ≤ q then n else n * 2 ^ (-q).toNat
  let b := if 0 ≤ q then d * 2 ^ q.toNat else d
  (roundEven a b, decide (a % b = 0))

/-- The pattern with a sign. -/
def withSign (f : FFmt) (neg : Bool) (mag : Nat) : Nat := if neg then 2 ^ f.signBit + mag else mag

/-- ± n / d narrowed to a format: one rounding to nearest even, subnormals kept; an overflow gives ±∞ where the format has it and
otherwise the largest finite value (R188). With the flags of R272: tininess is detected after rounding. -/
def fround (f : FFmt) (neg : Bool) (n d : Nat) : Nat × Nat :=
  if n = 0 then (withSign f neg 0, 0) else
  let emin : Int := 1 - (f.bias : Int)
  let e := fexp n d
  let ee := if e < emin then emin else e
  let r := roundAt n d (ee - f.mw)
  let mag := ((ee + f.bias - 1).toNat) * 2 ^ f.mw + r.1
  if mag > f.maxFin then
    (withSign f neg (if f.hasInf then (2 ^ f.ew - 1) * 2 ^ f.mw else f.maxFin), flOF + flNX)
  else
    let unb := roundAt n d (e - f.mw)
    let tiny := decide (e < emin) && !(decide (e = emin - 1) && decide (unb.1 = 2 ^ (f.mw + 1)))
    (withSign f neg mag, if r.2 then 0 else if tiny then flUF + flNX else flNX)

/-- Any value narrowed to a format: the canonical NaN for a NaN, ±∞ kept or made the largest finite value (R188). -/
def fencode (f : FFmt) : FVal → Nat × Nat
  | .nan _ => (f.nan, 0)
  | .inf neg => (withSign f neg (if f.hasInf then (2 ^ f.ew - 1) * 2 ^ f.mw else f.maxFin), 0)
  | .fin neg n d => fround f neg n d

/-- NV for a signalling NaN operand (R272). -/
def snanFlag : FVal → Nat
  | .nan true => flNV
  | _ => 0

/-- Whether a value is a NaN. -/
def FVal.isNan : FVal → Bool
  | .nan _ => true
  | _ => false

/-- The value with its sign turned. -/
def FVal.negate : FVal → FVal
  | .nan s => .nan s
  | .inf b => .inf !b
  | .fin b n d => .fin (!b) n d

/-- The magnitude of a value. -/
def FVal.abs : FVal → FVal
  | .nan s => .nan s
  | .inf _ => .inf false
  | .fin _ n d => .fin false n d

/-- The signed numerator of a finite value. -/
def sgn (neg : Bool) (n : Nat) : Int := if neg then -(n : Int) else n

/-- An exact sum with its flags, before rounding: ∞ − ∞ is invalid; an exact zero is +0 unless both terms are −0. -/
def faddV (x y : FVal) : FVal × Nat :=
  match x, y with
  | .nan s, y => (.nan false, snanFlag (.nan s) ||| snanFlag y)
  | x, .nan s => (.nan false, snanFlag x ||| snanFlag (.nan s))
  | .inf a, .inf b => if a = b then (.inf a, 0) else (.nan false, flNV)
  | .inf a, .fin _ _ _ => (.inf a, 0)
  | .fin _ _ _, .inf b => (.inf b, 0)
  | .fin a n d, .fin b m e =>
    let z := sgn a n * e + sgn b m * d
    if z = 0 then (.fin (if n = 0 && m = 0 then a && b else false) 0 1, 0)
    else (.fin (decide (z < 0)) z.natAbs (d * e), 0)

/-- An exact product with its flags: 0 × ∞ is invalid. -/
def fmulV (x y : FVal) : FVal × Nat :=
  match x, y with
  | .nan s, y => (.nan false, snanFlag (.nan s) ||| snanFlag y)
  | x, .nan s => (.nan false, snanFlag x ||| snanFlag (.nan s))
  | .inf a, .inf b => (.inf (a != b), 0)
  | .inf a, .fin b m _ => if m = 0 then (.nan false, flNV) else (.inf (a != b), 0)
  | .fin a n _, .inf b => if n = 0 then (.nan false, flNV) else (.inf (a != b), 0)
  | .fin a n d, .fin b m e => (.fin (a != b) (n * m) (d * e), 0)

/-- An exact quotient with its flags: 0 / 0 and ∞ / ∞ are invalid, x / 0 divides by zero. -/
def fdivV (x y : FVal) : FVal × Nat :=
  match x, y with
  | .nan s, y => (.nan false, snanFlag (.nan s) ||| snanFlag y)
  | x, .nan s => (.nan false, snanFlag x ||| snanFlag (.nan s))
  | .inf _, .inf _ => (.nan false, flNV)
  | .inf a, .fin b _ _ => (.inf (a != b), 0)
  | .fin a _ _, .inf b => (.fin (a != b) 0 1, 0)
  | .fin a n d, .fin b m e =>
    if m = 0 then (if n = 0 then (.nan false, flNV) else (.inf (a != b), flDZ))
    else (.fin (a != b) (n * e) (d * m), 0)

/-- An exact intermediate result rounded once to a format. -/
def finish (f : FFmt) (r : FVal × Nat) : Nat × Nat :=
  let e := fencode f r.1
  (e.1, e.2 ||| r.2)

/-- x + y in a format (R272). -/
def fadd (f : FFmt) (x y : Nat) : Nat × Nat := finish f (faddV (fdecode f x) (fdecode f y))

/-- x − y in a format (R272). -/
def fsub (f : FFmt) (x y : Nat) : Nat × Nat := finish f (faddV (fdecode f x) (fdecode f y).negate)

/-- x × y in a format (R272). -/
def fmul (f : FFmt) (x y : Nat) : Nat × Nat := finish f (fmulV (fdecode f x) (fdecode f y))

/-- x / y in a format, correctly rounded (R272). -/
def fdiv (f : FFmt) (x y : Nat) : Nat × Nat := finish f (fdivV (fdecode f x) (fdecode f y))

/-- The exact value of c + a × b, with its flags; NV of 0 × ∞ beside a quiet NaN is left open (log entry 21). -/
def fmaV (c a b : FVal) : FVal × Nat :=
  let p := fmulV a b
  let r := faddV c p.1
  let sn := snanFlag a ||| snanFlag b
  match c with
  | .nan false => (r.1, if p.2 = sn then sn ||| r.2 else (if Config.fmaNanInvalid then flNV else 0))
  | _ => (r.1, p.2 ||| r.2)

/-- c + a × b rounded once to a format (R272, R279). -/
def fma (f : FFmt) (c a b : Nat) : Nat × Nat := finish f (fmaV (fdecode f c) (fdecode f a) (fdecode f b))

/-- The integer square root by its bits from 2^k down. -/
def isqrtFrom (n : Nat) : Nat → Nat → Nat
  | 0, r => if (r + 1) * (r + 1) ≤ n then r + 1 else r
  | k + 1, r => isqrtFrom n k (if (r + 2 ^ (k + 1)) * (r + 2 ^ (k + 1)) ≤ n then r + 2 ^ (k + 1) else r)

/-- The integer square root of a number below 2^(2k + 2), for k = half its size in bits. -/
def isqrt (n : Nat) : Nat := isqrtFrom n (Nat.log2 n / 2) 0

/-- √(n / d) as a fraction with a sticky last bit, wide enough for one rounding. -/
def sqrtQ (n d : Nat) : Nat × Nat :=
  let m := n * d * 2 ^ 200
  let r := isqrt m
  (2 * r + (if r * r = m then 0 else 1), 2 * d * 2 ^ 100)

/-- √x in a format, correctly rounded; √−0 is −0, √ of a negative value is invalid (R272). -/
def fsqrt (f : FFmt) (x : Nat) : Nat × Nat :=
  match fdecode f x with
  | .nan s => (f.nan, snanFlag (.nan s))
  | .inf true => (f.nan, flNV)
  | .inf false => fencode f (.inf false)
  | .fin neg n d =>
    if n = 0 then (withSign f neg 0, 0)
    else if neg then (f.nan, flNV)
    else let q := sqrtQ n d; fround f false q.1 q.2

/-- Whether x < y, for values that are not NaNs. -/
def fltV : FVal → FVal → Bool
  | .inf true, .inf false => true
  | .inf true, .fin _ _ _ => true
  | .fin _ _ _, .inf false => true
  | .fin a n d, .fin b m e => decide (sgn a n * e < sgn b m * d)
  | _, _ => false

/-- Whether x = y, for values that are not NaNs; the two zeros are equal. -/
def feqV : FVal → FVal → Bool
  | .inf a, .inf b => a == b
  | .fin a n d, .fin b m e => decide (sgn a n * e = sgn b m * d)
  | _, _ => false

/-- Whether x ≤ y, for values that are not NaNs. -/
def fleV (x y : FVal) : Bool := fltV x y || feqV x y

/-- IEEE 754 minimumNumber: a number over a NaN, −0 below +0; a signalling NaN sets NV (R272). -/
def fminV (x y : FVal) : FVal × Nat :=
  let fl := snanFlag x ||| snanFlag y
  if x.isNan then (if y.isNan then .nan false else y, fl)
  else if y.isNan then (x, fl)
  else if fltV x y then (x, fl)
  else if fltV y x then (y, fl)
  else match x with
    | .fin true _ _ => (x, fl)
    | _ => (y, fl)

/-- IEEE 754 maximumNumber. -/
def fmaxV (x y : FVal) : FVal × Nat :=
  let fl := snanFlag x ||| snanFlag y
  if x.isNan then (if y.isNan then .nan false else y, fl)
  else if y.isNan then (x, fl)
  else if fltV x y then (y, fl)
  else if fltV y x then (x, fl)
  else match x with
    | .fin true _ _ => (y, fl)
    | _ => (x, fl)

/-- minimumNumber in a format. -/
def fmin (f : FFmt) (x y : Nat) : Nat × Nat := finish f (fminV (fdecode f x) (fdecode f y))

/-- maximumNumber in a format. -/
def fmax (f : FFmt) (x y : Nat) : Nat × Nat := finish f (fmaxV (fdecode f x) (fdecode f y))

/-- A value rounded to an integer, ties away from zero, saturated to lo … hi; a NaN gives 0 and NV (R283). -/
def toIntAway (lo hi : Int) : FVal → Int × Nat
  | .nan _ => (0, flNV)
  | .inf neg => (if neg then lo else hi, flNV)
  | .fin neg n d =>
    let r := roundAway (sgn neg n) d
    if r < lo then (lo, flNV) else if hi < r then (hi, flNV) else (r, if n % d = 0 then 0 else flNX)

/-- A value rounded to an integer, ties to even, saturated to lo … hi (FTOI, Table 8.7). -/
def toIntEven (lo hi : Int) : FVal → Int × Nat
  | .nan _ => (0, flNV)
  | .inf neg => (if neg then lo else hi, flNV)
  | .fin neg n d =>
    let r := sgn neg (roundEven n d)
    if r < lo then (lo, flNV) else if hi < r then (hi, flNV) else (r, if n % d = 0 then 0 else flNX)

/-- An integer as a value. -/
def ofInt (x : Int) : FVal := .fin (decide (x < 0)) x.natAbs 1

/-- The nearest integral value in a format, ties away from zero, with the operand's sign (FRND, Table 8.7); IEEE 754's
roundToIntegralTiesToAway does not signal inexact (log entry 108). -/
def frnd (f : FFmt) (x : Nat) : Nat × Nat :=
  match fdecode f x with
  | .nan s => (f.nan, snanFlag (.nan s))
  | .inf neg => fencode f (.inf neg)
  | .fin neg n d => fround f neg ((2 * n + d) / (2 * d)) 1

/-- The FP32 value 1. -/
def one32 : Word := 0x3F800000#32

/-- The canonical FP32 NaN (R272). -/
def nan32 : Word := 0x7FC00000#32

/-- The value of an FP32 word. -/
def val32 (x : Word) : FVal := fdecode fp32 x.toNat

/-- Whether an FP32 word is finite and above 0, as R188 and R284 ask of a scale. -/
def posFin32 (x : Word) : Bool :=
  match val32 x with
  | .fin neg n _ => !neg && decide (n ≠ 0)
  | _ => false

/-- An FP32 word as a signed fraction; an infinity or a NaN counts as a free value (log entry 43). -/
def q32 (x : Word) : Int × Nat :=
  match val32 x with
  | .fin neg n d => (sgn neg n, d)
  | _ => (Config.badCoef x, 1)

/-- FP32 add without flags, on register words (the decant chain, R252). -/
def add32 (x y : Word) : Word := BitVec.ofNat 32 (fadd fp32 x.toNat y.toNat).1
/-- FP32 subtract without flags. -/
def sub32 (x y : Word) : Word := BitVec.ofNat 32 (fsub fp32 x.toNat y.toNat).1
/-- FP32 multiply without flags. -/
def mul32 (x y : Word) : Word := BitVec.ofNat 32 (fmul fp32 x.toNat y.toNat).1
/-- FP32 divide without flags. -/
def div32 (x y : Word) : Word := BitVec.ofNat 32 (fdiv fp32 x.toNat y.toNat).1
/-- An integer rounded once to FP32. -/
def int32f (x : Int) : Word := BitVec.ofNat 32 (fencode fp32 (ofInt x)).1

/-! ### Approximated functions

The spec bounds the error of these functions and leaves the value inside the bound open (R252, R280): the result is the exact
value, carried here to about 2⁻⁶⁰ relative, moved by an error that a Config constant supplies and this file limits. -/

/-- ln 2 × 2⁶⁴. -/
def ln2Fix : Nat := 12786308645202655660

/-- Σ r^k / k! for r = x / 2⁶⁴ in 0 … 1, in units of 2⁻⁶⁴: term is the k-th term. -/
def expTaylor (x : Nat) : Nat → Nat → Nat → Nat
  | 0, _, _ => 0
  | fuel + 1, k, term => term + expTaylor x fuel (k + 1) (term * x / 2 ^ 64 / (k + 1))

/-- e^(n / d) as a fraction, for −200 ≤ n / d ≤ 200; values beyond are taken at the end of that range. -/
def expQ (n : Int) (d : Nat) : Nat × Nat :=
  let x : Int := clampInt (-200 * (2 ^ 64 : Nat)) (200 * (2 ^ 64 : Nat)) (n * (2 ^ 64 : Nat) / d)
  let k := x / ln2Fix
  let r := (x - k * ln2Fix).toNat
  let m := expTaylor r 32 0 (2 ^ 64)
  if 0 ≤ k then (m * 2 ^ k.toNat, 2 ^ 64) else (m, 2 ^ 64 * 2 ^ (-k).toNat)

/-- tanh(n / d) = (E − 1) / (E + 1) with E = e^(2n / d), as a signed fraction. -/
def tanhQ (n : Int) (d : Nat) : Int × Nat :=
  let e := expQ (2 * n) d
  ((e.1 : Int) - e.2, e.1 + e.2)

/-- A fraction moved by an error of err / 2⁴⁰, limited to ±(2⁻¹⁶ + 2⁻¹⁶ × |value|), as R252 and R280 bound it. -/
def nudge (err : Int) (n : Int) (d : Nat) : Int × Nat :=
  -- everything over the denominator d × 2⁴⁰
  let lim : Int := (d + n.natAbs) * 2 ^ 24
  (n * (2 ^ 40 : Nat) + clampInt (-lim) lim (err * d), d * 2 ^ 40)

/-- A signed fraction as a value. -/
def ofQ (q : Int × Nat) : FVal := .fin (decide (q.1 < 0)) q.1.natAbs q.2

end Sys2Proof.Machine
end

