-- ==== Sys2Proof/Machine/RegTable.lean ====
section
/-! DEFINITION. The registers of the device, from the register tables of every chapter: offsets, fields, access codes (Table 0.4),
reset values, ranges (R564) and what "Quiesced only" refers to (R6). -/

namespace Sys2Proof.Machine

/-- Register access codes (Table 0.4). -/
inductive Access where
  | ro
  | rw
  | wo
  | w1c
  | rc
  | cw
  deriving DecidableEq, Repr

/-- A register field: its bits, access code, reset value, least and largest allowed value, how many low bits must be zero, and
whether it is Quiesced only. -/
structure RegField where
  hi : Nat
  lo : Nat
  acc : Access
  reset : Nat
  least : Nat
  most : Option Nat
  zeros : Nat
  quiesced : Bool
  deriving DecidableEq, Repr

/-- Where a register lies: at a BAR0 offset, or at an offset within each rack's or each cask's region (R17, R84). -/
inductive RegBase where
  | abs (off : Nat)
  | rack (off : Nat)
  | cask (off : Nat)
  deriving DecidableEq, Repr

/-- The block whose chapter names the configuration event of a register (R564). -/
inductive CfgBlock where
  | none
  | pm
  | ledger
  | rack
  | ct
  | qt
  | cal
  | mem
  | ring
  | pos
  | bv
  | hg
  | ck
  deriving DecidableEq, Repr

/-- What a register's "Quiesced only" refers to (R6 and each chapter's register section). -/
inductive QuiesceOf where
  | none
  | adc
  | bv
  | cal
  | ck
  | dma
  | eq
  | hang
  | refold
  | rings
  | rk
  | scrub
  | selCask
  | taste
  | tbl
  deriving DecidableEq, Repr

/-- A register's place, the distance and number of its copies, its block, what quiesces it, whether it is a COMMIT register
(Table 0.5), and its fields. -/
structure RegDesc where
  base : RegBase
  stride : Nat
  count : Nat
  block : CfgBlock
  quiesce : QuiesceOf
  commit : Bool
  fields : List RegField
  deriving DecidableEq, Repr

/-- The register names of the device (the register tables of all chapters). A name with a count above 1 stands for an indexed family. -/
inductive RegName where
  | DEV_ID
  | PX_STATUS
  | PX_ECRC_ERRS
  | PM_ON
  | PM_STATE
  | PM_STATUS
  | BOOT_STATUS
  | BOOT_CMD
  | LIB_BASE_LO
  | LIB_BASE_HI
  | LG_CTRL
  | LG_VPP_LIMIT
  | LG_VPP_STATUS
  | LG_ROW_SEL
  | LG_ROW_DATA
  | LG_HOME_SEL
  | LG_HOME_DATA
  | LG_POOL_LIMIT
  | LG_POOL_STATUS
  | LG_GRANTS
  | LG_SLIDES
  | LG_DEFERS
  | LG_SUBSTEPS
  | LG_PEAK
  | RK_CTRL
  | RK_STATUS
  | RK_SHADOW_LO
  | RK_SHADOW_HI
  | RK_LIMITS
  | RK_REF_PERIOD
  | RK_POLICY
  | RK_RANGE
  | RK_POLICY_COMMIT
  | RK_CASK_SEL
  | RK_CASK_STATE
  | RK_CASK_FIT
  | RK_CASK_AGE
  | RK_DIGEST
  | CT_CTRL
  | CT_STATUS
  | CT_CHK_TOL
  | CT_TASTE_TOL
  | CT_CHECK_COMMIT
  | CT_TASTE_CFG
  | CT_TASTE_BASE_LO
  | CT_TASTE_BASE_HI
  | CT_ESC_CLAMPS
  | CT_CHK_FAILS
  | CT_TASTE_RUNS
  | CT_TASTE_FAILS
  | QT_CTRL
  | QT_STATUS
  | RS_BASE_LO
  | RS_BASE_HI
  | RS_GROUPS_LO
  | RS_GROUPS_HI
  | RS_REFOLD
  | RS_COMMIT
  | RS_SEL
  | RS_DATA
  | QT_ZRANGE
  | QT_CLAMPS
  | QT_RAISES
  | QT_SKEWS
  | QT_NONFINITE
  | CAL_CTRL
  | CAL_STATUS
  | CAL_REFCAL_UV
  | CAL_SYS_UV
  | CAL_TOL
  | CAL_HOST_TIME
  | CAL_VINTAGE
  | CAL_COUNT
  | CAL_LAST_TIME
  | CAL_LAST_POS
  | CAL_LAST_FRAME
  | CAL_DIFF
  | CAL_REJECTS
  | CAL_SKIPS
  | MC_STATUS
  | MC_CTRL
  | MC_USABLE_LO
  | MC_USABLE_HI
  | MC_SCRUB_BASE_LO
  | MC_SCRUB_BASE_HI
  | MC_SCRUB_LEN_LO
  | MC_SCRUB_LEN_HI
  | MC_SCRUB_CTRL
  | MC_SCRUB_ERRORS
  | MC_SCRUB_FIRST
  | MC_SCRUB_LAST
  | MC_SCRUB_TIME
  | MC_ERR_ADDR
  | MC_ERR_SRC
  | MC_PARITY_ERRS
  | MC_LINK_CORR
  | MC_SEAL_FAILS
  | MC_POISONS
  | MC_SUBSECTOR
  | MC_TRELLIS_RETRIES
  | RG_TABLE_LO
  | RG_TABLE_HI
  | RG_STATUS
  | RG_SEL
  | RG_CMD
  | RG_STATE
  | RG_HEAD
  | RG_TAIL
  | RG_GATE_POOL
  | RG_ESTATE_TMO
  | SY_SEL
  | SY_COUNT
  | SY_SIGNAL
  | EQ_BASE_LO
  | EQ_BASE_HI
  | EQ_CFG
  | EQ_HEAD
  | EQ_TAIL
  | EQ_ARM
  | EQ_LOST
  | EV_ROUTE
  | POS_CTRL
  | POS_STATUS
  | POS_CHECK
  | POS_CPR
  | POS_STILL
  | POS_RATE_MAX
  | POS_REV_MAX
  | POS_NUM
  | POS_DEN
  | POS_FRAME_LEN
  | POS_SCALE_COMMIT
  | POS_SYN_RATE
  | POS_SYN_STEP
  | POS_COUNT
  | POS_UM
  | POS_FRAME
  | POS_PPS
  | POS_QUAD_ERRS
  | POS_IDX_ERRS
  | POS_RATE_ERRS
  | PET_MISSES
  | PET_SEL
  | PET_W
  | FE_ADC_CTRL
  | FE_ADC_STATUS
  | FE_TIMER
  | FE_REG_TRIG
  | FE_INJ_TRIG
  | FE_SW_TRIG
  | FE_REG_SLOT
  | FE_INJ_SLOT
  | FE_INJ_DATA
  | FE_INJ_LIM
  | FE_BUF_LO
  | FE_BUF_HI
  | FE_BUF_CFG
  | FE_BUF_WR
  | FE_BUF_RD
  | FE_OVERRUNS
  | FE_LOST
  | FE_LIMIT_HITS
  | FE_DAC_CTRL
  | FE_DAC_CODE
  | FE_DAC_INC
  | FE_DAC_WAVE
  | FE_DAC_SUP
  | FE_DAC_STATUS
  | FE_DAC_COMMIT
  | FE_TBL_IDX
  | FE_TBL_DATA
  | FE_PWM_CFG
  | FE_PWM_A
  | FE_PWM_B
  | FE_PWM_COMMIT
  | BV_CTRL
  | BV_STATUS
  | BV_IDENT
  | BV_MEMBERS
  | BV_PRESENT
  | BV_EPOCH
  | BV_RWAIT_TMO
  | BV_ROUTE
  | BV_PORT_STATUS
  | BV_PORT_FEC
  | BV_PORT_REPLAYS
  | BV_PORT_DOWNS
  | HG_CTRL
  | HG_STATUS
  | HG_THREAD_BUDGET
  | HG_RING_BUDGET
  | HG_CASK_BUDGET
  | HG_DUMP_CFG
  | HG_DUMP_BASE_LO
  | HG_DUMP_BASE_HI
  | HG_DUMP_STATUS
  | HG_RESET
  | HG_RESUME
  | HG_RESET_CAUSE
  | HG_INCIDENTS
  | HG_GUILTY
  | HG_REPLAYS
  | HG_ABORTS
  | LC_STATE
  | LC_REQ
  | LC_SVN
  | LC_ERASE
  | AT_CMD
  | AT_STATUS
  | AT_BUF_LO
  | AT_BUF_HI
  | AT_NONCE
  | JR_SEL
  | JR_STATUS
  | JR_DATA
  | RP_STATUS
  | RP_CTRL
  | RP_THREAD_SEL
  | RP_THREAD_STATE
  | RP_ACC_STATE
  | RP_ACC_OVF
  | RP_DC_STATUS
  | RP_ISSUED
  | RP_IDLE
  | RP_SP_WAITS
  | RP_DRAINS
  | CK_STATUS
  | CK_CTRL
  | CK_CONFIG
  | CK_GAIN
  | CK_GAIN_COMMIT
  | CK_SAT_COUNT
  | CK_STEP_COUNT
  | CK_SKIP_COUNT
  | CK_REF_A
  | CK_REF_B
  | CK_REF_SEQ
  | CK_SAT_FLAG
  | CK_REMAP
  | CK_PIN
  | CK_REMAP_COMMIT
  deriving DecidableEq, Repr

/-- The description of each register: where it lies and what fields it has (its register table). -/
def RegName.desc : RegName → RegDesc
  | .DEV_ID => ⟨.abs 0x0, 0x0, 1, .none, .none, false,
      [⟨31, 16, .ro, 0x4096, 0, none, 0, false⟩, ⟨15, 12, .ro, 0, 0, none, 0, false⟩, ⟨11, 8, .ro, 0, 0, none, 0, false⟩]⟩
  | .PX_STATUS => ⟨.abs 0x100, 0x0, 1, .none, .none, false,
      [⟨31, 31, .ro, 0, 0, none, 0, false⟩, ⟨30, 30, .ro, 0, 0, none, 0, false⟩, ⟨29, 29, .ro, 0, 0, none, 0, false⟩, ⟨19, 16, .ro, 0, 0, none, 0, false⟩, ⟨2, 0, .ro, 0, 0, none, 0, false⟩]⟩
  | .PX_ECRC_ERRS => ⟨.abs 0x104, 0x0, 1, .none, .none, false,
      [⟨31, 0, .ro, 0, 0, none, 0, false⟩]⟩
  | .PM_ON => ⟨.abs 0x200, 0x4, 3, .pm, .none, false,
      [⟨31, 0, .rw, 0, 0, none, 0, false⟩]⟩
  | .PM_STATE => ⟨.abs 0x210, 0x4, 3, .pm, .none, false,
      [⟨31, 0, .ro, 0, 0, none, 0, false⟩]⟩
  | .PM_STATUS => ⟨.abs 0x220, 0x0, 1, .pm, .none, false,
      [⟨31, 31, .ro, 0, 0, none, 0, false⟩, ⟨0, 0, .ro, 0, 0, none, 0, false⟩]⟩
  | .BOOT_STATUS => ⟨.abs 0x300, 0x0, 1, .pm, .none, false,
      [⟨31, 28, .ro, 0, 0, none, 0, false⟩, ⟨27, 24, .ro, 0, 0, none, 0, false⟩, ⟨23, 16, .ro, 0, 0, none, 0, false⟩, ⟨15, 8, .ro, 0, 0, none, 0, false⟩, ⟨5, 0, .ro, 0, 0, none, 0, false⟩]⟩
  | .BOOT_CMD => ⟨.abs 0x304, 0x0, 1, .pm, .none, false,
      [⟨31, 31, .wo, 0, 0, none, 0, false⟩]⟩
  | .LIB_BASE_LO => ⟨.abs 0x310, 0x0, 1, .pm, .rings, false,
      [⟨31, 0, .rw, 0, 0, none, 26, true⟩]⟩
  | .LIB_BASE_HI => ⟨.abs 0x314, 0x0, 1, .pm, .rings, false,
      [⟨31, 0, .rw, 0, 0, none, 0, true⟩]⟩
  | .LG_CTRL => ⟨.abs 0x100000, 0x0, 1, .ledger, .none, false,
      [⟨0, 0, .rw, 0, 0, none, 0, false⟩]⟩
  | .LG_VPP_LIMIT => ⟨.abs 0x100010, 0x0, 1, .ledger, .none, false,
      [⟨6, 0, .rw, 0x40, 1, (some 64), 0, false⟩]⟩
  | .LG_VPP_STATUS => ⟨.abs 0x100014, 0x0, 1, .ledger, .none, false,
      [⟨31, 31, .w1c, 0, 0, none, 0, false⟩, ⟨28, 16, .ro, 0, 0, none, 0, false⟩, ⟨6, 0, .ro, 0, 0, none, 0, false⟩]⟩
  | .LG_ROW_SEL => ⟨.abs 0x100020, 0x0, 1, .ledger, .none, false,
      [⟨31, 31, .rw, 0, 0, none, 0, false⟩, ⟨20, 9, .rw, 0, 0, none, 0, false⟩, ⟨8, 0, .rw, 0, 0, none, 0, false⟩]⟩
  | .LG_ROW_DATA => ⟨.abs 0x100024, 0x0, 1, .ledger, .selCask, false,
      [⟨20, 16, .rw, 0, 0, (some 16), 0, true⟩, ⟨12, 0, .rw, 0, 0, (some 7980), 0, true⟩]⟩
  | .LG_HOME_SEL => ⟨.abs 0x100028, 0x0, 1, .ledger, .none, false,
      [⟨11, 0, .rw, 0, 0, none, 0, false⟩]⟩
  | .LG_HOME_DATA => ⟨.abs 0x10002c, 0x0, 1, .ledger, .none, false,
      [⟨4, 0, .rw, 0, 0, none, 0, false⟩]⟩
  | .LG_POOL_LIMIT => ⟨.abs 0x100100, 0x40, 4, .ledger, .none, false,
      [⟨8, 0, .rw, 0x100, 16, (some 256), 0, false⟩]⟩
  | .LG_POOL_STATUS => ⟨.abs 0x100104, 0x40, 4, .ledger, .none, false,
      [⟨31, 31, .w1c, 0, 0, none, 0, false⟩, ⟨30, 30, .ro, 0, 0, none, 0, false⟩, ⟨25, 16, .ro, 0, 0, none, 0, false⟩, ⟨8, 0, .ro, 0x100, 0, none, 0, false⟩]⟩
  | .LG_GRANTS => ⟨.abs 0x100108, 0x40, 4, .ledger, .none, false,
      [⟨31, 0, .ro, 0, 0, none, 0, false⟩]⟩
  | .LG_SLIDES => ⟨.abs 0x10010c, 0x40, 4, .ledger, .none, false,
      [⟨31, 0, .ro, 0, 0, none, 0, false⟩]⟩
  | .LG_DEFERS => ⟨.abs 0x100110, 0x40, 4, .ledger, .none, false,
      [⟨31, 0, .ro, 0, 0, none, 0, false⟩]⟩
  | .LG_SUBSTEPS => ⟨.abs 0x100114, 0x40, 4, .ledger, .none, false,
      [⟨31, 0, .ro, 0, 0, none, 0, false⟩]⟩
  | .LG_PEAK => ⟨.abs 0x100118, 0x40, 4, .ledger, .none, false,
      [⟨8, 0, .rc, 0, 0, none, 0, false⟩]⟩
  | .RK_CTRL => ⟨.abs 0x101000, 0x0, 1, .rack, .none, false,
      [⟨8, 8, .rw, 0, 0, none, 0, false⟩, ⟨1, 1, .rw, 1, 0, none, 0, false⟩, ⟨0, 0, .rw, 1, 0, none, 0, false⟩]⟩
  | .RK_STATUS => ⟨.abs 0x101004, 0x0, 1, .rack, .none, false,
      [⟨31, 31, .ro, 0, 0, none, 0, false⟩, ⟨30, 30, .ro, 0, 0, none, 0, false⟩, ⟨29, 29, .ro, 0, 0, none, 0, false⟩, ⟨28, 28, .ro, 0, 0, none, 0, false⟩, ⟨12, 0, .ro, 0, 0, none, 0, false⟩]⟩
  | .RK_SHADOW_LO => ⟨.abs 0x101008, 0x0, 1, .rack, .rk, false,
      [⟨31, 0, .rw, 0, 0, none, 20, true⟩]⟩
  | .RK_SHADOW_HI => ⟨.abs 0x10100c, 0x0, 1, .rack, .rk, false,
      [⟨31, 0, .rw, 0, 0, none, 0, true⟩]⟩
  | .RK_LIMITS => ⟨.abs 0x101010, 0x0, 1, .rack, .rk, false,
      [⟨31, 24, .rw, 0x10, 1, none, 0, true⟩, ⟨15, 8, .rw, 0x20, 0, none, 0, true⟩, ⟨5, 0, .rw, 0x20, 8, none, 0, true⟩]⟩
  | .RK_REF_PERIOD => ⟨.abs 0x101014, 0x0, 1, .rack, .none, false,
      [⟨19, 0, .rw, 0x2710, 100, (some 1000000), 0, false⟩]⟩
  | .RK_POLICY => ⟨.abs 0x101020, 0x0, 1, .rack, .none, false,
      [⟨15, 8, .cw, 0x23, 5, (some 100), 0, false⟩, ⟨7, 0, .cw, 0x23, 5, (some 100), 0, false⟩]⟩
  | .RK_RANGE => ⟨.abs 0x101024, 0x0, 1, .rack, .none, false,
      [⟨31, 24, .cw, 5, 0, none, 0, false⟩, ⟨23, 16, .cw, 0x1e, 0, none, 0, false⟩, ⟨15, 8, .cw, 0xa, 0, none, 0, false⟩, ⟨7, 0, .cw, 0x1e, 0, (some 60), 0, false⟩]⟩
  | .RK_POLICY_COMMIT => ⟨.abs 0x101028, 0x0, 1, .rack, .none, true,
      [⟨31, 31, .ro, 0, 0, none, 0, false⟩, ⟨30, 30, .w1c, 0, 0, none, 0, false⟩, ⟨17, 16, .wo, 0, 0, none, 0, false⟩, ⟨15, 0, .ro, 0, 0, none, 0, false⟩]⟩
  | .RK_CASK_SEL => ⟨.abs 0x101040, 0x0, 1, .rack, .none, false,
      [⟨11, 0, .rw, 0, 0, none, 0, false⟩]⟩
  | .RK_CASK_STATE => ⟨.abs 0x101044, 0x0, 1, .rack, .none, false,
      [⟨31, 31, .ro, 0, 0, none, 0, false⟩, ⟨30, 30, .ro, 0, 0, none, 0, false⟩, ⟨29, 29, .ro, 0, 0, none, 0, false⟩, ⟨28, 28, .ro, 0, 0, none, 0, false⟩, ⟨27, 27, .ro, 0, 0, none, 0, false⟩, ⟨26, 26, .ro, 0, 0, none, 0, false⟩, ⟨20, 16, .ro, 0, 0, none, 0, false⟩, ⟨9, 0, .ro, 0, 0, none, 0, false⟩]⟩
  | .RK_CASK_FIT => ⟨.abs 0x101048, 0x0, 1, .rack, .none, false,
      [⟨31, 16, .ro, 0, 0, none, 0, false⟩, ⟨15, 0, .ro, 0, 0, none, 0, false⟩]⟩
  | .RK_CASK_AGE => ⟨.abs 0x10104c, 0x0, 1, .rack, .none, false,
      [⟨31, 20, .ro, 0, 0, none, 0, false⟩, ⟨19, 0, .ro, 0, 0, none, 0, false⟩]⟩
  | .RK_DIGEST => ⟨.abs 0x101080, 0x4, 12, .rack, .none, false,
      [⟨31, 0, .ro, 0, 0, none, 0, false⟩]⟩
  | .CT_CTRL => ⟨.abs 0x102000, 0x0, 1, .ct, .none, false,
      [⟨8, 8, .rw, 0, 0, none, 0, false⟩, ⟨5, 5, .rw, 1, 0, none, 0, false⟩, ⟨4, 4, .rw, 1, 0, none, 0, false⟩, ⟨3, 3, .rw, 1, 0, none, 0, false⟩, ⟨2, 2, .rw, 0, 0, none, 0, false⟩, ⟨1, 1, .rw, 1, 0, none, 0, false⟩, ⟨0, 0, .rw, 1, 0, none, 0, false⟩]⟩
  | .CT_STATUS => ⟨.abs 0x102004, 0x0, 1, .ct, .none, false,
      [⟨31, 31, .ro, 0, 0, none, 0, false⟩, ⟨30, 30, .ro, 0, 0, none, 0, false⟩, ⟨11, 0, .ro, 0, 0, none, 0, false⟩]⟩
  | .CT_CHK_TOL => ⟨.abs 0x102010, 0x0, 1, .ct, .none, false,
      [⟨23, 16, .cw, 4, 0, none, 0, false⟩, ⟨11, 0, .cw, 0x90, 1, none, 0, false⟩]⟩
  | .CT_TASTE_TOL => ⟨.abs 0x102014, 0x0, 1, .ct, .none, false,
      [⟨15, 8, .cw, 2, 0, none, 0, false⟩, ⟨7, 0, .cw, 0xf, 1, none, 0, false⟩]⟩
  | .CT_CHECK_COMMIT => ⟨.abs 0x102018, 0x0, 1, .ct, .none, true,
      [⟨31, 31, .ro, 0, 0, none, 0, false⟩, ⟨30, 30, .w1c, 0, 0, none, 0, false⟩, ⟨17, 16, .wo, 0, 0, none, 0, false⟩, ⟨15, 0, .ro, 0, 0, none, 0, false⟩]⟩
  | .CT_TASTE_CFG => ⟨.abs 0x102020, 0x0, 1, .ct, .taste, false,
      [⟨9, 8, .rw, 1, 0, none, 0, true⟩, ⟨7, 0, .rw, 0x10, 1, none, 0, true⟩]⟩
  | .CT_TASTE_BASE_LO => ⟨.abs 0x102028, 0x0, 1, .ct, .taste, false,
      [⟨31, 0, .rw, 0, 0, none, 20, true⟩]⟩
  | .CT_TASTE_BASE_HI => ⟨.abs 0x10202c, 0x0, 1, .ct, .taste, false,
      [⟨31, 0, .rw, 0, 0, none, 0, true⟩]⟩
  | .CT_ESC_CLAMPS => ⟨.abs 0x102040, 0x0, 1, .ct, .none, false,
      [⟨31, 0, .ro, 0, 0, none, 0, false⟩]⟩
  | .CT_CHK_FAILS => ⟨.abs 0x102044, 0x0, 1, .ct, .none, false,
      [⟨31, 0, .ro, 0, 0, none, 0, false⟩]⟩
  | .CT_TASTE_RUNS => ⟨.abs 0x102048, 0x0, 1, .ct, .none, false,
      [⟨31, 0, .ro, 0, 0, none, 0, false⟩]⟩
  | .CT_TASTE_FAILS => ⟨.abs 0x10204c, 0x0, 1, .ct, .none, false,
      [⟨31, 0, .ro, 0, 0, none, 0, false⟩]⟩
  | .QT_CTRL => ⟨.abs 0x103000, 0x0, 1, .qt, .none, false,
      [⟨8, 8, .rw, 0, 0, none, 0, false⟩, ⟨1, 1, .rw, 0, 0, none, 0, false⟩, ⟨0, 0, .rw, 1, 0, none, 0, false⟩]⟩
  | .QT_STATUS => ⟨.abs 0x103004, 0x0, 1, .qt, .none, false,
      [⟨31, 31, .ro, 0, 0, none, 0, false⟩, ⟨30, 30, .ro, 0, 0, none, 0, false⟩, ⟨29, 29, .ro, 0, 0, none, 0, false⟩]⟩
  | .RS_BASE_LO => ⟨.abs 0x103010, 0x0, 1, .qt, .refold, false,
      [⟨31, 0, .rw, 0, 0, none, 20, true⟩]⟩
  | .RS_BASE_HI => ⟨.abs 0x103014, 0x0, 1, .qt, .refold, false,
      [⟨31, 0, .rw, 0, 0, none, 0, true⟩]⟩
  | .RS_GROUPS_LO => ⟨.abs 0x103018, 0x0, 1, .qt, .refold, false,
      [⟨31, 0, .rw, 0, 0, none, 20, true⟩]⟩
  | .RS_GROUPS_HI => ⟨.abs 0x10301c, 0x0, 1, .qt, .refold, false,
      [⟨31, 0, .rw, 0, 0, none, 0, true⟩]⟩
  | .RS_REFOLD => ⟨.abs 0x103020, 0x0, 1, .qt, .none, false,
      [⟨31, 31, .wo, 0, 0, none, 0, false⟩, ⟨7, 0, .wo, 0, 0, none, 0, false⟩]⟩
  | .RS_COMMIT => ⟨.abs 0x103024, 0x0, 1, .qt, .none, true,
      [⟨31, 31, .ro, 0, 0, none, 0, false⟩, ⟨30, 30, .w1c, 0, 0, none, 0, false⟩, ⟨17, 16, .wo, 0, 0, none, 0, false⟩, ⟨15, 0, .ro, 0, 0, none, 0, false⟩]⟩
  | .RS_SEL => ⟨.abs 0x103028, 0x0, 1, .qt, .none, false,
      [⟨20, 13, .rw, 0, 0, none, 0, false⟩, ⟨12, 0, .rw, 0, 0, none, 0, false⟩]⟩
  | .RS_DATA => ⟨.abs 0x10302c, 0x0, 1, .qt, .none, false,
      [⟨31, 0, .ro, 0x3f800000, 0, none, 0, false⟩]⟩
  | .QT_ZRANGE => ⟨.abs 0x103040, 0x0, 1, .qt, .none, false,
      [⟨31, 0, .ro, 0, 0, none, 0, false⟩]⟩
  | .QT_CLAMPS => ⟨.abs 0x103044, 0x0, 1, .qt, .none, false,
      [⟨31, 0, .ro, 0, 0, none, 0, false⟩]⟩
  | .QT_RAISES => ⟨.abs 0x103048, 0x0, 1, .qt, .none, false,
      [⟨31, 0, .ro, 0, 0, none, 0, false⟩]⟩
  | .QT_SKEWS => ⟨.abs 0x10304c, 0x0, 1, .qt, .none, false,
      [⟨31, 0, .ro, 0, 0, none, 0, false⟩]⟩
  | .QT_NONFINITE => ⟨.abs 0x103050, 0x0, 1, .qt, .none, false,
      [⟨31, 0, .ro, 0, 0, none, 0, false⟩]⟩
  | .CAL_CTRL => ⟨.abs 0x104000, 0x0, 1, .cal, .cal, false,
      [⟨31, 31, .wo, 0, 0, none, 0, false⟩, ⟨30, 30, .wo, 0, 0, none, 0, false⟩, ⟨27, 16, .rw, 0, 0, none, 0, true⟩, ⟨8, 8, .rw, 0, 0, none, 0, true⟩, ⟨3, 0, .rw, 0, 0, (some 5), 0, true⟩]⟩
  | .CAL_STATUS => ⟨.abs 0x104004, 0x0, 1, .cal, .none, false,
      [⟨31, 31, .ro, 0, 0, none, 0, false⟩, ⟨30, 30, .ro, 0, 0, none, 0, false⟩, ⟨29, 29, .ro, 0, 0, none, 0, false⟩, ⟨7, 0, .ro, 0, 0, none, 0, false⟩]⟩
  | .CAL_REFCAL_UV => ⟨.abs 0x104008, 0x0, 1, .cal, .cal, false,
      [⟨31, 0, .rw, 0x1f4000, 1000000, (some 2400000), 0, true⟩]⟩
  | .CAL_SYS_UV => ⟨.abs 0x10400c, 0x4, 2, .cal, .cal, false,
      [⟨31, 0, .rw, 0, 0, none, 0, true⟩]⟩
  | .CAL_TOL => ⟨.abs 0x104014, 0x0, 1, .cal, .cal, false,
      [⟨31, 24, .rw, 4, 1, none, 0, true⟩, ⟨23, 16, .rw, 5, 1, none, 0, true⟩, ⟨15, 0, .rw, 0x32, 1, none, 0, true⟩]⟩
  | .CAL_HOST_TIME => ⟨.abs 0x104018, 0x4, 2, .cal, .cal, false,
      [⟨31, 0, .rw, 0, 0, none, 0, true⟩]⟩
  | .CAL_VINTAGE => ⟨.abs 0x104020, 0x0, 1, .cal, .none, false,
      [⟨31, 0, .ro, 0, 0, none, 0, false⟩]⟩
  | .CAL_COUNT => ⟨.abs 0x104024, 0x0, 1, .cal, .none, false,
      [⟨31, 0, .ro, 0, 0, none, 0, false⟩]⟩
  | .CAL_LAST_TIME => ⟨.abs 0x104028, 0x4, 2, .cal, .none, false,
      [⟨31, 0, .ro, 0, 0, none, 0, false⟩]⟩
  | .CAL_LAST_POS => ⟨.abs 0x104030, 0x4, 2, .cal, .none, false,
      [⟨31, 0, .ro, 0, 0, none, 0, false⟩]⟩
  | .CAL_LAST_FRAME => ⟨.abs 0x104038, 0x0, 1, .cal, .none, false,
      [⟨31, 0, .ro, 0, 0, none, 0, false⟩]⟩
  | .CAL_DIFF => ⟨.abs 0x10403c, 0x0, 1, .cal, .none, false,
      [⟨31, 0, .ro, 0, 0, none, 0, false⟩]⟩
  | .CAL_REJECTS => ⟨.abs 0x104040, 0x0, 1, .cal, .none, false,
      [⟨31, 0, .ro, 0, 0, none, 0, false⟩]⟩
  | .CAL_SKIPS => ⟨.abs 0x104044, 0x0, 1, .cal, .none, false,
      [⟨31, 0, .ro, 0, 0, none, 0, false⟩]⟩
  | .MC_STATUS => ⟨.abs 0x200000, 0x0, 1, .mem, .none, false,
      [⟨31, 31, .ro, 0, 0, none, 0, false⟩, ⟨30, 30, .ro, 0, 0, none, 0, false⟩, ⟨29, 29, .ro, 0, 0, none, 0, false⟩, ⟨1, 0, .ro, 0, 0, none, 0, false⟩]⟩
  | .MC_CTRL => ⟨.abs 0x200004, 0x0, 1, .mem, .dma, false,
      [⟨8, 8, .rw, 0, 0, none, 0, false⟩, ⟨0, 0, .rw, 1, 0, none, 0, true⟩]⟩
  | .MC_USABLE_LO => ⟨.abs 0x200008, 0x0, 1, .mem, .none, false,
      [⟨31, 0, .ro, 0, 0, none, 0, false⟩]⟩
  | .MC_USABLE_HI => ⟨.abs 0x20000c, 0x0, 1, .mem, .none, false,
      [⟨31, 0, .ro, 0, 0, none, 0, false⟩]⟩
  | .MC_SCRUB_BASE_LO => ⟨.abs 0x200020, 0x0, 1, .mem, .scrub, false,
      [⟨31, 0, .rw, 0, 0, none, 5, true⟩]⟩
  | .MC_SCRUB_BASE_HI => ⟨.abs 0x200024, 0x0, 1, .mem, .scrub, false,
      [⟨31, 0, .rw, 0, 0, none, 0, true⟩]⟩
  | .MC_SCRUB_LEN_LO => ⟨.abs 0x200028, 0x0, 1, .mem, .scrub, false,
      [⟨31, 0, .rw, 0, 0, none, 5, true⟩]⟩
  | .MC_SCRUB_LEN_HI => ⟨.abs 0x20002c, 0x0, 1, .mem, .scrub, false,
      [⟨31, 0, .rw, 0, 0, none, 0, true⟩]⟩
  | .MC_SCRUB_CTRL => ⟨.abs 0x200030, 0x0, 1, .mem, .none, false,
      [⟨31, 31, .wo, 0, 0, none, 0, false⟩, ⟨30, 30, .wo, 0, 0, none, 0, false⟩, ⟨5, 0, .rw, 0x10, 1, none, 0, false⟩]⟩
  | .MC_SCRUB_ERRORS => ⟨.abs 0x200034, 0x0, 1, .mem, .none, false,
      [⟨31, 0, .ro, 0, 0, none, 0, false⟩]⟩
  | .MC_SCRUB_FIRST => ⟨.abs 0x200038, 0x4, 2, .mem, .none, false,
      [⟨31, 0, .ro, 0xffffffff, 0, none, 0, false⟩]⟩
  | .MC_SCRUB_LAST => ⟨.abs 0x200040, 0x4, 2, .mem, .none, false,
      [⟨31, 0, .ro, 0xffffffff, 0, none, 0, false⟩]⟩
  | .MC_SCRUB_TIME => ⟨.abs 0x200048, 0x0, 1, .mem, .none, false,
      [⟨31, 0, .ro, 0, 0, none, 0, false⟩]⟩
  | .MC_ERR_ADDR => ⟨.abs 0x200050, 0x4, 2, .mem, .none, false,
      [⟨31, 0, .ro, 0, 0, none, 0, false⟩]⟩
  | .MC_ERR_SRC => ⟨.abs 0x200058, 0x0, 1, .mem, .none, false,
      [⟨31, 28, .ro, 0, 0, none, 0, false⟩, ⟨27, 27, .ro, 0, 0, none, 0, false⟩, ⟨15, 0, .ro, 0, 0, none, 0, false⟩]⟩
  | .MC_PARITY_ERRS => ⟨.abs 0x200060, 0x0, 1, .mem, .none, false,
      [⟨31, 0, .ro, 0, 0, none, 0, false⟩]⟩
  | .MC_LINK_CORR => ⟨.abs 0x200064, 0x0, 1, .mem, .none, false,
      [⟨31, 0, .ro, 0, 0, none, 0, false⟩]⟩
  | .MC_SEAL_FAILS => ⟨.abs 0x200068, 0x0, 1, .mem, .none, false,
      [⟨31, 0, .ro, 0, 0, none, 0, false⟩]⟩
  | .MC_POISONS => ⟨.abs 0x20006c, 0x0, 1, .mem, .none, false,
      [⟨31, 0, .ro, 0, 0, none, 0, false⟩]⟩
  | .MC_SUBSECTOR => ⟨.abs 0x200070, 0x0, 1, .mem, .none, false,
      [⟨31, 0, .ro, 0, 0, none, 0, false⟩]⟩
  | .MC_TRELLIS_RETRIES => ⟨.abs 0x200074, 0x0, 1, .mem, .none, false,
      [⟨31, 0, .ro, 0, 0, none, 0, false⟩]⟩
  | .RG_TABLE_LO => ⟨.abs 0x300000, 0x0, 1, .ring, .rings, false,
      [⟨31, 0, .rw, 0, 0, none, 12, true⟩]⟩
  | .RG_TABLE_HI => ⟨.abs 0x300004, 0x0, 1, .ring, .rings, false,
      [⟨31, 0, .rw, 0, 0, none, 0, true⟩]⟩
  | .RG_STATUS => ⟨.abs 0x300008, 0x0, 1, .ring, .none, false,
      [⟨31, 31, .ro, 1, 0, none, 0, false⟩, ⟨16, 0, .ro, 0, 0, none, 0, false⟩]⟩
  | .RG_SEL => ⟨.abs 0x300010, 0x0, 1, .ring, .none, false,
      [⟨15, 0, .rw, 0, 0, none, 0, false⟩]⟩
  | .RG_CMD => ⟨.abs 0x300014, 0x0, 1, .ring, .none, false,
      [⟨2, 2, .wo, 0, 0, none, 0, false⟩, ⟨1, 0, .wo, 0, 0, none, 0, false⟩]⟩
  | .RG_STATE => ⟨.abs 0x300018, 0x0, 1, .ring, .none, false,
      [⟨31, 28, .ro, 0, 0, none, 0, false⟩, ⟨25, 24, .ro, 0, 0, none, 0, false⟩, ⟨4, 0, .ro, 0, 0, none, 0, false⟩]⟩
  | .RG_HEAD => ⟨.abs 0x30001c, 0x0, 1, .ring, .none, false,
      [⟨31, 0, .ro, 0, 0, none, 0, false⟩]⟩
  | .RG_TAIL => ⟨.abs 0x300020, 0x0, 1, .ring, .none, false,
      [⟨31, 0, .ro, 0, 0, none, 0, false⟩]⟩
  | .RG_GATE_POOL => ⟨.abs 0x300024, 0x0, 1, .ring, .rings, false,
      [⟨11, 0, .rw, 0x100, 0, (some 2048), 0, true⟩]⟩
  | .RG_ESTATE_TMO => ⟨.abs 0x300028, 0x0, 1, .ring, .none, false,
      [⟨19, 0, .rw, 0x3e8, 1, (some 1000000), 0, false⟩]⟩
  | .SY_SEL => ⟨.abs 0x300030, 0x0, 1, .ring, .none, false,
      [⟨31, 31, .w1c, 0, 0, none, 0, false⟩, ⟨15, 0, .rw, 0, 0, none, 0, false⟩]⟩
  | .SY_COUNT => ⟨.abs 0x300034, 0x0, 1, .ring, .none, false,
      [⟨31, 0, .ro, 0, 0, none, 0, false⟩]⟩
  | .SY_SIGNAL => ⟨.abs 0x300038, 0x0, 1, .ring, .none, false,
      [⟨31, 0, .wo, 0, 0, none, 0, false⟩]⟩
  | .EQ_BASE_LO => ⟨.abs 0x300100, 0x20, 16, .ring, .eq, false,
      [⟨31, 0, .rw, 0, 0, none, 12, true⟩]⟩
  | .EQ_BASE_HI => ⟨.abs 0x300104, 0x20, 16, .ring, .eq, false,
      [⟨31, 0, .rw, 0, 0, none, 0, true⟩]⟩
  | .EQ_CFG => ⟨.abs 0x300108, 0x20, 16, .ring, .eq, false,
      [⟨31, 31, .rw, 0, 0, none, 0, false⟩, ⟨20, 16, .rw, 6, 6, (some 16), 0, true⟩, ⟨10, 0, .rw, 0, 0, none, 0, false⟩]⟩
  | .EQ_HEAD => ⟨.abs 0x30010c, 0x20, 16, .ring, .none, false,
      [⟨31, 0, .rw, 0, 0, none, 0, false⟩]⟩
  | .EQ_TAIL => ⟨.abs 0x300110, 0x20, 16, .ring, .none, false,
      [⟨31, 0, .ro, 0, 0, none, 0, false⟩]⟩
  | .EQ_ARM => ⟨.abs 0x300114, 0x20, 16, .ring, .none, false,
      [⟨0, 0, .wo, 0, 0, none, 0, false⟩]⟩
  | .EQ_LOST => ⟨.abs 0x300118, 0x20, 16, .ring, .none, false,
      [⟨31, 0, .rc, 0, 0, none, 0, false⟩]⟩
  | .EV_ROUTE => ⟨.abs 0x300300, 0x4, 15, .ring, .none, false,
      [⟨31, 31, .rw, 1, 0, none, 0, false⟩, ⟨3, 0, .rw, 0, 0, none, 0, false⟩]⟩
  | .POS_CTRL => ⟨.abs 0x400000, 0x0, 1, .pos, .none, false,
      [⟨2, 2, .rw, 0, 0, none, 0, false⟩, ⟨1, 0, .rw, 0, 0, (some 2), 0, false⟩]⟩
  | .POS_STATUS => ⟨.abs 0x400004, 0x0, 1, .pos, .none, false,
      [⟨31, 31, .ro, 0, 0, none, 0, false⟩, ⟨30, 30, .ro, 0, 0, none, 0, false⟩, ⟨29, 29, .w1c, 0, 0, none, 0, false⟩, ⟨28, 28, .ro, 0, 0, none, 0, false⟩, ⟨1, 0, .ro, 0, 0, none, 0, false⟩]⟩
  | .POS_CHECK => ⟨.abs 0x400008, 0x0, 1, .pos, .none, false,
      [⟨31, 24, .rw, 8, 1, none, 0, false⟩, ⟨15, 8, .rw, 4, 0, none, 0, false⟩, ⟨7, 0, .rw, 5, 1, (some 128), 0, false⟩]⟩
  | .POS_CPR => ⟨.abs 0x40000c, 0x0, 1, .pos, .none, false,
      [⟨31, 0, .rw, 0, 0, none, 0, false⟩]⟩
  | .POS_STILL => ⟨.abs 0x400010, 0x0, 1, .pos, .none, false,
      [⟨15, 0, .rw, 0x7d0, 1, none, 0, false⟩]⟩
  | .POS_RATE_MAX => ⟨.abs 0x400014, 0x0, 1, .pos, .none, false,
      [⟨20, 0, .rw, 0x1e8480, 1000, (some 2000000), 0, false⟩]⟩
  | .POS_REV_MAX => ⟨.abs 0x400018, 0x0, 1, .pos, .none, false,
      [⟨31, 0, .rw, 0x186a0, 1, none, 0, false⟩]⟩
  | .POS_NUM => ⟨.abs 0x400020, 0x0, 1, .pos, .none, false,
      [⟨31, 0, .cw, 1, 1, none, 0, false⟩]⟩
  | .POS_DEN => ⟨.abs 0x400024, 0x0, 1, .pos, .none, false,
      [⟨31, 0, .cw, 1, 1, none, 0, false⟩]⟩
  | .POS_FRAME_LEN => ⟨.abs 0x400028, 0x0, 1, .pos, .none, false,
      [⟨31, 0, .cw, 0xf4240, 0, none, 0, false⟩]⟩
  | .POS_SCALE_COMMIT => ⟨.abs 0x40002c, 0x0, 1, .pos, .none, true,
      [⟨31, 31, .ro, 0, 0, none, 0, false⟩, ⟨30, 30, .w1c, 0, 0, none, 0, false⟩, ⟨17, 16, .wo, 0, 0, none, 0, false⟩, ⟨15, 0, .ro, 0, 0, none, 0, false⟩]⟩
  | .POS_SYN_RATE => ⟨.abs 0x400030, 0x0, 1, .pos, .none, false,
      [⟨31, 31, .rw, 0, 0, none, 0, false⟩, ⟨20, 0, .rw, 0, 0, (some 2000000), 0, false⟩]⟩
  | .POS_SYN_STEP => ⟨.abs 0x400034, 0x0, 1, .pos, .none, false,
      [⟨15, 0, .wo, 0, 0, none, 0, false⟩]⟩
  | .POS_COUNT => ⟨.abs 0x400040, 0x4, 2, .pos, .none, false,
      [⟨31, 0, .ro, 0, 0, none, 0, false⟩]⟩
  | .POS_UM => ⟨.abs 0x400048, 0x4, 2, .pos, .none, false,
      [⟨31, 0, .ro, 0, 0, none, 0, false⟩]⟩
  | .POS_FRAME => ⟨.abs 0x400050, 0x4, 2, .pos, .none, false,
      [⟨31, 0, .ro, 0, 0, none, 0, false⟩]⟩
  | .POS_PPS => ⟨.abs 0x400058, 0x4, 2, .pos, .none, false,
      [⟨31, 0, .ro, 0, 0, none, 0, false⟩]⟩
  | .POS_QUAD_ERRS => ⟨.abs 0x400060, 0x0, 1, .pos, .none, false,
      [⟨31, 0, .ro, 0, 0, none, 0, false⟩]⟩
  | .POS_IDX_ERRS => ⟨.abs 0x400064, 0x0, 1, .pos, .none, false,
      [⟨31, 0, .ro, 0, 0, none, 0, false⟩]⟩
  | .POS_RATE_ERRS => ⟨.abs 0x400068, 0x0, 1, .pos, .none, false,
      [⟨31, 0, .ro, 0, 0, none, 0, false⟩]⟩
  | .PET_MISSES => ⟨.abs 0x40006c, 0x0, 1, .pos, .none, false,
      [⟨31, 0, .ro, 0, 0, none, 0, false⟩]⟩
  | .PET_SEL => ⟨.abs 0x400080, 0x0, 1, .pos, .none, false,
      [⟨11, 0, .rw, 0, 0, none, 0, false⟩]⟩
  | .PET_W => ⟨.abs 0x400084, 0x4, 4, .pos, .none, false,
      [⟨31, 0, .rw, 0, 0, none, 0, false⟩]⟩
  | .FE_ADC_CTRL => ⟨.abs 0x401000, 0x0, 1, .pos, .adc, false,
      [⟨31, 31, .rw, 0, 0, none, 0, false⟩, ⟨30, 30, .rw, 0, 0, none, 0, true⟩, ⟨18, 16, .rw, 0, 0, (some 4), 0, true⟩, ⟨12, 8, .rw, 0, 0, (some 16), 0, true⟩, ⟨1, 0, .rw, 0, 0, (some 2), 0, true⟩]⟩
  | .FE_ADC_STATUS => ⟨.abs 0x401004, 0x0, 1, .pos, .none, false,
      [⟨31, 31, .ro, 1, 0, none, 0, false⟩, ⟨30, 30, .ro, 0, 0, none, 0, false⟩, ⟨29, 29, .ro, 0, 0, none, 0, false⟩, ⟨28, 28, .ro, 0, 0, none, 0, false⟩, ⟨27, 27, .ro, 0, 0, none, 0, false⟩, ⟨15, 0, .ro, 0, 0, none, 0, false⟩]⟩
  | .FE_TIMER => ⟨.abs 0x401008, 0x0, 1, .pos, .adc, false,
      [⟨31, 0, .rw, 0x30d40, 100, none, 0, true⟩]⟩
  | .FE_REG_TRIG => ⟨.abs 0x40100c, 0x0, 1, .pos, .adc, false,
      [⟨31, 29, .rw, 0, 0, (some 4), 0, true⟩, ⟨27, 24, .rw, 0, 0, none, 0, true⟩, ⟨23, 16, .rw, 0, 0, none, 0, true⟩, ⟨15, 0, .rw, 0, 0, none, 0, true⟩]⟩
  | .FE_INJ_TRIG => ⟨.abs 0x401010, 0x0, 1, .pos, .adc, false,
      [⟨31, 29, .rw, 0, 0, (some 4), 0, true⟩, ⟨27, 24, .rw, 0, 0, none, 0, true⟩, ⟨23, 16, .rw, 0, 0, none, 0, true⟩, ⟨15, 0, .rw, 0, 0, none, 0, true⟩]⟩
  | .FE_SW_TRIG => ⟨.abs 0x401014, 0x0, 1, .pos, .none, false,
      [⟨1, 0, .wo, 0, 0, none, 0, false⟩]⟩
  | .FE_REG_SLOT => ⟨.abs 0x401020, 0x4, 8, .pos, .adc, false,
      [⟨31, 26, .rw, 0, 0, (some 50), 0, true⟩, ⟨25, 20, .rw, 0, 0, none, 0, true⟩, ⟨15, 10, .rw, 0, 0, (some 50), 0, true⟩, ⟨9, 4, .rw, 0, 0, none, 0, true⟩]⟩
  | .FE_INJ_SLOT => ⟨.abs 0x401040, 0x4, 2, .pos, .adc, false,
      [⟨31, 26, .rw, 0, 0, (some 50), 0, true⟩, ⟨25, 20, .rw, 0, 0, none, 0, true⟩, ⟨15, 10, .rw, 0, 0, (some 50), 0, true⟩, ⟨9, 4, .rw, 0, 0, none, 0, true⟩]⟩
  | .FE_INJ_DATA => ⟨.abs 0x401048, 0x4, 2, .pos, .none, false,
      [⟨31, 16, .ro, 0, 0, none, 0, false⟩, ⟨15, 0, .ro, 0, 0, none, 0, false⟩]⟩
  | .FE_INJ_LIM => ⟨.abs 0x401050, 0x4, 4, .pos, .none, false,
      [⟨31, 16, .rw, 0, 0, none, 0, false⟩, ⟨15, 0, .rw, 0, 0, none, 0, false⟩]⟩
  | .FE_BUF_LO => ⟨.abs 0x401060, 0x0, 1, .pos, .adc, false,
      [⟨31, 0, .rw, 0, 0, none, 6, true⟩]⟩
  | .FE_BUF_HI => ⟨.abs 0x401064, 0x0, 1, .pos, .adc, false,
      [⟨31, 0, .rw, 0, 0, none, 0, true⟩]⟩
  | .FE_BUF_CFG => ⟨.abs 0x401068, 0x0, 1, .pos, .adc, false,
      [⟨4, 0, .rw, 6, 6, (some 20), 0, true⟩]⟩
  | .FE_BUF_WR => ⟨.abs 0x40106c, 0x0, 1, .pos, .none, false,
      [⟨31, 0, .ro, 0, 0, none, 0, false⟩]⟩
  | .FE_BUF_RD => ⟨.abs 0x401070, 0x0, 1, .pos, .none, false,
      [⟨31, 0, .rw, 0, 0, none, 0, false⟩]⟩
  | .FE_OVERRUNS => ⟨.abs 0x401080, 0x0, 1, .pos, .none, false,
      [⟨31, 0, .ro, 0, 0, none, 0, false⟩]⟩
  | .FE_LOST => ⟨.abs 0x401084, 0x0, 1, .pos, .none, false,
      [⟨31, 0, .ro, 0, 0, none, 0, false⟩]⟩
  | .FE_LIMIT_HITS => ⟨.abs 0x401088, 0x0, 1, .pos, .none, false,
      [⟨31, 0, .ro, 0, 0, none, 0, false⟩]⟩
  | .FE_DAC_CTRL => ⟨.abs 0x401100, 0x20, 8, .pos, .none, false,
      [⟨31, 16, .ro, 0, 0, none, 0, false⟩, ⟨7, 6, .rw, 1, 0, (some 2), 0, false⟩, ⟨5, 2, .rw, 0, 0, none, 0, false⟩, ⟨1, 0, .rw, 0, 0, (some 2), 0, false⟩]⟩
  | .FE_DAC_CODE => ⟨.abs 0x401104, 0x20, 8, .pos, .none, false,
      [⟨15, 0, .rw, 0, 0, none, 0, false⟩]⟩
  | .FE_DAC_INC => ⟨.abs 0x401108, 0x20, 8, .pos, .none, false,
      [⟨31, 0, .cw, 0, 0, none, 0, false⟩]⟩
  | .FE_DAC_WAVE => ⟨.abs 0x40110c, 0x20, 8, .pos, .none, false,
      [⟨31, 31, .cw, 0, 0, none, 0, false⟩, ⟨30, 16, .cw, 0, 0, none, 0, false⟩, ⟨15, 0, .cw, 0x8000, 0, none, 0, false⟩]⟩
  | .FE_DAC_SUP => ⟨.abs 0x401110, 0x20, 8, .pos, .none, false,
      [⟨31, 16, .rw, 0, 0, none, 0, false⟩, ⟨15, 0, .rw, 0x100, 0, none, 0, false⟩]⟩
  | .FE_DAC_STATUS => ⟨.abs 0x401114, 0x20, 8, .pos, .none, false,
      [⟨31, 31, .w1c, 0, 0, none, 0, false⟩, ⟨30, 29, .ro, 0, 0, none, 0, false⟩, ⟨28, 28, .w1c, 0, 0, none, 0, false⟩, ⟨15, 0, .ro, 0, 0, none, 0, false⟩]⟩
  | .FE_DAC_COMMIT => ⟨.abs 0x401118, 0x20, 8, .pos, .none, true,
      [⟨31, 31, .ro, 0, 0, none, 0, false⟩, ⟨30, 30, .w1c, 0, 0, none, 0, false⟩, ⟨17, 16, .wo, 0, 0, none, 0, false⟩, ⟨15, 0, .ro, 0, 0, none, 0, false⟩]⟩
  | .FE_TBL_IDX => ⟨.abs 0x401200, 0x0, 1, .pos, .none, false,
      [⟨11, 0, .rw, 0, 0, none, 0, false⟩]⟩
  | .FE_TBL_DATA => ⟨.abs 0x401204, 0x0, 1, .pos, .tbl, false,
      [⟨15, 0, .rw, 0, 0, none, 0, true⟩]⟩
  | .FE_PWM_CFG => ⟨.abs 0x401300, 0x10, 16, .pos, .none, false,
      [⟨2, 2, .cw, 0, 0, none, 0, false⟩, ⟨1, 0, .cw, 0, 0, none, 0, false⟩]⟩
  | .FE_PWM_A => ⟨.abs 0x401304, 0x10, 16, .pos, .none, false,
      [⟨31, 0, .cw, 0, 0, none, 0, false⟩]⟩
  | .FE_PWM_B => ⟨.abs 0x401308, 0x10, 16, .pos, .none, false,
      [⟨31, 0, .cw, 0, 0, none, 0, false⟩]⟩
  | .FE_PWM_COMMIT => ⟨.abs 0x40130c, 0x10, 16, .pos, .none, true,
      [⟨31, 31, .ro, 0, 0, none, 0, false⟩, ⟨30, 30, .w1c, 0, 0, none, 0, false⟩, ⟨17, 16, .wo, 0, 0, none, 0, false⟩, ⟨15, 0, .ro, 0, 0, none, 0, false⟩]⟩
  | .BV_CTRL => ⟨.abs 0x500000, 0x0, 1, .bv, .none, false,
      [⟨8, 8, .rw, 0, 0, none, 0, false⟩, ⟨3, 0, .rw, 0, 0, none, 0, false⟩]⟩
  | .BV_STATUS => ⟨.abs 0x500004, 0x0, 1, .bv, .none, false,
      [⟨31, 31, .ro, 0, 0, none, 0, false⟩, ⟨3, 0, .ro, 0, 0, none, 0, false⟩]⟩
  | .BV_IDENT => ⟨.abs 0x500008, 0x0, 1, .bv, .bv, false,
      [⟨15, 4, .rw, 0, 0, none, 0, true⟩, ⟨3, 0, .rw, 0, 0, none, 0, true⟩]⟩
  | .BV_MEMBERS => ⟨.abs 0x50000c, 0x0, 1, .bv, .bv, false,
      [⟨15, 0, .rw, 0, 0, none, 0, true⟩]⟩
  | .BV_PRESENT => ⟨.abs 0x500010, 0x0, 1, .bv, .none, false,
      [⟨15, 0, .ro, 0, 0, none, 0, false⟩]⟩
  | .BV_EPOCH => ⟨.abs 0x500014, 0x0, 1, .bv, .none, false,
      [⟨31, 0, .ro, 0, 0, none, 0, false⟩]⟩
  | .BV_RWAIT_TMO => ⟨.abs 0x500018, 0x0, 1, .bv, .none, false,
      [⟨19, 0, .rw, 0x32, 1, (some 1000000), 0, false⟩]⟩
  | .BV_ROUTE => ⟨.abs 0x500040, 0x4, 16, .bv, .bv, false,
      [⟨31, 31, .rw, 0, 0, none, 0, true⟩, ⟨30, 30, .rw, 0, 0, none, 0, true⟩, ⟨1, 0, .rw, 0, 0, none, 0, true⟩]⟩
  | .BV_PORT_STATUS => ⟨.abs 0x500100, 0x20, 4, .bv, .none, false,
      [⟨31, 28, .ro, 0, 0, none, 0, false⟩, ⟨5, 0, .ro, 0, 0, none, 0, false⟩]⟩
  | .BV_PORT_FEC => ⟨.abs 0x500104, 0x20, 4, .bv, .none, false,
      [⟨31, 0, .ro, 0, 0, none, 0, false⟩]⟩
  | .BV_PORT_REPLAYS => ⟨.abs 0x500108, 0x20, 4, .bv, .none, false,
      [⟨31, 0, .ro, 0, 0, none, 0, false⟩]⟩
  | .BV_PORT_DOWNS => ⟨.abs 0x50010c, 0x20, 4, .bv, .none, false,
      [⟨31, 0, .ro, 0, 0, none, 0, false⟩]⟩
  | .HG_CTRL => ⟨.abs 0x600000, 0x0, 1, .hg, .hang, false,
      [⟨10, 10, .rw, 1, 0, none, 0, false⟩, ⟨9, 9, .rw, 0, 0, none, 0, false⟩, ⟨8, 8, .rw, 1, 0, none, 0, false⟩, ⟨5, 4, .rw, 0, 0, none, 0, true⟩, ⟨2, 2, .rw, 1, 0, none, 0, false⟩, ⟨1, 1, .rw, 1, 0, none, 0, false⟩, ⟨0, 0, .rw, 1, 0, none, 0, false⟩]⟩
  | .HG_STATUS => ⟨.abs 0x600004, 0x0, 1, .hg, .none, false,
      [⟨31, 31, .ro, 0, 0, none, 0, false⟩, ⟨30, 28, .ro, 0, 0, none, 0, false⟩, ⟨12, 0, .ro, 0, 0, none, 0, false⟩]⟩
  | .HG_THREAD_BUDGET => ⟨.abs 0x600008, 0x0, 1, .hg, .none, false,
      [⟨15, 0, .rw, 0xa, 1, none, 0, false⟩]⟩
  | .HG_RING_BUDGET => ⟨.abs 0x60000c, 0x0, 1, .hg, .none, false,
      [⟨19, 0, .rw, 0x64, 1, (some 1000000), 0, false⟩]⟩
  | .HG_CASK_BUDGET => ⟨.abs 0x600010, 0x0, 1, .hg, .none, false,
      [⟨15, 0, .rw, 0x32, 5, none, 0, false⟩]⟩
  | .HG_DUMP_CFG => ⟨.abs 0x600014, 0x0, 1, .hg, .hang, false,
      [⟨23, 16, .rw, 0x32, 1, none, 0, true⟩, ⟨9, 0, .rw, 0x40, 0, (some 512), 0, true⟩]⟩
  | .HG_DUMP_BASE_LO => ⟨.abs 0x600018, 0x0, 1, .hg, .hang, false,
      [⟨31, 0, .rw, 0, 0, none, 28, true⟩]⟩
  | .HG_DUMP_BASE_HI => ⟨.abs 0x60001c, 0x0, 1, .hg, .hang, false,
      [⟨31, 0, .rw, 0, 0, none, 0, true⟩]⟩
  | .HG_DUMP_STATUS => ⟨.abs 0x600020, 0x0, 1, .hg, .none, false,
      [⟨31, 31, .w1c, 0, 0, none, 0, false⟩, ⟨30, 30, .ro, 0, 0, none, 0, false⟩, ⟨23, 0, .ro, 0, 0, none, 0, false⟩]⟩
  | .HG_RESET => ⟨.abs 0x600024, 0x0, 1, .hg, .none, false,
      [⟨31, 31, .wo, 0, 0, none, 0, false⟩, ⟨18, 16, .wo, 0, 0, none, 0, false⟩, ⟨11, 0, .wo, 0, 0, none, 0, false⟩]⟩
  | .HG_RESUME => ⟨.abs 0x600028, 0x0, 1, .hg, .none, false,
      [⟨31, 31, .wo, 0, 0, none, 0, false⟩, ⟨30, 30, .wo, 0, 0, none, 0, false⟩, ⟨18, 16, .wo, 0, 0, none, 0, false⟩, ⟨11, 0, .wo, 0, 0, none, 0, false⟩]⟩
  | .HG_RESET_CAUSE => ⟨.abs 0x60002c, 0x0, 1, .hg, .none, false,
      [⟨31, 28, .ro, 0, 0, none, 0, false⟩]⟩
  | .HG_INCIDENTS => ⟨.abs 0x600030, 0x0, 1, .hg, .none, false,
      [⟨31, 0, .ro, 0, 0, none, 0, false⟩]⟩
  | .HG_GUILTY => ⟨.abs 0x600034, 0x0, 1, .hg, .none, false,
      [⟨31, 0, .ro, 0, 0, none, 0, false⟩]⟩
  | .HG_REPLAYS => ⟨.abs 0x600038, 0x0, 1, .hg, .none, false,
      [⟨31, 0, .ro, 0, 0, none, 0, false⟩]⟩
  | .HG_ABORTS => ⟨.abs 0x60003c, 0x0, 1, .hg, .none, false,
      [⟨31, 0, .ro, 0, 0, none, 0, false⟩]⟩
  | .LC_STATE => ⟨.abs 0x700000, 0x0, 1, .pm, .none, false,
      [⟨31, 28, .ro, 0, 0, none, 0, false⟩, ⟨27, 27, .ro, 0, 0, none, 0, false⟩, ⟨11, 8, .ro, 0, 0, none, 0, false⟩]⟩
  | .LC_REQ => ⟨.abs 0x700004, 0x0, 1, .pm, .none, false,
      [⟨31, 16, .wo, 0, 0, none, 0, false⟩, ⟨3, 0, .wo, 0, 0, none, 0, false⟩]⟩
  | .LC_SVN => ⟨.abs 0x700008, 0x0, 1, .pm, .none, false,
      [⟨31, 16, .wo, 0, 0, none, 0, false⟩, ⟨5, 0, .ro, 0, 0, none, 0, false⟩]⟩
  | .LC_ERASE => ⟨.abs 0x70000c, 0x0, 1, .pm, .none, false,
      [⟨31, 16, .wo, 0, 0, none, 0, false⟩]⟩
  | .AT_CMD => ⟨.abs 0x700020, 0x0, 1, .pm, .none, false,
      [⟨31, 31, .wo, 0, 0, none, 0, false⟩, ⟨0, 0, .wo, 0, 0, none, 0, false⟩]⟩
  | .AT_STATUS => ⟨.abs 0x700024, 0x0, 1, .pm, .none, false,
      [⟨31, 31, .ro, 0, 0, none, 0, false⟩, ⟨30, 29, .ro, 0, 0, none, 0, false⟩, ⟨20, 0, .ro, 0, 0, none, 0, false⟩]⟩
  | .AT_BUF_LO => ⟨.abs 0x700028, 0x0, 1, .pm, .none, false,
      [⟨31, 0, .rw, 0, 0, none, 12, false⟩]⟩
  | .AT_BUF_HI => ⟨.abs 0x70002c, 0x0, 1, .pm, .none, false,
      [⟨31, 0, .rw, 0, 0, none, 0, false⟩]⟩
  | .AT_NONCE => ⟨.abs 0x700040, 0x4, 8, .pm, .none, false,
      [⟨31, 0, .rw, 0, 0, none, 0, false⟩]⟩
  | .JR_SEL => ⟨.abs 0x700080, 0x0, 1, .pm, .none, false,
      [⟨31, 0, .rw, 0, 0, none, 0, false⟩]⟩
  | .JR_STATUS => ⟨.abs 0x700084, 0x0, 1, .pm, .none, false,
      [⟨31, 31, .ro, 0, 0, none, 0, false⟩, ⟨30, 0, .ro, 0, 0, none, 0, false⟩]⟩
  | .JR_DATA => ⟨.abs 0x7000c0, 0x4, 16, .pm, .none, false,
      [⟨31, 0, .ro, 0, 0, none, 0, false⟩]⟩
  | .RP_STATUS => ⟨.rack 0x0, 0x0, 1, .none, .none, false,
      [⟨31, 31, .ro, 0, 0, none, 0, false⟩, ⟨30, 30, .ro, 0, 0, none, 0, false⟩, ⟨22, 16, .ro, 0, 0, none, 0, false⟩, ⟨6, 0, .ro, 0, 0, none, 0, false⟩]⟩
  | .RP_CTRL => ⟨.rack 0x4, 0x0, 1, .none, .none, false,
      [⟨0, 0, .rw, 0, 0, none, 0, false⟩]⟩
  | .RP_THREAD_SEL => ⟨.rack 0x10, 0x0, 1, .none, .none, false,
      [⟨5, 0, .rw, 0, 0, none, 0, false⟩]⟩
  | .RP_THREAD_STATE => ⟨.rack 0x14, 0x0, 1, .none, .none, false,
      [⟨31, 28, .ro, 0, 0, none, 0, false⟩, ⟨15, 0, .ro, 0, 0, none, 0, false⟩]⟩
  | .RP_ACC_STATE => ⟨.rack 0x20, 0x4, 2, .none, .none, false,
      [⟨31, 0, .ro, 0, 0, none, 0, false⟩]⟩
  | .RP_ACC_OVF => ⟨.rack 0x28, 0x0, 1, .none, .none, false,
      [⟨15, 0, .w1c, 0, 0, none, 0, false⟩]⟩
  | .RP_DC_STATUS => ⟨.rack 0x30, 0x0, 1, .none, .none, false,
      [⟨19, 16, .ro, 0, 0, none, 0, false⟩, ⟨3, 0, .ro, 0, 0, none, 0, false⟩]⟩
  | .RP_ISSUED => ⟨.rack 0x40, 0x0, 1, .none, .none, false,
      [⟨31, 0, .ro, 0, 0, none, 0, false⟩]⟩
  | .RP_IDLE => ⟨.rack 0x44, 0x0, 1, .none, .none, false,
      [⟨31, 0, .ro, 0, 0, none, 0, false⟩]⟩
  | .RP_SP_WAITS => ⟨.rack 0x48, 0x0, 1, .none, .none, false,
      [⟨31, 0, .ro, 0, 0, none, 0, false⟩]⟩
  | .RP_DRAINS => ⟨.rack 0x4c, 0x0, 1, .none, .none, false,
      [⟨31, 0, .ro, 0, 0, none, 0, false⟩]⟩
  | .CK_STATUS => ⟨.cask 0x0, 0x0, 1, .ck, .none, false,
      [⟨31, 28, .ro, 5, 0, none, 0, false⟩, ⟨27, 27, .ro, 1, 0, none, 0, false⟩, ⟨26, 26, .ro, 0, 0, none, 0, false⟩, ⟨25, 25, .ro, 0, 0, none, 0, false⟩, ⟨23, 23, .w1c, 0, 0, none, 0, false⟩, ⟨22, 22, .w1c, 0, 0, none, 0, false⟩, ⟨21, 21, .ro, 0, 0, none, 0, false⟩, ⟨3, 0, .ro, 0, 0, none, 0, false⟩]⟩
  | .CK_CTRL => ⟨.cask 0x4, 0x0, 1, .ck, .none, false,
      [⟨0, 0, .rw, 0, 0, none, 0, false⟩]⟩
  | .CK_CONFIG => ⟨.cask 0x8, 0x0, 1, .ck, .ck, false,
      [⟨0, 0, .rw, 0, 0, none, 0, true⟩]⟩
  | .CK_GAIN => ⟨.cask 0x10, 0x0, 1, .ck, .none, false,
      [⟨8, 8, .cw, 0, 0, none, 0, false⟩, ⟨4, 4, .cw, 0, 0, none, 0, false⟩, ⟨2, 0, .cw, 5, 0, none, 0, false⟩]⟩
  | .CK_GAIN_COMMIT => ⟨.cask 0x14, 0x0, 1, .ck, .none, true,
      [⟨31, 31, .ro, 0, 0, none, 0, false⟩, ⟨30, 30, .w1c, 0, 0, none, 0, false⟩, ⟨17, 16, .wo, 0, 0, none, 0, false⟩, ⟨15, 0, .ro, 0, 0, none, 0, false⟩]⟩
  | .CK_SAT_COUNT => ⟨.cask 0x20, 0x0, 1, .ck, .none, false,
      [⟨31, 0, .rc, 0, 0, none, 0, false⟩]⟩
  | .CK_STEP_COUNT => ⟨.cask 0x24, 0x0, 1, .ck, .none, false,
      [⟨31, 0, .ro, 0, 0, none, 0, false⟩]⟩
  | .CK_SKIP_COUNT => ⟨.cask 0x28, 0x0, 1, .ck, .none, false,
      [⟨31, 0, .ro, 0, 0, none, 0, false⟩]⟩
  | .CK_REF_A => ⟨.cask 0x30, 0x0, 1, .ck, .none, false,
      [⟨31, 0, .ro, 0, 0, none, 0, false⟩]⟩
  | .CK_REF_B => ⟨.cask 0x34, 0x0, 1, .ck, .none, false,
      [⟨31, 0, .ro, 0, 0, none, 0, false⟩]⟩
  | .CK_REF_SEQ => ⟨.cask 0x38, 0x0, 1, .ck, .none, false,
      [⟨31, 0, .ro, 0, 0, none, 0, false⟩]⟩
  | .CK_SAT_FLAG => ⟨.cask 0x40, 0x4, 17, .ck, .none, false,
      [⟨31, 0, .w1c, 0, 0, none, 0, false⟩]⟩
  | .CK_REMAP => ⟨.cask 0x100, 0x4, 16, .ck, .none, false,
      [⟨31, 31, .cw, 0, 0, none, 0, false⟩, ⟨9, 0, .cw, 0, 0, none, 0, false⟩]⟩
  | .CK_PIN => ⟨.cask 0x140, 0x4, 16, .ck, .none, false,
      [⟨31, 0, .cw, 0, 0, none, 0, false⟩]⟩
  | .CK_REMAP_COMMIT => ⟨.cask 0x180, 0x0, 1, .ck, .none, true,
      [⟨31, 31, .ro, 0, 0, none, 0, false⟩, ⟨30, 30, .w1c, 0, 0, none, 0, false⟩, ⟨17, 16, .wo, 0, 0, none, 0, false⟩, ⟨15, 0, .ro, 0, 0, none, 0, false⟩]⟩

/-- Part 0 of the list. -/
def absRegs0 : List RegName :=
  [.DEV_ID, .PX_STATUS, .PX_ECRC_ERRS, .PM_ON, .PM_STATE, .PM_STATUS, .BOOT_STATUS, .BOOT_CMD, .LIB_BASE_LO, .LIB_BASE_HI, .LG_CTRL, .LG_VPP_LIMIT]

/-- Part 1 of the list. -/
def absRegs1 : List RegName :=
  [.LG_VPP_STATUS, .LG_ROW_SEL, .LG_ROW_DATA, .LG_HOME_SEL, .LG_HOME_DATA, .LG_POOL_LIMIT, .LG_POOL_STATUS, .LG_GRANTS, .LG_SLIDES, .LG_DEFERS, .LG_SUBSTEPS, .LG_PEAK]

/-- Part 2 of the list. -/
def absRegs2 : List RegName :=
  [.RK_CTRL, .RK_STATUS, .RK_SHADOW_LO, .RK_SHADOW_HI, .RK_LIMITS, .RK_REF_PERIOD, .RK_POLICY, .RK_RANGE, .RK_POLICY_COMMIT, .RK_CASK_SEL, .RK_CASK_STATE, .RK_CASK_FIT]

/-- Part 3 of the list. -/
def absRegs3 : List RegName :=
  [.RK_CASK_AGE, .RK_DIGEST, .CT_CTRL, .CT_STATUS, .CT_CHK_TOL, .CT_TASTE_TOL, .CT_CHECK_COMMIT, .CT_TASTE_CFG, .CT_TASTE_BASE_LO, .CT_TASTE_BASE_HI, .CT_ESC_CLAMPS, .CT_CHK_FAILS]

/-- Part 4 of the list. -/
def absRegs4 : List RegName :=
  [.CT_TASTE_RUNS, .CT_TASTE_FAILS, .QT_CTRL, .QT_STATUS, .RS_BASE_LO, .RS_BASE_HI, .RS_GROUPS_LO, .RS_GROUPS_HI, .RS_REFOLD, .RS_COMMIT, .RS_SEL, .RS_DATA]

/-- Part 5 of the list. -/
def absRegs5 : List RegName :=
  [.QT_ZRANGE, .QT_CLAMPS, .QT_RAISES, .QT_SKEWS, .QT_NONFINITE, .CAL_CTRL, .CAL_STATUS, .CAL_REFCAL_UV, .CAL_SYS_UV, .CAL_TOL, .CAL_HOST_TIME, .CAL_VINTAGE]

/-- Part 6 of the list. -/
def absRegs6 : List RegName :=
  [.CAL_COUNT, .CAL_LAST_TIME, .CAL_LAST_POS, .CAL_LAST_FRAME, .CAL_DIFF, .CAL_REJECTS, .CAL_SKIPS, .MC_STATUS, .MC_CTRL, .MC_USABLE_LO, .MC_USABLE_HI, .MC_SCRUB_BASE_LO]

/-- Part 7 of the list. -/
def absRegs7 : List RegName :=
  [.MC_SCRUB_BASE_HI, .MC_SCRUB_LEN_LO, .MC_SCRUB_LEN_HI, .MC_SCRUB_CTRL, .MC_SCRUB_ERRORS, .MC_SCRUB_FIRST, .MC_SCRUB_LAST, .MC_SCRUB_TIME, .MC_ERR_ADDR, .MC_ERR_SRC, .MC_PARITY_ERRS, .MC_LINK_CORR]

/-- Part 8 of the list. -/
def absRegs8 : List RegName :=
  [.MC_SEAL_FAILS, .MC_POISONS, .MC_SUBSECTOR, .MC_TRELLIS_RETRIES, .RG_TABLE_LO, .RG_TABLE_HI, .RG_STATUS, .RG_SEL, .RG_CMD, .RG_STATE, .RG_HEAD, .RG_TAIL]

/-- Part 9 of the list. -/
def absRegs9 : List RegName :=
  [.RG_GATE_POOL, .RG_ESTATE_TMO, .SY_SEL, .SY_COUNT, .SY_SIGNAL, .EQ_BASE_LO, .EQ_BASE_HI, .EQ_CFG, .EQ_HEAD, .EQ_TAIL, .EQ_ARM, .EQ_LOST]

/-- Part 10 of the list. -/
def absRegs10 : List RegName :=
  [.EV_ROUTE, .POS_CTRL, .POS_STATUS, .POS_CHECK, .POS_CPR, .POS_STILL, .POS_RATE_MAX, .POS_REV_MAX, .POS_NUM, .POS_DEN, .POS_FRAME_LEN, .POS_SCALE_COMMIT]

/-- Part 11 of the list. -/
def absRegs11 : List RegName :=
  [.POS_SYN_RATE, .POS_SYN_STEP, .POS_COUNT, .POS_UM, .POS_FRAME, .POS_PPS, .POS_QUAD_ERRS, .POS_IDX_ERRS, .POS_RATE_ERRS, .PET_MISSES, .PET_SEL, .PET_W]

/-- Part 12 of the list. -/
def absRegs12 : List RegName :=
  [.FE_ADC_CTRL, .FE_ADC_STATUS, .FE_TIMER, .FE_REG_TRIG, .FE_INJ_TRIG, .FE_SW_TRIG, .FE_REG_SLOT, .FE_INJ_SLOT, .FE_INJ_DATA, .FE_INJ_LIM, .FE_BUF_LO, .FE_BUF_HI]

/-- Part 13 of the list. -/
def absRegs13 : List RegName :=
  [.FE_BUF_CFG, .FE_BUF_WR, .FE_BUF_RD, .FE_OVERRUNS, .FE_LOST, .FE_LIMIT_HITS, .FE_DAC_CTRL, .FE_DAC_CODE, .FE_DAC_INC, .FE_DAC_WAVE, .FE_DAC_SUP, .FE_DAC_STATUS]

/-- Part 14 of the list. -/
def absRegs14 : List RegName :=
  [.FE_DAC_COMMIT, .FE_TBL_IDX, .FE_TBL_DATA, .FE_PWM_CFG, .FE_PWM_A, .FE_PWM_B, .FE_PWM_COMMIT, .BV_CTRL, .BV_STATUS, .BV_IDENT, .BV_MEMBERS, .BV_PRESENT]

/-- Part 15 of the list. -/
def absRegs15 : List RegName :=
  [.BV_EPOCH, .BV_RWAIT_TMO, .BV_ROUTE, .BV_PORT_STATUS, .BV_PORT_FEC, .BV_PORT_REPLAYS, .BV_PORT_DOWNS, .HG_CTRL, .HG_STATUS, .HG_THREAD_BUDGET, .HG_RING_BUDGET, .HG_CASK_BUDGET]

/-- Part 16 of the list. -/
def absRegs16 : List RegName :=
  [.HG_DUMP_CFG, .HG_DUMP_BASE_LO, .HG_DUMP_BASE_HI, .HG_DUMP_STATUS, .HG_RESET, .HG_RESUME, .HG_RESET_CAUSE, .HG_INCIDENTS, .HG_GUILTY, .HG_REPLAYS, .HG_ABORTS, .LC_STATE]

/-- Part 17 of the list. -/
def absRegs17 : List RegName :=
  [.LC_REQ, .LC_SVN, .LC_ERASE, .AT_CMD, .AT_STATUS, .AT_BUF_LO, .AT_BUF_HI, .AT_NONCE, .JR_SEL, .JR_STATUS, .JR_DATA]

/-- The registers at fixed BAR0 offsets. -/
def absRegs : List RegName :=
  absRegs0 ++ absRegs1 ++ absRegs2 ++ absRegs3 ++ absRegs4 ++ absRegs5 ++ absRegs6 ++ absRegs7 ++ absRegs8 ++ absRegs9 ++ absRegs10 ++ absRegs11 ++ absRegs12 ++ absRegs13 ++ absRegs14 ++ absRegs15 ++ absRegs16 ++ absRegs17

/-- Part 0 of the list. -/
def rackRegs0 : List RegName :=
  [.RP_STATUS, .RP_CTRL, .RP_THREAD_SEL, .RP_THREAD_STATE, .RP_ACC_STATE, .RP_ACC_OVF, .RP_DC_STATUS, .RP_ISSUED, .RP_IDLE, .RP_SP_WAITS, .RP_DRAINS]

/-- The registers of each rack (Table 7.11). -/
def rackRegs : List RegName :=
  rackRegs0

/-- Part 0 of the list. -/
def caskRegs0 : List RegName :=
  [.CK_STATUS, .CK_CTRL, .CK_CONFIG, .CK_GAIN, .CK_GAIN_COMMIT, .CK_SAT_COUNT, .CK_STEP_COUNT, .CK_SKIP_COUNT, .CK_REF_A, .CK_REF_B, .CK_REF_SEQ, .CK_SAT_FLAG]

/-- Part 1 of the list. -/
def caskRegs1 : List RegName :=
  [.CK_REMAP, .CK_PIN, .CK_REMAP_COMMIT]

/-- The registers of each cask (Table 2.12). -/
def caskRegs : List RegName :=
  caskRegs0 ++ caskRegs1

/-- A register of the device: its name, the rack or cask it belongs to (0 for a device register) and its index. -/
structure RegRef where
  name : RegName
  unit : Nat
  idx : Nat
  deriving DecidableEq, Repr

/-- The BAR0 offset of a register (R17, R84 and the register block tables). -/
def regOff (name : RegName) (unit idx : Nat) : Nat :=
  match name.desc.base with
  | .abs b => b + idx * name.desc.stride
  | .rack b => 0x1000000 + unit * 0x10000 + b + idx * name.desc.stride
  | .cask b => 0x1000000 + (unit / 16) * 0x10000 + 0x8000 + (unit % 16) * 0x400 + b + idx * name.desc.stride

/-- The offset of a referenced register. -/
def RegRef.off (r : RegRef) : Nat := regOff r.name r.unit r.idx

/-- The index of the copy of a register that lies at a local offset, if one does. -/
def regIdx (base off stride count : Nat) : Option Nat :=
  if off < base then none
  else if stride = 0 then (if off = base then some 0 else none)
  else if (off - base) % stride = 0 && decide ((off - base) / stride < count) then some ((off - base) / stride)
  else none

/-- The first register of a list that lies at a local offset. -/
def regFind (local' unit : Nat) : List RegName → Option RegRef
  | [] => none
  | n :: ns =>
    let b := match n.desc.base with
      | .abs b => b
      | .rack b => b
      | .cask b => b
    match regIdx b local' n.desc.stride n.desc.count with
    | some i => some ⟨n, unit, i⟩
    | none => regFind local' unit ns

/-- The register at a BAR0 offset, if a chapter's table lists one (offsets not listed are reserved). -/
def regAt (off : Nat) : Option RegRef :=
  if 0x1000000 ≤ off && decide (off < 0x2000000) then
    let r := (off - 0x1000000) / 0x10000
    let l := (off - 0x1000000) % 0x10000
    if l < 0x8000 then regFind l r rackRegs
    else if l < 0x8000 + 16 * 0x400 then regFind ((l - 0x8000) % 0x400) (16 * r + (l - 0x8000) / 0x400) caskRegs
    else none
  else regFind off 0 absRegs

/-- The word a register's fields hold after a reset that reaches its block, from the Reset column (a field whose source is NVM,
a fuse, a strap or configuration cells is computed where the register is read). -/
def resetWord (n : RegName) : Word :=
  n.desc.fields.foldl (fun w f => setField f.hi f.lo f.reset w) 0

/-- The word that keeps only the bits of fields with one of the given access codes. -/
def fieldMask (n : RegName) (p : RegField → Bool) : Word :=
  (n.desc.fields.filter p).foldl (fun w f => setField f.hi f.lo (2 ^ (f.hi + 1 - f.lo) - 1) w) 0

/-- Whether a value is one its field's Description allows (R564). -/
def RegField.allows (f : RegField) (v : Nat) : Bool :=
  decide (f.least ≤ v) && (match f.most with | some m => decide (v ≤ m) | none => true) && decide (v % 2 ^ f.zeros = 0)

/-- Whether every writable field of a register would be given an allowed value (R564). -/
def RegDesc.allows (d : RegDesc) (v : Word) : Bool :=
  d.fields.all fun f => match f.acc with
    | .rw => f.allows (fieldOf f.hi f.lo v)
    | .cw => f.allows (fieldOf f.hi f.lo v)
    | _ => true

end Sys2Proof.Machine
end

