-- ==== Sys2Proof/Machine/Store.lean ====
section
/-! DEFINITION. A finite table from natural-number keys to values, as a list of pairs in rising key order. Every indexed piece of
state is one of these: memories, register contents, casks, racks, threads, rings. -/

namespace Sys2Proof.Machine

/-- A table from keys to values: pairs in strictly rising key order. -/
abbrev Store (α : Type) := List (Nat × α)

/-- The entry at key k, if the table lists one. -/
def Store.find {α : Type} (k : Nat) : Store α → Option α
  | [] => none
  | (j, v) :: m => if k = j then some v else if k < j then none else Store.find k m

/-- The table with v at key k. -/
def Store.put {α : Type} (k : Nat) (v : α) : Store α → Store α
  | [] => [(k, v)]
  | (j, w) :: m => if k < j then (k, v) :: (j, w) :: m else if k = j then (k, v) :: m else (j, w) :: Store.put k v m

/-- The table without an entry at key k. -/
def Store.drop {α : Type} (k : Nat) : Store α → Store α
  | [] => []
  | (j, w) :: m => if k < j then (j, w) :: m else if k = j then m else (j, w) :: Store.drop k m

/-- What key k holds, d where the table lists nothing. -/
def Store.getD {α : Type} (d : α) (k : Nat) (m : Store α) : α :=
  (Store.find k m).getD d

/-- The table with v at key k, kept canonical: no entry holds the value d that an unlisted key has. -/
def Store.setD {α : Type} [DecidableEq α] (d : α) (k : Nat) (v : α) (m : Store α) : Store α :=
  if v = d then Store.drop k m else Store.put k v m

/-- The values at the n keys from k on. -/
def Store.getN {α : Type} (d : α) (k : Nat) : Nat → Store α → List α
  | 0, _ => []
  | n + 1, m => Store.getD d k m :: Store.getN d (k + 1) n m

/-- The table with the values of a list at the keys from k on. -/
def Store.setN {α : Type} [DecidableEq α] (d : α) (k : Nat) : List α → Store α → Store α
  | [], m => m
  | v :: vs, m => Store.setN d (k + 1) vs (Store.setD d k v m)

/-- The table without its entries at keys lo to hi − 1. -/
def Store.clear {α : Type} (lo hi : Nat) (m : Store α) : Store α :=
  m.filter fun e => decide (e.1 < lo) || decide (hi ≤ e.1)

/-- Every value of the table changed by f, which sees the key. -/
def Store.mapV {α β : Type} (f : Nat → α → β) (m : Store α) : Store β :=
  m.map fun e => (e.1, f e.1 e.2)

/-- Whether the keys of a table rise strictly from a lower bound on. -/
def Store.risesFrom {α : Type} (lo : Nat) : Store α → Bool
  | [] => true
  | (j, _) :: m => decide (lo ≤ j) && Store.risesFrom (j + 1) m

/-- The canonical form: keys rise strictly, and no entry holds what an unlisted key has. -/
def Store.wf {α : Type} [DecidableEq α] (d : α) (m : Store α) : Bool :=
  Store.risesFrom 0 m && m.all fun e => decide (e.2 ≠ d)

/-- A set of keys. -/
abbrev KeySet := Store Unit

/-- Whether a set has a key. -/
def KeySet.has (k : Nat) (m : KeySet) : Bool := (Store.find k m).isSome

/-- A set with a key added. -/
def KeySet.add (k : Nat) (m : KeySet) : KeySet := Store.put k () m

end Sys2Proof.Machine
end

