-- ==== Sys2Proof/Syntax.lean ====
section
/-! DEFINITION. The abstract syntax of the commands: `Instr`, one constructor for each row of the table of operations and
events, with the operands each command takes. -/

namespace Sys2Proof

/-- Who writes a register: the host through BAR0, the cellarer, or the cellarer through its own port of the row table and the home table,
at an entry: 512 cask + row, or the cask (R7, R115, R224). -/
inductive Source where
  | host
  | cellarer
  | port (entry : Nat)
  deriving DecidableEq, Repr

/-- Vector element types that the device defines, TYPE of FN[2:0] (Table 8.11). -/
inductive VType where
  | int8
  | int16
  | int32
  | bf16
  | fp32
  deriving DecidableEq, Repr

/-- Number formats of VCVT and VSCL (Table 8.15). -/
inductive NFmt where
  | a8
  | a4
  | e4m3
  | e5m2
  | e2m1
  | bf16
  | fp32
  | int8
  | int16
  | int32
  deriving DecidableEq, Repr

/-- Branch conditions, field C of BR (Table 8.8). -/
inductive Cond where
  | eqz
  | nez
  | ltz
  | gez
  | gtz
  | lez
  | pany
  | pnone
  deriving DecidableEq, Repr

/-- A failed cell (R125, R127): its row and pair, whether it is the pair's negative cell, its last read level rounded up to a whole level,
and whether it reads above its window. -/
structure CellFail where
  row : Nat
  pair : Nat
  neg : Bool
  level : Nat
  above : Bool
  deriving DecidableEq, Repr

/-- What the rebuild of a cask's shadow reads (R135): the cells that read otherwise than their fit says, by 1,064 row + 2 pair + (1 for the
negative cell), in 1/1,000 level. -/
structure CaskReads where
  cask : Nat
  cells : List (Nat × Int)
  deriving DecidableEq, Repr

/-- What the DRAM link returns for one burst read (R381). -/
inductive LinkResult where
  | clean
  | corrected
  | retried
  | failed
  deriving DecidableEq, Repr

/-- What an upset strikes as load data returns: nothing, the sector read, or the register as it is written (R389). -/
inductive Upset where
  | none
  | source
  | register
  deriving DecidableEq, Repr

/-- What fails on a COPY's path through the PCIe core: nothing, a completion of the host, or the parity of the data (R390, R403, R420). -/
inductive CopyFault where
  | none
  | host
  | parity
  deriving DecidableEq, Repr

/-- The kinds of poisoned or ECRC-failing TLP the device can receive (R420). -/
inductive TlpKind where
  | write
  | completion (q : Quad) (e : Fin 4)
  | request
  deriving DecidableEq, Repr

/-- Who waits on a sync object under the remote-wait timeout (R364, R438). -/
inductive Waiter where
  | thread (r : Rack) (t : Tid)
  | packet (n : RingId)
  deriving DecidableEq, Repr

/-- What a calibration found on a quadrant, in each of the two passes: how far its row-drive step and its converter reference lie above
nominal, in 1/256 ppm (Tables 14.2, 14.3). -/
structure QuadCal where
  quad : Nat
  step : Int × Int
  conv : Int × Int
  deriving DecidableEq, Repr

/-- What a calibration found on a cask: in each of the two passes how far its gain lies above nominal at each gain code, in 1/256 of
0.01 %, and its offset in 1/256 of 1/16 LSB (R484, R488). -/
structure CaskCal where
  cask : Nat
  gains : List (Int × Int)
  ofs : Int × Int
  deriving DecidableEq, Repr

/-- What a calibration procedure measured (R484 to R492). In each of the two passes, the mean code of the zero or ground input and that of
the full scale or REFCAL input, in 1/4,096 code: by 3 converter + reference in SCOPE 0x1 and 0x5, by converter in 0x2 and 0x3. VDDAF
and REFIN in µV. Quadrants, casks, and how far each temperature sensor reads below the band-gap sensor beside it, in 1/256 °C. Whether
the written record reads back right (R496); the sensors in °C. -/
structure CalMeasure where
  zero : List (Int × Int)
  full : List (Int × Int)
  vddafUv : Nat
  refinUv : Nat
  quads : List QuadCal
  casks : List CaskCal
  sense : List Int
  readback : Bool
  temps : List Int
  deriving DecidableEq, Repr

/-- What a Burivo message carries (R426): a peer-window store, a remote signal, the acknowledgement of a message by its number, a
heartbeat. -/
inductive PeerLoad where
  | store (addr : Nat) (data : List Byte)
  | signal (obj : BitVec 16) (v : Word)
  | ack (id : Nat) (accepted : Bool)
  | heartbeat (epoch : Word)
  deriving DecidableEq, Repr

/-- A Burivo message: the member it comes from and the one it is for, its number at its source, what it carries (R426, R431, R433). -/
structure BvMsg where
  src : Member
  dest : Member
  id : Nat
  load : PeerLoad
  deriving DecidableEq, Repr

/-- The payload of a flit, by its kind: nothing, messages, or the return of credits of VC0 and VC1 (R426). -/
inductive FlitLoad where
  | idle
  | messages (l : List BvMsg)
  | credits (vc0 vc1 : Nat)
  deriving DecidableEq, Repr

/-- A Burivo flit after its FEC and CRC (R426, Table 12.5): virtual channel, sequence number, acknowledgement of the reverse direction (the
flits before this number have been accepted there) and whether it asks for a replay from that number (R427), payload. -/
structure Flit where
  vc : Fin 2
  seq : Nat
  ack : Nat
  replay : Bool
  load : FlitLoad
  deriving DecidableEq, Repr

/-- How a Burivo message arrived: the port and virtual channel in whose receive buffer its flit lies, the member it is addressed to, and
its number at its source (R428, R431, R433). -/
structure Via where
  port : Fin 4
  vc : Fin 2
  dest : Member
  id : Nat
  deriving DecidableEq, Repr

/-- The supply rails the device monitors (Table 16.1). -/
inductive Rail where
  | vddio
  | vdd
  | vddhs
  | vdda
  | vddaf
  | vddq
  | vpp
  deriving DecidableEq, Repr

/-- The commands of the device: one constructor for each row of the table of operations and events. An operand carries what the
spec leaves to the world outside the block: what software writes, what a sensor or a link delivers, what a physical
measurement reads (log entries 2 and 5). -/
inductive Instr where
  /-- REGISTER_WRITE (R1): A host or cellarer write to a register field that has no row of its own takes effect as its
      access code states. -/
  | registerWrite (src : Source) (off size : Nat) (v : DWord)
  /-- READ_CLEAR (R1): A read of an RC field returns its value and then clears the field to zero. -/
  | readClear (off : Nat)
  /-- CW_STAGE_WRITE (R8): A write to a CW field stages a new value of the field's commit group, or sets BUSY_ERR while
      PENDING is 1. -/
  | cwStageWrite (src : Source) (off : Nat) (v : Word)
  /-- COMMIT_APPLY_OPERATION (R12): An ACTION 0b01 write requests that the staged set apply at the group's next operation
      boundary. -/
  | commitApplyOperation (src : Source) (off : Nat)
  /-- COMMIT_APPLY_FRAME (R12): An ACTION 0b10 write requests that the staged set apply at the next frame or idle boundary. -/
  | commitApplyFrame (src : Source) (off : Nat)
  /-- COMMIT_DISCARD (R11): An ACTION 0b11 write cancels any pending apply and returns every staged value to the value in
      force. -/
  | commitDiscard (src : Source) (off : Nat)
  /-- GROUP_APPLY (R9): A staged commit set takes effect in one step clock, and GEN increments. -/
  | groupApply (off : Nat)
  /-- CK_QUIESCE (R78): Writing CK_CTRL.QUIESCE 1 lets the cask finish its current operation and start no further queued
      operation. -/
  | ckQuiesce (c : CaskId)
  /-- CK_RESUME (R78): Writing CK_CTRL.QUIESCE 0 resumes the cask with its oldest queued entry. -/
  | ckResume (c : CaskId)
  /-- CASK_OP_START (R65): A queued cask operation begins applying its tokens' slices at the previous operation's boundary. -/
  | caskOpStart (c : CaskId)
  /-- ADMISSION (R90): When a token's codes reach the cask, the admission logic bounds each segment, chooses gains and
      computes credit costs. -/
  | admission (c : CaskId)
  /-- CREDIT_ARBITRATION (R100): In step clocks 48 to 63 the quadrant arbiter places posted requests in the windows of the
      next slice step. -/
  | creditArbitration (q : Quad)
  /-- SLICE_STEP (R63): Every 64 step clocks a cask integrates its admitted segments in its granted window and converts its
      previous buffer. -/
  | sliceStep (c : CaskId) (dev : List (Nat × Int))
  /-- REPLAY_POST (R74): The cask posts a replay request for saturated segments at a coarser gain as soon as it has no
      request outstanding. -/
  | replayPost (c : CaskId)
  /-- TOKEN_ADD (R67): After a token's last conversion, the cask adds each unpinned logical column into AccMem. -/
  | tokenAdd (c : CaskId) (residueFault : Bool)
  /-- CREDIT_RETURN (R103): A window's credit return reaches the pool and the books of that window are updated. -/
  | creditReturn (q : Quad) (w : Fin 32)
  /-- CREDIT_AUDIT (R106): A late or mismatched credit return raises EV_CREDIT_AUDIT and writes off the window's outstanding
      credits. -/
  | creditAudit (q : Quad) (w : Fin 32)
  /-- REFERENCE_READ (R79): The cellarer drives all rows at level 8 and records the reference pair sums in CK_REF_A and
      CK_REF_B. -/
  | referenceRead (c : CaskId)
  /-- REF_PERIOD_EXPIRY (R144): A cask's reference read period expires and the cellarer schedules a reference read. -/
  | refPeriodExpiry (c : CaskId)
  /-- CONFIG_CELL_SAVE (R81): The cask writes its new configuration to the configuration cells within 20 µs, with CFG_SAVING
      set meanwhile. -/
  | configCellSave (c : CaskId)
  /-- LG_ROW_DATA_ACCESS (R114): An access to LG_ROW_DATA reads or writes the selected row table entry and advances the
      index when AUTOINC is 1. -/
  | lgRowDataAccess (wr : Option Word)
  /-- VPP_GRANT (R109): The VPP arbiter grants a programming credit to the next waiting cask. -/
  | vppGrant
  /-- VPP_CREDIT_RETURN (R109): A cask's VPP credit returns to the arbiter after its last program pulse. -/
  | vppCreditReturn (c : CaskId)
  /-- VPP_CREDIT_AUDIT (R109): A late or mismatched VPP return sets AUDIT_ERR and raises EV_CREDIT_AUDIT with UNIT 4. -/
  | vppCreditAudit (c : CaskId)
  /-- RACK_ENTRY (R119): The cellarer checks one racking plan entry and starts racking its cask. -/
  | rackEntry (n : RingId) (idx : Index) (k : Nat)
  /-- CASK_PROGRAM (R124): A cask holding a VPP credit erases and programs its rows by pulse and verify. -/
  | caskProgram (c : CaskId) (reads : List (Nat × Int))
  /-- DIAGNOSIS_READ (R137): The cellarer reads a held cask to find failed pairs after a checksum or tasting failure. -/
  | diagnosisRead (c : CaskId) (reads : List (Nat × Int))
  /-- REMAP_PIN (R141): The cellarer prepares spares, writes row table entries, applies the remap group and releases the
      cask. -/
  | remapPin (c : CaskId) (reads : List (Nat × Int))
  /-- TOPPING (R152): At a permitted boundary the cellarer tops a held cask row by row under a VPP credit. -/
  | topping (c : CaskId) (reads : List (Nat × Int))
  /-- SHADOW_BASE_WRITE (R128): A write to RK_SHADOW clears every SHADOW_OK and starts a rebuild at the new base. -/
  | shadowBaseWrite (hi : Bool) (v : Word) (reads : List (Nat × Nat × Int))
  /-- TEMP_SAMPLE (R565): Every 1 ms the cellarer samples quadrant temperatures, accumulates modelled drift and refolds on 2
      °C changes. -/
  | tempSample (temps : List Int)
  /-- REFOLD (R223): The cellarer computes Channel Rescale Table entries and match gains into the staged bank and requests
      an apply. -/
  | refold (r : Rack)
  /-- BANK_COPY (R225): After an apply the cellarer copies the in-force bank into the staged bank with BANK_SYNC set. -/
  | bankCopy
  /-- RS_REFOLD_RACK (R223): A write to RS_REFOLD with ALL 0 refolds the named rack's groups. -/
  | rsRefoldRack (v : Word)
  /-- RS_REFOLD_ALL (R223): A write to RS_REFOLD with ALL 1 refolds every rack's groups. -/
  | rsRefoldAll
  /-- CORRECTION_TOKEN (R161): The correction unit adds escaped-row and pinned-column terms for one token, scaled by the
      match gain. -/
  | correctionToken (r : Rack)
  /-- ROW_BUFFER_FILL (R168): A row buffer miss returns its shadow row from the shared cache. -/
  | rowBufferFill (c : CaskId) (row : Fin 512)
  /-- TASTING_RUN (R179): The cellarer holds a cask, runs tasting vectors and compares each column with its exact record. -/
  | tastingRun (c : CaskId)
  /-- TASTE_BASE_WRITE (R185): A write to CT_TASTE_BASE makes the cellarer recompute every tasting record at the new base. -/
  | tasteBaseWrite (hi : Bool) (v : Word)
  /-- QUANTISE_RUN (R192): The quantiser runs the first pass of an accepted request and writes codes, side lists and scales. -/
  | quantiseRun (r : Rack)
  /-- QUANTISE_COMPLETE (R286): The quantiser rewrites the descriptor with STATUS and signals SYNC when requested. -/
  | quantiseComplete (r : Rack)
  /-- QUANT_TOKEN_ASSEMBLE (R199): Once all elements of a drain-coded token have arrived, the quantiser codes and writes it. -/
  | quantTokenAssemble (r : Rack)
  /-- DRAIN_START (R251): A sealed slot with no pending work becomes DRAINING and the decant checks, rescales and writes the
      tile. -/
  | drainStart (r : Rack) (accParity : Bool)
  /-- DRAIN_SIGNAL (R256): When a drain's writes are visible, the decant signals its SYNC object. -/
  | drainSignal (r : Rack)
  /-- SLOT_CLEAR_END (R241): A CLEARING slot finishes zeroing its tile and becomes FREE. -/
  | slotClearEnd (r : Rack) (slot : Fin 16)
  /-- PARTIAL_LOAD_COMPLETE (R245): A partial load has read its integer partial and added it into the slot, or marked it
      skewed or failed. -/
  | partialLoadComplete (r : Rack) (parity : Bool)
  /-- RP_QUIESCE (R262): Writing RP_CTRL.QUIESCE 1 sends each thread to HELD after its current instruction. -/
  | rpQuiesce (r : Rack)
  /-- RP_RESUME (R262): Writing RP_CTRL.QUIESCE 0 returns each HELD thread to its state. -/
  | rpResume (r : Rack)
  /-- NOP (R269): The NOP instruction does nothing. -/
  | skNop (r : Rack) (t : Tid)
  /-- END (R273): END frees the thread once it has no load outstanding. -/
  | skEnd (r : Rack) (t : Tid)
  /-- BRK (R297): BRK raises the BREAK exception. -/
  | skBrk (r : Rack) (t : Tid)
  /-- CSRR (R264): CSRR reads a control and status register into s_D. -/
  | skCsrr (r : Rack) (t : Tid) (d : Reg) (n : Fin 32)
  /-- CSRW (R264): CSRW writes s_A to a writable CSR. -/
  | skCsrw (r : Rack) (t : Tid) (a : Reg) (n : Fin 32)
  /-- ADD (R271): ALU ADD. -/
  | skAdd (r : Rack) (t : Tid) (d a b : Reg)
  /-- SUB (R271): ALU SUB. -/
  | skSub (r : Rack) (t : Tid) (d a b : Reg)
  /-- AND (R271): ALU AND. -/
  | skAnd (r : Rack) (t : Tid) (d a b : Reg)
  /-- OR (R271): ALU OR. -/
  | skOr (r : Rack) (t : Tid) (d a b : Reg)
  /-- XOR (R271): ALU XOR. -/
  | skXor (r : Rack) (t : Tid) (d a b : Reg)
  /-- SHL (R271): ALU shift left. -/
  | skShl (r : Rack) (t : Tid) (d a b : Reg)
  /-- SHR (R271): ALU logical shift right. -/
  | skShr (r : Rack) (t : Tid) (d a b : Reg)
  /-- SRA (R271): ALU arithmetic shift right. -/
  | skSra (r : Rack) (t : Tid) (d a b : Reg)
  /-- SLT (R271): ALU signed set-less-than. -/
  | skSlt (r : Rack) (t : Tid) (d a b : Reg)
  /-- SLTU (R271): ALU unsigned set-less-than. -/
  | skSltu (r : Rack) (t : Tid) (d a b : Reg)
  /-- MIN (R271): ALU signed minimum. -/
  | skMin (r : Rack) (t : Tid) (d a b : Reg)
  /-- MAX (R271): ALU signed maximum. -/
  | skMax (r : Rack) (t : Tid) (d a b : Reg)
  /-- MINU (R271): ALU unsigned minimum. -/
  | skMinu (r : Rack) (t : Tid) (d a b : Reg)
  /-- MAXU (R271): ALU unsigned maximum. -/
  | skMaxu (r : Rack) (t : Tid) (d a b : Reg)
  /-- MUL (R271): ALU low product. -/
  | skMul (r : Rack) (t : Tid) (d a b : Reg)
  /-- MULH (R271): ALU signed high product. -/
  | skMulh (r : Rack) (t : Tid) (d a b : Reg)
  /-- MULHU (R271): ALU unsigned high product. -/
  | skMulhu (r : Rack) (t : Tid) (d a b : Reg)
  /-- DIV (R271): ALU signed division. -/
  | skDiv (r : Rack) (t : Tid) (d a b : Reg)
  /-- DIVU (R271): ALU unsigned division. -/
  | skDivu (r : Rack) (t : Tid) (d a b : Reg)
  /-- REM (R271): ALU signed remainder. -/
  | skRem (r : Rack) (t : Tid) (d a b : Reg)
  /-- REMU (R271): ALU unsigned remainder. -/
  | skRemu (r : Rack) (t : Tid) (d a b : Reg)
  /-- CLZ (R271): ALU count leading zeros. -/
  | skClz (r : Rack) (t : Tid) (d a : Reg)
  /-- POPC (R271): ALU population count. -/
  | skPopc (r : Rack) (t : Tid) (d a : Reg)
  /-- FADD (R272): FP32 add. -/
  | skFadd (r : Rack) (t : Tid) (d a b : Reg)
  /-- FSUB (R272): FP32 subtract. -/
  | skFsub (r : Rack) (t : Tid) (d a b : Reg)
  /-- FMUL (R272): FP32 multiply. -/
  | skFmul (r : Rack) (t : Tid) (d a b : Reg)
  /-- FMADD (R272): FP32 fused multiply-add. -/
  | skFmadd (r : Rack) (t : Tid) (d a b : Reg)
  /-- FMIN (R272): FP32 minimumNumber. -/
  | skFmin (r : Rack) (t : Tid) (d a b : Reg)
  /-- FMAX (R272): FP32 maximumNumber. -/
  | skFmax (r : Rack) (t : Tid) (d a b : Reg)
  /-- FDIV (R272): FP32 division. -/
  | skFdiv (r : Rack) (t : Tid) (d a b : Reg)
  /-- FSQRT (R272): FP32 square root. -/
  | skFsqrt (r : Rack) (t : Tid) (d a : Reg)
  /-- FEQ (R272): FP32 equality compare. -/
  | skFeq (r : Rack) (t : Tid) (d a b : Reg)
  /-- FLT (R272): FP32 less-than compare. -/
  | skFlt (r : Rack) (t : Tid) (d a b : Reg)
  /-- FLE (R272): FP32 less-or-equal compare. -/
  | skFle (r : Rack) (t : Tid) (d a b : Reg)
  /-- FTOI (R272): FP32 to saturating integer. -/
  | skFtoi (r : Rack) (t : Tid) (d a : Reg)
  /-- ITOF (R272): Integer to FP32. -/
  | skItof (r : Rack) (t : Tid) (d a : Reg)
  /-- FRND (R272): FP32 round to integral value. -/
  | skFrnd (r : Rack) (t : Tid) (d a : Reg)
  /-- ADDI (R271): Add immediate. -/
  | skAddi (r : Rack) (t : Tid) (d a : Reg) (imm : BitVec 16)
  /-- ANDI (R271): AND immediate. -/
  | skAndi (r : Rack) (t : Tid) (d a : Reg) (imm : BitVec 16)
  /-- ORI (R271): OR immediate. -/
  | skOri (r : Rack) (t : Tid) (d a : Reg) (imm : BitVec 16)
  /-- XORI (R271): XOR immediate. -/
  | skXori (r : Rack) (t : Tid) (d a : Reg) (imm : BitVec 16)
  /-- SLTI (R271): Set less than immediate. -/
  | skSlti (r : Rack) (t : Tid) (d a : Reg) (imm : BitVec 16)
  /-- SHLI (R271): Shift left immediate. -/
  | skShli (r : Rack) (t : Tid) (d a : Reg) (sh : Fin 64)
  /-- SHRI (R271): Logical shift right immediate. -/
  | skShri (r : Rack) (t : Tid) (d a : Reg) (sh : Fin 64)
  /-- SRAI (R271): Arithmetic shift right immediate. -/
  | skSrai (r : Rack) (t : Tid) (d a : Reg) (sh : Fin 64)
  /-- LUI (R271): Load upper immediate. -/
  | skLui (r : Rack) (t : Tid) (d : Reg) (imm : BitVec 16)
  /-- BR (R270): Conditional branch on a scalar or predicate condition. -/
  | skBr (r : Rack) (t : Tid) (cond : Cond) (a : Reg) (disp : BitVec 18)
  /-- J (R270): Jump. -/
  | skJ (r : Rack) (t : Tid) (disp : BitVec 26)
  /-- JAL (R270): Jump and link into s31. -/
  | skJal (r : Rack) (t : Tid) (disp : BitVec 26)
  /-- JR (R270): Jump to register, raising ALIGN on a misaligned target. -/
  | skJr (r : Rack) (t : Tid) (d a : Reg)
  /-- LB (R274): Load sign-extended byte. -/
  | skLb (r : Rack) (t : Tid) (d a : Reg) (ofs : BitVec 10)
  /-- LBU (R274): Load zero-extended byte. -/
  | skLbu (r : Rack) (t : Tid) (d a : Reg) (ofs : BitVec 10)
  /-- LH (R274): Load sign-extended halfword. -/
  | skLh (r : Rack) (t : Tid) (d a : Reg) (ofs : BitVec 10)
  /-- LHU (R274): Load zero-extended halfword. -/
  | skLhu (r : Rack) (t : Tid) (d a : Reg) (ofs : BitVec 10)
  /-- LW (R274): Load sign-extended word. -/
  | skLw (r : Rack) (t : Tid) (d a : Reg) (ofs : BitVec 10)
  /-- LWU (R274): Load zero-extended word. -/
  | skLwu (r : Rack) (t : Tid) (d a : Reg) (ofs : BitVec 10)
  /-- LDD (R274): Load 64-bit value. -/
  | skLdd (r : Rack) (t : Tid) (d a : Reg) (ofs : BitVec 10)
  /-- VLD (R274): Vector load of 32, 64 or 128 bytes. -/
  | skVld (r : Rack) (t : Tid) (d a : Reg) (sz : Fin 3) (ofs : BitVec 10)
  /-- VST (R274): Vector store of 32, 64 or 128 bytes. -/
  | skVst (r : Rack) (t : Tid) (d a : Reg) (sz : Fin 3) (ofs : BitVec 10)
  /-- SST4 (R274): Store of four scalars. -/
  | skSst4 (r : Rack) (t : Tid) (d a : Reg) (ofs : BitVec 10)
  /-- TLD (R274): Tile descriptor load. -/
  | skTld (r : Rack) (t : Tid) (d : TReg) (a : Reg) (ofs : BitVec 10)
  /-- TST (R274): Tile descriptor store. -/
  | skTst (r : Rack) (t : Tid) (d : TReg) (a : Reg) (ofs : BitVec 10)
  /-- LOAD_DATA_RETURN (R275): Load data arrives and the waiting thread may use it, or a bus error raises an imprecise BUS
      exception. -/
  | loadDataReturn (r : Rack) (t : Tid) (k : Nat) (upset : Upset)
  /-- FENCE_L (R304): FENCE.L waits for earlier own-scratchpad stores to be visible at rack scope. -/
  | skFenceL (r : Rack) (t : Tid)
  /-- FENCE_D (R304): FENCE.D waits for earlier non-peer stores to be visible at device scope. -/
  | skFenceD (r : Rack) (t : Tid)
  /-- FENCE_P (R304): FENCE.P also waits for peer-window stores to be delivered or failed. -/
  | skFenceP (r : Rack) (t : Tid) (d : Reg)
  /-- FENCE_COMPLETE (R304): The stores a fence waits for become visible and the thread continues. -/
  | fenceComplete (r : Rack) (t : Tid)
  /-- VADD (R279): Vector integer add. -/
  | skVadd (r : Rack) (t : Tid) (ty : VType) (d a b : Reg) (p : Fin 8) (pn : Bool)
  /-- VSUB (R279): Vector integer subtract. -/
  | skVsub (r : Rack) (t : Tid) (ty : VType) (d a b : Reg) (p : Fin 8) (pn : Bool)
  /-- VMUL (R279): Vector integer multiply. -/
  | skVmul (r : Rack) (t : Tid) (ty : VType) (d a b : Reg) (p : Fin 8) (pn : Bool)
  /-- VMIN (R279): Vector signed minimum. -/
  | skVmin (r : Rack) (t : Tid) (ty : VType) (d a b : Reg) (p : Fin 8) (pn : Bool)
  /-- VMAX (R279): Vector signed maximum. -/
  | skVmax (r : Rack) (t : Tid) (ty : VType) (d a b : Reg) (p : Fin 8) (pn : Bool)
  /-- VAND (R279): Vector AND. -/
  | skVand (r : Rack) (t : Tid) (ty : VType) (d a b : Reg) (p : Fin 8) (pn : Bool)
  /-- VOR (R279): Vector OR. -/
  | skVor (r : Rack) (t : Tid) (ty : VType) (d a b : Reg) (p : Fin 8) (pn : Bool)
  /-- VXOR (R279): Vector XOR. -/
  | skVxor (r : Rack) (t : Tid) (ty : VType) (d a b : Reg) (p : Fin 8) (pn : Bool)
  /-- VSHL (R279): Vector shift left. -/
  | skVshl (r : Rack) (t : Tid) (ty : VType) (d a b : Reg) (p : Fin 8) (pn : Bool)
  /-- VSHR (R279): Vector logical shift right. -/
  | skVshr (r : Rack) (t : Tid) (ty : VType) (d a b : Reg) (p : Fin 8) (pn : Bool)
  /-- VSRA (R279): Vector arithmetic shift right. -/
  | skVsra (r : Rack) (t : Tid) (ty : VType) (d a b : Reg) (p : Fin 8) (pn : Bool)
  /-- VADDS (R279): Vector saturating add. -/
  | skVadds (r : Rack) (t : Tid) (ty : VType) (d a b : Reg) (p : Fin 8) (pn : Bool)
  /-- VDOT4 (R279): INT8 four-way dot product into INT32 lanes. -/
  | skVdot4 (r : Rack) (t : Tid) (d a b : Reg) (p : Fin 8) (pn : Bool)
  /-- VABS (R279): Vector integer absolute value. -/
  | skVabs (r : Rack) (t : Tid) (ty : VType) (d a : Reg) (p : Fin 8) (pn : Bool)
  /-- VFADD (R279): Vector floating add. -/
  | skVfadd (r : Rack) (t : Tid) (ty : VType) (d a b : Reg) (p : Fin 8) (pn : Bool)
  /-- VFSUB (R279): Vector floating subtract. -/
  | skVfsub (r : Rack) (t : Tid) (ty : VType) (d a b : Reg) (p : Fin 8) (pn : Bool)
  /-- VFMUL (R279): Vector floating multiply. -/
  | skVfmul (r : Rack) (t : Tid) (ty : VType) (d a b : Reg) (p : Fin 8) (pn : Bool)
  /-- VFMA (R279): Vector fused multiply-add. -/
  | skVfma (r : Rack) (t : Tid) (ty : VType) (d a b : Reg) (p : Fin 8) (pn : Bool)
  /-- VFMIN (R279): Vector minimumNumber. -/
  | skVfmin (r : Rack) (t : Tid) (ty : VType) (d a b : Reg) (p : Fin 8) (pn : Bool)
  /-- VFMAX (R279): Vector maximumNumber. -/
  | skVfmax (r : Rack) (t : Tid) (ty : VType) (d a b : Reg) (p : Fin 8) (pn : Bool)
  /-- VFMAW (R279): BF16 multiply with FP32 accumulation. -/
  | skVfmaw (r : Rack) (t : Tid) (d a b : Reg) (p : Fin 8) (pn : Bool)
  /-- VFABS (R279): Vector floating absolute value. -/
  | skVfabs (r : Rack) (t : Tid) (ty : VType) (d a : Reg) (p : Fin 8) (pn : Bool)
  /-- VFRCP (R280): Vector reciprocal. -/
  | skVfrcp (r : Rack) (t : Tid) (ty : VType) (d a : Reg) (p : Fin 8) (pn : Bool)
  /-- VFRSQ (R280): Vector reciprocal square root. -/
  | skVfrsq (r : Rack) (t : Tid) (ty : VType) (d a : Reg) (p : Fin 8) (pn : Bool)
  /-- VFEXP (R280): Vector exponential. -/
  | skVfexp (r : Rack) (t : Tid) (ty : VType) (d a : Reg) (p : Fin 8) (pn : Bool)
  /-- VFTANH (R280): Vector hyperbolic tangent. -/
  | skVftanh (r : Rack) (t : Tid) (ty : VType) (d a : Reg) (p : Fin 8) (pn : Bool)
  /-- VBCAST (R278): Broadcast a scalar to every lane. -/
  | skVbcast (r : Rack) (t : Tid) (ty : VType) (d a : Reg) (p : Fin 8) (pn : Bool)
  /-- VINS (R278): Insert a scalar into one lane. -/
  | skVins (r : Rack) (t : Tid) (ty : VType) (d a b : Reg) (p : Fin 8) (pn : Bool)
  /-- VEXT (R278): Extract one lane to a scalar. -/
  | skVext (r : Rack) (t : Tid) (ty : VType) (d a b : Reg) (p : Fin 8) (pn : Bool)
  /-- VPERM (R278): Permute lanes. -/
  | skVperm (r : Rack) (t : Tid) (ty : VType) (d a b : Reg) (p : Fin 8) (pn : Bool)
  /-- VSEL (R278): Select lanes by predicate. -/
  | skVsel (r : Rack) (t : Tid) (ty : VType) (d a b : Reg) (p : Fin 8) (pn : Bool)
  /-- VCMPEQ (R281): Lane-wise equality into a predicate. -/
  | skVcmpeq (r : Rack) (t : Tid) (ty : VType) (d : Fin 8) (a b : Reg) (p : Fin 8) (pn : Bool)
  /-- VCMPLT (R281): Lane-wise less-than into a predicate. -/
  | skVcmplt (r : Rack) (t : Tid) (ty : VType) (d : Fin 8) (a b : Reg) (p : Fin 8) (pn : Bool)
  /-- VCMPLE (R281): Lane-wise less-or-equal into a predicate. -/
  | skVcmple (r : Rack) (t : Tid) (ty : VType) (d : Fin 8) (a b : Reg) (p : Fin 8) (pn : Bool)
  /-- VRSUM (R278): Sum of lanes into a scalar. -/
  | skVrsum (r : Rack) (t : Tid) (ty : VType) (d a : Reg) (p : Fin 8) (pn : Bool)
  /-- VRMAX (R281): Largest lane into a scalar. -/
  | skVrmax (r : Rack) (t : Tid) (ty : VType) (d a : Reg) (p : Fin 8) (pn : Bool)
  /-- VRMAXA (R281): Largest lane magnitude into a scalar. -/
  | skVrmaxa (r : Rack) (t : Tid) (ty : VType) (d a : Reg) (p : Fin 8) (pn : Bool)
  /-- PAND (R281): Predicate AND. -/
  | skPand (r : Rack) (t : Tid) (d a b : Fin 8) (p : Fin 8) (pn : Bool)
  /-- POR (R281): Predicate OR. -/
  | skPor (r : Rack) (t : Tid) (d a b : Fin 8) (p : Fin 8) (pn : Bool)
  /-- PXOR (R281): Predicate XOR. -/
  | skPxor (r : Rack) (t : Tid) (d a b : Fin 8) (p : Fin 8) (pn : Bool)
  /-- PCNT (R281): Count set predicate bits. -/
  | skPcnt (r : Rack) (t : Tid) (d : Reg) (a : Fin 8) (p : Fin 8) (pn : Bool)
  /-- VLANE (R278): Write each lane's index. -/
  | skVlane (r : Rack) (t : Tid) (ty : VType) (d : Reg) (p : Fin 8) (pn : Bool)
  /-- VCVT (R282): Convert vector lanes between formats without a scale. -/
  | skVcvt (r : Rack) (t : Tid) (d a : Reg) (src dst : NFmt) (part : Fin 4) (p : Fin 8) (pn : Bool)
  /-- VSCL_EXPAND (R284): Expand narrow lanes to BF16 with a scale. -/
  | skVsclExpand (r : Rack) (t : Tid) (d a b : Reg) (fmt : NFmt) (part : Fin 4) (p : Fin 8) (pn : Bool)
  /-- VSCL_CODE (R284): Code BF16 lanes to a narrow format with a scale. -/
  | skVsclCode (r : Rack) (t : Tid) (d a b : Reg) (fmt : NFmt) (part : Fin 4) (p : Fin 8) (pn : Bool)
  /-- QT_REQ (R285): Hand a quantise descriptor to the rack's quantiser, or return 1 when it is full. -/
  | skQtReq (r : Rack) (t : Tid) (d a : Reg)
  /-- TSET (R287): Write a field of a tile descriptor register. -/
  | skTset (r : Rack) (t : Tid) (d : TReg) (a : Reg) (ofs : Fin 64) (wd : Fin 4)
  /-- TGET (R287): Read a field of a tile descriptor register. -/
  | skTget (r : Rack) (t : Tid) (d : Reg) (a : TReg) (ofs : Fin 64) (wd : Fin 4)
  /-- CK_MVM (R246): Issue one cask operation per named cask, refused on a descriptor violation or waiting for room. -/
  | skCkMvm (r : Rack) (t : Tid) (a : TReg)
  /-- CK_MVM_ACCEPT (R247): A waiting CK.MVM is rechecked and all its operations enter their queues in one rack clock. -/
  | ckMvmAccept (r : Rack) (t : Tid)
  /-- ACC_OPEN (R242): Open the lowest FREE AccMem slot or return −1. -/
  | skAccOpen (r : Rack) (t : Tid) (d : Reg)
  /-- ACC_WAIT (R290): Wait until a slot's pending count reaches 0. -/
  | skAccWait (r : Rack) (t : Tid) (a : Reg)
  /-- ACC_WAIT_COMPLETE (R290): A slot's pending count reaches 0 and the waiting ACC.WAIT completes. -/
  | accWaitComplete (r : Rack) (t : Tid)
  /-- ACC_LDP (R291): Start a partial load into an OPEN slot, or return 1 when 4 are outstanding. -/
  | skAccLdp (r : Rack) (t : Tid) (d a b : Reg)
  /-- ACC_DROP (R292): Request that a slot be dropped through the decant queue without output. -/
  | skAccDrop (r : Rack) (t : Tid) (a : Reg)
  /-- ACC_DROP_ACCEPT (R568): A waiting ACC.DROP is rechecked and accepted, sealing its slot. -/
  | accDropAccept (r : Rack) (t : Tid)
  /-- ACC_STAT (R288): Return a slot's state and pending count. -/
  | skAccStat (r : Rack) (t : Tid) (d a : Reg)
  /-- DC_DRAIN (R293): Request a drain of a slot under a drain descriptor. -/
  | skDcDrain (r : Rack) (t : Tid) (a b : Reg) (parity : Bool)
  /-- DC_DRAIN_ACCEPT (R568): A waiting DC.DRAIN is rechecked and accepted, sealing its slot. -/
  | dcDrainAccept (r : Rack) (t : Tid)
  /-- SY_SIG (R305): Signal a local or remote sync object as a release. -/
  | skSySig (r : Rack) (t : Tid) (a b : Reg)
  /-- SY_WAIT (R295): Wait for a sync object to reach a target. -/
  | skSyWait (r : Rack) (t : Tid) (d a b : Reg)
  /-- SY_WAITR (R295): Wait for a sync object under the remote-wait timeout. -/
  | skSyWaitr (r : Rack) (t : Tid) (d a b : Reg)
  /-- SY_RD (R295): Return a sync object's count. -/
  | skSyRd (r : Rack) (t : Tid) (d a : Reg)
  /-- RG_PUSH (R296): Enqueue a packet into a device-fed ring, or return 1 when it is full. -/
  | skRgPush (r : Rack) (t : Tid) (d a b : Reg)
  /-- RG_STAT (R356): OR a value into the packet's kernel status word. -/
  | skRgStat (r : Rack) (t : Tid) (a : Reg)
  /-- POS_RD (R450): Return the current position in µm. -/
  | skPosRd (r : Rack) (t : Tid) (d : Reg)
  /-- POS_FRM (R454): Return the current frame number. -/
  | skPosFrm (r : Rack) (t : Tid) (d : Reg)
  /-- POS_TAGP (R45): Return the position sampled when the packet started. -/
  | skPosTagp (r : Rack) (t : Tid) (d : Reg)
  /-- POS_TAGF (R45): Return the frame number in force when the packet started. -/
  | skPosTagf (r : Rack) (t : Tid) (d : Reg)
  /-- RG_ENABLE (R339): The ENABLE command reads the ring context and makes the ring ACTIVE, or fails with ERR 1. -/
  | rgEnable
  /-- RG_STOP (R340): The STOP command moves an ACTIVE ring to STOPPING. -/
  | rgStop
  /-- RG_RESUME (R340): The RESUME command returns a STOPPED ring to ACTIVE. -/
  | rgResume
  /-- RG_RESET (R340): The RESET command zeroes a ring's indices and leaves it DISABLED. -/
  | rgReset
  /-- RING_DOORBELL (R341): A doorbell write adds COUNT to a host-fed ring's TAIL. -/
  | ringDoorbell (n : RingId) (v : Word)
  /-- PACKET_FETCH (R348): The packet at START is fetched and its header checked before it waits or starts. -/
  | packetFetch (n : RingId)
  /-- GATE_ENTRY_GRANT (R351): A gated ring takes a gate entry from the pool when one is free. -/
  | gateEntryGrant (n : RingId)
  /-- PACKET_START (R349): A packet whose conditions all hold starts, sampling frame and position and advancing START. -/
  | packetStart (n : RingId)
  /-- THREAD_PLACE (R369): A packet's threads are placed on a rack once it has enough FREE contexts. -/
  | threadPlace (n : RingId) (idx : Index) (r : Rack)
  /-- PACKET_COMPLETE (R355): A packet whose work has all finished writes its completion record, signals, retires and raises
      its vector. -/
  | packetComplete (n : RingId) (idx : Index)
  /-- STATUS_SECTOR_WRITE (R345): The device writes the ring status sector after a retire or state change, or within 2 µs
      after TAIL changes. -/
  | statusSectorWrite (n : RingId)
  /-- NOP_PACKET (R366): A NOP packet only waits, gates and signals. -/
  | nopPacket (n : RingId) (idx : Index)
  /-- KERNEL (R369): A KERNEL packet places threads of a custom kernel on a range of racks. -/
  | kernel (n : RingId) (idx : Index)
  /-- COPY (R394): A COPY packet moves data through a DMA engine, optionally sealing or checking seals. -/
  | copy (n : RingId) (idx : Index) (q : Quad) (e : Fin 4)
  /-- COPY_COMPLETE (R390): A DMA engine finishes a COPY or stops at a failing sector. -/
  | copyComplete (q : Quad) (e : Fin 4) (hostData : List Byte) (fault : CopyFault)
  /-- MATMUL (R314): A MATMUL packet checks its layer map and runs the tile walker. -/
  | matmul (n : RingId) (idx : Index)
  /-- CONV2D (R314): A CONV2D packet runs the tile walker with halo exchange. -/
  | conv2d (n : RingId) (idx : Index)
  /-- DWCONV (R366): A DWCONV packet runs a depthwise convolution on the vector units. -/
  | dwconv (n : RingId) (idx : Index)
  /-- ATTENTION (R366): An ATTENTION packet runs attention on the vector units. -/
  | attention (n : RingId) (idx : Index)
  /-- LAYERNORM (R366): A LAYERNORM packet runs layer or RMS normalisation. -/
  | layernorm (n : RingId) (idx : Index)
  /-- POOL (R366): A POOL packet runs max or mean pooling. -/
  | pool (n : RingId) (idx : Index)
  /-- RESIZE (R366): A RESIZE packet resizes a tensor. -/
  | resize (n : RingId) (idx : Index)
  /-- ELTWISE (R366): An ELTWISE packet runs an element-wise operation. -/
  | eltwise (n : RingId) (idx : Index)
  /-- QUANTIZE (R569): A QUANTIZE packet codes a tensor into data and scale blocks. -/
  | quantize (n : RingId) (idx : Index)
  /-- TOPK_NMS (R366): A TOPK_NMS packet selects top-k scores or runs non-maximum suppression. -/
  | topkNms (n : RingId) (idx : Index)
  /-- SENSOR_FUSE (R366): A SENSOR_FUSE packet bins front-end sample records by position. -/
  | sensorFuse (n : RingId) (idx : Index)
  /-- RACK_LOAD (R120): A RACK_LOAD packet hands a racking plan to the cellarer. -/
  | rackLoad (n : RingId) (idx : Index)
  /-- TOP_UP (R151): A TOP_UP packet makes topping due for the named casks. -/
  | topUp (n : RingId) (idx : Index)
  /-- POD_ALLREDUCE (R366): A POD_ALLREDUCE packet reduces a tensor across pod members. -/
  | podAllreduce (n : RingId) (idx : Index)
  /-- POD_BROADCAST (R366): A POD_BROADCAST packet sends a tensor from a root to pod members. -/
  | podBroadcast (n : RingId) (idx : Index)
  /-- POD_ALLGATHER (R366): A POD_ALLGATHER packet gathers a tensor across pod members. -/
  | podAllgather (n : RingId) (idx : Index)
  /-- ESTATE_SEND (R372): An ESTATE_SEND writes a message and envelope to the host outbox and raises its vector. -/
  | estateSend (n : RingId) (idx : Index)
  /-- ESTATE_RECV (R372): An ESTATE_RECV waits for host software to write a message into the inbox. -/
  | estateRecv (n : RingId) (idx : Index)
  /-- ESTATE_ACK (R372): Host software writes an acknowledgement or failure to the outbox and the send completes. -/
  | estateAck (n : RingId) (idx : Index) (ok : Bool)
  /-- ESTATE_INBOX_WRITE (R372): Host software writes a message from SOURCE into the inbox and the receive completes with
      its acknowledgement. -/
  | estateInboxWrite (n : RingId) (idx : Index) (source : BitVec 16) (data : List Byte)
  /-- ESTATE_TIMEOUT (R372): An estate send that gets no answer within RG_ESTATE_TMO completes with TIMEOUT. -/
  | estateTimeout (n : RingId) (idx : Index)
  /-- HOST_SIGNAL (R365): A write to SY_SIGNAL adds a signed value to the selected sync object. -/
  | hostSignal (v : Word)
  /-- SY_SEL_WRITE (R365): A write to SY_SEL selects an object and may clear its WRAP bit. -/
  | sySelWrite (v : Word)
  /-- REMOTE_SIGNAL_ARRIVE (R362): A remote signal arrives over Burivo and is applied to the local object. -/
  | remoteSignalArrive (via : Via) (m : Member) (obj : BitVec 16) (v : Word)
  /-- REMOTE_WAIT_TIMEOUT (R438): An SY.WAITR or WAIT_REMOTE packet reaches the remote-wait timeout. -/
  | remoteWaitTimeout (w : Waiter)
  /-- EQ_HEAD_WRITE (R375): A write to EQ_HEAD consumes records, or is discarded with EV_RING_CONFIG when out of range. -/
  | eqHeadWrite (e : Fin 16) (v : Word)
  /-- EQ_ARM_WRITE (R378): Writing EQ_ARM arms the queue, or raises its vector at once when records are waiting. -/
  | eqArmWrite (e : Fin 16) (v : Word)
  /-- EQ_CFG_WRITE (R380): A write to EQ_CFG enables or configures an event queue after its range check. -/
  | eqCfgWrite (e : Fin 16) (v : Word)
  /-- HOST_BAR4_READ (R385): A host read through BAR4 reads DRAM through the shared cache. -/
  | hostBar4Read (off len : Nat) (parity : Bool)
  /-- HOST_BAR4_WRITE (R386): A host write TLP through BAR4 writes whole sectors into DRAM. -/
  | hostBar4Write (off : Nat) (data : List Byte) (fullBE parity : Bool)
  /-- HOST_BAR2_READ (R234): A host read through BAR2 reads a rack scratchpad. -/
  | hostBar2Read (off len : Nat) (parity : Bool)
  /-- HOST_BAR2_WRITE (R386): A host write TLP through BAR2 writes whole sectors into a rack scratchpad. -/
  | hostBar2Write (off : Nat) (data : List Byte) (fullBE parity : Bool)
  /-- CACHE_FILL (R388): DRAM data for a shared-cache miss returns and is checked and installed. -/
  | cacheFill (sector : Nat) (link : LinkResult)
  /-- SCRUB_GO (R399): Writing GO to MC_SCRUB_CTRL starts a scrub pass over the range. -/
  | scrubGo (v : Word)
  /-- SCRUB_ABORT (R402): Writing ABORT ends the scrub pass after the sector in progress. -/
  | scrubAbort
  /-- SCRUB_SECTOR (R400): The scrubber reads and checks the next sector at its rate limit. -/
  | scrubSector (link : LinkResult)
  /-- SEAL_DISABLE (R398): Writing SEAL_EN 0 clears every seal's VALID bit. -/
  | sealDisable
  /-- DMA_QUIESCE (R410): Writing MC_CTRL.DMA_QUIESCE stops DMA engines from starting new copies. -/
  | dmaQuiesce
  /-- DMA_TOKEN_RETURN (R405): A DMA request's token returns to its engine after its completion arrives. -/
  | dmaTokenReturn (q : Quad) (e : Fin 4)
  /-- TRELLIS_FLIT_RECEIVE (R406): A trellis flit arrives and is checked by CRC, or discarded and replayed. -/
  | trellisFlitReceive (r : Rack) (dir : Fin 4) (flit : List Byte) (crcOk : Bool)
  /-- TRELLIS_CREDIT_RETURN (R406): A trellis link credit returns after its flit is accepted. -/
  | trellisCreditReturn (r : Rack) (dir : Fin 4)
  /-- PERST_ASSERT (R423): Assertion of PERST# causes a cold reset. -/
  | perstAssert
  /-- PERST_RELEASE (R424): Release of PERST# lets the configuration space come up. -/
  | perstRelease
  /-- HOT_RESET (R423): A received hot reset causes a device warm reset. -/
  | hotReset
  /-- DL_DOWN (R423): The host link going down causes a device warm reset. -/
  | dlDown
  /-- FUNCTION_LEVEL_RESET (R423): A Function Level Reset causes a device warm reset. -/
  | functionLevelReset
  /-- CONFIG_REQUEST (R424): A configuration request is answered, or retried until configuration space is ready. -/
  | configRequest (off : Nat) (wr : Option Word)
  /-- D3HOT_ENTRY (R422): The function enters D3hot and answers only configuration requests. -/
  | d3hotEntry
  /-- D0_RETURN (R422): The function returns to D0 and issues its waiting requests. -/
  | d0Return
  /-- BUS_MASTER_DISABLE (R421): Clearing Bus Master Enable makes upstream requests wait. -/
  | busMasterDisable
  /-- BUS_MASTER_ENABLE (R421): Setting Bus Master Enable issues the waiting requests in order. -/
  | busMasterEnable
  /-- MSIX_UNMASK (R419): Unmasking a vector sends its pending message. -/
  | msixUnmask (v : Fin 2048)
  /-- RESIZABLE_BAR_WRITE (R417): A Resizable BAR write changes the host-visible size of BAR4. -/
  | resizableBarWrite (log2GiB : Fin 64)
  /-- POISONED_TLP (R420): A received poisoned or ECRC-failing TLP is discarded and logged. -/
  | poisonedTlp (kind : TlpKind) (ecrc : Bool)
  /-- COMPLETION_TIMEOUT (R420): A device read with no completion within the timeout ends with a bus error. -/
  | completionTimeout (q : Quad) (e : Fin 4)
  /-- PORT_ENABLE (R429): Setting a PORT_EN bit powers and trains a Burivo port. -/
  | portEnable (p : Fin 4)
  /-- PORT_DISABLE (R429): Clearing a PORT_EN bit takes the port down. -/
  | portDisable (p : Fin 4)
  /-- BV_QUIESCE (R440): Writing BV_CTRL.QUIESCE stops new peer messages. -/
  | bvQuiesce
  /-- BURIVO_FLIT_RECEIVE (R427): A Burivo flit arrives, is corrected by FEC and checked by CRC, or requests a replay. -/
  | burivoFlitReceive (p : Fin 4) (flit : Flit) (corrected crcOk : Bool)
  /-- BURIVO_CREDIT_RETURN (R428): A Burivo virtual-channel credit returns to the sender. -/
  | burivoCreditReturn (p : Fin 4) (vc : Fin 2)
  /-- IDLE_FLIT_SEND (R429): An enabled port with nothing to send sends an idle flit every 256 ns. -/
  | idleFlitSend (p : Fin 4)
  /-- PORT_LIVENESS_TIMEOUT (R429): A port with no valid flit for 2 µs goes down, discarding traffic and raising
      EV_LINK_DOWN. -/
  | portLivenessTimeout (p : Fin 4)
  /-- PORT_TRAINING_ATTEMPT (R429): A down enabled port attempts training every 1 ms. -/
  | portTrainingAttempt (p : Fin 4)
  /-- PORT_TRAINED (R429): Training succeeds, credits reset and EV_LINK_UP is raised. -/
  | portTrained (p : Fin 4) (lanes : Fin 5)
  /-- HEARTBEAT_SEND (R434): Every 500 ns the device sends a heartbeat with its epoch to each member. -/
  | heartbeatSend
  /-- HEARTBEAT_RECEIVE (R435): A heartbeat from a member arrives and updates its presence. -/
  | heartbeatReceive (via : Via) (m : Member) (epoch : Word)
  /-- PEER_LIVENESS_TIMEOUT (R436): A member silent for 2 µs is declared lost. -/
  | peerLivenessTimeout (m : Member)
  /-- PEER_MESSAGE_RECEIVE (R432): A peer-window store or remote signal arrives and is written, or rejected with
      EV_PEER_REJECT. -/
  | peerMessageReceive (via : Via) (m : Member) (addr : Nat) (data : List Byte)
  /-- PEER_ACK_RECEIVE (R433): An end-to-end acknowledgement marks a message delivered or failed. -/
  | peerAckReceive (via : Via) (m : Member) (id : Nat) (accepted : Bool)
  /-- ENCODER_EDGE (R443): An accepted encoder edge counts ±1 and updates position, high-water mark and frame distance. -/
  | encoderEdge (a b : Bool) (held : Nat)
  /-- INDEX_EDGE (R447): A rising ENC_Z edge closes an index interval and checks its count. -/
  | indexEdge (held : Nat)
  /-- PPS_EDGE (R449): A rising PPS edge latches the step clock and checks its interval. -/
  | ppsEdge (held : Nat)
  /-- PPS_LOST (R449): No PPS edge for 1.5 s clears PPS_OK and raises EV_PPS. -/
  | ppsLost
  /-- RATE_WINDOW_END (R445): At the end of each 100 µs window the count rate is checked against POS_RATE_MAX. -/
  | rateWindowEnd
  /-- IDLE_DECLARE (R448): No count for POS_STILL ms declares idle, forming an idle boundary. -/
  | idleDeclare
  /-- SYNTHETIC_COUNT (R453): A synthetic source produces one count. -/
  | syntheticCount
  /-- POS_SYN_STEP_WRITE (R453): A write to POS_SYN_STEP adds a signed number of synthetic counts. -/
  | posSynStepWrite (v : Word)
  /-- POS_CAPTURE_READ (R479): A read of POS_COUNT_LO captures count, position and frame number together. -/
  | posCaptureRead
  /-- PPS_CAPTURE_READ (R479): A read of POS_PPS_LO latches POS_PPS_HI. -/
  | ppsCaptureRead
  /-- PET_ENTRY_WRITE (R459): A write to PET_W3 installs a whole Position Event Table entry. -/
  | petEntryWrite (v : Word)
  /-- PET_ENTRY_FIRE (R458): A scanned entry whose condition holds fires its action and clears or advances. -/
  | petEntryFire (n : Fin 4096)
  /-- ADC_TIMER_TRIGGER (R464): The ADC timer trigger fires when STEP is a multiple of FE_TIMER.PERIOD. -/
  | adcTimerTrigger
  /-- ADC_SOFTWARE_TRIGGER_REGULAR (R464): Writing FE_SW_TRIG bit 0 triggers the regular sequence. -/
  | adcSoftwareTriggerRegular
  /-- ADC_SOFTWARE_TRIGGER_INJECTED (R464): Writing FE_SW_TRIG bit 1 triggers the injected sequence. -/
  | adcSoftwareTriggerInjected
  /-- ADC_PASS_START (R464): A trigger's delay ends and the ADC pass begins. -/
  | adcPassStart (inj : Bool)
  /-- ADC_PASS_END (R467): A regular pass ends and writes its sample record to the buffer. -/
  | adcPassEnd (raw : List Int)
  /-- INJECTED_PASS_END (R468): An injected pass writes its results and checks limits. -/
  | injectedPassEnd (raw : List Int)
  /-- ADC_TRIGGER_TIMEOUT (R466): A sequence without a trigger for TMO ms raises EV_ADC_TRIG_TMO. -/
  | adcTriggerTimeout (inj : Bool)
  /-- REFIN_MEASURE (R462): Every 1 ms the front end measures REFIN and flags a reference fault. -/
  | refinMeasure (mv : Nat)
  /-- REF_SETTLE_END (R462): The reference settling time ends and REF_SETTLED reads 1. -/
  | refSettleEnd
  /-- DAC_UPDATE (R469): Every 1 µs each DAC channel updates its output per its mode. -/
  | dacUpdate
  /-- DAC_SUP_TIMEOUT (R474): No compared read-back for SUP.TMO ms causes a DAC fault with cause 1. -/
  | dacSupTimeout (n : Fin 8)
  /-- DAC_FAULT_CLEAR (R475): A W1C of FAULT returns the channel to its mode at the next update. -/
  | dacFaultClear (n : Fin 8) (v : Word)
  /-- FE_TBL_DATA_ACCESS (R472): An access to FE_TBL_DATA reads or writes table 1 and advances IDX. -/
  | feTblDataAccess (wr : Option Word)
  /-- TRIG_TIME_PERIOD (R476): A mode-1 trigger output starts a new period. -/
  | trigTimePeriod (n : Fin 16)
  /-- TRIG_PULSE_END (R476): An output's active pulse ends after B step clocks. -/
  | trigPulseEnd (n : Fin 16)
  /-- CAL_FRONT_END_RANGE (R483): GO with SCOPE 0x1 starts a front-end range calibration. -/
  | calFrontEndRange (v : Word) (refcalUv : Int)
  /-- CAL_SYSTEM_ZERO (R486): GO with SCOPE 0x2 measures a channel's system zero. -/
  | calSystemZero (v : Word)
  /-- CAL_SYSTEM_FULL_SCALE (R487): GO with SCOPE 0x3 measures a channel's full scale and writes a vintage. -/
  | calSystemFullScale (v : Word)
  /-- CAL_CASK (R488): GO with SCOPE 0x4 requests a cask calibration. -/
  | calCask (v : Word) (refcalUv : Int)
  /-- CAL_CASK_HOLD_START (R488): Once no other hold covers its rack, the cask calibration holds the rack and begins. -/
  | calCaskHoldStart
  /-- CAL_WHOLE_DEVICE (R491): GO with SCOPE 0x5 starts a whole-device calibration. -/
  | calWholeDevice (v : Word) (refcalUv : Int)
  /-- CAL_ABORT (R493): Writing ABORT ends the procedure after its current step with result 0x04. -/
  | calAbort
  /-- CAL_END (R494): A procedure ends, sets RESULT and raises EV_CAL_DONE or EV_CAL_REJECT. -/
  | calEnd (m : CalMeasure)
  /-- THREAD_BUDGET_EXPIRY (R503): A waiting thread's budget counter expires and its instruction raises BUDGET. -/
  | threadBudgetExpiry (r : Rack) (t : Tid)
  /-- RING_PROGRESS_EXPIRY (R504): A ring's progress counter expires and opens a hang incident. -/
  | ringProgressExpiry (n : RingId)
  /-- CASK_WATCHDOG_EXPIRY (R505): A cask's operation counter expires and opens a hang incident. -/
  | caskWatchdogExpiry (c : CaskId)
  /-- DUMP (R521): The cellarer reads the frozen engine through its side port and writes the dump. -/
  | dump (unreadable : List Nat)
  /-- DUMP_TIME_LIMIT (R520): A dump reaching MAX_MS stops with TRUNCATED. -/
  | dumpTimeLimit (written : Nat) (unreadable : List Nat)
  /-- ENGINE_RESET (R508): An engine is reset in its domain, discarding its work and returning its credits. -/
  | engineReset
  /-- ENGINE_RESET_DONE (R510): An engine reset completes and EV_ENGINE_RESET is raised. -/
  | engineResetDone
  /-- RESET_ESCALATION (R509): A reset not complete in time escalates to the next domain. -/
  | resetEscalation
  /-- SUSPECT_REPLAY (R514): A suspect's other work is cancelled and it runs again from its start. -/
  | suspectReplay
  /-- HOST_RESET (R511): An HG_RESET write resets a unit and aborts its packets. -/
  | hostReset (v : Word)
  /-- HOST_RESUME (R523): An HG_RESUME write returns one or all out-of-service engines to service. -/
  | hostResume (v : Word)
  /-- CELLARER_WATCHDOG (R507): The cellarer's 250 ms watchdog expires and causes a device warm reset. -/
  | cellarerWatchdog
  /-- DEVICE_WARM_RESET (R535): A device warm reset wipes on-die state and DRAM and runs the boot flow. -/
  | deviceWarmReset (cause : BitVec 4)
  /-- COLD_RESET (R535): A cold reset reloads fuses and DRAM training and runs the boot flow. -/
  | coldReset (cause : BitVec 4)
  /-- POWER_ON (R528): The supplies rise and the device holds itself in cold reset. -/
  | powerOn
  /-- RAIL_UNDERVOLTAGE (R529): A rail of groups 1 to 3 below threshold for 1 µs forces a cold reset. -/
  | railUndervoltage (rail : Rail)
  /-- COLD_RESET_HOLD_END (R528): The 1 ms cold-reset hold after the rails rise ends. -/
  | coldResetHoldEnd (bootSrc pcieEn testEn : Bool)
  /-- VPP_LOST (R530): VPP falls below threshold, pulses are cut off and EV_VPP_FAULT is raised. -/
  | vppLost
  /-- VPP_RESTORED (R530): VPP returns, EV_VPP_FAULT is raised and cut-off rows are reprogrammed. -/
  | vppRestored
  /-- PM_DOMAIN_OFF (R532): A PM_ON write requests a domain off and the device checks its condition. -/
  | pmDomainOff (d : Fin 80)
  /-- PM_DOMAIN_ON (R531): A PM_ON write requests a domain on. -/
  | pmDomainOn (d : Fin 80)
  /-- DOMAIN_POWER_UP_DONE (R533): A domain finishes powering up and its racks, casks or slice are brought back. -/
  | domainPowerUpDone (d : Fin 80)
  /-- BOOT_FLOW (R536): After a reset the device runs the boot flow up to FW_READY. -/
  | bootFlow (copy0 copy1 : Option (List Byte)) (reads : List CaskReads)
  /-- BOOT_CMD_GO (R539): Writing BOOT_CMD.GO makes the ROM check a host-supplied image. -/
  | bootCmdGo
  /-- LIB_BASE_WRITE (R540): A write to LIB_BASE moves the library region and the kernels are copied there. -/
  | libBaseWrite (hi : Bool) (v : Word)
  /-- LC_SVN_RAISE (R541): Writing LC_SVN with its key fuses the minimum SVN up to the running SVN. -/
  | lcSvnRaise (v : Word)
  /-- LIFE_CYCLE_TRANSITION (R542): An LC_REQ write performs a permitted life-cycle transition with its erasures, or raises
      EV_LC_REFUSED. -/
  | lifeCycleTransition (v : Word)
  /-- COLD_ERASE (R543): Writing LC_ERASE with its key erases every cask. -/
  | coldErase (v : Word)
  /-- ATTESTATION_REPORT (R544): AT_CMD GO with KIND 0 produces a signed attestation report. -/
  | attestationReport
  /-- ATTESTATION_PUBLIC_KEYS (R544): AT_CMD GO with KIND 1 writes the public-key record. -/
  | attestationPublicKeys
  /-- ATTEST_DONE (R544): An attestation command ends and raises EV_ATTEST_DONE. -/
  | attestDone
  /-- JOURNAL_WRITE (R548): A waiting journal entry is written to NVM. -/
  | journalWrite
  /-- JR_SEL_WRITE (R549): A write to JR_SEL selects a journal entry for reading, setting MISS when absent. -/
  | jrSelWrite (v : Word)
  /-- THERM_ALERT (R560): A temperature comparator asserts or releases THERM_ALERT#. -/
  | thermAlert (temps : List Int)
  /-- THERMTRIP (R561): A sensor at the trip value for 10 µs drives THERMTRIP#, stops work and enters cold reset. -/
  | thermtrip
  /-- REGISTER_READ (R5): A host read through BAR0 that is narrower than 32 bits, misaligned, or outside the device control
      region before FW_READY completes with a completer abort, raising EV_REG_ACCESS where R5 applies. -/
  | registerRead (off size : Nat)
  /-- ILLEGAL_INSTRUCTION (R269): A thread issues an instruction word with a reserved MAJ, FN, SZ, C or format code and
      raises the ILLEGAL exception. -/
  | illegalInstruction (r : Rack) (t : Tid) (w : Word)
  /-- INSTRUCTION_FETCH_FAULT (R268): An instruction fetch from a non-DRAM address, from a misaligned PC, or with an
      uncorrectable error raises ADDRESS, ALIGN or BUS with the FETCH flag and halts the thread. -/
  | instructionFetchFault (r : Rack) (t : Tid) (parity : Bool)
  /-- PCIE_LINK_UP (R412): Host link training completes and the data link layer comes up, setting PX_STATUS.LINK_UP, WIDTH
      and SPEED. -/
  | pcieLinkUp (width : Fin 16) (speed : Fin 8)
  /-- DOMAIN_POWER_DOWN_DONE (R532): A switched power domain that is being turned off reports off; LG_POOL_STATUSq.DOWN
      clears for a bias domain, and a pending request to turn the domain on is carried out. -/
  | domainPowerDownDone (d : Fin 80)
  /-- CAL_WHOLE_DEVICE_HOLD_START (R491): Once every other cellarer hold has ended, an accepted whole-device calibration
      holds every cask and begins its procedure. -/
  | calWholeDeviceHoldStart
  deriving DecidableEq, Repr

end Sys2Proof
end

