-- ==== Sys2Proof/Machine/State.lean ====
section
/-! DEFINITION. The state of the device, as plain data: every register, memory, queue, counter, mode and pin the spec gives it,
the queue of waiting commands, and the state right after reset. -/

namespace Sys2Proof.Machine

/-! ### Packets, casks and the current ledger -/

/-- The packet some work belongs to: its ring and its index (R358, R377, R512). -/
structure PktId where
  ring : RingId
  idx : Index
  deriving DecidableEq, Repr

/-- A gain policy: fixed window or admission, replay enable, precision floor (R70, R71). -/
structure Gain where
  fixed : Bool
  replay : Bool
  floor : Nat
  deriving DecidableEq, Repr

/-- One cask operation, as its tile descriptor resolves it for its cask (Table 7.5, R247). op is the model's own name for it;
tile is the descriptor. -/
structure CaskOp where
  op : Nat
  data : Nat
  scale : Nat
  token0 : Nat
  ntok : Nat
  block : Nat
  slot : Nat
  group : Nat
  infmt : Nat
  w5 : Bool
  govr : Option Gain
  pkt : Option PktId
  tile : List Byte
  deriving DecidableEq, Repr

/-- One sub-step's part of a segment: the rows it drives and its gain code (R91). -/
structure SegPart where
  seg : Nat
  rows : List Nat
  gain : Nat
  deriving DecidableEq, Repr

/-- One slice or sub-step of a token that waits for an integration window (R92, R98). slice 1 is the A8 high slice, 0 the low or
only slice. levels are the 512 signed slice levels; a replay carries the mapping (CK_REMAP and CK_PIN words) of its original slice
(R74, R82). -/
structure SliceReq where
  op : Nat
  tok : Nat
  slice : Nat
  sub : Nat
  replay : Bool
  levels : List Int
  parts : List SegPart
  cost : Nat
  map : Option (List Word × List Word)
  deriving DecidableEq, Repr

/-- A grant: the step clock at which the granted window begins, and the limit that the arbitration placed it under (R100, R103, R104). -/
structure Grant where
  at' : Nat
  limit : Nat
  deriving DecidableEq, Repr

/-- The cask's one outstanding request: what it asks for, its start window, its age, the step clock it was posted at, and its grant (R98,
R100). -/
structure Posted where
  req : SliceReq
  start : Nat
  age : Nat
  since : Nat
  grant : Option Grant
  deriving DecidableEq, Repr

/-- An integrated buffer that waits for conversion: the charge of each pair and segment in 1/1,024 unit by 8 pair + segment (R60,
R63), and the CK_REMAP and CK_PIN words in force when it integrated (R82). -/
structure ChargeBuf where
  req : SliceReq
  charges : Store Int
  remap : List Word
  pin : List Word
  deriving DecidableEq, Repr

/-- The converted results of one segment of one sub-step at one gain: the codes that serve pairs 0 to 513 (R56, R61). -/
structure Conv where
  op : Nat
  tok : Nat
  slice : Nat
  sub : Nat
  seg : Nat
  gain : Nat
  codes : List Int
  deriving DecidableEq, Repr

/-- What is in execution on a cask: a cask operation, a reference read (R79), or a tasting run (R179). -/
inductive OpKind where
  | mvm
  | refRead
  | taste
  deriving DecidableEq, Repr

/-- A cask operation, or a read of the cellarer's, in execution (R65, R66, R79, R179), with the codes of its tokens. `used` is the gain policy it runs on, fixed at its first
admitted slice step (R71); `pins` the pin set of R143 and `fit` the fit of R172, both fixed when its first slice integrates; `admitted`
and `added` count tokens; `past` says that its boundary is past. -/
structure RunOp where
  kind : OpKind
  op : CaskOp
  codes : List (List Byte)
  used : Option Gain
  pins : Option (List Word)
  fit : Option (Word × Word)
  admitted : Nat
  added : Nat
  skipped : List Nat
  past : Bool
  splitMax : Nat
  deriving DecidableEq, Repr

/-- Why the cellarer holds a cask (R122, R141, R152, R153, R179, R488, R491, R533, R543); topRemap: a remap that a topping called for. -/
inductive Hold where
  | racking
  | topping
  | topWait
  | diagnosis
  | remap
  | topRemap
  | tasting
  | refRead
  | cal
  | incident
  | domain
  | erase
  deriving DecidableEq, Repr

/-- Row table entry: ceiling and row sum (R85). -/
structure RowEnt where
  ceil : Nat
  sum : Nat
  deriving DecidableEq, Repr

/-- The words of the configuration cells that registers show (R80, R81): CK_CONFIG, CK_REMAP0–15, CK_PIN0–15, and the GEN of
CK_REMAP_COMMIT at that write. -/
structure CfgCells where
  config : Word
  remap : List Word
  pin : List Word
  gen : Nat
  deriving DecidableEq, Repr

/-- What a cask is programmed for: every cell of a racking, the cells below their window in a topping, the cells of spares (R124, R141,
R152). -/
inductive ProgKind where
  | rack
  | top
  | spare
  deriving DecidableEq, Repr

/-- Programming in progress (R124 to R126, R139, R141, R152): the row, whether it is the row's second attempt, the pulses it has had, the
cells by 2 pair + (1 for the negative cell) still below their window and those above it, with their last read levels in 1/1,000 level,
whether a verify read of it is out, whether its pulse was cut off (R530); the failed cells and largest pulse counts of the rows that are
done; the spare prepared now and those prepared, with the pair each stands for; whether only the reference read that follows is awaited. -/
structure Prog where
  kind : ProgKind
  row : Nat
  second : Bool
  cycles : Nat
  below : List (Nat × Int)
  above : List (Nat × Int)
  reading : Bool
  cut : Bool
  fails : List CellFail
  pulses : List Nat
  spare : Option (Nat × Nat)
  ready : List (Nat × Nat)
  fit : Bool
  deriving DecidableEq, Repr

/-- One cask: what its cells and configuration cells hold, its queue and the work in progress, and what the cellarer knows of it. -/
structure Cask where
  /-- In STATE reset after a reset of its own until that reset ends (R134); the boot flow covers every cask. -/
  inReset : Bool
  racked : Bool
  incomplete : Bool
  chkLost : Bool
  retired : Nat
  digest : List Byte
  cells : CfgCells
  saving : Bool
  rows : Store RowEnt
  levels : Store Int
  lSum : Nat
  lCnt : Nat
  cycles8 : Nat
  shadowOk : Bool
  suspect : Bool
  outOfRange : Bool
  topDue : Bool
  diagDue : Bool
  tasteDue : Bool
  tasteRepeat : Bool
  /-- A repeated tasting run failed: no further repair, and suspect until racked again (R182). -/
  condemned : Bool
  /-- A topping follows the diagnosis that holds the cask, at the same boundary (R181). -/
  thenTop : Bool
  refMissed : Nat
  lastRef : Nat
  /-- The queue was found empty at an operation boundary in the present reference period (R144). -/
  foundEmpty : Bool
  /-- REF_A, REF_B and temperature of the fit before a topping, which folds use until the cask is released (R153). -/
  fitWas : Option (Int × Int × Int)
  hold : Option Hold
  prog : Option Prog
  failed : List Nat
  refA : Int
  refB : Int
  refA0 : Int
  refB0 : Int
  tFit : Int
  fitted : Bool
  queue : List CaskOp
  running : List RunOp
  waiting : List SliceReq
  posted : Option Posted
  replays : List SliceReq
  /-- The two integrator buffers, and whether the next integrating step integrates into B (R60). -/
  bufA : Option ChargeBuf
  bufB : Option ChargeBuf
  intoB : Bool
  convs : List Conv
  progress : Nat
  paused : Nat
  deriving DecidableEq, Repr

/-- The books of one integration window of a quadrant (R103, R106): credits granted and taken in its latest slice step, with those still
out from before; credits out, held until the window's two step clocks are over and in flight from then on; credits returned; the step
clock at which the window began; the limit it was granted under; credits written off whose return has not come. -/
structure Book where
  granted : Nat
  out : Nat
  returned : Nat
  at' : Nat
  limit : Nat
  lost : Nat
  deriving DecidableEq, Repr

/-- The current ledger beside its registers: books by 32 q + w, the slice step after each quadrant's latest arbitration, home windows
that were written, the queue and holders of VPP credits, casks whose return is on its way with the step clock it was sent, casks whose
credit was written off and whose return has not come (R100 to R109). -/
structure Ledger where
  books : Store Book
  arbitrated : Store Nat
  home : Store Nat
  vppQueue : List Nat
  vppHeld : List Nat
  vppSent : List (Nat × Nat)
  vppLost : List Nat
  deriving DecidableEq, Repr

/-! ### The rack: AccMem, correction, decant, quantiser -/

/-- What the first accepted operation records of a slot (R243). -/
structure SlotRec where
  scale : Nat
  token0 : Nat
  ntok : Nat
  group : Nat
  deriving DecidableEq, Repr

/-- One AccMem slot: its state (Table 7.4), record, the tags (BSN, FORMAT, E) of what added into it, skew mark, pending count,
failed-token mask of partials and that of R567, overflow reported by a partial's header, and the packet that opened it (R241 to R245, R512). -/
structure Slot where
  st : Nat
  rec' : Option SlotRec
  tags : List (Nat × Nat × Nat)
  skewed : Bool
  pend : Nat
  failed : Nat
  lost : Nat
  hdrOvf : Bool
  pkt : Option PktId
  deriving DecidableEq, Repr

/-- One entry of the decant's checksum store: the cask's terms and the correction unit's terms for a slot, token and cask (R171),
and the outcome once a drain has reached it (R174: 0 passed, 1 failed, 2 skipped), whether one of
two drains has passed it, whether it serves two slots, whether the cask's failure in this slot has raised its event. -/
structure ChkEntry where
  smaj : Int
  ymaj : Int
  ymin : Int
  q : Int
  x : Int
  e : Int
  b : Int
  ppin : Int
  added : Bool
  fit : Option (Word × Word)
  outcome : Option Nat
  passed : Bool
  twin : Bool
  told : Bool
  deriving DecidableEq, Repr

/-- The correction work of one operation (R166, R167): its cask, the operation, the next token, its pin set once fixed, the groups
of pinned columns with their levels on the 512 rows, once read (R165), and the tokens whose adds the cask dropped (R175). -/
structure CorrWork where
  cask : Nat
  op : CaskOp
  tok : Nat
  pins : Option (List Word)
  cols : Option (List (Nat × List (List Int)))
  dropped : List Nat
  deriving DecidableEq, Repr

/-- A row of the shadow in the correction unit's row buffer (R168). -/
structure RowBuf where
  cask : Nat
  row : Nat
  data : List Byte
  deriving DecidableEq, Repr

/-- A quantise request of the rack's quantiser (R285), and how far it has come: 0 accepted, 1 written. -/
structure QtReq where
  desc : Nat
  body : List Byte
  pkt : Option PktId
  phase : Nat
  status : Nat
  deriving DecidableEq, Repr

/-- A drain or drop in the decant queue (R255, R292): 0 waiting, 1 written and waiting for its signal, 2 waiting for its coded
tokens, 3 as 1 with nothing added into its slot (R251); and the residual rows that a tile walker staged for it, where RES does not lie as the output does (R329). -/
structure Drain where
  id : Nat
  isDrop : Bool
  slot : Nat
  desc : List Byte
  pkt : Option PktId
  phase : Nat
  staged : Option (List (List Byte))
  deriving DecidableEq, Repr

/-- Tokens that the quantise step of drain chains is assembling (R199): the drains that contribute, elements by
32,768 t + k, the tokens withheld by a drain. -/
structure QtAsm where
  out : Nat
  qscale : Nat
  qctrl : Nat
  scaleF : Nat
  ktok : Nat
  vtok : Nat
  drains : List Nat
  elems : Store Word
  withheld : List Nat
  pkt : Option PktId
  deriving DecidableEq, Repr

/-- A partial load in progress (R245, R291). -/
structure Ldp where
  addr : Nat
  slot : Nat
  pkt : Option PktId
  deriving DecidableEq, Repr

/-- One rack, beside its registers, scratchpad and AccMem elements. ibuf: the sectors of its instruction buffer with their contents (R27,
R268). passed: for each thread that has issued, the others that could issue then and have not issued since (R233). toDrop: slots of cancelled
packets that wait for room in the decant queue (R255, R514). -/
structure RackSt where
  slots : Store Slot
  chk : Store ChkEntry
  resid : Store (Int × Int)
  residOk : List Nat
  corr : List CorrWork
  rowBuf : List RowBuf
  qt : List QtReq
  drains : List Drain
  asm : List QtAsm
  ldp : List Ldp
  resetAt : Nat
  lastIssued : Nat
  passed : Store (List Nat)
  ibuf : List (Nat × List Byte)
  toDrop : List Nat
  deriving DecidableEq, Repr

/-! ### Threads -/

/-- Thread states (Table 7.1). -/
inductive TSt where
  | free
  | ready
  | waitMem
  | waitCask
  | waitSync
  | waitDrain
  | halted
  | held
  deriving DecidableEq, Repr

/-- Where load data or an engine's result goes. -/
inductive LoadDest where
  | sreg (d : Reg)
  | vreg (d : Reg)
  | treg (d : TReg)
  deriving DecidableEq, Repr

/-- The number of a register among those of a thread: scalars, vectors, tiles. -/
def LoadDest.code : LoadDest → Nat
  | .sreg d => d.val
  | .vreg d => 32 + d.val
  | .treg d => 64 + d.val

/-- A load outstanding, or the result of an engine instruction on its way (R275, R296): destination, device address, bytes,
sign extension, the instruction's PC and word. -/
structure Load where
  dest : LoadDest
  addr : Nat
  size : Nat
  signed : Bool
  result : Option DWord
  pc : DWord
  insn : Word
  deriving DecidableEq, Repr

/-- What a waiting thread waits for: load data, for every load or for those into some registers (R275, R233); engines
(R289 to R295); a fence (R304). -/
inductive Wait where
  | data (all : Bool) (regs : List LoadDest)
  | mvm (tile : BitVec 512)
  | acc (slot : Nat)
  | drain (slot : Nat) (desc : List Byte) (addr : Nat)
  | drop (slot : Nat)
  | sync (obj : Nat) (target : Word) (d : Reg) (remote : Bool)
  | fence
  | fenceP (d : Reg)
  deriving DecidableEq, Repr

/-- One thread context (R232, R263). Unlisted registers are zero; p0 and s0 are the accessors' business. `since` is the step clock
at which a wait began, `insn` the word of the instruction that waits (R299, R503), `struck` the registers whose parity fails (R389). -/
structure Thread where
  st : TSt
  pc : DWord
  s : Store DWord
  v : Store (BitVec 1024)
  p : Store (BitVec 128)
  t : Store (BitVec 512)
  fflags : BitVec 5
  loads : List Load
  wait : Option Wait
  since : Nat
  insn : Word
  pkt : Option PktId
  peerFailed : Bool
  exc : Option (List Byte)
  struck : List LoadDest
  deriving DecidableEq, Repr

/-! ### Rings, packets, events -/

/-- A ring's copy of its context (Table 10.1). -/
structure RingCtx where
  base : Nat
  cmpl : Nat
  wb : Nat
  log2 : Nat
  mode : Nat
  prio : Nat
  inflight : Nat
  vector : Nat
  deriving DecidableEq, Repr

/-- Ring states (Table 10.2). -/
inductive RingSt where
  | disabled
  | active
  | stopping
  | stopped
  | error
  deriving DecidableEq, Repr

/-- The packet at index START: its bytes, the latches of R350, its gate as a gate entry of the Position Event Table, the entry it has
taken, and the step clock it reached START. -/
structure Front where
  bytes : List Byte
  waited : Bool
  gated : Bool
  gate : Nat
  entry : Option Nat
  since : Nat
  deriving DecidableEq, Repr

/-- How far an operator's own engine work has come. -/
inductive OpWork where
  | none
  | kernel (racks : List Nat)
  | engine
  | plan (addr : Nat) (n : Nat) (next : Nat)
  | topUp (casks : List Nat)
  | estateSend (msg : Nat)
  | estateRecv
  | done
  deriving DecidableEq, Repr

/-! ### The tile walker (R308 to R335) -/

/-- A cell of one share in flight: the share's entry number, the cell, its slots, whether the cask operations are accepted, how many
partials have been loaded, whether the consumed objects have been signalled, how many drains are accepted (R316, R317). -/
structure Flight where
  share : Nat
  cell : Nat
  slots : List Nat
  fed : Bool
  loads : Nat
  told : Bool
  drained : Nat
  deriving DecidableEq, Repr

/-- A stream of a walker on a rack: home or producer; whether it runs in reduction-first order; the cell and the place among its shares
that it opens next; its cells in flight, oldest first; the last failed open in reduction-first order, with the rack's own drains then
outstanding; how many sync objects it has returned to 0; whether it has ended; the numbers of the drains it has handed to the decant
(R316 to R320, R332 to R334). -/
structure Stream where
  rack : Nat
  home : Bool
  redFirst : Bool
  cell : Nat
  next : Nat
  flights : List Flight
  tried : Option (Nat × List Nat)
  unwound : Nat
  ended : Bool
  mine : List Nat
  deriving DecidableEq, Repr

/-- A replica's input on a rack: whether the row buffers are filled, how many data blocks have been coded, whether the halo objects are
back at 0 (R320, R324, R327). -/
structure Strip where
  rack : Nat
  repl : Nat
  filled : Bool
  coded : Nat
  closed : Bool
  deriving DecidableEq, Repr

/-- A tile walker: whether it is that of a CONV2D, the layer map, the descriptors of input, output and residual and the parameter block as they were checked, its strips
and its streams. -/
structure Walk where
  conv : Bool
  map : List Byte
  tin : List Byte
  tout : List Byte
  tres : List Byte
  par : List Byte
  strips : List Strip
  streams : List Stream
  deriving DecidableEq, Repr

/-- A packet that has started and is not yet retired (R353 to R358). -/
structure Pkt where
  idx : Index
  bytes : List Byte
  work : OpWork
  complete : Bool
  code : Nat
  flags : Nat
  kstatus : Word
  events : Nat
  frame : Nat
  pos : Int
  exc : Option (List Byte)
  started : Nat
  order : Nat
  replay : Bool
  walk : Option Walk
  deriving DecidableEq, Repr

/-- One ring (R337 to R346). -/
structure Ring where
  st : RingSt
  err : Nat
  ctx : RingCtx
  head : Index
  tail : Index
  start : Index
  front : Option Front
  pkts : List Pkt
  wbDue : Bool
  progress : Nat
  paused : Nat
  deriving DecidableEq, Repr

/-- What the device sends on its host link and on its Burivo ports. DMA write data carries its Relaxed Ordering attribute; nothing else has
one (R414). A Burivo message leaves through a port on VC0 or VC1, from a member to a member; the number is that of its source (R431,
R433). The fields of an estate envelope stand by name: no rule gives its layout, nor that of an acknowledgement word (R372). -/
inductive HostMsg where
  | readData (data : List Byte)
  | regData (v : Word)
  | abort
  | write (addr : Nat) (data : List Byte)
  | dmaWrite (addr : Nat) (data : List Byte) (relaxed : Bool)
  | read (addr : Nat) (len : Nat)
  | msix (v : Nat) (addr : Nat) (data : Word)
  | crs
  | cfgData (v : Word)
  | event (cls : Nat) (record : List Byte)
  | estate (outbox : Nat) (identity dest length number : Nat) (data : List Byte)
  | estateAck (inbox : Nat)
  | burivo (port : Nat) (vc1 : Bool) (src dest id : Nat) (load : PeerLoad)
  | flitCredit (port : Nat) (vc1 : Bool)
  | flitIdle (port : Nat)
  | flitReplay (port seq : Nat)
  deriving DecidableEq, Repr

/-! ### Memory -/

/-- A shared-cache sector: its 32 bytes as a number's little-endian bytes, its parity word, and whether it is dirty (R387). -/
structure CSector where
  data : List Byte
  par : Word
  dirty : Bool
  deriving DecidableEq, Repr

/-- A COPY in progress on a DMA engine: its requests not issued yet, and the step clock at which it began (R405, R420). -/
structure Copy where
  pkt : PktId
  src : Nat
  dst : Nat
  len : Nat
  mode : Nat
  todo : Nat
  since : Nat
  deriving DecidableEq, Repr

/-- One DMA engine: the COPY it runs, and its 64 tokens as outstanding and in return (R405). -/
structure Dma where
  copy : Option Copy
  out : Nat
  back : Nat
  deriving DecidableEq, Repr

/-- One direction of a trellis link: the flits sent whose credits are not back, oldest first, which are the sender's replay buffer; how many of
them the receiver's buffer holds; consecutive failures; down (R406). -/
structure TLink where
  sent : List (List Byte)
  got : Nat
  fails : Nat
  down : Bool
  deriving DecidableEq, Repr

/-- A scrub pass: next address, end, start stamp, whether it ends by ABORT (R399 to R402). -/
structure Scrub where
  next : Nat
  stop : Nat
  since : Nat
  deriving DecidableEq, Repr

/-- The memories (R381 to R409). Device DRAM by byte address; parity words by sector; valid seals by 4 KiB block; cached sectors by
sector; cache lines by line with their use stamps; the packet arrays of resident rings as first line and number of lines (R387);
scratchpads by 0x8_0000 r + offset; AccMem elements of 36 bits by ((16 r + slot) 16 + t) 256 + c. Scratchpad sectors and AccMem tiles
(16 r + slot) whose stored parity fails (R389); DRAM sectors whose fill met an uncorrectable link error and whose reader has not had
its bus error yet (R381). -/
structure Mem where
  dram : Store Byte
  parity : Store Word
  seals : Store Word
  csec : Store CSector
  cline : Store Nat
  stamp : Nat
  pins : List (Nat × Nat)
  sp : Store Byte
  acc : Store (BitVec 36)
  spBad : KeySet
  accBad : KeySet
  failed : KeySet
  dma : Store Dma
  tlink : Store TLink
  scrub : Option Scrub
  deriving DecidableEq, Repr

/-- The Channel Rescale Table and match gains: in force and staged (R162, R220 to R226), whether a bank copy is due, racks that wait
for a refold, racks that wait for the refold of a racking, racks of the batch in progress and whether it is a racking's, racks whose refold is
staged and not yet in force, casks whose racking waits for its own apply. -/
structure Quant where
  crt : Store Word
  crtStaged : Store Word
  gain : Store Word
  gainStaged : Store Word
  copyDue : Bool
  refold : List Nat
  rackFold : List Nat
  batch : List Nat
  forRack : Bool
  folded : List Nat
  rackWait : List Nat
  deriving DecidableEq, Repr

/-- The cellarer's own state: device digest, next cask of the tasting round robin and where it goes on at the present point, runs
allowed there, casks whose tasting is owed first there, entries of racking plans in progress, casks to rebuild with what their cells
will read, by 1,064 row + 2 pair + (1 for the negative cell) in 1/1,024 level, where that is not what their fit says; the sensors' last
readings in °C, and by 4 rack + quadrant the temperatures of each rack's last recomputation in 1/512 °C. -/
structure Cellar where
  digest : List Byte
  nextTaste : Nat
  tasteFrom : Nat
  tasteLeft : Option Nat
  owed : List Nat
  active : List (Nat × PktId × Nat × List Byte)
  rebuild : List (Nat × List (Nat × Int))
  lastTemps : List Int
  foldTemps : Store Int
  deriving DecidableEq, Repr

/-! ### Links -/

/-- The PCI Express function (R412 to R425): PERST# asserted, configuration space ready, D3hot, Bus Master Enable, Memory Space
Enable, MSI-X Enable, Function Mask, BAR4 size, MSI-X table words, vectors pending, requests waiting upstream (R421), link; Device
Control, Device Control 2 and Link Control (R414, R415, R420), the errors that Advanced Error Reporting has logged (R385, R420), and
the subsystem identity that configuration NVM holds, if any (Table 12.1). -/
structure Px where
  perst : Bool
  cfgReady : Bool
  d3 : Bool
  bme : Bool
  mse : Bool
  msixEn : Bool
  fnMask : Bool
  bar4Log2 : Nat
  cfg : Store Word
  msix : Store Word
  pba : KeySet
  upstream : List HostMsg
  linkUp : Bool
  width : Nat
  speed : Nat
  devCtl : Word
  devCtl2 : Word
  linkCtl : Word
  aer : Word
  aerFirst : Nat
  aerHdr : BitVec 128
  subsys : Option Word
  deriving DecidableEq, Repr

/-- Burivo port states (Table 12.18). -/
inductive PortSt where
  | disabled
  | training
  | up
  | down
  deriving DecidableEq, Repr

/-- One Burivo port (R426 to R429): send credits of both channels and those that have come back in flits and not been taken, consecutive
failed replays, a replay requested, last valid flit received, last flit sent, last training attempt; the sequence number expected next, the
number sent next; the replay buffer, which holds the flits that are not acknowledged, by number, oldest first; the messages left in each flit
of the receive buffers of VC0 and VC1, oldest first; what is queued for the port, on VC1 or not. -/
structure Port where
  st : PortSt
  cred0 : Nat
  cred1 : Nat
  back0 : Nat
  back1 : Nat
  fails : Nat
  replaying : Bool
  lastRx : Nat
  lastTx : Nat
  lastTrain : Nat
  rxSeq : Nat
  txSeq : Nat
  buf : List (Nat × HostMsg)
  rx0 : List (List BvMsg)
  rx1 : List (List BvMsg)
  txq : List (Bool × HostMsg)
  deriving DecidableEq, Repr

/-- What the device knows of a member's heartbeats (R434 to R436): epoch, start of the unbroken run, last arrival. -/
structure PeerRec where
  epoch : Word
  runStart : Nat
  last : Nat
  seen : Bool
  deriving DecidableEq, Repr

/-- A message the device sent to a peer and that is not acknowledged (R433): a store of bytes at an address, or a signal. -/
structure PeerMsg where
  id : Nat
  dest : Nat
  addr : Nat
  data : List Byte
  isSignal : Bool
  pkt : Option PktId
  thread : Option Nat
  deriving DecidableEq, Repr

/-- The Burivo links and the pod (R426 to R440). -/
structure Bv where
  ports : Store Port
  peers : Store PeerRec
  present : Nat
  msgs : List PeerMsg
  nextMsg : Nat
  epoch : Word
  deriving DecidableEq, Repr

/-! ### Position clock and front end -/

/-- The position clock and the Position Event Table (R442 to R460). petOld: the entries that a write of PET_W3 has replaced, each with the step
clock of the first write of it; petAt: the step clock in which the scan last fired an entry, and that entry. -/
structure Pos where
  a : Bool
  b : Bool
  count : BitVec 48
  cBase : BitVec 48
  pBase : Int
  high : Int
  frame : BitVec 48
  dist : Int
  src : Nat
  dir : Bool
  winCounts : Nat
  winStart : Nat
  reverse : Bool
  idle : Bool
  idleCount : BitVec 48
  idleAt : Nat
  lastCount : Nat
  idxNet : Int
  idxFirst : Bool
  idxTurned : Bool
  idxDir : Option Bool
  ppsOk : Bool
  pps : Nat
  ppsSeen : Bool
  synDebt : Int
  synLast : Nat
  synN : Nat
  synIdx : Int
  quadEv : Option Nat
  capCount : Nat
  capP : Int
  capFrame : Nat
  capPps : Nat
  pet : Store (BitVec 128)
  petStage : Store Word
  petOld : Store (Nat × BitVec 128)
  petAt : Option (Nat × Nat)
  deriving DecidableEq, Repr

/-- One ADC sequence: 0 idle, 1 in its delay, 2 in its pass (R464, R465); when its trigger came and the last trigger; step clock,
position, frame and vintage of the first sampling instant; injected passes that held it up, as start and length. -/
structure Seq where
  st : Nat
  trig : Nat
  lastTrig : Nat
  step : Nat
  pos : Int
  frame : Nat
  vint : Nat
  gaps : List (Nat × Nat)
  redone : Bool
  deriving DecidableEq, Repr

/-- One DAC channel beside its registers (R469 to R475). hist: its latest updates with the codes they put out, newest first, by which
read-backs are compared. -/
structure Dac where
  phase : BitVec 32
  out : Nat
  hiZ : Bool
  defaultCode : Nat
  defaultOk : Bool
  fault : Bool
  faultAt : Option Nat
  cause : Nat
  clip : Bool
  misses : Nat
  lastCompare : Nat
  hist : List (Nat × Nat)
  clearPhase : Bool
  deriving DecidableEq, Repr

/-- One trigger output (R476, R477): its level is `active` under POL. -/
structure Trig where
  active : Bool
  pulseEnd : Nat
  periodStart : Nat
  target : Int
  missEv : Option Nat
  deriving DecidableEq, Repr

/-- The measurement front end (R461 to R477). refSince: since when a reference settles, none before the first enable; refinAt: the latest
measurement of REFIN. -/
structure Fe where
  reg : Seq
  inj : Seq
  seqno : Word
  settled : Bool
  refSince : Option Nat
  refFault : Bool
  refinMv : Nat
  refinAt : Option Nat
  bufFull : Bool
  dacs : Store Dac
  tbl : Store (BitVec 16)
  trigs : Store Trig
  overrunEv : Option Nat
  timerAt : Option Nat
  updateAt : Option Nat
  deriving DecidableEq, Repr

/-! ### Calibration, hang recovery, power and security -/

/-- A calibration procedure in progress (R483): scope, target, REFCAL value (as given, and whether the source carries it), host time,
whether it holds what Table 14.1 says yet, since when, and whether ABORT was written; once its new trims are in place, what it measured and
the casks whose second reference read is under way, with the sums of their first (R488). -/
structure CalRun where
  scope : Nat
  target : Nat
  refcal : Nat
  sourceUv : Int
  hostTime : Nat
  holding : Bool
  since : Nat
  aborted : Bool
  trimmed : Option (CalMeasure × List (Nat × Int × Int))
  deriving DecidableEq, Repr

/-- Calibration and vintages (R481 to R500). Records are the 36,864 bytes of Table 14.4. releasing: the casks of ended procedures, held up to
their boundary; relTarget: the target among them, where the procedure had one; folds: the racks whose refold goes in force with the written
vintage (R490, R499). -/
structure Cal where
  run : Option CalRun
  zero : Option (Nat × List Int)
  result : Nat
  slotA : Option (List Byte)
  slotB : Option (List Byte)
  factory : List Byte
  inForce : Nat
  pendingSlot : Option Nat
  highest : Nat
  releasing : List Nat
  relTarget : Option Nat
  folds : List Nat
  deriving DecidableEq, Repr

/-- An engine to recover: domain (Table 15.2) and unit. -/
structure Engine where
  domain : Nat
  unit : Nat
  deriving DecidableEq, Repr

/-- A hang incident (R508, R513): its engines, the larger domain first; phase 1 freeze and dump, 2 reset, 3 abort and replay; step clock,
position and frame of its detection, and the step clock of its freeze. -/
structure Incident where
  engines : List Engine
  fromCask : Bool
  phase : Nat
  suspects : List PktId
  waiting : List PktId
  replaying : Option PktId
  replayed : Nat
  aborted : Nat
  dumped : Bool
  step : Nat
  pos : Int
  frame : Nat
  frozenAt : Nat
  deriving DecidableEq, Repr

/-- Hang detection and recovery (R503 to R523): the incident in progress and those detected, engines out of service, when engines opened
incidents, engine resets in progress (whether escalated, when they began), when each watchdog (0 thread, 1 ring, 2 cask) was last
enabled, and budgets replaced by a write, as watchdog, step clock and old value (R506); quadrants in reset whose slice is still written
back (R408). -/
structure Hang where
  incident : Option Incident
  detected : List Incident
  oos : List Engine
  recent : List (Nat × Engine)
  truncated : Bool
  unreadable : Nat
  resets : List (Engine × Bool × Nat)
  enabledAt : Store Nat
  budgets : List (Nat × Nat × Nat)
  flush : List Nat
  deriving DecidableEq, Repr

/-- A journal entry that waits for NVM (R548). -/
structure JEntry where
  kind : Nat
  source : Nat
  unit : Nat
  step : Nat
  pos : Int
  frame : Nat
  reg : Nat
  gen : Nat
  old : Word
  new : Word
  count : Nat
  deriving DecidableEq, Repr

/-- Power, straps, boot, life cycle, attestation and journal (R526 to R549). onAfter: domains going off that are asked on again (R532);
kernels: the running image's library kernels, libDue: their copy to a new base is due (R540); bootStep: the step of Table 16.4 that the boot
flow is at while STAGE reads 0x3; warm: the last reset was a device warm reset (R509);
rowsCut: the rows whose pulses a loss of VPP cut off (R530). -/
structure Pm where
  rails : Bool
  vppOk : Bool
  coldHold : Bool
  bootSrc : Bool
  pcieEn : Bool
  testEn : Bool
  domainOff : KeySet
  goingOff : KeySet
  goingOn : KeySet
  onAfter : KeySet
  stage : Nat
  bootImg : Nat
  err0 : Nat
  err1 : Nat
  svn : Nat
  key3 : Bool
  imgDigest : List Byte
  cleanBoot : Bool
  fwReady : Bool
  wiped : Bool
  capacity : Nat
  lcState : Nat
  serviceLeft : Nat
  svnMin : Nat
  revoked : Nat
  keyHash : List (List Byte)
  dsn : List Byte
  stepping : Nat
  grade : Nat
  eraseDue : Option (Nat × Nat)
  leaf : Nat
  atRun : Option (Bool × List Byte)
  atResult : Nat
  atLeaf : Nat
  journal : Store (List Byte)
  nextSeq : Nat
  waiting : List JEntry
  lost : Nat
  dacDefaults : List (Option Nat)
  libBase : Option Nat
  kernels : List Byte
  libDue : Bool
  bootStep : Nat
  warm : Bool
  rowsCut : Nat
  cause : Nat
  thermAlert : Bool
  thermTrip : Bool
  deriving DecidableEq, Repr

/-- An accepted apply request that waits for its boundary (R12): whether for a frame or idle boundary, and whether host software
made it (R14). -/
structure Apply where
  frame : Bool
  host : Bool
  deriving DecidableEq, Repr

/-! ### The whole device -/

/-- The state of the device. `now` counts step clocks since the last device reset (CSR STEP); `freeCtr` is the model's own counter
that free values are drawn at (log entry 6); `pending` is the queue of waiting commands, first in, first out. Registers by BAR0
offset: the value in force where it is not the reset value, staged CW values, accepted applies that wait. -/
structure State where
  now : Nat
  freeCtr : Nat
  nextOp : Nat
  pending : List Instr
  regs : Store Word
  staged : Store Word
  applies : Store Apply
  casks : Store Cask
  ledger : Ledger
  cellar : Cellar
  racks : Store RackSt
  threads : Store Thread
  quant : Quant
  mem : Mem
  rings : Store Ring
  lastRing : Nat
  sync : Store Word
  wraps : KeySet
  armed : KeySet
  sent : List HostMsg
  px : Px
  bv : Bv
  pos : Pos
  fe : Fe
  cal : Cal
  hang : Hang
  pm : Pm
  deriving DecidableEq, Repr

/-! ### Initial values -/

/-- Configuration cells of an erased cask (R80). -/
def CfgCells.erased : CfgCells := ⟨0, List.replicate 16 0, List.replicate 16 0, 0⟩

/-- A cask with nothing racked. The fit before the first reference read is the nominal one (log entry 8). -/
def Cask.init : Cask where
  inReset := false
  racked := false
  incomplete := false
  chkLost := false
  retired := 0
  digest := []
  cells := CfgCells.erased
  saving := false
  rows := []
  levels := []
  lSum := 0
  lCnt := 0
  cycles8 := 0
  shadowOk := false
  suspect := false
  outOfRange := false
  topDue := false
  diagDue := false
  tasteDue := false
  tasteRepeat := false
  condemned := false
  thenTop := false
  refMissed := 0
  lastRef := 0
  foundEmpty := false
  fitWas := none
  hold := none
  prog := none
  failed := []
  refA := 49152
  refB := -16384
  refA0 := 49152
  refB0 := -16384
  tFit := 12800
  fitted := false
  queue := []
  running := []
  waiting := []
  posted := none
  replays := []
  bufA := none
  bufB := none
  intoB := false
  convs := []
  progress := 0
  paused := 0

/-- Empty books of a window. -/
def Book.init : Book := ⟨0, 0, 0, 0, 0, 0⟩

/-- A FREE slot (R241). -/
def Slot.init : Slot := ⟨0, none, [], false, 0, 0, 0, false, none⟩

/-- An empty checksum entry. -/
def ChkEntry.init : ChkEntry := ⟨0, 0, 0, 0, 0, 0, 0, 0, false, none, none, false, false, false⟩

/-- A rack with nothing in it, after a reset at step clock 0 (R407). -/
def RackSt.init : RackSt := ⟨[], [], [], [], [], [], [], [], [], [], 0, 0, [], [], []⟩

/-- A FREE thread context: every register zero (R265, R407). -/
def Thread.init : Thread := ⟨.free, 0, [], [], [], [], 0, [], none, 0, 0, none, false, none, []⟩

/-- A DISABLED ring with its indices at 0 (R340). -/
def Ring.init : Ring := ⟨.disabled, 0, ⟨0, 0, 0, 4, 0, 0, 1, 0⟩, 0, 0, 0, none, [], false, 0, 0⟩

/-- A DMA engine at rest (R405). -/
def Dma.init : Dma := ⟨none, 0, 0⟩

/-- A trellis link at rest (R406). -/
def TLink.init : TLink := ⟨[], 0, 0, false⟩

/-- A disabled port: it has no credit before it is trained (R428, Table 12.18). -/
def Port.init : Port := ⟨.disabled, 0, 0, 0, 0, 0, false, 0, 0, 0, 0, 0, [], [], [], []⟩

/-- A member that has not been heard. -/
def PeerRec.init : PeerRec := ⟨0, 0, 0, false⟩

/-- A DAC channel after reset: high-impedance until its default is loaded (R470). -/
def Dac.init : Dac := ⟨0, 0, true, 0, false, false, none, 0, false, 0, 0, [], false⟩

/-- A trigger output after reset: driven low (R477). -/
def Trig.init : Trig := ⟨false, 0, 0, 0, none⟩

/-- An ADC sequence at rest. -/
def Seq.init : Seq := ⟨0, 0, 0, 0, 0, 0, 0, [], false⟩

/-- The position clock after a device reset (R444, R450, R457). -/
def Pos.init : Pos where
  a := false
  b := false
  count := 0
  cBase := 0
  pBase := 0
  high := 0
  frame := 0
  dist := 0
  src := 0
  dir := false
  winCounts := 0
  winStart := 0
  reverse := false
  idle := false
  idleCount := 0
  idleAt := 0
  lastCount := 0
  idxNet := 0
  idxFirst := true
  idxTurned := false
  idxDir := none
  ppsOk := false
  pps := 0
  ppsSeen := false
  synDebt := 0
  synLast := 0
  synN := 0
  synIdx := 0
  quadEv := none
  capCount := 0
  capP := 0
  capFrame := 0
  capPps := 0
  pet := []
  petStage := []
  petOld := []
  petAt := none

/-- The front end after reset. -/
def Fe.init : Fe := ⟨Seq.init, Seq.init, 0, false, none, false, 0, none, false, [], [], [], none, none, none⟩

/-- Memories after power-on: every byte zero with valid parity (R407, log entry 7), nothing cached, nothing sealed. -/
def Mem.init : Mem := ⟨[], [], [], [], [], 0, [], [], [], [], [], [], [], [], none⟩

/-- Rescale banks and match gains at 1.0 (R226): nothing listed. -/
def Quant.init : Quant := ⟨[], [], [], [], false, [], [], [], false, [], []⟩

/-- The cellarer with nothing racked: no digest, no work. -/
def Cellar.init : Cellar := ⟨List.replicate 48 0, 0, 0, some 0, [], [], [], List.replicate 8 25, []⟩

/-- The PCI Express function after a cold reset (log entry 11). -/
def Px.init : Px := ⟨false, false, false, false, false, false, false, 36, [], [], [], [], false, 0, 0, 0x2810, 0, 0, 0, 0, 0, none⟩

/-- The Burivo block after reset: every port disabled. -/
def Bv.init : Bv := ⟨[], [], 0, [], 1, 0⟩

/-- The factory vintage: TAG, NUMBER 0, corrections of zero, and the CRC-32C of the record as CHECK (R496, R497, log entry 14). -/
def factoryVintage : List Byte :=
  [0x56#8, 0x4E#8, 0x54#8, 0x47#8] ++ List.replicate 56 0 ++ [0xA4#8, 0x5F#8, 0x62#8, 0x40#8] ++ List.replicate 36800 0

/-- Calibration with the factory vintage in force and both slots empty (R496, log entry 14). -/
def Cal.init : Cal := ⟨none, none, 0, none, none, factoryVintage, 0, none, 0, [], none, []⟩

/-- No incident. -/
def Hang.init : Hang := ⟨none, [], [], [], false, 0, [], [], [], []⟩

/-- Power and security at the start of the boot flow of a new part (R554, R562, log entries 3 and 4). -/
def Pm.init : Pm where
  rails := true
  vppOk := true
  coldHold := false
  bootSrc := true
  pcieEn := true
  testEn := false
  domainOff := [(74, ()), (75, ()), (76, ()), (77, ())]
  goingOff := []
  goingOn := []
  onAfter := []
  stage := 0
  bootImg := 0
  err0 := 0
  err1 := 0
  svn := 0
  key3 := false
  imgDigest := List.replicate 48 0
  cleanBoot := false
  fwReady := false
  wiped := false
  capacity := 2
  lcState := 1
  serviceLeft := 15
  svnMin := 0
  revoked := 0
  keyHash := List.replicate 4 (List.replicate 48 0)
  dsn := List.replicate 8 0
  stepping := 1
  grade := 1
  eraseDue := none
  leaf := 0
  atRun := none
  atResult := 0
  atLeaf := 0
  journal := []
  nextSeq := 0
  waiting := []
  lost := 0
  dacDefaults := List.replicate 8 (some 0)
  libBase := none
  kernels := []
  libDue := false
  bootStep := 0
  warm := false
  rowsCut := 0
  cause := 0
  thermAlert := false
  thermTrip := false

/-- The device right after reset, at the start of its boot flow (R407, R535, R536; log entry 3): every register at its reset value,
no command waiting, no memory listed. -/
def State.reset : State where
  now := 0
  freeCtr := 0
  nextOp := 1
  pending := []
  regs := []
  staged := []
  applies := []
  casks := []
  ledger := ⟨[], [], [], [], [], [], []⟩
  cellar := Cellar.init
  racks := []
  threads := []
  quant := Quant.init
  mem := Mem.init
  rings := []
  lastRing := 65535
  sync := []
  wraps := []
  armed := []
  sent := []
  px := Px.init
  bv := Bv.init
  pos := Pos.init
  fe := Fe.init
  cal := Cal.init
  hang := Hang.init
  pm := Pm.init

/-- Why the machine would stop with a fault. The device itself stops on nothing the spec describes (every error is an event, a
status, a completion code or an exception), so no meaning of this model answers with a fault. -/
inductive Fault where
  /-- Reserved for an access outside every memory the spec gives the device; no meaning raises it. Safe: a stop allows no false
  claim about a run that goes on. -/
  | outsideMemory
  deriving DecidableEq, Repr

/-- Why a command would be refused. -/
inductive Refusal where
  /-- A command that has no meaning in the model yet, by its mnemonic; raised by the arms of exec only. Safe: nothing is claimed
  of a run past it. -/
  | notModelled (mnemonic : String)
  deriving DecidableEq, Repr

end Sys2Proof.Machine
end

