-- ==== Sys2Proof/Machine/Ops.lean ====
section
/-! DEFINITION. The named operations over the state that the meanings share: register words, casks, racks, threads, packets, memory
with its parity, seals and shared cache, events and MSI-X, sync objects. -/

namespace Sys2Proof.Machine

/-! ### Register words -/

/-- The stored word of a register: what was written, or its reset word. -/
def rget (n : RegName) (u i : Nat) (s : State) : Word := (s.regs.find (regOff n u i)).getD (resetWord n)

/-- The state with a register's stored word replaced. -/
def rset (n : RegName) (u i : Nat) (v : Word) (s : State) : State := { s with regs := s.regs.put (regOff n u i) v }

/-- A field of a stored register word. -/
def rfield (n : RegName) (u i hi lo : Nat) (s : State) : Nat := fieldOf hi lo (rget n u i s)

/-- A one-bit field of a stored register word. -/
def rflag (n : RegName) (u i b : Nat) (s : State) : Bool := flagOf b (rget n u i s)

/-- A field of a stored register word replaced. -/
def rput (n : RegName) (u i hi lo v : Nat) (s : State) : State := rset n u i (setField hi lo v (rget n u i s)) s

/-- A 32-bit counter register one step of k on; counters wrap at 2³². -/
def bump (n : RegName) (u i k : Nat) (s : State) : State := rset n u i (wrapInc (rget n u i s) k) s

/-- A 64-bit quantity held in a LO and a HI register of one name (indices i and i + 1). -/
def rget64 (n : RegName) (u i : Nat) (s : State) : Nat := (rget n u i s).toNat + 2 ^ 32 * (rget n u (i + 1) s).toNat

/-- The LO and HI registers of one name set to a 64-bit quantity. -/
def rset64 (n : RegName) (u i v : Nat) (s : State) : State :=
  rset n u (i + 1) (BitVec.ofNat 32 (v / 2 ^ 32)) (rset n u i (BitVec.ofNat 32 v) s)

/-- A 64-bit quantity held in two registers of different names. -/
def rpair (lo hi : RegName) (i : Nat) (s : State) : Nat := (rget lo 0 i s).toNat + 2 ^ 32 * (rget hi 0 i s).toNat

/-! ### Parts of the device -/

/-- Cask c. -/
def getCask (c : Nat) (s : State) : Cask := Store.getD Cask.init c s.casks

/-- The state with cask c replaced. -/
def setCask (c : Nat) (k : Cask) (s : State) : State := { s with casks := s.casks.put c k }

/-- The state with cask c changed by f. -/
def modCask (c : Nat) (f : Cask → Cask) (s : State) : State := setCask c (f (getCask c s)) s

/-- Rack r. -/
def getRack (r : Nat) (s : State) : RackSt := Store.getD RackSt.init r s.racks

/-- The state with rack r replaced. -/
def setRack (r : Nat) (k : RackSt) (s : State) : State := { s with racks := s.racks.put r k }

/-- The state with rack r changed by f. -/
def modRack (r : Nat) (f : RackSt → RackSt) (s : State) : State := setRack r (f (getRack r s)) s

/-- Thread t of rack r. -/
def getThread (r t : Nat) (s : State) : Thread := Store.getD Thread.init (64 * r + t) s.threads

/-- The state with thread t of rack r replaced. -/
def setThread (r t : Nat) (k : Thread) (s : State) : State := { s with threads := s.threads.put (64 * r + t) k }

/-- The state with thread t of rack r changed by f. -/
def modThread (r t : Nat) (f : Thread → Thread) (s : State) : State := setThread r t (f (getThread r t s)) s

/-- Ring n. -/
def getRing (n : Nat) (s : State) : Ring := Store.getD Ring.init n s.rings

/-- The state with ring n replaced. -/
def setRing (n : Nat) (k : Ring) (s : State) : State := { s with rings := s.rings.put n k }

/-- The state with ring n changed by f. -/
def modRing (n : Nat) (f : Ring → Ring) (s : State) : State := setRing n (f (getRing n s)) s

/-- Slot k of rack r. -/
def getSlot (r k : Nat) (s : State) : Slot := Store.getD Slot.init k (getRack r s).slots

/-- The state with slot k of rack r changed by f. -/
def modSlot (r k : Nat) (f : Slot → Slot) (s : State) : State :=
  modRack r (fun x => { x with slots := x.slots.put k (f (Store.getD Slot.init k x.slots)) }) s

/-- The packet of an identity, when it has started and is not retired. -/
def findPkt (p : PktId) (s : State) : Option Pkt := (getRing p.ring.val s).pkts.find? fun k => k.idx == p.idx

/-- The state with a packet changed by f. -/
def modPkt (p : PktId) (f : Pkt → Pkt) (s : State) : State :=
  modRing p.ring.val (fun r => { r with pkts := r.pkts.map fun k => if k.idx == p.idx then f k else k }) s

/-- The state with the packet of some work changed by f; work of no packet changes none. -/
def modPktOf (p : Option PktId) (f : Pkt → Pkt) (s : State) : State :=
  match p with
  | some p => modPkt p f s
  | none => s

/-- A flag of Table 10.7 set on the packet of some work (R358). -/
def pktFlag (b : Nat) (p : Option PktId) (s : State) : State :=
  modPktOf p (fun k => { k with flags := k.flags ||| 2 ^ b }) s

/-- A completion code put on the packet of some work: the highest-numbered cause stands (R357). -/
def pktCode (c : Nat) (p : Option PktId) (s : State) : State :=
  modPktOf p (fun k => { k with code := max k.code c }) s

/-- A progress event of a ring's packet: its watchdog counter restarts (R504). -/
def ringProgress (p : Option PktId) (s : State) : State :=
  match p with
  | some p => modRing p.ring.val (fun r => { r with progress := s.now, paused := 0 }) s
  | none => s

/-- One more free value drawn from the model's counter (log entry 6). -/
def drawFree (s : State) : State := { s with freeCtr := s.freeCtr + 1 }

/-! ### Power domains -/

/-- Whether a power domain is off (R531). -/
def domainIsOff (d : Nat) (s : State) : Bool := s.pm.domainOff.has d

/-- The power domain of a rack's group (Table 16.2). -/
def rackDomain (r : Nat) : Nat := r / 4

/-! ### Addresses -/

/-- The usable capacity U = 7 C / 8 (R382). -/
def usable (s : State) : Nat :=
  if s.pm.capacity = 0 then 0 else 7 * (2 ^ 33 * 2 ^ s.pm.capacity) / 8

/-- LIB_BASE: U − 64 MiB after reset (R540). -/
def libBase (s : State) : Nat := s.pm.libBase.getD (usable s - 2 ^ 26)

/-- A region of the device address space (Table 8.3). -/
inductive Region where
  | dram (a : Nat)
  | sp (r off : Nat)
  | peer (m a : Nat)
  | nowhere
  deriving DecidableEq, Repr

/-- Requesters that are no rack: DMA engines, ring dispatch, the cellarer. They have no own-rack window. -/
def noRack : Nat := 256

/-- The region of an address, seen from rack r (R266). -/
def regionOf (r a : Nat) (s : State) : Region :=
  if a < 0x1000000000 then (if a < usable s then .dram a else .nowhere)
  else if a < 0x1000000000 + 256 * 0x80000 then
    .sp ((a - 0x1000000000) / 0x80000) ((a - 0x1000000000) % 0x80000)
  else if 0x2000000000 ≤ a && decide (a < 0x2000080000) && decide (r < 256) then .sp r (a - 0x2000000000)
  else if 0x100000000000 ≤ a && decide (a < 0x100000000000 + 16 * 0x10000000000) then
    let m := (a - 0x100000000000) / 0x10000000000
    let b := (a - 0x100000000000) % 0x10000000000
    if b < 0x2000000000 then .peer m b else .nowhere
  else .nowhere

/-- Where the windows of the 256 racks' scratchpads end (Table 8.3). -/
def windowsEnd : Nat := 0x1000000000 + 256 * 0x80000

/-- Whether n bytes from offset o of a scratchpad, reached at address a, all lie in windows: the own-rack window ends with the
scratchpad; the window of a rack adjoins the next rack's (Table 8.3, R266). -/
def inWindows (a o n : Nat) : Bool := decide (o + n ≤ 0x80000) || decide (a + n ≤ windowsEnd)

/-- The rack in whose scratchpad the last of n bytes from offset o of rack q lies. -/
def lastRack (q o n : Nat) : Nat := q + (o + (n - 1)) / 0x80000

/-- Whether n bytes from an address lie wholly in memory that Table 8.3 lists (R266). -/
def inReach (r a n : Nat) (s : State) : Bool :=
  match regionOf r a s with
  | .dram a => decide (a + n ≤ usable s)
  | .sp _ o => inWindows a o n
  | _ => false

/-- Whether n bytes from an address lie wholly in DRAM below U or in one scratchpad window (R207, R246). -/
def inMemory (r a n : Nat) (s : State) : Bool :=
  match regionOf r a s with
  | .dram a => decide (a + n ≤ usable s)
  | .sp _ o => decide (o + n ≤ 0x80000)
  | _ => false

/-! ### Parity and CRC -/

/-- The number of ones in a byte, modulo 2. -/
def oddOnes (b : Byte) : Bool := popCount 8 b.toNat % 2 == 1

/-- The parity word of a sector: bit b makes byte b and itself hold an odd number of ones (R383). -/
def parityOf (data : List Byte) : Word :=
  BitVec.ofNat 32 ((List.range 32).foldl (fun w b => w + (if oddOnes (nthD 0 b data) then 0 else 2 ^ b)) 0)

/-- The parity word that makes every byte of a sector fail (R391). -/
def poisonOf (data : List Byte) : Word := ~~~(parityOf data)

/-- One bit step of the reflected CRC-32C register (R393). -/
def crcStep (c : Nat) : Nat := if c % 2 = 1 then (c / 2) ^^^ 0x82F63B78 else c / 2

/-- The CRC register after one more byte. -/
def crcByte (c : Nat) (b : Byte) : Nat :=
  crcStep (crcStep (crcStep (crcStep (crcStep (crcStep (crcStep (crcStep (c ^^^ b.toNat))))))))

/-- CRC-32C of R393: polynomial 0x1EDC_6F41 bit-reflected, initial value and final XOR 0xFFFF_FFFF. -/
def crc32c (bs : List Byte) : Word := BitVec.ofNat 32 ((bs.foldl crcByte 0xFFFFFFFF) ^^^ 0xFFFFFFFF)

/-! ### DRAM sectors and the shared cache -/

/-- The stored data of a DRAM sector. -/
def dramData (sec : Nat) (m : Mem) : List Byte := Store.getN 0 (32 * sec) 32 m.dram

/-- The stored parity word of a DRAM sector: all ones where nothing else was written (R383). -/
def dramPar (sec : Nat) (m : Mem) : Word := Store.getD 0xFFFFFFFF#32 sec m.parity

/-- A DRAM sector written with its parity word. -/
def dramPut (sec : Nat) (data : List Byte) (par : Word) (m : Mem) : Mem :=
  { m with dram := Store.setN 0 (32 * sec) (padTo 32 data) m.dram, parity := Store.setD 0xFFFFFFFF#32 sec par m.parity }

/-- The physical address of the parity word of a sector, in the reserve above U (R383). -/
def parityAddr (sec : Nat) (s : State) : Nat := usable s + 4 * sec

/-- The physical address from which the reserve holds the seal table (R383). -/
def sealTable (s : State) : Nat := usable s + 7 * (usable s / 7 * 8) / 64

/-- The DRAM channel of a line; that of a sector and its parity word is its line's (R383, R384). -/
def dramChannel (line : Nat) : Nat := bits 5 2 line ^^^ bits 17 14 line

/-- The home slice of a line (R384). -/
def homeSlice (line : Nat) : Nat := bits 1 0 line ^^^ bits 13 12 line ^^^ bits 25 24 line

/-- Whether the slice of a line is powered (R533). -/
def sliceOn (line : Nat) (s : State) : Bool := !domainIsOff (64 + homeSlice line) s

/-- A line leaves the cache: its dirty sectors go to DRAM, poisoned where the cached copy fails its parity (R387, R391). With the
sectors it poisoned. -/
def evictLine (line : Nat) (m : Mem) : Mem × List Nat :=
  let go := fun (acc : Mem × List Nat) (k : Nat) =>
    let sec := 4 * line + k
    match acc.1.csec.find sec with
    | none => acc
    | some c =>
      let m1 := { acc.1 with csec := acc.1.csec.drop sec }
      if c.dirty then
        if c.par = parityOf c.data then (dramPut sec c.data c.par m1, acc.2)
        else (dramPut sec c.data (poisonOf c.data) m1, acc.2 ++ [sec])
      else (m1, acc.2)
  let r := (List.range 4).foldl go (m, [])
  ({ r.1 with cline := r.1.cline.drop line }, r.2)

/-- The set of its slice that a line belongs to, of 16,384 (R387); which one no rule states (log entry 9). -/
def cacheSet (line : Nat) : Nat := Config.cacheSet line % 16384

/-- The lines of a line's set that are present (R387: 12 ways). -/
def setLines (line : Nat) (m : Mem) : Store Nat :=
  if m.cline.length < 12 then [] else m.cline.filter fun e => decide (homeSlice e.1 = homeSlice line) && decide (cacheSet e.1 = cacheSet line)

/-- Whether a line holds a packet array of a resident ring, and is never replaced (R387). -/
def linePinned (line : Nat) (m : Mem) : Bool := m.pins.any fun e => decide (e.1 ≤ line ∧ line < e.1 + e.2)

/-- The least recently used line of a list that is not pinned. -/
def lruOf (pinned : Nat → Bool) : Store Nat → Option (Nat × Nat)
  | [] => none
  | (l, c) :: r =>
    match lruOf pinned r with
    | none => if pinned l then none else some (l, c)
    | some (l', t) => if !pinned l && decide (c < t) then some (l, c) else some (l', t)

/-- Room for a line: present already, or with the least recently used line of a full set evicted; false when every way of the set
is pinned. With the sectors an eviction poisoned. -/
def makeRoom (line : Nat) (m : Mem) : Bool × Mem × List Nat :=
  if (m.cline.find line).isSome then (true, m, [])
  else
    let ls := setLines line m
    if ls.length < 12 then (true, m, [])
    else match lruOf (linePinned · m) ls with
      | none => (false, m, [])
      | some (v, _) => let r := evictLine v m; (true, r.1, r.2)

/-- A line marked used. -/
def touchLine (line : Nat) (m : Mem) : Mem :=
  { m with cline := m.cline.put line (m.stamp + 1), stamp := m.stamp + 1 }

/-- A cached sector put in place, its line used. -/
def cachePut (sec : Nat) (c : CSector) (m : Mem) : Mem := touchLine (sec / 4) { m with csec := m.csec.put sec c }

/-- A whole-sector write into DRAM space through the home slice: it ends a valid seal of its block (R395), replaces data and parity
(R392), and allocates the sector without reading DRAM (R387); with the slice off it goes to DRAM (R533). With the sectors an
eviction poisoned. -/
def putSector (sec : Nat) (data : List Byte) (s : State) : State × List Nat :=
  let d := padTo 32 data
  let m0 := { s.mem with seals := s.mem.seals.drop (sec / 128), failed := s.mem.failed.drop sec }
  if sliceOn (sec / 4) s then
    let r := makeRoom (sec / 4) m0
    if r.1 then ({ s with mem := cachePut sec ⟨d, parityOf d, true⟩ r.2.1 }, r.2.2)
    else ({ s with mem := dramPut sec d (parityOf d) r.2.1 }, r.2.2)
  else ({ s with mem := dramPut sec d (parityOf d) m0 }, [])

/-- MC_POISONS counted and the source of the poison recorded (R391). -/
def notePoison (sec : Nat) (s : State) : State :=
  let s := bump .MC_POISONS 0 0 1 s
  rset .MC_ERR_SRC 0 0 (BitVec.ofNat 32 (2 ^ 28 + 2 ^ 27 + homeSlice (sec / 4))) (rset64 .MC_ERR_ADDR 0 0 (32 * sec) s)

/-! ### Upstream requests, MSI-X and events -/

/-- Whether the device may issue requests upstream (R421, R422). -/
def upstreamOk (s : State) : Bool := s.px.bme && !s.px.d3

/-- A request on the host link: sent, or kept in order until requests may be issued (R421). -/
def sendUp (m : HostMsg) (s : State) : State :=
  if upstreamOk s then { s with sent := s.sent ++ [m] } else { s with px := { s.px with upstream := s.px.upstream ++ [m] } }

/-- Whether the uncorrectable error mask of Advanced Error Reporting masks a bit of its status word (log entry 123). -/
def aerMasked (b : Nat) (s : State) : Bool := flagOf b ((s.px.cfg.find 0x108).getD (Config.cfgWord 0x108))

/-- An error logged in Advanced Error Reporting, by the bit of its status word: 12 poisoned TLP, 14 completion timeout, 15 completer abort,
19 ECRC. Unless it is masked, or the first error is still to be cleared, the first-error pointer names it and the header log holds the header of
its TLP (R385, R386, R420; the bits are PCI Express's, log entry 123). -/
def aerLog (b : Nat) (hdr : BitVec 128) (s : State) : State :=
  let kept := aerMasked b s || flagOf s.px.aerFirst s.px.aer
  { s with px := { s.px with
      aer := s.px.aer ||| BitVec.ofNat 32 (2 ^ b)
      aerFirst := if kept then s.px.aerFirst else b
      aerHdr := if kept then s.px.aerHdr else hdr } }

/-- The header of a TLP, which no command carries: 0 a write of BAR2, 1 of BAR4, 2 a write, 3 a read request, 4 a completion, by its offset or
DMA engine and the step clock in which it came (log entry 123). -/
def tlpHeader (kind at' : Nat) (s : State) : BitVec 128 := Config.tlpHeader kind at' s.now

/-- A response to the host. -/
def respond (m : HostMsg) (s : State) : State := { s with sent := s.sent ++ [m] }

/-- Word w of MSI-X table entry v; an unwritten entry is masked (log entry 11). -/
def msixWord (v w : Nat) (s : State) : Word := (s.px.msix.find (4 * v + w)).getD (if w = 3 then 1 else 0)

/-- Whether the message of a vector may be sent (R379, R419). -/
def vectorOpen (v : Nat) (s : State) : Bool := s.px.msixEn && !s.px.fnMask && !flagOf 0 (msixWord v 3 s)

/-- The message of a vector. -/
def vectorMsg (v : Nat) (s : State) : HostMsg :=
  .msix v ((msixWord v 0 s).toNat + 2 ^ 32 * (msixWord v 1 s).toNat) (msixWord v 2 s)

/-- A vector raised: its message goes out, or its pending bit is set (R379, R419). -/
def raiseVector (v : Nat) (s : State) : State :=
  if vectorOpen v s then sendUp (vectorMsg v s) s else { s with px := { s.px with pba := s.px.pba.add v } }

/-- The 32 bytes of an event record, with PHASE still 0 (Table 10.13). -/
def eventRecord (code unit aux detail : Nat) (p : Option PktId) (s : State) : List Byte :=
  let ring := match p with | some p => p.ring.val | none => 0
  let idx := match p with | some p => p.idx.toNat | none => 0
  leBytes 2 code ++ leBytes 1 (if p.isSome then 1 else 0) ++ leBytes 1 0 ++ leBytes 2 unit ++ leBytes 2 ring ++ leBytes 4 idx ++
    leBytes 4 aux ++ leBytes 8 s.now ++ leBytes 8 detail

/-- An event record written at EQ_TAIL of the queue its class is routed to, or the event counted as lost (R375, R376, R378). With
the sectors an eviction poisoned. -/
def deliverEvent (cls : Nat) (rec' : List Byte) (s : State) : State × List Nat :=
  let route := rget .EV_ROUTE 0 cls s
  let q := fieldOf 3 0 route
  if !flagOf 31 route then (bump .EQ_LOST 0 0 1 s, [])
  else
    let cfg := rget .EQ_CFG 0 q s
    let l := fieldOf 20 16 cfg
    let tail := rget .EQ_TAIL 0 q s
    if !flagOf 31 cfg || decide ((tail - rget .EQ_HEAD 0 q s).toNat = 2 ^ l) then (bump .EQ_LOST 0 q 1 s, [])
    else
      let phase := if bitAt l tail.toNat then 0x80 else 0
      let rec2 := patchAt 2 [BitVec.ofNat 8 (byteAt 2 rec' + phase)] rec'
      let a := rpair .EQ_BASE_LO .EQ_BASE_HI q s + 32 * (tail.toNat % 2 ^ l)
      let w := putSector (a / 32) rec2 s
      let s1 := rset .EQ_TAIL 0 q (tail + 1) w.1
      if s1.armed.has q then
        (raiseVector (fieldOf 10 0 cfg) { s1 with armed := Store.drop q s1.armed }, w.2)
      else (s1, w.2)

/-- An event delivered now, or kept in order with the other upstream requests while none may be issued (R421). -/
def postEvent (cls : Nat) (rec' : List Byte) (s : State) : State × List Nat :=
  if upstreamOk s then deliverEvent cls rec' s
  else ({ s with px := { s.px with upstream := s.px.upstream ++ [.event cls rec'] } }, [])

/-- The event of a poison written at an eviction (R391). With the sectors poisoned by an eviction that its own record made. -/
def poisonEvent (sec : Nat) (s : State) : State × List Nat :=
  let s := notePoison sec s
  postEvent 9 (eventRecord 0x0901 (homeSlice (sec / 4)) (1 + 2 ^ 8) (32 * sec) none s) s

/-- The events of poisoned sectors, up to a number of events: each poison takes a failing sector out of the cache, so as many as the cache
holds sectors, and those already poisoned, are all there can be (R391). -/
def poisonAll : Nat → List Nat → State → State
  | 0, _, s => s
  | _, [], s => s
  | n + 1, sec :: rest, s => let r := poisonEvent sec s; poisonAll n (rest ++ r.2) r.1

/-- The events of the sectors that evictions poisoned (R391). -/
def poisonEvents (secs : List Nat) (s : State) : State := poisonAll (secs.length + s.mem.csec.length) secs s

/-- An event raised: its record is written or dropped, and the packet whose work raised it counts it (R375 to R377). -/
def raiseEvent (code unit aux detail : Nat) (p : Option PktId) (s : State) : State :=
  let s := modPktOf p (fun k => { k with events := min (k.events + 1) 0xFFFFFFFF }) s
  let r := postEvent (code / 256) (eventRecord code unit aux detail p s) s
  poisonEvents r.2 r.1

/-- A whole-sector write into DRAM space (R386, R387, R392, R395), with the events of the poisons it made. -/
def writeSector (sec : Nat) (data : List Byte) (s : State) : State :=
  let r := putSector sec data s
  poisonEvents r.2 r.1

/-- Whole sectors written from a 32-byte aligned DRAM address on. -/
def writeDram (a : Nat) (data : List Byte) (s : State) : State :=
  (List.range (data.length / 32)).foldl (fun s k => writeSector (a / 32 + k) ((data.drop (32 * k)).take 32) s) s

/-- Bytes put into a scratchpad; the parity of a sector written is good again (R234, R392). -/
def spWrite (r off : Nat) (data : List Byte) (s : State) : State :=
  { s with mem := { s.mem with
      sp := Store.setN 0 (0x80000 * r + off) data s.mem.sp
      spBad := Store.clear ((0x80000 * r + off) / 32) ((0x80000 * r + off + data.length) / 32) s.mem.spBad } }

/-- Bytes of a scratchpad. -/
def spRead (r off n : Nat) (s : State) : List Byte := Store.getN 0 (0x80000 * r + off) n s.mem.sp

/-! ### Reading memory -/

/-- What a read brings: the bytes, a bus error, or a bus error from a failed seal (R390, R396). -/
inductive Rd where
  | ok (data : List Byte)
  | bus
  | badSeal
  deriving DecidableEq, Repr

/-- RK_SHADOW. -/
def shadowBase (s : State) : Nat := rpair .RK_SHADOW_LO .RK_SHADOW_HI 0 s

/-- The base of a cask's shadow slice (R128). -/
def shadowAt (c : Nat) (s : State) : Nat := shadowBase s + c * 0x41000

/-- A cask's shadow is lost: SHADOW_OK reads 0, EV_SHADOW_LOST (R136). -/
def loseShadow (c : Nat) (p : Option PktId) (s : State) : State :=
  raiseEvent 0x0305 c 0 0 p (modCask c (fun k => { k with shadowOk := false }) s)

/-- A shadow in which an error is found; one that is lost already is not lost again (R136). -/
def shadowFails (c : Nat) (p : Option PktId) (s : State) : State := if (getCask c s).shadowOk then loseShadow c p s else s

/-- The cask in whose shadow slice an address of DRAM lies (R128). -/
def shadowCask (a : Nat) (s : State) : Option Nat :=
  let c := (a - shadowBase s) / 0x41000
  if shadowBase s ≤ a ∧ c < 4096 then some c else none

/-- A parity error found at an address of DRAM: where it lies in a cask's shadow, that shadow is lost (R136). -/
def shadowHit (a : Nat) (p : Option PktId) (s : State) : State :=
  match shadowCask a s with
  | some c => shadowFails c p s
  | none => s

/-- A parity error seen by a requester (R390): counted, recorded, raised. mem is the memory code of Table 11.16; addr the address of the
failing sector, in DRAM for DRAM and the shared cache, rack-local otherwise (Table 11.15). -/
def parityError (mem unit addr : Nat) (p : Option PktId) (s : State) : State :=
  let s := bump .MC_PARITY_ERRS 0 0 1 s
  let s := rset64 .MC_ERR_ADDR 0 0 addr s
  let s := rset .MC_ERR_SRC 0 0 (BitVec.ofNat 32 (mem * 2 ^ 28 + unit)) s
  let s := raiseEvent 0x0901 unit mem addr p s
  if mem < 2 then shadowHit addr p s else s

/-- The first of n scratchpad bytes' sectors whose parity fails. -/
def badSector (r off n : Nat) (s : State) : Option Nat :=
  ((List.range ((off + (n - 1)) / 32 + 1 - off / 32)).map (off / 32 + ·)).find? fun k => s.mem.spBad.has (0x4000 * r + k)

/-- Bytes of a scratchpad read, every sector's parity checked; a failing sector is a bus error (R389, R390). -/
def spFetch (r off n : Nat) (p : Option PktId) (s : State) : Rd × State :=
  match badSector r off n s with
  | some k => (.bus, parityError 2 ((0x4000 * r + k) / 0x4000) (32 * ((0x4000 * r + k) % 0x4000)) p s)
  | none => (.ok (spRead r off n s), s)

/-- The 4,096 stored bytes of a block. -/
def blockData (blk : Nat) (m : Mem) : List Byte := Store.getN 0 (4096 * blk) 4096 m.dram

/-- A sector poisoned as it was read: in its cached copy where it has one, in DRAM otherwise (R391, R396, R397). -/
def poisonSector (m : Mem) (sec : Nat) : Mem :=
  match m.csec.find sec with
  | some c => { m with csec := m.csec.put sec { c with par := poisonOf c.data } }
  | none => dramPut sec (dramData sec m) (poisonOf (dramData sec m)) m

/-- Every sector of a block poisoned after a failed seal (R396, R397). -/
def poisonBlock (blk : Nat) (m : Mem) : Mem := ((List.range 128).map (128 * blk + ·)).foldl poisonSector m

/-- A read of a sector from DRAM whose link error its retry met again: a parity error for the requester (R381, R390). -/
def linkError (sec : Nat) (p : Option PktId) (s : State) : State :=
  parityError 0 (homeSlice (sec / 4)) (32 * sec) p { s with mem := { s.mem with failed := s.mem.failed.drop sec } }

/-- The first sector of a block whose next read from DRAM meets an uncorrectable link error (R381). -/
def lostSector (blk : Nat) (m : Mem) : Option Nat := (m.failed.map (·.1)).find? fun sec => decide (sec / 128 = blk)

/-- The seal check of the first DRAM read in a sealed block (R396), with what it brings the requester of the read when the check does not
pass: VALID clears; a mismatch poisons the block and reports. A block that the link does not deliver whole is compared with nothing, and
its seal stands (R381, log entry 121). -/
def sealCheck (sec : Nat) (p : Option PktId) (s : State) : Option Rd × State :=
  let blk := sec / 128
  match s.mem.seals.find blk with
  | none => (none, s)
  | some crc =>
    match lostSector blk s.mem with
    | some x => (some .bus, linkError x p s)
    | none =>
      let m := { s.mem with seals := s.mem.seals.drop blk }
      if crc32c (blockData blk m) = crc then (none, { s with mem := m })
      else
        let s := { s with mem := poisonBlock blk m }
        let s := bump .MC_SEAL_FAILS 0 0 1 (bump .MC_POISONS 0 0 128 s)
        (some .badSeal, raiseEvent 0x0902 0 0 (4096 * blk) p s)

/-- A sector installed clean from DRAM, when it is delivered, passes its parity and is not cached. -/
def installIfGood (sec : Nat) (m : Mem) : Mem :=
  if (m.csec.find sec).isSome || m.failed.has sec then m
  else if dramPar sec m = parityOf (dramData sec m) then cachePut sec ⟨dramData sec m, dramPar sec m, false⟩ m
  else m

/-- The invalid sectors of a line filled from DRAM (R387, R388), where the line's slice is on and has room. -/
def fillLine (line : Nat) (s : State) : State × List Nat :=
  if sliceOn line s then
    let r := makeRoom line s.mem
    if r.1 then ({ s with mem := (List.range 4).foldl (fun m k => installIfGood (4 * line + k) m) r.2.1 }, r.2.2)
    else ({ s with mem := r.2.1 }, r.2.2)
  else (s, [])

/-- The link's result for a read of a sector as MC_LINK_CORR counts it (R381). -/
def countLink (link : LinkResult) (s : State) : State := if link = .corrected then bump .MC_LINK_CORR 0 0 1 s else s

/-- A sector read from DRAM on a miss: link result, seal, parity, then the fill (R381, R388, R390, R396). -/
def missSector (sec : Nat) (p : Option PktId) (s : State) : Rd × State :=
  if s.mem.failed.has sec then (.bus, linkError sec p s)
  else
    match sealCheck sec p s with
    | (some e, s) => (e, s)
    | (none, s) =>
      let d := dramData sec s.mem
      if dramPar sec s.mem = parityOf d then
        let f := fillLine (sec / 4) s
        (.ok d, poisonEvents f.2 f.1)
      else (.bus, parityError 0 (homeSlice (sec / 4)) (32 * sec) p s)

/-- A sector read through its home slice: the cached copy, or DRAM on a miss (R388 to R390). -/
def readSector (sec : Nat) (p : Option PktId) (s : State) : Rd × State :=
  match s.mem.csec.find sec with
  | some c =>
    if c.par = parityOf c.data then (.ok c.data, { s with mem := touchLine (sec / 4) s.mem })
    else (.bus, parityError 1 (homeSlice (sec / 4)) (32 * sec) p s)
  | none => missSector sec p s

/-- n sectors read from sector sec on, up to the first that fails. -/
def readSectors (p : Option PktId) : Nat → Nat → State → Rd × State
  | _, 0, s => (.ok [], s)
  | sec, n + 1, s =>
    match readSector sec p s with
    | (.ok d, s1) =>
      match readSectors p (sec + 1) n s1 with
      | (.ok ds, s2) => (.ok (d ++ ds), s2)
      | r => r
    | r => r

/-- n bytes of DRAM from address a on. -/
def readDram (a n : Nat) (p : Option PktId) (s : State) : Rd × State :=
  if n = 0 then (.ok [], s)
  else match readSectors p (a / 32) ((a + n - 1) / 32 + 1 - a / 32) s with
    | (.ok ds, s1) => (.ok ((ds.drop (a % 32)).take n), s1)
    | r => r

/-- The trellis column of a rack (R16). -/
def trellisX (r : Nat) : Nat := 8 * (r / 64 % 2) + r % 64 % 8

/-- The trellis row of a rack (R16). -/
def trellisY (r : Nat) : Nat := 8 * (r / 128) + r % 64 / 8

/-- The rack at trellis coordinates (R16). -/
def rackAt (x y : Nat) : Nat := 64 * (x / 8 + 2 * (y / 8)) + 8 * (y % 8) + x % 8

/-- The links of a way of n hops from a coordinate: sending racks, with direction 2 k + 1 down and 2 k up. -/
def wayLinks (at' : Nat → Nat) (k lo hi : Nat) : List Nat :=
  if lo ≤ hi then (List.range (hi - lo)).map fun j => 4 * at' (lo + j) + 2 * k
  else (List.range (lo - hi)).map fun j => 4 * at' (lo - j) + 2 * k + 1

/-- The link directions from one rack to another: first along x, then along y (R28). The key is 4 times the sending rack plus the
direction of Table 11.18. -/
def trellisWay (r q : Nat) : List Nat :=
  wayLinks (fun x => rackAt x (trellisY r)) 0 (trellisX r) (trellisX q) ++
    wayLinks (fun y => rackAt (trellisX q) y) 1 (trellisY r) (trellisY q)

/-- Whether every link from one rack to another is up; what crosses no link always passes (R406). -/
def trellisUp (r q : Nat) (s : State) : Bool :=
  decide (256 ≤ r) || (trellisWay r q).all fun k => !(Store.getD TLink.init k s.mem.tlink).down

/-- n bytes of the device address space, seen from rack r. A remote scratchpad behind a link that is down is a bus error (R406). Bytes outside every memory read as a bus error (R246, Table 11.3). -/
def devRead (r a n : Nat) (p : Option PktId) (s : State) : Rd × State :=
  if !inReach r a n s then (.bus, s)
  else match regionOf r a s with
    | .dram a => readDram a n p s
    | .sp q o =>
      let there := fun q => trellisUp r q s && (decide (256 ≤ r) || trellisUp q r s)
      if there q && there (lastRack q o n) then spFetch q o n p s else (.bus, s)
    | _ => (.bus, s)

/-- The completion of a packet whose read failed: CODE BUS, and the SEAL flag after a failed seal (R396, Table 11.3). -/
def busOf (r : Rd) (p : Option PktId) (s : State) : State :=
  match r with
  | .ok _ => s
  | .bus => pktCode 5 p s
  | .badSeal => pktFlag 28 p (pktCode 5 p s)

/-- Whole sectors written to the device address space, seen from rack r; nothing where no memory lies, or behind a link that is down
(R406). -/
def devWrite (r a : Nat) (data : List Byte) (s : State) : State :=
  if !inReach r a data.length s then s
  else match regionOf r a s with
    | .dram a => writeDram a data s
    | .sp q o => if trellisUp r q s && trellisUp r (lastRack q o data.length) s then spWrite q o data s else s
    | _ => s

/-- Whether the links that a write of n bytes needs are up (R406). -/
def writeReaches (r a n : Nat) (s : State) : Bool :=
  match regionOf r a s with
  | .sp q o => trellisUp r q s && trellisUp r (lastRack q o n) s
  | _ => true

/-- A write of a packet's work: one that a link which is down discards is a bus error for its requester (R406). -/
def devStore (r a : Nat) (data : List Byte) (p : Option PktId) (s : State) : State :=
  devWrite r a data (if writeReaches r a data.length s then s else pktCode 5 p s)

/-! ### AccMem -/

/-- The key of an AccMem element. -/
def accKey (r slot t c : Nat) : Nat := ((16 * r + slot) * 16 + t) * 256 + c

/-- The signed 36-bit value of an element (R239). -/
def accGet (r slot t c : Nat) (s : State) : Int := (Store.getD 0 (accKey r slot t c) s.mem.acc).toInt

/-- An add into an element, exact modulo 2³⁶ (R239). -/
def accAdd (r slot t c : Nat) (v : Int) (s : State) : State :=
  let k := accKey r slot t c
  { s with mem := { s.mem with acc := Store.setD 0 k (Store.getD 0 k s.mem.acc + BitVec.ofInt 36 v) s.mem.acc } }

/-- A slot's tile zeroed, with good parity (R241, R407). -/
def accClear (r slot : Nat) (s : State) : State :=
  { s with mem := { s.mem with
      acc := Store.clear (accKey r slot 0 0) (accKey r slot 0 0 + 4096) s.mem.acc
      accBad := s.mem.accBad.drop (16 * r + slot) } }

/-! ### Upsets (R389) -/

/-- A stored sector of the device address space, seen from rack r, whose parity an upset has made fail: in the scratchpad or the cached
copy where it lies there, in DRAM otherwise (log entry 121). -/
def strikeSector (r a : Nat) (s : State) : State :=
  match regionOf r a s with
  | .sp q o => { s with mem := { s.mem with spBad := s.mem.spBad.add (0x4000 * q + o / 32) } }
  | .dram a => { s with mem := poisonSector s.mem (a / 32) }
  | _ => s

/-! ### Cask queues -/

/-- The number of occupied queue entries (R66): queued operations, and those in progress before their boundary. -/
def Cask.depth (k : Cask) : Nat := k.queue.length + (k.running.filter fun o => decide (o.kind = .mvm) && !o.past).length

/-- Whether a cask stands at an operation boundary: every operation in progress is past its own (R66). -/
def Cask.atBoundary (k : Cask) : Bool := k.running.all (·.past)

/-- Whether a cask stands at an operation boundary with an empty queue (R144). -/
def Cask.standsEmpty (k : Cask) : Bool := k.queue.isEmpty && k.atBoundary

/-! ### Instruction buffers (R268) -/

/-- A byte of DRAM as it stands, with no access. -/
def peekByte (a : Nat) (s : State) : Byte :=
  match s.mem.csec.find (a / 32) with
  | some c => nthD 0 (a % 32) c.data
  | none => Store.getD 0 a s.mem.dram

/-- Bytes of DRAM as they stand, with no access. -/
def peek (a n : Nat) (s : State) : List Byte := (List.range n).map fun k => peekByte (a + k) s

/-- The contents of a sector in a rack's instruction buffer (R27, R268). -/
def RackSt.buffered (sec : Nat) (k : RackSt) : Option (List Byte) := (k.ibuf.find? fun e => decide (e.1 = sec)).map (·.2)

/-- A rack as an issue of a thread leaves it: the thread has issued last, after the others that it passed over (R233), and the 32-byte
sector of its PC lies in the rack's 64 KiB instruction buffer, with the contents it was fetched with (R27, R268). DESIGN CHOICE: the buffer holds sectors, and a full one lets the sector fetched first go (log
entry 118). -/
def RackSt.fetched (t pc : Nat) (data : List Byte) (others : List Nat) (k : RackSt) : RackSt :=
  { k with
    lastIssued := t
    passed := (k.passed.mapV fun _ l => l.filter (· ≠ t)).put t others
    ibuf := if (k.buffered (pc / 32)).isSome then k.ibuf
      else (if 2048 ≤ k.ibuf.length then k.ibuf.drop 1 else k.ibuf) ++ [(pc / 32, data)] }

/-- Whether every thread of a rack is FREE. -/
def allFree (r : Nat) (s : State) : Bool := s.threads.all fun e => decide (e.1 / 64 ≠ r) || decide (e.2.st = .free)

/-- The instruction buffers of the racks whose threads are all FREE emptied (R268). -/
def emptyIbufs (s : State) : State :=
  { s with racks := s.racks.mapV fun r k => if allFree r s then { k with ibuf := [] } else k }

/-! ### Sync objects -/

/-- A sync object's count. -/
def syncGet (o : Nat) (s : State) : Word := Store.getD 0 o s.sync

/-- Whether a rack stops its threads: quiesce (R262). -/
def rackStops (r : Nat) (s : State) : Bool := rflag .RP_CTRL r 0 0 s

/-- A thread whose wait has ended: READY, or HELD under quiesce or a freeze (R262, R513). -/
def wakeState (r : Nat) (k : Thread) (s : State) : TSt :=
  if k.st = .held || rackStops r s then .held else .ready

/-- A thread with a register whose parity fails: an upset has struck it (R389). s0 is no stored register. -/
def Thread.strike (x : LoadDest) (k : Thread) : Thread := if x = .sreg 0 then k else { k with struck := x :: k.struck }

/-- A thread with a register whose parity is good again, as a write leaves it (R389). -/
def Thread.mend (x : LoadDest) (k : Thread) : Thread := { k with struck := k.struck.filter (· ≠ x) }

/-- A scalar register written, with good parity; s0 discards (R389, Table 8.1). -/
def Thread.setS (d : Nat) (v : DWord) (k : Thread) : Thread :=
  if d = 0 then k
  else { k with s := Store.setD 0 d v k.s, struck := k.struck.filter fun x => match x with
    | .sreg a => decide (a.val ≠ d)
    | _ => true }

/-- A scalar register read; s0 reads zero (Table 8.1). -/
def Thread.getS (d : Nat) (k : Thread) : DWord := if d = 0 then 0 else Store.getD 0 d k.s

/-- A thread released from a wait with a result in s_D, past its instruction (R295). -/
def releaseWith (r t : Nat) (d : Reg) (v : DWord) (s : State) : State :=
  modThread r t (fun k => { k.setS d.val v with st := wakeState r k s, wait := none, pc := k.pc + 4 }) s

/-- A thread released if it waits on object o and its target is met (R360, R361). -/
def releaseIf (o : Nat) (key : Nat) (s : State) : State :=
  match (Store.getD Thread.init key s.threads).wait with
  | some (.sync o' target d _) =>
    if o' = o && decide (target.toNat ≤ (syncGet o s).toNat) then releaseWith (key / 64) (key % 64) d 0 s else s
  | _ => s

/-- Whether a packet header waits, and whether the count it waits for has been reached (R349, R360). -/
def headerWaits (h : List Byte) (s : State) : Bool :=
  !bitAt 3 (byteAt 2 h) || decide (leAt 8 4 h ≤ (syncGet (leAt 4 2 h) s).toNat)

/-- The wait of every packet at index START latched where it holds (R350). -/
def latchWaits (s : State) : State :=
  { s with rings := s.rings.mapV fun _ r =>
      match r.front with
      | some f => { r with front := some { f with waited := f.waited || headerWaits f.bytes s } }
      | none => r }

/-- Signals reaching an object in one rack clock, as one sum: the count, WRAP, the waiters released (R359 to R361). -/
def signal (o : Nat) (sum : Int) (p : Option PktId) (s : State) : State :=
  let true' := (syncGet o s).toNat + sum
  let s := { s with sync := Store.setD 0 o (BitVec.ofInt 32 true') s.sync }
  let s := if true' < 0 || decide (0xFFFFFFFF < true') then
      raiseEvent 0x0804 0 0 o p { s with wraps := s.wraps.add o }
    else s
  latchWaits ((s.threads.map (·.1)).foldl (fun s k => releaseIf o k s) s)

end Sys2Proof.Machine
end

