-- ==== Sys2Proof/Machine/PosOps.lean ====
section
/-! DEFINITION. The position of the clock of record, as everything that samples it reads it (R450). -/

namespace Sys2Proof.Machine

/-- P = P_base + round((count − C_base) × NUM / DEN), the difference a signed 48-bit value, ties away from zero (R450). -/
def posUm (s : State) : Int :=
  s.pos.pBase + roundAway ((s.pos.count - s.pos.cBase).toInt * (rget .POS_NUM 0 0 s).toNat) (rget .POS_DEN 0 0 s).toNat

/-- The frame number in force (R454). -/
def posFrame (s : State) : Nat := s.pos.frame.toNat

/-- The Position Event Table entry of a number (Table 13.1). -/
def petGet (e : Nat) (s : State) : Nat := (Store.getD 0 e s.pos.pet).toNat

/-- A Position Event Table entry replaced. -/
def petPut (e w : Nat) (s : State) : State :=
  { s with pos := { s.pos with pet := Store.setD 0 e (BitVec.ofNat 128 w) s.pos.pet } }

/-- Whether the condition of an entry holds: COND rising, falling or frame (Table 13.1). -/
def petHolds (w : Nat) (s : State) : Bool :=
  match bits 117 116 w with
  | 0 => decide (signedOf 64 w ≤ posUm s)
  | 1 => decide (posUm s ≤ signedOf 64 w)
  | 2 => decide (bits 47 0 w ≤ posFrame s)
  | _ => false

/-- The gate of every packet at index START latched where its condition holds: that of its gate entry once it has one, and of its gate
before (R350, R351). -/
def latchGates (s : State) : State :=
  { s with rings := s.rings.mapV fun _ r =>
      match r.front with
      | some f =>
        let w := match f.entry with
          | some e => petGet e s
          | none => f.gate
        { r with front := some { f with gated := f.gated || petHolds w s } }
      | none => r }

end Sys2Proof.Machine
end

