-- ==== Sys2Proof/Machine/Access.lean ====
section
/-! DEFINITION. What every register access and every commit group share (R1 to R14, R425, R534, R564): whether an access reaches its
register, the events of rejected writes, the change journal, commit groups and their apply. -/

namespace Sys2Proof.Machine

/-! ### The change journal (R546 to R548) -/

/-- A journal entry made: merged into a waiting entry of its kind, register and unit, queued, or lost when 64 wait (R548). -/
def journal (kind source unit reg gen : Nat) (old new : Word) (s : State) : State :=
  let e : JEntry := ⟨kind, source, unit, s.now, posUm s, posFrame s % 2 ^ 32, reg, gen, old, new, 1⟩
  let same := fun (w : JEntry) => decide (w.kind = kind) && decide (w.reg = reg) && decide (w.unit = unit)
  let merge := fun (w : JEntry) => if same w then { e with old := w.old, count := w.count + 1, source := w.source } else w
  if s.pm.waiting.any same then { s with pm := { s.pm with waiting := s.pm.waiting.map merge } }
  else if s.pm.waiting.length < 64 then { s with pm := { s.pm with waiting := s.pm.waiting ++ [e] } }
  else raiseEvent 0x0E08 0 0 (s.pm.lost + 1) none { s with pm := { s.pm with lost := s.pm.lost + 1 } }

/-! ### Reaching a register -/

/-- The switched power domain of the block of Table 17.9 that an offset lies in (Table 16.2, R563): a rack's registers and its casks', the
front end's, a Burivo port's. -/
def regDomain (off : Nat) : Option Nat :=
  let x := off % 0x10000
  if 0x1000000 ≤ off && decide (off < 0x2000000) && (decide (x < 0x100) || decide (0x8000 ≤ x ∧ x < 0xC000)) then
    some ((off - 0x1000000) / 0x40000)
  else if 0x401000 ≤ off && decide (off < 0x401400) then some 79
  else if 0x500100 ≤ off && decide (off < 0x500180) then some (74 + (off - 0x500100) / 0x20)
  else none

/-- The domain of a register, when it is off (R534). -/
def offDomain (off : Nat) (s : State) : Option Nat := (regDomain off).filter fun d => domainIsOff d s

/-- Whether a BAR0 access reaches its block: configuration space is ready and the function answers requests (R422, R424), and the register
lies in the device control region or firmware is ready (R425). -/
def reaches (off : Nat) (s : State) : Bool := s.px.cfgReady && !s.px.d3 && (s.pm.fwReady || decide (off < 0x100000))

/-- EV_PM_OFF of a discarded write (R534). -/
def pmOffEvent (d off : Nat) (s : State) : State := raiseEvent 0x0E03 d 0 off none s

/-- A write from the host or the cellarer: discarded where it does not reach its block (R425), discarded with EV_PM_OFF where its
domain is off (R534), carried out otherwise. -/
def regWrite (src : Source) (off : Nat) (f : State → State) (s : State) : State :=
  if decide (src = .host) && !reaches off s then s
  else match offDomain off s with
    | some d => pmOffEvent d off s
    | none => f s

/-- A host write to the register of a command of its own. -/
def hostWrite (n : RegName) (u i : Nat) (f : State → State) (s : State) : State := regWrite .host (regOff n u i) f s

/-- A write that arrives while its field may not be written keeps the field and raises EV_WRITE_BUSY (R6). -/
def writeBusy (off : Nat) (s : State) : State := raiseEvent 0x0002 0 0 off none s

/-- The configuration event of a block whose register is given a value that is not allowed (R564 and each chapter's events). -/
def cfgEvent (b : CfgBlock) (unit off : Nat) (s : State) : State :=
  match b with
  | .none => s
  | .pm => raiseEvent 0x0E09 0 0 off none s
  | .ledger => raiseEvent 0x0203 0 0 off none s
  | .rack => raiseEvent 0x0306 0 0 off none s
  | .ct => raiseEvent 0x0405 0 0 off none s
  | .qt => raiseEvent 0x0505 0 0 off none s
  | .cal => raiseEvent 0x0C05 0 0 off none s
  | .mem => raiseEvent 0x0907 0 0 off none s
  | .ring => raiseEvent 0x0801 0 0 (2 ^ 9 + off * 2 ^ 32) none s
  | .pos => raiseEvent 0x0B10 0 0 off none s
  | .bv => raiseEvent 0x0A07 0 0 off none s
  | .hg => raiseEvent 0x0D07 0 0 off none s
  | .ck => raiseEvent 0x0102 unit 0 off none s

/-- The configuration event of a register. -/
def rejectWrite (n : RegName) (u i : Nat) (s : State) : State := cfgEvent n.desc.block u (regOff n u i) s

/-- A read response on the host link; reads of a register of a domain that is off bring 0 (R534), reads that do not reach their block a
completer abort (R425). -/
def regRead (off : Nat) (f : State → Word × State) (s : State) : State :=
  if !reaches off s then respond .abort s
  else match offDomain off s with
    | some _ => respond (.regData 0) s
    | none => let r := f s; respond (.regData r.1) r.2

/-! ### Commit groups (R8 to R13) -/

/-- The COMMIT register of a register's commit group, if it has one. -/
def groupOf (r : RegRef) : Option RegRef :=
  match r.name with
  | .CK_GAIN => some ⟨.CK_GAIN_COMMIT, r.unit, 0⟩
  | .CK_REMAP => some ⟨.CK_REMAP_COMMIT, r.unit, 0⟩
  | .CK_PIN => some ⟨.CK_REMAP_COMMIT, r.unit, 0⟩
  | .RK_POLICY => some ⟨.RK_POLICY_COMMIT, 0, 0⟩
  | .RK_RANGE => some ⟨.RK_POLICY_COMMIT, 0, 0⟩
  | .CT_CHK_TOL => some ⟨.CT_CHECK_COMMIT, 0, 0⟩
  | .CT_TASTE_TOL => some ⟨.CT_CHECK_COMMIT, 0, 0⟩
  | .POS_NUM => some ⟨.POS_SCALE_COMMIT, 0, 0⟩
  | .POS_DEN => some ⟨.POS_SCALE_COMMIT, 0, 0⟩
  | .POS_FRAME_LEN => some ⟨.POS_SCALE_COMMIT, 0, 0⟩
  | .FE_DAC_INC => some ⟨.FE_DAC_COMMIT, 0, r.idx⟩
  | .FE_DAC_WAVE => some ⟨.FE_DAC_COMMIT, 0, r.idx⟩
  | .FE_PWM_CFG => some ⟨.FE_PWM_COMMIT, 0, r.idx⟩
  | .FE_PWM_A => some ⟨.FE_PWM_COMMIT, 0, r.idx⟩
  | .FE_PWM_B => some ⟨.FE_PWM_COMMIT, 0, r.idx⟩
  | _ => none

/-- The registers of the group of a COMMIT register, in offset order. -/
def groupRegs (c : RegRef) : List RegRef :=
  match c.name with
  | .CK_GAIN_COMMIT => [⟨.CK_GAIN, c.unit, 0⟩]
  | .CK_REMAP_COMMIT =>
    ((List.range 16).map fun k => ⟨.CK_REMAP, c.unit, k⟩) ++ ((List.range 16).map fun k => ⟨.CK_PIN, c.unit, k⟩)
  | .RK_POLICY_COMMIT => [⟨.RK_POLICY, 0, 0⟩, ⟨.RK_RANGE, 0, 0⟩]
  | .CT_CHECK_COMMIT => [⟨.CT_CHK_TOL, 0, 0⟩, ⟨.CT_TASTE_TOL, 0, 0⟩]
  | .POS_SCALE_COMMIT => [⟨.POS_NUM, 0, 0⟩, ⟨.POS_DEN, 0, 0⟩, ⟨.POS_FRAME_LEN, 0, 0⟩]
  | .FE_DAC_COMMIT => [⟨.FE_DAC_INC, 0, c.idx⟩, ⟨.FE_DAC_WAVE, 0, c.idx⟩]
  | .FE_PWM_COMMIT => [⟨.FE_PWM_CFG, 0, c.idx⟩, ⟨.FE_PWM_A, 0, c.idx⟩, ⟨.FE_PWM_B, 0, c.idx⟩]
  | _ => []

/-- Whether an apply request of a group waits (PENDING). -/
def applyPending (c : RegRef) (s : State) : Bool := (s.applies.find c.off).isSome

/-- The staged word of a register of a commit group: what was staged since the last apply, or the value in force (R9). -/
def stagedWord (r : RegRef) (s : State) : Word := (s.staged.find r.off).getD (rget r.name r.unit r.idx s)

/-- BUSY_ERR of a COMMIT register set (R11). -/
def setBusyErr (c : RegRef) (s : State) : State := rput c.name c.unit c.idx 30 30 1 s

/-- PENDING cleared. -/
def endApply (c : RegRef) (s : State) : State := { s with applies := s.applies.drop c.off }

/-- A group's staged values given up, so that every staged value is the value in force (R11, R13); those of the rescale group are its staged
bank and match gains (R224). -/
def dropStaged (c : RegRef) (s : State) : State :=
  let s := { s with staged := (groupRegs c).foldl (fun m r => m.drop r.off) s.staged }
  endApply c (if c.name = .RS_COMMIT then
    { s with quant := { s.quant with crtStaged := s.quant.crt, gainStaged := s.quant.gain } } else s)

/-- GEN of a COMMIT register, one higher modulo 65,536 (R9, R10). -/
def bumpGen (c : RegRef) (s : State) : State :=
  rput c.name c.unit c.idx 15 0 ((rfield c.name c.unit c.idx 15 0 s + 1) % 65536) s

/-- The first field that an apply of a group changes: its value in force and its staged value (Table 16.10). -/
def firstChange (c : RegRef) (s : State) : Option (Word × Word) :=
  (groupRegs c).findSome? fun r =>
    r.name.desc.fields.findSome? fun f =>
      let old := fieldOf f.hi f.lo (rget r.name r.unit r.idx s)
      let new := fieldOf f.hi f.lo (stagedWord r s)
      if old ≠ new then some (BitVec.ofNat 32 old, BitVec.ofNat 32 new) else none

/-- Every staged word of a group put in force in one step (R9). -/
def applyWords (c : RegRef) (s : State) : State :=
  dropStaged c ((groupRegs c).foldl (fun t r => rset r.name r.unit r.idx (stagedWord r s) t) s)

/-- A group's staged set applied: every field at once, GEN one higher, PENDING 0, and the change journaled where host software asked for
it (R9, R12, R14). -/
def applyGroup (c : RegRef) (host : Bool) (s : State) : State :=
  let ch := firstChange c s
  let s := bumpGen c (applyWords c s)
  match ch with
  | some w =>
    if host then journal 1 0 (if c.unit = 0 then c.idx else c.unit) c.off (rfield c.name c.unit c.idx 15 0 s) w.1 w.2 s else s
  | none => s

end Sys2Proof.Machine
end

