-- ==== Sys2Proof/Machine/Peers.lean ====
section
/-! DEFINITION. What the rack's threads, the dispatcher and the link commands share of the Burivo links: sending a peer message, and
what its failure does (R362, R428, R431 to R433, R436, R440). -/

namespace Sys2Proof.Machine

/-- Burivo port p. -/
def getPort (p : Nat) (s : State) : Port := Store.getD Port.init p s.bv.ports

/-- The state with a port changed by f. -/
def modPort (p : Nat) (f : Port → Port) (s : State) : State :=
  { s with bv := { s.bv with ports := s.bv.ports.put p (f (getPort p s)) } }

/-- The state of a port: an attempt to train it that has not succeeded within 200 µs leaves it down (R429). -/
def Port.state (now : Nat) (k : Port) : PortSt := if k.st = .training ∧ k.lastTrain + 40000 < now then .down else k.st

/-- Whether the route to a member is VALID (R431). -/
def routeValid (m : Nat) (s : State) : Bool := rflag .BV_ROUTE 0 m 31 s

/-- The port of the route to a member (R431). -/
def routePort (m : Nat) (s : State) : Nat := rfield .BV_ROUTE 0 m 1 0 s

/-- Whether the route to a member leaves on VC1 (R431). -/
def routeVc1 (m : Nat) (s : State) : Bool := rflag .BV_ROUTE 0 m 30 s

/-- Whether a message to a member can travel: a VALID route through a port that is up (R429, R431). -/
def routeUp (m : Nat) (s : State) : Bool := routeValid m s && decide ((getPort (routePort m s) s).st = .up)

/-- Whether a flit may leave a port on a channel: with a credit (R428), and with room in the 64-flit replay buffer (R427). -/
def Port.maySend (vc1 : Bool) (k : Port) : Bool := decide (0 < if vc1 then k.cred1 else k.cred0) && decide (k.buf.length < 64)

/-- A port after a flit has left it on a channel: the replay buffer keeps it until it is acknowledged (R427, R428, R429). -/
def Port.sent (vc1 : Bool) (m : HostMsg) (now : Nat) (k : Port) : Port :=
  let k := if vc1 then { k with cred1 := k.cred1 - 1 } else { k with cred0 := k.cred0 - 1 }
  { k with buf := k.buf ++ [(k.txSeq, m)], txSeq := k.txSeq + 1, lastTx := now }

/-- Whether a new peer message may be issued: not under BV_CTRL.QUIESCE, and with a credit of its channel (R428, R440). A message
that cannot travel at all fails at once, so it may be issued. -/
def maySendPeer (m : Nat) (s : State) : Bool :=
  !rflag .BV_CTRL 0 0 8 s && (!routeUp m s || (getPort (routePort m s) s).maySend (routeVc1 m s))

/-- A message sent through a port on a channel, or queued for it until it may leave (R428, R431). -/
def sendFlit (p : Nat) (vc1 : Bool) (m : HostMsg) (s : State) : State :=
  if (getPort p s).maySend vc1 then respond m (modPort p (Port.sent vc1 m s.now) s)
  else modPort p (fun k => { k with txq := k.txq ++ [(vc1, m)] }) s

/-- What is queued for a port sent, in its order, as far as it may leave (R428). -/
def pumpPort (p : Nat) (s : State) : State :=
  (getPort p s).txq.foldl (fun s e => sendFlit p e.1 e.2 s) (modPort p (fun k => { k with txq := [] }) s)

/-- The device's own member number (R430). -/
def ownMember (s : State) : Nat := rfield .BV_IDENT 0 0 3 0 s

/-- A message on its way from a member to a member, sent or sent on: through the port of the route, on VC1 where it was on VC1 already or
the route has DATELINE set; where it cannot travel it is gone (R429, R431). -/
def routeMsg (vc1 : Bool) (src dest id : Nat) (load : PeerLoad) (s : State) : State :=
  if routeUp dest s then
    sendFlit (routePort dest s) (vc1 || routeVc1 dest s) (.burivo (routePort dest s) (vc1 || routeVc1 dest s) src dest id load) s
  else s

/-- The sync object operand of a remote signal (R294). -/
def remoteOperand (m obj : Nat) : Nat := obj % 65536 + 2 ^ 16 * (m % 16) + 2 ^ 20

/-- A failed message: PEER on its packet, and CODE LINK where it was discarded (R357), the FENCE.P result of the thread whose peer-window store it is (R304), and EV_SYNC_REMOTE
for a signal that was discarded (R362, R433, R436). -/
def failMsg (discarded : Bool) (m : PeerMsg) (s : State) : State :=
  let s := pktFlag 30 m.pkt (if discarded then pktCode 7 m.pkt s else s)
  let s := match m.thread with
    | some k =>
      let th := Store.getD Thread.init k s.threads
      if th.pkt = m.pkt && decide (th.st ≠ .free) && !m.isSignal then { s with threads := s.threads.put k { th with peerFailed := true } } else s
    | none => s
  if m.isSignal && discarded then raiseEvent 0x0805 0 0 (remoteOperand m.dest m.addr) m.pkt s else s

/-- A message sent to a pod member: kept until it is acknowledged, or failed at once where it cannot travel (R429, R431 to R433). -/
def sendPeer (dest addr : Nat) (data : List Byte) (isSignal : Bool) (pkt : Option PktId) (thread : Option Nat) (s : State) : State :=
  let m : PeerMsg := ⟨s.bv.nextMsg, dest, addr, data, isSignal, pkt, thread⟩
  let s := { s with bv := { s.bv with nextMsg := s.bv.nextMsg + 1 } }
  let load := if isSignal then PeerLoad.signal (BitVec.ofNat 16 addr) (BitVec.ofNat 32 (leNat data)) else .store addr data
  if routeUp dest s then routeMsg false (ownMember s) dest m.id load { s with bv := { s.bv with msgs := s.bv.msgs ++ [m] } }
  else failMsg true m s

/-- Whether a member is present: its BV_PRESENT bit (R435). -/
def memberPresent (m : Nat) (s : State) : Bool := bitAt m s.bv.present

/-- A member's liveness record changed by f. -/
def modPeer (m : Nat) (f : PeerRec → PeerRec) (s : State) : State :=
  { s with bv := { s.bv with peers := s.bv.peers.put m (f (Store.getD PeerRec.init m s.bv.peers)) } }

/-- A message of a member has arrived (R436). -/
def heardFrom (m : Nat) (s : State) : State := modPeer m (fun k => { k with last := s.now }) s

/-- A message of a member, by its number there, acknowledged end to end (R433). -/
def ackPeer (m id : Nat) (accepted : Bool) (s : State) : State := routeMsg false (ownMember s) m 0 (.ack id accepted) s

/-- The receive buffer of a channel of a port. -/
def Port.rx (vc : Fin 2) (k : Port) : List (List BvMsg) := if vc = 0 then k.rx0 else k.rx1

/-- A port with the receive buffer of a channel changed. -/
def Port.putRx (vc : Fin 2) (l : List (List BvMsg)) (k : Port) : Port := if vc = 0 then { k with rx0 := l } else { k with rx1 := l }

/-- Whether a message is the next one of the receive buffer it is said to come from: the first left in the oldest flit there (R426, R427). -/
def hasMsg (v : Via) (m : Member) (load : PeerLoad) (s : State) : Bool :=
  decide ((((getPort v.port.val s).rx v.vc).head?.bind (·.head?)) = some ⟨m, v.dest, v.id, load⟩)

/-- The next message taken out of a receive buffer: with its last message the flit leaves the buffer, and its credit goes back in a flit
(R426, R428). -/
def takeMsg (v : Via) (s : State) : State :=
  match (getPort v.port.val s).rx v.vc with
  | [] => s
  | l :: rest =>
    if l.length ≤ 1 then respond (.flitCredit v.port.val (decide (v.vc = 1))) (modPort v.port.val (Port.putRx v.vc rest) s)
    else modPort v.port.val (Port.putRx v.vc (l.tail :: rest)) s

/-- A message that arrives: taken out of its receive buffer, and sent on where it is addressed to another member (R428, R431). -/
def arrive (v : Via) (m : Member) (load : PeerLoad) (act : State → State) (s : State) : State :=
  if !hasMsg v m load s then s
  else if v.dest.val = ownMember s then act (takeMsg v s)
  else routeMsg (decide (v.vc = 1)) m.val v.dest.val v.id load (takeMsg v s)

end Sys2Proof.Machine
end

