-- ==== Sys2Proof/Machine/Status.lean ====
section
/-! DEFINITION. What the status registers of the blocks report: whether each block is quiesced (R6 and each chapter's register
section), and the state of casks and racks. -/

namespace Sys2Proof.Machine

/-! ### Casks -/

/-- The buffer that waits for its conversion: that of the previous integrating step (R60, R63). -/
def Cask.buf (k : Cask) : Option ChargeBuf := if k.intoB then k.bufA else k.bufB

/-- The converted buffer reset (R63). -/
def Cask.clearBuf (k : Cask) : Cask := if k.intoB then { k with bufA := none } else { k with bufB := none }

/-- Charge integrated into the buffer whose turn it is; the other one is next (R60). -/
def Cask.fill (k : Cask) (b : ChargeBuf) : Cask :=
  if k.intoB then { k with bufB := some b, intoB := false } else { k with bufA := some b, intoB := true }

/-- A cask's operation counter restarts at 0 (R505). -/
def Cask.restart (now : Nat) (k : Cask) : Cask := { k with progress := now, paused := 0 }

/-- Whether no operation is in progress on a cask and no conversion, replay or add is outstanding (R78). -/
def Cask.quiet (k : Cask) : Bool :=
  k.running.isEmpty && k.waiting.isEmpty && k.posted.isNone && k.replays.isEmpty && k.bufA.isNone && k.bufB.isNone && k.convs.isEmpty

/-- The cellarer's read of a kind that is in progress on a cask (R79, R179). -/
def Cask.probe (kind : OpKind) (k : Cask) : Option RunOp := k.running.find? fun o => decide (o.kind = kind)

/-- Whether a cask's adds are dropped: it is suspect and SUSPECT_DROP is 1 (R175). -/
def dropsAdds (c : Nat) (s : State) : Bool := (getCask c s).suspect && rflag .CT_CTRL 0 0 2 s

/-- The entry in progress that names a cask. -/
def activeEntry (c : Nat) (s : State) : Option (Nat × PktId × Nat × List Byte) := s.cellar.active.find? fun e => decide (e.1 = c)

/-- The TOP_UP packet in flight that waits for a cask's topping. -/
def topUpPkt (c : Nat) (s : State) : Option PktId :=
  s.rings.findSome? fun e => e.2.pkts.findSome? fun p =>
    match p.work with
    | .topUp cs => if cs.contains c then some ⟨Fin.ofNat 65536 e.1, p.idx⟩ else none
    | _ => none

/-- The packet whose operator the cellarer's work on a held cask belongs to: the RACK_LOAD of its entry, or the TOP_UP that asked for its
topping (R377). -/
def cellarPkt (c : Nat) (s : State) : Option PktId :=
  match (getCask c s).hold with
  | some .racking => (activeEntry c s).map fun e => e.2.1
  | some .topping => topUpPkt c s
  | some .topRemap => topUpPkt c s
  | some .topWait => topUpPkt c s
  | _ => none

/-- CK_STATUS.QUIESCED of a cask (R78). -/
def caskQuiesced (c : Nat) (s : State) : Bool := (getCask c s).quiet

/-- Whether a topping is in progress on a cask: from its hold to its release (R152, R153). -/
def Cask.topping (k : Cask) : Bool :=
  decide (k.hold = some .topping) || decide (k.hold = some .topRemap) || decide (k.hold = some .topWait)

/-- Whether a cask is in STATE reset: until the boot flow has ended, or until its own reset has (R134). -/
def caskInReset (c : Nat) (s : State) : Bool := !s.pm.fwReady || (getCask c s).inReset

/-- Whether a cask programs: from its credit to its release in a racking, a topping or a remap (R109, R130, R153). -/
def caskPrograms (c : Nat) (s : State) : Bool :=
  match (getCask c s).hold with
  | some .racking => true
  | some .topWait => true
  | some .topping => s.ledger.vppHeld.contains c || (getCask c s).prog.isSome
  | some .remap => s.ledger.vppHeld.contains c
  | some .topRemap => true
  | _ => false

/-- Whether a cask that a calibration holds is calibrated: the target of a cask calibration, or any cask, up to its release (R488, R491). -/
def calTarget (c : Nat) (s : State) : Bool :=
  if s.cal.releasing.contains c then s.cal.relTarget.all fun t => decide (t = c)
  else match s.cal.run with
    | some r => decide (r.scope ≠ 4) || decide (r.target = c)
    | none => false

/-- Whether a whole-device calibration is in progress, which stops every cask from its GO on (R491). -/
def calWhole (s : State) : Bool := s.cal.run.any fun r => decide (r.scope = 5)

/-- CK_STATUS.STATE (Table 2.13, R488, R79, R80, R109, R130). DESIGN CHOICE: a cask held for a diagnosis read shows what it would show at rest, for
Table 2.13 has no state for it (log entry 146). -/
def caskState (c : Nat) (s : State) : Nat :=
  let k := getCask c s
  if caskInReset c s then 5
  else if caskPrograms c s then 2
  else if decide (k.hold = some .cal) && calTarget c s then 3
  else if decide (k.hold = some .refRead) || (k.probe .refRead).isSome then 4
  else if !k.quiet then 1
  else if k.racked then 0 else 6

/-! ### Racks -/

/-- The threads of a rack that are in a state of a kind. -/
def threadCount (r : Nat) (p : Thread → Bool) (s : State) : Nat :=
  (s.threads.filter fun e => decide (e.1 / 64 = r) && p e.2).length

/-- Threads that are not FREE. -/
def activeThreads (r : Nat) (s : State) : Nat := threadCount r (fun k => decide (k.st ≠ .free)) s

/-- Threads in READY. -/
def readyThreads (r : Nat) (s : State) : Nat := threadCount r (fun k => decide (k.st = .ready)) s

/-- RP_STATUS.QUIESCED (R262). -/
def rackQuiesced (r : Nat) (s : State) : Bool :=
  let k := getRack r s
  rackStops r s && decide (threadCount r (fun k => decide (k.st = .ready) || decide (k.st = .waitMem)) s = 0) &&
    k.corr.isEmpty && k.drains.isEmpty && (List.range 16).all fun j => decide ((getCask (16 * r + j) s).depth = 0)

/-! ### The other blocks -/

/-- RG_STATUS.ALL_DISABLED: every ring is DISABLED (R380). -/
def allDisabled (s : State) : Bool := s.rings.all fun e => decide (e.2.st = .disabled)

/-- Whether any COPY is in progress. -/
def copying (s : State) : Bool := s.mem.dma.any fun e => e.2.copy.isSome

/-- MC_STATUS.DMA_QUIESCED (R410). -/
def dmaQuiesced (s : State) : Bool := rflag .MC_CTRL 0 0 8 s && !copying s

/-- MC_STATUS.SCRUB_BUSY (R399). -/
def scrubBusy (s : State) : Bool := s.mem.scrub.isSome

/-- FE_ADC_STATUS.QUIESCED: ENABLE is 0 and no pass is in progress; no delay outlasts ENABLE (Tables 13.16, 13.17). -/
def adcQuiesced (s : State) : Bool := !rflag .FE_ADC_CTRL 0 0 31 s && decide (s.fe.reg.st = 0) && decide (s.fe.inj.st = 0)

/-- CAL_STATUS.BUSY. -/
def calBusy (s : State) : Bool := s.cal.run.isSome

/-- HG_STATUS.BUSY: an incident is in progress. -/
def hangBusy (s : State) : Bool := s.hang.incident.isSome

/-- BV_STATUS.QUIESCED: QUIESCE is 1 and no message is unacknowledged (R440). -/
def bvQuiesced (s : State) : Bool := rflag .BV_CTRL 0 0 8 s && s.bv.msgs.isEmpty

/-- Whether a racking entry is in progress. -/
def rackingNow (s : State) : Bool := !s.cellar.active.isEmpty

/-- Whether a topping is in progress. -/
def toppingNow (s : State) : Bool :=
  s.casks.any fun e => e.2.topping

/-- Whether the cellarer repairs a cask: diagnosis, remap or pin. DESIGN CHOICE: a cask held for its diagnosis counts as a remap in progress for
RK_STATUS.QUIESCED, a reference read or a tasting run as none (Table 4.11, log entry 149). -/
def repairingNow (s : State) : Bool := s.casks.any fun e => decide (e.2.hold = some .diagnosis) || decide (e.2.hold = some .remap)

/-- Whether a rebuild is in progress: one that RK_CTRL.QUIESCE keeps from starting is not (Tables 4.10, 4.11). -/
def rebuildingNow (s : State) : Bool := !rflag .RK_CTRL 0 0 8 s && !s.cellar.rebuild.isEmpty

/-- RK_STATUS.QUIESCED: QUIESCE is 1 and no racking entry, topping, remap or rebuild is in progress (Table 4.11). -/
def rkQuiesced (s : State) : Bool := rflag .RK_CTRL 0 0 8 s && !rackingNow s && !toppingNow s && !repairingNow s

/-- Whether a tasting run is in progress. -/
def tastingNow (s : State) : Bool := s.casks.any fun e => decide (e.2.hold = some .tasting)

/-- CT_STATUS.TS_QUIESCED (Table 5.6). -/
def tasteQuiesced (s : State) : Bool := rflag .CT_CTRL 0 0 8 s && !tastingNow s

/-- QT_STATUS.RS_QUIESCED: RS_QUIESCE is 1 and no refold is in progress (Table 6.16). -/
def refoldQuiesced (s : State) : Bool := rflag .QT_CTRL 0 0 8 s && s.quant.batch.isEmpty

/-- Whether no DAC channel in mode 2 has TSEL 1 in force or staged (R472). -/
def tblQuiesced (s : State) : Bool :=
  (List.range 8).all fun n => !(decide (rfield .FE_DAC_CTRL 0 n 1 0 s = 2) &&
    (rflag .FE_DAC_WAVE 0 n 31 s || flagOf 31 (stagedWord ⟨.FE_DAC_WAVE, 0, n⟩ s)))

/-- The cask that LG_ROW_SEL names. -/
def selectedCask (s : State) : Nat := rfield .LG_ROW_SEL 0 0 20 9 s

/-- Whether the block that a register's "Quiesced only" refers to is quiesced (R6). -/
def quiescedFor (q : QuiesceOf) (u i : Nat) (s : State) : Bool :=
  match q with
  | .none => true
  | .adc => adcQuiesced s
  | .bv => bvQuiesced s
  | .cal => !calBusy s
  | .ck => caskQuiesced u s
  | .dma => dmaQuiesced s
  | .eq => !rflag .EQ_CFG 0 i 31 s
  | .hang => !hangBusy s
  | .refold => refoldQuiesced s
  | .rings => allDisabled s
  | .rk => rkQuiesced s
  | .scrub => !scrubBusy s
  | .selCask => caskQuiesced (selectedCask s) s
  | .taste => tasteQuiesced s
  | .tbl => tblQuiesced s

/-- Whether a domain is on its way off, held quiesced (R532). -/
def goingOff (d : Nat) (s : State) : Bool := s.pm.goingOff.has d

/-- Whether a domain is on and not on its way off. -/
def domainUp (d : Nat) (s : State) : Bool := !domainIsOff d s && !goingOff d s

/-- Whether a cask's rack group and its quadrant's bias domain are on and not on their way off (R107, R532). -/
def caskUp (c : Nat) (s : State) : Bool := domainUp (68 + c / 1024) s && domainUp (rackDomain (c / 16)) s

/-! ### Engines in recovery or out of service (R508, R513, R523, Table 15.2) -/

/-- The code of a thread state (Table 7.1). -/
def TSt.code : TSt → Nat
  | .free => 0
  | .ready => 1
  | .waitMem => 2
  | .waitCask => 3
  | .waitSync => 4
  | .waitDrain => 5
  | .halted => 6
  | .held => 7

/-- A thread's RP_THREAD_STATE word (Table 7.15). -/
def threadWord (k : Thread) : Word :=
  fieldsWord [(28, k.st.code), (0, match k.pkt with | some p => p.ring.val | none => 0)]

/-- Whether an engine covers a quadrant's DMA engines. -/
def Engine.coversQuad (e : Engine) (q : Nat) : Bool := decide (e.domain = 2 ∧ e.unit = q) || decide (3 ≤ e.domain)

/-- Whether an engine covers a cask. -/
def Engine.coversCask (e : Engine) (c : Nat) : Bool :=
  decide (e.domain = 0 ∧ e.unit = c) || decide (e.domain = 1 ∧ e.unit = c / 16) || decide (e.domain = 2 ∧ e.unit = c / 1024) ||
    decide (3 ≤ e.domain)

/-- Whether an engine covers a rack: the rack itself, or its quadrant. -/
def Engine.coversRack (e : Engine) (r : Nat) : Bool :=
  decide (e.domain = 1 ∧ e.unit = r) || decide (e.domain = 2 ∧ e.unit = r / 64) || decide (3 ≤ e.domain)

/-- Whether the incident in progress has an engine frozen that satisfies a condition: from detection until its reset has ended. -/
def frozenWhere (p : Engine → Bool) (s : State) : Bool :=
  match s.hang.incident with
  | some i => decide (i.phase ≤ 2) && i.engines.any p
  | none => false

/-- Whether an engine that satisfies a condition is in its reset: the reset has begun and not completed, with what the cellarer writes anew
before the engine returns to service (R226, R409, R509). -/
def resettingWhere (p : Engine → Bool) (s : State) : Bool := s.hang.resets.any fun e => p e.1

/-- Whether an engine takes work of a packet: in service, not in its reset, and not in an incident but for the packet that is being replayed
there (R515, R523). -/
def inService (covers : Engine → Bool) (p : Option PktId) (s : State) : Bool :=
  !s.hang.oos.any covers && !resettingWhere covers s &&
    match s.hang.incident with
    | some i => !i.engines.any covers || (decide (i.phase = 3) && i.replaying.isSome && decide (i.replaying = p))
    | none => true

/-- Whether a cask starts no new work: it is in reset, the cellarer holds it or has called for all of them, its engine is frozen or out of
service (R122, R134, R491, R513, R523). -/
def caskStopped (c : Nat) (s : State) : Bool :=
  let k := getCask c s
  caskInReset c s || k.hold.isSome || calWhole s || frozenWhere (·.coversCask c) s || s.hang.oos.any (·.coversCask c)

end Sys2Proof.Machine
end

