-- ==== Sys2Proof/Machine/CaskOps.lean ====
section
/-! DEFINITION. The parts of a cask's work that its commands share (R56 to R76, R85 to R98): codes and slices, admission, charges and
conversion, mapping, and the completion of operations. -/

namespace Sys2Proof.Machine

/-! ### The row table and the array -/

/-- Ceiling of a row (R85). -/
def Cask.ceil (k : Cask) (i : Nat) : Nat := (Store.getD ⟨0, 0⟩ i k.rows).ceil

/-- Row sum of a row (R85). -/
def Cask.rowSum (k : Cask) (i : Nat) : Nat := (Store.getD ⟨0, 0⟩ i k.rows).sum

/-- Signed programmed level of a pair on a row (R50). -/
def Cask.level (k : Cask) (i p : Nat) : Int := Store.getD 0 (532 * i + p) k.levels

/-! ### Codes and slices (R59, Table 2.4) -/

/-- The code at a row of a token's bytes: a signed byte (A8) or a signed half byte, the even row low (A4). -/
def codeAt (a4 : Bool) (bs : List Byte) (i : Nat) : Int :=
  if a4 then signedOf 4 (byteAt (i / 2) bs / 16 ^ (i % 2) % 16) else signedOf 8 (byteAt i bs)

/-- The code that marks an escaped row. -/
def escCode (a4 : Bool) : Int := if a4 then -8 else -128

/-- The signed level that a slice of a code drives: slice 1 is the A8 high slice, 0 the low or only one; an escape drives nothing. -/
def sliceLevel (a4 : Bool) (slice : Nat) (x : Int) : Int :=
  if x = escCode a4 then 0
  else
    let n : Nat := if a4 then x.natAbs else if slice = 1 then x.natAbs / 16 else x.natAbs % 16
    if x < 0 then -(n : Int) else n

/-- The 512 slice levels of a token. -/
def sliceLevels (a4 : Bool) (slice : Nat) (bs : List Byte) : List Int :=
  (List.range 512).map fun i => sliceLevel a4 slice (codeAt a4 bs i)

/-- The slices of a format in order of application. -/
def slicesOf (a4 : Bool) : List Nat := if a4 then [0] else [1, 0]

/-! ### Segment admission (R89 to R97) -/

/-- Capacity of a segment at a gain code (R90). -/
def capacity (g : Nat) : Nat := 510 * 2 ^ g

/-- The admitted rows of a segment (R89). -/
def admittedRows (ceil : Nat → Nat) (levels : List Int) (g : Nat) : List Nat :=
  ((List.range 64).map (64 * g + ·)).filter fun i => decide (nthD 0 i levels ≠ 0) && decide (ceil i ≠ 0)

/-- The bound of a list of rows: the sum of level times ceiling (R90). -/
def boundOf (ceil : Nat → Nat) (levels : List Int) (rows : List Nat) : Nat :=
  (rows.map fun i => (nthD 0 i levels).natAbs * ceil i).sum

/-- The smallest gain code up to the floor whose capacity holds a bound; the floor where none does (R90). -/
def gainFor (floor b : Nat) : Nat := ((List.range (floor + 1)).find? fun g => decide (b ≤ capacity g)).getD floor

/-- Rows split in row order into parts whose bounds stay within a capacity (R91). cur is the part being filled, in reverse. -/
def splitRows (ceil : Nat → Nat) (levels : List Int) (cap : Nat) : List Nat → List Nat → List (List Nat)
  | cur, [] => if cur.isEmpty then [] else [cur.reverse]
  | cur, i :: rest =>
    if boundOf ceil levels (i :: cur) ≤ cap then splitRows ceil levels cap (i :: cur) rest
    else if cur.isEmpty then splitRows ceil levels cap [i] rest
    else cur.reverse :: splitRows ceil levels cap [i] rest

/-- The parts of a segment under a gain policy (R90, R91, R93). -/
def segmentParts (ceil : Nat → Nat) (levels : List Int) (p : Gain) (g : Nat) : List SegPart :=
  let rows := admittedRows ceil levels g
  if rows.isEmpty then []
  else if p.fixed then [⟨g, rows, p.floor⟩]
  else
    let parts := if boundOf ceil levels rows ≤ capacity p.floor then [rows] else splitRows ceil levels (capacity p.floor) [] rows
    parts.map fun q => ⟨g, q, gainFor p.floor (boundOf ceil levels q)⟩

/-- The credit cost of a request (R97). -/
def costOf (k : Cask) (levels : List Int) (parts : List SegPart) : Nat :=
  max 1 (ceilDiv (((parts.map (·.rows)).flatten.map fun i => (nthD 0 i levels).natAbs * k.rowSum i).sum) 4000000)

/-- The parts of the eight segments of a slice. -/
def slicePartition (ceil : Nat → Nat) (levels : List Int) (p : Gain) : List (List SegPart) :=
  (List.range 8).map fun g => segmentParts ceil levels p g

/-- The number of sub-steps of a slice (R92). -/
def subSteps (segs : List (List SegPart)) : Nat := (segs.map List.length).foldl max 0

/-- The requests of a slice: one for each sub-step (R92). -/
def sliceReqs (k : Cask) (ceil : Nat → Nat) (p : Gain) (op tok slice : Nat) (levels : List Int) : List SliceReq :=
  let segs := slicePartition ceil levels p
  (List.range (subSteps segs)).map fun t =>
    let parts := segs.filterMap fun q => q[t]?
    ⟨op, tok, slice, t, false, levels, parts, costOf k levels parts, none⟩

/-- Segments of a slice that have no admitted row (R64). -/
def skippedSegs (segs : List (List SegPart)) : Nat := (segs.filter List.isEmpty).length

/-! ### Mapping (R56, R57, R83, R87) -/

/-- The CK_REMAP words in force of a cask. -/
def remapWords (c : Nat) (s : State) : List Word := (List.range 16).map fun k => rget .CK_REMAP c k s

/-- The CK_PIN words in force of a cask. -/
def pinWords (c : Nat) (s : State) : List Word := (List.range 16).map fun k => rget .CK_PIN c k s

/-- TARGET of an enabled entry that may take effect: below 514 (R83). -/
def remapTarget (w : Word) : Option Nat := if flagOf 31 w && decide (fieldOf 9 0 w < 514) then some (fieldOf 9 0 w) else none

/-- The spare that serves a pair: the lowest-numbered entry that names it (R56, R83). -/
def spareOf (remap : List Word) (p : Nat) : Option Nat :=
  (remap.zipIdx.find? fun e => decide (remapTarget e.1 = some p)).map (·.2)

/-- The physical pair whose converter result serves pair p (R56). -/
def servedBy (remap : List Word) (p : Nat) : Nat :=
  match spareOf remap p with
  | some k => 516 + k
  | none => p

/-- Whether a weight pair's own bit is set in a pin set. -/
def pinnedPair (pin : List Word) (p : Nat) : Bool := decide (p < 512) && flagOf (p % 32) (nthD 0 (p / 32) pin)

/-- Whether a logical column is pinned (R57). -/
def pinnedColumn (w5 : Bool) (pin : List Word) (j : Nat) : Bool :=
  if w5 then pinnedPair pin j else pinnedPair pin (2 * j) || pinnedPair pin (2 * j + 1)

/-- Whether the saturation detector ignores a physical pair: a reference pair, a replaced pair, a pinned pair (R87). -/
def detectorIgnores (remap pin : List Word) (p : Nat) : Bool :=
  decide (p = 514) || decide (p = 515) || (spareOf remap p).isSome || pinnedPair pin p

/-! ### Charge and conversion (R58, R60, R61) -/

/-- The charge of a pair in a segment part, in 1/1,024 unit: the exact product of levels and the deviation that the cells, the
drive and the converter's noise bring (log entry 5). -/
def chargeOf (k : Cask) (levels : List Int) (q : SegPart) (p : Nat) (dev : Store Int) : Int :=
  1024 * sumList (fun i => nthD 0 i levels * k.level i p) q.rows + Store.getD 0 (8 * p + q.seg) dev

/-- The buffer that a request integrates. -/
def integrate (k : Cask) (q : SliceReq) (remap pin : List Word) (dev : Store Int) : ChargeBuf where
  req := q
  charges := (List.range 532).flatMap fun p =>
    (List.range 8).filterMap fun g => (q.parts.find? fun x => decide (x.seg = g)).map fun x => (8 * p + g, chargeOf k q.levels x p dev)
  remap := remap
  pin := pin

/-- The code of a charge at a gain code: the nearest code, halves upward, limited to ±511 (R61). -/
def convert (gain : Nat) (q : Int) : Int :=
  clampInt (-511) 511 ((2 * q + 1024 * 2 ^ gain) / (2 * 1024 * 2 ^ gain))

/-- Whether an overrange comparator trips: at +510.5 LSB or above, below −510.5 LSB (R61, R73). -/
def overrange (gain : Nat) (q : Int) : Bool :=
  decide ((1021 * 512 * 2 ^ gain : Int) ≤ q) || decide (q < -(1021 * 512 * 2 ^ gain : Int))

/-- The charge of a pair in a segment of a buffer. -/
def ChargeBuf.charge (b : ChargeBuf) (p g : Nat) : Int := Store.getD 0 (8 * p + g) b.charges

/-- The physical pairs of a buffer that saturate in a segment part; in a reference read the detector ignores none (R87). -/
def ChargeBuf.saturated (ref : Bool) (b : ChargeBuf) (q : SegPart) : List Nat :=
  (List.range 532).filter fun p => (ref || !detectorIgnores b.remap b.pin p) && overrange q.gain (b.charge p q.seg)

/-- The conversion of a segment part of a buffer: the codes that serve pairs 0 to 513, and those of the other physical pairs. -/
def ChargeBuf.convPart (b : ChargeBuf) (q : SegPart) : Conv where
  op := b.req.op
  tok := b.req.tok
  slice := b.req.slice
  sub := b.req.sub
  seg := q.seg
  gain := q.gain
  codes := (List.range 532).map fun p => convert q.gain (b.charge (servedBy b.remap p) q.seg)

/-! ### Combination (R67, R68, R171) -/

/-- The digital weight of a slice (Table 2.4). -/
def sliceWeight (slice : Nat) : Int := if slice = 1 then 16 else 1

/-- The slice-combined result of pair p of a token: over all its conversions, code × LSB × slice weight. -/
def pairSum (cs : List Conv) (p : Nat) : Int := sumList (fun x => nthD 0 p x.codes * 2 ^ x.gain * sliceWeight x.slice) cs

/-- The value of a logical column (R67). -/
def columnSum (w5 : Bool) (cs : List Conv) (j : Nat) : Int :=
  if w5 then pairSum cs j else 16 * pairSum cs (2 * j) + pairSum cs (2 * j + 1)

/-- The number of logical columns of a weight mode. -/
def columns (w5 : Bool) : Nat := if w5 then 512 else 256

/-- Q of R171. -/
def convQ (cs : List Conv) : Int := sumList (fun x => sliceWeight x.slice * 2 ^ x.gain) cs

/-! ### Completion of operations (R66, R167, R244) -/

/-- The slots an operation adds into (R67). -/
def CaskOp.slots (o : CaskOp) : List Nat := o.slot :: (if o.w5 then [o.slot + 1] else [])

/-- Whether a cask still has an operation queued or in progress. -/
def Cask.hasOp (k : Cask) (id : Nat) : Bool := k.queue.any (fun o => decide (o.op = id)) || k.running.any (fun o => decide (o.op.op = id))

/-- Whether the correction unit still has the work of an operation. -/
def corrHas (r id : Nat) (s : State) : Bool := (getRack r s).corr.any fun w => decide (w.op.op = id)

/-- An operation whose cask part and correction part are both done: its slots' pending counts fall, its ring makes progress, the cask's
counter restarts, and it carries the SUSPECT flag of a suspect cask (R167, R175, R244, R504, R505). -/
def finishOp (c : Nat) (o : CaskOp) (s : State) : State :=
  if (getCask c s).hasOp o.op || corrHas (c / 16) o.op s then s
  else
    let s := modCask c (fun k => k.restart s.now) (if (getCask c s).suspect then pktFlag 19 o.pkt s else s)
    ringProgress o.pkt (o.slots.foldl (fun s x => modSlot (c / 16) x (fun k => { k with pend := k.pend - 1 }) s) s)

/-- An operation that the cask rejects: it leaves the cask, the correction unit discards its work, and it has completed (R143, R167). -/
def rejectOp (c : Nat) (o : CaskOp) (s : State) : State :=
  let s := modCask c (fun k => { k with
    running := k.running.filter (fun x => decide (x.op.op ≠ o.op))
    waiting := k.waiting.filter (fun q => decide (q.op ≠ o.op))
    replays := k.replays.filter (fun q => decide (q.op ≠ o.op))
    convs := k.convs.filter (fun x => decide (x.op ≠ o.op)) }) s
  let s := modRack (c / 16) (fun k => { k with corr := k.corr.filter fun w => decide (w.op.op ≠ o.op) }) s
  finishOp c o s

/-- Whether a token of an operation still has a slice to integrate or to convert. -/
def Cask.tokenBusy (k : Cask) (id tok : Nat) : Bool :=
  let is := fun (q : SliceReq) => decide (q.op = id) && decide (q.tok = tok)
  k.waiting.any is || (match k.posted with | some p => is p.req | none => false) || k.replays.any is ||
    (match k.buf with | some b => is b.req | none => false)

/-- Whether an operation still has an original slice to integrate. -/
def Cask.integrating (k : Cask) (id : Nat) : Bool :=
  let is := fun (q : SliceReq) => decide (q.op = id) && !q.replay
  k.waiting.any is || (match k.posted with | some p => is p.req | none => false)

/-- The next token to add, past those that were skipped (R64). -/
def RunOp.nextTok (o : RunOp) : Nat :=
  ((List.range (o.op.ntok + 1)).find? fun t => decide (o.added ≤ t) && !o.skipped.contains t).getD o.op.ntok

/-- Whether every slice of a read of the cellarer's is converted (R79, R179). -/
def Cask.probeDone (k : Cask) (o : RunOp) : Bool :=
  decide (o.op.ntok ≤ o.admitted) && (List.range o.op.ntok).all fun t => !k.tokenBusy o.op.op t

/-- The conversions of a token of an operation. -/
def Cask.convsOf (k : Cask) (id tok : Nat) : List Conv := k.convs.filter fun x => decide (x.op = id) && decide (x.tok = tok)

/-- A read of the cellarer's leaves its cask with its conversions. -/
def Cask.endProbe (k : Cask) (id : Nat) : Cask := { k with
  running := k.running.filter fun x => decide (x.op.op ≠ id)
  convs := k.convs.filter fun x => decide (x.op ≠ id) }

/-- Whether every token of a cask operation is added or skipped and its boundary is past. -/
def RunOp.over' (o : RunOp) : Bool := decide (o.kind = .mvm) && o.past && decide (o.op.ntok ≤ o.nextTok)

/-- The operations of a cask that have made their last add leave it (R66). -/
def settle (c : Nat) (s : State) : State :=
  let k := getCask c s
  let out := k.running.filter RunOp.over'
  let s := setCask c { k with running := k.running.filter (fun o => !o.over') } s
  out.foldl (fun s o => finishOp c o.op s) s

/-- The pin set of R143 fixed for an operation, in the cask and in the correction unit. -/
def fixPins (c id : Nat) (pin : List Word) (s : State) : State :=
  let fixR := fun (o : RunOp) => if o.op.op = id && o.pins.isNone then { o with pins := some pin } else o
  let fixC := fun (w : CorrWork) => if w.op.op = id && w.pins.isNone then { w with pins := some pin } else w
  let s := modCask c (fun k => { k with running := k.running.map fixR }) s
  modRack (c / 16) (fun k => { k with corr := k.corr.map fixC }) s

/-- The boundary of an operation: when every token is admitted and nothing of it is left to integrate (R66). An operation all of whose
slices are skipped takes the pin set in force there (R143). -/
def noteBoundary (c id : Nat) (s : State) : State :=
  let k := getCask c s
  if k.running.any (fun o => decide (o.op.op = id) && decide (o.op.ntok ≤ o.admitted)) && !k.integrating id then
    let past := fun (o : RunOp) => if o.op.op = id then { o with past := true } else o
    modCask c (fun k => { k with running := k.running.map past, foundEmpty := k.foundEmpty || k.queue.isEmpty })
      (fixPins c id (pinWords c s) s)
  else s

/-! ### Fits (R145, R566) -/

/-- The FP32 word nearest n / d. -/
def ratWord (n : Int) (d : Nat) : Word := BitVec.ofNat 32 (fround fp32 (decide (n < 0)) n.natAbs d).1

/-- The gain g of a cask's fit as an FP32 value: (REF_A + REF_B) / 32,768 (R145). -/
def Cask.fitG (k : Cask) : Word := ratWord (k.refA + k.refB) 32768

/-- The offset o of a cask's fit as an FP32 value: −REF_B / 4,096 − 4 g (R145). -/
def Cask.fitO (k : Cask) : Word := ratWord (-(k.refA + 3 * k.refB)) 8192

end Sys2Proof.Machine
end

