-- ==== Sys2Proof/Machine/Quantiser.lean ====
section
/-! DEFINITION. The quantiser (R186 to R212, R231, R285, R286, R569): the control word, the first pass of a token, the blocks it
writes, and the requests of a rack. Values are FP32 words; BF16 sources are widened exactly. -/

namespace Sys2Proof.Machine

/-! ### The control word (Table 6.3) -/

/-- FORMAT. -/
def qFormat (q : Nat) : Nat := bits 31 28 q
/-- SCALE_MODE. -/
def qMode (q : Nat) : Nat := bits 27 26 q
/-- POLICY: true is raise. -/
def qRaise (q : Nat) : Bool := bitAt 25 q
/-- E. -/
def qE (q : Nat) : Nat := bits 20 16 q
/-- BSN. -/
def qBsn (q : Nat) : Nat := bits 15 0 q

/-- Width in bits of an element of a control word's FORMAT (Table 6.1). -/
def qWidth (f : Nat) : Nat := if f = 1 || f = 4 then 4 else if f = 5 then 16 else 8

/-- Blocks of a token of k elements (R191). -/
def qBlocks (k : Nat) : Nat := ceilDiv k 512

/-- Bytes from one token to the next in a data block (R203). -/
def qStride (f k : Nat) : Nat := qBlocks k * 512 * qWidth f / 8

/-- Bytes of one data block (R207). -/
def qBlockBytes (f k e : Nat) : Nat := 32 + 256 * qStride f k + 1024 * qBlocks k * e

/-- Whether a control word and fixed scale are rejected by themselves under R190. -/
def qCtrlBad (q : Nat) (sf : Word) : Bool :=
  decide (6 < qFormat q) || decide (qMode q = 3) || decide (16 < qE q) || (decide (qE q ≠ 0) && decide (2 ≤ qFormat q)) ||
    (decide (qMode q = 2) != decide (qFormat q = 6)) || (decide (qMode q = 1) && !posFin32 sf)

/-! ### Values -/

/-- The magnitude of a finite FP32 word in units of 2⁻¹⁴⁹, none for a NaN or ±∞. -/
def mag32 (x : Word) : Option Nat :=
  let m := x.toNat % 2 ^ 23
  let e := x.toNat / 2 ^ 23 % 256
  if e = 255 then none else if e = 0 then some m else some ((2 ^ 23 + m) * 2 ^ (e - 1))

/-- Whether an FP32 word is negative. -/
def neg32 (x : Word) : Bool := flagOf 31 x

/-- The magnitude of a finite word, 0 for a word that is not finite. -/
def magOf (x : Word) : Nat := (mag32 x).getD 0

/-- The FP32 word of m / d, m in units of 2⁻¹⁴⁹, rounded to nearest even. -/
def wordOfMag (m d : Nat) : Word := BitVec.ofNat 32 (fround fp32 false m (d * 2 ^ 149)).1

/-- max(m / d, 2⁻¹²⁶) in FP32 (R192, R194). -/
def scaleOf (m d : Nat) : Word :=
  let w := wordOfMag m d
  if w.toNat < 0x00800000 then 0x00800000 else w

/-- The nearest integer to x / s, ties away from zero (R195). -/
def codeOf (x s : Word) : Int :=
  let q := roundAway (magOf x) (magOf s)
  if neg32 x then -q else q

/-- A number put into a list sorted downward. -/
def insertDown (x : Nat) : List Nat → List Nat
  | [] => [x]
  | y :: ys => if y ≤ x then x :: y :: ys else y :: insertDown x ys

/-- A list sorted downward. -/
def sortDown (l : List Nat) : List Nat := l.foldr insertDown []

/-- The finite magnitudes of a list of words. -/
def finiteMags (l : List Word) : List Nat := l.filterMap mag32

/-- The largest of a list of numbers, 0 for none. -/
def maxOf (l : List Nat) : Nat := l.foldl max 0

/-- Block b of a token. -/
def blockOf (b : Nat) (xs : List Word) : List Word := (xs.drop (512 * b)).take 512

/-- m of R192: the largest (E + 1)-th magnitude of the blocks, or the token's largest. -/
def firstPass (e : Nat) (xs : List Word) : Nat :=
  let m := maxOf ((List.range (qBlocks xs.length)).map fun b => nthD 0 e (sortDown (finiteMags (blockOf b xs))))
  if m = 0 then maxOf (finiteMags xs) else m

/-! ### Coding a token -/

/-- A coded token: its codes as patterns, its escapes as element position and BF16 value, its scale, the flags of its record
(Table 6.8), and the number of elements clamped. -/
structure CodedTok where
  codes : List Nat
  esc : List (Nat × Nat)
  scale : Word
  flags : Nat
  clamps : Nat
  deriving DecidableEq, Repr

/-- Flag bits of a scale record. -/
def fZrange : Nat := 128
/-- NONFINITE. -/
def fNonfinite : Nat := 64
/-- CLAMPED. -/
def fClamped : Nat := 32
/-- RAISED. -/
def fRaised : Nat := 16
/-- FIXED. -/
def fFixed : Nat := 8

/-- The BF16 value of an escape: the element narrowed under R188 (R193). -/
def escValue (x : Word) : Nat := (fencode bf16 (val32 x)).1

/-- A token coded to A8 or A4 at a scale, the elements at the given positions escaped and the rest limited to ±qmax (R193, R195,
R201). -/
def codeInts (w : Nat) (s : Word) (esc : List Nat) (flags clamps : Nat) (xs : List Word) : CodedTok :=
  let qmax : Int := 2 ^ (w - 1) - 1
  let code := fun (e : Word × Nat) =>
    if (mag32 e.1).isNone then 0
    else if esc.contains e.2 then 2 ^ (w - 1)
    else patternOf w (clampInt (-qmax) qmax (codeOf e.1 s))
  ⟨xs.zipIdx.map code, esc.map fun i => (i, escValue (nthD 0 i xs)), s, flags, clamps⟩

/-- The positions of the elements whose magnitude is greater than m. -/
def above (m : Nat) (xs : List Word) : List Nat := (xs.zipIdx.filter fun e => decide (m < magOf e.1)).map (·.2)

/-- The candidates of a token in fixed mode: elements whose code would exceed qmax (R200). -/
def candidates (w : Nat) (s : Word) (xs : List Word) : List Nat :=
  (xs.zipIdx.filter fun e => (mag32 e.1).isSome && decide ((2 ^ (w - 1) - 1 : Int) < (codeOf e.1 s).natAbs)).map (·.2)

/-- Whether element i comes before element j among candidates: larger first, the lower row first among equals (R201). -/
def before (xs : List Word) (i j : Nat) : Bool :=
  let a := magOf (nthD 0 i xs)
  let b := magOf (nthD 0 j xs)
  decide (b < a) || (decide (a = b) && decide (i < j))

/-- The E largest candidates of one block of candidates (R201). -/
def largestE (e : Nat) (xs : List Word) (cs : List Nat) : List Nat :=
  cs.filter fun i => decide ((cs.filter fun j => before xs j i).length < e)

/-- A token coded to A8 (w = 8) or A4 (w = 4) (R192 to R202). -/
def codeCask (w q : Nat) (sf : Word) (xs : List Word) : CodedTok :=
  let e := qE q
  let fixed := decide (qMode q = 1)
  let nf := if xs.any (fun x => (mag32 x).isNone) then fNonfinite else 0
  let fx := if fixed then fFixed else 0
  let qmax := 2 ^ (w - 1) - 1
  if maxOf (finiteMags xs) = 0 then ⟨xs.map fun _ => 0, [], one32, fZrange + nf + fx, 0⟩
  else if !fixed then
    let m := firstPass e xs
    codeInts w (scaleOf m qmax) (above m xs) nf 0 xs
  else
    let cs := candidates w sf xs
    let blk := fun b => cs.filter fun i => decide (i / 512 = b)
    let nb := List.range (qBlocks xs.length)
    if nb.all fun b => decide ((blk b).length ≤ e) then codeInts w sf cs (nf + fx) 0 xs
    else if qRaise q then
      let m := firstPass e xs
      let s := wordOfMag m qmax
      codeInts w (if magOf sf < magOf s then s else sf) (above m xs) (nf + fx + fRaised) 0 xs
    else
      let esc := (nb.map fun b => if (blk b).length ≤ e then blk b else largestE e xs (blk b)).flatten
      codeInts w sf esc (nf + fx + fClamped) (cs.length - esc.length) xs

/-- The FP format of a control word's FORMAT 0x2 to 0x5. -/
def qFloat (f : Nat) : FFmt := if f = 2 then e4m3 else if f = 3 then e5m2 else if f = 4 then e2m1 else bf16

/-- FMAX of R194. -/
def qFmax (f : Nat) : Nat := if f = 2 then 448 else if f = 3 then 57344 else 6

/-- A token coded to FP8 or FP4: the exact quotient x / s narrowed once (R194, R196, R197). -/
def codeFloat (f q : Nat) (sf : Word) (xs : List Word) : CodedTok :=
  let fixed := decide (qMode q = 1)
  let nf := if xs.any (fun x => (mag32 x).isNone) then fNonfinite else 0
  let fx := if fixed then fFixed else 0
  let m := maxOf (finiteMags xs)
  if m = 0 then ⟨xs.map fun _ => 0, [], one32, fZrange + nf + fx, 0⟩
  else
    let s := if fixed then sf else scaleOf m (qFmax f)
    ⟨xs.map fun x => if (mag32 x).isNone then 0 else (fround (qFloat f) (neg32 x) (magOf x) (magOf s)).1, [], s, nf + fx, 0⟩

/-- A token coded per its control word; BF16 narrows each value and keeps no record (R194). Per-channel coding needs the whole
tensor and is not this function's. -/
def codeToken (q : Nat) (sf : Word) (xs : List Word) : CodedTok :=
  match qFormat q with
  | 0 => codeCask 8 q sf xs
  | 1 => codeCask 4 q sf xs
  | 5 => ⟨xs.map fun x => (fencode bf16 (val32 x)).1, [], one32, 0, 0⟩
  | f => codeFloat f q sf xs

/-! ### Per-channel coding (R210, R211) -/

/-- A channel's parameters: scale, zero point, offset, flags (Table 6.11). -/
structure ChanPar where
  scale : Word
  zp : Int
  offset : Word
  flags : Nat
  deriving DecidableEq, Repr

/-- The signed value of a finite word in units of 2⁻¹⁴⁹. -/
def sval (x : Word) : Int := if neg32 x then -(magOf x : Int) else magOf x

/-- The finite word of a list that is least (or greatest) in value, the first such. -/
def extreme (less : Int → Int → Bool) (l : List Word) : Word :=
  match l with
  | [] => 0
  | x :: xs => xs.foldl (fun m y => if less (sval y) (sval m) then y else m) x

/-- The parameters of a channel from its values over the whole tensor (R210, R211). DESIGN CHOICE: the zero point of a channel whose scale rounds
to 0 is 0 (log entry 27). -/
def chanPar (l : List Word) : ChanPar :=
  let fin := l.filter fun x => (mag32 x).isSome
  let lo := extreme (fun a b => decide (a < b)) fin
  let hi := extreme (fun a b => decide (b < a)) fin
  if fin.isEmpty then ⟨one32, 0, 0, 3⟩
  else if sval lo = sval hi then ⟨one32, 0, lo, 1⟩
  else
    let lo' := min (sval lo) 0
    let hi' := max (sval hi) 0
    let s := wordOfMag (hi' - lo').toNat 255
    let z := clampInt (-128) 127 (roundAway (-128 * (magOf s : Int) - lo') (magOf s))
    ⟨s, z, 0, 0⟩

/-- The code of an element under its channel's parameters; where no code is stated (a non-finite element of a channel that varies, or
a scale that rounds to 0) it is the free byte given (R210, R211, log entry 27). -/
def chanCode (c : ChanPar) (free : Byte) (x : Word) : Nat :=
  if c.flags ≠ 0 then 0
  else if (mag32 x).isNone || decide (magOf c.scale = 0) then free.toNat
  else patternOf 8 (clampInt (-128) 127 (roundAway (sval x) (magOf c.scale) + c.zp))

/-! ### Blocks (R203 to R207) -/

/-- Codes packed at a width, as bytes: 4-bit codes two per byte, the even element low (R187). -/
def packCodes (w : Nat) (codes : List Nat) : List Byte :=
  leBytes (codes.length * w / 8) (codes.foldr (fun c acc => c % 2 ^ w + 2 ^ w * acc) 0)

/-- The codes of one token, filled to its stride (R203). -/
def tokenBytes (f k : Nat) (codes : List Nat) : List Byte :=
  packCodes (qWidth f) (codes ++ List.replicate (qBlocks k * 512 - codes.length) 0)

/-- The side-list slots of one token and block (Table 6.6). -/
def sideSlots (e b : Nat) (t : CodedTok) : List Byte :=
  let es := (t.esc.filter fun x => decide (x.1 / 512 = b)).take e
  padTo (4 * e) (es.map fun x => leBytes 4 (2 ^ 31 + (x.1 % 512) * 2 ^ 22 + x.2)).flatten

/-- An absent token: all-zero codes and a zero-range record (R203, R205); its SCALE, which R205 does not give, is 0: DESIGN
CHOICE, log entry 130. -/
def absentTok : CodedTok := ⟨[], [], 0, fZrange, 0⟩

/-- The token at position t of a block's list. -/
def tokAt (ts : List CodedTok) (t : Nat) : CodedTok := (ts[t]?).getD absentTok

/-- The contents of a data block after its header: the codes of 256 tokens and the side lists (Table 6.5, R204). -/
def dataBody (f k e : Nat) (ts : List CodedTok) : List Byte :=
  ((List.range 256).map fun t => tokenBytes f k (tokAt ts t).codes).flatten ++
    (if e = 0 then [] else
      ((List.range (qBlocks k)).map fun b => ((List.range 256).map fun t => sideSlots e b (tokAt ts t)).flatten).flatten)

/-- A data block header (Table 6.5). -/
def dataHeader (bsn f e n k : Nat) : List Byte :=
  leBytes 2 bsn ++ leBytes 1 f ++ leBytes 1 e ++ leBytes 2 n ++ leBytes 2 0 ++ leBytes 4 k ++ leBytes 4 (qStride f k) ++
    leBytes 4 (if e = 0 then 0 else 32 + 256 * qStride f k) ++ leBytes 12 0

/-- A scale block header (Table 6.7). -/
def scaleHeader (bsn f e n : Nat) : List Byte :=
  leBytes 2 bsn ++ leBytes 1 f ++ leBytes 1 e ++ leBytes 2 n ++ leBytes 26 0

/-- A scale record (Table 6.8). -/
def scaleRecord (t : CodedTok) : List Byte := leBytes 4 t.scale.toNat ++ leBytes 4 (t.esc.length * 2 ^ 16 + t.flags)

/-- The 256 records of a scale block. -/
def scaleBody (ts : List CodedTok) : List Byte := ((List.range 256).map fun t => scaleRecord (tokAt ts t)).flatten

/-- A channel parameter record (Table 6.11). -/
def chanRecord (c : ChanPar) : List Byte :=
  leBytes 4 c.scale.toNat ++ leBytes 1 (patternOf 8 c.zp) ++ leBytes 1 c.flags ++ leBytes 2 0 ++ leBytes 4 c.offset.toNat ++ leBytes 4 0

/-- One block of at most 256 coded tokens written: contents first, headers last (R206); BF16 has no scale block (R194). -/
def writeBlock (r q k dst dsts bsn : Nat) (ts : List CodedTok) (p : Option PktId) (s : State) : State :=
  let f := qFormat q
  let e := qE q
  let s := devStore r (dst + 32) (dataBody f k e ts) p s
  let s := if f < 5 then devStore r (dsts + 32) (scaleBody ts) p s else s
  let s := devStore r dst (dataHeader (bsn % 65536) f e ts.length k) p s
  if f < 5 then devStore r dsts (scaleHeader (bsn % 65536) f e ts.length) p s else s

/-- The blocks of a whole request, one after another (R207). -/
def writeBlocks (r q k dst dsts : Nat) (toks : List CodedTok) (p : Option PktId) (s : State) : State :=
  (List.range (ceilDiv toks.length 256)).foldl (fun s b =>
    writeBlock r q k (dst + b * qBlockBytes (qFormat q) k (qE q)) (dsts + 2080 * b) (qBsn q + b)
      ((toks.drop (256 * b)).take 256) p s) s

/-! ### A quantise job -/

/-- A request as the quantiser runs it: the rack, the addresses of its tokens, their format (true is BF16) and length, outputs, control
word, fixed scale, and the packet it belongs to. -/
structure QJob where
  rack : Nat
  toks : List Nat
  bf : Bool
  k : Nat
  dst : Nat
  dsts : Nat
  ctrl : Nat
  sf : Word
  pkt : Option PktId
  deriving DecidableEq, Repr

/-- Bytes of one source token. -/
def QJob.tokBytes (j : QJob) : Nat := if j.bf then 2 * j.k else 4 * j.k

/-- Whether a range is 32-byte aligned and lies in DRAM below U or one scratchpad window (R190, R207). -/
def goodRange (r a n : Nat) (s : State) : Bool := decide (a % 32 = 0) && inMemory r a n s

/-- Whether R190 rejects a job. -/
def QJob.bad (j : QJob) (s : State) : Bool :=
  let nb := ceilDiv j.toks.length 256
  let f := qFormat j.ctrl
  qCtrlBad j.ctrl j.sf || decide (j.k = 0) || decide (32768 < j.k) || !(j.toks.all fun a => goodRange j.rack a j.tokBytes s) ||
    !((List.range nb).all fun b => goodRange j.rack (j.dst + b * qBlockBytes f j.k (qE j.ctrl)) (qBlockBytes f j.k (qE j.ctrl)) s) ||
    (decide (f < 5) && !((List.range nb).all fun b => goodRange j.rack (j.dsts + 2080 * b) 2080 s)) ||
    (decide (f = 6) && !goodRange j.rack j.dsts (16 * j.k) s)

/-- The FP32 words of a source token's bytes. -/
def tokWords (bf : Bool) (n : Nat) (bs : List Byte) : List Word :=
  (List.range n).map fun i =>
    if bf then BitVec.ofNat 32 (leAt (2 * i) 2 bs * 2 ^ 16) else BitVec.ofNat 32 (leAt (4 * i) 4 bs)

/-- Every token of a job read, up to a bus error. -/
def readToks (r n : Nat) (p : Option PktId) : List Nat → State → Rd × List (List Byte) × State
  | [], s => (.ok [], [], s)
  | a :: as, s =>
    match devRead r a n p s with
    | (.ok bs, s1) =>
      let rest := readToks r n p as s1
      (rest.1, bs :: rest.2.1, rest.2.2)
    | (e, s1) => (e, [], s1)

/-- A rejected request: EV_QT_CONFIG and a configuration error (R190). -/
def qtReject (r : Nat) (p : Option PktId) (s : State) : State := raiseEvent 0x0505 r 0 0 p (pktCode 3 p s)

/-- The counters, flags and events of coded tokens (R197, R201, R202, Table 6.15, Table 10.7). -/
def noteTokens (r : Nat) (p : Option PktId) (ts : List CodedTok) (s : State) : State :=
  let has := fun b => ts.any fun t => decide (t.flags / b % 2 = 1)
  let count := fun b => (ts.filter fun t => decide (t.flags / b % 2 = 1)).length
  let clamps := (ts.map (·.clamps)).foldl (· + ·) 0
  let s := bump .QT_ZRANGE 0 0 (count fZrange) s
  let s := bump .QT_CLAMPS 0 0 clamps s
  let s := bump .QT_RAISES 0 0 (count fRaised) s
  let s := if has fZrange then pktFlag 6 p s else s
  let s := if has fRaised then pktFlag 5 p s else s
  let s := if 0 < clamps then pktFlag 4 p s else s
  let s := if has fNonfinite then raiseEvent 0x0504 r 0 0 p s else s
  let s := if decide (0 < clamps) && rflag .QT_CTRL 0 0 0 s then raiseEvent 0x0502 r 0 clamps p s else s
  if has fZrange && rflag .QT_CTRL 0 0 1 s then raiseEvent 0x0503 r 0 0 p s else s

/-- A per-channel job: the parameters of each channel over every token, the codes, and the table (R210 to R212). -/
def runChannels (j : QJob) (xs : List (List Word)) (s : State) : State :=
  let pars := (List.range j.k).map fun c => chanPar (xs.map fun t => nthD 0 c t)
  let code := fun (e : List Word × Nat) =>
    (⟨(e.1.zip pars).zipIdx.map fun x =>
        chanCode x.1.2 (Config.freeByte (s.freeCtr + j.k * e.2 + x.2)) x.1.1, [], one32, 0, 0⟩ : CodedTok)
  let s := { s with freeCtr := s.freeCtr + j.k * xs.length }
  let toks := xs.zipIdx.map code
  let s := writeBlocks j.rack j.ctrl j.k j.dst j.dsts toks j.pkt s
  devStore j.rack j.dsts (padTo (32 * ceilDiv (16 * j.k) 32) (pars.map chanRecord).flatten) j.pkt s

/-- A job run to its end. The status is 0 complete, 1 rejected, 2 bus error (Table 8.16). -/
def runQuantise (j : QJob) (s : State) : Nat × State :=
  if j.bad s then (1, qtReject j.rack j.pkt s)
  else match readToks j.rack j.tokBytes j.pkt j.toks s with
    | (.ok _, bss, s1) =>
      let xs := bss.map (tokWords j.bf j.k)
      if qFormat j.ctrl = 6 then (0, runChannels j xs s1)
      else
        let toks := xs.map (codeToken j.ctrl j.sf)
        let s2 := writeBlocks j.rack j.ctrl j.k j.dst j.dsts toks j.pkt s1
        (0, if qFormat j.ctrl = 5 then s2 else noteTokens j.rack j.pkt toks s2)
    | (e, _, s1) => (2, busOf e j.pkt s1)

/-! ### The requests of a rack (R285, R286, Table 8.16) -/

/-- A quantise descriptor read as a job. -/
def jobOf (r : Nat) (body : List Byte) (p : Option PktId) : QJob :=
  ⟨r, (List.range (leAt 36 2 body)).map fun t => leAt 0 8 body + t * leAt 40 4 body, bitAt 0 (byteAt 38 body), leAt 32 4 body,
    leAt 8 8 body, leAt 16 8 body, leAt 24 4 body, BitVec.ofNat 32 (leAt 28 4 body), p⟩

/-- Whether a field of Table 8.16 rejects a descriptor. -/
def descBad (body : List Byte) : Bool :=
  decide (leAt 36 2 body = 0) || decide (256 < leAt 36 2 body) || decide (leAt 32 4 body = 0) || decide (32768 < leAt 32 4 body) ||
    decide (byteAt 38 body > 1) || decide (byteAt 39 body > 1) || decide (leAt 40 4 body % 32 ≠ 0) || decide (leAt 46 14 body ≠ 0)

/-- Whether a status is that of a request still to run. -/
def QtReq.waiting (q : QtReq) : Bool := decide (q.phase = 0)

/-- The first request of a rack's quantiser that has not run, with its index. -/
def nextQt (r : Nat) (s : State) : Option (Nat × QtReq) :=
  ((getRack r s).qt.zipIdx.find? fun e => e.1.waiting).map fun e => (e.2, e.1)

/-- QUANTISE_RUN: the oldest request that has not run is carried out on its descriptor (R192, R285). -/
def execQuantiseRun (r : Rack) (s : State) : Host.Outcome State Fault Refusal :=
  .next (match nextQt r.val s with
    | none => s
    | some (i, q) =>
      let res := match spFetch r.val q.desc 64 q.pkt s with
        | (.ok body, s) => if descBad body then (1, qtReject r.val q.pkt s) else runQuantise (jobOf r.val body q.pkt) s
        | (e, s) => (2, busOf e q.pkt s)
      let body := spRead r.val q.desc 64 s
      modRack r.val (fun k => { k with qt := k.qt.set i { q with body := body, phase := 1, status := res.1 } }) res.2)

/-- QUANTISE_COMPLETE: the oldest request that has run has its descriptor rewritten with STATUS, and SYNC signalled when SIGNAL is 1
(R286). -/
def execQuantiseComplete (r : Rack) (s : State) : Host.Outcome State Fault Refusal :=
  .next (match (getRack r.val s).qt with
    | [] => s
    | q :: rest =>
      if q.waiting then s
      else
        let sec := patchAt 28 (leBytes 4 (2 ^ 31 + q.status)) ((q.body.drop 32).take 32)
        let s := spWrite r.val (q.desc + 32) sec s
        let s := ringProgress q.pkt (modRack r.val (fun k => { k with qt := rest }) s)
        if bitAt 0 (byteAt 39 q.body) then signal (leAt 44 2 q.body) 1 q.pkt s else s)

end Sys2Proof.Machine
end

