-- ==== Sys2Proof/Machine/Cask.lean ====
section
/-! DEFINITION. The cask's own commands: quiesce, the start of an operation, admission, the slice step, replays, adds (R53, R61 to R78,
R89 to R98, R143, R248). -/

namespace Sys2Proof.Machine

/-! ### Quiesce (R78) -/

/-- CK_CTRL.QUIESCE written 1 (R78). -/
def ckQuiesce (c : Nat) (s : State) : State := rput .CK_CTRL c 0 0 0 1 s

/-- CK_CTRL.QUIESCE written 0 (R78); discarded with EV_WRITE_BUSY while the quiesce holds a bias domain that is being turned off (R532). -/
def ckResume (c : Nat) (s : State) : State :=
  if goingOff (68 + c / 1024) s then writeBusy (regOff .CK_CTRL c 0) s
  else rput .CK_CTRL c 0 0 0 0 s

/-- CK_QUIESCE: CK_CTRL.QUIESCE is written 1; the operation in progress goes on and no further one starts (R78). -/
def execCkQuiesce (c : CaskId) (s : State) : Host.Outcome State Fault Refusal := .next (hostWrite .CK_CTRL c.val 0 (ckQuiesce c.val) s)

/-- CK_RESUME: CK_CTRL.QUIESCE is written 0 (R78, R532). -/
def execCkResume (c : CaskId) (s : State) : Host.Outcome State Fault Refusal := .next (hostWrite .CK_CTRL c.val 0 (ckResume c.val) s)

/-! ### The start of an operation (R53, R65, R66, R136, R143, R248) -/

/-- Whether an apply of a cask's gain or remap group waits for the cask's operation boundary (R66, R70, R82). -/
def boundaryApplyWaits (c : Nat) (s : State) : Bool :=
  [RegName.CK_GAIN_COMMIT, .CK_REMAP_COMMIT].any fun n =>
    match s.applies.find (regOff n c 0) with
    | some a => !a.frame
    | none => false

/-- Whether a cask may start its oldest queued operation: at a boundary, no read of the cellarer's in progress (R79), not quiesced, not
stopped, no apply due first. -/
def mayStart (c : Nat) (s : State) : Bool :=
  (getCask c s).atBoundary && ((getCask c s).running.all fun o => decide (o.kind = .mvm)) && !rflag .CK_CTRL c 0 0 s &&
    !caskStopped c s && !boundaryApplyWaits c s && !domainIsOff (rackDomain (c / 16)) s

/-- A mode error: no add, EV_CK_MODE, the operation completes (R53, R248). -/
def modeError (c : Nat) (o : CaskOp) (s : State) : State :=
  raiseEvent 0x0101 c o.slot 0 o.pkt (pktFlag 24 o.pkt (rejectOp c o s))

/-- Where a token's codes of an operation's block lie (Table 6.5). -/
def codesAddr (o : CaskOp) (stride t : Nat) : Nat :=
  o.data + 32 + (o.token0 + t) * stride + o.block * (if o.infmt = 1 then 256 else 512)

/-- The header of an operation's data block is checked, its codes are read, and its slots take the block's tags (R217, R243, R248). -/
def startWith (c : Nat) (o : CaskOp) (h : List Byte) (s : State) : State :=
  if byteAt 2 h ≠ o.infmt ∨ ceilDiv (leAt 8 4 h) 512 ≤ o.block then modeError c o s
  else
    match readToks (c / 16) (if o.infmt = 1 then 256 else 512) o.pkt ((List.range o.ntok).map (codesAddr o (leAt 12 4 h))) s with
    | (.ok _, bs, s1) =>
      let tag := (leAt 0 2 h, byteAt 2 h, byteAt 3 h)
      let note := fun (k : Slot) => if k.tags.contains tag then k else { k with tags := k.tags ++ [tag] }
      let s2 := o.slots.foldl (fun s x => modSlot (c / 16) x note s) s1
      let put := fun (x : RunOp) => if x.op.op = o.op then { x with codes := bs } else x
      modCask c (fun k => { k with running := k.running.map put }) s2
    | (e, _, s1) => rejectOp c o (busOf e o.pkt s1)

/-- The oldest queued operation of a cask starts; where none was in progress, the operation counter starts at 0 (R505). -/
def startOp (c : Nat) (o : CaskOp) (rest : List CaskOp) (s : State) : State :=
  let run : RunOp := ⟨.mvm, o, [], none, none, none, 0, 0, [], false, 0⟩
  let begin := fun (k : Cask) => if k.quiet then k.restart s.now else k
  let s := modCask c (fun k => { begin k with queue := rest, running := k.running ++ [run] }) s
  let k := getCask c s
  if (rflag .CK_CONFIG c 0 0 s != o.w5) || decide (2 ≤ o.infmt) then modeError c o s
  else if k.racked && !k.shadowOk then rejectOp c o (pktFlag 27 o.pkt s)
  else match devRead (c / 16) o.data 32 o.pkt s with
    | (.ok h, s1) => startWith c o h s1
    | (e, s1) => rejectOp c o (busOf e o.pkt s1)

/-- CASK_OP_START: the oldest queued operation starts at the boundary of the one before it, or is rejected (R65, R143, R248). -/
def execCaskOpStart (c : CaskId) (s : State) : Host.Outcome State Fault Refusal :=
  .next (match (getCask c.val s).queue with
    | o :: rest => if mayStart c.val s then startOp c.val o rest s else s
    | [] => s)

/-! ### Admission (R89 to R98) -/

/-- The gain group in force of a cask (R70). -/
def gainGroup (c : Nat) (s : State) : Gain := ⟨rflag .CK_GAIN c 0 8 s, rflag .CK_GAIN c 0 4 s, rfield .CK_GAIN c 0 2 0 s⟩

/-- The home window of a cask (R105). -/
def homeWindow (c : Nat) (s : State) : Nat := Store.getD (c % 32) c s.ledger.home

/-- A request posted now, with age 0 and the cask's home window (R98, R105). -/
def post (c : Nat) (q : SliceReq) (s : State) : State :=
  modCask c (fun k => { k with posted := some ⟨q, homeWindow c s, 0, s.now, none⟩ }) s

/-- The cask posts its next slice when it has no request outstanding and no replay goes ahead of it (R74, R98). -/
def postNext (c : Nat) (s : State) : State :=
  let k := getCask c s
  match k.posted, k.replays, k.waiting with
  | none, [], q :: rest => post c q (setCask c { k with waiting := rest } s)
  | _, _, _ => s

/-- The next token of an operation admitted (R89 to R97): its slices bounded, split and costed; skipped segments and slices counted. -/
def admitToken (c : Nat) (o : RunOp) (s : State) : State :=
  let k := getCask c s
  let t := o.admitted
  let a4 := decide (o.op.infmt = 1)
  let g := o.used.getD (o.op.govr.getD (gainGroup c s))
  let bs := nthD [] t o.codes
  let slices := (slicesOf a4).map fun x => (x, sliceLevels a4 x bs)
  let parts := slices.map fun x => slicePartition k.ceil x.2 g
  let reqs := (slices.map fun x => sliceReqs k k.ceil g o.op.op t x.1 x.2).flatten
  let subs := (parts.map subSteps).foldl max 0
  let o1 : RunOp := { o with
    admitted := t + 1
    used := if reqs.isEmpty then o.used else some g
    skipped := if reqs.isEmpty then o.skipped ++ [t] else o.skipped
    splitMax := max o.splitMax subs }
  let put := fun (x : RunOp) => if x.op.op = o.op.op then o1 else x
  let s := setCask c { k with running := k.running.map put, waiting := k.waiting ++ reqs } s
  let s := bump .CK_SKIP_COUNT c 0 ((parts.map skippedSegs).sum) s
  let s := bump .LG_SUBSTEPS 0 (c / 1024) ((parts.map fun p => subSteps p - 1).sum) s
  let s := if 1 < subs then pktFlag 0 o.op.pkt s else s
  if decide (o1.admitted = o.op.ntok) && decide (1 < o1.splitMax) && rflag .LG_CTRL 0 0 0 s then
    raiseEvent 0x0201 c 0 (o1.splitMax % 256) o.op.pkt s
  else s

/-- ADMISSION: the next token of the operation in progress is admitted and its first request posted; an operation with nothing left to
integrate reaches its boundary (R64, R66, R90). -/
def execAdmission (c : CaskId) (s : State) : Host.Outcome State Fault Refusal :=
  let k := getCask c.val s
  .next (match k.running.find? fun o => !o.past && decide (o.admitted < o.op.ntok) with
    | some o =>
      if k.waiting.isEmpty && !frozenWhere (·.coversCask c.val) s then
        settle c.val (noteBoundary c.val o.op.op (postNext c.val (admitToken c.val o s)))
      else s
    | none => s)

/-! ### The slice step (R61 to R63, R73 to R76, R103) -/

/-- CK_SAT_COUNT one higher; it stops at 0xFFFF_FFFF (R77). -/
def countSat (c : Nat) (s : State) : State :=
  let w := rget .CK_SAT_COUNT c 0 s
  rset .CK_SAT_COUNT c 0 (if w = 0xFFFFFFFF#32 then w else w + 1) s

/-- One saturated conversion: the pair's flag, the count, the event, and the cask fault under admission (R73, R76). The event of a read of
the cellarer's is counted for the packet that the read is made for (R377). -/
def noteSat (c : Nat) (o : CaskOp) (g : Gain) (tok : Nat) (q : SegPart) (s : State) (p : Nat) : State :=
  let s := rset .CK_SAT_FLAG c (p / 32) (setFlag (p % 32) true (rget .CK_SAT_FLAG c (p / 32) s)) (countSat c s)
  let s := if g.fixed then s else pktFlag 26 o.pkt s
  raiseEvent 0x0104 c (o.slot + 16 * tok) (p + 2 ^ 16 * q.seg + 2 ^ 20 * q.gain + (if g.fixed then 0 else 2 ^ 24)) (o.pkt <|> cellarPkt c s) s

/-- Whether a saturated segment part is replayed: in fixed-window mode with SAT_REPLAY, below gain code 5 (R74, R75). -/
def replays (g : Gain) (q : SegPart) : Bool := g.fixed && g.replay && decide (q.gain < 5)

/-- One segment part converted: its codes kept, or the segment put down for a replay at the next coarser gain; with the segments to
replay so far (R61, R73 to R76). DESIGN CHOICE: a saturation under admission that is not replayed sets the cask-fault status of R73 alone, and not the
saturation flag of R75 (log entry 145). -/
def convertPart (c : Nat) (o : RunOp) (b : ChargeBuf) (acc : State × List SegPart) (q : SegPart) : State × List SegPart :=
  let g := o.used.getD ⟨false, false, 5⟩
  let sat := b.saturated (decide (o.kind = .refRead)) q
  let s := sat.foldl (noteSat c o.op g b.req.tok q) acc.1
  if !sat.isEmpty && replays g q then (s, acc.2 ++ [{ q with gain := q.gain + 1 }])
  else
    let s := if !sat.isEmpty && g.fixed then pktFlag 18 o.op.pkt s else s
    (modCask c (fun k => { k with convs := k.convs ++ [b.convPart q] }) s, acc.2)

/-- The buffer of the previous integrating step converted (R63); a verify read's goes to the programming it belongs to (R110). -/
def convertBuf (c : Nat) (s : State) : State :=
  let k := getCask c s
  match k.buf with
  | none => s
  | some b =>
    let s := setCask c k.clearBuf s
    match k.running.find? fun o => decide (o.op.op = b.req.op) with
    | none => s
    | some o =>
      let r := b.req.parts.foldl (convertPart c o b) (s, [])
      if r.2.isEmpty then r.1
      else
        let q : SliceReq := { b.req with replay := true, parts := r.2, cost := costOf k b.req.levels r.2, map := some (b.remap, b.pin) }
        modCask c (fun k => { k with replays := k.replays ++ [q] }) r.1

/-- The books of window w of quadrant q. -/
def getBook (q w : Nat) (s : State) : Book := Store.getD Book.init (32 * q + w) s.ledger.books

/-- The books of a window changed. -/
def modBook (q w : Nat) (f : Book → Book) (s : State) : State :=
  { s with ledger := { s.ledger with books := s.ledger.books.put (32 * q + w) (f (getBook q w s)) } }

/-- The window that begins at a step clock (R63). -/
def windowAt (t : Nat) : Nat := t % 64 / 2

/-- The books of a window at the beginning of a granted one: those of its latest slice step, with what is still out from before. -/
def Book.opened (b : Book) (g : Grant) : Book :=
  if b.at' = g.at' then b else { b with granted := b.out, returned := 0, at' := g.at', limit := g.limit }

/-- Credits of a window that casks hold now: until its two step clocks are over (R103). -/
def Book.held (b : Book) (now : Nat) : Nat := if now < b.at' + 2 then b.out else 0

/-- Credits of a window whose return is in flight: sent at the step clock after the window (R103). -/
def Book.inflight (b : Book) (now : Nat) : Nat := if now < b.at' + 2 then 0 else b.out

/-- Whether a return of a window is late: still out more than 4 step clocks after it was sent (R106). -/
def Book.late (b : Book) (now : Nat) : Bool := decide (0 < b.out) && decide (b.at' + 6 < now)

/-- The two checks of R106: the credits granted to a window are those held, in flight and returned, and no more than its limit. -/
def Book.balanced (b : Book) (now : Nat) : Bool :=
  decide (b.granted = b.held now + b.inflight now + b.returned) && decide (b.granted ≤ b.limit)

/-- Every outstanding credit of a window written off as if it had returned, with the audit's event and error bit (R106). arrived: the
return that called for it is here; else it is still to come, and will be discarded. -/
def auditWindow (arrived : Bool) (q w : Nat) (s : State) : State :=
  let b := getBook q w s
  let s := modBook q w (fun b => { b with
    granted := b.returned + b.out
    returned := b.returned + b.out
    out := 0
    limit := max b.limit (b.returned + b.out)
    lost := if arrived then b.lost else b.lost + b.out }) s
  raiseEvent 0x0202 q 0 (b.out % 512 + 2 ^ 16 * w) none (rput .LG_POOL_STATUS 0 q 31 31 1 s)

/-- Credits granted to a window that a cask takes from its books; they are held to the window's end and in flight from then on.
Credits that an earlier slice step left out too long have been written off by then (R103, R106). -/
def takeCredits (q : Nat) (g : Grant) (cost : Nat) (s : State) : State :=
  let w := windowAt g.at'
  let b := getBook q w s
  let s := if b.late s.now && decide (b.at' ≠ g.at') then auditWindow false q w s else s
  modBook q w (fun b =>
    let b := b.opened g
    { b with granted := b.granted + cost, out := b.out + cost }) s

/-- The granted request integrates once its window has begun (R60, R63); the first slice of an operation fixes its pin set and fit (R143,
R172). -/
def integrateGranted (c : Nat) (dev : Store Int) (s : State) : State :=
  let k := getCask c s
  match k.posted with
  | some ⟨q, _, _, _, some g⟩ =>
    if s.now < g.at' then s
    else
      let map := q.map.getD (remapWords c s, pinWords c s)
      let fit := fun (o : RunOp) => if o.op.op = q.op && o.fit.isNone then { o with fit := some (k.fitG, k.fitO) } else o
      let k1 := { k.fill (integrate k q map.1 map.2 dev) with
        posted := none
        running := k.running.map fit
        progress := s.now
        paused := 0 }
      let s := takeCredits (c / 1024) g q.cost (bump .CK_STEP_COUNT c 0 1 (setCask c k1 s))
      let s := if q.replay then s else fixPins c q.op map.2 s
      noteBoundary c q.op s
  | _ => s

/-- SLICE_STEP: the cask converts its previous buffer, integrates what it was granted, and posts its next slice (R63). dev: the deviation
of the integrated charge from the nominal one, by 8 pair + segment, in 1/1,024 unit (log entry 5). -/
def execSliceStep (c : CaskId) (dev : List (Nat × Int)) (s : State) : Host.Outcome State Fault Refusal :=
  .next (if frozenWhere (·.coversCask c.val) s then s
    else
      let d : Store Int := dev.foldl (fun m e => Store.put e.1 e.2 m) []
      postNext c.val (integrateGranted c.val d (convertBuf c.val s)))

/-- REPLAY_POST: the oldest replay is posted once no request is outstanding (R74, R95). -/
def execReplayPost (c : CaskId) (s : State) : Host.Outcome State Fault Refusal :=
  let k := getCask c.val s
  .next (match k.posted, k.replays with
    | none, q :: rest =>
      if frozenWhere (·.coversCask c.val) s then s
      else bump .LG_SUBSTEPS 0 (c.val / 1024) 1 (post c.val q (setCask c.val { k with replays := rest } s))
    | _, _ => s)

/-! ### Adds (R67 to R69, R171) -/

/-- The key of a checksum entry: slot, token and cask of the rack (R171). -/
def chkKey (slot tok c : Nat) : Nat := (16 * slot + tok) * 16 + c % 16

/-- A rack's checksum entry changed. A W5 entry kept for the drain of its other slot takes the terms and the outcome of an operation that
adds to its token meanwhile: DESIGN CHOICE, log entry 65. -/
def modChk (r key : Nat) (f : ChkEntry → ChkEntry) (s : State) : State :=
  modRack r (fun k => { k with chk := k.chk.put key (f (Store.getD ChkEntry.init key k.chk)) }) s

/-- Every unpinned logical column of a token added into its slot and channel (R67). -/
def addColumns (c : Nat) (o : CaskOp) (pin : List Word) (tok : Nat) (cs : List Conv) (s : State) : State :=
  (List.range (columns o.w5)).foldl (fun s j =>
    if pinnedColumn o.w5 pin j then s else accAdd (c / 16) (o.slot + j / 256) tok (j % 256) (columnSum o.w5 cs j) s) s

/-- S_maj: the major pairs whose own pin bit is clear (R171). -/
def majorSum (pin : List Word) (cs : List Conv) : Int :=
  sumRange 256 fun j => if pinnedPair pin (2 * j) then 0 else pairSum cs (2 * j)

/-- A token whose adds a suspect cask drops: the operation carries the suspect flag, and its correction is dropped with it (R175). -/
def dropToken (c : Nat) (o : CaskOp) (tok : Nat) (s : State) : State :=
  let note := fun (w : CorrWork) => if w.op.op = o.op then { w with dropped := w.dropped ++ [tok] } else w
  pktFlag 19 o.pkt (modRack (c / 16) (fun k => { k with corr := k.corr.map note }) s)

/-- A token's column sums added and its checksum terms sent (R67, R68, R171). An entry that operations share is checked with the fit of
the last of them: DESIGN CHOICE, log entry 65. -/
def addToken (c : Nat) (o : RunOp) (tok : Nat) (cs : List Conv) (s : State) : State :=
  let pin := o.pins.getD []
  let s := addColumns c o.op pin tok cs s
  modChk (c / 16) (chkKey o.op.slot tok c) (fun e => { e with
    smaj := e.smaj + majorSum pin cs
    ymaj := e.ymaj + pairSum cs 512
    ymin := e.ymin + pairSum cs 513
    q := e.q + convQ cs
    added := true
    fit := o.fit
    twin := o.op.w5 }) s

/-- A residue error: no add for the token, RESIDUE_ERR, EV_RESIDUE (R69). -/
def residueError (c : Nat) (o : CaskOp) (tok : Nat) (s : State) : State :=
  raiseEvent 0x0103 c (o.slot + 16 * tok) 0 o.pkt (pktFlag 25 o.pkt (rput .CK_STATUS c 0 22 22 1 s))

/-- TOKEN_ADD: the oldest operation's next token, all of whose slices are converted, is added; the operation completes with its last
token (R66, R67). residueFault: a residue check failed for the token (R69). -/
def execTokenAdd (c : CaskId) (residueFault : Bool) (s : State) : Host.Outcome State Fault Refusal :=
  let k := getCask c.val s
  .next (match k.running.filter fun o => decide (o.kind = .mvm) with
    | [] => s
    | o :: _ =>
      let t := o.nextTok
      if decide (o.op.ntok ≤ t) || decide (o.admitted ≤ t) || k.tokenBusy o.op.op t || frozenWhere (·.coversCask c.val) s then s
      else
        let mine := fun (x : Conv) => decide (x.op = o.op.op) && decide (x.tok = t)
        let cs := k.convs.filter mine
        let s := if residueFault then residueError c.val o.op t s 
          else if dropsAdds c.val s then dropToken c.val o.op t s
          else modCask c.val (fun k => k.restart s.now) (addToken c.val o t cs s)
        let next := fun (x : RunOp) => if x.op.op = o.op.op then { x with added := t + 1 } else x
        let done := fun (k : Cask) => { k with
          convs := k.convs.filter (fun x => !mine x)
          running := k.running.map next }
        settle c.val (modCask c.val done s))

end Sys2Proof.Machine
end

