-- ==== Sys2Proof/Machine/Ledger.lean ====
section
/-! DEFINITION. The current ledger's commands: credit arbitration, credit returns and audits, the row table, the VPP arbiter, and the
save of configuration cells (R81, R98 to R114). -/

namespace Sys2Proof.Machine

/-! ### Credit arbitration (R98 to R104) -/

/-- A request as the arbiter sees it. -/
structure Bid where
  cask : Nat
  cost : Nat
  start : Nat
  age : Nat
  deriving DecidableEq, Repr

/-- Whether one request comes before another: greater age, then earlier start window, then lower cask (R100). -/
def bidBefore (a b : Bid) : Bool :=
  decide (b.age < a.age) || (decide (a.age = b.age) &&
    (decide (a.start < b.start) || (decide (a.start = b.start) && decide (a.cask < b.cask))))

/-- A request put into its place. -/
def insertBid (a : Bid) : List Bid → List Bid
  | [] => [a]
  | b :: r => if bidBefore a b then a :: b :: r else b :: insertBid a r

/-- The requests of a quadrant that were posted by step clock 47 of this slice step and are not granted, in the arbiter's order (R100). -/
def bidsOf (q : Nat) (s : State) : List Bid :=
  (s.casks.filterMap fun e =>
    if e.1 / 1024 = q then
      match e.2.posted with
      | some ⟨r, st, age, t, none⟩ => if t ≤ s.now / 64 * 64 + 47 then some ⟨e.1, r.cost, st, age⟩ else none
      | _ => none
    else none).foldr insertBid []

/-- One window filled: the requests it takes in order while credits last, and those left. -/
def fillWindow (w : Nat) : Nat → List Bid → List Bid × List Bid
  | _, [] => ([], [])
  | free, b :: r =>
    if b.start ≤ w ∧ b.cost ≤ free then
      let x := fillWindow w (free - b.cost) r
      (b :: x.1, x.2)
    else
      let x := fillWindow w free r
      (x.1, b :: x.2)

/-- The windows from w on filled one after another: each grant with its window, and the requests left. -/
def fillWindows (limit : Nat) : Nat → Nat → List Bid → List (Bid × Nat) × List Bid
  | _, 0, bs => ([], bs)
  | w, n + 1, bs =>
    let x := fillWindow w limit bs
    let y := fillWindows limit (w + 1) n x.2
    (x.1.map (·, w) ++ y.1, y.2)

/-- The placement of the requests of a quadrant in the 32 windows of a slice step (R100). -/
def arbitrate (q : Nat) (s : State) : List (Bid × Nat) × List Bid := fillWindows (rfield .LG_POOL_LIMIT 0 q 8 0 s) 0 32 (bidsOf q s)

/-- The grant of a window of the next slice step. -/
def grantOf (q w : Nat) (s : State) : Grant := ⟨64 * (s.now / 64 + 1) + 2 * w, rfield .LG_POOL_LIMIT 0 q 8 0 s⟩

/-- A request granted its window of the next slice step; the window's books count its credits when the cask takes them (R103). -/
def grantBid (q : Nat) (s : State) (g : Bid × Nat) : State :=
  let grant := fun (p : Posted) => { p with grant := some (grantOf q g.2 s) }
  modCask g.1.cask (fun k => { k with posted := k.posted.map grant }) s

/-- A request deferred: one older, and from window 0 on (R98, R100). -/
def deferBid (s : State) (b : Bid) : State :=
  let older := fun (p : Posted) => { p with age := min (p.age + 1) 1023, start := 0 }
  modCask b.cask (fun k => { k with posted := k.posted.map older }) s

/-- Credits granted in a window by a placement. -/
def windowTotal (gs : List (Bid × Nat)) (w : Nat) : Nat := ((gs.filter fun g => decide (g.2 = w)).map fun g => g.1.cost).sum

/-- Whether a quadrant's bias domain is on and not on its way off (R107). -/
def biasOn (q : Nat) (s : State) : Bool := domainUp (68 + q) s

/-- Whether a quadrant arbitrates now: in step clocks 48 to 63, once a slice step, its bias domain on (R100, R107). -/
def mayArbitrate (q : Nat) (s : State) : Bool :=
  biasOn q s && decide (48 ≤ s.now % 64) && decide (Store.getD 0 q s.ledger.arbitrated ≤ s.now / 64)

/-- CREDIT_ARBITRATION: the quadrant's requests are placed in windows of the next slice step, or deferred; grants, slides, deferrals and the
peak are counted (R100, Tables 3.17, 3.18). With the bias domain off or going off no window is granted (R107). -/
def execCreditArbitration (q : Quad) (s : State) : Host.Outcome State Fault Refusal :=
  .next (if !mayArbitrate q.val s then s
    else
      let r := arbitrate q.val s
      let s := { s with ledger := { s.ledger with arbitrated := s.ledger.arbitrated.put q.val (s.now / 64 + 1) } }
      let s := r.2.foldl deferBid (r.1.foldl (grantBid q.val) s)
      let s := bump .LG_GRANTS 0 q.val r.1.length s
      let s := bump .LG_SLIDES 0 q.val (r.1.filter fun g => decide (g.1.start < g.2)).length s
      let s := bump .LG_DEFERS 0 q.val r.2.length s
      let peak := maxOf ((List.range 32).map (windowTotal r.1))
      rput .LG_PEAK 0 q.val 8 0 (max peak (rfield .LG_PEAK 0 q.val 8 0 s)) s)

/-! ### Returns and audits (R103, R106) -/

/-- CREDIT_RETURN: the return of a window reaches the pool; a late one, and one that matches no grant of the window, are audited; one whose
credits were written off is discarded; the books are not checked while the bias domain is off or going off (R103, R106, R107). -/
def execCreditReturn (q : Quad) (w : Fin 32) (s : State) : Host.Outcome State Fault Refusal :=
  let b := getBook q.val w.val s
  .next (if !biasOn q.val s then s
    else if b.inflight s.now ≠ 0 ∧ b.late s.now = false then
      modBook q.val w.val (fun b => { b with returned := b.returned + b.out, out := 0 }) s
    else if b.out = 0 ∧ b.lost ≠ 0 then modBook q.val w.val (fun b => { b with lost := 0 }) s
    else auditWindow true q.val w.val s)

/-- CREDIT_AUDIT: the arbiter's check of a window's books: a late return, and books that do not balance, have every outstanding credit
written off. The books are not checked while the quadrant's bias domain is off or going off (R106, R107). -/
def execCreditAudit (q : Quad) (w : Fin 32) (s : State) : Host.Outcome State Fault Refusal :=
  let b := getBook q.val w.val s
  .next (if biasOn q.val s && (b.late s.now || !b.balanced s.now) then auditWindow false q.val w.val s else s)

/-! ### The row table (R86, R113, R114) -/

/-- LG_ROW_SEL one row further; row 511 goes to row 0 of the next cask (R114). -/
def nextRowSel (s : State) : State :=
  if rflag .LG_ROW_SEL 0 0 31 s then rput .LG_ROW_SEL 0 0 20 0 (rfield .LG_ROW_SEL 0 0 20 0 s + 1) s else s

/-- The word of a row table entry. -/
def rowWord (e : RowEnt) : Word := BitVec.ofNat 32 (e.ceil * 2 ^ 16 + e.sum)

/-- A row table entry of a cask. -/
def rowEnt (c i : Nat) (s : State) : RowEnt := Store.getD ⟨0, 0⟩ i (getCask c s).rows

/-- The row table entry that an access names: the one LG_ROW_SEL selects, or the one the cellarer's port does (R114, R115). -/
def rowNamed (src : Source) (s : State) : Nat :=
  match src with
  | .port e => e % 2097152
  | _ => 512 * selectedCask s + rfield .LG_ROW_SEL 0 0 8 0 s

/-- A write of a row table entry: out of range, busy, or carried out; the host's moves LG_ROW_SEL on and is journaled, the cellarer's
leaves LG_ROW_SEL as it is (R6, R113 to R115, R546). -/
def writeRow (src : Source) (v : Word) (s : State) : State :=
  let c := rowNamed src s / 512
  let i := rowNamed src s % 512
  let off := regOff .LG_ROW_DATA 0 0
  let e : RowEnt := ⟨fieldOf 20 16 v, fieldOf 12 0 v⟩
  let old := rowEnt c i s
  if 16 < e.ceil ∨ 7980 < e.sum then rejectWrite .LG_ROW_DATA 0 0 s
  else if !caskQuiesced c s && decide (e ≠ old) then writeBusy off s
  else
    let s := modCask c (fun k => { k with rows := Store.setD ⟨0, 0⟩ i e k.rows }) s
    if src = .host then nextRowSel (journal 2 0 c off 0 (rowWord old) (rowWord e) s) else s

/-- LG_ROW_DATA_ACCESS: a host read or write of the selected row table entry (R114). -/
def execLgRowDataAccess (wr : Option Word) (s : State) : Host.Outcome State Fault Refusal :=
  .next (match wr with
    | some v => hostWrite .LG_ROW_DATA 0 0 (writeRow .host v) s
    | none => regRead (regOff .LG_ROW_DATA 0 0)
        (fun s => (rowWord (rowEnt (selectedCask s) (rfield .LG_ROW_SEL 0 0 8 0 s) s), nextRowSel s)) s)

/-! ### The VPP arbiter (R108, R109) -/

/-- A cask that has its credit for racking: it is held, and marked incomplete in its configuration cells (R122, R133). One that is held
for other work now is held for racking when that work is over (R120). -/
def holdForRacking (c : Nat) (s : State) : State :=
  if (s.cellar.active.any fun e => decide (e.1 = c)) && s.ledger.vppHeld.contains c && (getCask c s).hold.isNone then
    modCask c (fun k => { k with hold := some .racking, incomplete := true }) s
  else s

/-- A cask asks for a VPP credit (R109). -/
def vppAsk (c : Nat) (s : State) : State :=
  let sent := s.ledger.vppSent.any fun e => decide (e.1 = c)
  if s.ledger.vppQueue.contains c || (s.ledger.vppHeld.contains c && !sent) then s
  else { s with ledger := { s.ledger with vppQueue := s.ledger.vppQueue ++ [c] } }

/-- A cask's last program pulse ends: its credit is on its way back (R109). -/
def vppSend (c : Nat) (s : State) : State :=
  if s.ledger.vppHeld.contains c && !(s.ledger.vppSent.any fun e => decide (e.1 = c)) then
    { s with ledger := { s.ledger with vppSent := s.ledger.vppSent ++ [(c, s.now)] } }
  else s

/-- A cask's credit is back with the arbiter. -/
def vppBack (c : Nat) (s : State) : State :=
  { s with ledger := { s.ledger with
      vppHeld := s.ledger.vppHeld.filter (· ≠ c)
      vppSent := s.ledger.vppSent.filter fun e => decide (e.1 ≠ c) } }

/-- A cask holds no credit and waits for none. -/
def vppFree (c : Nat) (s : State) : State :=
  { s with ledger := { s.ledger with
      vppQueue := s.ledger.vppQueue.filter (· ≠ c)
      vppHeld := s.ledger.vppHeld.filter (· ≠ c)
      vppSent := s.ledger.vppSent.filter fun e => decide (e.1 ≠ c) } }

/-- A cask's late credit written off, its return still to come. -/
def vppWriteOff (c : Nat) (s : State) : State :=
  let s := vppBack c s
  { s with ledger := { s.ledger with vppLost := s.ledger.vppLost ++ [c] } }

/-- The audit of the VPP pool, with the credits written off (R109). -/
def vppAudit (off : Nat) (s : State) : State := raiseEvent 0x0202 4 0 off none (rput .LG_VPP_STATUS 0 0 31 31 1 s)

/-- The step clock at which a cask sent its credit back, if it is on its way. -/
def vppSentAt (c : Nat) (s : State) : Option Nat := (s.ledger.vppSent.find? fun e => decide (e.1 = c)).map (·.2)

/-- VPP_CREDIT_RETURN: a cask's credit reaches the arbiter; one later than 8 step clocks is audited and written off, one that was written
off before is only discarded, one from a cask that holds no credit is mismatched (R109; log entry 111). -/
def execVppCreditReturn (c : CaskId) (s : State) : Host.Outcome State Fault Refusal :=
  let lost := s.ledger.vppLost
  .next (match vppSentAt c.val s with
    | some t => if t + 8 < s.now then vppAudit 1 (vppBack c.val s) else vppBack c.val s
    | none =>
      if lost.contains c.val then { s with ledger := { s.ledger with vppLost := lost.erase c.val } }
      else if s.ledger.vppHeld.contains c.val then s
      else vppAudit 0 s)

/-- VPP_CREDIT_AUDIT: the arbiter finds a cask's return late and writes its credit off, or meets a return from a cask that holds no credit
(R109). -/
def execVppCreditAudit (c : CaskId) (s : State) : Host.Outcome State Fault Refusal :=
  .next (match vppSentAt c.val s with
    | some t => if t + 8 < s.now then vppAudit 1 (vppWriteOff c.val s) else s
    | none => if s.ledger.vppHeld.contains c.val then s else vppAudit 0 s)

/-! ### Configuration cells (R80, R81) -/

/-- The configuration that a cask's cells take: CK_CONFIG, the remap group and the GEN of its COMMIT register. -/
def cellsNow (c : Nat) (s : State) : CfgCells :=
  ⟨rget .CK_CONFIG c 0 s, remapWords c s, pinWords c s, rfield .CK_REMAP_COMMIT c 0 15 0 s⟩

/-- A cask's new configuration starts to be written to its cells (R81). -/
def startSaving (c : Nat) (s : State) : State := modCask c (fun k => { k with saving := true }) s

/-- A cask's configuration is in its cells. -/
def saveCells (c : Nat) (s : State) : State :=
  let x := cellsNow c s
  modCask c (fun k => { k with cells := x, saving := false }) s

/-- CONFIG_CELL_SAVE: the write of the new configuration to the cells ends (R81). -/
def execConfigCellSave (c : CaskId) (s : State) : Host.Outcome State Fault Refusal :=
  .next (if (getCask c.val s).saving then saveCells c.val s else s)

end Sys2Proof.Machine
end

