-- ==== Sys2Proof/Machine/RegWrite.lean ====
section
/-! DEFINITION. What a write does to the fields of a register, by their access codes (R1 to R3, R6, R564). -/

namespace Sys2Proof.Machine

/-- Whether every field of a register may be given what a word writes into it (R564). -/
def rangeOk (n : RegName) (v : Word) : Bool := n.desc.allows v

/-- A register's word after one field of a write: RW takes the value, W1C clears the bits written 1, every other code keeps its own;
a Quiesced-only field of a busy block keeps its value (Table 0.4, R6). -/
def RegField.write (keep : Bool) (v : Word) (old : Word) (f : RegField) : Word :=
  match f.acc with
  | .rw => if keep && f.quiesced then old else setField f.hi f.lo (fieldOf f.hi f.lo v) old
  | .w1c => setField f.hi f.lo (fieldOf f.hi f.lo old - (fieldOf f.hi f.lo old &&& fieldOf f.hi f.lo v)) old
  | _ => old

/-- Whether a write would change a Quiesced-only field while its block is not quiesced (R6). -/
def busyWrite (n : RegName) (u i : Nat) (v : Word) (s : State) : Bool :=
  !quiescedFor n.desc.quiesce u i s && n.desc.fields.any fun f =>
    f.quiesced && decide (f.acc = .rw) && decide (fieldOf f.hi f.lo v ≠ fieldOf f.hi f.lo (rget n u i s))

/-- Whether a write takes effect in full. -/
def writeOk (n : RegName) (u i : Nat) (v : Word) (s : State) : Bool := rangeOk n v && !busyWrite n u i v s

/-- A write to the fields of a register: discarded whole with its block's event where a value is out of range (R564), else stored
field by field, with EV_WRITE_BUSY where a Quiesced-only field had to keep its value (R6). -/
def storeWrite (n : RegName) (u i : Nat) (v : Word) (s : State) : State :=
  if !rangeOk n v then rejectWrite n u i s
  else
    let busy := busyWrite n u i v s
    let s1 := rset n u i (n.desc.fields.foldl (RegField.write busy v) (rget n u i s)) s
    if busy then writeBusy (regOff n u i) s1 else s1

end Sys2Proof.Machine
end

