-- ==== Sys2Proof/Machine/RackOps.lean ====
section
/-! DEFINITION. What the cellarer's work on casks shares (R51, R85, R117 to R156, R162, R169, R170, R177, R178, R220 to R226): weights
and programmed patterns, the shadow, digests, spares and pins, fits, the fold into the Channel Rescale Table. -/

namespace Sys2Proof.Machine

/-! ### Weights and programmed patterns (R51, R52, R118, R127, R169) -/

/-- The major and minor level of a W9 weight (R51). -/
def encodeW9 (w : Int) : Int × Int :=
  let m : Int := w.sign * ((min 15 ((w.natAbs + 8) / 16) : Nat) : Int)
  (m, w - 16 * m)

/-- The signed 16-bit little-endian numbers in a byte list. -/
def halfWords : List Byte → List Int
  | a :: b :: r => signedOf 16 (a.toNat + 256 * b.toNat) :: halfWords r
  | _ => []

/-- The weights of a source block, row-major (R118). -/
def sourceWeights (w5 : Bool) (bs : List Byte) : List Int := if w5 then bs.map fun b => signedOf 8 b.toNat else halfWords bs

/-- The largest weight magnitude of a mode (R119). -/
def weightLimit (w5 : Bool) : Nat := if w5 then 15 else 255

/-- A list cut into k pieces of n. -/
def piecesOf {α : Type} (n : Nat) : Nat → List α → List (List α)
  | 0, _ => []
  | k + 1, l => l.take n :: piecesOf n k (l.drop n)

/-- The levels of the 512 weight pairs on each of the 512 rows. -/
abbrev LevelRows := List (List Int)

/-- The levels of a block's weights. -/
def levelRows (w5 : Bool) (ws : List Int) : LevelRows :=
  piecesOf 512 512 (if w5 then ws else ws.flatMap fun w => let e := encodeW9 w; [e.1, e.2])

/-- The weight of a logical column on a row of levels. -/
def weightOn (w5 : Bool) (row : List Int) (j : Nat) : Int := if w5 then nthD 0 j row else 16 * nthD 0 (2 * j) row + nthD 0 (2 * j + 1) row

/-- The sum of the major-pair levels of a row (R169). -/
def majorTotal (row : List Int) : Int := sumRange 256 fun j => nthD 0 (2 * j) row
/-- c_i of R169. -/
def checkC (row : List Int) : Int := roundAway (majorTotal row) 256
/-- d_i of R169. -/
def checkD (row : List Int) : Int := roundAway (majorTotal row - 256 * checkC row) 16
/-- e_i of R169. -/
def checkE (row : List Int) : Int := majorTotal row - 256 * checkC row - 16 * checkD row

/-- b_i of R170: the balance of a row under a pin set. -/
def balanceOf (pin : List Word) (row : List Int) : Int :=
  (sumRange 256 fun j => if pinnedPair pin (2 * j) then 0 else (nthD 0 (2 * j) row).sign) - 256 * (checkC row).sign - 16 * (checkD row).sign

/-- The level of pair p below 514 on a row. -/
def logicalLevel (row : List Int) (p : Nat) : Int :=
  if p < 512 then nthD 0 p row else if p = 512 then checkC row else if p = 513 then checkD row else 0

/-- The programmed level of any physical pair on a row: weights, checksum pairs, references (Table 2.3), spares (R56). -/
def pairLevel (remap : List Word) (row : List Int) (p : Nat) : Int :=
  if p < 514 then logicalLevel row p
  else if p = 514 then 12
  else if p = 515 then -4
  else match remapTarget (nthD 0 (p - 516) remap) with
    | some q => logicalLevel row q
    | none => 0

/-- Whether the converter result of a physical pair is used (R85): weight pairs neither replaced nor pinned, checksum pairs not
replaced, enabled spares. -/
def pairUsed (remap pin : List Word) (p : Nat) : Bool :=
  if p < 514 then (spareOf remap p).isNone && !pinnedPair pin p
  else if p < 516 then false
  else (remapTarget (nthD 0 (p - 516) remap)).isSome

/-- The level of one cell of a pair. -/
def cellLevel (level : Int) (neg : Bool) : Nat := if neg then (-level).toNat else level.toNat

/-- The row table entry of a programmed row with its failed cells (R127). -/
def rowEntry (remap pin : List Word) (fails : List CellFail) (i : Nat) (row : List Int) : RowEnt :=
  let lv := pairLevel remap row
  let mine := fails.filter fun f => decide (f.row = i)
  let top := ((List.range 532).filter (pairUsed remap pin)).map fun p => (lv p).natAbs
  let high := (mine.filter fun f => f.above && pairUsed remap pin f.pair).map fun f => min 16 (cellLevel (lv f.pair) f.neg + 1)
  let sum := ((List.range 532).map fun p => (lv p).natAbs).sum
  let less := (mine.map fun f => cellLevel (lv f.pair) f.neg).sum
  let more := (mine.map fun f => min 15 f.level).sum
  ⟨(top ++ high).foldl max 0, sum + more - less⟩

/-- The row table of a programmed pattern. -/
def rowTable (remap pin : List Word) (fails : List CellFail) (rows : LevelRows) : List RowEnt :=
  rows.zipIdx.map fun e => rowEntry remap pin fails e.2 e.1

/-- The programmed levels of every pair of a pattern. -/
def programmed (remap : List Word) (rows : LevelRows) : Store Int :=
  rows.zipIdx.flatMap fun e => (List.range 532).filterMap fun p =>
    let l := pairLevel remap e.1 p
    if l = 0 then none else some (532 * e.2 + p, l)

/-! ### The shadow (R128 to R130) -/

/-- Whether a cask's shadow slice lies wholly below U (R119). -/
def shadowFits (c : Nat) (s : State) : Bool := decide (shadowAt c s + 0x41000 ≤ usable s)

/-- Whole sectors written by the cellarer into DRAM; nothing where they would not lie below U. -/
def dramStore (a : Nat) (data : List Byte) (s : State) : State := if a + data.length ≤ usable s then writeDram a data s else s

/-- A shadow weight entry (Table 4.5). -/
def shadowEntry (w5 : Bool) (remap pin : List Word) (row : List Int) (j : Nat) : Nat :=
  patternOf 5 (nthD 0 (2 * j) row) * 2 ^ 11 + patternOf 5 (nthD 0 (2 * j + 1) row) * 2 ^ 6 +
    (pinnedPair pin (2 * j) || pinnedPair pin (2 * j + 1)).toNat * 2 ^ 5 + (spareOf remap (2 * j)).isSome.toNat * 2 ^ 4 +
    (spareOf remap (2 * j + 1)).isSome.toNat * 2 ^ 3 + w5.toNat * 2 ^ 2

/-- The 512 bytes of a row's shadow entries. -/
def shadowRow (w5 : Bool) (remap pin : List Word) (row : List Int) : List Byte :=
  (List.range 256).flatMap fun j => leBytes 2 (shadowEntry w5 remap pin row j)

/-- A shadow row record (Table 4.6). -/
def rowRecord (row : List Int) (e : RowEnt) (pulses : Nat) : List Byte :=
  leBytes 4 (patternOf 5 (checkC row) * 2 ^ 27 + patternOf 5 (checkD row) * 2 ^ 22 + e.ceil % 32 * 2 ^ 16 + e.sum % 2 ^ 13) ++
    leBytes 4 (pulses % 64 * 2 ^ 26)

/-- The correction unit's row buffer drops every entry of a cask whose shadow changed (R168). -/
def dropRows (c : Nat) (s : State) : State :=
  modRack (c / 16) (fun k => { k with rowBuf := k.rowBuf.filter fun b => decide (b.cask ≠ c) }) s

/-- A cask's weight entries written into its shadow (R129, R130). -/
def putEntries (c : Nat) (w5 : Bool) (remap pin : List Word) (rows : LevelRows) (s : State) : State :=
  dropRows c (dramStore (shadowAt c s) (rows.flatMap (shadowRow w5 remap pin)) s)

/-- A cask's row records written into its shadow, a part of it as its entries are (R128 to R130, R168). -/
def putRecords (c : Nat) (rows : LevelRows) (ents : List RowEnt) (pulses : Nat → Nat) (s : State) : State :=
  dropRows c (dramStore (shadowAt c s + 0x40000) (rows.zipIdx.flatMap fun e => rowRecord e.1 (nthD ⟨0, 0⟩ e.2 ents) (pulses e.2)) s)

/-- The levels in a shadow weight entry. -/
def entryLevels (e : Nat) : List Int := [signedOf 5 (bits 15 11 e), signedOf 5 (bits 10 6 e)]

/-- The levels in the weight entries of a shadow. -/
def shadowLevels (bs : List Byte) : LevelRows :=
  piecesOf 512 512 ((halfWords bs).flatMap fun e => entryLevels (patternOf 16 e))

/-- A cask's shadow read by the cellarer for a packet's work or its own; a failed read loses it (R136, R377). -/
def readShadow (p : Option PktId) (c : Nat) (s : State) : Option LevelRows × State :=
  if !(getCask c s).shadowOk then (none, s)
  else match readDram (shadowAt c s) 0x40000 p s with
    | (.ok bs, s1) => (some (shadowLevels bs), s1)
    | (_, s1) => (none, shadowFails c p s1)

/-! ### Digests (R131, R132) -/

/-- The cask digest of a pattern: its mode byte and its weight entries with bits [5:0] cleared (R131). -/
def caskDigest (w5 : Bool) (rows : LevelRows) : List Byte :=
  sha384 (leBytes 1 w5.toNat ++ rows.flatMap fun row => (List.range 256).flatMap fun j =>
    leBytes 2 (patternOf 5 (nthD 0 (2 * j) row) * 2 ^ 11 + patternOf 5 (nthD 0 (2 * j + 1) row) * 2 ^ 6))

/-- The weight mode that a cask's configuration holds. -/
def caskW5 (c : Nat) (s : State) : Bool := rflag .CK_CONFIG c 0 0 s

/-- The device digest (R132). -/
def deviceDigest (s : State) : List Byte :=
  sha384 ((s.casks.filter fun e => e.2.racked).flatMap fun e =>
    leBytes 2 e.1 ++ leBytes 1 (caskW5 e.1 s).toNat ++ e.2.digest)

/-- Bytes 0 to 3 of a digest as a word. -/
def digestWord (d : List Byte) : Word := BitVec.ofNat 32 (leAt 0 4 d)

/-- The device digest recomputed (R132). -/
def newDigest (s : State) : State := { s with cellar := { s.cellar with digest := deviceDigest s } }

/-- The device digest recomputed after racking, with its journal entry (R132, R546). -/
def newDigestRacked (s : State) : State :=
  let s1 := newDigest s
  if s1.cellar.digest = s.cellar.digest then s1
  else journal 4 1 0 (regOff .RK_DIGEST 0 0) 0 (digestWord s.cellar.digest) (digestWord s1.cellar.digest) s1

/-! ### Erasing a cask (R80, R86, R139) -/

/-- The remap group of a cask set by the cellarer: entries and pins in force, nothing staged (R141, R142). DESIGN CHOICE: what the host had staged
there, or asked to have applied, is gone without BUSY_ERR, of which R11 says nothing (log entry 144). -/
def setMap (c : Nat) (remap pin : List Word) (s : State) : State :=
  let s := dropStaged ⟨.CK_REMAP_COMMIT, c, 0⟩ s
  (List.range 16).foldl (fun s k => rset .CK_PIN c k (nthD 0 k pin) (rset .CK_REMAP c k (nthD 0 k remap) s)) s

/-- The entries of a remap group checked as they come into force: an enabled TARGET of 514 or more raises EV_CK_CONFIG, a TARGET named
twice sets REMAP_CONFLICT (R83). -/
def remapChecks (c : Nat) (s : State) : State :=
  let ws := remapWords c s
  let on := fun k => flagOf 31 (nthD 0 k ws)
  let tgt := fun k => fieldOf 9 0 (nthD 0 k ws)
  let s := (List.range 16).foldl (fun s k => if on k && decide (514 ≤ tgt k) then cfgEvent .ck c (regOff .CK_REMAP c k) s else s) s
  let clash := (List.range 16).any fun k => on k && decide (tgt k < 514) && (List.range k).any fun j => on j && decide (tgt j = tgt k)
  if clash then rput .CK_STATUS c 0 23 23 1 s else s

/-- The residual entries of a cask are no longer written. -/
def dropResid (c : Nat) (s : State) : State :=
  modRack (c / 16) (fun k => { k with residOk := k.residOk.filter fun x => decide (x ≠ c % 16) }) s

/-- A cask as its erasure leaves it: cells, row table, digest, marks and what was known of its contents are gone; its latest fit, its
cycles and the GEN of its remap group stay (R80, R155, R566). -/
def Cask.erased (gen : Nat) (k : Cask) : Cask := { k with
  racked := false
  incomplete := false
  chkLost := false
  retired := 0
  digest := []
  cells := { CfgCells.erased with gen := gen }
  saving := false
  rows := []
  levels := []
  lSum := 0
  lCnt := 0
  shadowOk := false
  suspect := false
  outOfRange := false
  topDue := false
  diagDue := false
  tasteDue := false
  tasteRepeat := false
  condemned := false
  thenTop := false
  fitWas := none
  prog := none
  failed := [] }

/-- A cask erased (R80, R86, R139). -/
def eraseCask (c : Nat) (s : State) : State :=
  let s := rset .CK_CONFIG c 0 (resetWord .CK_CONFIG) (setMap c [] [] s)
  dropResid c (modCask c (Cask.erased (rfield .CK_REMAP_COMMIT c 0 15 0 s)) s)

/-! ### Spares and pins (R138 to R140) -/

/-- A remap group in the making: entries, pins, retired spares as a mask, whether a checksum pair is left without service. -/
structure Plan where
  remap : List Word
  pin : List Word
  retired : Nat
  chkLost : Bool
  deriving DecidableEq, Repr

/-- The lowest-numbered spare whose entry is disabled and not retired (R138). -/
def Plan.freeSpare (p : Plan) : Option Nat := (List.range 16).find? fun k => !flagOf 31 (nthD 0 k p.remap) && !bitAt k p.retired

/-- A spare retired: ENABLE 0, TARGET 0x3FF (R139). -/
def Plan.retire (p : Plan) (k : Nat) : Plan := { p with remap := setNth k 0x3FF p.remap, retired := p.retired ||| 2 ^ k }

/-- A spare given to a pair. -/
def Plan.enable (p : Plan) (k pair : Nat) : Plan := { p with remap := setNth k (BitVec.ofNat 32 (2 ^ 31 + pair)) p.remap }

/-- A weight pair pinned. -/
def Plan.pinPair (p : Plan) (q : Nat) : Plan :=
  { p with pin := setNth (q / 32) (setFlag (q % 32) true (nthD 0 (q / 32) p.pin)) p.pin }

/-- The spare that serves the highest-numbered weight pair. -/
def Plan.highest (p : Plan) : Option (Nat × Nat) :=
  (List.range 512).foldl (fun a q => match spareOf p.remap q with
    | some k => some (k, q)
    | none => a) none

/-- A failed pair given a spare; spares that fail while prepared are retired on the way (R138, R139). A weight pair with no spare left
is pinned (R140); a checksum pair takes the spare of the highest-numbered weight pair, whose column is pinned, or is left without
service. -/
def Plan.assign (bad : List Nat) (pair : Nat) : Nat → Plan → Plan
  | 0, p => p
  | n + 1, p =>
    match p.freeSpare with
    | some k => if bad.contains k then Plan.assign bad pair n (p.retire k) else p.enable k pair
    | none =>
      if pair < 512 then p.pinPair pair
      else match p.highest with
        | some (k, q) => if bad.contains k then Plan.assign bad pair n ((p.pinPair q).retire k) else (p.pinPair q).enable k pair
        | none => { p with chkLost := true }

/-- A failed physical pair handled: a spare in service that failed is retired and its pair served anew. -/
def Plan.repair (bad : List Nat) (p : Plan) (pair : Nat) : Plan :=
  if pair < 514 then Plan.assign bad pair 40 p
  else match remapTarget (nthD 0 (pair - 516) p.remap) with
    | some q => Plan.assign bad q 40 (p.retire (pair - 516))
    | none => p

/-- Whether a physical pair serves a checksum pair: it is one, or a spare that stands for one. -/
def Plan.servesCheck (p : Plan) (pair : Nat) : Bool :=
  decide (pair = 512) || decide (pair = 513) || (decide (516 ≤ pair) && (match remapTarget (nthD 0 (pair - 516) p.remap) with
    | some q => decide (512 ≤ q)
    | none => false))

/-- Failed pairs handled, checksum pairs first and each kind in ascending order (R138, log entry 30). -/
def Plan.repairAll (bad pairs : List Nat) (p : Plan) : Plan :=
  let mine := (List.range 532).filter pairs.contains
  ((mine.filter p.servesCheck) ++ mine.filter fun x => !p.servesCheck x).foldl (Plan.repair bad) p

/-- The logical columns that a pin set pins. -/
def pinnedColumns (w5 : Bool) (pin : List Word) : List Nat := (List.range (columns w5)).filter (pinnedColumn w5 pin)

/-- The number of spares in use. -/
def sparesUsed (remap : List Word) : Nat := (remap.filter (flagOf 31)).length

/-! ### The residual table (R170) and tasting records (R177, R178) -/

/-- A cask's residual entries written for a pin set. -/
def putResid (c : Nat) (pin : List Word) (rows : LevelRows) (s : State) : State :=
  modRack (c / 16) (fun k => { k with
    resid := Store.setN (0, 0) (c % 16 * 512) (rows.map fun row => (checkE row, balanceOf pin row)) k.resid
    residOk := if k.residOk.contains (c % 16) then k.residOk else k.residOk ++ [c % 16] }) s

/-- One step of the tasting generator (R177). -/
def xorshift (x : Word) : Word :=
  let x := x ^^^ (x <<< 13)
  let x := x ^^^ (x >>> 17)
  x ^^^ (x <<< 5)

/-- The states that follow a state. -/
def tasteStates : Nat → Word → List Word
  | 0, _ => []
  | n + 1, x => xorshift x :: tasteStates n (xorshift x)

/-- Tasting vector k of cask c (R177). -/
def tasteVector (c k : Nat) : List Int :=
  (tasteStates 512 (0x9E3779B9#32 ^^^ BitVec.ofNat 32 (c * 16) ^^^ BitVec.ofNat 32 k)).map fun x => ((x.toNat / 2 ^ 24 % 255 : Nat) : Int) - 127

/-- The base of a cask's tasting records. -/
def tasteAt (c : Nat) (s : State) : Nat := rpair .CT_TASTE_BASE_LO .CT_TASTE_BASE_HI 0 s + c * 0x4000

/-- The record of one vector: exact sum and absolute sum of each logical column (R178). -/
def tasteRecord (c k : Nat) (w5 : Bool) (rows : LevelRows) : List Byte :=
  let xs := (tasteVector c k).zip rows
  padTo 4096 ((List.range (columns w5)).flatMap fun j =>
    leBytes 4 (patternOf 32 (sumList (fun e => e.1 * weightOn w5 e.2 j) xs)) ++
      leBytes 4 ((xs.map fun e => (e.1 * weightOn w5 e.2 j).natAbs).sum))

/-- A cask's tasting records written (R178). -/
def putTaste (c : Nat) (w5 : Bool) (rows : LevelRows) (s : State) : State :=
  dramStore (tasteAt c s) ((List.range 4).flatMap fun k => tasteRecord c k w5 rows) s

/-! ### Fits and drift (R144 to R149, R566) -/

/-- G = REF_A + REF_B: the gain in 1/32,768. -/
def Cask.gainSum (k : Cask) : Int := k.refA + k.refB
/-- O = −(REF_A + 3 REF_B): the offset in 1/8,192 level. -/
def Cask.offsetSum (k : Cask) : Int := -(k.refA + 3 * k.refB)
/-- G at the latest racking or topping. -/
def Cask.gainSum0 (k : Cask) : Int := k.refA0 + k.refB0
/-- O at the latest racking or topping. -/
def Cask.offsetSum0 (k : Cask) : Int := -(k.refA0 + 3 * k.refB0)

/-- The estimated drift δ in 1/32,768 level (R148). -/
def Cask.drift (k : Cask) : Nat :=
  let dg := k.gainSum - k.gainSum0
  let d4 := 4 * (k.offsetSum - k.offsetSum0)
  max (15 * dg + d4).natAbs (dg + d4).natAbs

/-- Whether a cask's fit is out of range under a RK_RANGE word (R148). -/
def Cask.beyondRange (k : Cask) (w : Word) : Bool :=
  decide (1000 * k.gainSum < (1000 - (fieldOf 7 0 w : Int)) * 32768) || decide ((1000 + (fieldOf 15 8 w : Int)) * 32768 < 1000 * k.gainSum) ||
    decide (100 * k.offsetSum < -(fieldOf 23 16 w : Int) * 8192) || decide ((fieldOf 31 24 w : Int) * 8192 < 100 * k.offsetSum)

/-- RK_CASK_FIT of a cask (Table 4.19, R566). -/
def Cask.fitWord (k : Cask) : Word :=
  if !k.fitted then 0
  else BitVec.ofNat 32 (patternOf 16 (clampInt (-32768) 32767 (16 * (k.gainSum - 32768))) * 2 ^ 16 +
    patternOf 16 (clampInt (-32768) 32767 (roundAway k.offsetSum 2)))

/-- RK_CASK_AGE of a cask (Table 4.20, R566). -/
def Cask.ageWord (k : Cask) : Word :=
  let d := if k.fitted then (roundAway (k.drift * 1000 : Nat) 32768).toNat else 0
  BitVec.ofNat 32 (min d 4095 * 2 ^ 20 + k.cycles8 % 2 ^ 20)

/-- The vintage record in force (R496): 0 the factory vintage, 1 slot A, 2 slot B. -/
def vintage (s : State) : List Byte :=
  match s.cal.inForce with
  | 1 => s.cal.slotA.getD s.cal.factory
  | 2 => s.cal.slotB.getD s.cal.factory
  | _ => s.cal.factory

/-- The calibration procedure in progress ends after its current step: ABORT was written, or a reset has met a cask that it holds (R493). -/
def calAbort (s : State) : State := { s with cal := { s.cal with run := s.cal.run.map fun r => { r with aborted := true } } }

/-- A quadrant's temperature in 1/512 °C: the mean of its two sensors, with the offsets of the vintage in force (R146, Table 14.4). -/
def quadTemp (q : Nat) (s : State) : Int :=
  sumList (fun n => 256 * nthD 0 n s.cellar.lastTemps + signedOf 16 (leAt (384 + 2 * n) 2 (vintage s))) [2 * q, 2 * q + 1]

/-- The residual temperature coefficient of a quadrant. -/
def quadBeta (q : Nat) (s : State) : Word := BitVec.ofNat 32 (leAt (64 + 64 * q + 4) 4 (vintage s))

/-- A cask as a fold sees it. A topped cask's entries take effect with its release, so a fold that is applied earlier uses the fit from before
the topping (R153). -/
def Cask.foldView (early : Bool) (k : Cask) : Cask :=
  match early, k.fitWas with
  | true, some (a, b, t) => { k with refA := a, refB := b, tFit := t }
  | _, _ => k

/-- The fold g_eff of a cask as an FP32 value (R146); with no conducting weight cell L̄ has no value and the fold is free. -/
def gFold (early : Bool) (c : Nat) (s : State) : Word :=
  let k := (getCask c s).foldView early
  if k.lSum = 0 then Config.freeWord s.freeCtr
  else
    let b := q32 (quadBeta (c / 1024) s)
    let dt := quadTemp (c / 1024) s - k.tFit
    ratWord ((k.gainSum * k.lSum + 4 * k.offsetSum * k.lCnt) * (512 * b.2 + b.1 * dt)) (32768 * k.lSum * 512 * b.2)

/-- The fold of a cask with its latest fit. -/
def gEff (c : Nat) (s : State) : Word := gFold false c s

/-! ### Channel group records (R221, R222) -/

/-- The address of a channel group record (R221). -/
def groupAddr (r g : Nat) (s : State) : Nat := rpair .RS_GROUPS_LO .RS_GROUPS_HI 0 s + 256 * (32 * r + g)

/-- The number of contributions of a record. -/
def groupN (bs : List Byte) : Nat := byteAt 0 bs

/-- Contribution k of a record. -/
def contribOf (bs : List Byte) (k : Nat) : Nat := leAt (8 + 4 * k) 4 bs

/-- Whether a group record is usable (R222). -/
def groupUsable (bs : List Byte) : Bool :=
  decide (groupN bs ≤ 62) && decide (byteAt 1 bs ≤ 1) && (List.range (groupN bs)).all fun k =>
    decide (bits 31 13 (contribOf bs k) = 0) && !(bitAt 12 (contribOf bs k) && decide (byteAt 1 bs = 0))

/-- The contributions of a usable record: cask and HALF. -/
def contribs (bs : List Byte) : List (Nat × Bool) :=
  if groupUsable bs then (List.range (groupN bs)).map fun k => (bits 11 0 (contribOf bs k), bitAt 12 (contribOf bs k)) else []

/-- The casks of each channel group in use, with the rack whose entries the group holds. -/
def groupsNow (s : State) : List (Nat × List Nat) :=
  (List.range 256).flatMap fun r => (List.range 32).map fun g => (r, (contribs (peek (groupAddr r g s) 256 s)).map (·.1))

/-- The racks whose entries or match gains a cask's fit enters: those whose groups name it, and its own (R147, R162). -/
def racksOf (c : Nat) (s : State) : List Nat :=
  let gs := groupsNow s
  (List.range 256).filter fun r => decide (r = c / 16) || gs.any fun e => decide (e.1 = r) && e.2.contains c

/-- Racks whose groups wait for a refold that is applied at a frame or idle boundary (R224). -/
def askRefold (rs : List Nat) (s : State) : State :=
  { s with quant := { s.quant with refold := s.quant.refold ++ rs.filter fun r => !s.quant.refold.contains r } }

/-! ### Evaluation of a cask (R147 to R150, R155) -/

/-- SUSPECT set: a diagnosis read follows at the next boundary, unless a repeated tasting run has failed, after which there is no further
repair (R175, R176, R182). -/
def setSuspect (c : Nat) (s : State) : State := modCask c (fun k => { k with suspect := true, diagDue := !k.condemned }) s

/-- Topping due for a cask by its own new fit, up to 84,000 eighths of a cycle (R149, R155). -/
def dueByFit (c : Nat) (s : State) : State :=
  modCask c (fun k => if k.racked && decide (k.cycles8 < 84000) then { k with topDue := true } else k) s

/-- Topping due for a cask; one that is in progress is the topping called for (R149, R151, log entry 133). -/
def dueTopping (c : Nat) (s : State) : State := if (getCask c s).topping then s else dueByFit c s

/-- Whether a cask's latest fit is that of what it holds: racked and fitted, and not in a racking whose reference read is still to come
(R145, R149). -/
def Cask.fitHolds (k : Cask) : Bool := k.racked && k.fitted && !(decide (k.hold = some .racking) && k.prog.isSome)

/-- The cask of a channel group whose gain lies furthest from its g0, where the group's gains spread beyond RK_POLICY.SPREAD (R149).
Of casks equally far the first in the order of the group record is taken; R149 is silent there: DESIGN CHOICE, log entry 113. -/
def spreadCask (cs : List Nat) (s : State) : Option Nat :=
  let k := fun c => getCask c s
  let wide := cs.any fun a => cs.any fun b =>
    decide (rfield .RK_POLICY 0 0 15 8 s * 32768 < 1500 * ((k a).gainSum - (k b).gainSum).natAbs)
  let far := fun c => ((k c).gainSum - (k c).gainSum0).natAbs
  if wide then cs.find? fun a => cs.all fun b => decide (far b ≤ far a) else none

/-- What a new fit of a cask calls for: range, drift and spread (R148, R149, R155). -/
def evaluate (c : Nat) (s : State) : State :=
  let k := getCask c s
  let out := k.beyondRange (rget .RK_RANGE 0 0 s)
  let s := if out && !k.outOfRange then
      raiseEvent 0x0303 c 0 k.fitWord.toNat (cellarPkt c s) (modCask c (fun k => { k with outOfRange := true }) s)
    else s
  let s := if out && decide (84000 ≤ k.cycles8) && !k.suspect then setSuspect c s else s
  let s := if out || decide (rfield .RK_POLICY 0 0 7 0 s * 32768 < 100 * k.drift) then dueByFit c s else s
  ((groupsNow s).filter fun e => e.2.contains c).foldl (fun s e =>
    match spreadCask (e.2.filter fun x => (getCask x s).fitHolds) s with
    | some x => if x = c then dueByFit x s else dueTopping x s
    | none => s) s

/-- A reference read's sums written to the cask's registers (R79). -/
def refRegs (c : Nat) (a b : Int) (s : State) : State :=
  bump .CK_REF_SEQ c 0 1 (rset .CK_REF_B c 0 (BitVec.ofInt 32 b) (rset .CK_REF_A c 0 (BitVec.ofInt 32 a) s))

/-- A reference read's sums recorded and fitted (R79, R145). -/
def recordRef (c : Nat) (a b : Int) (s : State) : State :=
  let s := refRegs c a b s
  let t := quadTemp (c / 1024) s
  modCask c (fun k => { k with
    refA := a
    refB := b
    tFit := t
    fitted := true
    refMissed := 0
    foundEmpty := false
    lastRef := s.now }) s

/-- The latest fit taken as g0 and o0 (R145). -/
def recordZero (c : Nat) (s : State) : State := modCask c (fun k => { k with refA0 := k.refA, refB0 := k.refB }) s

/-! ### Reference reads (R79, R94) -/

/-- The levels of a reference read: every row at 8. -/
def refLevels : List Int := List.replicate 512 8

/-- The gain policy of a reference read: admission with floor 5 (R94). -/
def refPolicy : Gain := ⟨false, false, 5⟩

/-- The requests of a reference read: one slice, every ceiling at least 12 (R94, R97). -/
def refReqs (k : Cask) (id : Nat) : List SliceReq := sliceReqs k (fun i => max (k.ceil i) 12) refPolicy id 0 0 refLevels

/-- The operation that a read of the cellarer's makes on a cask: no data block, no slot, no packet. -/
def probeOp (id ntok : Nat) (w5 : Bool) : CaskOp := ⟨id, 0, 0, 0, ntok, 0, 0, 0, 0, w5, none, none, []⟩

/-- A reference read begins: its request is posted, and competes as any does (R79, R94, R107). -/
def startRef (c : Nat) (s : State) : State :=
  let k := getCask c s
  let run : RunOp := ⟨.refRead, probeOp s.nextOp 1 false, [], some refPolicy, none, none, 1, 0, [], false, 0⟩
  let k1 := { k with running := k.running ++ [run], waiting := k.waiting ++ refReqs k s.nextOp }
  postNext c (setCask c k1 { s with nextOp := s.nextOp + 1 })

/-- The reference read of a cask whose every pair is converted, with the sums of pairs 514 and 515 (R79). -/
def refResult (k : Cask) : Option (Nat × Int × Int) :=
  match k.probe .refRead with
  | some o =>
    if k.probeDone o then some (o.op.op, pairSum (k.convsOf o.op.op 0) 514, pairSum (k.convsOf o.op.op 0) 515) else none
  | none => none

/-- What a reference read of a racked cask brings: its fit, its evaluation and the refold that it asks for (R79, R145 to R149). -/
def refRead (c : Nat) (a b : Int) (s : State) : State :=
  let s := recordRef c a b s
  if (getCask c s).racked then evaluate c (askRefold (racksOf c s) s) else s

/-! ### The fold into the Channel Rescale Table (R222 to R226) -/

/-- The key of a Channel Rescale Table entry (R220). -/
def crtKey (r g c : Nat) : Nat := 8192 * r + 256 * g + c

/-- The shadows of a list of casks, and whether every one could be read. -/
def readShadows : List Nat → State → Option (List LevelRows) × State
  | [], s => (some [], s)
  | c :: cs, s =>
    match readShadow none c s with
    | (none, s1) => (none, s1)
    | (some rows, s1) =>
      match readShadows cs s1 with
      | (some rs, s2) => (some (rows :: rs), s2)
      | r => r

/-- a_k: the sum of |w| over a column of a pattern. -/
def columnWeight (w5 : Bool) (rows : LevelRows) (j : Nat) : Nat := (rows.map fun row => (weightOn w5 row j).natAbs).sum

/-- ḡ of R222 from weights a_k and folds g_k: formed exactly, rounded once. -/
def meanFold (ag : List (Nat × Word)) : Word :=
  let den := (ag.map (·.1)).sum
  if den = 0 then one32 else ratWord (sumList (fun e => (e.1 : Int) * sval e.2) ag) (den * 2 ^ 149)

/-- The entries of a group computed from its record, its base values and its casks' shadows (R222). -/
def groupEntries (w5 : Bool) (cs : List (Nat × Bool)) (gs : List Word) (rows : List LevelRows) (base : List Byte) : List Word :=
  (List.range 256).map fun c =>
    let ag := (cs.zip rows).map fun e => columnWeight w5 e.2 (if e.1.2 then 256 + c else c)
    div32 (BitVec.ofNat 32 (leAt (4 * c) 4 base)) (meanFold (ag.zip gs))

/-- A group whose record is unusable: EV_QT_CONFIG (R222). -/
def groupBad (r a : Nat) (s : State) : State := raiseEvent 0x0505 r 1 a none s

/-- A group refolded into the staged bank (R222). DESIGN CHOICE: where its base-plane entries cannot be read, it keeps its staged entries, with the
events of the failed read alone (log entry 54). -/
def foldGroup (early : Bool) (r : Nat) (s : State) (g : Nat) : State :=
  let a := groupAddr r g s
  match readDram a 256 none s with
  | (.ok bs, s) =>
    if !groupUsable bs then groupBad r a s
    else if groupN bs = 0 then s
    else
      let cs := contribs bs
      match readDram (rpair .RS_BASE_LO .RS_BASE_HI 0 s + 4 * crtKey r g 0) 1024 none s with
      | (.ok base, s) =>
        match readShadows (cs.map (·.1)) s with
        | (some rows, s) =>
          let es := groupEntries (decide (byteAt 1 bs = 1)) cs (cs.map fun e => gFold early e.1 s) rows base
          { s with quant := { s.quant with crtStaged := Store.setN one32 (crtKey r g 0) es s.quant.crtStaged } }
        | (none, s) => s
      | (_, s) => s
  | (_, s) => groupBad r a s

/-- The match gain of a cask of a rack staged (R162). -/
def foldGain (early : Bool) (r : Nat) (s : State) (k : Nat) : State :=
  let c := 16 * r + k
  if (getCask c s).racked && (getCask c s).fitted then
    { s with quant := { s.quant with gainStaged := Store.setD one32 c (gFold early c s) s.quant.gainStaged } }
  else s

/-- A rack's groups and match gains refolded into the staged bank, with the quadrant temperatures they are folded with (R147, R222,
R223). early: the result takes effect before the next frame or idle boundary (R153). -/
def foldRack (early : Bool) (r : Nat) (s : State) : State :=
  let s := drawFree ((List.range 16).foldl (foldGain early r) ((List.range 32).foldl (foldGroup early r) s))
  let temps := (List.range 4).foldl (fun m q => Store.setD 12800 (4 * r + q) (quadTemp q s) m) s.cellar.foldTemps
  { s with cellar := { s.cellar with foldTemps := temps } }

/-- The entries of a store in a range of keys, in place of those another store has there. -/
def takeRange {α : Type} (lo hi : Nat) (new old : Store α) : Store α :=
  (new.filter fun e => decide (lo ≤ e.1) && decide (e.1 < hi)).foldl (fun m e => Store.put e.1 e.2 m) (Store.clear lo hi old)

/-- A rack's groups and match gains refolded into both banks before the rack returns to service, from the fits in force (R153, R226). -/
def foldRackNow (s : State) (r : Nat) : State :=
  let s := foldRack true r s
  let q := s.quant
  { s with quant := { q with
    crt := takeRange (crtKey r 0 0) (crtKey (r + 1) 0 0) q.crtStaged q.crt
    gain := takeRange (16 * r) (16 * r + 16) q.gainStaged q.gain } }

/-- A rack's slice of both banks and its match gains at 1.0 (R226). -/
def unitBanks (r : Nat) (s : State) : State :=
  let q := s.quant
  { s with quant := { q with
    crt := Store.clear (crtKey r 0 0) (crtKey (r + 1) 0 0) q.crt
    crtStaged := Store.clear (crtKey r 0 0) (crtKey (r + 1) 0 0) q.crtStaged
    gain := Store.clear (16 * r) (16 * r + 16) q.gain
    gainStaged := Store.clear (16 * r) (16 * r + 16) q.gainStaged } }

/-- The COMMIT register of the rescale commit group (R224). -/
def rsCommit : RegRef := ⟨.RS_COMMIT, 0, 0⟩

/-- Racks whose groups wait for the refold of a racking, which is applied between two tiles (R224). -/
def askRackFold (rs : List Nat) (s : State) : State :=
  { s with quant := { s.quant with rackFold := s.quant.rackFold ++ rs.filter fun r => !s.quant.rackFold.contains r } }

/-- Whether the refolds of a cask's racking are made. -/
def rackingFolded (c : Nat) (s : State) : Bool := (racksOf c s).all fun r => !s.quant.rackFold.contains r && !s.quant.batch.contains r

/-- Whether every entry that a cask's fit enters is in force as last refolded. -/
def foldInForce (c : Nat) (s : State) : Bool :=
  (racksOf c s).all fun r => !s.quant.refold.contains r && !s.quant.batch.contains r && !s.quant.folded.contains r

/-- The cellarer's apply request of the rescale group, at once between tiles after racking, else at the next frame or idle boundary
(R224). -/
def requestRs (racking : Bool) (s : State) : State :=
  if applyPending rsCommit s then s else { s with applies := s.applies.put rsCommit.off ⟨!racking, false⟩ }

/-- The racks of the next batch of refolds: those that racking waits for, else every one that is asked for (R224, log entry 115). -/
def nextBatch (s : State) : List Nat := if s.quant.rackFold.isEmpty then s.quant.refold else s.quant.rackFold

/-! ### Racking entries and toppings that end -/

/-- A RACK_LOAD packet whose every entry has completed is done. -/
def planDone (p : PktId) (s : State) : State :=
  modPkt p (fun k => match k.work with
    | .plan _ n next => if decide (n ≤ next) && !(s.cellar.active.any fun e => decide (e.2.1 = p)) then { k with work := .done } else k
    | _ => k) s

/-- RESULT of a plan entry (Table 4.1). -/
def entryResult (c status : Nat) (s : State) : Nat :=
  if 4096 ≤ c then status
  else status + sparesUsed (remapWords c s) * 2 ^ 8 + (pinnedColumns (caskW5 c s) (pinWords c s)).length * 2 ^ 16

/-- A plan entry completes: the whole entry rewritten with RESULT, the RACK_ENTRY flag for a failure, a progress event (R117, R358,
R504). -/
def endEntry (c status a : Nat) (p : PktId) (e : List Byte) (s : State) : State :=
  let s := dramStore a (patchAt 16 (leBytes 4 (entryResult c status s)) (e.take 32)) s
  let s := if 2 ≤ status then pktFlag 29 (some p) s else s
  let s := { s with cellar := { s.cellar with active := s.cellar.active.filter fun x => decide (x.1 ≠ c ∨ x.2.1 ≠ p) } }
  planDone p (ringProgress (some p) s)

/-- The entry in progress on a cask completes, and the cask is released (R122, R130). -/
def endRacking (c status : Nat) (s : State) : State :=
  match activeEntry c s with
  | some (_, p, a, e) => endEntry c status a p e (modCask c (fun k => { k with hold := none, prog := none }) s)
  | none => s

/-- A TOP_UP's work with the casks whose toppings have not ended. -/
def topUpWork (cs : List Nat) : OpWork := if cs.isEmpty then .done else .topUp cs

/-- The topping of a cask has ended: no TOP_UP packet waits for it, and one that waits for none is done. -/
def topUpOver (c : Nat) (s : State) : State :=
  { s with rings := s.rings.mapV fun _ r => { r with pkts := r.pkts.map fun p =>
      match p.work with
      | .topUp cs => { p with work := topUpWork (cs.filter (· ≠ c)) }
      | _ => p } }

/-- A cask's topping is over: it is released and tasted at the next point; where its new fit has made a topping due again, that one is
another (R149, R153, R180). -/
def endTopping (c : Nat) (s : State) : State :=
  topUpOver c (modCask c (fun k => { k with hold := none, prog := none, fitWas := none, tasteDue := true }) s)

/-- A topping that is due or in progress ends or is not started, and its credit returns (R154). -/
def cancelTopping (c : Nat) (s : State) : State :=
  let k := getCask c s
  let mine := k.topping
  let s := if mine then vppSend c s else s
  let s := if mine then { s with ledger := { s.ledger with vppQueue := s.ledger.vppQueue.filter (· ≠ c) } } else s
  if k.topDue || mine then
    topUpOver c (modCask c (fun k => { k with
      topDue := false
      thenTop := false
      fitWas := none
      failed := if mine then [] else k.failed
      prog := if mine then none else k.prog
      hold := if mine then none else k.hold }) s)
  else s

/-- Program cycles added to a cask, with EV_ENDURANCE where they reach 72,000 eighths (R155). -/
def addCycles (c n : Nat) (s : State) : State :=
  let old := (getCask c s).cycles8
  let s := modCask c (fun k => { k with cycles8 := k.cycles8 + n }) s
  if decide (old < 72000) && decide (72000 ≤ old + n) then raiseEvent 0x0304 c 0 (old + n) (cellarPkt c s) s else s

/-- The staged rescale bank and match gains put in force; racking entries whose refold it held end with it (R224, R225). -/
def applyRs (s : State) : State :=
  let s := endApply rsCommit (bumpGen rsCommit s)
  let ready := s.quant.rackWait.filter fun c => rackingFolded c s
  let s := { s with quant := { s.quant with
    crt := s.quant.crtStaged
    gain := s.quant.gainStaged
    copyDue := true
    folded := []
    rackWait := s.quant.rackWait.filter fun c => !ready.contains c } }
  ready.foldl (fun s c => modCask c (fun k => { k with incomplete := false, tasteDue := true }) (endRacking c 0 s)) s

/-- At a frame or idle boundary the topped casks whose new entries are in force are released (R153). -/
def releaseTopped (s : State) : State :=
  let tops := (s.casks.filter fun e => decide (e.2.hold = some .topWait) && foldInForce e.1 s).map (·.1)
  tops.foldl (fun s c => endTopping c s) s

end Sys2Proof.Machine
end

