-- ==== Sys2Proof/Machine/FrontEndOps.lean ====
section
/-! DEFINITION. What the position clock, the commit groups and the front end share: triggers of ADC sequences, the schedule of a pass,
DAC waveforms, and trigger outputs (R461 to R477). -/

namespace Sys2Proof.Machine

/-! ### ADC sequences (R461, R464, R465, R485) -/

/-- DAC channel n. -/
def getDac (n : Nat) (s : State) : Dac := Store.getD Dac.init n s.fe.dacs

/-- The state with DAC channel n changed by f. -/
def modDac (n : Nat) (f : Dac → Dac) (s : State) : State :=
  { s with fe := { s.fe with dacs := s.fe.dacs.put n (f (getDac n s)) } }

/-- Trigger output n. -/
def getTrig (n : Nat) (s : State) : Trig := Store.getD Trig.init n s.fe.trigs

/-- The state with trigger output n changed by f. -/
def modTrig (n : Nat) (f : Trig → Trig) (s : State) : State :=
  { s with fe := { s.fe with trigs := s.fe.trigs.put n (f (getTrig n s)) } }

/-- Whether the front end is powered (Table 16.2). -/
def feOn (s : State) : Bool := !domainIsOff 79 s

/-- Whether a calibration procedure holds every ADC pass (Table 14.1, R485). -/
def calHoldsAdc (s : State) : Bool :=
  match s.cal.run with
  | some r => r.holding && decide (r.scope ≠ 4)
  | none => false

/-- The regular or the injected sequence. -/
def getSeq (inj : Bool) (s : State) : Seq := if inj then s.fe.inj else s.fe.reg

/-- The state with a sequence changed by f. -/
def modSeq (inj : Bool) (f : Seq → Seq) (s : State) : State :=
  if inj then { s with fe := { s.fe with inj := f s.fe.inj } } else { s with fe := { s.fe with reg := f s.fe.reg } }

/-- The trigger register of a sequence. -/
def trigReg (inj : Bool) : RegName := if inj then .FE_INJ_TRIG else .FE_REG_TRIG

/-- SRC of a sequence: 1 timer, 2 PWM, 3 position, 4 software. -/
def trigSrc (inj : Bool) (s : State) : Nat := rfield (trigReg inj) 0 0 31 29 s

/-- The number of slots of a sequence. -/
def seqLen (inj : Bool) (s : State) : Nat := if inj then rfield .FE_ADC_CTRL 0 0 18 16 s else rfield .FE_ADC_CTRL 0 0 12 8 s

/-- Slot j of a sequence (Table 13.4). -/
def slotWord (inj : Bool) (j : Nat) (s : State) : Nat :=
  let w := rget (if inj then .FE_INJ_SLOT else .FE_REG_SLOT) 0 (j / 2) s
  if j % 2 = 1 then fieldOf 31 16 w else fieldOf 15 0 w

/-- The larger SAMPLE value of the slots of pair k; a last slot runs alone (R461). -/
def pairSample (inj : Bool) (k : Nat) (s : State) : Nat :=
  let a := bits 9 7 (slotWord inj (2 * k) s)
  if 2 * k + 1 < seqLen inj s then max a (bits 9 7 (slotWord inj (2 * k + 1) s)) else a

/-- Step clocks from the start of acquisition of a pair to its sampling instant: 100 ns and 250 ns for each SAMPLE (R461). -/
def acquireClocks (inj : Bool) (k : Nat) (s : State) : Nat := 20 + 50 * pairSample inj k s

/-- Where a pair that would start at a step clock starts, given the injected passes: one that begins before the pair has converted has the
pair converted again after it (R465). -/
def pairAfter (len : Nat) : List (Nat × Nat) → Nat → Nat
  | [], a => a
  | (g, d) :: gs, a => pairAfter len gs (if g < a + len && decide (a < g + d) then g + d else a)

/-- The step clocks at which the pairs from k on start, the last entry being the end of the pass. -/
def pairStarts (inj : Bool) (gaps : List (Nat × Nat)) (s : State) : Nat → Nat → Nat → List Nat
  | 0, _, a => [a]
  | n + 1, k, a =>
    let len := acquireClocks inj k s + 80
    let b := pairAfter len gaps a
    b :: pairStarts inj gaps s n (k + 1) (b + len)

/-- When the delay of a sequence's trigger ends (R464). -/
def delayEnd (inj : Bool) (s : State) : Nat := (getSeq inj s).trig + rfield (trigReg inj) 0 0 15 0 s

/-- The starts of the pairs of a sequence's pass, and its end. -/
def seqSchedule (inj : Bool) (s : State) : List Nat :=
  pairStarts inj (getSeq inj s).gaps s ((seqLen inj s + 1) / 2) 0 (delayEnd inj s)

/-- EV_ADC_OVERRUN, at most once per 100 µs (R464). -/
def overrun (inj : Bool) (s : State) : State :=
  let s := bump .FE_OVERRUNS 0 0 1 s
  let due := match s.fe.overrunEv with
    | some t => decide (t + 20000 ≤ s.now)
    | none => true
  if due then raiseEvent 0x0B09 0 inj.toNat 0 none { s with fe := { s.fe with overrunEv := some s.now } } else s

/-- A trigger of a sequence arrives: its delay begins; it is an overrun in the sequence's delay or pass, and is only counted while a
procedure holds the ADCs (R464, R485). -/
def trigger (inj : Bool) (s : State) : State :=
  let s := modSeq inj (fun q => { q with lastTrig := s.now }) s
  if calHoldsAdc s then bump .CAL_SKIPS 0 0 1 s
  else if (getSeq inj s).st ≠ 0 then overrun inj s
  else if rflag .FE_ADC_CTRL 0 0 31 s && decide (seqLen inj s ≠ 0) then
    modSeq inj (fun q => { q with st := 1, trig := s.now, gaps := [], redone := false }) s
  else s

/-- A trigger of every sequence whose source satisfies a condition. -/
def triggerFrom (p : Nat → Nat → Bool) (s : State) : State :=
  [false, true].foldl (fun s inj => if p (trigSrc inj s) (rfield (trigReg inj) 0 0 27 24 s) then trigger inj s else s) s

/-! ### Trigger outputs (R476, R477) -/

/-- MODE in force of a trigger output. -/
def trigMode (n : Nat) (s : State) : Nat := rfield .FE_PWM_CFG 0 n 1 0 s

/-- The level of a trigger output's pin: POL = 1 makes the output active low (R476); every device reset drives it low (R477). -/
def trigPin (n : Nat) (s : State) : Bool := xor (getTrig n s).active (rflag .FE_PWM_CFG 0 n 2 s)

/-- A trigger output goes active, until B step clocks have passed; its active edge triggers the sequences that take it (R464, R476). -/
def pulse (n : Nat) (s : State) : State :=
  let edge := !(getTrig n s).active
  let s := modTrig n (fun t => { t with active := true, pulseEnd := s.now + (rget .FE_PWM_B 0 n s).toNat }) s
  if edge then triggerFrom (fun src sel => decide (src = 2) && decide (sel = n)) s else s

/-- Pulses of an output lost: EV_PWM_MISS, at most once per 100 µs for each output (R476). -/
def missPulses (n k : Nat) (s : State) : State :=
  let due := match (getTrig n s).missEv with
    | some t => decide (t + 20000 ≤ s.now)
    | none => true
  if k ≠ 0 && due then raiseEvent 0x0B0F n 0 k none (modTrig n (fun t => { t with missEv := some s.now }) s) else s

/-- A pulse due in mode 2 or 3, lost while the output is active (R476). -/
def pulseOrMiss (n lost : Nat) (s : State) : State :=
  if (getTrig n s).active then missPulses n (lost + 1) s else missPulses n lost (pulse n s)

/-- A mode-1 output starts a period, active for its first B step clocks (R476). -/
def startPeriod (n : Nat) (s : State) : State :=
  let s := modTrig n (fun t => { t with periodStart := s.now }) s
  if rget .FE_PWM_B 0 n s = 0 then s else pulse n s

/-- The mode of a trigger output begins: the period of mode 1, the target of mode 2 at H + A (R476). -/
def beginTrig (n : Nat) (s : State) : State :=
  let s := modTrig n (fun t => { t with active := false }) s
  match trigMode n s with
  | 1 => startPeriod n s
  | 2 => modTrig n (fun t => { t with target := s.pos.high + (rget .FE_PWM_A 0 n s).toNat }) s
  | _ => s

/-- A mode-2 output after H has moved: a pulse where H has reached the target, and the target above H again (R476). A pitch of 0
never gives a pulse: no rule says where its target goes (log entry 37). -/
def positionTrig (n : Nat) (s : State) : State :=
  let a := (rget .FE_PWM_A 0 n s).toNat
  let t := (getTrig n s).target
  if trigMode n s = 2 && decide (0 < a) && decide (t ≤ s.pos.high) then
    let k := ((s.pos.high - t) / (a : Int)).toNat + 1
    pulseOrMiss n (k - 1) (modTrig n (fun x => { x with target := t + k * a }) s)
  else s

/-! ### DAC channels (R469 to R475) -/

/-- MODE of a DAC channel. -/
def dacMode (n : Nat) (s : State) : Nat := rfield .FE_DAC_CTRL 0 n 1 0 s

/-- A DAC fault: FAULT and CAUSE, and the output of ACTION from this step clock on (R475). -/
def dacFault (n cause detail : Nat) (s : State) : State :=
  let act := rfield .FE_DAC_CTRL 0 n 7 6 s
  let s := modDac n (fun d => { d with
    fault := true
    faultAt := some s.now
    cause := cause
    misses := 0
    hiZ := if act = 2 then true else if act = 1 then !d.defaultOk else d.hiZ
    out := if act = 1 && d.defaultOk then d.defaultCode else d.out }) s
  raiseEvent 0x0B0E n cause detail none s

/-- The front end after a reset or power-up: DAC outputs high-impedance, trigger outputs inactive, sequences at rest, table 1 kept by no
rule (R470, R477, R533; log entry 13). -/
def feReset (s : State) : State := { s with fe := Fe.init }

/-- A DAC channel's default loaded from configuration NVM, or found bad (R470). -/
def loadDefault (n : Nat) (s : State) : State :=
  match nthD none n s.pm.dacDefaults with
  | some v => modDac n (fun d => { d with defaultCode := v, defaultOk := true }) s
  | none => raiseEvent 0x0B0E n 2 0 none (modDac n (fun d => { d with fault := true, faultAt := some s.now, cause := 2 }) s)

end Sys2Proof.Machine
end

