-- ==== Sys2Proof/Machine/Programming.lean ====
section
/-! DEFINITION. Programming by pulse and verify: the windows, the rows, the retry, the preparation of spares (R110, R123 to R126, R138 to
R141, R152). -/

namespace Sys2Proof.Machine

/-! ### Verify windows (R123) -/

/-- Whether a cell of a level reads below its window; v in 1/1,000 level. -/
def belowWindow (level : Nat) (v : Int) : Bool := decide (1 ≤ level) && decide (v < 1000 * level - 150)

/-- Whether a cell of a level reads above its window: a cell at level 0 above 0.01 level. -/
def aboveWindow (level : Nat) (v : Int) : Bool := if level = 0 then decide (10 < v) else decide ((1000 * level - 50 : Int) < v)

/-- The level that a cell of a row is programmed to, by 2 pair + (1 for the negative cell). -/
def cellTarget (remap : List Word) (row : List Int) (x : Nat) : Nat := cellLevel (pairLevel remap row (x / 2)) (decide (x % 2 = 1))

/-! ### One row (R124, R125, R152) -/

/-- Programming at its first row. -/
def Prog.start (kind : ProgKind) : Prog := ⟨kind, 0, false, 0, [], [], false, false, [], [], none, [], false⟩

/-- The cells that a programming reaches on a row: all of them, or those of the spare that is prepared. -/
def Prog.cells (p : Prog) : List Nat :=
  match p.kind, p.spare with
  | .spare, some (k, _) => [2 * (516 + k), 2 * (516 + k) + 1]
  | .spare, none => []
  | _, _ => List.range 1064

/-- A row not begun. -/
def Prog.fresh (p : Prog) : Prog := { p with cycles := 0, below := [], above := [], reading := false, cut := false }

/-- A row begun: in a topping with one verify read, else with a pulse on every cell that is to conduct (R124, R152); a row that was cut off
has been erased, and is pulsed (R530). -/
def Prog.opened (target : Nat → Nat) (p : Prog) : Prog :=
  if p.reading then p
  else { p with
    reading := true
    cut := false
    cycles := if p.kind = .top && !p.cut then 0 else 1
    below := (p.cells.filter fun x => decide (0 < target x)).map fun x => (x, 0) }

/-- The verify read of a row: cells that reached their window are inhibited, cells above it are failed at once (R123, R125). A cell that
the read does not list reads inside its window. -/
def Prog.verify (target : Nat → Nat) (reads : List (Nat × Int)) (p : Prog) : Prog :=
  let mine := reads.filter fun e => p.cells.contains e.1
  let high := mine.filter fun e => aboveWindow (target e.1) e.2
  let low := p.below.filterMap fun x => mine.find? fun e => decide (e.1 = x.1) && belowWindow (target e.1) e.2
  { p with below := low, above := p.above.filter (fun e => !high.any fun h => decide (h.1 = e.1)) ++ high }

/-- The cells of a row that end outside their window, each at its last read level rounded up (R125, R127). -/
def Prog.outside (target : Nat → Nat) (p : Prog) : List CellFail :=
  (p.above ++ p.below).map fun e => ⟨p.row, e.1 / 2, decide (e.1 % 2 = 1), ceilDiv e.2.toNat 1000, aboveWindow (target e.1) e.2⟩

/-- After a verify read: another pulse while cells stay below their window and cycles are left, else the second attempt of a racked row
that has cells outside, else the next row (R124, R125). -/
def Prog.next (max : Nat) (target : Nat → Nat) (p : Prog) : Prog :=
  if !p.below.isEmpty && decide (p.cycles < max) then { p with cycles := p.cycles + 1 }
  else if decide (p.kind = .rack) && !p.second && !(p.above ++ p.below).isEmpty then { p.fresh with second := true }
  else { p.fresh with
    row := p.row + 1
    second := false
    fails := p.fails ++ p.outside target
    pulses := p.pulses ++ [p.cycles] }

/-- Whether a cell reads above level 15.5 on a row's second attempt (R126). -/
def Prog.overConducts (reads : List (Nat × Int)) (p : Prog) : Bool :=
  decide (p.kind = .rack) && p.second && p.reading && reads.any fun e => p.cells.contains e.1 && decide (15500 < e.2)

/-! ### Spares (R138, R139, R141) -/

/-- The spares that failed: while they were prepared, or as unused cells of a racking. -/
def Prog.badSpares (p : Prog) : List Nat := p.fails.filterMap fun f => if 516 ≤ f.pair then some (f.pair - 516) else none

/-- The failed weight and checksum pairs of a racking. -/
def Prog.failedPairs (p : Prog) : List Nat := p.fails.filterMap fun f => if f.pair < 514 then some f.pair else none

/-- The lowest-numbered spare that a plan newly gives to a pair and that is not prepared for it. -/
def Prog.nextSpare (base plan : Plan) (p : Prog) : Option (Nat × Nat) :=
  (List.range 16).findSome? fun k =>
    match remapTarget (nthD 0 k plan.remap) with
    | some q => if nthD 0 k plan.remap ≠ nthD 0 k base.remap && !p.ready.contains (k, q) then some (k, q) else none
    | none => none

/-- Rows that are done: the spare they prepared is ready unless a cell of it failed. -/
def Prog.rowsDone (p : Prog) : Prog :=
  match p.kind, p.spare with
  | .spare, some x => if p.badSpares.contains x.1 then { p with spare := none } else { p with spare := none, ready := p.ready ++ [x] }
  | _, _ => p

/-- The preparation of the next spare that a plan needs, one at a time; none is left once every spare of the plan is ready. -/
def Prog.prepare (base : Plan) (pairs : List Nat) (p : Prog) : Prog :=
  let p := p.rowsDone
  match p.nextSpare base (Plan.repairAll p.badSpares pairs base) with
  | some x => { p.fresh with kind := .spare, row := 0, second := false, spare := some x }
  | none => p

/-- The remap entries that the targets of a spare's cells are taken with. -/
def Prog.spareMap (p : Prog) : List Word :=
  match p.spare with
  | some (k, q) => setNth k (BitVec.ofNat 32 (2 ^ 31 + q)) (List.replicate 16 0)
  | none => List.replicate 16 0

/-! ### One cycle (R110, R124) -/

/-- The target levels of a programming: from the rows of a pattern, through the remap entries in force or those of its spare. -/
def Prog.targets (remap : List Word) (rows : LevelRows) (p : Prog) : Nat → Nat :=
  cellTarget (if p.kind = .spare then p.spareMap else remap) (nthD [] p.row rows)

/-- The verify read that is out judged, and what it calls for. -/
def Prog.judge (max : Nat) (remap : List Word) (rows : LevelRows) (reads : List (Nat × Int)) (p : Prog) : Prog :=
  if p.reading then (p.verify (p.targets remap rows) reads).next max (p.targets remap rows) else p

/-- A verify read: one row driven, one credit asked for in the quadrant's VDDA pool (R110). -/
def verifyReq (row : Nat) : SliceReq :=
  ⟨0, 0, 0, 0, false, (List.range 512).map (fun i => if i = row then 1 else 0), [⟨row / 64, [row], 5⟩], 1, none⟩

/-- A pulse given, or a topping's first look at its row: the verify read that follows is posted (R110, R124, R152). -/
def progPulse (c : Nat) (remap : List Word) (rows : LevelRows) (p : Prog) (s : State) : State :=
  let p := p.opened (p.targets remap rows)
  post c (verifyReq p.row) (modCask c (fun k => { k with prog := some p }) s)

/-- The largest pulse count of a row at its latest programming. -/
def Prog.pulsesOf (p : Prog) (i : Nat) : Nat := nthD 0 i p.pulses

/-! ### Cold erase and the grant of a credit (R108, R109, R543) -/

/-- A cask of a cold erase that holds its credit is erased once VPP is up, and returns it; with the last one the device digest is cleared
(R109, R530, R542, R543). -/
def coldEraseOne (c : Nat) (s : State) : State :=
  if (getCask c s).hold = some .erase ∧ s.ledger.vppHeld.contains c ∧ (vppSentAt c s).isNone ∧ s.pm.vppOk then
    let s := modCask c (fun k => { k with hold := none, inReset := k.inReset && resettingWhere (·.coversCask c) s }) (vppSend c (eraseCask c s))
    if s.casks.any fun e => decide (e.2.hold = some .erase) then s
    else { s with cellar := { s.cellar with digest := List.replicate 48 0 } }
  else s

/-- VPP_GRANT: the cask that has waited longest takes a programming credit, while fewer than LIMIT are held (R108, R109). -/
def execVppGrant (s : State) : Host.Outcome State Fault Refusal :=
  .next (match s.ledger.vppQueue with
    | [] => s
    | c :: rest =>
      if s.ledger.vppHeld.length < rfield .LG_VPP_LIMIT 0 0 6 0 s && !s.ledger.vppHeld.contains c then
        coldEraseOne c (holdForRacking c { s with ledger := { s.ledger with vppQueue := rest, vppHeld := s.ledger.vppHeld ++ [c] } })
      else s)

end Sys2Proof.Machine
end

