-- ==== Sys2Proof/Machine/Racking.lean ====
section
/-! DEFINITION. The cellarer's commands on casks: reference reads, racking, diagnosis, remap and pin, topping, the shadow base, the
temperature sample, refolds and the bank copy (R79, R117 to R156, R220 to R226, R565). -/

namespace Sys2Proof.Machine

/-! ### Reference reads (R79, R144) -/

/-- Whether the cellarer may start a reference read of a cask: nothing in progress, and in its reset, quiesced, held for it, or with an
empty queue (R79, R134, R144). -/
def mayRefRead (c : Nat) (s : State) : Bool :=
  let k := getCask c s
  k.racked && !(k.inReset && k.incomplete) && k.quiet && s.pm.fwReady && !frozenWhere (·.coversCask c) s &&
    !resettingWhere (·.coversCask c) s && caskUp c s &&
    (k.inReset || match k.hold with
      | some .refRead => true
      | some .domain => true
      | some _ => false
      | none => rflag .CK_CTRL c 0 0 s || k.queue.isEmpty)

/-- A reference read that is over: its sums recorded, the fit made with what it calls for, the cask released from a reset or a hold that
waited for it (R79, R134, R144 to R149, R533). -/
def endRef (c id : Nat) (a b : Int) (s : State) : State :=
  let s := refRead c a b (modCask c (fun k => k.endProbe id) s)
  let free := fun (k : Cask) => decide (k.hold = some .refRead) || decide (k.hold = some .domain)
  modCask c (fun k => { k with inReset := false, hold := if free k then none else k.hold }) s

/-- Whether the reference read in progress on a cask is that of a racking or a topping, which records it itself (R145, R153). -/
def progFits (c : Nat) (s : State) : Bool :=
  match (getCask c s).prog with
  | some p => p.fit
  | none => false

/-- Whether a reference read belongs to work that records it itself: a racking, a topping, a calibration or the boot flow (R134, R145, R153,
R488). -/
def refKept (c : Nat) (s : State) : Bool := progFits c s || decide ((getCask c s).hold = some .cal) || !s.pm.fwReady

/-- REFERENCE_READ: the cellarer drives every row at level 8 under admission; once every pair is converted, the sums of the reference pairs
are recorded and fitted (R79, R94, R144 to R149). -/
def execReferenceRead (c : CaskId) (s : State) : Host.Outcome State Fault Refusal :=
  .next (match refResult (getCask c.val s) with
    | some (id, a, b) => if refKept c.val s || frozenWhere (·.coversCask c.val) s then s else endRef c.val id a b s
    | none => if mayRefRead c.val s then startRef c.val s else s)

/-- REF_PERIOD_EXPIRY: a period has passed without a reference read of the cask, so one is due; the periods in succession in which its queue
was never found empty at an operation boundary are counted (R144). -/
def execRefPeriodExpiry (c : CaskId) (s : State) : Host.Outcome State Fault Refusal :=
  let k := getCask c.val s
  .next (if k.racked && decide (rfield .RK_REF_PERIOD 0 0 19 0 s * 200000 ≤ s.now - k.lastRef) then
      modCask c.val (fun k => { k with
        refMissed := if k.foundEmpty || k.standsEmpty then 0 else k.refMissed + 1
        foundEmpty := false
        lastRef := s.now }) s
    else s)

/-! ### Racking plans (R117 to R121) -/

/-- Whether a plan entry is well formed (R119, check 1). -/
def entryFormed (e : List Byte) (s : State) : Bool :=
  let src := leAt 0 8 e
  decide (leAt 8 2 e ≤ 4095) && decide (byteAt 10 e ≤ 1) && decide (src % 4096 = 0) && decide (src + 0x40000 ≤ usable s) &&
    decide (byteAt 11 e ≤ 1) && (e.drop 20).all fun b => decide (b = 0)

/-- Whether an entry must wait before it is looked at: the cask is worked on for an earlier entry of the same plan (R120), or the
cellarer holds it for other work than racking and topping (R488). -/
def entryWaits (c : Nat) (p : PktId) (s : State) : Bool :=
  (match activeEntry c s with
    | some (_, q, _, _) => decide (q = p)
    | none => false) ||
  (match (getCask c s).hold with
    | none => false
    | some .racking => false
    | some .topping => false
    | some .topWait => false
    | some _ => true)

/-- The shadow of a cask written anew from its source, with everything the cellarer keeps beside it (R121, R128, R170, R178). The pulse
counts of its rows are not known and are left free. -/
def restoreShadow (c : Nat) (w5 : Bool) (rows : LevelRows) (s : State) : State :=
  let remap := remapWords c s
  let pin := pinWords c s
  let ents := (List.range 512).map fun i => rowEnt c i s
  let s := putRecords c rows ents (fun i => (Config.freeWord (s.freeCtr + i)).toNat) (putEntries c w5 remap pin rows s)
  let s := putTaste c w5 rows (putResid c pin rows { s with freeCtr := s.freeCtr + 512 })
  modCask c (fun k => { k with shadowOk := true }) s

/-- A source block that has passed its checks: the entry is skipped, refused, or its racking starts (R119 to R122, R154). DESIGN CHOICE: only an
entry whose racking starts ends a topping due or in progress (R154, log entry 148). -/
def rackSource (c a : Nat) (p : PktId) (e src : List Byte) (s : State) : State :=
  let w5 := decide (byteAt 10 e = 1)
  let ws := sourceWeights w5 src
  let k := getCask c s
  if ws.any fun w => decide (weightLimit w5 < w.natAbs) then endEntry c 2 a p e s
  else if 80000 ≤ k.cycles8 then endEntry c 6 a p e s
  else if (activeEntry c s).isSome || domainIsOff (rackDomain (c / 16)) s then endEntry c 7 a p e s
  else
    let rows := levelRows w5 ws
    if bitAt 0 (byteAt 11 e) && k.racked && decide (k.digest = caskDigest w5 rows) then
      endEntry c 1 a p e (restoreShadow c w5 rows s)
    else
      let s := vppAsk c (cancelTopping c s)
      { s with cellar := { s.cellar with active := s.cellar.active ++ [(c, p, a, e ++ src)] } }

/-- A plan entry that was read: its checks in order (R119). -/
def rackChecks (a : Nat) (p : PktId) (e : List Byte) (s : State) : State :=
  let c := leAt 8 2 e
  if !entryFormed e s then endEntry c 8 a p e s
  else if !shadowFits c s then endEntry c 9 a p e s
  else match readDram (leAt 0 8 e) 0x40000 (some p) s with
    | (.ok src, s) => rackSource c a p e src s
    | (.bus, s) => endEntry c 3 a p e s
    | (.badSeal, s) => endEntry c 3 a p e (pktFlag 28 (some p) s)

/-- RACK_ENTRY: the next entry of a plan is checked, and its racking starts or it ends with its status (R117 to R122). -/
def execRackEntry (n : RingId) (i : Index) (k : Nat) (s : State) : Host.Outcome State Fault Refusal :=
  let p : PktId := ⟨n, i⟩
  .next (match (findPkt p s).map Pkt.work with
    | some (.plan a cnt next) =>
      let at' := a + 32 * k
      if k ≠ next ∨ cnt ≤ k ∨ rflag .RK_CTRL 0 0 8 s ∨ entryWaits (leAt 8 2 (peek at' 32 s)) p s then s
      else
        let s := modPkt p (fun x => { x with work := .plan a cnt (k + 1) }) s
        match readDram at' 32 (some p) s with
        | (.ok e, s) => rackChecks at' p e s
        | (r, s) => planDone p (busOf r (some p) s)
    | _ => s)

/-! ### Programming (R122 to R127, R139, R140) -/

/-- Whether a cask may be pulsed now: it holds a credit it has not sent back, nothing is in progress on it, VPP is up. -/
def mayProgram (c : Nat) (s : State) : Bool :=
  s.ledger.vppHeld.contains c && !(s.ledger.vppSent.any fun e => decide (e.1 = c)) && (getCask c s).quiet && s.pm.vppOk &&
    !frozenWhere (·.coversCask c) s && !domainIsOff (rackDomain (c / 16)) s

/-- The limit of pulses and verify reads of a row's attempt. -/
def maxPulses (s : State) : Nat := rfield .RK_LIMITS 0 0 5 0 s

/-- A racking that ends with the cask erased (R126, R140). -/
def endErased (c status : Nat) (s : State) : State :=
  endRacking c status (vppSend c (addCycles c 8 (newDigestRacked (eraseCask c s))))

/-- The match gain of a cask at 1.0 in both banks (R162). -/
def unitGain (c : Nat) (s : State) : State :=
  { s with quant := { s.quant with gain := s.quant.gain.drop c, gainStaged := s.quant.gainStaged.drop c } }

/-- The cask's cells and configuration as racking leaves them. -/
def rackCells (c : Nat) (w5 : Bool) (rows : LevelRows) (ents : List RowEnt) (plan : Plan) (s : State) : State :=
  let s := rset .CK_CONFIG c 0 (setFlag 0 w5 (resetWord .CK_CONFIG)) s
  let s := remapChecks c (bumpGen ⟨.CK_REMAP_COMMIT, c, 0⟩ (setMap c plan.remap plan.pin s))
  let weights := (rows.flatMap id).filter fun l => decide (l ≠ 0)
  saveCells c (modCask c (fun k => { k with
    racked := true
    chkLost := plan.chkLost
    retired := plan.retired
    digest := caskDigest w5 rows
    rows := Store.setN ⟨0, 0⟩ 0 ents []
    levels := programmed plan.remap rows
    lSum := (weights.map Int.natAbs).sum
    lCnt := weights.length
    shadowOk := true }) s)

/-- Racking has programmed its last row: cells, shadow, digests, row table and tables are written, the credit goes back, and the reference
read follows (R127 to R132, R145, R155, R169, R178). -/
def endRows (c : Nat) (w5 : Bool) (rows : LevelRows) (plan : Plan) (p : Prog) (s : State) : State :=
  let ents := rowTable plan.remap plan.pin p.fails rows
  let s := rackCells c w5 rows ents plan s
  let s := putEntries c w5 plan.remap plan.pin rows s
  let s := putRecords c rows ents p.pulsesOf s
  let s := unitGain c (putTaste c w5 rows (putResid c plan.pin rows s))
  let s := if plan.chkLost then raiseEvent 0x0302 c 0 0 (cellarPkt c s) s else s
  let s := vppSend c (addCycles c 8 (newDigestRacked s))
  startRef c (modCask c (fun k => { k with prog := some { p with fit := true } }) s)

/-- Racking ends with its fit, taken as g0 and o0; the cask stays held until its refold is in force (R130, R145, R224). -/
def endRacked (c id : Nat) (a b : Int) (s : State) : State :=
  let s := recordZero c (recordRef c a b (modCask c (fun k => { k.endProbe id with prog := none }) s))
  let s := evaluate c (askRackFold (racksOf c s) s)
  { s with quant := { s.quant with rackWait := s.quant.rackWait ++ [c] } }

/-- A remap group with no entry, no pin and no retired spare. -/
def Plan.empty : Plan := ⟨List.replicate 16 0, List.replicate 16 0, 0, false⟩

/-- The rows and spares of a racking are programmed: the cask is racked, or erased for its pins (R138 to R140).
Pins beyond PIN_LIMIT raise one EV_PIN, which names the first column beyond the limit: DESIGN CHOICE, log entry 116. -/
def rackPlanned (c : Nat) (w5 : Bool) (rows : LevelRows) (p : Prog) (s : State) : State :=
  let plan := Plan.repairAll p.badSpares p.failedPairs Plan.empty
  let cols := pinnedColumns w5 plan.pin
  let limit := rfield .RK_LIMITS 0 0 15 8 s
  if limit < cols.length then endErased c 4 (raiseEvent 0x0301 c 0 (nthD 0 limit cols) (cellarPkt c s) s)
  else endRows c w5 rows plan p s

/-- A cycle of a racking: the read that is out judged, and a pulse, the next spare, or the end. -/
def rackingCycle (c : Nat) (w5 : Bool) (rows : LevelRows) (reads : List (Nat × Int)) (p : Prog) (s : State) : State :=
  let p := p.judge (maxPulses s) Plan.empty.remap rows reads
  let p := if p.row < 512 then p else p.prepare Plan.empty p.failedPairs
  if p.row < 512 then progPulse c Plan.empty.remap rows p s else rackPlanned c w5 rows p s

/-- The start of a racking: the cask is held, and every cell erased; no topping of it is due any longer (R122, R124, R132, R133, R154). -/
def startRacking (c : Nat) (s : State) : State :=
  newDigestRacked (topUpOver c (modCask c (fun k => { k with hold := some .racking, incomplete := true }) (eraseCask c s)))

/-- A held cask programmed one cycle further for its plan entry. -/
def programCask (c : Nat) (e : List Byte) (reads : List (Nat × Int)) (s : State) : State :=
  let w5 := decide (byteAt 10 e = 1)
  let rows := levelRows w5 (sourceWeights w5 (e.drop 32))
  match (getCask c s).prog with
  | none => rackingCycle c w5 rows reads (Prog.start .rack) (startRacking c s)
  | some p => if p.overConducts reads then endErased c 5 s else rackingCycle c w5 rows reads p s

/-- CASK_PROGRAM: a cask that holds a programming credit for a racking entry is erased and programmed row by row, one pulse and verify read
each time; spares follow, then the reference read (R122 to R127, R138 to R140, R145). reads: the cells of the row that the verify read
finds otherwise than inside their window, by 2 pair + (1 for the negative cell), in 1/1,000 level (log entry 5). -/
def execCaskProgram (c : CaskId) (reads : List (Nat × Int)) (s : State) : Host.Outcome State Fault Refusal :=
  let k := getCask c.val s
  .next (match activeEntry c.val s with
    | some (_, _, _, e) =>
      if decide (k.hold = some .racking) && progFits c.val s then
        match refResult k with
        | some (id, a, b) => if frozenWhere (·.coversCask c.val) s then s else endRacked c.val id a b s
        | none => s
      else if (decide (k.hold = some .racking) || k.hold.isNone) && mayProgram c.val s then programCask c.val e reads s
      else s
    | none => s)

/-! ### Diagnosis, remap and pin (R137 to R141) -/

/-- Whether a read of one cell fails its pair: more than 0.5 level from g × L + o (R137). v in 1/1,000 level. -/
def readFails (k : Cask) (level : Nat) (v : Int) : Bool :=
  decide (16384000 < (32768 * v - 1000 * k.gainSum * level - 4000 * k.offsetSum).natAbs)

/-- The used pairs that a diagnosis read finds failed. reads: the cells that read otherwise than their fit says, by
1,064 row + 2 pair + (1 for the negative cell). -/
def diagnosed (c : Nat) (reads : List (Nat × Int)) (s : State) : List Nat :=
  let k := getCask c s
  let bad := (reads.filter fun e =>
    let p := e.1 % 1064 / 2
    decide (e.1 < 544768) && pairUsed (remapWords c s) (pinWords c s) p &&
      readFails k (cellLevel (k.level (e.1 / 1064) p) (decide (e.1 % 2 = 1))) e.2).map fun e => e.1 % 1064 / 2
  (List.range 532).filter bad.contains

/-- A cask whose diagnosis or remap is over: its topping follows where one was due at the same boundary, else it is released and tasted at
the next point (R141, R176, R181). -/
def afterRepair (c : Nat) (s : State) : State :=
  let k := getCask c s
  if k.thenTop && k.topDue && k.shadowOk && !rflag .RK_CTRL 0 0 8 s && (activeEntry c s).isNone then
    vppAsk c (modCask c (fun k => { k with hold := some .topping, topDue := false, thenTop := false, failed := [], prog := none, tasteDue := true }) s)
  else modCask c (fun k => { k with hold := none, thenTop := false, failed := [], prog := none, tasteDue := true }) s

/-- DIAGNOSIS_READ: the held cask is read; failed pairs call for a remap or pin, else the cask is released (R137, R176, R181). A remap does
not start under RK_CTRL.QUIESCE: the diagnosis then stays due. DESIGN CHOICE: it makes no topping due (R149, log entry 150). reads: in 1/1,000 level (log entry 5). -/
def execDiagnosisRead (c : CaskId) (reads : List (Nat × Int)) (s : State) : Host.Outcome State Fault Refusal :=
  let k := getCask c.val s
  .next (if decide (k.hold = some .diagnosis) && k.quiet then
      let f := diagnosed c.val reads s
      if f.isEmpty then afterRepair c.val (modCask c.val (fun k => { k with diagDue := false }) s)
      else if rflag .RK_CTRL 0 0 8 s then modCask c.val (fun k => { k with hold := none, thenTop := false }) s
      else vppAsk c.val (modCask c.val (fun k => { k with hold := some .remap, diagDue := false, failed := f }) s)
    else s)

/-- The pulse count in row record i of a shadow's records. -/
def recordPulses (bs : List Byte) (i : Nat) : Nat := bits 31 26 (leAt (8 * i + 4) 4 bs)

/-- A row table entry after a remap: what the pattern under the new group gives, with what failed cells had added to the old entry. -/
def remapEntry (old old' new : RowEnt) : RowEnt :=
  ⟨if old'.ceil < old.ceil then max new.ceil old.ceil else new.ceil, min 7980 (new.sum + old.sum - old'.sum)⟩

/-- The remap group of a cask as it stands. -/
def planNow (c : Nat) (s : State) : Plan := ⟨remapWords c s, pinWords c s, (getCask c s).retired, (getCask c s).chkLost⟩

/-- A held cask's failed pairs served by spares or pinned, in the order of R141: row table, remap group with its checks, shadow, cells. -/
def applyRemap (c : Nat) (p : Prog) (rows : LevelRows) (recs : List Byte) (s : State) : State :=
  let k := getCask c s
  let w5 := caskW5 c s
  let base := planNow c s
  let plan := Plan.repairAll p.badSpares k.failed base
  let tables := (rowTable base.remap base.pin [] rows).zip (rowTable plan.remap plan.pin [] rows)
  let ents := tables.zipIdx.map fun e => remapEntry (rowEnt c e.2 s) e.1.1 e.1.2
  let s := putResid c plan.pin rows s
  let s := modCask c (fun k => { k with rows := Store.setN ⟨0, 0⟩ 0 ents [] }) s
  let s := remapChecks c (bumpGen ⟨.CK_REMAP_COMMIT, c, 0⟩ (setMap c plan.remap plan.pin s))
  let s := putRecords c rows ents (recordPulses recs) (putEntries c w5 plan.remap plan.pin rows s)
  let s := saveCells c (modCask c (fun k => { k with
    levels := programmed plan.remap rows
    retired := plan.retired
    chkLost := plan.chkLost }) s)
  let s := if plan.chkLost && !k.chkLost then raiseEvent 0x0302 c 0 0 (cellarPkt c s) s else s
  let cols := (pinnedColumns w5 plan.pin).filter fun j => !pinnedColumn w5 base.pin j
  cols.foldl (fun s j => raiseEvent 0x0301 c 0 j (cellarPkt c s) s) s

/-- The end of a remap: the credit goes back, and the cask is released, or waits for the boundary of its topping (R141, R153). -/
def endRemap (c : Nat) (s : State) : State :=
  let s := vppSend c s
  if (getCask c s).hold = some .topRemap then
    modCask c (fun k => { k with failed := [], prog := none, hold := some .topWait, tasteDue := true }) s
  else afterRepair c s

/-- A cycle of a remap: the read that is out judged, and a pulse, the next spare, or the remap itself. -/
def remapCycle (c : Nat) (rows : LevelRows) (reads : List (Nat × Int)) (p : Prog) (s : State) : State :=
  let base := planNow c s
  let p := p.judge (maxPulses s) base.remap rows reads
  let p := if p.row < 512 then p else p.prepare base (getCask c s).failed
  if p.row < 512 then progPulse c base.remap rows p s
  else
    let who := cellarPkt c s
    match readDram (shadowAt c s + 0x40000) 4096 who s with
    | (.ok recs, s) => endRemap c (applyRemap c p rows recs s)
    | (_, s) => endRemap c (shadowFails c who s)

/-- REMAP_PIN: the cellarer prepares spares for a held cask, one row's pulse and verify read each time, rewrites its row table, applies its
remap group, updates its shadow and its cells, and releases it (R138 to R141). reads: as in CASK_PROGRAM. -/
def execRemapPin (c : CaskId) (reads : List (Nat × Int)) (s : State) : Host.Outcome State Fault Refusal :=
  let k := getCask c.val s
  .next (if (decide (k.hold = some .remap) || decide (k.hold = some .topRemap)) && mayProgram c.val s then
      match readShadow (cellarPkt c.val s) c.val s with
      | (some rows, s1) => remapCycle c.val rows reads (k.prog.getD { Prog.start .spare with row := 512 }) s1
      | (none, s1) => endRemap c.val s1
    else s)

/-! ### Topping (R151 to R155) -/

/-- The row records of a topped cask: a row that was pulsed has the pulse count of this programming (Table 4.6, log entry 117). -/
def topRecords (c : Nat) (rows : LevelRows) (p : Prog) (s : State) : State :=
  let who := cellarPkt c s
  match readDram (shadowAt c s + 0x40000) 4096 who s with
  | (.ok recs, s) =>
    putRecords c rows ((List.range 512).map fun i => rowEnt c i s)
      (fun i => if p.pulsesOf i = 0 then recordPulses recs i else p.pulsesOf i) s
  | (_, s) => shadowFails c who s

/-- Topping has passed its last row: its cycles are counted, failed pairs are noted, and the reference read follows (R152, R153, R155). -/
def endTopRows (c : Nat) (rows : LevelRows) (p : Prog) (s : State) : State :=
  let bad := (List.range 532).filter fun q =>
    pairUsed (remapWords c s) (pinWords c s) q && p.fails.any fun f => decide (f.pair = q)
  let s := addCycles c 1 (topRecords c rows p s)
  let s := if bad.isEmpty then vppSend c s else s
  startRef c (modCask c (fun k => { k with failed := bad, prog := some { p with fit := true } }) s)

/-- Topping ends with its fit, taken as g0 and o0; the cask waits for the boundary of its refold, or for a remap of the pairs that failed.
Until its release folds use the fit from before (R153). -/
def endTopped (c id : Nat) (a b : Int) (s : State) : State :=
  let wait := if (getCask c s).failed.isEmpty then Hold.topWait else .topRemap
  let was := fun (k : Cask) => { k.endProbe id with prog := none, fitWas := some (k.refA, k.refB, k.tFit) }
  let s := recordZero c (recordRef c a b (modCask c was s))
  let s := evaluate c (askRefold (racksOf c s) (modCask c (fun k => { k with outOfRange := false }) s))
  modCask c (fun k => { k with hold := some wait }) s

/-- A cycle of a topping: the read that is out judged, and a pulse or the next row's read, or the end. -/
def topCycle (c : Nat) (rows : LevelRows) (reads : List (Nat × Int)) (p : Prog) (s : State) : State :=
  let remap := remapWords c s
  let p := p.judge (maxPulses s) remap rows reads
  if p.row < 512 then progPulse c remap rows p s else endTopRows c rows p s

/-- TOPPING: a held cask with a credit is topped row by row, one verify read each time, then read and fitted; it stays held until the
boundary at which its refolded entries take effect, or until its failed pairs are served (R152, R153, R155). reads: as in CASK_PROGRAM. PULSES
of a pulsed row is written anew (DESIGN CHOICE, log entry 117). -/
def execTopping (c : CaskId) (reads : List (Nat × Int)) (s : State) : Host.Outcome State Fault Refusal :=
  let k := getCask c.val s
  .next (if decide (k.hold = some .topping) && progFits c.val s then
      match refResult k with
      | some (id, a, b) => if frozenWhere (·.coversCask c.val) s then s else endTopped c.val id a b s
      | none => s
    else if decide (k.hold = some .topping) && mayProgram c.val s then
      match readShadow (cellarPkt c.val s) c.val s with
      | (some rows, s1) => topCycle c.val rows reads (k.prog.getD (Prog.start .top)) s1
      | (none, s1) => endTopping c.val (vppSend c.val s1)
    else s)

/-! ### The shadow region and its rebuild (R128, R135, R136) -/

/-- What a cell reads as a level: the nearest integer to (read − o) / g (R135); a cell that the reads do not list reads as its fit says. v in
1/1,000 level. -/
def rebuiltLevel (k : Cask) (level : Nat) (v : Option Int) : Int :=
  match v with
  | some v => roundAway (32768 * v - 4000 * k.offsetSum) (1000 * k.gainSum).toNat
  | none => level

/-- The level of a logical pair on a row as a rebuild reads it, through the spare that serves it (R135). -/
def rebuiltPair (k : Cask) (remap : List Word) (reads : List (Nat × Int)) (i p : Nat) : Int :=
  let q := servedBy remap p
  let cell := fun (neg : Nat) =>
    let v := (reads.find? fun e => decide (e.1 = 1064 * i + 2 * q + neg)).map (·.2)
    rebuiltLevel k (cellLevel (k.level i q) (decide (neg = 1))) v
  cell 0 - cell 1

/-- The shadow of a racked cask rebuilt from its read levels, or lost (R135, R136). DESIGN CHOICE: it is lost also where its slice at RK_SHADOW does
not lie wholly below U, for nothing can be written there (log entry 147). -/
def rebuildCask (c : Nat) (reads : List (Nat × Int)) (s : State) : State :=
  let k := getCask c s
  let remap := remapWords c s
  if (pinWords c s).any (fun w => decide (w ≠ 0)) || decide (k.gainSum ≤ 0) || !shadowFits c s then loseShadow c none s
  else
    let rows := (List.range 512).map fun i => (List.range 512).map (rebuiltPair k remap reads i)
    let w5 := caskW5 c s
    if caskDigest w5 rows = k.digest then restoreShadow c w5 rows s else loseShadow c none s

/-- Every cask that waits for a rebuild rebuilt (R135). -/
def rebuildAll (s : State) : State :=
  s.cellar.rebuild.foldl (fun s e => rebuildCask e.1 e.2 s) { s with cellar := { s.cellar with rebuild := [] } }

/-- Every SHADOW_OK cleared, and a rebuild of every racked cask owed, with what its cells will read (R128). -/
def dropShadows (reads : Nat → List (Nat × Int)) (s : State) : State :=
  { s with
    casks := s.casks.mapV fun _ k => { k with shadowOk := false }
    cellar := { s.cellar with rebuild := (s.casks.filter fun e => e.2.racked).map fun e => (e.1, reads e.1) } }

/-- The rebuilds that are owed, where RK_CTRL.QUIESCE lets them start (Table 4.10). -/
def rebuildDue (s : State) : State := if rflag .RK_CTRL 0 0 8 s then s else rebuildAll s

/-- A write to RK_SHADOW_LO or RK_SHADOW_HI; one that takes effect clears every SHADOW_OK, and the rebuild at the new base follows, once
RK_CTRL.QUIESCE lets it start; one with the same value takes effect whether or not it is 1 (R6, R128, Tables 4.10, 4.12). -/
def shadowBaseSet (hi : Bool) (v : Word) (reads : List (Nat × Nat × Int)) (s : State) : State :=
  let n := if hi then RegName.RK_SHADOW_HI else .RK_SHADOW_LO
  let mine := fun c => reads.filterMap fun e => if e.1 = c then some e.2 else none
  if writeOk n 0 0 v s then rebuildDue (dropShadows mine (storeWrite n 0 0 v s)) else storeWrite n 0 0 v s

/-- SHADOW_BASE_WRITE (R128). reads: what the cells of the rebuild that follows read, as cask, cell and level (log entry 5). -/
def execShadowBaseWrite (hi : Bool) (v : Word) (reads : List (Nat × Nat × Int)) (s : State) : Host.Outcome State Fault Refusal :=
  .next (hostWrite (if hi then .RK_SHADOW_HI else .RK_SHADOW_LO) 0 0 (shadowBaseSet hi v reads) s)

/-! ### Temperature and the refold (R146, R147, R222 to R226, R565) -/

/-- Whether a quadrant's temperature has moved by more than 2 °C since a rack's last recomputation (R147). -/
def tempMoved (r q : Nat) (s : State) : Bool :=
  decide (1024 < (quadTemp q s - Store.getD 12800 (4 * r + q) s.cellar.foldTemps).natAbs)

/-- TEMP_SAMPLE: the sensors' readings in °C; the racks that a racked cask of a quadrant enters are refolded when the quadrant's temperature
has moved by more than 2 °C since the rack's last recomputation (R147). The drift model of R565 schedules extra reads only and changes
no result (log entry 31). -/
def execTempSample (temps : List Int) (s : State) : Host.Outcome State Fault Refusal :=
  let s := { s with cellar := { s.cellar with lastTemps := temps } }
  let racks := (s.casks.filter fun e => e.2.racked).flatMap fun e => (racksOf e.1 s).filter fun r => tempMoved r (e.1 / 1024) s
  .next (if racks.isEmpty then s else askRefold ((List.range 256).filter racks.contains) s)

/-- The batch of refolds in progress, or the one that starts now: none starts under RS_QUIESCE, while an apply is pending or while the bank
copy runs (R224, R225, Table 6.15). -/
def openBatch (s : State) : State :=
  if !s.quant.batch.isEmpty || rflag .QT_CTRL 0 0 8 s || applyPending rsCommit s || s.quant.copyDue then s
  else
    let racking := !s.quant.rackFold.isEmpty
    { s with quant := { s.quant with
      batch := nextBatch s
      forRack := racking
      rackFold := []
      refold := if racking then s.quant.refold else [] } }

/-- A rack of the batch folded; with the last one the cellarer makes its apply request (R222 to R224). -/
def foldBatch (r : Nat) (s : State) : State :=
  let s := foldRack s.quant.forRack r s
  let s := { s with quant := { s.quant with batch := s.quant.batch.filter (· ≠ r), folded := s.quant.folded ++ [r] } }
  if s.quant.batch.isEmpty then requestRs s.quant.forRack s else s

/-- REFOLD: a rack's groups and match gains are computed into the staged bank; with the last rack of the batch the cellarer makes its
apply request (R222 to R225). -/
def execRefold (r : Rack) (s : State) : Host.Outcome State Fault Refusal :=
  .next (if (openBatch s).quant.batch.contains r.val then foldBatch r.val (openBatch s) else s)

/-- BANK_COPY: the in-force bank is copied into the staged bank (R225). -/
def execBankCopy (s : State) : Host.Outcome State Fault Refusal :=
  .next (if s.quant.copyDue then
      { s with quant := { s.quant with crtStaged := s.quant.crt, gainStaged := s.quant.gain, copyDue := false } }
    else s)

/-- A write to RS_REFOLD; a host's is journaled (R223, R546). -/
def refoldSet (src : Source) (v : Word) (s : State) : State :=
  askRefold (if flagOf 31 v then List.range 256 else [fieldOf 7 0 v])
    (if src = .host then journal 2 0 0 (regOff .RS_REFOLD 0 0) 0 0 v s else s)

/-- RS_REFOLD_RACK: a write to RS_REFOLD with ALL 0 has the named rack's groups refolded (R223). -/
def execRsRefoldRack (v : Word) (s : State) : Host.Outcome State Fault Refusal :=
  .next (if flagOf 31 v then s else hostWrite .RS_REFOLD 0 0 (refoldSet .host v) s)

/-- RS_REFOLD_ALL: a write to RS_REFOLD with ALL 1 has every rack's groups refolded (R223). -/
def execRsRefoldAll (s : State) : Host.Outcome State Fault Refusal :=
  .next (hostWrite .RS_REFOLD 0 0 (refoldSet .host 0x80000000#32) s)

end Sys2Proof.Machine
end

