-- ==== Sys2Proof/Machine/Groups.lean ====
section
/-! DEFINITION. Commit groups in use: staging, apply requests, what an apply does in each block, and everything that takes effect at a
frame or idle boundary (R8 to R14, R81 to R83, R142, R224, R451, R455, R472, R477, R499). -/

namespace Sys2Proof.Machine

/-! ### What an apply does in each block -/

/-- A remap group applied: checked, then written to the configuration cells (R81, R83). The PIN and SPARE flags
of the cask's shadow stay as they are: DESIGN CHOICE, log entry 129. -/
def remapApply (c : RegRef) (host : Bool) (s : State) : State := startSaving c.unit (remapChecks c.unit (applyGroup c host s))

/-- Whether the position scale group that would apply is one R451 allows. -/
def scaleOk (s : State) : Bool :=
  let len := (stagedWord ⟨.POS_FRAME_LEN, 0, 0⟩ s).toNat
  decide (1000 ≤ len) && decide (2 * (stagedWord ⟨.POS_NUM, 0, 0⟩ s).toNat ≤ len * (stagedWord ⟨.POS_DEN, 0, 0⟩ s).toNat)

/-- The bases of the position set to the count and the position, so that the position goes on from there (R450). -/
def rebase (s : State) : State :=
  let p := posUm s
  { s with pos := { s.pos with cBase := s.pos.count, pBase := p } }

/-- The position scale group applied, or discarded with EV_POS_CONFIG (R450, R451). -/
def scaleApply (c : RegRef) (host : Bool) (s : State) : State :=
  if scaleOk s then applyGroup c host (rebase s) else cfgEvent .pos 0 c.off (dropStaged c s)

/-- A group's staged set applied in its block (R9). -/
def applyAt (c : RegRef) (host : Bool) (s : State) : State :=
  match c.name with
  | .RS_COMMIT => applyRs s
  | .POS_SCALE_COMMIT => scaleApply c host s
  | .CK_REMAP_COMMIT => remapApply c host s
  | .FE_PWM_COMMIT => beginTrig c.idx (applyGroup c host s)
  | _ => applyGroup c host s

/-- Whether a group's block stands at an operation boundary now. The position scale group's is the frame boundary; a sine group's in
mode 2 is an update, a trigger group's the end of its period or pulse, so those apply there. -/
def opBoundary (c : RegRef) (s : State) : Bool :=
  match c.name with
  | .CK_GAIN_COMMIT => (getCask c.unit s).atBoundary
  | .CK_REMAP_COMMIT => (getCask c.unit s).atBoundary
  | .POS_SCALE_COMMIT => false
  | .FE_DAC_COMMIT => decide (dacMode c.idx s ≠ 2)
  | .FE_PWM_COMMIT => decide (trigMode c.idx s ≠ 1) && !(getTrig c.idx s).active
  | _ => true

/-- A waiting apply of a group with ACTION 0b01 carried out. -/
def applyDue (c : RegRef) (s : State) : State :=
  match s.applies.find c.off with
  | some a => if a.frame then s else applyAt c a.host s
  | none => s

/-! ### Staging and requests -/

/-- Whether a host write to a register of a remap group finds its cask held (R142). -/
def remapOwned (src : Source) (r : RegRef) (s : State) : Bool :=
  decide (src = .host) && (match r.name with
    | .CK_REMAP => (getCask r.unit s).hold.isSome
    | .CK_PIN => (getCask r.unit s).hold.isSome
    | .CK_REMAP_COMMIT => (getCask r.unit s).hold.isSome
    | _ => false)

/-- Whether a host write to a COMMIT register is discarded for its owner: a held cask's remap group (R142), the rescale group (R224). -/
def commitOwned (src : Source) (c : RegRef) (s : State) : Bool :=
  remapOwned src c s || (decide (c.name = .RS_COMMIT) && decide (src = .host))

/-- A host write that its group's owner discards; one that R11 would meet with BUSY_ERR, while PENDING is 1, sets that too (R11, R142,
R224). -/
def ownerBusy (c : RegRef) (off : Nat) (meets : Bool) (s : State) : State :=
  writeBusy off (if meets && applyPending c s then setBusyErr c s else s)

/-- Whether a staged pulse length or period lies outside what the staged mode allows (Table 13.23). -/
def trigRangeBad (r : RegRef) (v : Word) (s : State) : Bool :=
  let mode := fieldOf 1 0 (stagedWord ⟨.FE_PWM_CFG, 0, r.idx⟩ s)
  match r.name with
  | .FE_PWM_A => decide (mode = 1) && decide (v.toNat < 2)
  | .FE_PWM_B =>
    (decide (mode = 1) && decide ((stagedWord ⟨.FE_PWM_A, 0, r.idx⟩ s).toNat < v.toNat)) ||
      ((decide (mode = 2) || decide (mode = 3)) && (decide (v.toNat = 0) || decide (65535 < v.toNat)))
  | _ => false

/-- The staged word after a write: its CW fields are taken; a CK_GAIN FLOOR of 6 or 7 is not (R8, R72). -/
def stagedAfter (r : RegRef) (v : Word) (s : State) : Word :=
  let old := stagedWord r s
  let badFloor := decide (r.name = .CK_GAIN) && decide (5 < fieldOf 2 0 v)
  let v := if badFloor then setField 2 0 (fieldOf 2 0 old) v else v
  r.name.desc.fields.foldl (fun w f => if f.acc = .cw then setField f.hi f.lo (fieldOf f.hi f.lo v) w else w) old

/-- A write to the CW fields of a register: staged, discarded with BUSY_ERR while PENDING is 1, or discarded for its value or its owner
(R8, R11, R72, R142, R564). A write with a value that is not allowed raises its block's event whether or not PENDING is 1, one of a
CK_GAIN FLOOR of 6 or 7 included; a CK_REMAP TARGET of 514 or more is staged, and R83 meets it at the apply (log entry 110). -/
def stageWrite (src : Source) (r : RegRef) (v : Word) (s : State) : State :=
  match groupOf r with
  | none => s
  | some c =>
    if remapOwned src r s then ownerBusy c r.off true s
    else
      let bad := !rangeOk' r v || trigRangeBad r v s
      let floor := decide (r.name = .CK_GAIN) && decide (5 < fieldOf 2 0 v)
      let s := if bad || floor then cfgEvent r.name.desc.block r.unit r.off s else s
      if applyPending c s then setBusyErr c s
      else if bad then s
      else { s with staged := s.staged.put r.off (stagedAfter r v s) }
where
  /-- The range check of R564, which R72 replaces for CK_GAIN. -/
  rangeOk' (r : RegRef) (v : Word) : Bool := if r.name = .CK_GAIN then true else r.name.desc.allows v

/-- A write of an ACTION to a COMMIT register (Table 0.5, R11, R12, R142, R224). -/
def commitAction (src : Source) (c : RegRef) (act : Nat) (s : State) : State :=
  if act = 0 then s
  else if commitOwned src c s then ownerBusy c c.off (decide (act ≠ 3)) s
  else if act = 3 then dropStaged c s
  else if applyPending c s then setBusyErr c s
  else { s with applies := s.applies.put c.off ⟨decide (act = 2), decide (src = .host)⟩ }

/-! ### Boundaries (R448, R452, R455, R456) -/

/-- A source switch: the bases move to it, its counts begin anew, and its first index interval is not checked (R447, R450, R452). -/
def switchSource (s : State) : State :=
  let src := rfield .POS_CTRL 0 0 1 0 s
  if src = s.pos.src then s
  else
    let s := rebase s
    { s with pos := { s.pos with
      src := src
      idxFirst := true
      idxNet := 0
      idxTurned := false
      idxDir := none
      synDebt := 0
      synN := 0
      synIdx := 0
      synLast := s.now } }

/-- Every apply that waits for this boundary (R12, R455). -/
def boundaryApplies (frame : Bool) (s : State) : State :=
  s.applies.foldl (fun s e =>
    match regAt e.1 with
    | some c =>
      if (offDomain e.1 s).isSome then s
      else if e.2.frame || (frame && decide (c.name = .POS_SCALE_COMMIT)) then applyAt c e.2.host s else s
    | none => s) s

/-- Whether a calibration that waits for its casks or holds them claims a cask, so that no other hold of it starts (R488, R491). -/
def calClaims (c : Nat) (s : State) : Bool :=
  match s.cal.run with
  | some r => decide (r.scope = 5) || (decide (r.scope = 4) && decide (r.target / 16 = c / 16))
  | none => false

/-- A vintage number. -/
def vintageNumber (s : State) : Nat := leAt 4 4 (vintage s)

/-- Whether the refolded entries that belong to a written vintage are in force, as they are from this boundary on (R224, R499). -/
def calInForce (s : State) : Bool :=
  s.cal.folds.all fun r => !s.quant.refold.contains r && !s.quant.batch.contains r && !s.quant.folded.contains r

/-- A written vintage takes effect, with the refolded entries that belong to it: where those had to wait for another set under R224, it waits
for their boundary (R499, log entry 134). -/
def applyVintage (s : State) : State :=
  match s.cal.pendingSlot with
  | none => s
  | some k =>
    if !calInForce s then s
    else
    let old := vintageNumber s
    let s := { s with cal := { s.cal with inForce := k, pendingSlot := none, folds := [] } }
    let new := vintageNumber s
    journal 3 1 0 (regOff .CAL_VINTAGE 0 0) 0 (BitVec.ofNat 32 old) (BitVec.ofNat 32 new) (raiseEvent 0x0C03 0 0 new none s)

/-- Casks that a calibration held are released, unless its vintage still waits; racked ones are tasted next (R490, R491, R493, R499). -/
def releaseCal (s : State) : State :=
  let free := fun (k : Cask) =>
    if k.hold = some .cal then { k with hold := none, fitWas := none, tasteDue := k.tasteDue || k.racked } else k
  if s.cal.pendingSlot.isSome then s
  else s.cal.releasing.foldl (fun s c => modCask c free s) { s with cal := { s.cal with releasing := [], relTarget := none } }

/-- Whether the cellarer may hold a cask for work of its own now: no entry is to rack it (R120, R154). -/
def mayHold (c : Nat) (s : State) : Bool :=
  let k := getCask c s
  k.racked && k.hold.isNone && (activeEntry c s).isNone && !caskInReset c s && !calClaims c s && caskUp c s

/-- A cask held for a diagnosis read, where one is due (R137, R176). -/
def holdDiagnosis (s : State) (c : Nat) : State :=
  if (getCask c s).diagDue && mayHold c s then modCask c (fun k => { k with hold := some .diagnosis, thenTop := false }) s else s

/-- Casks held for topping in rising order, as many as this boundary starts; one that its diagnosis holds is topped after it (R151, R181).
A cask whose shadow is lost has no target levels: its topping stays due (R136, R152, log entry 112). -/
def holdToppings : Option Nat → List Nat → State → State
  | _, [], s => s
  | n, c :: cs, s =>
    let k := getCask c s
    if n = some 0 then s
    else if k.topDue && k.shadowOk && mayHold c s then
      holdToppings (n.map (· - 1)) cs (vppAsk c (modCask c (fun k => { k with hold := some .topping, topDue := false }) s))
    else if k.topDue && k.shadowOk && decide (k.hold = some .diagnosis) && !k.thenTop then
      holdToppings (n.map (· - 1)) cs (modCask c (fun k => { k with thenTop := true }) s)
    else holdToppings n cs s

/-- A cask held for the reference read that four periods did not bring (R144). -/
def holdRefRead (s : State) (c : Nat) : State :=
  if decide (4 ≤ (getCask c s).refMissed) && mayHold c s then modCask c (fun k => { k with hold := some .refRead }) s else s

/-- The casks whose tasting is owed (R176, R180). -/
def owedTastes (s : State) : List Nat := (s.casks.filter fun e => e.2.tasteDue).map (·.1)

/-- The tasting runs that a point allows from here on, and the casks tasted ahead of the round robin at it (R180). -/
def allowTasting (n : Option Nat) (owed : List Nat) (s : State) : State :=
  { s with cellar := { s.cellar with
    tasteFrom := s.cellar.nextTaste
    tasteLeft := if s.cellar.tasteLeft = none then none else n
    owed := owed } }

/-- What the cellarer starts at a boundary: diagnosis reads, toppings, reference reads, then tasting (R137, R144, R151, R176, R180). owed:
the casks released before this boundary whose tasting is owed. -/
def cellarerBoundary (frame : Bool) (owed : List Nat) (s : State) : State :=
  let cs := s.casks.map (·.1)
  let s := cs.foldl holdDiagnosis s
  let top := rflag .RK_CTRL 0 0 0 s && !rflag .RK_CTRL 0 0 8 s && (!frame || rflag .RK_CTRL 0 0 1 s)
  let s := if top then holdToppings (if frame then some (rfield .RK_LIMITS 0 0 31 24 s) else none) cs s else s
  let s := if frame then cs.foldl holdRefRead s else s
  if frame then (if rflag .CT_CTRL 0 0 4 s then allowTasting (some (rfield .CT_TASTE_CFG 0 0 7 0 s)) owed s else s)
  else if rflag .CT_CTRL 0 0 5 s then allowTasting none owed s else s

/-- A frame or idle boundary: everything that takes effect there, in one step clock. -/
def boundary (frame : Bool) (s : State) : State :=
  let owed := owedTastes s
  let s := switchSource s
  let s := if frame then s else { s with pos := { s.pos with dir := rflag .POS_CTRL 0 0 2 s } }
  let s := releaseCal (releaseTopped (applyVintage (boundaryApplies frame s)))
  cellarerBoundary frame owed s

end Sys2Proof.Machine
end

