-- ==== Sys2Proof/Machine/Calibration.lean ====
section
/-! DEFINITION. Calibration: the GO checks, what a procedure holds, its results and the vintage record it writes (R481 to R500). -/

namespace Sys2Proof.Machine

/-! ### Starting (R483, R485, R487) -/

/-- Whether SCOPE and TARGET are valid for Table 14.1, CAL_REFCAL_UV in range where it is used, and a full scale asked for the channel whose
zero is staged (R483, R487). -/
def calValid (scope target : Nat) (s : State) : Bool :=
  let uv := (rget .CAL_REFCAL_UV 0 0 s).toNat
  let refcal := decide (1000000 ≤ uv) && decide (uv ≤ 2400000)
  match scope with
  | 1 => decide (target = 0) && refcal
  | 2 => decide (target ≤ 35)
  | 3 => decide (target ≤ 35) && decide (s.cal.zero.map (·.1) = some target)
  | 4 => decide (target ≤ 4095) && refcal
  | 5 => decide (target = 0) && refcal
  | _ => false

/-- A procedure holds what Table 14.1 says from now on; sequences in their delay start no pass (R485). -/
def calHold (s : State) : State :=
  let s := { s with cal := { s.cal with run := s.cal.run.map fun r => { r with holding := true, since := s.now } } }
  let stop := fun (q : Seq) => if q.st = 1 then { q with st := 0 } else q
  if calHoldsAdc s then modSeq true stop (modSeq false stop s) else s

/-- Casks that no other work holds held by calibration. -/
def holdFree (cs : List Nat) (s : State) : State :=
  cs.foldl (fun s c => modCask c (fun k => { k with hold := some (k.hold.getD .cal) }) s) s

/-- An accepted GO (R483, R487, R491): procedures of the front end hold the ADCs at once, a whole-device one holds every cask that is free. -/
def calStart (scope target : Nat) (sourceUv : Int) (s : State) : State :=
  let run : CalRun := ⟨scope, target, (rget .CAL_REFCAL_UV 0 0 s).toNat, sourceUv, rget64 .CAL_HOST_TIME 0 0 s, false, s.now, false, none⟩
  let s := { s with cal := { s.cal with run := some run, zero := if scope = 3 then s.cal.zero else none } }
  if scope ≤ 3 then calHold s else if scope = 5 then holdFree (List.range 4096) s else s

/-- A write to CAL_CTRL with GO 1: its fields, then the checks of R483. sourceUv: what the device measures at REFCAL. -/
def calGo (v : Word) (sourceUv : Int) (s : State) : State :=
  if calBusy s then writeBusy (regOff .CAL_CTRL 0 0) s
  else if !rangeOk .CAL_CTRL v then rejectWrite .CAL_CTRL 0 0 s
  else
    let s := storeWrite .CAL_CTRL 0 0 v s
    if s.cal.pendingSlot.isSome then writeBusy (regOff .CAL_CTRL 0 0) s
    else if calValid (fieldOf 3 0 v) (fieldOf 27 16 v) s then calStart (fieldOf 3 0 v) (fieldOf 27 16 v) sourceUv s
    else rejectWrite .CAL_CTRL 0 0 s

/-- The GO of a row: a write to CAL_CTRL whose word asks for its SCOPE. -/
def calRow (scope : Nat) (v : Word) (sourceUv : Int) (s : State) : State :=
  if flagOf 31 v && decide (fieldOf 3 0 v = scope) then hostWrite .CAL_CTRL 0 0 (calGo v sourceUv) s else s

/-- CAL_FRONT_END_RANGE: GO with SCOPE 0x1. refcalUv: what the device measures at REFCAL (log entry 5). -/
def execCalFrontEndRange (v : Word) (refcalUv : Int) (s : State) : Host.Outcome State Fault Refusal := .next (calRow 1 v refcalUv s)

/-- CAL_SYSTEM_ZERO: GO with SCOPE 0x2 (R486). -/
def execCalSystemZero (v : Word) (s : State) : Host.Outcome State Fault Refusal := .next (calRow 2 v 0 s)

/-- CAL_SYSTEM_FULL_SCALE: GO with SCOPE 0x3 (R487). -/
def execCalSystemFullScale (v : Word) (s : State) : Host.Outcome State Fault Refusal := .next (calRow 3 v 0 s)

/-- CAL_CASK: GO with SCOPE 0x4 (R488). -/
def execCalCask (v : Word) (refcalUv : Int) (s : State) : Host.Outcome State Fault Refusal := .next (calRow 4 v refcalUv s)

/-- CAL_WHOLE_DEVICE: GO with SCOPE 0x5 (R491). -/
def execCalWholeDevice (v : Word) (refcalUv : Int) (s : State) : Host.Outcome State Fault Refusal := .next (calRow 5 v refcalUv s)

/-- Casks held by calibration. -/
def holdCal (cs : List Nat) (s : State) : State :=
  calHold (cs.foldl (fun s c => modCask c (fun k => { k with hold := some .cal }) s) s)

/-- CAL_CASK_HOLD_START: no other hold covers a cask of the target's rack; the rack's casks are held and the procedure begins (R488). -/
def execCalCaskHoldStart (s : State) : Host.Outcome State Fault Refusal :=
  .next (match s.cal.run with
    | some r =>
      let cs := (List.range 16).map fun j => 16 * (r.target / 16) + j
      if decide (r.scope = 4) && !r.holding && cs.all (fun c => (getCask c s).hold.isNone) then holdCal cs s else s
    | none => s)

/-- CAL_WHOLE_DEVICE_HOLD_START: every other hold of the cellarer has ended, and the procedure, which holds every cask, begins (R491). -/
def execCalWholeDeviceHoldStart (s : State) : Host.Outcome State Fault Refusal :=
  .next (match s.cal.run with
    | some r =>
      if decide (r.scope = 5) && !r.holding && s.casks.all (fun e => e.2.hold.all fun h => decide (h = .cal)) then holdCal (List.range 4096) s else s
    | none => s)

/-- CAL_ABORT: a host write to CAL_CTRL with ABORT 1. -/
def execCalAbort (s : State) : Host.Outcome State Fault Refusal := .next (hostWrite .CAL_CTRL 0 0 calAbort s)

/-! ### What a procedure computes -/

/-- A quotient rounded to nearest with ties away from zero, for any divisor but 0. -/
def roundDiv (n d : Int) : Int := if d < 0 then roundAway (-n) d.natAbs else roundAway n d.natAbs

/-- The 2 bytes of a correction; one that no rule gives, a quotient by 0 or beyond its signed 16 bits, is free (log entry 38). -/
def fixField (d x : Int) (k : Nat) (s : State) : List Byte :=
  if d = 0 ∨ x < -32768 ∨ 32767 < x then leBytes 2 (Config.freeWord (s.freeCtr + k)).toNat else leBytes 2 (patternOf 16 x)

/-- The value of reference r in µV: 2.5 V, measured VDDAF, measured REFIN. -/
def refUv (m : CalMeasure) (r : Nat) : Nat := if r = 0 then 2500000 else if r = 1 then m.vddafUv else m.refinUv

/-- The two passes together: twice their mean (R484). -/
def both (p : Int × Int) : Int := p.1 + p.2

/-- How far the two passes lie apart. -/
def apart (p : Int × Int) : Nat := (p.1 - p.2).natAbs

/-- Twice the mean of entry k of a list of passes. -/
def meanOf (k : Nat) (l : List (Int × Int)) : Int := both (nthD (0, 0) k l)

/-- OFS and GAIN_DEV of converter a under reference r (front-end range); REFIN is measured while REF_FAULT is 0 only. -/
def rangePart (m : CalMeasure) (refcal : Nat) (s : State) (x : Nat) : List (Nat × List Byte) :=
  let a := x / 3
  let r := x % 3
  let ofs := -(roundAway (meanOf x m.zero) 8192)
  let c := meanOf x m.full + 8192 * ofs
  let d := c * refUv m r
  let dev := roundDiv ((refcal * 65536 * 8192 - d) * 262144) d
  if r = 2 && s.fe.refFault then []
  else [(320 + 12 * a + 4 * r, fixField 1 ofs (2 * x) s ++ fixField d dev (2 * x + 1) s)]

/-- Twice a mean code of converter a under reference r with its range correction, in units of 2⁻³¹ code. -/
def rangeCorrected (rec' : List Byte) (a r : Nat) (x : Int) : Int :=
  let b := 320 + 12 * a + 4 * r
  let ofs := signedOf 16 (leAt b 2 rec')
  let dev := signedOf 16 (leAt (b + 2) 2 rec')
  (x + 8192 * ofs) * (262144 + dev)

/-- OFS_CH and GAIN_CH of a channel on converter a: the staged zero reads the code of CAL_SYS_UV0, the full scale that of CAL_SYS_UV1
(R487). -/
def chanPart (m : CalMeasure) (ch : Nat) (zero : List Int) (s : State) (a : Nat) : Nat × List Byte :=
  let r := match rfield .FE_ADC_CTRL 0 0 1 0 s with
    | 1 => 2
    | 2 => 1
    | _ => 0
  let z := rangeCorrected (vintage s) a r (nthD 0 a zero)
  let f := rangeCorrected (vintage s) a r (meanOf a m.full)
  let u0 := (rget .CAL_SYS_UV 0 0 s).toInt
  let u1 := (rget .CAL_SYS_UV 0 1 s).toInt
  let k : Int := if 24 ≤ ch then 32768 else 65536
  let one : Int := 2 ^ 31
  let d := one * (u1 - u0)
  let ofs := roundDiv (u0 * (f - z) - z * (u1 - u0)) d
  let g := refUv m r * (f + ofs * one)
  (416 + 144 * a + 4 * ch,
    fixField d ofs (2 * a) s ++ fixField (if d = 0 then 0 else g) (roundDiv ((u1 * k * one - g) * 262144) g) (2 * a + 1) s)

/-- Whether a procedure measures a quadrant: a whole-device one, with the quadrant's bias on (R491). -/
def quadMeasured (r : CalRun) (q : Nat) (s : State) : Bool := decide (r.scope = 5) && decide (q < 4) && !domainIsOff (68 + q) s

/-- Whether a procedure measures a cask: its target, or every one of a quadrant with its bias on (R488, R491). -/
def caskMeasured (r : CalRun) (c : Nat) (s : State) : Bool :=
  if r.scope = 4 then decide (c = r.target) else quadMeasured r (c / 1024) s

/-- A signed byte of the vintage in force. -/
def trimByte (a : Nat) (s : State) : Int := signedOf 8 (leAt a 1 (vintage s))

/-- The trims that bring a cask's gains to nominal and its offset to zero: each less what was found with the trim in force, in steps of
0.05 % and of 1/16 LSB (R488, Table 14.5). -/
def caskTrims (e : CaskCal) (s : State) : List Int :=
  ((List.range 6).map fun k => trimByte (4096 + 8 * e.cask + k) s - roundAway (meanOf k e.gains) 2560) ++
    [trimByte (4096 + 8 * e.cask + 6) s - roundAway (both e.ofs) 512]

/-- Whether a trim lies in its range: ±6.35 % for the gains, a signed byte for the offset (Table 14.5, R489). -/
def trimsOk (e : CaskCal) (s : State) : Bool :=
  (caskTrims e s).zipIdx.all fun t => (if t.2 < 6 then decide (-127 ≤ t.1) else decide (-128 ≤ t.1)) && decide (t.1 ≤ 127)

/-- A cask's entry of the record: its trims, CALIBRATED (Table 14.5). -/
def caskPart (e : CaskCal) (s : State) : Nat × List Byte :=
  (4096 + 8 * e.cask, (caskTrims e s).flatMap (fun t => leBytes 1 (patternOf 8 t)) ++ leBytes 1 1)

/-- The temperature of a quadrant at its measurement in the vintage in force (Table 14.4). -/
def oldTemp (q : Nat) (s : State) : Int × Nat := q32 (BitVec.ofNat 32 (leAt (72 + 64 * q) 4 (vintage s)))

/-- The temperature now less that of the previous measurement, in °C as a fraction of 512 times its denominator. -/
def tempStep (q : Nat) (s : State) : Int := quadTemp q s * (oldTemp q s).2 - 512 * (oldTemp q s).1

/-- A refitted β_q: the relative change of the drive step over the change of temperature (R492). -/
def betaWord (e : QuadCal) (s : State) : Word :=
  let n := both e.step * (oldTemp e.quad s).2
  let d := tempStep e.quad s
  ratWord (if d < 0 then -n else n) (1000000 * d.natAbs)

/-- A quadrant's entries of the record: the trims that bring drive step and reference to nominal, in steps of 10 ppm; β_q where it is
refitted, at 20 °C or more from the previous measurement; the temperature of this one (R491, R492, Table 14.4). -/
def quadParts (e : QuadCal) (s : State) : List (Nat × List Byte) :=
  let a := 64 + 64 * e.quad
  let trim := fun (b : Nat) (p : Int × Int) (k : Nat) => fixField 1 (signedOf 16 (leAt b 2 (vintage s)) - roundAway (both p) 5120) k s
  let far := decide (20 * 512 * ((oldTemp e.quad s).2 : Int) ≤ (tempStep e.quad s).natAbs)
  [(a, trim a e.step (12 + 2 * e.quad) ++ trim (a + 2) e.conv (13 + 2 * e.quad))] ++
    (if rflag .CAL_CTRL 0 0 8 s && far then [(a + 4, leBytes 4 (betaWord e s).toNat)] else []) ++
    [(a + 8, leBytes 4 (ratWord (quadTemp e.quad s) 512).toNat)]

/-- The offset of a temperature sensor, moved by what it reads below the band-gap sensor beside it (Table 14.3). -/
def sensePart (m : CalMeasure) (s : State) (n : Nat) : Nat × List Byte :=
  (384 + 2 * n, fixField 1 (signedOf 16 (leAt (384 + 2 * n) 2 (vintage s)) + nthD 0 n m.sense) (20 + n) s)

/-- The casks and the quadrants that a procedure measured (R491). -/
def casksOf (r : CalRun) (m : CalMeasure) (s : State) : List CaskCal := m.casks.filter fun e => decide (e.cask < 4096) && caskMeasured r e.cask s
/-- The quadrants. -/
def quadsOf (r : CalRun) (m : CalMeasure) (s : State) : List QuadCal := m.quads.filter fun e => quadMeasured r e.quad s

/-- Every part of the record that a procedure replaces. -/
def calParts (r : CalRun) (m : CalMeasure) (s : State) : List (Nat × List Byte) :=
  let range := (List.range 6).flatMap (rangePart m r.refcal s)
  let casks := (casksOf r m s).map fun e => caskPart e s
  match r.scope with
  | 1 => range
  | 3 => [0, 1].map (chanPart m r.target ((s.cal.zero.map (·.2)).getD []) s)
  | 4 => casks
  | 5 => range ++ (quadsOf r m s).flatMap (fun e => quadParts e s) ++ (List.range 8).map (sensePart m s) ++ casks
  | _ => []

/-- The head of a new vintage record (Table 14.4). -/
def vintageHead (r : CalRun) (m : CalMeasure) (s : State) : List Byte :=
  padTo 64 (([0x56, 0x4E, 0x54, 0x47] : List Nat).map (BitVec.ofNat 8) ++ leBytes 4 (s.cal.highest + 1) ++ leBytes 1 r.scope ++ leBytes 1 0 ++
    leBytes 2 r.target ++ leBytes 4 (leAt 12 4 (vintage s) + 1) ++ leBytes 8 r.hostTime ++ leBytes 8 (patternOf 64 (posUm s)) ++
    leBytes 4 (posFrame s) ++ leBytes 4 r.refcal ++ (List.range 8).flatMap fun n => leBytes 1 (patternOf 8 (nthD 0 n m.temps)))

/-- A record with its CHECK (R497). -/
def sealRecord (bs : List Byte) : List Byte := patchAt 60 (leBytes 4 (crc32c (patchAt 60 (leBytes 4 0) bs)).toNat) bs

/-- The new vintage: the vintage in force with everything the procedure measured (R495, R497). -/
def newVintage (r : CalRun) (m : CalMeasure) (s : State) : List Byte :=
  let parts := calParts r m s
  sealRecord (parts.foldl (fun bs p => patchAt p.1 p.2 bs) (patchAt 0 (vintageHead r m s) (vintage s)))

/-! ### Ending (R484, R488 to R496) -/

/-- The converter readings that a procedure compares: of ground and REFCAL under every reference that it measures, of the channel on both
converters, none in a cask calibration (R484 to R487). -/
def adcReadings (r : CalRun) (m : CalMeasure) (s : State) : List (Int × Int) :=
  let refs := (List.range 6).filter fun x => decide (x % 3 ≠ 2) || !s.fe.refFault
  match r.scope with
  | 1 => refs.flatMap fun x => [nthD (0, 0) x m.zero, nthD (0, 0) x m.full]
  | 2 => [nthD (0, 0) 0 m.zero, nthD (0, 0) 1 m.zero]
  | 3 => [nthD (0, 0) 0 m.full, nthD (0, 0) 1 m.full]
  | 5 => refs.flatMap fun x => [nthD (0, 0) x m.zero, nthD (0, 0) x m.full]
  | _ => []

/-- The disagreements of the two passes with their tolerances, in 1/4,096 code or 1/256 of their unit, and how many of those make one unit
(R484, Table 14.2). -/
def disagreements (r : CalRun) (m : CalMeasure) (s : State) : List (Nat × Nat × Nat) :=
  let adc := (adcReadings r m s).map fun p => (apart p, rfield .CAL_TOL 0 0 31 24 s, 4096)
  let cask := (casksOf r m s).flatMap fun e => e.gains.map fun p => (apart p, rfield .CAL_TOL 0 0 23 16 s, 256)
  let quad := (quadsOf r m s).flatMap fun e => [e.step, e.conv].map fun p => (apart p, rfield .CAL_TOL 0 0 15 0 s, 256)
  adc ++ cask ++ quad

/-- CAL_DIFF: the largest disagreement in the units of its tolerance, a part of a unit counting as one (R484, log entry 127). -/
def calDiff (r : CalRun) (m : CalMeasure) (s : State) : Nat := (disagreements r m s).foldl (fun a d => max a (ceilDiv d.1 d.2.2)) 0

/-- Whether a quantity's two passes lie further apart than its tolerance (R484). -/
def disagree (r : CalRun) (m : CalMeasure) (s : State) : Bool := (disagreements r m s).any fun d => decide (d.2.1 * d.2.2 < d.1)

/-- Whether REFCAL differs from CAL_REFCAL_UV by more than 2 % in a procedure that uses it (R481, R482). -/
def refcalBad (r : CalRun) : Bool :=
  decide (r.scope ≠ 2) && decide (r.scope ≠ 3) && decide (r.refcal < 50 * (r.sourceUv - r.refcal).natAbs)

/-- RESULT of a procedure that measured, but for the write of its record. -/
def calResult (r : CalRun) (m : CalMeasure) (s : State) : Nat :=
  if r.aborted then 4
  else if refcalBad r then 2
  else if disagree r m s then 1
  else if (casksOf r m s).any fun e => !trimsOk e s then 3
  else if r.scope ≠ 2 ∧ 0xFFFFFFFF < s.cal.highest + 1 then 6
  else 0

/-- The casks that a procedure holds. -/
def calCasks (r : CalRun) : List Nat :=
  if r.scope = 4 then (List.range 16).map fun j => 16 * (r.target / 16) + j
  else if r.scope = 5 then List.range 4096
  else []

/-! ### Reference reads of a calibration (R488, R490) -/

/-- The casks that a procedure makes reference reads of: its target, or every racked cask that it measures (R488, R491). -/
def calReads (r : CalRun) (s : State) : List Nat :=
  if r.scope = 4 then [r.target] else (s.casks.filter fun e => e.2.racked && caskMeasured r e.1 s).map (·.1)

/-- A held cask's reference read begins, once nothing is in progress on it (R79, R488). -/
def calStartRead (s : State) (c : Nat) : State := if (getCask c s).quiet then startRef c s else s

/-- Whether the reference read of every cask of a list is converted. -/
def readsDone (cs : List Nat) (s : State) : Bool := cs.all fun c => (refResult (getCask c s)).isSome

/-- A reference read of a calibration that is over, recorded; with its sums. A cask that is not racked has no fit (R145). -/
def calRead (c : Nat) (s : State) : (Nat × Int × Int) × State :=
  match refResult (getCask c s) with
  | some (id, a, b) =>
    let s := modCask c (fun k => k.endProbe id) s
    ((c, a, b), if (getCask c s).racked then recordRef c a b s else refRegs c a b s)
  | none => ((c, 0, 0), s)

/-- The reference reads of a list of casks, all over, recorded one after another. -/
def calReadAll : List Nat → State → List (Nat × Int × Int) × State
  | [], s => ([], s)
  | c :: cs, s =>
    let x := calRead c s
    let y := calReadAll cs x.2
    (x.1 :: y.1, y.2)

/-- The fits of a calibration: accepted trims move g0 and o0 of a racked cask by the difference of its two reads; until the vintage is in
force, folds that take effect earlier use the fit of the first (R490, R499). -/
def calFit (s : State) (x : (Nat × Int × Int) × (Nat × Int × Int)) : State :=
  let c := x.1.1
  let t := quadTemp (c / 1024) s
  modCask c (fun k =>
    if k.racked then { k with
      refA0 := k.refA0 + (x.2.2.1 - x.1.2.1)
      refB0 := k.refB0 + (x.2.2.2 - x.1.2.2)
      fitWas := some (x.1.2.1, x.1.2.2, t) }
    else k) s

/-- What the new fits of a list of casks call for: their evaluation and the refold of the entries they enter (R147 to R149). -/
def calEvaluate (xs : List (Nat × Int × Int)) (s : State) : State :=
  xs.foldl (fun s x => if (getCask x.1 s).racked then evaluate x.1 (askRefold (racksOf x.1 s) s) else s) s

/-- The fits of accepted trims, and the refold of every rack whose entries they enter, applied with ACTION 0b10 (R224, R490). -/
def calFits (first second : List (Nat × Int × Int)) (s : State) : State :=
  let rs := (second.filter fun e => (getCask e.1 s).racked).flatMap fun e => racksOf e.1 s
  let rs := (List.range 256).filter rs.contains
  let s := calEvaluate second ((first.zip second).foldl calFit s)
  { s with cal := { s.cal with folds := rs } }

/-- A new record written to the slot that does not hold the vintage in force; one that fails its check leaves the slot without a record
(R496). -/
def writeVintage (rec' : List Byte) (good : Bool) (s : State) : State :=
  let toB := decide (s.cal.inForce = 1)
  let r := if good then some rec' else none
  let c := s.cal
  let c := if toB then { c with slotB := r } else { c with slotA := r }
  let s := { s with cal := { c with highest := c.highest + 1, pendingSlot := if good then some (if toB then 2 else 1) else none } }
  if good then s else raiseEvent 0x0C04 0 toB.toNat (vintageNumber s) none s

/-- The procedure ends: BUSY clears, its casks wait for the boundary, the ADCs go on, supervision times go on from where they were paused
(R485, R493, R494). -/
def calFree (r : CalRun) (s : State) : State :=
  let s := { s with cal := { s.cal with
    run := none
    releasing := if r.holding || decide (r.scope = 5) then s.cal.releasing ++ calCasks r else s.cal.releasing
    relTarget := if r.scope = 4 then some r.target else if r.scope = 5 then none else s.cal.relTarget } }
  if r.holding && decide (r.scope ≠ 4) then
    (List.range 8).foldl (fun s n => modDac n (fun d => { d with lastCompare := d.lastCompare + (s.now - max r.since d.lastCompare) }) s) s
  else s

/-- RESULT set, and the event of the end raised (R494). -/
def calReport (r : CalRun) (result number : Nat) (s : State) : State :=
  let s := { s with cal := { s.cal with result := result } }
  if result = 0 then raiseEvent 0x0C01 r.target r.scope number none s
  else
    let s := bump .CAL_REJECTS 0 0 1 s
    raiseEvent 0x0C02 r.target (r.scope + 2 ^ 8 * result) (rget .CAL_DIFF 0 0 s).toNat none s

/-- A procedure's end: its result, the vintage it writes, its fits where the trims are accepted, the staged zero it leaves (R484, R486, R487,
R490, R495, R496). second: the reference reads with the new trims. -/
def calFinish (r : CalRun) (m : CalMeasure) (first second : List (Nat × Int × Int)) (s : State) : State :=
  let res := calResult r m s
  let s := if res = 4 ∨ res = 2 then s else rset .CAL_DIFF 0 0 (BitVec.ofNat 32 (calDiff r m s)) s
  let vint := decide (res = 0) && decide (r.scope ≠ 2)
  let s := if vint then writeVintage (newVintage r m s) m.readback { s with freeCtr := s.freeCtr + 28 } else s
  let ok := decide (res = 0) && (!vint || m.readback)
  let s := if ok then calFits first second s else s
  let zero := (List.range 2).map fun a => meanOf a m.zero
  let s := { s with cal := { s.cal with zero := if ok && decide (r.scope = 2) then some (r.target, zero) else s.cal.zero } }
  calReport r (if ok then 0 else if res = 0 then 6 else res) (if vint then s.cal.highest else 0) (calFree r s)

/-- The reference reads of a procedure that ends before it uses them are fits as any others. -/
def calDrop (cs : List Nat) (s : State) : State :=
  let x := calReadAll (cs.filter fun c => (refResult (getCask c s)).isSome) s
  calEvaluate x.1 x.2

/-- A procedure one step further: its first reference reads begin, then its measurements are compared and its new trims put in place with the
second reads, then it ends; a procedure that makes none ends at once (R488, Table 14.3). -/
def calStep (r : CalRun) (m : CalMeasure) (s : State) : State :=
  let cs := calReads r s
  match r.trimmed with
  | some (m, first) => if readsDone cs s then let y := calReadAll cs s; calFinish r m first y.1 y.2 else s
  | none =>
    if !readsDone cs s then cs.foldl calStartRead s
    else
      let x := calReadAll cs s
      if decide (r.scope = 4 ∨ r.scope = 5) && decide (calResult r m x.2 = 0) && !cs.isEmpty then
        let s := { x.2 with cal := { x.2.cal with run := some { r with trimmed := some (m, x.1) } } }
        cs.foldl calStartRead s
      else calFinish r m [] [] (calEvaluate x.1 x.2)

/-- CAL_END: the procedure in progress goes on from one of its reference reads to the next, or ends (R482, R488, R493). An abort, or a reset,
lets the read in progress be over. m: what it measured (log entry 5). -/
def execCalEnd (m : CalMeasure) (s : State) : Host.Outcome State Fault Refusal :=
  .next (match s.cal.run with
    | some r =>
      let cs := calReads r s
      let reading := cs.any fun c => ((getCask c s).probe .refRead).isSome && (refResult (getCask c s)).isNone
      if r.aborted then (if r.holding && reading then s else calFinish r m [] [] (if r.holding then calDrop cs s else s))
      else if !r.holding then s
      else if refcalBad r then calFinish r m [] [] s
      else if decide (r.scope = 4 ∨ r.scope = 5) then calStep r m s
      else calFinish r m [] [] s
    | none => s)

end Sys2Proof.Machine
end

