-- ==== Sys2Proof/Machine/FrontEnd.lean ====
section
/-! DEFINITION. The measurement front end: ADC passes and their records, references, DAC updates and supervision, table 1, trigger
outputs (R461 to R477). -/

namespace Sys2Proof.Machine

/-! ### Triggers (R464, R466) -/

/-- ADC_TIMER_TRIGGER: the step clock is a multiple of FE_TIMER.PERIOD (R464). -/
def execAdcTimerTrigger (s : State) : Host.Outcome State Fault Refusal :=
  .next (if feOn s && decide (s.now % (rget .FE_TIMER 0 0 s).toNat = 0) && decide (s.fe.timerAt ≠ some s.now) then
      triggerFrom (fun src _ => decide (src = 1)) { s with fe := { s.fe with timerAt := some s.now } }
    else s)

/-- A software trigger of a sequence whose source is software (R464). -/
def softTrigger (inj : Bool) (s : State) : State := if trigSrc inj s = 4 then trigger inj s else s

/-- ADC_SOFTWARE_TRIGGER_REGULAR: a write of FE_SW_TRIG bit 0. -/
def execAdcSoftwareTriggerRegular (s : State) : Host.Outcome State Fault Refusal :=
  .next (hostWrite .FE_SW_TRIG 0 0 (softTrigger false) s)

/-- ADC_SOFTWARE_TRIGGER_INJECTED: a write of FE_SW_TRIG bit 1. -/
def execAdcSoftwareTriggerInjected (s : State) : Host.Outcome State Fault Refusal :=
  .next (hostWrite .FE_SW_TRIG 0 0 (softTrigger true) s)

/-- ADC_TRIGGER_TIMEOUT: a sequence triggered by PWM or position has had no trigger for TMO ms outside idle (R466). -/
def execAdcTriggerTimeout (inj : Bool) (s : State) : Host.Outcome State Fault Refusal :=
  let tmo := rfield (trigReg inj) 0 0 23 16 s
  .next (if feOn s && rflag .FE_ADC_CTRL 0 0 31 s && (decide (trigSrc inj s = 2) || decide (trigSrc inj s = 3)) && decide (tmo ≠ 0) &&
      !s.pos.idle && decide ((getSeq inj s).lastTrig + tmo * 200000 ≤ s.now) then
      raiseEvent 0x0B0B 0 inj.toNat 0 none (modSeq inj (fun q => { q with lastTrig := s.now }) s)
    else s)

/-! ### Passes (R461, R463 to R468, R474, R498) -/

/-- The first sampling instant of a sequence's pass. -/
def firstSample (inj : Bool) (s : State) : Nat := (seqSchedule inj s).headD 0 + acquireClocks inj 0 s

/-- Whether a regular pair is in progress at a step clock. -/
def pairRunning (g : Nat) (s : State) : Bool :=
  (seqSchedule false s).dropLast.zipIdx.any fun e => decide (e.1 < g) && decide (g < e.1 + acquireClocks false e.2 s + 80)

/-- An injected pass holds up the regular sequence: the pair it meets is converted again (R465). -/
def holdUp (s : State) : State :=
  let g := delayEnd true s
  let d := (seqSchedule true s).getLastD g - g
  if s.fe.reg.st = 0 then s
  else
    let again := pairRunning g s
    modSeq false (fun q => { q with gaps := q.gaps ++ [(g, d)], redone := q.redone || again }) s

/-- ADC_PASS_START: the pass of a sequence begins; the command stands at the pass's first sampling instant (log entry 36). An injected
pass due no later goes first (R464, R465). -/
def execAdcPassStart (inj : Bool) (s : State) : Host.Outcome State Fault Refusal :=
  let first := firstSample inj s
  let other := !inj && (decide (s.fe.inj.st = 2) || (decide (s.fe.inj.st = 1) && decide (delayEnd true s < first)))
  .next (if feOn s && decide ((getSeq inj s).st = 1) && decide (first ≤ s.now) && !other && !calHoldsAdc s then
      let s := if inj then holdUp s else s
      modSeq inj (fun q => { q with
        st := 2
        step := s.now
        pos := posUm s
        frame := posFrame s
        vint := s.cal.inForce }) s
    else s)

/-- The vintage record that a pass uses (R498). -/
def vintageAt (k : Nat) (s : State) : List Byte :=
  match k with
  | 1 => s.cal.slotA.getD s.cal.factory
  | 2 => s.cal.slotB.getD s.cal.factory
  | _ => s.cal.factory

/-- Whether a channel's result is signed (Table 13.3). -/
def signedChannel (ch : Nat) : Bool := decide (24 ≤ ch) && decide (ch ≤ 35)

/-- The code range of a channel's result. -/
def codeRange (ch : Nat) : Int × Int := if signedChannel ch then (-32768, 32767) else (0, 65535)

/-- The reference of REF_SEL as Table 14.4 numbers references: 0 internal, 1 VDDAF, 2 REFIN. -/
def refIndex (s : State) : Nat :=
  match rfield .FE_ADC_CTRL 0 0 1 0 s with
  | 1 => 2
  | 2 => 1
  | _ => 0

/-- A signed 16-bit field of a vintage record. -/
def trimAt (a : Nat) (rec' : List Byte) : Int := signedOf 16 (leAt a 2 rec')

/-- A result of converter a on a channel: corrected by offset and gain of reference and channel, rounded with ties away from zero,
saturated (R463, R498). -/
def correctCode (rec' : List Byte) (a ch ref : Nat) (raw : Bool) (x : Int) : Int :=
  let r := codeRange ch
  let range := 320 + 12 * a + 4 * ref
  let chan := 416 + 144 * a + 4 * ch
  let ofsCh := if ch < 36 then trimAt chan rec' else 0
  let gainCh := if ch < 36 then trimAt (chan + 2) rec' else 0
  let y := ((x + trimAt range rec') * (262144 + trimAt (range + 2) rec') + ofsCh * 262144) * (262144 + gainCh)
  clampInt r.1 r.2 (if raw then x else roundAway y (2 ^ 36))

/-- The channel of slot j. -/
def slotChannel (inj : Bool) (j : Nat) (s : State) : Nat := bits 15 10 (slotWord inj j s)

/-- The results of a pass, slot by slot, from the raw codes of the converters. -/
def passResults (inj : Bool) (raw : List Int) (s : State) : List Int :=
  let rec' := vintageAt (getSeq inj s).vint s
  (List.range (seqLen inj s)).map fun j =>
    correctCode rec' (j % 2) (slotChannel inj j s) (refIndex s) (rflag .FE_ADC_CTRL 0 0 30 s) (nthD 0 j raw)

/-- Whether a result stands at an end of its code range (R463). -/
def atEnd (ch : Nat) (x : Int) : Bool := decide (x = (codeRange ch).1) || decide (x = (codeRange ch).2)

/-- The reference voltage in mV that read-backs are judged by; a measured VDDAF is reported by no rule and free (R474). -/
def refMv (s : State) : Nat :=
  match rfield .FE_ADC_CTRL 0 0 1 0 s with
  | 1 => s.fe.refinMv
  | 2 => (Config.freeWord s.freeCtr).toNat % 65536
  | _ => 2500

/-- A read-back compared with the code held (R474). -/
def compareBack (n : Nat) (code : Nat) (result : Int) (s : State) : State :=
  let want := (roundAway (code * 2500 : Nat) (refMv s)).toNat
  let s := drawFree s
  let cnt := rfield .FE_DAC_CTRL 0 n 5 2 s
  let bad := decide ((rfield .FE_DAC_SUP 0 n 15 0 s : Int) < (result - want).natAbs)
  let s := modDac n (fun d => { d with lastCompare := s.now, misses := if bad then d.misses + 1 else 0 }) s
  if bad && decide (cnt ≤ (getDac n s).misses) then dacFault n 0 (want % 65536 * 65536 + patternOf 16 result) s else s

/-- The read-back of slot j of a pass, where it is one and is compared: its acquisition began 500 ns or more after the channel's last
update (R474, R485). -/
def readBack (inj : Bool) (starts : List Nat) (results : List Int) (s : State) (j : Nat) : State :=
  let n := bits 6 4 (slotWord inj j s)
  let d := getDac n s
  let acq := nthD 0 (j / 2) starts
  let at' := acq + acquireClocks inj (j / 2) s
  if slotChannel inj j s ≠ 50 ∨ rfield .FE_DAC_CTRL 0 n 5 2 s = 0 ∨ calHoldsAdc s = true then s
  else match d.hist.find? (fun e => decide (e.1 ≤ acq)), d.hist.find? (fun e => decide (e.1 ≤ at')) with
    | some u, some h => if acq < u.1 + 100 then s else compareBack n h.2 (nthD 0 j results) s
    | _, _ => s

/-- The read-backs of a pass that has ended. -/
def readBacks (inj : Bool) (results : List Int) (s : State) : State :=
  let starts := seqSchedule inj s
  (List.range (seqLen inj s)).foldl (readBack inj starts results) s

/-- Settling time of a reference in step clocks: 200 µs, 50 µs, 10 µs (R462). -/
def settleClocks (ref : Nat) : Nat := if ref = 0 then 40000 else if ref = 1 then 10000 else 2000

/-- The record of a regular pass (Table 13.5). -/
def passRecord (results : List Int) (s : State) : List Byte :=
  let q := s.fe.reg
  let unsettled := !s.fe.settled || (match s.fe.refSince with
    | some t => decide (q.step < t + settleClocks (rfield .FE_ADC_CTRL 0 0 1 0 s))
    | none => false)
  let ends := results.zipIdx.any fun e => atEnd (slotChannel false e.2 s) e.1
  let flags := unsettled.toNat + 2 * s.fe.refFault.toNat + 4 * ends.toNat + 8 * q.redone.toNat
  padTo 64 (leBytes 8 q.step ++ leBytes 8 (patternOf 64 q.pos) ++ leBytes 4 q.frame ++ leBytes 4 s.fe.seqno.toNat ++
    leBytes 1 results.length ++ leBytes 1 flags ++ leBytes 6 0 ++ results.flatMap fun x => leBytes 2 (patternOf 16 x))

/-- A record put into the sample buffer, or dropped when the buffer is full (R467). -/
def putRecord (bytes : List Byte) (s : State) : State :=
  let wr := rget .FE_BUF_WR 0 0 s
  let l := rfield .FE_BUF_CFG 0 0 4 0 s
  if (wr - rget .FE_BUF_RD 0 0 s).toNat = 2 ^ l then
    let s := bump .FE_LOST 0 0 1 s
    if s.fe.bufFull then s else raiseEvent 0x0B0D 0 0 wr.toNat none { s with fe := { s.fe with bufFull := true } }
  else
    let a := rpair .FE_BUF_LO .FE_BUF_HI 0 s + 64 * (wr.toNat % 2 ^ l)
    rset .FE_BUF_WR 0 0 (wr + 1) (dramStore a bytes { s with fe := { s.fe with bufFull := false } })

/-- Whether an injected pass is in progress, or due before the regular pass would end, which it then holds up (R465). -/
def injectedFirst (s : State) : Bool :=
  decide (s.fe.inj.st = 2) ||
    (decide (s.fe.inj.st = 1) && !calHoldsAdc s && decide (delayEnd true s < (seqSchedule false s).getLastD 0))

/-- Whether a sequence's pass is over. -/
def passOver (inj : Bool) (s : State) : Bool :=
  feOn s && decide ((getSeq inj s).st = 2) && decide ((seqSchedule inj s).getLastD 0 ≤ s.now) && (inj || !injectedFirst s)

/-- ADC_PASS_END: a regular pass ends: its read-backs are judged and its record is written (R467, R474). raw: the converters' codes, slot
by slot (log entry 5). -/
def execAdcPassEnd (raw : List Int) (s : State) : Host.Outcome State Fault Refusal :=
  .next (if passOver false s then
      let results := passResults false raw s
      let s := putRecord (passRecord results s) (readBacks false results s)
      modSeq false (fun q => { q with st := 0 }) { s with fe := { s.fe with seqno := s.fe.seqno + 1 } }
    else s)

/-- The limits of injected result n (R468). -/
def checkLimit (results : List Int) (s : State) (n : Nat) : State :=
  let lim := rget .FE_INJ_LIM 0 n s
  let ch := slotChannel true n s
  let v := fun x => if signedChannel ch then signedOf 16 x else (x : Int)
  let r := nthD 0 n results
  if lim = 0 then s
  else if r < v (fieldOf 15 0 lim) || decide (v (fieldOf 31 16 lim) < r) then
    raiseEvent 0x0B0A 0 n (patternOf 16 r) none (bump .FE_LIMIT_HITS 0 0 1 s)
  else s

/-- INJECTED_PASS_END: an injected pass ends: its results are put in FE_INJ_DATA together and held against their limits (R468). -/
def execInjectedPassEnd (raw : List Int) (s : State) : Host.Outcome State Fault Refusal :=
  .next (if passOver true s then
      let results := passResults true raw s
      let s := readBacks true results s
      let word := fun (k old : Nat) => if k < results.length then patternOf 16 (nthD 0 k results) else old
      let data := fun (s : State) (k : Nat) =>
        let w := rget .FE_INJ_DATA 0 k s
        rset .FE_INJ_DATA 0 k (BitVec.ofNat 32 (word (2 * k) (fieldOf 15 0 w) + 2 ^ 16 * word (2 * k + 1) (fieldOf 31 16 w))) s
      let s := [0, 1].foldl data s
      modSeq true (fun q => { q with st := 0 }) ((List.range results.length).foldl (checkLimit results) s)
    else s)

/-! ### References (R462) -/

/-- Whether a measurement of REFIN is due: one every 1 ms (R462). -/
def refinDue (s : State) : Bool :=
  match s.fe.refinAt with
  | some t => decide (t + 200000 ≤ s.now)
  | none => true

/-- REFIN_MEASURE: REFIN measured against the band-gap; outside 2.0 to 2.6 V is a reference fault (R462). mv: what it measures. -/
def execRefinMeasure (mv : Nat) (s : State) : Host.Outcome State Fault Refusal :=
  let bad := decide (mv < 2000) || decide (2600 < mv)
  let t := { s with fe := { s.fe with refinMv := mv % 65536, refFault := bad, refinAt := some s.now } }
  .next (if !feOn s || !refinDue s then s else if bad && !s.fe.refFault then raiseEvent 0x0B0C 0 0 mv none t else t)

/-- REF_SETTLE_END: the settling time of the reference is over (R462). -/
def execRefSettleEnd (s : State) : Host.Outcome State Fault Refusal :=
  .next (match s.fe.refSince with
    | some t =>
      if feOn s && !s.fe.settled && decide (t + settleClocks (rfield .FE_ADC_CTRL 0 0 1 0 s) ≤ s.now) then
        { s with fe := { s.fe with settled := true } }
      else s
    | none => s)

/-- What a write to FE_ADC_CTRL does beside its fields: enabling starts the pass numbers and the settling, a change of reference the
settling, disabling ends the delays in progress, a pass whose delay has ended completes; a value out of range is discarded whole first (R462,
R464, R532, R564, Table 13.16). -/
def adcCtrl (v : Word) (s : State) : State :=
  if goingOff 79 s && flagOf 31 v && rangeOk .FE_ADC_CTRL v then writeBusy (regOff .FE_ADC_CTRL 0 0) s
  else
  let old := rget .FE_ADC_CTRL 0 0 s
  let s := storeWrite .FE_ADC_CTRL 0 0 v s
  let new := rget .FE_ADC_CTRL 0 0 s
  let on := flagOf 31 new && !flagOf 31 old
  let s := if on then modSeq true (fun q => { q with lastTrig := s.now }) (modSeq false (fun q => { q with lastTrig := s.now })
      { s with fe := { s.fe with seqno := 0 } })
    else s
  let s := if on || decide (fieldOf 1 0 new ≠ fieldOf 1 0 old) then { s with fe := { s.fe with settled := false, refSince := some s.now } } else s
  let stop := fun (s : State) (inj : Bool) =>
    if (getSeq inj s).st = 1 ∧ s.now < delayEnd inj s then modSeq inj (fun q => { q with st := 0 }) s else s
  if flagOf 31 new then s else [false, true].foldl stop s

/-! ### DAC channels (R469 to R475) -/

/-- The n-th and later terms of the sine series of x, in units of 2⁻⁶⁴: t is the term of order 2n − 1. -/
def sineTerms (x : Int) : Nat → Nat → Int → Int
  | 0, _, _ => 0
  | m + 1, n, t => t + sineTerms x m (n + 1) (-(t * x * x) / 2 ^ 128 / ((2 * n) * (2 * n + 1)))

/-- round(32,767 sin(2 π k / 4,096)) for k up to 1,024, from π in units of 2⁻⁶⁴. -/
def quarterSine (k : Nat) : Int :=
  let x : Int := 57952155664616982739 * k / 2048
  roundAway (32767 * sineTerms x 14 1 x) (2 ^ 64)

/-- Entry k of table 0 (R471). -/
def sineTable (k : Nat) : Int :=
  let r := k % 1024
  match k / 1024 % 4 with
  | 0 => quarterSine r
  | 1 => quarterSine (1024 - r)
  | 2 => -quarterSine r
  | _ => -quarterSine (1024 - r)

/-- Entry k of the table in force of a channel. -/
def waveEntry (n k : Nat) (s : State) : Int :=
  if rflag .FE_DAC_WAVE 0 n 31 s then (Store.getD 0 k s.fe.tbl).toInt else sineTable k

/-- The phase of a channel at an update: in mode 2 it advances by INC, the sine group applies where the phase carries or INC is 0, and a
KIND 6 firing then sets it to 0 (R471 to R473). -/
def dacPhase (n : Nat) (s : State) : State :=
  let d := getDac n s
  let inc := (rget .FE_DAC_INC 0 n s).toNat
  let wave := decide (dacMode n s = 2)
  let carry := decide (2 ^ 32 ≤ d.phase.toNat + inc) || decide (inc = 0)
  let s := if wave && carry then applyDue ⟨.FE_DAC_COMMIT, 0, n⟩ s else s
  modDac n (fun d => { d with
    phase := if d.clearPhase then 0 else if wave then d.phase + BitVec.ofNat 32 inc else d.phase
    clearPhase := false }) s

/-- The waveform code of a channel and whether it was clamped (R471). -/
def waveCode (n : Nat) (s : State) : Nat × Bool :=
  let d := getDac n s
  let y := (rfield .FE_DAC_WAVE 0 n 15 0 s : Int) +
    roundAway (rfield .FE_DAC_WAVE 0 n 30 16 s * waveEntry n (d.phase.toNat / 2 ^ 20) s) 32768
  ((clampInt 0 65535 y).toNat, decide (y < 0) || decide (65535 < y))

/-- One update of a channel: DEFAULT, CODE or the waveform by MODE; under a fault what ACTION says (R469 to R475). -/
def dacStep (s : State) (n : Nat) : State :=
  let s := dacPhase n s
  let d := getDac n s
  let w := waveCode n s
  let act := rfield .FE_DAC_CTRL 0 n 7 6 s
  let dflt := (if d.defaultOk then d.defaultCode else d.out, !d.defaultOk)
  let o := if d.fault && decide (d.cause ≠ 2) then
      (match act with
        | 1 => dflt
        | 2 => (d.out, true)
        | _ => (d.out, d.hiZ))
    else match dacMode n s with
      | 1 => (rfield .FE_DAC_CODE 0 n 15 0 s, false)
      | 2 => (w.1, false)
      | _ => dflt
  modDac n (fun d => { d with
    out := o.1
    hiZ := o.2
    clip := d.clip || (decide (dacMode n s = 2) && w.2)
    hist := (s.now, o.1) :: d.hist.take 63 }) s

/-- DAC_UPDATE: every channel updates in the step clock that is a multiple of 200 (R469). -/
def execDacUpdate (s : State) : Host.Outcome State Fault Refusal :=
  .next (if feOn s && decide (s.now % 200 = 0) && decide (s.fe.updateAt ≠ some s.now) then
      (List.range 8).foldl dacStep { s with fe := { s.fe with updateAt := some s.now } }
    else s)

/-- DAC_SUP_TIMEOUT: no compared read-back for SUP.TMO ms, and again for each further SUP.TMO ms (R474, R475, R485; log entry 141). -/
def execDacSupTimeout (n : Fin 8) (s : State) : Host.Outcome State Fault Refusal :=
  let tmo := rfield .FE_DAC_SUP 0 n.val 31 16 s
  let d := getDac n.val s
  .next (if feOn s && decide (tmo ≠ 0) && decide (dacMode n.val s ≠ 0) && decide (rfield .FE_DAC_CTRL 0 n.val 5 2 s ≠ 0) &&
      !calHoldsAdc s && decide (d.lastCompare + tmo * 200000 ≤ s.now) then
      dacFault n.val 1 0 (modDac n.val (fun d => { d with lastCompare := s.now }) s)
    else s)

/-- A write to a DAC channel's STATUS: FAULT and CLIP clear where they are written 1; a fault of this step clock stays (R475). -/
def dacStatus (n : Nat) (v : Word) (s : State) : State :=
  modDac n (fun d => { d with
    fault := d.fault && !(flagOf 31 v && decide (d.faultAt ≠ some s.now))
    clip := d.clip && !flagOf 28 v }) s

/-- DAC_FAULT_CLEAR: a host write to FE_DACn_STATUS. -/
def execDacFaultClear (n : Fin 8) (v : Word) (s : State) : Host.Outcome State Fault Refusal :=
  .next (hostWrite .FE_DAC_STATUS 0 n.val (dacStatus n.val v) s)

/-- What a write to a DAC channel's CTRL or SUP does beside its fields: the supervision time starts where supervision does (R474). -/
def dacConfig (r : RegName) (n : Nat) (v : Word) (s : State) : State :=
  let watched := fun (s : State) => decide (dacMode n s ≠ 0) && decide (rfield .FE_DAC_CTRL 0 n 5 2 s ≠ 0) &&
    decide (rfield .FE_DAC_SUP 0 n 31 16 s ≠ 0)
  let before := watched s
  let s := storeWrite r 0 n v s
  let s := if decide (rfield .FE_DAC_CTRL 0 n 5 2 s = 0) then modDac n (fun d => { d with misses := 0 }) s else s
  if watched s && !before then modDac n (fun d => { d with lastCompare := s.now }) s else s

/-! ### Table 1 (R472) -/

/-- IDX of FE_TBL advanced by an access. -/
def nextTbl (s : State) : State := rput .FE_TBL_IDX 0 0 11 0 ((rfield .FE_TBL_IDX 0 0 11 0 s + 1) % 4096) s

/-- A write to FE_TBL_DATA, Quiesced only: one that leaves the entry as it is raises no event (R6, R472). -/
def tblWrite (v : Word) (s : State) : State :=
  let k := rfield .FE_TBL_IDX 0 0 11 0 s
  let x := BitVec.ofNat 16 v.toNat
  if tblQuiesced s then nextTbl { s with fe := { s.fe with tbl := Store.setD 0 k x s.fe.tbl } }
  else if Store.getD 0 k s.fe.tbl = x then nextTbl s
  else nextTbl (writeBusy (regOff .FE_TBL_DATA 0 0) s)

/-- A read of FE_TBL_DATA. -/
def tblRead (s : State) : Word × State :=
  (BitVec.ofNat 32 (Store.getD 0 (rfield .FE_TBL_IDX 0 0 11 0 s) s.fe.tbl).toNat, nextTbl s)

/-- FE_TBL_DATA_ACCESS: a host access to FE_TBL_DATA reads or writes table 1 and advances IDX. -/
def execFeTblDataAccess (wr : Option Word) (s : State) : Host.Outcome State Fault Refusal :=
  .next (match wr with
    | some v => hostWrite .FE_TBL_DATA 0 0 (tblWrite v) s
    | none => regRead (regOff .FE_TBL_DATA 0 0) tblRead s)

/-! ### Trigger outputs (R476, R477) -/

/-- TRIG_TIME_PERIOD: a mode-1 output's period ends; a waiting trigger group applies, else a new period starts. -/
def execTrigTimePeriod (n : Fin 16) (s : State) : Host.Outcome State Fault Refusal :=
  let c : RegRef := ⟨.FE_PWM_COMMIT, 0, n.val⟩
  .next (if feOn s && decide (trigMode n.val s = 1) &&
      decide ((getTrig n.val s).periodStart + max 1 (rget .FE_PWM_A 0 n.val s).toNat ≤ s.now) then
      let s := modTrig n.val (fun t => { t with active := t.active && decide (s.now ≤ t.pulseEnd) }) s
      match s.applies.find c.off with
      | some a => if a.frame then startPeriod n.val s else applyAt c a.host s
      | none => startPeriod n.val s
    else s)

/-- TRIG_PULSE_END: an active pulse has lasted B step clocks; in modes 2 and 3 a waiting trigger group applies. -/
def execTrigPulseEnd (n : Fin 16) (s : State) : Host.Outcome State Fault Refusal :=
  .next (if feOn s && (getTrig n.val s).active && decide ((getTrig n.val s).pulseEnd ≤ s.now) then
      let s := modTrig n.val (fun t => { t with active := false }) s
      if trigMode n.val s = 2 ∨ trigMode n.val s = 3 then applyDue ⟨.FE_PWM_COMMIT, 0, n.val⟩ s else s
    else s)

end Sys2Proof.Machine
end

