-- ==== Sys2Proof/Machine/Correction.lean ====
section
/-! DEFINITION. The correction unit: escaped rows, pinned columns, checksum terms, and its row buffer (R143, R159 to R171, R567). -/

namespace Sys2Proof.Machine

/-! ### The row buffer (R168) -/

/-- A shadow row put into a rack's row buffer of 128 entries (R168). DESIGN CHOICE: in a full buffer the entry filled first gives way,
since R168 names no order (log entry 118). -/
def bufferRow (c row : Nat) (data : List Byte) (s : State) : State :=
  modRack (c / 16) (fun k =>
    let rest := if 128 ≤ k.rowBuf.length then k.rowBuf.drop 1 else k.rowBuf
    { k with rowBuf := rest ++ [⟨c, row, data⟩] }) s

/-- A shadow row in a rack's row buffer. -/
def bufferedRow (c row : Nat) (s : State) : Option (List Byte) :=
  ((getRack (c / 16) s).rowBuf.find? fun b => decide (b.cask = c ∧ b.row = row)).map (·.data)

/-- A shadow row: from the row buffer, or read through the shared cache (R168). A shadow that is lost, or whose read fails, brings
nothing; a failed read loses it (R136). -/
def shadowRowOf (c row : Nat) (p : Option PktId) (s : State) : Option (List Byte) × State :=
  if !(getCask c s).shadowOk then (none, s)
  else match bufferedRow c row s with
    | some d => (some d, s)
    | none =>
      match readDram (shadowAt c s + 512 * row) 512 p s with
      | (.ok d, s1) => (some d, bufferRow c row d s1)
      | (_, s1) => (none, shadowFails c p s1)

/-- ROW_BUFFER_FILL: a miss for a cask with correction work returns its row (R168). -/
def execRowBufferFill (c : CaskId) (row : Fin 512) (s : State) : Host.Outcome State Fault Refusal :=
  let work := (getRack (c.val / 16) s).corr.find? fun w => decide (w.cask = c.val)
  .next (match work with
    | some w => (shadowRowOf c.val row.val w.op.pkt s).2
    | none => s)

/-! ### Side lists (R159, R160, R163) -/

/-- A side-list entry: its row and BF16 value (Table 6.6); none where the slot is not VALID. -/
def sideEntry (x : Nat) : Option (Nat × Nat) := if bitAt 31 x then some (bits 30 22 x, bits 15 0 x) else none

/-- EV_SIDE_LIST and the side-list flag for a row (R163). -/
def sideBad (c : Nat) (o : CaskOp) (t row : Nat) (s : State) : State :=
  raiseEvent 0x0402 c (o.slot + 16 * t) row o.pkt (pktFlag 20 o.pkt s)

/-- A clamp: counted, raised, flagged (R160, R161). -/
def clampEvent (c : Nat) (o : CaskOp) (t detail : Nat) (s : State) : State :=
  raiseEvent 0x0401 c (o.slot + 16 * t) detail o.pkt (pktFlag 21 o.pkt (bump .CT_ESC_CLAMPS 0 0 1 s))

/-- One side-list entry used or ignored: with the rows and integers used so far, and the rows that the valid entries of lower slots
name, whether used or not (R160, R163). A cask holds all 512 rows that ROW can name. -/
def useEntry (c : Nat) (o : CaskOp) (t : Nat) (scale : Word) (escaped : Nat → Bool) (acc : State × List (Nat × Int) × List Nat)
    (e : Nat × Nat) : State × List (Nat × Int) × List Nat :=
  let v : Word := BitVec.ofNat 32 (e.2 * 2 ^ 16)
  let named := e.1 :: acc.2.2
  if !posFin32 scale || !escaped e.1 || acc.2.2.contains e.1 || (mag32 v).isNone then
    (sideBad c o t e.1 acc.1, acc.2.1, named)
  else
    let q := roundAway (sval v) (magOf scale)
    let q' := clampInt (-8388607) 8388607 q
    (if q = q' then acc.1 else clampEvent c o t e.1 acc.1, acc.2.1 ++ [(e.1, q')], named)

/-- The side list of a token: the rows used with their integers, after the events of ignored entries and of escaped rows that no entry
names (R163). -/
def useSide (c : Nat) (o : CaskOp) (t : Nat) (scale : Word) (escaped : Nat → Bool) (side : List Byte) (s : State) :
    State × List (Nat × Int) :=
  let entries := (List.range (side.length / 4)).filterMap fun k => sideEntry (leAt (4 * k) 4 side)
  let r := entries.foldl (useEntry c o t scale escaped) (s, [], [])
  let missing := (List.range 512).filter fun i => escaped i && !(r.2.1.any fun x => decide (x.1 = i))
  (missing.foldl (fun s i => sideBad c o t i s) r.1, r.2.1)

/-! ### Weights from the shadow (R161, R164, R165) -/

/-- The levels of a run of shadow weight entries. -/
def levelsIn (bs : List Byte) : List Int := (halfWords bs).flatMap fun e => entryLevels (patternOf 16 e)

/-- The shadow rows of a list of rows, or none when the shadow is lost. -/
def escapedRows (c : Nat) (p : Option PktId) : List (Nat × Int) → State → Option (List (Int × List Int)) × State
  | [], s => (some [], s)
  | x :: xs, s =>
    match shadowRowOf c x.1 p s with
    | (none, s1) => (none, s1)
    | (some d, s1) =>
      match escapedRows c p xs s1 with
      | (some r, s2) => (some ((x.2, levelsIn d) :: r), s2)
      | r => r

/-- The groups of 16 shadow columns that hold a pinned column (R165). -/
def pinnedGroups (w5 : Bool) (pin : List Word) : List Nat :=
  (List.range 16).filter fun g => (pinnedColumns w5 pin).any fun j => decide ((if w5 then j / 2 else j) / 16 = g)

/-- One group of 16 shadow columns: a sector of each of the 512 rows (R165). -/
def pinnedSectors (c g : Nat) (p : Option PktId) : List Nat → State → Option LevelRows × State
  | [], s => (some [], s)
  | i :: is, s =>
    match readDram (shadowAt c s + 512 * i + 32 * g) 32 p s with
    | (.ok d, s1) =>
      match pinnedSectors c g p is s1 with
      | (some r, s2) => (some (levelsIn d :: r), s2)
      | r => r
    | (_, s1) => (none, shadowFails c p s1)

/-- The groups that hold pinned columns, each with its 32 levels on every row. -/
def pinnedLevels (c : Nat) (p : Option PktId) : List Nat → State → Option (List (Nat × LevelRows)) × State
  | [], s => (some [], s)
  | g :: gs, s =>
    if !(getCask c s).shadowOk then (none, s)
    else match pinnedSectors c g p (List.range 512) s with
      | (none, s1) => (none, s1)
      | (some rows, s1) =>
        match pinnedLevels c p gs s1 with
        | (some r, s2) => (some ((g, rows) :: r), s2)
        | r => r

/-- The pinned columns of an operation: as its first token read them, and kept for every later token (R165). -/
def pinnedCols (w : CorrWork) (pin : List Word) (s : State) : Option (List (Nat × LevelRows)) × State :=
  match w.cols with
  | some gs => (some gs, s)
  | none =>
    match pinnedLevels w.cask w.op.pkt (pinnedGroups w.op.w5 pin) s with
    | (some gs, s) =>
      (some gs, modRack (w.cask / 16) (fun k => { k with
        corr := k.corr.map fun x => if x.op.op = w.op.op then { x with cols := some gs } else x }) s)
    | x => x

/-- The level of a pair on a row, from the groups read. -/
def pinnedLevel (gs : List (Nat × LevelRows)) (i p : Nat) : Int :=
  match gs.find? fun e => decide (e.1 = p / 32) with
  | some e => nthD 0 (p % 32) (nthD [] i e.2)
  | none => 0

/-- The weight of a pinned column on a row. -/
def pinnedWeight (w5 : Bool) (gs : List (Nat × LevelRows)) (i j : Nat) : Int :=
  if w5 then pinnedLevel gs i j else 16 * pinnedLevel gs i (2 * j) + pinnedLevel gs i (2 * j + 1)

/-! ### A token's correction (R161, R164, R171) -/

/-- C of a column: escaped rows, and the whole column where it is pinned (R161, R164). xs: the codes of the non-escaped rows by row, 0
elsewhere. -/
def corrSum (w5 : Bool) (pin : List Word) (esc : List (Int × List Int)) (gs : List (Nat × LevelRows)) (xs : List Int) (j : Nat) : Int :=
  sumList (fun e => e.1 * weightOn w5 e.2 j) esc +
    (if pinnedColumn w5 pin j then sumList (fun e => e.1 * pinnedWeight w5 gs e.2 j) xs.zipIdx else 0)

/-- One column corrected: A = round(G_c × C), limited to 32 bits (R161). -/
def corrColumn (c : Nat) (o : CaskOp) (t : Nat) (g : Word) (s : State) (e : Nat × Int) : State :=
  if e.2 = 0 then s
  else
    let a := roundAway (sval g * e.2) (2 ^ 149)
    let a' := clampInt (-2147483648) 2147483647 a
    let s := if a = a' then s else clampEvent c o t (2 ^ 16 + e.1 * 2 ^ 32) s
    accAdd (c / 16) (o.slot + e.1 / 256) t (e.1 % 256) a' s

/-- The residual entry of a row (R170). -/
def residOf (c i : Nat) (s : State) : Int × Int := Store.getD (0, 0) (c % 16 * 512 + i) (getRack (c / 16) s).resid

/-- The key of a checksum entry: slot, token and cask of the rack (R171). -/
def corrKey (slot tok c : Nat) : Nat := (16 * slot + tok) * 16 + c % 16

/-- The correction unit's four checksum terms of a token (R171). -/
def corrTerms (c : Nat) (o : CaskOp) (t : Nat) (pin : List Word) (gs : List (Nat × LevelRows)) (xs : List Int) (s : State) : State :=
  let ix := xs.zipIdx
  let x := sumList (fun e => (e.1.natAbs : Int)) ix
  let e' := sumList (fun e => e.1 * (residOf c e.2 s).1) ix
  let b := sumList (fun e => e.1 * (residOf c e.2 s).2) ix
  let majors := (List.range 256).filter fun j => pinnedPair pin (2 * j)
  let pp := sumList (fun e => e.1 * sumList (fun j => pinnedLevel gs e.2 (2 * j)) majors) ix
  modRack (c / 16) (fun k =>
    let key := corrKey o.slot t c
    let old := Store.getD ChkEntry.init key k.chk
    { k with chk := k.chk.put key { old with
        x := old.x + x
        e := old.e + e'
        b := old.b + b
        ppin := old.ppin + pp
        twin := o.w5 } }) s

/-- A token that the correction unit cannot serve: where neither part has added yet, the operation makes no add (R143, Table 11.3); else
the token enters the failed-token mask of R567. -/
def corrFails (w : CorrWork) (s : State) : State :=
  let started := w.tok ≠ 0 ∨ ((getCask w.cask s).running.any fun o => decide (o.op.op = w.op.op) && decide (0 < o.added)) ∨
    !(getCask w.cask s).hasOp w.op.op
  if started then w.op.slots.foldl (fun s x => modSlot (w.cask / 16) x (fun k => { k with lost := k.lost ||| 2 ^ w.tok }) s) s
  else rejectOp w.cask w.op s

/-- What the correction unit reads of a token: codes, scale and side list. -/
structure TokIn where
  codes : List Byte
  scale : Word
  side : List Byte
  deriving DecidableEq, Repr

/-- The operands of a token read (R159, R204, R205). -/
def readTok (w : CorrWork) (s : State) : Rd × TokIn × State :=
  let o := w.op
  let r := w.cask / 16
  let none' : TokIn := ⟨[], 0, []⟩
  match devRead r o.data 32 o.pkt s with
  | (.ok h, s) =>
    let n := if o.infmt = 1 then 256 else 512
    let e := byteAt 3 h
    match devRead r (o.data + 32 + (o.token0 + w.tok) * leAt 12 4 h + o.block * n) n o.pkt s with
    | (.ok codes, s) =>
      match devRead r (o.scale + 32 + 8 * (o.token0 + w.tok)) 8 o.pkt s with
      | (.ok sc, s) =>
        if e = 0 then (.ok [], ⟨codes, BitVec.ofNat 32 (leAt 0 4 sc), []⟩, s)
        else match devRead r (o.data + leAt 16 4 h + 4 * ((o.block * 256 + o.token0 + w.tok) * e)) (4 * e) o.pkt s with
          | (.ok side, s) => (.ok [], ⟨codes, BitVec.ofNat 32 (leAt 0 4 sc), side⟩, s)
          | (x, s) => (x, none', s)
      | (x, s) => (x, none', s)
    | (x, s) => (x, none', s)
  | (x, s) => (x, none', s)

/-- A token served: terms and adds (R161, R164, R171). A suspect cask under SUSPECT_DROP gets no add and flags the operation, and a token
whose adds the cask dropped gets none either (R175). -/
def corrServe (w : CorrWork) (pin : List Word) (i : TokIn) (s : State) : State :=
  let c := w.cask
  let o := w.op
  let a4 := decide (o.infmt = 1)
  let code := fun k => codeAt a4 i.codes k
  let escaped := fun k => decide (code k = escCode a4)
  let side := useSide c o w.tok i.scale escaped i.side s
  let xs := (List.range 512).map fun k => if escaped k then 0 else code k
  match escapedRows c o.pkt side.2 side.1 with
  | (none, s) => corrFails w (pktFlag 27 o.pkt s)
  | (some esc, s) =>
    match pinnedCols w pin s with
    | (none, s) => corrFails w (pktFlag 27 o.pkt s)
    | (some gs, s) =>
      let s := corrTerms c o w.tok pin gs xs s
      if dropsAdds c s then pktFlag 19 o.pkt s
      else if w.dropped.contains w.tok then s
      else
        let g := Store.getD one32 c s.quant.gain
        ((List.range (columns o.w5)).map fun j => (j, corrSum o.w5 pin esc gs xs j)).foldl (corrColumn c o w.tok g) s

/-- The correction work past a token; an operation whose tokens are all served leaves the unit (R167). -/
def corrNext (w : CorrWork) (s : State) : State :=
  let r := w.cask / 16
  if !corrHas r w.op.op s then s
  else if w.tok + 1 < w.op.ntok then
    modRack r (fun k => { k with corr := k.corr.map fun x => if x.op.op = w.op.op then { x with tok := w.tok + 1 } else x }) s
  else
    finishOp w.cask w.op (modRack r (fun k => { k with corr := k.corr.filter fun x => decide (x.op.op ≠ w.op.op) }) s)

/-- CORRECTION_TOKEN: the next token of the oldest operation that the correction unit holds, once the operation's pin set is fixed
(R143, R161, R167). -/
def execCorrectionToken (r : Rack) (s : State) : Host.Outcome State Fault Refusal :=
  .next (match (getRack r.val s).corr with
    | [] => s
    | w :: _ =>
      match w.pins with
      | none => s
      | some pin =>
        if frozenWhere (·.coversRack r.val) s then s
        else match readTok w s with
          | (.ok _, i, s1) => corrNext w (corrServe w pin i s1)
          | (e, _, s1) => corrNext w (corrFails w (busOf e w.op.pkt s1)))

end Sys2Proof.Machine
end

