-- ==== Sys2Proof/WellFormed.lean ====
section
/-! DEFINITION. Which commands are well formed: the operand combinations that the instruction formats admit (R264, R269, R282,
R284, R287, Tables 8.5 to 8.17). A Skovfa instruction that is not well formed has no effect but the ILLEGAL exception. Every other
command is well formed with any operands: what it does with them is its meaning's business. -/

namespace Sys2Proof

/-- The code of a vector element type (Table 8.11). -/
def VType.code : VType → Nat
  | .int8 => 0
  | .int16 => 1
  | .int32 => 2
  | .bf16 => 3
  | .fp32 => 4

/-- Lane width in bits (Table 8.11). -/
def VType.width : VType → Nat
  | .int8 => 8
  | .int16 => 16
  | .int32 => 32
  | .bf16 => 16
  | .fp32 => 32

/-- Whether an element type is a floating-point type. -/
def VType.isFloat : VType → Bool
  | .bf16 => true
  | .fp32 => true
  | _ => false

/-- Number of lanes L (Table 8.11). -/
def VType.lanes (t : VType) : Nat := 1024 / t.width

/-- The code of a number format (Table 8.15). -/
def NFmt.code : NFmt → Nat
  | .a8 => 0
  | .a4 => 1
  | .e4m3 => 2
  | .e5m2 => 3
  | .e2m1 => 4
  | .bf16 => 5
  | .fp32 => 6
  | .int8 => 7
  | .int16 => 8
  | .int32 => 9

/-- Width of a number format in bits (Table 8.15). -/
def NFmt.width : NFmt → Nat
  | .a8 => 8
  | .a4 => 4
  | .e4m3 => 8
  | .e5m2 => 8
  | .e2m1 => 4
  | .bf16 => 16
  | .fp32 => 32
  | .int8 => 8
  | .int16 => 16
  | .int32 => 32

/-- Lanes of a VCVT: 1,024 over the wider width (R282). -/
def cvtLanes (src dst : NFmt) : Nat := 1024 / max src.width dst.width

/-- Width ratio of a VCVT (R282). -/
def cvtRatio (src dst : NFmt) : Nat := max src.width dst.width / min src.width dst.width

/-- Whether VCVT converts a pair with a PART: ratio at most 4, PART below the ratio (R282). -/
def cvtOk (src dst : NFmt) (part : Fin 4) : Bool :=
  decide (cvtRatio src dst ≤ 4) && decide (part.val < cvtRatio src dst)

/-- Whether VSCL names a narrow format and a PART inside it (R284; the PART limit as R282 states it for VCVT, log entry 20). -/
def sclOk (fmt : NFmt) (part : Fin 4) : Bool := decide (fmt.code ≤ 4) && decide (part.val < 16 / fmt.width)

/-- The field width in bytes that TSET and TGET name (R287). -/
def tWidth (wd : Fin 4) : Nat := 2 ^ wd.val

/-- Well-formedness of a command. -/
def Instr.wf : Instr → Bool
  | .skCsrr _ _ _ n => decide (n.val < 8)
  | .skCsrw _ _ _ n => decide (n.val = 5)
  | .skBr _ _ c a _ => !(decide (c = .pany) || decide (c = .pnone)) || decide (a.val < 8)
  | .skSst4 _ _ d _ _ => decide (d.val ≤ 28)
  | .skVadd _ _ ty _ _ _ _ _ => !ty.isFloat
  | .skVsub _ _ ty _ _ _ _ _ => !ty.isFloat
  | .skVmul _ _ ty _ _ _ _ _ => !ty.isFloat
  | .skVmin _ _ ty _ _ _ _ _ => !ty.isFloat
  | .skVmax _ _ ty _ _ _ _ _ => !ty.isFloat
  | .skVand _ _ ty _ _ _ _ _ => !ty.isFloat
  | .skVor _ _ ty _ _ _ _ _ => !ty.isFloat
  | .skVxor _ _ ty _ _ _ _ _ => !ty.isFloat
  | .skVshl _ _ ty _ _ _ _ _ => !ty.isFloat
  | .skVshr _ _ ty _ _ _ _ _ => !ty.isFloat
  | .skVsra _ _ ty _ _ _ _ _ => !ty.isFloat
  | .skVadds _ _ ty _ _ _ _ _ => !ty.isFloat
  | .skVabs _ _ ty _ _ _ _ => !ty.isFloat
  | .skVfadd _ _ ty _ _ _ _ _ => ty.isFloat
  | .skVfsub _ _ ty _ _ _ _ _ => ty.isFloat
  | .skVfmul _ _ ty _ _ _ _ _ => ty.isFloat
  | .skVfma _ _ ty _ _ _ _ _ => ty.isFloat
  | .skVfmin _ _ ty _ _ _ _ _ => ty.isFloat
  | .skVfmax _ _ ty _ _ _ _ _ => ty.isFloat
  | .skVfmaw _ _ d _ _ _ _ => decide (d.val % 2 = 0)
  | .skVfabs _ _ ty _ _ _ _ => ty.isFloat
  | .skVfrcp _ _ ty _ _ _ _ => ty.isFloat
  | .skVfrsq _ _ ty _ _ _ _ => ty.isFloat
  | .skVfexp _ _ ty _ _ _ _ => ty.isFloat
  | .skVftanh _ _ ty _ _ _ _ => ty.isFloat
  | .skVcvt _ _ _ _ src dst part _ _ => cvtOk src dst part
  | .skVsclExpand _ _ _ _ _ fmt part _ _ => sclOk fmt part
  | .skVsclCode _ _ _ _ _ fmt part _ _ => sclOk fmt part
  | .skTset _ _ _ _ ofs wd => decide (ofs.val % tWidth wd = 0)
  | .skTget _ _ _ _ ofs wd => decide (ofs.val % tWidth wd = 0)
  | _ => true

end Sys2Proof
end

