-- ==== Sys2Proof/Decode.lean ====
section
/-! DEFINITION. Words and commands. The table of operations and events gives no row any bits, so no command is spelled by a table
word. The Skovfa instructions have words of their own (Tables 8.4 to 8.17): their encoder, which the exception record needs
(R299), and their decoder, total on any word and rejecting every reserved one (R269). -/

namespace Sys2Proof

open Machine

/-- The command a table word spells: none, since no row of the table has bits. -/
def decodeTableWord (_nbits _w : Nat) : Option Instr := none

/-! ### Formats (Table 8.4) -/

/-- A word of format REG. -/
def wReg (maj d a b p : Nat) (pn : Bool) (fn : Nat) : Word :=
  BitVec.ofNat 32 (maj * 2 ^ 26 + d * 2 ^ 21 + a * 2 ^ 16 + b * 2 ^ 11 + p * 2 ^ 8 + pn.toNat * 2 ^ 7 + fn)

/-- A word of format IMM. -/
def wImm (maj d a imm : Nat) : Word := BitVec.ofNat 32 (maj * 2 ^ 26 + d * 2 ^ 21 + a * 2 ^ 16 + imm)

/-- A word of format MEM with P zero. -/
def wMem (maj d a sz off : Nat) : Word := BitVec.ofNat 32 (maj * 2 ^ 26 + d * 2 ^ 21 + a * 2 ^ 16 + sz * 2 ^ 13 + off)

/-- A word of format BRA. -/
def wBra (maj a c disp : Nat) : Word := BitVec.ofNat 32 (maj * 2 ^ 26 + a * 2 ^ 21 + c * 2 ^ 18 + disp)

/-- A word of format JMP. -/
def wJmp (maj disp : Nat) : Word := BitVec.ofNat 32 (maj * 2 ^ 26 + disp)

/-- The code of a branch condition (Table 8.8). -/
def Cond.code : Cond → Nat
  | .eqz => 0
  | .nez => 1
  | .ltz => 2
  | .gez => 3
  | .gtz => 4
  | .lez => 5
  | .pany => 6
  | .pnone => 7

/-- The branch condition of a code. -/
def condOf : Nat → Cond
  | 0 => .eqz
  | 1 => .nez
  | 2 => .ltz
  | 3 => .gez
  | 4 => .gtz
  | 5 => .lez
  | 6 => .pany
  | _ => .pnone

/-- The vector element type of a code; the others are reserved (Table 8.11). -/
def vtypeOf : Nat → Option VType
  | 0 => some .int8
  | 1 => some .int16
  | 2 => some .int32
  | 3 => some .bf16
  | 4 => some .fp32
  | _ => none

/-- The number format of a code; 0xA to 0xF are reserved (Table 8.15). -/
def nfmtOf : Nat → Option NFmt
  | 0 => some .a8
  | 1 => some .a4
  | 2 => some .e4m3
  | 3 => some .e5m2
  | 4 => some .e2m1
  | 5 => some .bf16
  | 6 => some .fp32
  | 7 => some .int8
  | 8 => some .int16
  | 9 => some .int32
  | _ => none

/-- The word of a vector operation: OP in FN[6:3], TYPE in FN[2:0]. -/
def wVec (maj op : Nat) (ty : VType) (d a b : Nat) (p : Fin 8) (pn : Bool) : Word := wReg maj d a b p.val pn (8 * op + ty.code)

/-- The Skovfa word of a command; 0 for a command that is no Skovfa instruction. -/
def skWord : Instr → Word
  | .skNop _ _ => wReg 0x00 0 0 0 0 false 0x00
  | .skEnd _ _ => wReg 0x00 0 0 0 0 false 0x01
  | .skBrk _ _ => wReg 0x00 0 0 0 0 false 0x02
  | .skCsrr _ _ d n => wReg 0x00 d.val 0 n.val 0 false 0x03
  | .skCsrw _ _ a n => wReg 0x00 0 a.val n.val 0 false 0x04
  | .skAdd _ _ d a b => wReg 0x01 d.val a.val b.val 0 false 0x00
  | .skSub _ _ d a b => wReg 0x01 d.val a.val b.val 0 false 0x01
  | .skAnd _ _ d a b => wReg 0x01 d.val a.val b.val 0 false 0x02
  | .skOr _ _ d a b => wReg 0x01 d.val a.val b.val 0 false 0x03
  | .skXor _ _ d a b => wReg 0x01 d.val a.val b.val 0 false 0x04
  | .skShl _ _ d a b => wReg 0x01 d.val a.val b.val 0 false 0x05
  | .skShr _ _ d a b => wReg 0x01 d.val a.val b.val 0 false 0x06
  | .skSra _ _ d a b => wReg 0x01 d.val a.val b.val 0 false 0x07
  | .skSlt _ _ d a b => wReg 0x01 d.val a.val b.val 0 false 0x08
  | .skSltu _ _ d a b => wReg 0x01 d.val a.val b.val 0 false 0x09
  | .skMin _ _ d a b => wReg 0x01 d.val a.val b.val 0 false 0x0A
  | .skMax _ _ d a b => wReg 0x01 d.val a.val b.val 0 false 0x0B
  | .skMinu _ _ d a b => wReg 0x01 d.val a.val b.val 0 false 0x0C
  | .skMaxu _ _ d a b => wReg 0x01 d.val a.val b.val 0 false 0x0D
  | .skMul _ _ d a b => wReg 0x01 d.val a.val b.val 0 false 0x10
  | .skMulh _ _ d a b => wReg 0x01 d.val a.val b.val 0 false 0x11
  | .skMulhu _ _ d a b => wReg 0x01 d.val a.val b.val 0 false 0x12
  | .skDiv _ _ d a b => wReg 0x01 d.val a.val b.val 0 false 0x14
  | .skDivu _ _ d a b => wReg 0x01 d.val a.val b.val 0 false 0x15
  | .skRem _ _ d a b => wReg 0x01 d.val a.val b.val 0 false 0x16
  | .skRemu _ _ d a b => wReg 0x01 d.val a.val b.val 0 false 0x17
  | .skClz _ _ d a => wReg 0x01 d.val a.val 0 0 false 0x18
  | .skPopc _ _ d a => wReg 0x01 d.val a.val 0 0 false 0x19
  | .skFadd _ _ d a b => wReg 0x02 d.val a.val b.val 0 false 0x00
  | .skFsub _ _ d a b => wReg 0x02 d.val a.val b.val 0 false 0x01
  | .skFmul _ _ d a b => wReg 0x02 d.val a.val b.val 0 false 0x02
  | .skFmadd _ _ d a b => wReg 0x02 d.val a.val b.val 0 false 0x03
  | .skFmin _ _ d a b => wReg 0x02 d.val a.val b.val 0 false 0x04
  | .skFmax _ _ d a b => wReg 0x02 d.val a.val b.val 0 false 0x05
  | .skFdiv _ _ d a b => wReg 0x02 d.val a.val b.val 0 false 0x06
  | .skFeq _ _ d a b => wReg 0x02 d.val a.val b.val 0 false 0x08
  | .skFlt _ _ d a b => wReg 0x02 d.val a.val b.val 0 false 0x09
  | .skFle _ _ d a b => wReg 0x02 d.val a.val b.val 0 false 0x0A
  | .skFsqrt _ _ d a => wReg 0x02 d.val a.val 0 0 false 0x07
  | .skFtoi _ _ d a => wReg 0x02 d.val a.val 0 0 false 0x0C
  | .skItof _ _ d a => wReg 0x02 d.val a.val 0 0 false 0x0D
  | .skFrnd _ _ d a => wReg 0x02 d.val a.val 0 0 false 0x0E
  | .skAddi _ _ d a i => wImm 0x04 d.val a.val i.toNat
  | .skAndi _ _ d a i => wImm 0x05 d.val a.val i.toNat
  | .skOri _ _ d a i => wImm 0x06 d.val a.val i.toNat
  | .skXori _ _ d a i => wImm 0x07 d.val a.val i.toNat
  | .skSlti _ _ d a i => wImm 0x08 d.val a.val i.toNat
  | .skShli _ _ d a sh => wImm 0x09 d.val a.val sh.val
  | .skShri _ _ d a sh => wImm 0x0A d.val a.val sh.val
  | .skSrai _ _ d a sh => wImm 0x0B d.val a.val sh.val
  | .skLui _ _ d i => wImm 0x0C d.val 0 i.toNat
  | .skBr _ _ c a disp => wBra 0x10 a.val c.code disp.toNat
  | .skJ _ _ disp => wJmp 0x11 disp.toNat
  | .skJal _ _ disp => wJmp 0x12 disp.toNat
  | .skJr _ _ d a => wReg 0x13 d.val a.val 0 0 false 0
  | .skLb _ _ d a ofs => wMem 0x18 d.val a.val 0 ofs.toNat
  | .skLbu _ _ d a ofs => wMem 0x18 d.val a.val 4 ofs.toNat
  | .skLh _ _ d a ofs => wMem 0x18 d.val a.val 1 ofs.toNat
  | .skLhu _ _ d a ofs => wMem 0x18 d.val a.val 5 ofs.toNat
  | .skLw _ _ d a ofs => wMem 0x18 d.val a.val 2 ofs.toNat
  | .skLwu _ _ d a ofs => wMem 0x18 d.val a.val 6 ofs.toNat
  | .skLdd _ _ d a ofs => wMem 0x18 d.val a.val 3 ofs.toNat
  | .skVld _ _ d a sz ofs => wMem 0x19 d.val a.val sz.val ofs.toNat
  | .skVst _ _ d a sz ofs => wMem 0x1A d.val a.val sz.val ofs.toNat
  | .skSst4 _ _ d a ofs => wMem 0x1B d.val a.val 0 ofs.toNat
  | .skTld _ _ d a ofs => wMem 0x1C d.val a.val 0 ofs.toNat
  | .skTst _ _ d a ofs => wMem 0x1D d.val a.val 0 ofs.toNat
  | .skFenceL _ _ => wReg 0x1E 0 0 0 0 false 0x00
  | .skFenceD _ _ => wReg 0x1E 0 0 0 0 false 0x01
  | .skFenceP _ _ d => wReg 0x1E d.val 0 0 0 false 0x02
  | .skVadd _ _ ty d a b p pn => wVec 0x20 0 ty d.val a.val b.val p pn
  | .skVsub _ _ ty d a b p pn => wVec 0x20 1 ty d.val a.val b.val p pn
  | .skVmul _ _ ty d a b p pn => wVec 0x20 2 ty d.val a.val b.val p pn
  | .skVmin _ _ ty d a b p pn => wVec 0x20 3 ty d.val a.val b.val p pn
  | .skVmax _ _ ty d a b p pn => wVec 0x20 4 ty d.val a.val b.val p pn
  | .skVand _ _ ty d a b p pn => wVec 0x20 5 ty d.val a.val b.val p pn
  | .skVor _ _ ty d a b p pn => wVec 0x20 6 ty d.val a.val b.val p pn
  | .skVxor _ _ ty d a b p pn => wVec 0x20 7 ty d.val a.val b.val p pn
  | .skVshl _ _ ty d a b p pn => wVec 0x20 8 ty d.val a.val b.val p pn
  | .skVshr _ _ ty d a b p pn => wVec 0x20 9 ty d.val a.val b.val p pn
  | .skVsra _ _ ty d a b p pn => wVec 0x20 10 ty d.val a.val b.val p pn
  | .skVadds _ _ ty d a b p pn => wVec 0x20 11 ty d.val a.val b.val p pn
  | .skVdot4 _ _ d a b p pn => wVec 0x20 12 .int8 d.val a.val b.val p pn
  | .skVabs _ _ ty d a p pn => wVec 0x20 13 ty d.val a.val 0 p pn
  | .skVfadd _ _ ty d a b p pn => wVec 0x21 0 ty d.val a.val b.val p pn
  | .skVfsub _ _ ty d a b p pn => wVec 0x21 1 ty d.val a.val b.val p pn
  | .skVfmul _ _ ty d a b p pn => wVec 0x21 2 ty d.val a.val b.val p pn
  | .skVfma _ _ ty d a b p pn => wVec 0x21 3 ty d.val a.val b.val p pn
  | .skVfmin _ _ ty d a b p pn => wVec 0x21 4 ty d.val a.val b.val p pn
  | .skVfmax _ _ ty d a b p pn => wVec 0x21 5 ty d.val a.val b.val p pn
  | .skVfmaw _ _ d a b p pn => wVec 0x21 6 .bf16 d.val a.val b.val p pn
  | .skVfabs _ _ ty d a p pn => wVec 0x21 7 ty d.val a.val 0 p pn
  | .skVfrcp _ _ ty d a p pn => wVec 0x21 8 ty d.val a.val 0 p pn
  | .skVfrsq _ _ ty d a p pn => wVec 0x21 9 ty d.val a.val 0 p pn
  | .skVfexp _ _ ty d a p pn => wVec 0x21 10 ty d.val a.val 0 p pn
  | .skVftanh _ _ ty d a p pn => wVec 0x21 11 ty d.val a.val 0 p pn
  | .skVins _ _ ty d a b p pn => wVec 0x22 1 ty d.val a.val b.val p pn
  | .skVext _ _ ty d a b p pn => wVec 0x22 2 ty d.val a.val b.val p pn
  | .skVperm _ _ ty d a b p pn => wVec 0x22 3 ty d.val a.val b.val p pn
  | .skVsel _ _ ty d a b p pn => wVec 0x22 4 ty d.val a.val b.val p pn
  | .skVcmpeq _ _ ty d a b p pn => wVec 0x22 5 ty d.val a.val b.val p pn
  | .skVcmplt _ _ ty d a b p pn => wVec 0x22 6 ty d.val a.val b.val p pn
  | .skVcmple _ _ ty d a b p pn => wVec 0x22 7 ty d.val a.val b.val p pn
  | .skVbcast _ _ ty d a p pn => wVec 0x22 0 ty d.val a.val 0 p pn
  | .skVrsum _ _ ty d a p pn => wVec 0x22 8 ty d.val a.val 0 p pn
  | .skVrmax _ _ ty d a p pn => wVec 0x22 9 ty d.val a.val 0 p pn
  | .skVrmaxa _ _ ty d a p pn => wVec 0x22 10 ty d.val a.val 0 p pn
  | .skPand _ _ d a b p pn => wVec 0x22 11 .int8 d.val a.val b.val p pn
  | .skPor _ _ d a b p pn => wVec 0x22 12 .int8 d.val a.val b.val p pn
  | .skPxor _ _ d a b p pn => wVec 0x22 13 .int8 d.val a.val b.val p pn
  | .skPcnt _ _ d a p pn => wVec 0x22 14 .int8 d.val a.val 0 p pn
  | .skVlane _ _ ty d p pn => wVec 0x22 15 ty d.val 0 0 p pn
  | .skVcvt _ _ d a src dst part p pn => wReg 0x23 d.val a.val src.code p.val pn (16 * part.val + dst.code)
  | .skVsclExpand _ _ d a b fmt part p pn => wReg 0x24 d.val a.val b.val p.val pn (16 * part.val + fmt.code)
  | .skVsclCode _ _ d a b fmt part p pn => wReg 0x24 d.val a.val b.val p.val pn (64 + 16 * part.val + fmt.code)
  | .skQtReq _ _ d a => wReg 0x28 d.val a.val 0 0 false 0
  | .skCkMvm _ _ a => wReg 0x30 0 a.val 0 0 false 0
  | .skAccOpen _ _ d => wReg 0x31 d.val 0 0 0 false 0
  | .skAccWait _ _ a => wReg 0x31 0 a.val 0 0 false 1
  | .skAccLdp _ _ d a b => wReg 0x31 d.val a.val b.val 0 false 2
  | .skAccDrop _ _ a => wReg 0x31 0 a.val 0 0 false 3
  | .skAccStat _ _ d a => wReg 0x31 d.val a.val 0 0 false 4
  | .skDcDrain _ _ a b _ => wReg 0x32 0 a.val b.val 0 false 0
  | .skSySig _ _ a b => wReg 0x34 0 a.val b.val 0 false 0
  | .skSyWait _ _ d a b => wReg 0x34 d.val a.val b.val 0 false 1
  | .skSyWaitr _ _ d a b => wReg 0x34 d.val a.val b.val 0 false 2
  | .skSyRd _ _ d a => wReg 0x34 d.val a.val 0 0 false 3
  | .skRgPush _ _ d a b => wReg 0x38 d.val a.val b.val 0 false 0
  | .skRgStat _ _ a => wReg 0x38 0 a.val 0 0 false 1
  | .skPosRd _ _ d => wReg 0x3A d.val 0 0 0 false 0
  | .skPosFrm _ _ d => wReg 0x3A d.val 0 0 0 false 1
  | .skPosTagp _ _ d => wReg 0x3A d.val 0 0 0 false 2
  | .skPosTagf _ _ d => wReg 0x3A d.val 0 0 0 false 3
  | .skTset _ _ d a ofs wd => wImm 0x3C d.val a.val (64 * wd.val + ofs.val)
  | .skTget _ _ d a ofs wd => wImm 0x3D d.val a.val (64 * wd.val + ofs.val)
  | _ => 0

/-! ### The decoder -/

/-- The fields of a REG word. -/
structure RegF where
  d : Reg
  a : Reg
  b : Reg
  p : Fin 8
  pn : Bool
  fn : Nat
  deriving DecidableEq, Repr

/-- Five bits of a number, as a register number. -/
def regNo (x : Nat) : Reg := ⟨x % 32, by omega⟩

/-- The fields of a word read in format REG. -/
def regF (w : Nat) : RegF :=
  ⟨regNo (w / 2 ^ 21), regNo (w / 2 ^ 16), regNo (w / 2 ^ 11), ⟨w / 2 ^ 8 % 8, by omega⟩, w / 2 ^ 7 % 2 == 1, w % 2 ^ 7⟩

/-- Whether P and PN are zero. -/
def RegF.noPred (f : RegF) : Bool := decide (f.p.val = 0) && !f.pn

/-- A register number as a predicate register number, when it names one. -/
def predNo (x : Reg) : Option (Fin 8) := if h : x.val < 8 then some ⟨x.val, h⟩ else none

/-- A register number as a tile register number, when it names one. -/
def tregNo (x : Reg) : Option TReg := if h : x.val < 16 then some ⟨x.val, h⟩ else none

/-- A candidate under a condition. -/
def onlyIf (c : Bool) (i : Option Instr) : Option Instr := if c then i else none

/-- System functions (Table 8.9). -/
def decSys (r : Rack) (t : Tid) (f : RegF) : Option Instr :=
  match f.fn with
  | 0x00 => some (.skNop r t)
  | 0x01 => some (.skEnd r t)
  | 0x02 => some (.skBrk r t)
  | 0x03 => some (.skCsrr r t f.d f.b)
  | 0x04 => some (.skCsrw r t f.a f.b)
  | _ => none

/-- ALU functions (Table 8.6). -/
def decAlu (r : Rack) (t : Tid) (f : RegF) : Option Instr :=
  match f.fn with
  | 0x00 => some (.skAdd r t f.d f.a f.b)
  | 0x01 => some (.skSub r t f.d f.a f.b)
  | 0x02 => some (.skAnd r t f.d f.a f.b)
  | 0x03 => some (.skOr r t f.d f.a f.b)
  | 0x04 => some (.skXor r t f.d f.a f.b)
  | 0x05 => some (.skShl r t f.d f.a f.b)
  | 0x06 => some (.skShr r t f.d f.a f.b)
  | 0x07 => some (.skSra r t f.d f.a f.b)
  | 0x08 => some (.skSlt r t f.d f.a f.b)
  | 0x09 => some (.skSltu r t f.d f.a f.b)
  | 0x0A => some (.skMin r t f.d f.a f.b)
  | 0x0B => some (.skMax r t f.d f.a f.b)
  | 0x0C => some (.skMinu r t f.d f.a f.b)
  | 0x0D => some (.skMaxu r t f.d f.a f.b)
  | 0x10 => some (.skMul r t f.d f.a f.b)
  | 0x11 => some (.skMulh r t f.d f.a f.b)
  | 0x12 => some (.skMulhu r t f.d f.a f.b)
  | 0x14 => some (.skDiv r t f.d f.a f.b)
  | 0x15 => some (.skDivu r t f.d f.a f.b)
  | 0x16 => some (.skRem r t f.d f.a f.b)
  | 0x17 => some (.skRemu r t f.d f.a f.b)
  | 0x18 => onlyIf (f.b == 0) (some (.skClz r t f.d f.a))
  | 0x19 => onlyIf (f.b == 0) (some (.skPopc r t f.d f.a))
  | _ => none

/-- FPU functions (Table 8.7). -/
def decFpu (r : Rack) (t : Tid) (f : RegF) : Option Instr :=
  match f.fn with
  | 0x00 => some (.skFadd r t f.d f.a f.b)
  | 0x01 => some (.skFsub r t f.d f.a f.b)
  | 0x02 => some (.skFmul r t f.d f.a f.b)
  | 0x03 => some (.skFmadd r t f.d f.a f.b)
  | 0x04 => some (.skFmin r t f.d f.a f.b)
  | 0x05 => some (.skFmax r t f.d f.a f.b)
  | 0x06 => some (.skFdiv r t f.d f.a f.b)
  | 0x08 => some (.skFeq r t f.d f.a f.b)
  | 0x09 => some (.skFlt r t f.d f.a f.b)
  | 0x0A => some (.skFle r t f.d f.a f.b)
  | 0x07 => onlyIf (f.b == 0) (some (.skFsqrt r t f.d f.a))
  | 0x0C => onlyIf (f.b == 0) (some (.skFtoi r t f.d f.a))
  | 0x0D => onlyIf (f.b == 0) (some (.skItof r t f.d f.a))
  | 0x0E => onlyIf (f.b == 0) (some (.skFrnd r t f.d f.a))
  | _ => none

/-- Scalar load sizes (Table 8.10). -/
def decLd (r : Rack) (t : Tid) (d a : Reg) (sz : Nat) (ofs : BitVec 10) : Option Instr :=
  match sz with
  | 0 => some (.skLb r t d a ofs)
  | 1 => some (.skLh r t d a ofs)
  | 2 => some (.skLw r t d a ofs)
  | 3 => some (.skLdd r t d a ofs)
  | 4 => some (.skLbu r t d a ofs)
  | 5 => some (.skLhu r t d a ofs)
  | 6 => some (.skLwu r t d a ofs)
  | _ => none

/-- Vector sizes 32, 64 and 128 bytes (Table 8.10). -/
def vsize (sz : Nat) : Option (Fin 3) := if h : sz < 3 then some ⟨sz, h⟩ else none

/-- Fences (R304). -/
def decFence (r : Rack) (t : Tid) (f : RegF) : Option Instr :=
  match f.fn with
  | 0x00 => some (.skFenceL r t)
  | 0x01 => some (.skFenceD r t)
  | 0x02 => some (.skFenceP r t f.d)
  | _ => none

/-- Vector integer operations of a type (Table 8.12). -/
def decVint (r : Rack) (t : Tid) (f : RegF) (ty : VType) : Option Instr :=
  match f.fn / 8 with
  | 0 => some (.skVadd r t ty f.d f.a f.b f.p f.pn)
  | 1 => some (.skVsub r t ty f.d f.a f.b f.p f.pn)
  | 2 => some (.skVmul r t ty f.d f.a f.b f.p f.pn)
  | 3 => some (.skVmin r t ty f.d f.a f.b f.p f.pn)
  | 4 => some (.skVmax r t ty f.d f.a f.b f.p f.pn)
  | 5 => some (.skVand r t ty f.d f.a f.b f.p f.pn)
  | 6 => some (.skVor r t ty f.d f.a f.b f.p f.pn)
  | 7 => some (.skVxor r t ty f.d f.a f.b f.p f.pn)
  | 8 => some (.skVshl r t ty f.d f.a f.b f.p f.pn)
  | 9 => some (.skVshr r t ty f.d f.a f.b f.p f.pn)
  | 10 => some (.skVsra r t ty f.d f.a f.b f.p f.pn)
  | 11 => some (.skVadds r t ty f.d f.a f.b f.p f.pn)
  | 12 => onlyIf (decide (ty = .int8)) (some (.skVdot4 r t f.d f.a f.b f.p f.pn))
  | 13 => onlyIf (f.b == 0) (some (.skVabs r t ty f.d f.a f.p f.pn))
  | _ => none

/-- Vector floating-point operations of a type (Table 8.13). -/
def decVfp (r : Rack) (t : Tid) (f : RegF) (ty : VType) : Option Instr :=
  match f.fn / 8 with
  | 0 => some (.skVfadd r t ty f.d f.a f.b f.p f.pn)
  | 1 => some (.skVfsub r t ty f.d f.a f.b f.p f.pn)
  | 2 => some (.skVfmul r t ty f.d f.a f.b f.p f.pn)
  | 3 => some (.skVfma r t ty f.d f.a f.b f.p f.pn)
  | 4 => some (.skVfmin r t ty f.d f.a f.b f.p f.pn)
  | 5 => some (.skVfmax r t ty f.d f.a f.b f.p f.pn)
  | 6 => onlyIf (decide (ty = .bf16)) (some (.skVfmaw r t f.d f.a f.b f.p f.pn))
  | 7 => onlyIf (f.b == 0) (some (.skVfabs r t ty f.d f.a f.p f.pn))
  | 8 => onlyIf (f.b == 0) (some (.skVfrcp r t ty f.d f.a f.p f.pn))
  | 9 => onlyIf (f.b == 0) (some (.skVfrsq r t ty f.d f.a f.p f.pn))
  | 10 => onlyIf (f.b == 0) (some (.skVfexp r t ty f.d f.a f.p f.pn))
  | 11 => onlyIf (f.b == 0) (some (.skVftanh r t ty f.d f.a f.p f.pn))
  | _ => none

/-- A predicate operation of TYPE 0 on registers p0 to p7 (R281). -/
def decPred (ty : VType) (f : RegF) (k : Fin 8 → Fin 8 → Fin 8 → Instr) : Option Instr :=
  onlyIf (decide (ty = .int8)) (do
    let d ← predNo f.d
    let a ← predNo f.a
    let b ← predNo f.b
    pure (k d a b))

/-- Miscellaneous vector operations of a type (Table 8.14). -/
def decVmisc (r : Rack) (t : Tid) (f : RegF) (ty : VType) : Option Instr :=
  match f.fn / 8 with
  | 0 => some (.skVbcast r t ty f.d f.a f.p f.pn)
  | 1 => some (.skVins r t ty f.d f.a f.b f.p f.pn)
  | 2 => some (.skVext r t ty f.d f.a f.b f.p f.pn)
  | 3 => some (.skVperm r t ty f.d f.a f.b f.p f.pn)
  | 4 => some (.skVsel r t ty f.d f.a f.b f.p f.pn)
  | 5 => (predNo f.d).map fun d => .skVcmpeq r t ty d f.a f.b f.p f.pn
  | 6 => (predNo f.d).map fun d => .skVcmplt r t ty d f.a f.b f.p f.pn
  | 7 => (predNo f.d).map fun d => .skVcmple r t ty d f.a f.b f.p f.pn
  | 8 => some (.skVrsum r t ty f.d f.a f.p f.pn)
  | 9 => some (.skVrmax r t ty f.d f.a f.p f.pn)
  | 10 => some (.skVrmaxa r t ty f.d f.a f.p f.pn)
  | 11 => decPred ty f fun d a b => .skPand r t d a b f.p f.pn
  | 12 => decPred ty f fun d a b => .skPor r t d a b f.p f.pn
  | 13 => decPred ty f fun d a b => .skPxor r t d a b f.p f.pn
  | 14 => onlyIf (decide (ty = .int8)) ((predNo f.a).map fun a => .skPcnt r t f.d a f.p f.pn)
  | 15 => some (.skVlane r t ty f.d f.p f.pn)
  | _ => none

/-- PART, FN[5:4]. -/
def partOf (fn : Nat) : Fin 4 := ⟨fn / 16 % 4, by omega⟩

/-- VCVT (R282). -/
def decVcvt (r : Rack) (t : Tid) (f : RegF) : Option Instr :=
  onlyIf (decide (f.b.val < 16) && decide (f.fn < 64)) (do
    let src ← nfmtOf f.b.val
    let dst ← nfmtOf (f.fn % 16)
    pure (.skVcvt r t f.d f.a src dst (partOf f.fn) f.p f.pn))

/-- VSCL (R284). -/
def decVscl (r : Rack) (t : Tid) (f : RegF) : Option Instr := do
  let fmt ← nfmtOf (f.fn % 16)
  if f.fn < 64 then pure (.skVsclExpand r t f.d f.a f.b fmt (partOf f.fn) f.p f.pn)
  else pure (.skVsclCode r t f.d f.a f.b fmt (partOf f.fn) f.p f.pn)

/-- Engine instructions (Table 8.17): a field that a row leaves unnamed is zero. -/
def decEngine (r : Rack) (t : Tid) (maj : Nat) (f : RegF) : Option Instr :=
  match maj, f.fn with
  | 0x28, 0x00 => onlyIf (f.b == 0) (some (.skQtReq r t f.d f.a))
  | 0x30, 0x00 => onlyIf (f.d == 0 && f.b == 0) ((tregNo f.a).map fun a => .skCkMvm r t a)
  | 0x31, 0x00 => onlyIf (f.a == 0 && f.b == 0) (some (.skAccOpen r t f.d))
  | 0x31, 0x01 => onlyIf (f.d == 0 && f.b == 0) (some (.skAccWait r t f.a))
  | 0x31, 0x02 => some (.skAccLdp r t f.d f.a f.b)
  | 0x31, 0x03 => onlyIf (f.d == 0 && f.b == 0) (some (.skAccDrop r t f.a))
  | 0x31, 0x04 => onlyIf (f.b == 0) (some (.skAccStat r t f.d f.a))
  | 0x32, 0x00 => onlyIf (f.d == 0) (some (.skDcDrain r t f.a f.b false))
  | 0x34, 0x00 => onlyIf (f.d == 0) (some (.skSySig r t f.a f.b))
  | 0x34, 0x01 => some (.skSyWait r t f.d f.a f.b)
  | 0x34, 0x02 => some (.skSyWaitr r t f.d f.a f.b)
  | 0x34, 0x03 => onlyIf (f.b == 0) (some (.skSyRd r t f.d f.a))
  | 0x38, 0x00 => some (.skRgPush r t f.d f.a f.b)
  | 0x38, 0x01 => onlyIf (f.d == 0 && f.b == 0) (some (.skRgStat r t f.a))
  | 0x3A, 0x00 => onlyIf (f.a == 0 && f.b == 0) (some (.skPosRd r t f.d))
  | 0x3A, 0x01 => onlyIf (f.a == 0 && f.b == 0) (some (.skPosFrm r t f.d))
  | 0x3A, 0x02 => onlyIf (f.a == 0 && f.b == 0) (some (.skPosTagp r t f.d))
  | 0x3A, 0x03 => onlyIf (f.a == 0 && f.b == 0) (some (.skPosTagf r t f.d))
  | _, _ => none

/-- TSET and TGET offset and width from IMM[7:0] (R287). -/
def tFields (imm : Nat) : Fin 64 × Fin 4 := (⟨imm % 64, by omega⟩, ⟨imm / 64 % 4, by omega⟩)

/-- A shift immediate whose IMM[15:6] is zero. -/
def decShift (imm : Nat) (k : Fin 64 → Instr) : Option Instr :=
  if h : imm < 64 then some (k ⟨imm, h⟩) else none

/-- A vector operation of one of the three vector opcodes, by its TYPE. -/
def decVector (r : Rack) (t : Tid) (maj : Nat) (f : RegF) : Option Instr := do
  let ty ← vtypeOf (f.fn % 8)
  match maj with
  | 0x20 => decVint r t f ty
  | 0x21 => decVfp r t f ty
  | _ => decVmisc r t f ty

/-- A MEM word: P is zero in every one (Table 8.10). -/
def decMem (r : Rack) (t : Tid) (maj w : Nat) : Option Instr :=
  let d := regNo (w / 2 ^ 21)
  let a := regNo (w / 2 ^ 16)
  let sz := w / 2 ^ 13 % 8
  let ofs := BitVec.ofNat 10 w
  onlyIf (decide (w / 2 ^ 10 % 8 = 0)) (match maj with
    | 0x18 => decLd r t d a sz ofs
    | 0x19 => (vsize sz).map fun sz => .skVld r t d a sz ofs
    | 0x1A => (vsize sz).map fun sz => .skVst r t d a sz ofs
    | 0x1B => onlyIf (decide (sz = 0)) (some (.skSst4 r t d a ofs))
    | 0x1C => onlyIf (decide (sz = 0)) ((tregNo d).map fun d => .skTld r t d a ofs)
    | _ => onlyIf (decide (sz = 0)) ((tregNo d).map fun d => .skTst r t d a ofs))

/-- A BR word: PANY and PNONE need A[4:3] zero (Table 8.8). -/
def decBr (r : Rack) (t : Tid) (w : Nat) : Option Instr :=
  let a := regNo (w / 2 ^ 21)
  let c := w / 2 ^ 18 % 8
  onlyIf (decide (c < 6) || decide (a.val < 8)) (some (.skBr r t (condOf c) a (BitVec.ofNat 18 w)))

/-- An IMM word. -/
def decImm (r : Rack) (t : Tid) (maj w : Nat) : Option Instr :=
  let d := regNo (w / 2 ^ 21)
  let a := regNo (w / 2 ^ 16)
  let imm := w % 2 ^ 16
  match maj with
  | 0x04 => some (.skAddi r t d a (BitVec.ofNat 16 imm))
  | 0x05 => some (.skAndi r t d a (BitVec.ofNat 16 imm))
  | 0x06 => some (.skOri r t d a (BitVec.ofNat 16 imm))
  | 0x07 => some (.skXori r t d a (BitVec.ofNat 16 imm))
  | 0x08 => some (.skSlti r t d a (BitVec.ofNat 16 imm))
  | 0x09 => decShift imm fun sh => .skShli r t d a sh
  | 0x0A => decShift imm fun sh => .skShri r t d a sh
  | 0x0B => decShift imm fun sh => .skSrai r t d a sh
  | 0x0C => onlyIf (a == 0) (some (.skLui r t d (BitVec.ofNat 16 imm)))
  | 0x3C => onlyIf (decide (imm < 256)) ((tregNo d).map fun d => .skTset r t d a (tFields imm).1 (tFields imm).2)
  | _ => onlyIf (decide (imm < 256)) ((tregNo a).map fun a => .skTget r t d a (tFields imm).1 (tFields imm).2)

/-- The instruction a word reads as by its major opcode (Table 8.5), before the operand checks of Instr.wf. -/
def decWord (r : Rack) (t : Tid) (w : Nat) : Option Instr :=
  let maj := w / 2 ^ 26
  let f := regF w
  match maj with
  | 0x00 => onlyIf f.noPred (decSys r t f)
  | 0x01 => onlyIf f.noPred (decAlu r t f)
  | 0x02 => onlyIf f.noPred (decFpu r t f)
  | 0x04 => decImm r t maj w
  | 0x05 => decImm r t maj w
  | 0x06 => decImm r t maj w
  | 0x07 => decImm r t maj w
  | 0x08 => decImm r t maj w
  | 0x09 => decImm r t maj w
  | 0x0A => decImm r t maj w
  | 0x0B => decImm r t maj w
  | 0x0C => decImm r t maj w
  | 0x3C => decImm r t maj w
  | 0x3D => decImm r t maj w
  | 0x10 => decBr r t w
  | 0x11 => some (.skJ r t (BitVec.ofNat 26 w))
  | 0x12 => some (.skJal r t (BitVec.ofNat 26 w))
  | 0x13 => onlyIf (f.b == 0 && f.noPred && decide (f.fn = 0)) (some (.skJr r t f.d f.a))
  | 0x18 => decMem r t maj w
  | 0x19 => decMem r t maj w
  | 0x1A => decMem r t maj w
  | 0x1B => decMem r t maj w
  | 0x1C => decMem r t maj w
  | 0x1D => decMem r t maj w
  | 0x1E => onlyIf f.noPred (decFence r t f)
  | 0x20 => decVector r t maj f
  | 0x21 => decVector r t maj f
  | 0x22 => decVector r t maj f
  | 0x23 => decVcvt r t f
  | 0x24 => decVscl r t f
  | 0x28 => onlyIf f.noPred (decEngine r t maj f)
  | 0x30 => onlyIf f.noPred (decEngine r t maj f)
  | 0x31 => onlyIf f.noPred (decEngine r t maj f)
  | 0x32 => onlyIf f.noPred (decEngine r t maj f)
  | 0x34 => onlyIf f.noPred (decEngine r t maj f)
  | 0x38 => onlyIf f.noPred (decEngine r t maj f)
  | 0x3A => onlyIf f.noPred (decEngine r t maj f)
  | _ => none

/-- The Skovfa instruction of a word, issued by thread t of rack r; none where the word raises ILLEGAL (R269). -/
def skovfaDecode (r : Rack) (t : Tid) (w : Word) : Option Instr :=
  match decWord r t w.toNat with
  | some i => if i.wf then some i else none
  | none => none

end Sys2Proof
end

