-- ==== Sys2Proof/Machine/Operands.lean ====
section
/-! DEFINITION. The operand forms of Skovfa instructions: predicates, vectors and their lanes, tile registers, effective addresses;
what issuing an instruction takes; and how a thread takes an exception. -/

namespace Sys2Proof.Machine

/-! ### Registers of a thread (Table 8.1) -/

/-- A scalar register by its number field. -/
def Thread.s' (k : Thread) (a : Reg) : DWord := k.getS a.val

/-- The FP32 value of a scalar register: bits [31:0] (R272). -/
def Thread.f32 (k : Thread) (a : Reg) : Nat := (k.s' a).toNat % 2 ^ 32

/-- A vector register. -/
def Thread.getV (k : Thread) (a : Reg) : BitVec 1024 := Store.getD 0 a.val k.v

/-- A vector register's value replaced. -/
def Thread.putV (k : Thread) (d : Reg) (x : BitVec 1024) : Thread := { k with v := Store.setD 0 d.val x k.v }

/-- A vector register written, with good parity (R389). -/
def Thread.setV (k : Thread) (d : Reg) (x : BitVec 1024) : Thread := (k.mend (.vreg d)).putV d x

/-- A predicate register; p0 reads all ones. -/
def Thread.getP (k : Thread) (a : Fin 8) : BitVec 128 := if a.val = 0 then BitVec.allOnes 128 else Store.getD 0 a.val k.p

/-- A predicate register written; p0 discards. -/
def Thread.setP (k : Thread) (d : Fin 8) (x : BitVec 128) : Thread :=
  if d.val = 0 then k else { k with p := Store.setD 0 d.val x k.p }

/-- A tile register. -/
def Thread.getT (k : Thread) (a : TReg) : BitVec 512 := Store.getD 0 a.val k.t

/-- A tile register written, with good parity (R389). -/
def Thread.setT (k : Thread) (d : TReg) (x : BitVec 512) : Thread := { k.mend (.treg d) with t := Store.setD 0 d.val x k.t }

/-- The thread past its instruction. -/
def Thread.step (k : Thread) : Thread := { k with pc := k.pc + 4 }

/-! ### Lanes (R277, R278) -/

/-- Lane i of width w, as a number. -/
def lane (w i : Nat) (x : BitVec 1024) : Nat := x.toNat / 2 ^ (w * i) % 2 ^ w

/-- Lane i of width w, as a signed integer. -/
def laneS (w i : Nat) (x : BitVec 1024) : Int := signedOf w (lane w i x)

/-- The number whose n lanes of width w are f 0, f 1, … -/
def packLanes (w : Nat) (f : Nat → Nat) : Nat → Nat
  | 0 => 0
  | n + 1 => packLanes w f n + (f n % 2 ^ w) * 2 ^ (w * n)

/-- The vector whose lanes of width w are given. -/
def vecOf (w : Nat) (f : Nat → Nat) : BitVec 1024 := BitVec.ofNat 1024 (packLanes w f (1024 / w))

/-- Whether a predicated instruction acts on lane i (R278). -/
def Thread.active (k : Thread) (p : Fin 8) (pn : Bool) (i : Nat) : Bool := xor (bitAt i (k.getP p).toNat) pn

/-- A vector with the active lanes replaced (R278). -/
def mergeLanes (w : Nat) (act : Nat → Bool) (f : Nat → Nat) (old : BitVec 1024) : BitVec 1024 :=
  vecOf w fun i => if act i then f i else lane w i old

/-- A predicate from its lanes: bits at or above L are 0 (R278). -/
def predOf (l : Nat) (f : Nat → Bool) : BitVec 128 :=
  BitVec.ofNat 128 (packLanes 1 (fun i => if decide (i < l) && f i then 1 else 0) 128)

/-- Little-endian bytes of a vector register. -/
def vecBytes (n : Nat) (x : BitVec 1024) : List Byte := leBytes n x.toNat

/-! ### Addresses (R266, R267, R274) -/

/-- The effective address s_A + OFF × U (Table 8.10), OFF in two's complement. -/
def effAddr (k : Thread) (a : Reg) (ofs : BitVec 10) (u : Nat) : Nat :=
  (k.s' a + BitVec.ofInt 64 (ofs.toInt * u)).toNat

/-- An address error of a thread access of n bytes at a: its cause (Table 8.18), or none. Misalignment is checked first, as the
lower code has the higher priority (R297). -/
def accessCause (r : Nat) (a n align : Nat) (store : Bool) (s : State) : Option Nat :=
  if a % align ≠ 0 then some 2
  else match regionOf r a s with
    | .dram b => if b + n ≤ usable s then none else some 3
    | .sp _ o => if inWindows a o n then none else some 3
    | .peer m b =>
      if 0x2000000000 < b + n then some 3
      else if !store || decide (m = rfield .BV_IDENT 0 0 3 0 s) then some 4 else none
    | .nowhere => some 3

/-! ### Exceptions (R297 to R300) -/

/-- An exception record (Table 8.19). -/
def excRecord (r t cause flags pc addr : Nat) (insn : Word) : List Byte :=
  leBytes 1 cause ++ leBytes 1 flags ++ leBytes 1 t ++ leBytes 1 0 ++ leBytes 2 r ++ leBytes 2 0 ++ leBytes 8 pc ++
    leBytes 8 addr ++ leBytes 4 insn.toNat ++ leBytes 4 0

/-- An exception record with its MORE flag set. -/
def withMore (rec' : List Byte) : List Byte := patchAt 1 [BitVec.ofNat 8 (byteAt 1 rec' ||| 4)] rec'

/-- A thread raises an exception: it halts, its record is kept for the packet, EV_THREAD_EXC is raised; a thread that is HALTED
already only has MORE set in its record (R297, R299). -/
def raiseExc (r t cause flags pc addr : Nat) (insn : Word) (s : State) : State :=
  let k := getThread r t s
  if k.st = .halted then
    let s1 := modThread r t (fun k => { k with exc := k.exc.map withMore }) s
    modPktOf k.pkt (fun p => if p.exc = k.exc then { p with exc := p.exc.map withMore } else p) s1
  else
    let rec' := excRecord r t cause flags pc addr insn
    let s1 := modThread r t (fun k => { k with st := .halted, wait := none, exc := some rec' }) s
    let s2 := modPktOf k.pkt (fun p => { p with exc := some (p.exc.getD rec') }) s1
    raiseEvent 0x0602 r (t + 256 * cause) pc k.pkt (pktCode 2 k.pkt s2)

/-- A precise exception of the instruction at the thread's PC (R298). -/
def trap (r t cause addr : Nat) (insn : Word) (s : State) : State :=
  raiseExc r t cause 0 (getThread r t s).pc.toNat addr insn s

/-! ### Issue (R233, R268, R275) -/

/-- Whether an instruction can be fetched at a PC: a multiple of 4, in DRAM below U (R268). -/
def fetchable (pc : Nat) (s : State) : Bool := decide (pc % 4 = 0) && decide (pc + 4 ≤ usable s)

/-- Whether a load is outstanding into one of the registers an instruction uses, or, where the instruction waits for every load,
whether any is. s0 is never waited for. -/
def Thread.blocked (k : Thread) (all : Bool) (regs : List LoadDest) : Bool :=
  (all && !k.loads.isEmpty) || k.loads.any fun l => decide (l.dest ≠ .sreg 0) && regs.contains l.dest

/-- The first of the registers read whose parity fails (R389). -/
def Thread.spoilt (k : Thread) (src : List LoadDest) : Option LoadDest := src.find? (k.struck.contains ·)

/-- Whether a thread is a tile walker's, whose engine work MATMUL and CONV2D commands carry out (log entry 32). -/
def walks (k : Thread) (s : State) : Bool :=
  match k.pkt.bind fun p => findPkt p s with
  | some x => x.walk.isSome
  | none => false

/-- Whether a thread of a rack can be chosen for issue whatever its instruction is: READY, no load outstanding, and its instruction in the
rack's buffer, so that no fetch delays it (R233, R268). -/
def mayBeChosen (r : Nat) (k : Thread) (s : State) : Bool :=
  decide (k.st = .ready) && k.loads.isEmpty && ((getRack r s).buffered (k.pc.toNat / 32)).isSome && !walks k s

/-- The other threads of a rack that can be chosen now. -/
def readyOthers (r t : Nat) (s : State) : List Nat :=
  (s.threads.filter fun e => decide (e.1 / 64 = r) && decide (e.1 % 64 ≠ t) && mayBeChosen r e.2 s).map (·.1 % 64)

/-- Whether the round robin may choose a thread: none of the others that could be chosen when it issued last, and have not issued since, can
still be chosen (R233). -/
def myTurn (r t : Nat) (s : State) : Bool :=
  (Store.getD [] t (getRack r s).passed).all fun b => !mayBeChosen r (getThread r b s) s

/-- A thread's rack as the thread's issue leaves it. -/
def issuedRack (r t : Nat) (s : State) : RackSt :=
  let pc := (getThread r t s).pc.toNat
  RackSt.fetched t pc (peek (32 * (pc / 32)) 32 s) (readyOthers r t s) (getRack r s)

/-- A register whose parity fails as an instruction reads it: a precise BUS exception; the word of the instruction is the one fetched (R298,
R389, R390, Table 11.3). Where in its register file a register lies no rule says (log entry 121). -/
def registerTrap (r t : Nat) (x : LoadDest) (s : State) : State :=
  let k := getThread r t s
  trap r t 7 0 (BitVec.ofNat 32 (leNat (peek k.pc.toNat 4 s))) (parityError 4 r (Config.registerSector t x.code) k.pkt s)

/-- A READY thread issues an instruction that writes the registers dst and reads the registers src: it waits in WAIT_MEM for the loads the
instruction needs, or the instruction takes effect, unless the parity of a register it reads fails (R389, R390).
A thread that is not READY, whose turn it is not, or whose PC cannot be fetched from, issues nothing (log entry 2); nor does a walker's. -/
def issue (r : Rack) (t : Tid) (all : Bool) (dst src : List LoadDest) (f : State → State) (s : State) : State :=
  let k := getThread r.val t.val s
  if decide (k.st ≠ .ready) || !fetchable k.pc.toNat s || walks k s || !myTurn r.val t.val s then s
  else if k.blocked all (dst ++ src) then
    modThread r.val t.val (fun k => { k with st := .waitMem, wait := some (.data all (dst ++ src)), since := s.now }) s
  else
    let u := bump .RP_ISSUED r.val 0 1 (setRack r.val (issuedRack r.val t.val s) s)
    match k.spoilt src with
    | some x => registerTrap r.val t.val x u
    | none => f u

/-- An instruction that has reserved operand combinations: ILLEGAL, with no other effect, where it is not well formed (R269). -/
def issueWf (i : Instr) (r : Rack) (t : Tid) (all : Bool) (dst src : List LoadDest) (f : State → State) (s : State) : State :=
  if i.wf then issue r t all dst src f s
  else issue r t false [] [] (trap r.val t.val 1 0 (skWord i)) s

/-- A thread changed by its instruction, which moves past it. -/
def thenStep (r : Rack) (t : Tid) (f : Thread → Thread) (s : State) : State :=
  modThread r.val t.val (fun k => (f k).step) s

/-- An instruction that writes s_D from the thread's registers. -/
def putS (r : Rack) (t : Tid) (d : Reg) (f : Thread → DWord) (s : State) : State :=
  thenStep r t (fun k => k.setS d.val (f k)) s

/-- The result of an engine instruction, on its way to s_D as load data (R296). -/
def putLater (r : Rack) (t : Tid) (d : Reg) (v : DWord) (insn : Word) (s : State) : State :=
  thenStep r t (fun k => { k with loads := k.loads ++ [⟨.sreg d, 0, 8, false, some v, k.pc, insn⟩] }) s

/-- A thread that starts to wait with its instruction, whose word an exception record would need (R299, R503). -/
def putWait (r : Rack) (t : Tid) (st : TSt) (w : Wait) (insn : Word) (s : State) : State :=
  modThread r.val t.val (fun k => { k with st := st, wait := some w, since := s.now, insn := insn }) s

end Sys2Proof.Machine
end

