-- ==== Sys2Proof/Machine/Flags.lean ====
section
/-! DEFINITION. FFLAGS, the sticky floating-point flags of a thread (Table 8.2, R272): each floating-point instruction ORs in the
flags of its IEEE exceptions. -/

namespace Sys2Proof.Machine

/-- FFLAGS with the flags of an operation set. -/
def Thread.orFlags (k : Thread) (fl : Nat) : Thread := { k with fflags := k.fflags ||| BitVec.ofNat 5 fl }

/-- The flags of a list of lane results, all together. -/
def joinFlags (l : List Nat) : Nat := l.foldl (· ||| ·) 0

/-- NV when either operand is a NaN of any kind (VCMPLT, VCMPLE, FLT, FLE). -/
def nanFlag (x y : FVal) : Nat := if x.isNan || y.isNan then flNV else 0

/-- NV when either operand is a signalling NaN. -/
def snanFlags (x y : FVal) : Nat := snanFlag x ||| snanFlag y

/-- An FP32 result written to s_D with zero above it, and its flags (R272). -/
def putF (r : Rack) (t : Tid) (d : Reg) (f : Thread → Nat × Nat) (s : State) : State :=
  thenStep r t (fun k => (k.setS d.val (BitVec.ofNat 64 (f k).1)).orFlags (f k).2) s

end Sys2Proof.Machine
end

