-- ==== Sys2Proof/Machine/Scalar.lean ====
section
/-! DEFINITION. Scalar integer, branch and system instructions of Skovfa (Tables 8.2, 8.5, 8.6, 8.8, 8.9; R264, R270, R271, R273). -/

namespace Sys2Proof.Machine

open Host

/-- What the meaning of a command answers. -/
abbrev Out := Outcome State Fault Refusal

/-- A two-operand ALU instruction. -/
def alu2 (r : Rack) (t : Tid) (d a b : Reg) (op : DWord → DWord → DWord) (s : State) : State :=
  issue r t false [.sreg d] [.sreg a, .sreg b] (putS r t d fun k => op (k.s' a) (k.s' b)) s

/-- A one-operand ALU instruction, or one with an immediate. -/
def alu1 (r : Rack) (t : Tid) (d a : Reg) (op : DWord → DWord) (s : State) : State :=
  issue r t false [.sreg d] [.sreg a] (putS r t d fun k => op (k.s' a)) s

/-- 1 or 0. -/
def bit64 (c : Bool) : DWord := if c then 1 else 0

/-- A shift amount modulo 64 (R271). -/
def sh64 (b : DWord) : Nat := b.toNat % 64

/-- Signed quotient, truncated toward zero; divisor 0 gives −1 (Table 8.6). -/
def sdiv64 (a b : DWord) : DWord := if b = 0 then -1 else BitVec.ofInt 64 (Int.tdiv a.toInt b.toInt)

/-- Signed remainder, with the sign of the dividend; divisor 0 gives the dividend (Table 8.6). -/
def srem64 (a b : DWord) : DWord := if b = 0 then a else BitVec.ofInt 64 (Int.tmod a.toInt b.toInt)

/-- Unsigned quotient; divisor 0 gives all ones (Table 8.6). -/
def udiv64 (a b : DWord) : DWord := if b = 0 then -1 else BitVec.ofNat 64 (a.toNat / b.toNat)

/-- Unsigned remainder; divisor 0 gives the dividend (Table 8.6). -/
def urem64 (a b : DWord) : DWord := if b = 0 then a else BitVec.ofNat 64 (a.toNat % b.toNat)

/-- Leading zeros, 0 to 64. -/
def clz64 (a : DWord) : Nat := if a = 0 then 64 else 63 - Nat.log2 a.toNat

/-- ADD: addition (R271, Table 8.6). -/
def execSkAdd (r : Rack) (t : Tid) (d a b : Reg) (s : State) : Out := .next (alu2 r t d a b (fun x y => x + y) s)

/-- SUB: subtraction (R271, Table 8.6). -/
def execSkSub (r : Rack) (t : Tid) (d a b : Reg) (s : State) : Out := .next (alu2 r t d a b (fun x y => x - y) s)

/-- AND: bitwise AND (R271, Table 8.6). -/
def execSkAnd (r : Rack) (t : Tid) (d a b : Reg) (s : State) : Out := .next (alu2 r t d a b (fun x y => x &&& y) s)

/-- OR: bitwise OR (R271, Table 8.6). -/
def execSkOr (r : Rack) (t : Tid) (d a b : Reg) (s : State) : Out := .next (alu2 r t d a b (fun x y => x ||| y) s)

/-- XOR: bitwise exclusive OR (R271, Table 8.6). -/
def execSkXor (r : Rack) (t : Tid) (d a b : Reg) (s : State) : Out := .next (alu2 r t d a b (fun x y => x ^^^ y) s)

/-- SHL: left shift (R271, Table 8.6). -/
def execSkShl (r : Rack) (t : Tid) (d a b : Reg) (s : State) : Out := .next (alu2 r t d a b (fun x y => x <<< sh64 y) s)

/-- SHR: logical right shift (R271, Table 8.6). -/
def execSkShr (r : Rack) (t : Tid) (d a b : Reg) (s : State) : Out := .next (alu2 r t d a b (fun x y => x >>> sh64 y) s)

/-- SRA: arithmetic right shift (R271, Table 8.6). -/
def execSkSra (r : Rack) (t : Tid) (d a b : Reg) (s : State) : Out := .next (alu2 r t d a b (fun x y => x.sshiftRight (sh64 y)) s)

/-- SLT: signed set-less-than (R271, Table 8.6). -/
def execSkSlt (r : Rack) (t : Tid) (d a b : Reg) (s : State) : Out := .next (alu2 r t d a b (fun x y => bit64 (decide (x.toInt < y.toInt))) s)

/-- SLTU: unsigned set-less-than (R271, Table 8.6). -/
def execSkSltu (r : Rack) (t : Tid) (d a b : Reg) (s : State) : Out := .next (alu2 r t d a b (fun x y => bit64 (decide (x.toNat < y.toNat))) s)

/-- MIN: signed minimum (R271, Table 8.6). -/
def execSkMin (r : Rack) (t : Tid) (d a b : Reg) (s : State) : Out := .next (alu2 r t d a b (fun x y => if x.toInt < y.toInt then x else y) s)

/-- MAX: signed maximum (R271, Table 8.6). -/
def execSkMax (r : Rack) (t : Tid) (d a b : Reg) (s : State) : Out := .next (alu2 r t d a b (fun x y => if x.toInt < y.toInt then y else x) s)

/-- MINU: unsigned minimum (R271, Table 8.6). -/
def execSkMinu (r : Rack) (t : Tid) (d a b : Reg) (s : State) : Out := .next (alu2 r t d a b (fun x y => if x.toNat < y.toNat then x else y) s)

/-- MAXU: unsigned maximum (R271, Table 8.6). -/
def execSkMaxu (r : Rack) (t : Tid) (d a b : Reg) (s : State) : Out := .next (alu2 r t d a b (fun x y => if x.toNat < y.toNat then y else x) s)

/-- MUL: low 64 bits of the product (R271, Table 8.6). -/
def execSkMul (r : Rack) (t : Tid) (d a b : Reg) (s : State) : Out := .next (alu2 r t d a b (fun x y => x * y) s)

/-- MULH: high 64 bits of the signed 128-bit product (R271, Table 8.6). -/
def execSkMulh (r : Rack) (t : Tid) (d a b : Reg) (s : State) : Out := .next (alu2 r t d a b (fun x y => BitVec.ofInt 64 (x.toInt * y.toInt / (2 ^ 64 : Nat))) s)

/-- MULHU: high 64 bits of the unsigned 128-bit product (R271, Table 8.6). -/
def execSkMulhu (r : Rack) (t : Tid) (d a b : Reg) (s : State) : Out := .next (alu2 r t d a b (fun x y => BitVec.ofNat 64 (x.toNat * y.toNat / 2 ^ 64)) s)

/-- DIV: signed quotient (R271, Table 8.6). -/
def execSkDiv (r : Rack) (t : Tid) (d a b : Reg) (s : State) : Out := .next (alu2 r t d a b (sdiv64) s)

/-- DIVU: unsigned quotient (R271, Table 8.6). -/
def execSkDivu (r : Rack) (t : Tid) (d a b : Reg) (s : State) : Out := .next (alu2 r t d a b (udiv64) s)

/-- REM: signed remainder (R271, Table 8.6). -/
def execSkRem (r : Rack) (t : Tid) (d a b : Reg) (s : State) : Out := .next (alu2 r t d a b (srem64) s)

/-- REMU: unsigned remainder (R271, Table 8.6). -/
def execSkRemu (r : Rack) (t : Tid) (d a b : Reg) (s : State) : Out := .next (alu2 r t d a b (urem64) s)

/-- CLZ: leading zeros (R271, Table 8.6). -/
def execSkClz (r : Rack) (t : Tid) (d a : Reg) (s : State) : Out := .next (alu1 r t d a (fun x => BitVec.ofNat 64 (clz64 x)) s)

/-- POPC: set bits (R271, Table 8.6). -/
def execSkPopc (r : Rack) (t : Tid) (d a : Reg) (s : State) : Out := .next (alu1 r t d a (fun x => BitVec.ofNat 64 (popCount 64 x.toNat)) s)

/-- ADDI: s_A + IMM (R271, Table 8.5). -/
def execSkAddi (r : Rack) (t : Tid) (d a : Reg) (imm : BitVec 16) (s : State) : Out := .next (alu1 r t d a (fun x => x + imm.signExtend 64) s)

/-- ANDI: s_A AND IMM, IMM zero-extended (R271, Table 8.5). -/
def execSkAndi (r : Rack) (t : Tid) (d a : Reg) (imm : BitVec 16) (s : State) : Out := .next (alu1 r t d a (fun x => x &&& imm.zeroExtend 64) s)

/-- ORI: s_A OR IMM, IMM zero-extended (R271, Table 8.5). -/
def execSkOri (r : Rack) (t : Tid) (d a : Reg) (imm : BitVec 16) (s : State) : Out := .next (alu1 r t d a (fun x => x ||| imm.zeroExtend 64) s)

/-- XORI: s_A XOR IMM, IMM zero-extended (R271, Table 8.5). -/
def execSkXori (r : Rack) (t : Tid) (d a : Reg) (imm : BitVec 16) (s : State) : Out := .next (alu1 r t d a (fun x => x ^^^ imm.zeroExtend 64) s)

/-- SLTI: 1 when s_A < IMM, signed (R271, Table 8.5). -/
def execSkSlti (r : Rack) (t : Tid) (d a : Reg) (imm : BitVec 16) (s : State) : Out := .next (alu1 r t d a (fun x => bit64 (decide (x.toInt < imm.toInt))) s)

/-- SHLI: left shift by IMM[5:0] (R271, Table 8.5). -/
def execSkShli (r : Rack) (t : Tid) (d a : Reg) (sh : Fin 64) (s : State) : Out := .next (alu1 r t d a (fun x => x <<< sh.val) s)

/-- SHRI: logical right shift by IMM[5:0] (R271, Table 8.5). -/
def execSkShri (r : Rack) (t : Tid) (d a : Reg) (sh : Fin 64) (s : State) : Out := .next (alu1 r t d a (fun x => x >>> sh.val) s)

/-- SRAI: arithmetic right shift by IMM[5:0] (R271, Table 8.5). -/
def execSkSrai (r : Rack) (t : Tid) (d a : Reg) (sh : Fin 64) (s : State) : Out := .next (alu1 r t d a (fun x => x.sshiftRight sh.val) s)

/-- LUI: IMM << 16, sign-extended (Table 8.5). -/
def execSkLui (r : Rack) (t : Tid) (d : Reg) (imm : BitVec 16) (s : State) : Out :=
  .next (issue r t false [.sreg d] [] (putS r t d fun _ => BitVec.ofInt 64 (imm.toInt * 2 ^ 16)) s)

/-! ### Branches (R270, Table 8.8) -/

/-- PC + 4 × DISP. -/
def branchTo (k : Thread) (disp : Int) : DWord := k.pc + BitVec.ofInt 64 (4 * disp)

/-- Whether a branch condition holds; PANY and PNONE read p_A. -/
def condHolds (c : Cond) (k : Thread) (a : Reg) : Bool :=
  let x := (k.s' a).toInt
  let p := k.getP ⟨a.val % 8, by omega⟩
  match c with
  | .eqz => decide (x = 0)
  | .nez => decide (x ≠ 0)
  | .ltz => decide (x < 0)
  | .gez => decide (0 ≤ x)
  | .gtz => decide (0 < x)
  | .lez => decide (x ≤ 0)
  | .pany => decide (p ≠ 0)
  | .pnone => decide (p = 0)

/-- The scalar register a branch reads; PANY and PNONE read none. -/
def condReads (c : Cond) (a : Reg) : List LoadDest :=
  match c with
  | .pany => []
  | .pnone => []
  | _ => [.sreg a]

/-- BR: taken on its condition (R270, Table 8.8). -/
def execSkBr (r : Rack) (t : Tid) (cond : Cond) (a : Reg) (disp : BitVec 18) (s : State) : Out :=
  .next (issueWf (.skBr r t cond a disp) r t false [] (condReads cond a)
    (modThread r.val t.val fun k => { k with pc := if condHolds cond k a then branchTo k disp.toInt else k.pc + 4 }) s)

/-- J: jump (R270). -/
def execSkJ (r : Rack) (t : Tid) (disp : BitVec 26) (s : State) : Out :=
  .next (issue r t false [] [] (modThread r.val t.val fun k => { k with pc := branchTo k disp.toInt }) s)

/-- JAL: s31 = PC + 4, then jump (R270, Table 8.5). -/
def execSkJal (r : Rack) (t : Tid) (disp : BitVec 26) (s : State) : Out :=
  .next (issue r t false [.sreg 31] []
    (modThread r.val t.val fun k => { k.setS 31 (k.pc + 4) with pc := branchTo k disp.toInt }) s)

/-- JR: s_D = PC + 4 unless D is 0, then jump to s_A; ALIGN when bits [1:0] of s_A are not zero (R270, Table 8.5). -/
def execSkJr (r : Rack) (t : Tid) (d a : Reg) (s : State) : Out :=
  .next (issue r t false [.sreg d] [.sreg a] (fun s =>
    let x := (getThread r.val t.val s).s' a
    if x.toNat % 4 ≠ 0 then trap r.val t.val 2 x.toNat (skWord (.skJr r t d a)) s
    else modThread r.val t.val (fun k => { k.setS d.val (k.pc + 4) with pc := x }) s) s)

/-! ### System (Table 8.9) -/

/-- NOP: nothing but the next instruction (Table 8.9). -/
def execSkNop (r : Rack) (t : Tid) (s : State) : Out := .next (issue r t false [] [] (thenStep r t id) s)

/-- END: once no load is outstanding, the thread becomes FREE (R273). Its engine work goes on under its packet. -/
def execSkEnd (r : Rack) (t : Tid) (s : State) : Out :=
  .next (issue r t true [] [] (fun s => emptyIbufs (setThread r.val t.val Thread.init s)) s)

/-- BRK: the BREAK exception (Table 8.9, R297). -/
def execSkBrk (r : Rack) (t : Tid) (s : State) : Out :=
  .next (issue r t false [] [] (trap r.val t.val 6 0 (skWord (.skBrk r t))) s)

/-- Rack clocks since the last reset of a rack (Table 8.2). A step clock holds 7.5 rack clocks, and where in it the read falls is
a free value (log entry 15). -/
def rackCycle (r : Nat) (s : State) : Nat :=
  (s.now - (getRack r s).resetAt) * 15 / 2 + (Config.freeWord s.freeCtr).toNat % 8

/-- The address of a packet (R338, R339). -/
def pktAddr (p : PktId) (s : State) : Nat :=
  let c := (getRing p.ring.val s).ctx
  c.base + 64 * (p.idx.toNat % 2 ^ c.log2)

/-- A control and status register (Table 8.2). -/
def csrGet (r t : Nat) (n : Nat) (s : State) : Nat :=
  let k := getThread r t s
  match n with
  | 0 => t
  | 1 => r
  | 2 => 16 * rfield .BV_IDENT 0 0 15 4 s + rfield .BV_IDENT 0 0 3 0 s
  | 3 => rackCycle r s
  | 4 => s.now
  | 5 => k.fflags.toNat
  | 6 => match k.pkt with
    | some p => pktAddr p s
    | none => 0
  | _ => match k.pkt with
    | some p => p.ring.val
    | none => 0

/-- CSRR: s_D = CSR[B]; ILLEGAL from an unlisted number (R264). -/
def execSkCsrr (r : Rack) (t : Tid) (d : Reg) (n : Fin 32) (s : State) : Out :=
  .next (issueWf (.skCsrr r t d n) r t false [.sreg d] [] (fun s =>
    putS r t d (fun _ => BitVec.ofNat 64 (csrGet r.val t.val n.val s)) (if n.val = 3 then drawFree s else s)) s)

/-- CSRW: CSR[B] = s_A; only FFLAGS is writable, any other number is ILLEGAL (R264). -/
def execSkCsrw (r : Rack) (t : Tid) (a : Reg) (n : Fin 32) (s : State) : Out :=
  .next (issueWf (.skCsrw r t a n) r t false [] [.sreg a]
    (thenStep r t fun k => { k with fflags := (k.s' a).setWidth 5 }) s)

/-- ILLEGAL_INSTRUCTION: the word a thread issues is reserved, and raises ILLEGAL (R269). A word that is not reserved is another
command. -/
def execIllegalInstruction (r : Rack) (t : Tid) (w : Word) (s : State) : Out :=
  .next (match skovfaDecode r t w with
    | none => issue r t false [] [] (trap r.val t.val 1 0 w) s
    | some _ => s)

/-- INSTRUCTION_FETCH_FAULT: the fetch at the thread's PC fails, with ALIGN, ADDRESS or BUS in their order of priority and the FETCH
flag set (R268, R297). A fetch that succeeds is no fault; of an instruction whose sector is buffered, only the buffer's parity can fail
(R389). parity: an upset has struck the sector fetched, in the buffer where it is buffered (log entry 121). -/
def execInstructionFetchFault (r : Rack) (t : Tid) (parity : Bool) (s : State) : Out :=
  let k := getThread r.val t.val s
  let pc := k.pc.toNat
  .next (if k.st ≠ .ready then s
    else if pc % 4 ≠ 0 then raiseExc r.val t.val 2 2 pc pc 0 s
    else if usable s < pc + 4 then raiseExc r.val t.val 3 2 pc pc 0 s
    else if ((getRack r.val s).buffered (pc / 32)).isSome then
      (if parity then raiseExc r.val t.val 7 2 pc pc 0 (parityError 5 r.val (Config.bufferSector (pc / 32)) k.pkt s) else s)
    else match readDram pc 4 k.pkt (if parity then strikeSector r.val pc s else s) with
      | (.ok _, _) => s
      | (_, s1) => raiseExc r.val t.val 7 2 pc pc 0 s1)

end Sys2Proof.Machine
end

