-- ==== Sys2Proof/Machine/LoadStore.lean ====
section
/-! DEFINITION. Loads, stores and fences of Skovfa (Table 8.10; R266, R267, R274, R275, R298, R302 to R304). A store is visible at
every scope when it issues (log entry 16); a load reads memory when its data returns. -/

namespace Sys2Proof.Machine

/-! ### Loads -/

/-- A load of n bytes into a destination: its access checks, then it is outstanding (R266, R267, R274, R275). -/
def loadOp (r : Rack) (t : Tid) (dest : LoadDest) (a : Reg) (ofs : BitVec 10) (unit n align : Nat) (signed : Bool) (insn : Word)
    (s : State) : State :=
  issue r t false [dest] [.sreg a] (fun s =>
    let ea := effAddr (getThread r.val t.val s) a ofs unit
    match accessCause r.val ea n align false s with
    | some c => trap r.val t.val c ea insn s
    | none => thenStep r t (fun k => { k with loads := k.loads ++ [⟨dest, ea, n, signed, none, k.pc, insn⟩] }) s) s

/-- LB: load a byte, sign-extended (Table 8.10, R274). -/
def execSkLb (r : Rack) (t : Tid) (d a : Reg) (ofs : BitVec 10) (s : State) : Out :=
  .next (loadOp r t (.sreg d) a ofs 1 1 1 true (skWord (.skLb r t d a ofs)) s)

/-- LBU: load a byte, zero-extended (Table 8.10, R274). -/
def execSkLbu (r : Rack) (t : Tid) (d a : Reg) (ofs : BitVec 10) (s : State) : Out :=
  .next (loadOp r t (.sreg d) a ofs 1 1 1 false (skWord (.skLbu r t d a ofs)) s)

/-- LH: load a halfword, sign-extended (Table 8.10, R274). -/
def execSkLh (r : Rack) (t : Tid) (d a : Reg) (ofs : BitVec 10) (s : State) : Out :=
  .next (loadOp r t (.sreg d) a ofs 2 2 2 true (skWord (.skLh r t d a ofs)) s)

/-- LHU: load a halfword, zero-extended (Table 8.10, R274). -/
def execSkLhu (r : Rack) (t : Tid) (d a : Reg) (ofs : BitVec 10) (s : State) : Out :=
  .next (loadOp r t (.sreg d) a ofs 2 2 2 false (skWord (.skLhu r t d a ofs)) s)

/-- LW: load a word, sign-extended (Table 8.10, R274). -/
def execSkLw (r : Rack) (t : Tid) (d a : Reg) (ofs : BitVec 10) (s : State) : Out :=
  .next (loadOp r t (.sreg d) a ofs 4 4 4 true (skWord (.skLw r t d a ofs)) s)

/-- LWU: load a word, zero-extended (Table 8.10, R274). -/
def execSkLwu (r : Rack) (t : Tid) (d a : Reg) (ofs : BitVec 10) (s : State) : Out :=
  .next (loadOp r t (.sreg d) a ofs 4 4 4 false (skWord (.skLwu r t d a ofs)) s)

/-- LDD: load the 64-bit value (Table 8.10, R274). -/
def execSkLdd (r : Rack) (t : Tid) (d a : Reg) (ofs : BitVec 10) (s : State) : Out :=
  .next (loadOp r t (.sreg d) a ofs 8 8 8 false (skWord (.skLdd r t d a ofs)) s)

/-- Bytes of a vector access: 32, 64 or 128 (Table 8.10). -/
def vbytes (sz : Fin 3) : Nat := 32 * 2 ^ sz.val

/-- VLD: bytes 0 to n − 1 of v_D; the rest of v_D is zeroed when the data arrives (Table 8.10, R274). -/
def execSkVld (r : Rack) (t : Tid) (d a : Reg) (sz : Fin 3) (ofs : BitVec 10) (s : State) : Out :=
  .next (loadOp r t (.vreg d) a ofs 32 (vbytes sz) 32 false (skWord (.skVld r t d a sz ofs)) s)

/-- TLD: t_D = 64 bytes (Table 8.10, R274). -/
def execSkTld (r : Rack) (t : Tid) (d : TReg) (a : Reg) (ofs : BitVec 10) (s : State) : Out :=
  .next (loadOp r t (.treg d) a ofs 32 64 32 false (skWord (.skTld r t d a ofs)) s)

/-! ### The return of load data (R275, R298, R300) -/

/-- A thread's destination written with load data. -/
def Thread.writeLoad (k : Thread) (l : Load) (x : Nat) : Thread :=
  match l.dest with
  | .sreg d => k.setS d.val (if l.signed then BitVec.ofInt 64 (signedOf (8 * l.size) x) else BitVec.ofNat 64 x)
  | .vreg d => k.setV d (BitVec.ofNat 1024 x)
  | .treg d => k.setT d (BitVec.ofNat 512 x)

/-- A thread that waited for load data is READY again (or HELD) when nothing it waits for is outstanding (R233, R262). -/
def wakeData (r t : Nat) (s : State) : State :=
  modThread r t (fun k => match k.wait with
    | some (.data all regs) => if k.blocked all regs then k else { k with st := wakeState r k s, wait := none }
    | _ => k) s

/-- Load data delivered to its register; discarded at a HALTED thread (R300). upset: the register is struck as it is written (R389). -/
def deliverLoad (r t : Nat) (l : Load) (x : Nat) (upset : Upset) (s : State) : State :=
  if (getThread r t s).st = .halted then s
  else wakeData r t (modThread r t (fun k => let k := k.writeLoad l x; if upset = .register then k.strike l.dest else k) s)

/-- A load that met an uncorrectable error: an imprecise BUS exception (R298, Table 11.3). -/
def busLoad (r t : Nat) (l : Load) (s : State) : State := raiseExc r t 7 1 l.pc.toNat l.addr l.insn s

/-- LOAD_DATA_RETURN: the data of the k-th outstanding load of the thread arrives, or an engine's result does (R275, R296); an error
raises BUS (R298). upset: the sector read has been struck, or the register is as it is written (R389, log entry 121). -/
def execLoadDataReturn (r : Rack) (t : Tid) (k : Nat) (upset : Upset) (s : State) : Out :=
  let th := getThread r.val t.val s
  .next (match th.loads[k]? with
    | none => s
    | some l =>
      let s := modThread r.val t.val (fun th => { th with loads := th.loads.eraseIdx k }) s
      match l.result with
      | some v => deliverLoad r.val t.val l v.toNat upset s
      | none =>
        match devRead r.val l.addr l.size th.pkt (if upset = .source then strikeSector r.val l.addr s else s) with
          | (.ok bs, s1) => deliverLoad r.val t.val l (leNat bs) upset s1
          | (.badSeal, s1) => busLoad r.val t.val l (pktFlag 28 th.pkt s1)
          | (.bus, s1) => busLoad r.val t.val l s1)

/-! ### Stores -/

/-- A store of whole sectors (R235, R237, R432): its access checks, then its bytes are written, or sent to the pod member it names.
It waits for every load of the thread (R275), and for room on the link as for a full queue (R440). -/
def storeOp (r : Rack) (t : Tid) (a : Reg) (ofs : BitVec 10) (regs : List LoadDest) (n : Nat) (data : Thread → List Byte)
    (insn : Word) (s : State) : State :=
  let ea := effAddr (getThread r.val t.val s) a ofs 32
  let wait := match regionOf r.val ea s with
    | .peer m _ => !maySendPeer m s
    | _ => false
  if wait && (accessCause r.val ea n 32 true s).isNone then s
  else issue r t true [] (.sreg a :: regs) (fun s =>
    let k := getThread r.val t.val s
    match accessCause r.val ea n 32 true s with
    | some c => trap r.val t.val c ea insn s
    | none =>
      let s1 := match regionOf r.val ea s with
        | .peer m b => sendPeer m b (data k) false k.pkt (some (64 * r.val + t.val)) s
        | _ => ringProgress k.pkt (devStore r.val ea (data k) k.pkt s)
      thenStep r t id s1) s

/-- VST: stores bytes 0 to n − 1 of v_D (Table 8.10, R274). -/
def execSkVst (r : Rack) (t : Tid) (d a : Reg) (sz : Fin 3) (ofs : BitVec 10) (s : State) : Out :=
  .next (storeOp r t a ofs [.vreg d] (vbytes sz) (fun k => vecBytes (vbytes sz) (k.getV d)) (skWord (.skVst r t d a sz ofs)) s)

/-- Register number d + j, for the four registers of SST4. -/
def regPlus (d : Reg) (j : Nat) : Reg := ⟨(d.val + j) % 32, by omega⟩

/-- SST4: stores s_D to s_D+3 in that order; D above 28 is ILLEGAL (Table 8.10, R269). -/
def execSkSst4 (r : Rack) (t : Tid) (d a : Reg) (ofs : BitVec 10) (s : State) : Out :=
  .next (if (Instr.skSst4 r t d a ofs).wf then
      storeOp r t a ofs [.sreg d, .sreg (regPlus d 1), .sreg (regPlus d 2), .sreg (regPlus d 3)] 32
        (fun k => ((List.range 4).map fun j => leBytes 8 (k.s' (regPlus d j)).toNat).flatten) (skWord (.skSst4 r t d a ofs)) s
    else issueWf (.skSst4 r t d a ofs) r t true [] [] id s)

/-- TST: stores t_D (Table 8.10, R274). -/
def execSkTst (r : Rack) (t : Tid) (d : TReg) (a : Reg) (ofs : BitVec 10) (s : State) : Out :=
  .next (storeOp r t a ofs [.treg d] 64 (fun k => leBytes 64 (k.getT d).toNat) (skWord (.skTst r t d a ofs)) s)

/-! ### Fences (R304) -/

/-- A fence: it waits for every load (R275), then in WAIT_MEM for the stores before it. -/
def fenceOp (r : Rack) (t : Tid) (regs : List LoadDest) (w : Wait) (insn : Word) (s : State) : State :=
  issue r t true regs [] (putWait r t .waitMem w insn) s

/-- FENCE.L (R304). -/
def execSkFenceL (r : Rack) (t : Tid) (s : State) : Out := .next (fenceOp r t [] .fence (skWord (.skFenceL r t)) s)

/-- FENCE.D (R304). -/
def execSkFenceD (r : Rack) (t : Tid) (s : State) : Out := .next (fenceOp r t [] .fence (skWord (.skFenceD r t)) s)

/-- FENCE.P (R304). -/
def execSkFenceP (r : Rack) (t : Tid) (d : Reg) (s : State) : Out := .next (fenceOp r t [.sreg d] (.fenceP d) (skWord (.skFenceP r t d)) s)

/-- Whether a peer-window store of a thread is neither delivered nor failed (R433). -/
def peerStoresOut (r t : Nat) (s : State) : Bool :=
  s.bv.msgs.any fun m => decide (m.thread = some (64 * r + t)) && !m.isSignal && decide (m.pkt = (getThread r t s).pkt)

/-- A waiting thread past its instruction. -/
def releasePast (r t : Nat) (s : State) : State :=
  modThread r t (fun k => { k with st := wakeState r k s, wait := none, pc := k.pc + 4 }) s

/-- FENCE_COMPLETE: the stores a fence waits for are visible, or delivered or failed for FENCE.P, whose s_D says whether any failed
(R304). -/
def execFenceComplete (r : Rack) (t : Tid) (s : State) : Out :=
  let k := getThread r.val t.val s
  .next (match k.wait with
    | some .fence => releasePast r.val t.val s
    | some (.fenceP d) =>
      if peerStoresOut r.val t.val s then s else releaseWith r.val t.val d (bit64 k.peerFailed) s
    | _ => s)

end Sys2Proof.Machine
end

