-- ==== Sys2Proof/Machine/EngineOps.lean ====
section
/-! DEFINITION. Engine instructions of Skovfa (Table 8.17): the quantiser, tile registers, casks, AccMem, the decant, sync objects,
rings and the position clock (R242 to R258, R285 to R296, R305 to R307, R568). Every earlier store of the thread is visible to the
engine (R307), since a store is visible when it issues. -/

namespace Sys2Proof.Machine

/-- A DESCRIPTOR exception of the issuing instruction (Table 8.18). -/
def descTrap (r : Rack) (t : Tid) (addr : Nat) (i : Instr) (s : State) : State := trap r.val t.val 5 addr (skWord i) s

/-- The scratchpad offset of n bytes in the own-rack window, 32-byte aligned; none for any other address (R285, R293). -/
def ownWindow (a n : Nat) : Option Nat :=
  if 0x2000000000 ≤ a && decide (a + n ≤ 0x2000080000) && decide (a % 32 = 0) then some (a - 0x2000000000) else none

/-! ### The quantiser and tile registers -/

/-- QT.REQ: hands a descriptor to the rack's quantiser; s_D = 0 accepted, 1 when it holds 16 requests (R285). -/
def execSkQtReq (r : Rack) (t : Tid) (d a : Reg) (s : State) : Out :=
  .next (issue r t true [.sreg d] [.sreg a] (fun s =>
    let k := getThread r.val t.val s
    let i := Instr.skQtReq r t d a
    match ownWindow (k.s' a).toNat 64 with
    | none => descTrap r t (k.s' a).toNat i s
    | some o =>
      if (getRack r.val s).qt.length < 16 then
        putLater r t d 0 (skWord i) (modRack r.val (fun x => { x with qt := x.qt ++ [⟨o, [], k.pkt, 0, 0⟩] }) s)
      else putLater r t d 1 (skWord i) s) s)

/-- A tile register with a field replaced (R287). -/
def tileSet (x : BitVec 512) (ofs n v : Nat) : BitVec 512 :=
  BitVec.ofNat 512 (leNat (patchAt ofs (leBytes n v) (leBytes 64 x.toNat)))

/-- TSET: the low bytes of s_A into a field of t_D; a misaligned offset is ILLEGAL (R287). -/
def execSkTset (r : Rack) (t : Tid) (d : TReg) (a : Reg) (ofs : Fin 64) (wd : Fin 4) (s : State) : Out :=
  .next (issueWf (.skTset r t d a ofs wd) r t false [] [.treg d, .sreg a]
    (thenStep r t fun k => k.setT d (tileSet (k.getT d) ofs.val (tWidth wd) (k.s' a).toNat)) s)

/-- TGET: a field of t_A into s_D, zero-extended (R287). -/
def execSkTget (r : Rack) (t : Tid) (d : Reg) (a : TReg) (ofs : Fin 64) (wd : Fin 4) (s : State) : Out :=
  .next (issueWf (.skTget r t d a ofs wd) r t false [.sreg d] [.treg a]
    (putS r t d fun k => BitVec.ofNat 64 (leAt ofs.val (tWidth wd) (leBytes 64 (k.getT a).toNat))) s)

/-! ### Cask operations (R246, R247, R289, R568) -/

/-- A tile descriptor's bytes (Table 7.5). -/
abbrev Tile := List Byte

/-- The casks a tile descriptor names, in rising order, each with its index i. -/
def tileCasks (d : Tile) : List (Nat × Nat) := (maskBits 16 (leAt 16 2 d)).zipIdx

/-- The block of the i-th named cask (R247). -/
def tileBlock (d : Tile) (i : Nat) : Nat := byteAt 20 d + i * byteAt 21 d
/-- The slot of the i-th named cask (R247). -/
def tileSlot (d : Tile) (i : Nat) : Nat := byteAt 22 d % 16 + i * (byteAt 22 d / 16)
/-- The channel group of the i-th named cask (R247). -/
def tileGroup (d : Tile) (i : Nat) : Nat := byteAt 25 d + i * byteAt 26 d
/-- WMODE is W5. -/
def tileW5 (d : Tile) : Bool := bitAt 2 (byteAt 23 d)

/-- The slots an operation adds into, each with the channel group it records: S, and S + 1 in W5 (R247). -/
def tileSlots (d : Tile) (i : Nat) : List (Nat × Nat) :=
  (tileSlot d i, tileGroup d i) :: (if tileW5 d then [(tileSlot d i + 1, tileGroup d i + 1)] else [])

/-- The record an operation of this tile sets in a slot (R243). -/
def tileRec (d : Tile) (g : Nat) : SlotRec := ⟨leAt 8 8 d, byteAt 18 d, byteAt 19 d, g⟩

/-- Whether an address is 32-byte aligned and lies in DRAM below U or a scratchpad window (R246). -/
def headerPlace (r a : Nat) (s : State) : Bool := decide (a % 32 = 0) && inMemory r a 32 s

/-- Whether R246 refuses a tile descriptor on rack r. -/
def tileRefused (r : Nat) (d : Tile) (s : State) : Bool :=
  let cs := tileCasks d
  let slots := (cs.map fun c => tileSlots d c.2).flatten
  cs.isEmpty || decide (byteAt 19 d = 0) || decide (16 < byteAt 19 d) || decide (256 < byteAt 18 d + byteAt 19 d) ||
    cs.any (fun c => decide (63 < tileBlock d c.2)) || slots.any (fun x => decide (15 < x.1) || decide (31 < x.2)) ||
    slots.any (fun x => let k := getSlot r x.1 s
      decide (k.st ≠ 1) || (match k.rec' with
        | some e => decide (e ≠ tileRec d x.2)
        | none => false)) ||
    (bitAt 3 (byteAt 23 d) && decide (6 ≤ bits 4 2 (byteAt 24 d))) ||
    !headerPlace r (leAt 0 8 d) s || !headerPlace r (leAt 8 8 d) s ||
    slots.any (fun x => slots.any fun y => decide (x.1 = y.1) && decide (x.2 ≠ y.2))

/-- Whether every named cask has a free queue entry and the correction unit room for all operations together (R166, R247). -/
def tileRoom (r : Nat) (d : Tile) (s : State) : Bool :=
  (tileCasks d).all (fun c => decide ((getCask (16 * r + c.1) s).depth < 8)) &&
    decide ((getRack r s).corr.length + (tileCasks d).length ≤ 16)

/-- The threads of a rack that wait with a CK.MVM: thread, when the wait began, tile, packet. -/
def mvmWaiters (r : Nat) (s : State) : List (Nat × Nat × Tile × Option PktId) :=
  s.threads.filterMap fun e =>
    if e.1 / 64 = r then
      match e.2.wait with
      | some (.mvm tile) => if e.2.st = .held then none else some (e.1 % 64, e.2.since, leBytes 64 tile.toNat, e.2.pkt)
      | _ => none
    else none

/-- Whether a wait has lasted 4,096 rack clocks, after which room is reserved for it (R247). -/
def waitedLong (since : Nat) (s : State) : Bool := decide (4096 ≤ (s.now - since) * 15 / 2)

/-- Whether a wait that began earlier, long enough ago, keeps a later instruction out: shared casks, or correction-unit room (R247). -/
def keptOut (r : Nat) (t since : Nat) (d : Tile) (s : State) : Bool :=
  (mvmWaiters r s).any fun u =>
    decide (u.1 ≠ t) && waitedLong u.2.1 s && (decide (u.2.1 < since) || (decide (u.2.1 = since) && decide (u.1 < t))) &&
      (decide (leAt 16 2 d &&& leAt 16 2 u.2.2.1 ≠ 0) ||
        decide (16 < (getRack r s).corr.length + (tileCasks d).length + (tileCasks u.2.2.1).length))

/-- Whether every named cask takes work of a packet (R515, R523). -/
def casksServe (r : Nat) (d : Tile) (p : Option PktId) (s : State) : Bool :=
  (tileCasks d).all fun c => inService (·.coversCask (16 * r + c.1)) p s

/-- Whether an instruction may be accepted now (R247, R515, R523). -/
def mayAccept (r : Nat) (t since : Nat) (d : Tile) (p : Option PktId) (s : State) : Bool :=
  tileRoom r d s && casksServe r d p s && !keptOut r t since d s

/-- The cask operation of the i-th named cask (R247). -/
def tileOp (d : Tile) (i : Nat) (p : Option PktId) (id : Nat) : CaskOp where
  op := id
  data := leAt 0 8 d
  scale := leAt 8 8 d
  token0 := byteAt 18 d
  ntok := byteAt 19 d
  block := tileBlock d i
  slot := tileSlot d i
  group := tileGroup d i
  infmt := bits 1 0 (byteAt 23 d)
  w5 := tileW5 d
  govr := if bitAt 3 (byteAt 23 d) then some ⟨bitAt 0 (byteAt 24 d), bitAt 1 (byteAt 24 d), bits 4 2 (byteAt 24 d)⟩ else none
  pkt := p
  tile := d

/-- A slot that an accepted operation names: its record set by the first, its pending count one higher (R243, R244). -/
def countSlot (r : Nat) (rec' : SlotRec) (x : Nat) (p : Option PktId) (s : State) : State :=
  modSlot r x (fun k => { k with rec' := some (k.rec'.getD rec'), pend := k.pend + 1, pkt := if k.pkt.isSome then k.pkt else p }) s

/-- One operation enters its cask's queue and the correction unit (R166, R244); an idle cask's queue had stood empty until then (R144). -/
def enterOp (r : Nat) (d : Tile) (p : Option PktId) (s : State) (c : Nat × Nat) : State :=
  let o := tileOp d c.2 p s.nextOp
  let s := { s with nextOp := s.nextOp + 1 }
  let s := modCask (16 * r + c.1) (fun k => { k with queue := k.queue ++ [o], foundEmpty := k.foundEmpty || k.standsEmpty }) s
  let s := modRack r (fun k => { k with corr := k.corr ++ [⟨16 * r + c.1, o, 0, none, none, []⟩] }) s
  (tileSlots d c.2).foldl (fun s x => countSlot r (tileRec d x.2) x.1 p s) s

/-- Every operation of an accepted CK.MVM enters in the same rack clock (R247). -/
def enterOps (r : Nat) (d : Tile) (p : Option PktId) (s : State) : State := (tileCasks d).foldl (enterOp r d p) s

/-- CK.MVM: refused with DESCRIPTOR (R246), accepted, or waiting in WAIT_CASK for room (R247, R289). -/
def execSkCkMvm (r : Rack) (t : Tid) (a : TReg) (s : State) : Out :=
  .next (issue r t true [] [.treg a] (fun s =>
    let k := getThread r.val t.val s
    let d := leBytes 64 (k.getT a).toNat
    if tileRefused r.val d s then descTrap r t 0 (.skCkMvm r t a) s
    else if mayAccept r.val t.val s.now d k.pkt s &&
        !((mvmWaiters r.val s).any fun u => mayAccept r.val u.1 u.2.1 u.2.2.1 u.2.2.2 s) then
      thenStep r t id (enterOps r.val d k.pkt s)
    else putWait r t .waitCask (.mvm (k.getT a)) (skWord (.skCkMvm r t a)) s) s)

/-- CK_MVM_ACCEPT: the thread that has waited longest among those that can be accepted is checked again in full and accepted; a frozen
thread is not (R247, R513, R568). -/
def execCkMvmAccept (r : Rack) (t : Tid) (s : State) : Out :=
  let k := getThread r.val t.val s
  .next (match k.wait with
    | some (.mvm tile) =>
      let d := leBytes 64 tile.toNat
      let first := (mvmWaiters r.val s).all fun u =>
        decide (u.1 = t.val) || decide (k.since ≤ u.2.1) || !mayAccept r.val u.1 u.2.1 u.2.2.1 u.2.2.2 s
      if decide (k.st = .held) || !mayAccept r.val t.val k.since d k.pkt s || !first then s
      else if tileRefused r.val d s then trap r.val t.val 5 0 k.insn s
      else releasePast r.val t.val (enterOps r.val d k.pkt s)
    | _ => s)

/-! ### AccMem slots -/

/-- The lowest-numbered FREE slot of a rack (R242). -/
def freeSlot (r : Nat) (s : State) : Option Nat := (List.range 16).find? fun k => decide ((getSlot r k s).st = 0)

/-- ACC.OPEN: s_D = the lowest FREE slot, now OPEN, or −1 when none is (R242). -/
def execSkAccOpen (r : Rack) (t : Tid) (d : Reg) (s : State) : Out :=
  .next (issue r t true [.sreg d] [] (fun s =>
    let k := getThread r.val t.val s
    let w := skWord (.skAccOpen r t d)
    match freeSlot r.val s with
    | some n => putLater r t d (BitVec.ofNat 64 n) w (modSlot r.val n (fun x => { x with st := 1, pkt := k.pkt }) s)
    | none => putLater r t d (-1) w s) s)

/-- A slot operand: a number up to 15, in one of the allowed states (R288). -/
def slotOk (r : Nat) (v : DWord) (openOnly : Bool) (s : State) : Bool :=
  decide (v.toNat ≤ 15) && (!openOnly || decide ((getSlot r v.toNat s).st = 1))

/-- ACC.WAIT: completes when the slot's pending count is 0, waiting in WAIT_CASK until then (R288, R290). -/
def execSkAccWait (r : Rack) (t : Tid) (a : Reg) (s : State) : Out :=
  .next (issue r t true [] [.sreg a] (fun s =>
    let v := (getThread r.val t.val s).s' a
    if !slotOk r.val v false s then descTrap r t 0 (.skAccWait r t a) s
    else if (getSlot r.val v.toNat s).pend = 0 then thenStep r t id s
    else putWait r t .waitCask (.acc v.toNat) (skWord (.skAccWait r t a)) s) s)

/-- ACC_WAIT_COMPLETE (R290). -/
def execAccWaitComplete (r : Rack) (t : Tid) (s : State) : Out :=
  .next (match (getThread r.val t.val s).wait with
    | some (.acc k) => if (getSlot r.val k s).pend = 0 then releasePast r.val t.val s else s
    | _ => s)

/-- ACC.LDP: a partial load into an OPEN slot; s_D = 0 accepted, 1 when 4 are outstanding; a misaligned address raises ALIGN (R288,
R291). -/
def execSkAccLdp (r : Rack) (t : Tid) (d a b : Reg) (s : State) : Out :=
  .next (issue r t true [.sreg d] [.sreg a, .sreg b] (fun s =>
    let k := getThread r.val t.val s
    let v := k.s' a
    let addr := (k.s' b).toNat
    let i := Instr.skAccLdp r t d a b
    if addr % 32 ≠ 0 then trap r.val t.val 2 addr (skWord i) s
    else if !slotOk r.val v true s then descTrap r t addr i s
    else if 4 ≤ (getRack r.val s).ldp.length then putLater r t d 1 (skWord i) s
    else
      let s := modRack r.val (fun x => { x with ldp := x.ldp ++ [⟨addr, v.toNat, k.pkt⟩] }) s
      putLater r t d 0 (skWord i) (modSlot r.val v.toNat (fun x => { x with pend := x.pend + 1 }) s)) s)

/-- ACC.STAT: s_D[2:0] = the slot's state, s_D[23:8] = its pending count (R288, Table 8.17). -/
def execSkAccStat (r : Rack) (t : Tid) (d a : Reg) (s : State) : Out :=
  .next (issue r t true [.sreg d] [.sreg a] (fun s =>
    let v := (getThread r.val t.val s).s' a
    let i := Instr.skAccStat r t d a
    if !slotOk r.val v false s then descTrap r t 0 i s
    else
      let k := getSlot r.val v.toNat s
      putLater r t d (BitVec.ofNat 64 (k.st + 2 ^ 8 * (k.pend % 2 ^ 16))) (skWord i) s) s)

/-! ### Drains and drops (R250, R255, R292, R293, R568) -/

/-- Whether the decant takes one more request (R255). -/
def decantRoom (r : Nat) (s : State) : Bool := decide ((getRack r s).drains.length < 8)

/-- A drain or drop accepted, with the residual rows staged for it, if any: it seals its slot and joins the queue (R251, R292, R329,
R568). -/
def acceptStaged (r : Nat) (isDrop : Bool) (slot : Nat) (desc : List Byte) (p : Option PktId) (staged : Option (List (List Byte)))
    (s : State) : State :=
  let s := modSlot r slot (fun k => { k with st := 2 }) s
  let s := modRack r (fun k => { k with drains := k.drains ++ [⟨s.nextOp, isDrop, slot, desc, p, 0, staged⟩] }) s
  { s with nextOp := s.nextOp + 1 }

/-- A drain or drop accepted that reads its residuals itself. -/
def acceptDrain (r : Nat) (isDrop : Bool) (slot : Nat) (desc : List Byte) (p : Option PktId) (s : State) : State :=
  acceptStaged r isDrop slot desc p none s

/-- ACC.DROP: a drain that reads and writes nothing (R288, R292). -/
def execSkAccDrop (r : Rack) (t : Tid) (a : Reg) (s : State) : Out :=
  .next (issue r t true [] [.sreg a] (fun s =>
    let k := getThread r.val t.val s
    let v := k.s' a
    if !slotOk r.val v true s then descTrap r t 0 (.skAccDrop r t a) s
    else if decantRoom r.val s then thenStep r t id (acceptDrain r.val true v.toNat [] k.pkt s)
    else putWait r t .waitDrain (.drop v.toNat) (skWord (.skAccDrop r t a)) s) s)

/-- ACC_DROP_ACCEPT: a waiting drop is checked again and accepted, but for a frozen thread's (R513, R568). -/
def execAccDropAccept (r : Rack) (t : Tid) (s : State) : Out :=
  let k := getThread r.val t.val s
  .next (match k.wait with
    | some (.drop n) =>
      if decide (k.st = .held) || !decantRoom r.val s then s
      else if (getSlot r.val n s).st ≠ 1 then trap r.val t.val 5 0 k.insn s
      else releasePast r.val t.val (acceptDrain r.val true n [] k.pkt s)
    | _ => s)

/-- Chain entry k of a drain descriptor (Table 7.6). -/
def chainAt (d : List Byte) (k : Nat) : Nat := leAt (64 + 4 * k) 4 d

/-- OP of a chain entry (R252). -/
def chainOp (e : Nat) : Nat := bits 31 26 e

/-- The entries of the chain. -/
def chainOf (d : List Byte) : List Nat := (List.range (byteAt 53 d)).map (chainAt d)

/-- Bytes of an output element of OUTFMT 0x0 to 0x3 (Table 7.7). -/
def outBytes (f : Nat) : Nat := if f = 0 then 4 else if f = 1 then 2 else 1

/-- Elements of a coded token of a drain (R199). -/
def drainK (d : List Byte) : Nat := if leAt 108 2 d = 0 then leAt 48 2 d else leAt 108 2 d

/-- Whether the quantise step of a drain is rejected: R190 on its control word and outputs (R199, R250). -/
def drainQtBad (r : Nat) (d : List Byte) (s : State) : Bool :=
  let q := leAt 28 4 d
  let k := drainK d
  qCtrlBad q (BitVec.ofNat 32 (leAt 104 4 d)) || decide (k = 0) || decide (32768 < k) ||
    !goodRange r (leAt 0 8 d) (qBlockBytes (qFormat q) k (qE q)) s ||
    (decide (qFormat q < 5) && !goodRange r (leAt 96 8 d) 2080 s)

/-- Whether a chain is out of order or reserved (Table 7.8, R250, R253). -/
def chainBad (d : List Byte) : Bool :=
  let f := byteAt 52 d % 16
  let n := byteAt 53 d
  let es := chainOf d
  decide (8 < n) || es.any (fun e => decide (chainOp e = 0) || decide (8 < chainOp e) || decide (bits 25 4 e ≠ 0)) ||
    (es.zipIdx.any fun e => decide (chainOp e.1 = 8) && decide (e.2 + 1 ≠ n)) ||
    (es.any (fun e => decide (chainOp e = 8)) != decide (f = 5)) ||
    (decide (f = 4) && (decide (n ≠ 0) || decide (leAt 8 8 d ≠ 0))) ||
    (es.any (fun e => decide (chainOp e = 7)) && decide (leAt 16 8 d = 0))

/-- Whether R250 refuses a drain of a slot. -/
def drainRefused (r slot : Nat) (d : List Byte) (s : State) : Bool :=
  let k := getSlot r slot s
  let f := byteAt 52 d % 16
  let vch := leAt 48 2 d
  let vtok := byteAt 50 d
  let stride := leAt 24 4 d
  let res := byteAt 52 d / 16
  let ntok := match k.rec' with
    | some e => e.ntok
    | none => 16
  decide (k.st ≠ 1) || decide (leAt 0 8 d % 32 ≠ 0) || decide (stride % 32 ≠ 0) ||
    (decide (f < 4) && decide (stride < vch * outBytes f)) ||
    ((chainOf d).any (fun e => decide (chainOp e = 7)) && decide (stride < vch * (if res = 0 then 4 else 2))) ||
    decide (vch = 0) || decide (256 < vch) || decide (vtok = 0) || decide (ntok < vtok) || chainBad d || decide (5 < f) ||
    decide (1 < res) ||
    (decide (f = 5) && (decide (qFormat (leAt 28 4 d) = 6) || decide (qMode (leAt 28 4 d) = 2) || drainQtBad r d s ||
      decide (drainK d < leAt 110 2 d + vch)))

/-- A refused drain: DESCRIPTOR, and EV_QT_CONFIG where R190 rejects its quantise step (R190, R250). -/
def refuseDrain (r t : Nat) (d : List Byte) (addr : Nat) (w : Word) (p : Option PktId) (s : State) : State :=
  let s := if decide (byteAt 52 d % 16 = 5) && drainQtBad r d s then raiseEvent 0x0505 r 0 0 p s else s
  trap r t 5 addr w s

/-- DC.DRAIN: the descriptor is read and checked at issue; accepted when fewer than 8 drains are queued, else the thread waits in
WAIT_DRAIN. A slot that s_B names and that is none, or is not OPEN, is DESCRIPTOR whatever the read meets (R297). A
descriptor whose parity fails is a precise BUS (R250, R255, R288, R293). parity: an upset has struck its first sector (R389, log entry
121). -/
def execSkDcDrain (r : Rack) (t : Tid) (a b : Reg) (parity : Bool) (s : State) : Out :=
  .next (issue r t true [] [.sreg a, .sreg b] (fun s =>
    let k := getThread r.val t.val s
    let addr := (k.s' a).toNat
    let i := Instr.skDcDrain r t a b parity
    match ownWindow addr 128 with
    | none => descTrap r t addr i s
    | some o =>
      if decide (b ≠ 0) && !slotOk r.val (k.s' b) true s then descTrap r t addr i s
      else match spFetch r.val o 128 k.pkt (if parity then strikeSector r.val addr s else s) with
        | (.ok d, s) =>
          let slot := if b = 0 then byteAt 51 d % 16 else (k.s' b).toNat
          if drainRefused r.val slot d s then refuseDrain r.val t.val d addr (skWord i) k.pkt s
          else if decantRoom r.val s then thenStep r t id (acceptDrain r.val false slot d k.pkt s)
          else putWait r t .waitDrain (.drain slot d addr) (skWord i) s
        | (_, s) => trap r.val t.val 7 addr (skWord i) s) s)

/-- DC_DRAIN_ACCEPT: a waiting drain is checked again in full and accepted, but for a frozen thread's (R513, R568). -/
def execDcDrainAccept (r : Rack) (t : Tid) (s : State) : Out :=
  let k := getThread r.val t.val s
  .next (match k.wait with
    | some (.drain n d addr) =>
      if decide (k.st = .held) || !decantRoom r.val s then s
      else if drainRefused r.val n d s then refuseDrain r.val t.val d addr k.insn k.pkt s
      else releasePast r.val t.val (acceptDrain r.val false n d k.pkt s)
    | _ => s)

/-! ### Sync objects (R294, R295, R305, R306) -/

/-- Whether REMOTE is set in a sync object operand. -/
def opRemote (v : DWord) : Bool := bitAt 20 v.toNat

/-- The exception of a sync object operand, if it has one: ACCESS before DESCRIPTOR (R294, R297). -/
def syncCause (v : DWord) (maySignal : Bool) (s : State) : Option Nat :=
  if opRemote v && (!maySignal || decide (bits 19 16 v.toNat = rfield .BV_IDENT 0 0 3 0 s)) then some 4
  else if 2 ^ 21 ≤ v.toNat then some 5
  else none

/-- SY.SIG: signals a local object, or sends a remote signal, as a release (R294, R305, R362). -/
def execSkSySig (r : Rack) (t : Tid) (a b : Reg) (s : State) : Out :=
  let v0 := (getThread r.val t.val s).s' a
  .next (if (syncCause v0 true s).isNone && opRemote v0 && !maySendPeer (bits 19 16 v0.toNat) s then s
    else issue r t true [] [.sreg a, .sreg b] (fun s =>
      let k := getThread r.val t.val s
      let v := k.s' a
      let x := (k.s' b).toNat % 2 ^ 32
      match syncCause v true s with
      | some c => trap r.val t.val c 0 (skWord (.skSySig r t a b)) s
      | none =>
        let s := thenStep r t id s
        if opRemote v then
          sendPeer (bits 19 16 v.toNat) (v.toNat % 2 ^ 16) (leBytes 4 x) true k.pkt (some (64 * r.val + t.val)) s
        else ringProgress k.pkt (signal (v.toNat % 2 ^ 16) (signedOf 32 x) k.pkt s)) s)

/-- SY.WAIT and SY.WAITR: s_D = 0 when the count has reached the target, at once or after a wait in WAIT_SYNC (R295, R360). -/
def syWait (r : Rack) (t : Tid) (d a b : Reg) (remote : Bool) (i : Instr) (s : State) : State :=
  issue r t true [.sreg d] [.sreg a, .sreg b] (fun s =>
    let k := getThread r.val t.val s
    let v := k.s' a
    let target := (k.s' b).toNat % 2 ^ 32
    match syncCause v false s with
    | some c => trap r.val t.val c 0 (skWord i) s
    | none =>
      let o := v.toNat % 2 ^ 16
      if target ≤ (syncGet o s).toNat then putLater r t d 0 (skWord i) s
      else putWait r t .waitSync (.sync o (BitVec.ofNat 32 target) d remote) (skWord i) s) s

/-- SY.WAIT (R295). -/
def execSkSyWait (r : Rack) (t : Tid) (d a b : Reg) (s : State) : Out :=
  .next (syWait r t d a b false (.skSyWait r t d a b) s)

/-- SY.WAITR: as SY.WAIT, under the remote-wait timeout (R295, R438). -/
def execSkSyWaitr (r : Rack) (t : Tid) (d a b : Reg) (s : State) : Out :=
  .next (syWait r t d a b true (.skSyWaitr r t d a b) s)

/-- SY.RD: s_D = the object's count, zero-extended (R294, R295). -/
def execSkSyRd (r : Rack) (t : Tid) (d a : Reg) (s : State) : Out :=
  .next (issue r t true [.sreg d] [.sreg a] (fun s =>
    let v := (getThread r.val t.val s).s' a
    let i := Instr.skSyRd r t d a
    match syncCause v false s with
    | some c => trap r.val t.val c 0 (skWord i) s
    | none => putLater r t d ((syncGet (v.toNat % 2 ^ 16) s).zeroExtend 64) (skWord i) s) s)

/-! ### Rings and the position clock (R296, R344, R356, R450, R454) -/

/-- Whether a ring's MODE says that the device feeds it (Table 10.1). -/
def Ring.deviceFed (k : Ring) : Bool := bitAt 0 k.ctx.mode

/-- Whether a ring takes packets: ACTIVE, STOPPING or STOPPED (R341, R344). -/
def Ring.takes (k : Ring) : Bool :=
  match k.st with
  | .active => true
  | .stopping => true
  | .stopped => true
  | _ => false

/-- RG.PUSH: the packet in v_B is written at the ring's tail, which advances; s_D = 0 accepted, 1 full or not allowed, the latter with
EV_RING_DOORBELL; s_A[63:16] non-zero is ILLEGAL (R296, R344). -/
def execSkRgPush (r : Rack) (t : Tid) (d a b : Reg) (s : State) : Out :=
  .next (issue r t true [.sreg d] [.sreg a, .vreg b] (fun s =>
    let k := getThread r.val t.val s
    let v := (k.s' a).toNat
    let w := skWord (.skRgPush r t d a b)
    if 2 ^ 16 ≤ v then trap r.val t.val 1 0 w s
    else
      let g := getRing v s
      let size := 2 ^ g.ctx.log2
      if !g.takes || !g.deviceFed then putLater r t d 1 w (raiseEvent 0x0802 0 0 0 k.pkt s)
      else if (g.tail - g.head).toNat = size then putLater r t d 1 w s
      else
        let s := writeDram (g.ctx.base + 64 * (g.tail.toNat % size)) (vecBytes 64 (k.getV b)) s
        putLater r t d 0 w (modRing v (fun x => { x with tail := x.tail + 1, wbDue := true }) s)) s)

/-- RG.STAT: ORs s_A[31:0] into the packet's kernel status word (R356, Table 8.17). -/
def execSkRgStat (r : Rack) (t : Tid) (a : Reg) (s : State) : Out :=
  .next (issue r t true [] [.sreg a] (fun s =>
    let k := getThread r.val t.val s
    thenStep r t id (modPktOf k.pkt (fun p => { p with kstatus := p.kstatus ||| (k.s' a).setWidth 32 }) s)) s)

/-- An instruction whose result comes from outside the thread's registers. -/
def readInto (r : Rack) (t : Tid) (d : Reg) (f : State → DWord) (i : Instr) (s : State) : State :=
  issue r t true [.sreg d] [] (fun s => putLater r t d (f s) (skWord i) s) s

/-- POS.RD: s_D = the current position in µm (R450). -/
def execSkPosRd (r : Rack) (t : Tid) (d : Reg) (s : State) : Out :=
  .next (readInto r t d (fun s => BitVec.ofInt 64 (posUm s)) (.skPosRd r t d) s)

/-- POS.FRM: s_D = the current frame number (R454). -/
def execSkPosFrm (r : Rack) (t : Tid) (d : Reg) (s : State) : Out :=
  .next (readInto r t d (fun s => BitVec.ofNat 64 (posFrame s)) (.skPosFrm r t d) s)

/-- What the packet of a thread holds, or 0 for a thread of no packet. -/
def ofPkt (r t : Nat) (f : Pkt → Int) (s : State) : DWord :=
  match (getThread r t s).pkt.bind fun p => findPkt p s with
  | some k => BitVec.ofInt 64 (f k)
  | none => 0

/-- POS.TAGP: s_D = the position sampled when the packet started (R45). -/
def execSkPosTagp (r : Rack) (t : Tid) (d : Reg) (s : State) : Out :=
  .next (readInto r t d (ofPkt r.val t.val (·.pos)) (.skPosTagp r t d) s)

/-- POS.TAGF: s_D = the frame number in force when the packet started (R45). -/
def execSkPosTagf (r : Rack) (t : Tid) (d : Reg) (s : State) : Out :=
  .next (readInto r t d (ofPkt r.val t.val fun k => (k.frame : Int)) (.skPosTagf r t d) s)

end Sys2Proof.Machine
end

