-- ==== Sys2Proof/Machine/Decant.lean ====
section
/-! DEFINITION. The decant: the checks of a tile, the rescale, bias and chain, outputs and their quantise step, slot life and partial
loads; and the rack's quiesce (R172 to R174, R199, R218, R219, R227 to R229, R240 to R262). -/

namespace Sys2Proof.Machine

/-! ### Tag check (R218, R219) -/

/-- The first tag of a slot that differs from a block's. -/
def badTag (k : Slot) (want : Nat × Nat × Nat) : Option (Nat × Nat × Nat) := k.tags.find? fun t => decide (t ≠ want)

/-- Whether the tags of a slot differ among themselves, or a partial marked it skewed. -/
def slotSkewed (k : Slot) : Bool := k.skewed || (match k.tags with
  | [] => false
  | t :: _ => (badTag k t).isSome)

/-- A skewed tile: counted, raised, flagged (R218). -/
def skewEvent (r slot : Nat) (k : Slot) (want : Nat × Nat × Nat) (p : Option PktId) (s : State) : State :=
  let data := ((badTag k want).getD (k.tags.headD (0, 0, 0))).1
  raiseEvent 0x0501 r slot (data % 65536 + 2 ^ 16 * want.1) p (pktFlag 17 p (bump .QT_SKEWS 0 0 1 s))

/-! ### The checksum check (R171 to R175) -/

/-- D of R172. -/
def ChkEntry.d (e : ChkEntry) : Word := int32f (e.smaj - 256 * e.ymaj - 16 * e.ymin)

/-- D_exp of R172, for the fit in force at the operation's first integrating slice. -/
def ChkEntry.dExp (e : ChkEntry) : Word :=
  let f := e.fit.getD (0, 0)
  add32 (mul32 f.1 (int32f (e.e - e.ppin))) (mul32 f.2 (int32f e.b))

/-- T of R172 under a CT_CHK_TOL word. -/
def ChkEntry.tol (e : ChkEntry) (w : Word) : Word := int32f ((fieldOf 23 16 w : Int) * e.x / 16 + (fieldOf 11 0 w : Int) * e.q)

/-- Whether an entry passes: |RN(D − D_exp)| ≤ T (R172). -/
def ChkEntry.passes (e : ChkEntry) (w : Word) : Bool := fleV (val32 (sub32 e.d e.dExp)).abs (val32 (e.tol w))

/-- Whether the check of a cask's entry is skipped (R173). -/
def chkSkipped (c : Nat) (e : ChkEntry) (s : State) : Bool :=
  !rflag .CT_CTRL 0 0 0 s || (getCask c s).chkLost || !(getRack (c / 16) s).residOk.contains (c % 16) || !e.added

/-- A failed check recorded: counted, the cask suspect, and the event for the cask's first failure of the drain (R174). -/
def chkFailed (c slot t : Nat) (e : ChkEntry) (first : Bool) (p : Option PktId) (s : State) : State :=
  let s := setSuspect c (bump .CT_CHK_FAILS 0 0 1 s)
  if first then raiseEvent 0x0403 c (slot + 16 * t) (e.d.toNat + 2 ^ 32 * e.dExp.toNat) p s else s

/-- The entries of a slot and cask marked: their operation's failure has raised EV_CHECKSUM, whichever drain reaches the next (R174). -/
def tellChk (r slot k : Nat) (s : State) : State :=
  modRack r (fun w => { w with chk := w.chk.map fun e => if e.1 / 256 = slot ∧ e.1 % 16 = k then (e.1, { e.2 with told := true }) else e }) s

/-- A drain reaches one entry: the check is made where none of two drains has made it, and its outcome applies (R172 to R174). With the
tokens that failed. -/
def reachEntry (r slot : Nat) (p : Option PktId) (acc : State × List Nat) (x : Nat × Nat × Nat) : State × List Nat :=
  let (key, t, k) := x
  let c := 16 * r + k
  let s := acc.1
  let e := Store.getD ChkEntry.init key (getRack r s).chk
  let o := e.outcome.getD (if chkSkipped c e s then 2 else if e.passes (rget .CT_CHK_TOL 0 0 s) then 0 else 1)
  let s := modRack r (fun w => { w with chk := w.chk.put key { e with outcome := some o } }) s
  if o = 2 then (pktFlag 2 p s, acc.2)
  else if o = 0 then (s, acc.2)
  else
    let s := pktFlag 16 p s
    let s := if e.outcome.isSome then s else tellChk r (key / 256) k (chkFailed c slot t e (!e.told) p s)
    (s, acc.2 ++ [t])

/-- The checksum entries that a drain of a slot reaches, in token and cask order: its own, and those of W5 operations stored with the
slot before (R174). A token that lost its correction is not checked (R567). -/
def chkEntries (r slot : Nat) (s : State) : List (Nat × Nat × Nat) :=
  let st := (getRack r s).chk
  ((List.range 16).filter fun t => !bitAt t (getSlot r slot s).lost).flatMap fun t => (List.range 16).flatMap fun k =>
    let own := (corrKey slot t k, t, k)
    let twin := (corrKey (slot - 1) t k, t, k)
    (if (st.find own.1).isSome then [own] else []) ++
      (match st.find twin.1 with
        | some e => if 0 < slot && e.twin then [twin] else []
        | none => [])

/-- The checks of every token of a tile (R251): the state after them and the tokens that failed one. -/
def checkTile (r slot : Nat) (p : Option PktId) (s : State) : State × List Nat :=
  (chkEntries r slot s).foldl (reachEntry r slot p) (s, [])

/-- The entries of a slot released after its drain; an entry of a W5 operation once both of its drains have passed (R174). -/
def releaseChk (r slot : Nat) (s : State) : State :=
  let keep := fun (e : Nat × ChkEntry) =>
    let mine := decide (e.1 / 256 = slot) || (decide (e.1 / 256 + 1 = slot) && e.2.twin)
    if !mine then some e
    else if e.2.twin && !e.2.passed then some (e.1, { e.2 with passed := true })
    else none
  modRack r (fun w => { w with chk := w.chk.filterMap keep }) s

/-! ### Overflow (R240, R331) -/

/-- Whether an element's value lies outside 32 bits. -/
def outOf32 (x : Int) : Bool := decide (x < -2147483648) || decide (2147483647 < x)

/-- The first element of the valid lanes of a tile that lies outside 32 bits (R240, R331). -/
def firstOverflow (r slot vtok vch : Nat) (s : State) : Option (Nat × Nat) :=
  (List.range vtok).findSome? fun t => (List.range vch).findSome? fun c => if outOf32 (accGet r slot t c s) then some (t, c) else none

/-- The range check of a tile (R240). -/
def overflowTile (r slot vtok vch : Nat) (hdr : Bool) (p : Option PktId) (s : State) : State × Bool :=
  let f := firstOverflow r slot vtok vch s
  if f.isNone && !hdr then (s, false)
  else
    let s := pktFlag 22 p (rset .RP_ACC_OVF r 0 (setFlag slot true (rget .RP_ACC_OVF r 0 s)) s)
    match f with
    | some (t, c) => (raiseEvent 0x0601 r (slot + 16 * t) c p s, true)
    | none => (raiseEvent 0x0601 r (slot + 2 ^ 8) 0 p s, true)

/-- An element as the decant takes it: limited to 32 bits (R240). -/
def accWord (r slot t c : Nat) (s : State) : Int := clampInt (-2147483648) 2147483647 (accGet r slot t c s)

/-! ### Rescale, bias and chain (R227 to R229, R251, R252) -/

/-- GELU and SiLU on a finite value, within the bound of R252; the error inside it is free (log entry 17). -/
def geluQ (n : Int) (d : Nat) : Int × Nat :=
  let u := tanhQ (7978846 * (1000000 * n * d * d + 44715 * n * n * n)) (10 ^ 13 * d * d * d)
  (n * (u.2 + u.1), 2 * d * u.2)

/-- y / (1 + e^−y) of a finite value. -/
def siluQ (n : Int) (d : Nat) : Int × Nat :=
  let e := expQ (-n) d
  (n * e.2, d * (e.1 + e.2))

/-- An activation on an FP32 value. At +∞ the formula is +∞; at −∞ it has no value, so the result is free (R252, log entry 17). -/
def activation (fn : Nat) (f : Int → Nat → Int × Nat) (y : Word) : Word :=
  match val32 y with
  | .nan _ => nan32
  | .inf neg => if neg then BitVec.ofInt 32 (Config.approxErr fn y.toNat) else y
  | .fin neg n d =>
    let q := f (sgn neg n) d
    BitVec.ofNat 32 (fencode fp32 (ofQ (nudge (Config.approxErr fn y.toNat) q.1 q.2))).1

/-- min(max(y, lo), hi); a NaN propagates as the canonical NaN (R252). -/
def clamp32 (y lo hi : Word) : Word :=
  if (val32 y).isNan || (val32 lo).isNan || (val32 hi).isNan then nan32
  else BitVec.ofNat 32 (fmin fp32 (fmax fp32 y.toNat lo.toNat).1 hi.toNat).1

/-- max(y, +0); −0 and NaN pass unchanged (Table 7.8). -/
def relu32 (y : Word) : Word := if neg32 y && decide (y ≠ 0x80000000#32) && !(val32 y).isNan then 0 else y

/-- One chain entry on y with the constants K0–K3 and the residual element (Table 7.8). -/
def chainStep (ks : List Word) (res : Word) (y : Word) (e : Nat) : Word :=
  let a := nthD 0 (bits 1 0 e) ks
  let b := nthD 0 (bits 3 2 e) ks
  match chainOp e with
  | 1 => add32 y a
  | 2 => mul32 y a
  | 3 => relu32 y
  | 4 => activation 16 geluQ y
  | 5 => activation 17 siluQ y
  | 6 => clamp32 y a b
  | 7 => add32 y res
  | _ => y

/-- The constants of a drain descriptor. -/
def drainKs (d : List Byte) : List Word := (List.range 4).map fun k => BitVec.ofNat 32 (leAt (32 + 4 * k) 4 d)

/-- What a drain has read beside its tile: scale records, biases, residual rows as FP32. -/
structure DrainIn where
  records : List (Word × Nat)
  bias : Option (List Word)
  res : List (List Word)
  deriving DecidableEq, Repr

/-- Residual elements of a row, widened to FP32 (Table 7.8). -/
def resRow (bf : Bool) (n : Nat) (bs : List Byte) : List Word := tokWords bf n bs

/-- One element through stages 4 to 6 (R227 to R229, R251). -/
def drainElem (d : List Byte) (i : DrainIn) (crt : Word) (a : Int) (t c : Nat) : Word :=
  let rec' := nthD (0, 0) t i.records
  let zr := bitAt 7 rec'.2
  if bitAt 6 rec'.2 then nan32
  else
    let y := if zr then 0 else mul32 (mul32 (int32f a) crt) rec'.1
    let y := match i.bias with
      | some b => if zr then nthD 0 c b else add32 y (nthD 0 c b)
      | none => y
    (chainOf d).foldl (chainStep (drainKs d) (nthD 0 c (nthD [] t i.res))) y

/-- The in-force rescale factor of a channel (R220, R225). -/
def crtOf (r g c : Nat) (s : State) : Word := Store.getD one32 (crtKey r g c) s.quant.crt

/-- The format of OUTFMT 0x0 to 0x3 (Table 7.7). -/
def outFmt (f : Nat) : FFmt := if f = 0 then fp32 else if f = 1 then bf16 else if f = 2 then e4m3 else e5m2

/-- The bytes of an output row (R188). -/
def outRow (f : Nat) (ys : List Word) : List Byte := ys.flatMap fun y => leBytes (outBytes f) (fencode (outFmt f) (val32 y)).1

/-- A row written: whole sectors, the last merged with what it holds (R254). -/
def putRow (r a : Nat) (row : List Byte) (p : Option PktId) (s : State) : State :=
  let cut := row.length / 32 * 32
  let s := devStore r a (row.take cut) p s
  if row.length = cut then s
  else match devRead r (a + cut) 32 p s with
    | (.ok old, s) => devStore r (a + cut) (row.drop cut ++ old.drop (row.length - cut)) p s
    | (e, s) => busOf e p s

/-! ### Drains (R251, R254 to R256) -/

/-- Rows read one after another. -/
def readRows (r n : Nat) (p : Option PktId) : List Nat → State → Rd × List (List Byte) × State
  | [], s => (.ok [], [], s)
  | a :: as, s =>
    match devRead r a n p s with
    | (.ok d, s1) =>
      match readRows r n p as s1 with
      | (.ok x, ds, s2) => (.ok x, d :: ds, s2)
      | e => e
    | (e, s1) => (e, [], s1)

/-- The scale records, biases and residuals of a drain read, but for residual rows that were staged (R227, R251, R329). -/
def readDrain (r : Nat) (k : SlotRec) (d : List Byte) (staged : Option (List (List Byte))) (p : Option PktId) (s : State) : Rd × DrainIn × State :=
  let vtok := byteAt 50 d
  let vch := leAt 48 2 d
  let bf := decide (byteAt 52 d / 16 = 1)
  let hasRes := (chainOf d).any fun e => decide (chainOp e = 7)
  let none' : DrainIn := ⟨[], none, []⟩
  match devRead r (k.scale + 32 + 8 * k.token0) (8 * vtok) p s with
  | (.ok recs, s) =>
    let records := (List.range vtok).map fun t => ((BitVec.ofNat 32 (leAt (8 * t) 4 recs) : Word), leAt (8 * t + 4) 4 recs)
    match (if leAt 8 8 d = 0 then (Rd.ok [], s) else devRead r (leAt 8 8 d) 1024 p s) with
    | (.ok bs, s) =>
      let bias := if leAt 8 8 d = 0 then none else some (tokWords false 256 bs)
      let addrs := if hasRes then (List.range vtok).map fun t => leAt 16 8 d + t * leAt 24 4 d else []
      match (match staged with
        | some rows => (Rd.ok [], rows, s)
        | none => readRows r (vch * (if bf then 2 else 4)) p addrs s) with
      | (.ok _, rows, s) => (.ok [], ⟨records, bias, rows.map (resRow bf vch)⟩, s)
      | (e, _, s) => (e, none', s)
    | (e, s) => (e, none', s)
  | (e, s) => (e, none', s)

/-- The integer partial of a drain (Table 7.9); lanes outside VCH and VTOK are 0 (R331). -/
def partialBytes (r slot vtok vch : Nat) (k : Slot) (e : SlotRec) (ovf : Bool) (failed : Nat) (s : State) : List Byte :=
  let tag := k.tags.headD (0, 0, 0)
  leBytes 2 tag.1 ++ leBytes 1 tag.2.1 ++ leBytes 1 tag.2.2 ++ leBytes 1 e.token0 ++ leBytes 1 e.ntok ++ leBytes 1 e.group ++
    leBytes 1 (ovf.toNat + 2 * (slotSkewed k).toNat) ++ leBytes 8 e.scale ++ leBytes 2 failed ++ leBytes 46 0 ++
    (List.range 16).flatMap fun t => (List.range 256).flatMap fun c =>
      leBytes 4 (if t < vtok ∧ c < vch then patternOf 32 (accWord r slot t c s) else 0)

/-- The flags and counts of a tile's scale records (R229, Table 10.7). -/
def noteRecords (recs : List (Word × Nat)) (p : Option PktId) (s : State) : State :=
  let nf := (recs.filter fun e => bitAt 6 e.2).length
  let s := if recs.any fun e => bitAt 7 e.2 then pktFlag 6 p s else s
  if 0 < nf then pktFlag 23 p (bump .QT_NONFINITE 0 0 nf s) else s

/-- The tokens that a drain's quantise step assembles with: the same outputs, control word and token shape (R199). -/
def asmFor (d : List Byte) (a : QtAsm) : Bool :=
  decide (a.out = leAt 0 8 d) && decide (a.qscale = leAt 96 8 d) && decide (a.qctrl = leAt 28 4 d) && decide (a.ktok = drainK d) &&
    decide (a.vtok = byteAt 50 d)

/-- A drain's elements handed to the quantise step (R199). DESIGN CHOICE: drains of one token that name different SCALE_F values, of which no rule
speaks, take that of the first (log entry 151). -/
def feedAsm (r id : Nat) (d : List Byte) (p : Option PktId) (rows : List (Nat × List Word)) (withheld : List Nat) (s : State) : State :=
  let vch := leAt 48 2 d
  let fresh : QtAsm := ⟨leAt 0 8 d, leAt 96 8 d, leAt 28 4 d, leAt 104 4 d, drainK d, byteAt 50 d, [], [], [], p⟩
  let put := fun (m : Store Word) (x : Nat × List Word) =>
    x.2.zipIdx.foldl (fun m e => Store.put (32768 * x.1 + leAt 110 2 d + e.2) e.1 m) m
  let blank := fun (m : Store Word) (t : Nat) => put m (t, List.replicate vch 0)
  let add := fun (a : QtAsm) => { a with
    drains := a.drains ++ [id]
    elems := withheld.foldl blank (rows.foldl put a.elems)
    withheld := a.withheld ++ withheld }
  let join := fun (a : QtAsm) => if asmFor d a then add a else a
  modRack r (fun k => { k with asm := if k.asm.any (asmFor d) then k.asm.map join else k.asm ++ [add fresh] }) s

/-- Stages 4 to 6 of a drain whose operands were read: rows below VTOK that are not withheld, converted and written, or handed to the
quantise step (R251, R254). -/
def emitTile (r slot id : Nat) (e : SlotRec) (d : List Byte) (i : DrainIn) (withheld : List Nat) (p : Option PktId) (s : State) : State :=
  let vch := leAt 48 2 d
  let f := byteAt 52 d % 16
  let toks := (List.range (byteAt 50 d)).filter fun t => !withheld.contains t
  let rows := toks.map fun t =>
    (t, (List.range vch).map fun c => drainElem d i (crtOf r e.group c s) (accWord r slot t c s) t c)
  let s := noteRecords i.records p s
  if f = 5 then feedAsm r id d p rows withheld s
  else rows.foldl (fun s x => putRow r (leAt 0 8 d + x.1 * leAt 24 4 d) (outRow f x.2) p s) s

/-- The number that has the bits of a list set. -/
def maskOf (l : List Nat) : Nat := l.foldl (fun m t => m ||| 2 ^ t) 0

/-- A tile that passed its tag check: checks, range, and output (R251). A token that the slot's mask fails is a failed check too, counted once
with its own (R174, R245; log entry 65). True when the drain then waits for its coded tokens. -/
def drainChecked (r slot id : Nat) (e : SlotRec) (d : List Byte) (staged : Option (List (List Byte))) (p : Option PktId) (s : State) : Bool × State :=
  let vtok := byteAt 50 d
  let vch := leAt 48 2 d
  let k := getSlot r slot s
  let f := byteAt 52 d % 16
  let c := checkTile r slot p s
  let hdr := (List.range 16).filter fun t => bitAt t k.failed
  let s := if hdr.isEmpty then c.1 else
    pktFlag 16 p (bump .CT_CHK_FAILS 0 0 (hdr.filter fun t => !c.2.contains t).length c.1)
  let failed := maskOf c.2 ||| k.failed ||| k.lost
  let o := overflowTile r slot vtok vch k.hdrOvf p s
  if f = 4 then (false, devStore r (leAt 0 8 d) (partialBytes r slot vtok vch k e o.2 (failed % 65536) o.1) p o.1)
  else
    let withheld := if rflag .CT_CTRL 0 0 1 s then (List.range vtok).filter fun t => bitAt t failed else []
    match readDrain r e d staged p o.1 with
    | (.ok _, i, s) => (f = 5, emitTile r slot id e d i withheld p s)
    | (x, _, s) => (false, busOf x p s)

/-- A drain's work on its tile (R251). True when it then waits for its coded tokens. A tile whose parity fails is an error at the place of
its slot among the rack's tiles of 16 KiB (Table 11.3, log entry 121). -/
def drainTile (r : Nat) (x : Drain) (s : State) : Bool × State :=
  let k := getSlot r x.slot s
  match k.rec' with
  | none => (false, s)
  | some e =>
    if s.mem.accBad.has (16 * r + x.slot) then (false, pktCode 5 x.pkt (parityError 3 r (0x4000 * x.slot) x.pkt s))
    else if byteAt 52 x.desc % 16 = 4 then drainChecked r x.slot x.id e x.desc x.staged x.pkt s
    else match devRead r e.scale 32 x.pkt s with
      | (.ok h, s) =>
        let want := (leAt 0 2 h, byteAt 2 h, byteAt 3 h)
        if (badTag k want).isSome || k.skewed then (false, skewEvent r x.slot k want x.pkt s)
        else drainChecked r x.slot x.id e x.desc x.staged x.pkt s
      | (b, s) => (false, busOf b x.pkt s)

/-- The slots whose tiles the decant has read become CLEARING (R251). -/
def endReads (r : Nat) (s : State) : State :=
  modRack r (fun k => { k with slots := k.slots.mapV fun _ x => if x.st = 3 then { x with st := 4 } else x }) s

/-- Whether the quantiser can keep the first-pass state of a drain's tokens: they belong to tokens it assembles already, or no more
than 16 tokens then stand open (R198, R199, log entry 119). -/
def asmRoom (r : Nat) (x : Drain) (s : State) : Bool :=
  let open' := (getRack r s).asm
  x.isDrop || decide (byteAt 52 x.desc % 16 ≠ 5) || open'.any (asmFor x.desc) ||
    decide ((open'.map (·.vtok)).sum + byteAt 50 x.desc ≤ 16)

/-- DRAIN_START: the oldest drain or drop that has not started, once its slot has nothing pending: its slot is DRAINING while the tile
is checked, rescaled and written; earlier drains have finished reading (R218, R240, R251 to R255). accParity: an upset has struck the
AccMem tile (R389, log entry 121). A slot stays DRAINING in the state after, and is CLEARING from the next event of the decant (log entry
120); the slot of a drop, which reads nothing, is CLEARING at once (R292). -/
def execDrainStart (r : Rack) (accParity : Bool) (s : State) : Host.Outcome State Fault Refusal :=
  .next (match (getRack r.val s).drains.find? fun x => decide (x.phase = 0) with
    | none => s
    | some x =>
      if decide ((getSlot r.val x.slot s).pend ≠ 0) || frozenWhere (·.coversRack r.val) s || resettingWhere (·.coversRack r.val) s ||
          !asmRoom r.val x s then s
      else
        let empty := (getSlot r.val x.slot s).rec'.isNone
        let s := modSlot r.val x.slot (fun k => { k with st := if x.isDrop then 4 else 3 }) (endReads r.val s)
        let s := if accParity then { s with mem := { s.mem with accBad := s.mem.accBad.add (16 * r.val + x.slot) } } else s
        let o := if x.isDrop then (false, s) else drainTile r.val x s
        let s := releaseChk r.val x.slot o.2
        modRack r.val (fun k => { k with drains := k.drains.map fun y => if y.id = x.id then { y with phase := if o.1 then 2 else if empty then 3 else 1 } else y }) s)

/-- The oldest drop of a cancelled packet's slot that waits for room in the decant queue takes it, where the slot is still OPEN (R255, R514). -/
def takeDrops (r : Nat) (s : State) : State :=
  match (getRack r s).toDrop with
  | k :: rest =>
    if !decantRoom r s then s
    else
      let s := modRack r (fun x => { x with toDrop := rest }) s
      if (getSlot r k s).st = 1 then acceptDrain r true k [] none s else s
  | [] => s

/-- DRAIN_SIGNAL: a drain whose writes are visible signals its SYNC object and leaves the decant (R256). RP_DRAINS counts neither drops nor a
drain of a slot with nothing added (R251; log entry 65). -/
def execDrainSignal (r : Rack) (s : State) : Host.Outcome State Fault Refusal :=
  .next (match (getRack r.val s).drains.find? fun x => decide (x.phase = 1) || decide (x.phase = 3) with
    | none => s
    | some x =>
      let s := takeDrops r.val (modRack r.val (fun k => { k with drains := k.drains.filter fun y => decide (y.id ≠ x.id) }) (endReads r.val s))
      let s := ringProgress x.pkt (if x.isDrop || decide (x.phase = 3) then s else bump .RP_DRAINS r.val 0 1 s)
      if !x.isDrop && bitAt 0 (byteAt 56 x.desc) then signal (leAt 54 2 x.desc) 1 x.pkt s else s)

/-- SLOT_CLEAR_END: a slot whose tile has been read has passed through CLEARING, is zero and becomes FREE (R241, log entry 120). -/
def execSlotClearEnd (r : Rack) (slot : Fin 16) (s : State) : Host.Outcome State Fault Refusal :=
  .next (if (getSlot r.val slot.val s).st = 3 ∨ (getSlot r.val slot.val s).st = 4 then modSlot r.val slot.val (fun _ => Slot.init) (accClear r.val slot.val s) else s)

/-! ### Tokens coded by drains (R199) -/

/-- Whether every element of every token of an assembly has arrived. -/
def asmReady (a : QtAsm) : Bool :=
  (List.range a.vtok).all fun t => (List.range a.ktok).all fun k => (a.elems.find (32768 * t + k)).isSome

/-- Bytes of a DRAM or scratchpad range as they stand, with no access. -/
def peekDev (r a n : Nat) (s : State) : List Byte :=
  match regionOf r a s with
  | .dram b => peek b n s
  | .sp q o => spRead q o n s
  | _ => List.replicate n 0

/-- The contents of the withheld tokens of a coded block put back: a withheld token is not written (R174). -/
def keepToken (f k e : Nat) (old body : List Byte) (t : Nat) : List Byte :=
  let st := qStride f k
  let put := fun (b : List Byte) (a n : Nat) => patchAt a ((old.drop a).take n) b
  (List.range (if e = 0 then 0 else qBlocks k)).foldl (fun b j => put b (256 * st + 4 * ((j * 256 + t) * e)) (4 * e)) (put body (t * st) st)

/-- A coded block written, withheld tokens left as they are (R199, R206). -/
def writeCoded (r : Nat) (a : QtAsm) (toks : List CodedTok) (s : State) : State :=
  let q := a.qctrl
  let f := qFormat q
  let e := qE q
  let body := dataBody f a.ktok e toks
  let old := peekDev r (a.out + 32) body.length s
  let s := devStore r (a.out + 32) (a.withheld.foldl (keepToken f a.ktok e old) body) a.pkt s
  let recs := scaleBody toks
  let oldRecs := peekDev r (a.qscale + 32) recs.length s
  let keepRec := fun (b : List Byte) (t : Nat) => patchAt (8 * t) ((oldRecs.drop (8 * t)).take 8) b
  let s := if f < 5 then devStore r (a.qscale + 32) (a.withheld.foldl keepRec recs) a.pkt s else s
  let s := devStore r a.out (dataHeader (qBsn q) f e a.vtok a.ktok) a.pkt s
  if f < 5 then devStore r a.qscale (scaleHeader (qBsn q) f e a.vtok) a.pkt s else s

/-- QUANT_TOKEN_ASSEMBLE: the oldest assembly whose every element has arrived is coded and written; its drains may signal (R199). -/
def execQuantTokenAssemble (r : Rack) (s : State) : Host.Outcome State Fault Refusal :=
  .next (match (getRack r.val s).asm.find? asmReady with
    | none => s
    | some a =>
      let toks := (List.range a.vtok).map fun t =>
        codeToken a.qctrl (BitVec.ofNat 32 a.scaleF) ((List.range a.ktok).map fun k => Store.getD 0 (32768 * t + k) a.elems)
      let kept := toks.zipIdx.filter fun e => !a.withheld.contains e.2
      let s := writeCoded r.val a toks s
      let s := if qFormat a.qctrl = 5 then s else noteTokens r.val a.pkt (kept.map (·.1)) s
      modRack r.val (fun k => { k with
        asm := k.asm.filter fun b => decide (b.drains ≠ a.drains)
        drains := k.drains.map fun y => if a.drains.contains y.id then { y with phase := 1 } else y }) s)

/-! ### Partial loads (R245, R291) -/

/-- The record that a partial's header names. -/
def partialRec (h : List Byte) : SlotRec := ⟨leAt 8 8 h, byteAt 4 h, byteAt 5 h, byteAt 6 h⟩

/-- A partial added into a slot, or its slot marked skewed (R245). -/
def addPartial (r slot : Nat) (bs : List Byte) (s : State) : State :=
  let e := partialRec bs
  let tag := (leAt 0 2 bs, byteAt 2 bs, byteAt 3 bs)
  let k := getSlot r slot s
  let fits := decide (k.rec'.getD e = e)
  let s := if fits then
      (List.range 16).foldl (fun s t => (List.range 256).foldl (fun s c =>
        accAdd r slot t c (signedOf 32 (leAt (64 + 1024 * t + 4 * c) 4 bs)) s) s) s
    else s
  modSlot r slot (fun k => { k with
    rec' := some (k.rec'.getD e)
    tags := if fits && !k.tags.contains tag then k.tags ++ [tag] else k.tags
    skewed := k.skewed || !fits || bitAt 1 (byteAt 7 bs)
    failed := k.failed ||| leAt 16 2 bs
    hdrOvf := k.hdrOvf || bitAt 0 (byteAt 7 bs) }) s

/-- PARTIAL_LOAD_COMPLETE: the oldest partial load of the rack has read its partial, or met a bus error (R245, Table 11.3). parity: an
upset has struck the partial's first sector (R389, log entry 121). -/
def execPartialLoadComplete (r : Rack) (parity : Bool) (s : State) : Host.Outcome State Fault Refusal :=
  .next (match (getRack r.val s).ldp with
    | [] => s
    | l :: rest =>
      let s := modRack r.val (fun k => { k with ldp := rest }) s
      let s := match devRead r.val l.addr 16448 l.pkt (if parity then strikeSector r.val l.addr s else s) with
        | (.ok bs, s) => addPartial r.val l.slot bs s
        | (e, s) =>
          let n := match (getSlot r.val l.slot s).rec' with
            | some e => e.ntok
            | none => 16
          modSlot r.val l.slot (fun k => { k with failed := k.failed ||| (2 ^ n - 1) }) (busOf e l.pkt s)
      ringProgress l.pkt (modSlot r.val l.slot (fun k => { k with pend := k.pend - 1 }) s))

/-! ### Rack quiesce (R262) -/

/-- The state a HELD thread would otherwise have: READY, or its wait's. -/
def unheldState (k : Thread) : TSt :=
  match k.wait with
  | none => .ready
  | some (.data _ _) => .waitMem
  | some .fence => .waitMem
  | some (.fenceP _) => .waitMem
  | some (.mvm _) => .waitCask
  | some (.acc _) => .waitCask
  | some (.drain _ _ _) => .waitDrain
  | some (.drop _) => .waitDrain
  | some (.sync _ _ _ _) => .waitSync

/-- Every thread of a rack changed by f. -/
def modThreads (r : Nat) (f : Thread → Thread) (s : State) : State :=
  { s with threads := s.threads.mapV fun k t => if k / 64 = r then f t else t }

/-- RP_CTRL.QUIESCE written 1: every READY thread is HELD; a waiting thread is when its wait ends (R262). -/
def rpQuiesce (r : Nat) (s : State) : State :=
  modThreads r (fun k => if k.st = .ready then { k with st := .held } else k) (rput .RP_CTRL r 0 0 0 1 s)

/-- Whether an incident holds a thread: its rack is in a frozen engine, or its packet is a suspect that is not being replayed (R513). -/
def frozenThread (r : Nat) (k : Thread) (s : State) : Bool :=
  frozenWhere (·.coversRack r) s || (match s.hang.incident with
    | some i => i.suspects.any fun p => decide (k.pkt = some p) && decide (i.replaying ≠ some p)
    | none => false)

/-- RP_CTRL.QUIESCE written 0: every HELD thread has the state it would otherwise have (R262), unless a freeze holds it (R513); discarded
with EV_WRITE_BUSY while the quiesce holds a rack group that is being turned off (R532). -/
def rpResume (r : Nat) (s : State) : State :=
  if goingOff (rackDomain r) s then writeBusy (regOff .RP_CTRL r 0) s
  else
    let s := rput .RP_CTRL r 0 0 0 0 s
    modThreads r (fun k => if k.st = .held ∧ frozenThread r k s = false then { k with st := unheldState k } else k) s

/-- RP_QUIESCE: RP_CTRL.QUIESCE is written 1 (R262). -/
def execRpQuiesce (r : Rack) (s : State) : Host.Outcome State Fault Refusal := .next (hostWrite .RP_CTRL r.val 0 (rpQuiesce r.val) s)

/-- RP_RESUME: RP_CTRL.QUIESCE is written 0 (R262). -/
def execRpResume (r : Rack) (s : State) : Host.Outcome State Fault Refusal := .next (hostWrite .RP_CTRL r.val 0 (rpResume r.val) s)

end Sys2Proof.Machine
end

