-- ==== Sys2Proof/Machine/RingOps.lean ====
section
/-! DEFINITION. What the ring commands share: packets in flight, the status sector, the packet at index START and its gate entry, starting
order, and completion (R337 to R358, R364, R421, R422). -/

namespace Sys2Proof.Machine

/-! ### Rings -/

/-- The packets of a ring in flight: started and not complete (R338, R355). -/
def Ring.inflight (r : Ring) : Nat := (r.pkts.filter fun k => !k.complete).length

/-- RG_STATE code of a ring's state (Table 10.2). -/
def RingSt.code : RingSt → Nat
  | .disabled => 0
  | .active => 1
  | .stopping => 2
  | .stopped => 3
  | .error => 4

/-- GATE of a ring's MODE: 0 none, 1 rising, 2 falling, 3 frame (Table 10.1). -/
def Ring.gate (r : Ring) : Nat := bits 3 2 r.ctx.mode

/-- The ring's slot of a packet index (R338). -/
def Ring.slotOf (i : Index) (r : Ring) : Nat := i.toNat % 2 ^ r.ctx.log2

/-- The status sector of a ring (Table 10.3). -/
def Ring.sector (r : Ring) : List Byte :=
  leBytes 4 r.head.toNat ++ leBytes 4 r.tail.toNat ++ leBytes 4 r.start.toNat ++ leBytes 1 r.st.code ++ leBytes 1 r.err ++ leBytes 18 0

/-- The status sector of a ring written at WB (R345). -/
def writeStatus (n : Nat) (s : State) : State :=
  let s := writeSector ((getRing n s).ctx.wb / 32) (getRing n s).sector s
  modRing n (fun r => { r with wbDue := false }) s

/-- A ring moved to a state; a change is owed a status sector (R345). -/
def Ring.moveTo (st : RingSt) (r : Ring) : Ring := { r with st := st, wbDue := r.wbDue || decide (r.st ≠ st) }

/-- A STOPPING ring with nothing in flight becomes STOPPED (Table 10.2). -/
def Ring.settle (r : Ring) : Ring := if r.st = .stopping ∧ r.inflight = 0 then r.moveTo .stopped else r

/-! ### The packet at index START (R348 to R351) -/

/-- Fields of Table 10.4. -/
def pktOp (b : List Byte) : Nat := leAt 0 2 b
/-- Header FLAGS bit. -/
def pktFl (k : Nat) (b : List Byte) : Bool := bitAt k (byteAt 2 b)
/-- SIG_DEST.REMOTE. -/
def sigRemote (b : List Byte) : Bool := bitAt 4 (byteAt 16 b)
/-- SIG_DEST.MEMBER. -/
def sigMember (b : List Byte) : Nat := byteAt 16 b % 16

/-- Whether SIG_DEST names a remote signal that R294 forbids: the device's own member. -/
def sigForbidden (b : List Byte) (s : State) : Bool := sigRemote b && decide (sigMember b = rfield .BV_IDENT 0 0 3 0 s)

/-- The gate entry of a packet given back to the pool (R351). -/
def freeEntry (f : Front) (s : State) : State :=
  match f.entry with
  | some e => petPut e 0 s
  | none => s

/-- A packet that has not run: nothing sampled, so FRAME and POS hold free values (log entry 33). -/
def unstarted (i : Index) (bytes : List Byte) (code flags events : Nat) (s : State) : Pkt :=
  ⟨i, bytes, .done, false, code, flags, 0, events, (Config.freeWord s.freeCtr).toNat,
    signedOf 64 ((Config.freeWord (s.freeCtr + 1)).toNat + 2 ^ 32 * (Config.freeWord (s.freeCtr + 2)).toNat), none, s.now, s.nextOp, false,
    none⟩

/-- The packet at index START passed without running: it leaves the index, its gate entry returns, and it is complete but for its
record. -/
def passFront (n : Nat) (bytes : List Byte) (code flags events : Nat) (s : State) : State :=
  let r := getRing n s
  let s := match r.front with
    | some f => freeEntry f s
    | none => s
  let s := modRing n (fun r => { r with
    front := none
    start := r.start + 1
    pkts := r.pkts ++ [unstarted r.start bytes code flags events s] }) s
  { s with freeCtr := s.freeCtr + 3, nextOp := s.nextOp + 1 }

/-! ### Completion (R355 to R358) -/

/-- Whether an operation belongs to a packet. -/
def CaskOp.ofPkt (p : PktId) (o : CaskOp) : Bool := decide (o.pkt = some p)

/-- Whether a cask holds work of a packet. -/
def Cask.worksFor (p : PktId) (k : Cask) : Bool := k.queue.any (·.ofPkt p) || k.running.any fun o => o.op.ofPkt p

/-- Whether a rack's units hold work of a packet: corrections, quantise requests, drains, partial loads. -/
def RackSt.worksFor (p : PktId) (k : RackSt) : Bool :=
  k.corr.any (fun w => w.op.ofPkt p) || k.qt.any (fun q => decide (q.pkt = some p)) || k.drains.any (fun d => decide (d.pkt = some p)) ||
    k.asm.any (fun a => decide (a.pkt = some p)) || k.ldp.any (fun l => decide (l.pkt = some p))

/-- Whether a thread of a packet still runs: neither ended nor halted. -/
def Thread.worksFor (p : PktId) (k : Thread) : Bool :=
  decide (k.pkt = some p) && decide (k.st ≠ .free) && decide (k.st ≠ .halted)

/-- Whether work issued by a packet's threads is outstanding: threads, engine work, messages to peers (R273, R300, R355). -/
def pktBusy (p : PktId) (s : State) : Bool :=
  s.threads.any (fun e => e.2.worksFor p) || s.casks.any (fun e => e.2.worksFor p) || s.racks.any (fun e => e.2.worksFor p) ||
    s.bv.msgs.any fun m => decide (m.pkt = some p)

/-- Whether an operator's own engine work has finished. -/
def OpWork.finished : OpWork → Bool
  | .done => true
  | .kernel racks => racks.isEmpty
  | _ => false

/-- Whether a packet is complete, its record aside (R355). -/
def pktDone (p : PktId) (s : State) : Bool :=
  match findPkt p s with
  | some k => !k.complete && k.work.finished && !pktBusy p s
  | none => false

/-- CODE of a packet's completion: the highest-numbered cause, FLAGGED where a failure flag is set (R357, R358). -/
def Pkt.codeOut (k : Pkt) : Nat := max k.code (if 2 ^ 16 ≤ k.flags then 1 else 0)

/-- The completion record of a packet on its ring (Table 10.5). -/
def Pkt.record (r : Ring) (k : Pkt) : List Byte :=
  leBytes 2 (pktOp k.bytes) ++ leBytes 1 k.codeOut ++ leBytes 1 (if bitAt r.ctx.log2 k.idx.toNat then 1 else 0) ++ leBytes 4 k.flags ++
    (k.bytes.drop 20).take 4 ++ leBytes 4 k.kstatus.toNat ++ leBytes 4 k.frame ++ leBytes 4 k.events ++
    leBytes 8 (patternOf 64 k.pos) ++ k.exc.getD (List.replicate 32 0)

/-- The header signal of a completed packet (R355, R362, R363). -/
def headerSignal (p : PktId) (b : List Byte) (s : State) : State :=
  if !pktFl 5 b || sigForbidden b s then s
  else if sigRemote b then sendPeer (sigMember b) (leAt 6 2 b) ((b.drop 12).take 4) true (some p) none s
  else signal (leAt 6 2 b) (signedOf 32 (leAt 12 4 b)) (some p) s

/-- The completed packets at the head of a ring leave it, and HEAD moves past them (R355). -/
def Ring.retire (r : Ring) : Ring :=
  { r with pkts := r.pkts.dropWhile (·.complete), head := r.head + BitVec.ofNat 32 (r.pkts.takeWhile (·.complete)).length }

/-- The halted threads of a completed packet become FREE (R300). -/
def freeHalted (p : PktId) (s : State) : State :=
  emptyIbufs { s with threads := s.threads.mapV fun _ t => if t.pkt = some p ∧ t.st = .halted then Thread.init else t }

/-- A packet completed: EV_PACKET_ERR, record, signal, retirement, status sector, vector, in that order (R355, R356). late: its signal, if it
is to an object of the device, comes with others of this rack clock (R360). -/
def completePkt (late : Bool) (p : PktId) (s : State) : State :=
  let n := p.ring.val
  match findPkt p s with
  | none => s
  | some k0 =>
    let s := if 2 ≤ k0.codeOut then raiseEvent 0x0806 0 0 k0.codeOut (some p) s else s
    let k := (findPkt p s).getD k0
    let a := (getRing n s).ctx.cmpl / 32 + 2 * (getRing n s).slotOf p.idx
    let rec' := k.record (getRing n s)
    let s := writeSector a (rec'.take 32) (writeSector (a + 1) (rec'.drop 32) s)
    let s := freeHalted p s
    let s := if late && !sigRemote k.bytes then s else headerSignal p k.bytes s
    let before := getRing n s
    let s := modRing n (fun r => r.retire.settle) (modPkt p (fun k => { k with complete := true }) s)
    let s := ringProgress (some p) s
    let after := getRing n s
    let s := if decide (before.head ≠ after.head) || decide (before.st ≠ after.st) then writeStatus n s else s
    if pktFl 0 k.bytes && bitAt 4 after.ctx.mode then raiseVector after.ctx.vector s else s

/-- Whether the writes and the remote signal of a completion can be issued now (R421, R428). -/
def mayFinish (b : List Byte) (s : State) : Bool :=
  upstreamOk s && (!pktFl 5 b || !sigRemote b || sigForbidden b s || maySendPeer (sigMember b) s)

/-- A packet passed at index START, completed at once where its record can be written; PACKET_COMPLETE completes it later otherwise
(R348, R364, R421). -/
def completeFront (late : Bool) (n : RingId) (bytes : List Byte) (code flags events : Nat) (s : State) : State :=
  let p : PktId := ⟨n, (getRing n.val s).start⟩
  let s := passFront n.val bytes code flags events s
  if mayFinish bytes s then completePkt late p s else s

/-- Whether the packet at index START of a ring waits with WAIT_REMOTE set (R364). -/
def waitsRemote (n : Nat) (s : State) : Bool :=
  match (getRing n s).front with
  | some f => pktFl 4 f.bytes && pktFl 3 f.bytes && !f.waited
  | none => false

/-- A packet that waits at index START with WAIT_REMOTE set completes without running (R364). -/
def failRemoteWait (late : Bool) (code : Nat) (n : RingId) (s : State) : State :=
  match (getRing n.val s).front with
  | some f => if waitsRemote n.val s then completeFront late n f.bytes code 0 0 s else s
  | none => s

/-- The signal to an object of the device that the packet at index START of a ring makes where it completes there now (R355, R363). -/
def frontSignal (n : RingId) (s : State) : Option (Nat × Int × PktId) :=
  match (getRing n.val s).front with
  | some f =>
    if pktFl 5 f.bytes && !sigForbidden f.bytes s && !sigRemote f.bytes && mayFinish f.bytes s then
      some (leAt 6 2 f.bytes, signedOf 32 (leAt 12 4 f.bytes), ⟨n, (getRing n.val s).start⟩)
    else none
  | none => none

/-! ### Where threads go (R349, R369, R513, R515, R523) -/

/-- Whether a rack takes threads of a packet: powered, in service, not in its reset, not in recovery except for the packet being replayed
there (R226, R515, R523, R533). -/
def rackTakes (r : Nat) (p : PktId) (s : State) : Bool := domainUp (rackDomain r) s && inService (·.coversRack r) (some p) s

/-- The number of FREE thread contexts of a rack. -/
def freeContexts (r : Nat) (s : State) : Nat := 64 - activeThreads r s

/-- The bytes of DRAM or a scratchpad window as they stand. -/
def peekAny (a n : Nat) (s : State) : List Byte :=
  match regionOf noRack a s with
  | .dram b => peek b n s
  | .sp r o => spRead r o n s
  | _ => List.replicate n 0

/-- The rack whose scratchpad window holds an address, if one does. -/
def windowOf (a : Nat) : Option Nat :=
  if 0x1000000000 ≤ a && decide (a < 0x1000000000 + 256 * 0x80000) then some ((a - 0x1000000000) / 0x80000) else none

/-- Where the body of a library packet names tensor descriptors (Table 10.8): IN1 of the operators that have one, unless it is 0. -/
def operandFields (b : List Byte) : List Nat :=
  (if pktOp b = 0x20 then [] else [32]) ++ (if [0x12, 0x13, 0x17, 0x19].contains (pktOp b) ∧ leAt 40 8 b ≠ 0 then [40] else []) ++ [48]

/-- The addresses of a library packet's operands: of its tensors, and the sample buffer of a SENSOR_FUSE (Table 10.8). -/
def operandAddrs (b : List Byte) (s : State) : List Nat :=
  (if pktOp b = 0x20 then [leAt 32 8 b] else []) ++ (operandFields b).map fun o => leAt 0 8 (peekAny (leAt o 8 b) 64 s)

/-- The share entries of a packet's layer map (Table 9.2). -/
def layerShares (b : List Byte) (s : State) : List (List Byte) :=
  let m := leAt 40 8 b
  (List.range (leAt 14 2 (peekAny m 64 s))).map fun j => peekAny (m + 64 + 16 * j) 16 s

/-- The racks an operator's kernel threads go on: a KERNEL packet's range, the share entries of a layer map, or the racks whose
scratchpads the operands of a packet name (R369, log entry 32). -/
def opRacks (b : List Byte) (s : State) : List Nat :=
  if pktOp b = 1 then (List.range (leAt 50 2 b)).map fun k => leAt 48 2 b + k
  else if pktOp b = 0x10 ∨ pktOp b = 0x11 then
    ((layerShares b s).map (byteAt 0)).eraseDups
  else
    let rs := (operandAddrs b s).filterMap windowOf
    if rs.isEmpty then [Config.libRack (pktOp b) % 256] else rs.eraseDups

/-- Threads of an operator on each of its racks. -/
def opThreads (b : List Byte) : Nat := if pktOp b = 1 then byteAt 52 b else 1 + Config.libThreads (pktOp b) % 64

/-- Whether an operator places threads: KERNEL and the library kernels. -/
def opPlaces (op : Nat) : Bool :=
  op = 1 || (decide (0x10 ≤ op) && decide (op ≤ 0x20)) || (decide (0x40 ≤ op) && decide (op ≤ 0x42))

/-- Whether R371 rejects a KERNEL packet. -/
def kernelBad (b : List Byte) : Bool :=
  decide (leAt 50 2 b = 0) || decide (256 < leAt 48 2 b + leAt 50 2 b) || decide (byteAt 52 b = 0) || decide (64 < byteAt 52 b) ||
    decide (leAt 53 11 b ≠ 0)

/-- Whether DMA engine k takes a COPY of a packet: it runs none, starts are not held, and its quadrant is in service (R353, R410, R515,
R523). -/
def dmaTakes (k : Nat) (p : PktId) (s : State) : Bool :=
  !rflag .MC_CTRL 0 0 8 s && (Store.getD Dma.init k s.mem.dma).copy.isNone && inService (·.coversQuad (k / 4)) (some p) s

/-- Whether any DMA engine can take a COPY (R353, R410). -/
def dmaFree (p : PktId) (s : State) : Bool := (List.range 16).any fun k => dmaTakes k p s

/-- Whether a packet that names a layer map needs a cask that is out of service (R523). -/
def needsOut (b : List Byte) (s : State) : Bool :=
  (decide (pktOp b = 0x10) || decide (pktOp b = 0x11)) && (layerShares b s).any fun e =>
    (maskBits 16 (leAt 2 2 e)).any fun c => s.hang.oos.any (·.coversCask (16 * byteAt 0 e + c))

/-- Whether first threads can go on a list of racks: every one of them is on, no cask that the packet needs is out of service, and one rack
takes them (R349, R523, R533). -/
def threadsFit (p : PktId) (b : List Byte) (rs : List Nat) (s : State) : Bool :=
  (rs.all fun r => domainUp (rackDomain r) s) && !needsOut b s && rs.any fun r => rackTakes r p s && decide (opThreads b ≤ freeContexts r s)

/-- Condition 6 of R349: the operator can place its first threads, or its engine accepts it. A packet that R371 rejects needs
neither. -/
def canPlace (p : PktId) (b : List Byte) (s : State) : Bool :=
  let op := pktOp b
  if op = 1 then kernelBad b || threadsFit p b (opRacks b s) s
  else if opPlaces op then
    let rs := opRacks b s
    rs.isEmpty || threadsFit p b rs s
  else if op = 2 ∨ op = 0x48 ∨ op = 0x49 then dmaFree p s
  else true

/-- Whether the packet at index START of a ring may start now (R349, R422). -/
def startable (n : Nat) (r : Ring) (s : State) : Bool :=
  match r.front with
  | none => false
  | some f =>
    decide (r.st = .active) && decide (r.inflight < r.ctx.inflight) && (!pktFl 1 f.bytes || decide (r.inflight = 0)) && f.waited &&
      (decide (r.gate = 0) || (f.gated && f.entry.isSome)) && !s.px.d3 && canPlace ⟨⟨n % 65536, Nat.mod_lt _ (by decide)⟩, r.start⟩ f.bytes s

/-- How far a ring stands in the dispatcher's order: higher PRIORITY first, then round robin after the ring served last (R352). -/
def dispatchRank (n : Nat) (r : Ring) (s : State) : Nat := (3 - r.ctx.prio) * 65536 + (n + 65535 - s.lastRing) % 65536

/-- Whether the dispatcher serves a ring before every other whose next packet may start (R352). -/
def servedNext (n : Nat) (s : State) : Bool :=
  let me := dispatchRank n (getRing n s) s
  s.rings.all fun e => decide (e.1 = n) || !startable e.1 e.2 s || decide (me < dispatchRank e.1 e.2 s)

end Sys2Proof.Machine
end

