-- ==== Sys2Proof/Machine/Tiling.lean ====
section
/-! DEFINITION. What a tile walker's work is, before any of it is done: tensors, the layer map, cells and the order of the walk, bands and
halos, the reading of an operand with its padding, tile and drain descriptors (R208, R209, R213, R215, R308 to R332). -/

namespace Sys2Proof.Machine

/-! ### Tensors (Table 10.9) -/

/-- Dimension k of a tensor descriptor. -/
def tDim (k : Nat) (t : List Byte) : Nat := leAt (12 + 2 * k) 2 t
/-- Stride S1 to S3, by k = 1 to 3. -/
def tStride (k : Nat) (t : List Byte) : Nat := leAt (16 + 4 * k) 4 t
/-- FORMAT of a tensor descriptor. -/
def tFormat (t : List Byte) : Nat := byteAt 8 t
/-- ADDR of a tensor descriptor. -/
def tAddr (t : List Byte) : Nat := leAt 0 8 t
/-- SCALE of a tensor descriptor. -/
def tScale (t : List Byte) : Nat := leAt 32 8 t

/-- The address of token n of a tensor: one D0 row, D1 varying fastest, then D2, then D3 (R569). -/
def tokenAddr (t : List Byte) (n : Nat) : Nat :=
  tAddr t + n % tDim 1 t * tStride 1 t + n / tDim 1 t % tDim 2 t * tStride 2 t + n / (tDim 1 t * tDim 2 t) * tStride 3 t

/-- The number of tokens of a tensor. -/
def tTokens (t : List Byte) : Nat := tDim 1 t * tDim 2 t * tDim 3 t

/-! ### The layer map (R308 to R313) -/

/-- k-blocks of K inputs (R308). -/
def kBlocks (k : Nat) : Nat := ceilDiv k 512

/-- n-blocks of N outputs (R308). -/
def nBlocks (n : Nat) (w5 : Bool) : Nat := ceilDiv n (if w5 then 512 else 256)

/-- Share entry j of a layer map. -/
def shareAt (m : List Byte) (j : Nat) : List Byte := (m.drop (64 + 16 * j)).take 16

/-- The shares of a layer map. -/
def shares (m : List Byte) : List (List Byte) := (List.range (leAt 14 2 m)).map (shareAt m)

/-- The k-blocks a share holds (R310). -/
def shareBlocks (e : List Byte) : List Nat := (List.range (popCount 16 (leAt 2 2 e))).map fun i => byteAt 6 e + i

/-- A share's reduction group: replica and n-block (R311). -/
def shareGroup (e : List Byte) : Nat × Nat := (byteAt 1 e, leAt 4 2 e)

/-- Whether a share is a home share. -/
def shareHome (e : List Byte) : Bool := bitAt 0 (byteAt 7 e)

/-- K of a layer. -/
def Walk.inputs (w : Walk) : Nat := leAt 0 4 w.map
/-- N of a layer. -/
def Walk.outputs (w : Walk) : Nat := leAt 4 4 w.map
/-- Whether the layer is W5. -/
def Walk.w5 (w : Walk) : Bool := decide (byteAt 8 w.map = 1)
/-- INFMT of a layer. -/
def Walk.infmt (w : Walk) : Nat := byteAt 9 w.map
/-- REPL of a layer. -/
def Walk.repl (w : Walk) : Nat := byteAt 11 w.map
/-- The partial buffers of a share. -/
def Walk.pb (w : Walk) : Nat := byteAt 17 w.map
/-- Slots of a cell: 1 in W9, 2 in W5 (R316, R321). -/
def Walk.slotsPer (w : Walk) : Nat := if w.w5 then 2 else 1
/-- The number of shares. -/
def Walk.nshare (w : Walk) : Nat := leAt 14 2 w.map

/-- The replica of share j. -/
def Walk.replica (w : Walk) (j : Nat) : Nat := byteAt 1 (shareAt w.map j)
/-- The rack of share j. -/
def Walk.rackOf (w : Walk) (j : Nat) : Nat := byteAt 0 (shareAt w.map j)

/-- The shares of a rack's home or producer stream, in entry order (R323). -/
def Walk.sharesOn (w : Walk) (rack : Nat) (home : Bool) : List Nat :=
  (List.range w.nshare).filter fun j => decide (w.rackOf j = rack) && (shareHome (shareAt w.map j) == home)

/-- The non-home shares of the group of share j, in entry order (R317). -/
def Walk.producers (w : Walk) (j : Nat) : List Nat :=
  (List.range w.nshare).filter fun k =>
    decide (shareGroup (shareAt w.map k) = shareGroup (shareAt w.map j)) && !shareHome (shareAt w.map k)

/-- The racks of a replica, in entry order. -/
def Walk.racksOf (w : Walk) (p : Nat) : List Nat :=
  (((List.range w.nshare).filter fun j => decide (w.replica j = p)).map w.rackOf).eraseDups

/-- The rack that sends and counts a replica's halo rows: that of its first home share (log entry 109). -/
def Walk.mainRack (w : Walk) (p : Nat) : Option Nat :=
  ((List.range w.nshare).find? fun j => decide (w.replica j = p) && shareHome (shareAt w.map j)).map w.rackOf

/-- The sync object of a number of the layer (Table 9.2). -/
def Walk.object (w : Walk) (k : Nat) : Nat := (leAt 32 2 w.map + k) % 65536
/-- The ready object of share j. -/
def Walk.ready (w : Walk) (j : Nat) : Nat := w.object (2 * j)
/-- The consumed object of share j. -/
def Walk.consumed (w : Walk) (j : Nat) : Nat := w.object (2 * j + 1)
/-- The upper halo object of replica p. -/
def Walk.upper (w : Walk) (p : Nat) : Nat := w.object (2 * w.nshare + 2 * p)
/-- The lower halo object of replica p. -/
def Walk.lower (w : Walk) (p : Nat) : Nat := w.object (2 * w.nshare + 2 * p + 1)

/-- The partial buffer of share j, cell s, slot k of the cell (R316). -/
def Walk.partAddr (w : Walk) (j s k : Nat) : Nat := leAt 24 8 w.map + 16448 * (w.slotsPer * (w.pb * j + s % w.pb) + k)

/-- L_r: cells that each stream of a rack keeps in flight in breadth order (R332). -/
def Walk.limit (w : Walk) (rack : Nat) : Nat :=
  min (byteAt 16 w.map) (16 / (w.slotsPer * ((List.range w.nshare).filter fun j => decide (w.rackOf j = rack)).length))

/-! ### Cells and the walk (R321 to R324) -/

/-- Output rows, columns, images of a spatial operator, and tokens of a MATMUL. -/
def Walk.oh (w : Walk) : Nat := tDim 2 w.tout
/-- Output columns. -/
def Walk.ow (w : Walk) : Nat := tDim 1 w.tout

/-- Band p of the output: its first row, and the one after its last; of token cells for a MATMUL (R323). -/
def Walk.band (w : Walk) (p : Nat) : Nat × Nat :=
  let n := if w.conv then w.oh else ceilDiv (tTokens w.tout) 16
  (p * n / w.repl, (p + 1) * n / w.repl)

/-- One bit of the walk's curve: the point so far, the rest of d, the side so far (R322). -/
def curveStep (a : (Nat × Nat) × Nat) (i : Nat) : (Nat × Nat) × Nat :=
  let s := 2 ^ i
  let t := a.2
  let rx := t / 2 % 2
  let ry := (t + rx) % 2
  let (x, y) := a.1
  let q := if ry = 0 then (if rx = 1 then (s - 1 - y, s - 1 - x) else (y, x)) else (x, y)
  ((q.1 + s * rx, q.2 + s * ry), t / 4)

/-- The point that visit d of the curve of order n stands for (R322). -/
def curve (n d : Nat) : Nat × Nat := ((List.range n).foldl curveStep ((0, 0), d)).1

/-- The order of the curve that covers a plane: ⌈log2 max⌉. -/
def curveOrder (tx ty : Nat) : Nat := if max tx ty ≤ 1 then 0 else Nat.log2 (max tx ty - 1) + 1

/-- The cells of a plane in the order of the walk (R322). -/
def walkOrder (tx ty : Nat) : List (Nat × Nat) :=
  if ty = 1 then (List.range tx).map fun x => (x, 0)
  else ((List.range (4 ^ curveOrder tx ty)).map (curve (curveOrder tx ty))).filter fun c => decide (c.1 < tx) && decide (c.2 < ty)

/-- An output cell: image, column of cells, row; a MATMUL's cells stand in one row. -/
abbrev TileCell := Nat × Nat × Nat

/-- The cells of replica p in the order of the walk; images follow one another (R322, R323, log entry 109). -/
def Walk.cells (w : Walk) (p : Nat) : List TileCell :=
  let (a, b) := w.band p
  if w.conv then
    (List.range (tDim 3 w.tout)).flatMap fun g => (walkOrder (ceilDiv w.ow 16) (b - a)).map fun c => (g, c.1, a + c.2)
  else (List.range (b - a)).map fun x => (0, a + x, 0)

/-- Cell s of replica p. -/
def Walk.cellAt (w : Walk) (p s : Nat) : TileCell := ((w.cells p)[s]?).getD (0, 0, 0)

/-- Valid tokens of a cell (Table 9.4). -/
def Walk.vtok (w : Walk) (c : TileCell) : Nat := min 16 ((if w.conv then w.ow else tTokens w.tout) - 16 * c.2.1)

/-- The number, in the output tensor, of a cell's token 0. -/
def Walk.firstToken (w : Walk) (c : TileCell) : Nat := if w.conv then 16 * c.2.1 + w.ow * (c.2.2 + w.oh * c.1) else 16 * c.2.1

/-- Valid channels of slot k of a cell of n-block nb (Table 9.4). -/
def Walk.vch (w : Walk) (nb k : Nat) : Nat := min 256 (w.outputs - 256 * (w.slotsPer * nb + k))

/-! ### Bands of input rows and halos (R325 to R327) -/

/-- Byte k of the operator's own fields. -/
def Walk.par8 (w : Walk) (k : Nat) : Nat := byteAt k w.par
/-- Rows of the input. -/
def Walk.ih (w : Walk) : Nat := tDim 2 w.tin
/-- Columns of the input. -/
def Walk.iw (w : Walk) : Nat := tDim 1 w.tin
/-- KH_eff of R326. -/
def Walk.khEff (w : Walk) : Nat := w.par8 12 * (w.par8 8 - 1) + 1

/-- A replica's own input rows: the first, and the one after the last (R326). -/
def Walk.ownRows (w : Walk) (p : Nat) : Nat × Nat :=
  let (a, b) := w.band p
  (min (a * w.par8 10) w.ih, if p + 1 = w.repl then w.ih else min (b * w.par8 10) w.ih)
/-- H_up of a replica (R326). -/
def Walk.hUp (w : Walk) (p : Nat) : Nat := if p = 0 then 0 else min (w.par8 14) (w.ownRows p).1
/-- H_down of a replica (R326). -/
def Walk.hDown (w : Walk) (p : Nat) : Nat :=
  if p + 1 = w.repl then 0 else min (w.khEff - (w.par8 14 + w.par8 10)) (w.ih - (w.ownRows p).2)
/-- The input row at offset 0 of a replica's row buffer (R327). -/
def Walk.rowBase (w : Walk) (p : Nat) : Nat := (w.ownRows p).1 - w.hUp p
/-- Input rows of one image in a replica's row buffer: upper halo, own rows, lower halo (R327). -/
def Walk.rowsHeld (w : Walk) (p : Nat) : Nat := (w.ownRows p).2 + w.hDown p - w.rowBase p
/-- Images of the input. -/
def Walk.images (w : Walk) : Nat := tDim 3 w.tin
/-- Bytes of an element of a format that stores tokens as rows: BF16, FP32, INT8, INT16, INT32; 0 for coded formats. -/
def rawSize (f : Nat) : Nat := if f = 5 then 2 else if f = 6 then 4 else if f = 7 then 1 else if f = 8 then 2 else if f = 9 then 4 else 0

/-- Bytes from one token of a row to the next in a row buffer: a plain row as it lies in memory; of a coded operand the codes (R203, R327, log
entry 109). -/
def Walk.tokenBytes (w : Walk) : Nat :=
  if rawSize (tFormat w.tin) ≠ 0 then tStride 1 w.tin else qStride (tFormat w.tin) (tDim 0 w.tin)
/-- Bytes of an input row in a row buffer (R327). -/
def Walk.rowBytes (w : Walk) : Nat := 32 * ceilDiv (w.iw * w.tokenBytes) 32
/-- Bytes of a replica's row buffer. -/
def Walk.bandBytes (w : Walk) (p : Nat) : Nat := w.images * w.rowsHeld p * w.rowBytes
/-- The replicas before a number that have shares on a rack. -/
def Walk.replicasOn (w : Walk) (r n : Nat) : List Nat := (List.range n).filter fun p => (w.racksOf p).contains r
/-- The bytes that the row buffers of the replicas before a number take on a rack: the first stands at offset 0, others follow it (R327, log entry
109). -/
def Walk.bandsBefore (w : Walk) (r n : Nat) : Nat := ((w.replicasOn r n).map w.bandBytes).sum
/-- The place on a rack of row y of image g of a replica; images follow one another (R327, log entry 109). -/
def Walk.rowPlace (w : Walk) (r p : Nat) (e : Nat × Nat) : Nat :=
  w.bandsBefore r p + (e.1 * w.rowsHeld p + (e.2 - w.rowBase p)) * w.rowBytes

/-- Band mode: a spatial operator whose rows, halos and staging area fit in 384 KiB of the scratchpad of every rack (R325). -/
def Walk.bandMode (w : Walk) : Bool :=
  w.conv && (List.range w.nshare).all fun j =>
    decide (w.bandsBefore (w.rackOf j) w.repl + 256 * (32 * ceilDiv (2 * w.inputs) 32) ≤ 393216)

/-- The taps of one token of a cell: for each, the token of the input it reads, or none outside the input. None for a token that is not
valid (R324, R328 to R330). -/
def Walk.taps (w : Walk) (c : TileCell) (k : Nat) : Option (List (Option Nat)) :=
  if w.vtok c ≤ k then none
  else if w.conv then
    let ox := 16 * c.2.1 + k
    some ((List.range (w.par8 8)).flatMap fun ky => (List.range (w.par8 9)).map fun kx =>
      let y := c.2.2 * w.par8 10 + ky * w.par8 12
      let x := ox * w.par8 11 + kx * w.par8 13
      if w.par8 14 ≤ y ∧ y < w.par8 14 + w.ih ∧ w.par8 16 ≤ x ∧ x < w.par8 16 + w.iw ∧ c.1 < tDim 3 w.tin then
        some (x - w.par8 16 + w.iw * (y - w.par8 14 + w.ih * c.1))
      else none)
  else
    let n := 16 * c.2.1 + k
    some [if n < tTokens w.tin then some n else none]

/-- The input rows that a cell of a spatial operator reads: the first, and the one after the last, inside the input. -/
def Walk.rowsOf (w : Walk) (c : TileCell) : Nat × Nat :=
  (c.2.2 * w.par8 10 - w.par8 14, min w.ih (c.2.2 * w.par8 10 + w.khEff - w.par8 14))

/-! ### Reading an operand (R208, R209, R213, R215, R328, R329) -/

/-- A value narrowed to BF16, as an FP32 word. -/
def bfWord (v : FVal) : Word := BitVec.ofNat 32 ((fencode bf16 v).1 * 65536)

/-- An element of a plain row in BF16: an FP32 or integer element is narrowed once (R188). -/
def rawWord (f : Nat) (bs : List Byte) : Word :=
  let n := rawSize f
  let v := leAt 0 n bs
  if f = 5 then BitVec.ofNat 32 (v * 65536) else if f = 6 then bfWord (val32 (BitVec.ofNat 32 v)) else bfWord (ofInt (signedOf (8 * n) v))

/-- A code that is no escape, at a scale, in BF16 (R208, R209). -/
def expandCode (f : Nat) (scale : Word) (c : Nat) : Word :=
  let v := if f = 0 then ofInt (signedOf 8 c) else if f = 1 then ofInt (signedOf 4 c) else fdecode (qFloat f) c
  bfWord (fmulV v (val32 scale)).1

/-- An INT8 asymmetric code under a channel record: (q − z) × s + OFFSET, rounded once (R213, Table 6.11). -/
def expandAsym (rec' : List Byte) (q : Int) : Word :=
  bfWord (fmaV (val32 (BitVec.ofNat 32 (leAt 8 4 rec'))) (ofInt (q - signedOf 8 (byteAt 4 rec'))) (val32 (BitVec.ofNat 32 (leAt 0 4 rec')))).1

/-- The channel record of channel c in a parameter table; without a table a code stands for itself. -/
def chanRec (table : List Byte) (c : Nat) : List Byte :=
  if table.isEmpty then leBytes 4 one32.toNat ++ leBytes 12 0 else (table.drop (16 * c)).take 16

/-- What a code pad places in a token that is coded: a code of an A8 or A4 operand as a code, one of another operand as the BF16 value that it
stands for (R215). -/
inductive CodePad where
  | code (c : Int)
  | value (x : Word)
  deriving DecidableEq, Repr

/-- What the code pad of a tensor places in channel c. A code of an INT8, INT16 or INT32 operand is its integer. One of a floating-point code
operand stands for its value; at which scale, where the tensor has scales, no rule states: there it is the free word given (R209, R213, R215,
R328, log entry 109). -/
def codePad (t table : List Byte) (free : Word) (c : Nat) : CodePad :=
  let f := tFormat t
  let v := byteAt 40 t
  if f < 2 then .code (signedOf (qWidth f) (v % 2 ^ qWidth f))
  else if f < 5 then
    .value (if tScale t = 0 then expandCode f one32 (v % 2 ^ qWidth f) else BitVec.ofNat 32 (free.toNat % 65536 * 65536))
  else if f = 10 then .value (expandAsym (chanRec table c) (signedOf 8 v))
  else .value (bfWord (ofInt (signedOf 8 v)))

/-- The padding of a tensor in channel c that takes part in the first pass, as a BF16 element: zero, the real value, or the value that an INT8
asymmetric code stands for (R213, R215, R328). -/
def padWord (t table : List Byte) (c : Nat) : Word :=
  let kind := byteAt 44 t
  if kind = 2 then bfWord (val32 (BitVec.ofNat 32 (leAt 40 4 t)))
  else if tFormat t = 10 then
    let r := chanRec table c
    expandAsym r (if kind = 3 then signedOf 8 (byteAt 4 r) else 0)
  else 0

/-- An element gathered: its BF16 value, which takes part in the first pass, and what a code pad places instead (R215). -/
abbrev Gathered := Word × Option CodePad

/-- The padding of a tensor in channel c as the gather takes it: a code pad takes no part in the first pass (R215, R328, R330). -/
def padElem (t table : List Byte) (free : Word) (c : Nat) : Gathered :=
  if byteAt 44 t = 1 then (0, some (codePad t table free c)) else (padWord t table c, none)

/-- The code of `width` bits that a code pad places in a token of a scale, within ±qmax as every code that is no escape is (R195, R215, log entry
109). -/
def padCode (width : Nat) (scale : Word) (p : CodePad) : Nat :=
  let qmax : Int := 2 ^ (width - 1) - 1
  patternOf width (clampInt (-qmax) qmax (match p with
    | .code c => c
    | .value x => codeOf x scale))

/-- A token coded in `width` bits with the codes that code pads place (R215). -/
def CodedTok.placed (width : Nat) (k : CodedTok) (els : List Gathered) : CodedTok :=
  { k with codes := k.codes.zipIdx.map fun e => ((nthD (0, none) e.2 els).2.map (padCode width k.scale)).getD e.1 }

/-- Whether the tokens of a coded tensor have scale records (R208, R209). -/
def hasScales (t : List Byte) : Bool := decide (tFormat t ≠ 10) && decide (tScale t ≠ 0)

/-- Where the bytes of token n of a tensor lie: address and length of each piece. e: the escape allowance of its data blocks. For a coded
tensor: codes, the scale record where it has scales, of A8 and A4 the side lists of each block (R203 to R207, R209). -/
def tokenPieces (t : List Byte) (e n : Nat) : List (Nat × Nat) :=
  let f := tFormat t
  let k := tDim 0 t
  if rawSize f ≠ 0 then [(tokenAddr t n, k * rawSize f)]
  else
    let st := qStride f k
    let blk := tAddr t + n / 256 * qBlockBytes f k e
    let side := fun b => (blk + 32 + 256 * st + 4 * ((b * 256 + n % 256) * e), 4 * e)
    (blk + 32 + n % 256 * st, st) ::
      ((if hasScales t then [(tScale t + n / 256 * 2080 + 32 + 8 * (n % 256), 8)] else []) ++
        (if f < 2 then (List.range (qBlocks k)).map side else []))

/-- The VALUE of the side-list entry of a row, if one is valid (Table 6.6). -/
def sideValue (list : List Byte) (row : Nat) : Option Nat :=
  (((List.range (list.length / 4)).map fun i => leAt (4 * i) 4 list).find? fun v => bitAt 31 v && decide (bits 30 22 v = row)).map
    (· % 65536)

/-- Element i of a token from its pieces, in BF16; none for an escape without a valid entry (R208, R209, R213). -/
def tokenElem (t table : List Byte) (ps : List (List Byte)) (i : Nat) : Option Word :=
  let f := tFormat t
  let body := nthD [] 0 ps
  if rawSize f ≠ 0 then some (rawWord f ((body.drop (rawSize f * i)).take (rawSize f)))
  else
    let c := if qWidth f = 4 then byteAt (i / 2) body / 16 ^ (i % 2) % 16 else byteAt i body
    if f = 10 then some (expandAsym (chanRec table i) (signedOf 8 c))
    else
      let rec' := nthD [] 1 ps
      if hasScales t && bitAt 7 (byteAt 4 rec') then some 0
      else if f < 2 && decide (c = 2 ^ (qWidth f - 1)) then
        (sideValue (nthD [] ((if hasScales t then 2 else 1) + i / 512) ps) (i % 512)).map fun v => BitVec.ofNat 32 (v * 65536)
      else some (expandCode f (if hasScales t then BitVec.ofNat 32 (leAt 0 4 rec') else one32) c)

/-! ### Descriptors (R310, R316, R317, Tables 7.5 and 7.6) -/

/-- The escape allowance of an operator (Table 10.10). -/
def Walk.escapes (w : Walk) : Nat := if w.conv then w.par8 18 else w.par8 8

/-- A sector of usable DRAM from which n bytes fit, picked by a free number (log entry 109). -/
def freePlace (n x : Nat) (s : State) : Nat := 32 * (x % ((usable s - n) / 32 + 1))

/-- Bytes of one coded block with its scale block. -/
def Walk.blockLen (w : Walk) : Nat := 32 * ceilDiv (qBlockBytes w.infmt w.inputs w.escapes) 32 + 2080

/-- The data block that cell c of a replica is coded into: two blocks for each replica, none over another, the same for every rack of
the replica, so that their partials name one scale block (R245, R324, log entry 109). -/
def Walk.dataAt (w : Walk) (p c : Nat) (s : State) : Nat :=
  freePlace (2 * w.repl * w.blockLen) (Config.walkData (leAt 24 8 w.map)) s + (2 * p + c / 16 % 2) * w.blockLen
/-- The scale block beside it. -/
def Walk.scaleAt (w : Walk) (p c : Nat) (s : State) : Nat := w.dataAt p c s + (w.blockLen - 2080)

/-- The tile descriptor of share j for cell c (R310, R311, R324). -/
def Walk.tile (w : Walk) (j c slot : Nat) (s : State) : Tile :=
  let e := shareAt w.map j
  let p := w.replica j
  padTo 64 (leBytes 8 (w.dataAt p c s) ++ leBytes 8 (w.scaleAt p c s) ++ leBytes 2 (leAt 2 2 e) ++
    [BitVec.ofNat 8 (16 * (c % 16)), 16#8, BitVec.ofNat 8 (byteAt 6 e), 1#8, BitVec.ofNat 8 slot,
     BitVec.ofNat 8 (w.infmt + 4 * w.w5.toNat), 0#8, BitVec.ofNat 8 (byteAt 8 e), 0#8])

/-- A drain descriptor (Table 7.6). -/
def drainDesc (out bias res stride qctrl : Nat) (ks : List Byte) (vch vtok slot fmt nchain sync flags : Nat) (chain : List Byte)
    (qscale sf ktok ch0 : Nat) : List Byte :=
  padTo 128 (leBytes 8 out ++ leBytes 8 bias ++ leBytes 8 res ++ leBytes 4 stride ++ leBytes 4 qctrl ++ padTo 16 ks ++ leBytes 2 vch ++
    leBytes 1 vtok ++ leBytes 1 slot ++ leBytes 1 fmt ++ leBytes 1 nchain ++ leBytes 2 sync ++ leBytes 1 flags ++ leBytes 7 0 ++
    padTo 32 chain ++ leBytes 8 qscale ++ leBytes 4 sf ++ leBytes 2 ktok ++ leBytes 2 ch0)

/-- The drain of slot k of a producer's cell: an integer partial that signals ready (R316). An upper slot without valid channels, whose
elements are 0, is drained as one channel: R316 counts its partial, and R250 refuses VCH 0 (log entry 109). -/
def Walk.partialDrain (w : Walk) (j s k slot : Nat) : List Byte :=
  let c := w.cellAt (w.replica j) s
  let nb := leAt 4 2 (shareAt w.map j)
  drainDesc (w.partAddr j s k) 0 0 0 0 [] (max 1 (w.vch nb k)) (w.vtok c) slot 4 0 (w.ready j) 1 [] 0 0 0 0

/-- OUTFMT for a tensor's format; QUANT codes (Table 7.7). -/
def outFormat (quant : Bool) (f : Nat) : Nat :=
  if quant then 5 else if f = 6 then 0 else if f = 5 then 1 else if f = 2 then 2 else if f = 3 then 3 else 15

/-- The drain of slot k of a home cell to the layer's output, under the packet's fused chain (R317, R321, R330, R368). A cell that QUANT
codes is a data block of its own, in the order of the output (R199, log entry 109). -/
def Walk.homeDrain (w : Walk) (j s k slot : Nat) : List Byte :=
  let c := w.cellAt (w.replica j) s
  let nb := leAt 4 2 (shareAt w.map j)
  let ch0 := 256 * (w.slotsPer * nb + k)
  let n := byteAt 80 w.par
  let quant := decide (n ≠ 0) && decide (bits 31 26 (leAt (48 + 4 * (n - 1)) 4 w.par) = 8)
  let f := outFormat quant (tFormat w.tout)
  let q := leAt 84 4 w.par
  let num := if w.conv then (c.1 * w.oh + c.2.2) * ceilDiv w.ow 16 + c.2.1 else c.2.1
  let tok := w.firstToken c
  let bias := leAt 0 8 w.par
  drainDesc (if quant then tAddr w.tout + num * qBlockBytes (qFormat q) w.outputs (qE q) else tokenAddr w.tout tok + ch0 * outBytes f)
    (if bias = 0 then 0 else bias + 4 * ch0)
    (if w.tres.isEmpty then 0 else tokenAddr w.tres tok + ch0 * (if byteAt 81 w.par = 0 then 4 else 2))
    (tStride 1 w.tout) q ((w.par.drop 32).take 16) (w.vch nb k) (w.vtok c) slot (f + 16 * byteAt 81 w.par) n 0 0
    ((w.par.drop 48).take 32) (if quant then tScale w.tout + num * 2080 else 0) (leAt 96 4 w.par)
    (if quant then w.outputs else 0) (if quant then ch0 else 0)

/-- Whether the residual operand lies as the output does, so that a drain reads it where it is: same dimensions, same row stride
(Table 7.6). -/
def Walk.resPlain (w : Walk) : Bool :=
  ((List.range 4).all fun k => decide (tDim k w.tres = tDim k w.tout)) && decide (tStride 1 w.tres = tStride 1 w.tout)

/-- Bytes of an element of RES in the drain's format. -/
def Walk.resSize (w : Walk) : Nat := if byteAt 81 w.par = 0 then 4 else 2

/-- The padding element of RES (R328, R329). -/
def Walk.resPad (w : Walk) : List Byte :=
  let v := if byteAt 44 w.tres = 2 then leAt 40 4 w.tres else 0
  if w.resSize = 4 then leBytes 4 v else leBytes 2 (fencode bf16 (val32 (BitVec.ofNat 32 v))).1

/-- The token of RES at the place of token t of a cell, if RES has one there: as column, row and image. -/
def Walk.resToken (w : Walk) (c : TileCell) (t : Nat) : Option Nat :=
  let n := w.firstToken c + t
  let x := n % tDim 1 w.tout
  let y := n / tDim 1 w.tout % tDim 2 w.tout
  let g := n / (tDim 1 w.tout * tDim 2 w.tout)
  if x < tDim 1 w.tres ∧ y < tDim 2 w.tres ∧ g < tDim 3 w.tres then some (x + tDim 1 w.tres * (y + tDim 2 w.tres * g)) else none

/-- The piece of RES that a row of n channels from ch0 reads, and the number of channels that are padding beyond it. -/
def Walk.resPiece (w : Walk) (tok : Option Nat) (ch0 n : Nat) : Option (Nat × Nat) × Nat :=
  let inside := min n (tDim 0 w.tres - ch0)
  match tok with
  | some t => if inside = 0 then (none, n) else (some (tokenAddr w.tres t + ch0 * w.resSize, inside * w.resSize), n - inside)
  | none => (none, n)

/-- The streams and strips that a walk starts with (R320, R325, R332, R333). -/
def Walk.opened (w : Walk) : Walk :=
  let racks := ((List.range w.nshare).map w.rackOf).eraseDups
  let red := fun r => bitAt 0 (byteAt 18 w.map) || decide (w.limit r = 0)
  { w with
    strips := racks.flatMap fun r => ((List.range w.repl).filter fun p => (w.racksOf p).contains r).map fun p => ⟨r, p, false, 0, false⟩
    streams := racks.flatMap fun r => ([true, false].filter fun h => !(w.sharesOn r h).isEmpty).map fun h =>
      ⟨r, h, red r, 0, 0, [], none, 0, false, []⟩ }

end Sys2Proof.Machine
end

