-- ==== Sys2Proof/Machine/Walker.lean ====
section
/-! DEFINITION. The tile walker at work (R314 to R335): the row buffers and halo exchange, the gather and coding of cells, the streams with
their opens, cask operations, partial loads and drains, the fallback, and the end of the walk. Every MATMUL or CONV2D command on a packet
whose walk has begun is one round: each strip and each stream does the next thing it can (log entry 32). -/

namespace Sys2Proof.Machine

/-! ### The walk of a packet -/

/-- The walk of a packet, while it has one. -/
def walkOf (p : PktId) (s : State) : Option Walk := (findPkt p s).bind Pkt.walk

/-- The walk of a packet changed. -/
def modWalk (p : PktId) (f : Walk → Walk) (s : State) : State := modPkt p (fun k => { k with walk := k.walk.map f }) s

/-- Element i of a list changed. -/
def modAt {α : Type} (i : Nat) (f : α → α) (l : List α) : List α := l.zipIdx.map fun e => if e.2 = i then f e.1 else e.1

/-- Stream i of a walk changed. -/
def modStream (p : PktId) (i : Nat) (f : Stream → Stream) (s : State) : State :=
  modWalk p (fun w => { w with streams := modAt i f w.streams }) s

/-- Strip i of a walk changed. -/
def modStrip (p : PktId) (i : Nat) (f : Strip → Strip) (s : State) : State :=
  modWalk p (fun w => { w with strips := modAt i f w.strips }) s

/-- The walker's thread that acts on a rack: the lowest READY one of the packet. -/
def walkThread (r : Nat) (p : PktId) (s : State) : Option Nat :=
  (List.range 64).find? fun t => let k := getThread r t s; decide (k.pkt = some p) && decide (k.st = .ready)

/-- An exception of the walker on a rack; PC and instruction are the library's own and free (R297, log entry 28). -/
def walkTrap (r : Nat) (p : PktId) (cause addr : Nat) (s : State) : State :=
  match walkThread r p s with
  | some t =>
    let pc := (Config.freeWord s.freeCtr ++ Config.freeWord (s.freeCtr + 1)).toNat
    raiseExc r t cause 0 pc addr (Config.freeWord (s.freeCtr + 2)) { s with freeCtr := s.freeCtr + 3 }
  | none => s

/-- A signal of the walker: a release that adds to an object (R305, R316, R320). -/
def walkSignal (o : Nat) (v : Int) (p : PktId) (s : State) : State := ringProgress (some p) (signal o v (some p) s)

/-- Whether an object has reached a count. -/
def reached (o n : Nat) (s : State) : Bool := decide (n ≤ (syncGet o s).toNat)

/-! ### Reading -/

/-- A piece of memory read by rack r; the address of a read that fails. -/
def fetch (r : Nat) (p : PktId) (a : Nat × Nat) (s : State) : Except Nat (List Byte) × State :=
  match devRead r a.1 a.2 (some p) s with
  | (.ok d, s) => (.ok d, s)
  | (x, s) => (.error a.1, busOf x (some p) s)

/-- Every element of a list gathered in order, up to the first failure. -/
def gatherAll {α β : Type} (f : α → State → Except Nat β × State) : List α → State → Except Nat (List β) × State
  | [], s => (.ok [], s)
  | a :: l, s =>
    match f a s with
    | (.error e, s) => (.error e, s)
    | (.ok b, s) =>
      match gatherAll f l s with
      | (.error e, s) => (.error e, s)
      | (.ok bs, s) => (.ok (b :: bs), s)

/-! ### The row buffers (R325 to R327) -/

/-- One input row stored into a replica's row buffer on a rack, through the rack's scratchpad window (R327). -/
def storeRow (w : Walk) (rack q from' : Nat) (p : PktId) (s : State) (row : (Nat × Nat) × List Byte) : State :=
  devStore from' (0x1000000000 + 0x80000 * rack + w.rowPlace rack q row.1) (padTo w.rowBytes row.2) (some p) s

/-- Halo rows stored into every rack of a neighbouring replica, whose halo object counts them (R327). -/
def sendHalo (w : Walk) (from' q o : Nat) (rows : List ((Nat × Nat) × List Byte)) (p : PktId) (s : State) : State :=
  if rows.isEmpty then s
  else walkSignal o rows.length p ((w.racksOf q).foldl (fun s r => rows.foldl (storeRow w r q from' p) s) s)

/-- What of an operand is read before its tokens: the escape allowance of an A8 or A4 operand, from the header of its first data block, and the
channel parameter table of an INT8 asymmetric one (Tables 6.5, 6.11). -/
def operandHead (w : Walk) (rack : Nat) (p : PktId) (s : State) : Except Nat (Nat × List Byte) × State :=
  let f := tFormat w.tin
  if f < 2 then
    match fetch rack p (tAddr w.tin, 32) s with
    | (.ok d, s) => (.ok (byteAt 3 d, []), s)
    | (.error a, s) => (.error a, s)
  else if f = 10 ∧ tScale w.tin ≠ 0 then
    match fetch rack p (tScale w.tin, 16 * tDim 0 w.tin) s with
    | (.ok d, s) => (.ok (0, d), s)
    | (.error a, s) => (.error a, s)
  else (.ok (0, []), s)

/-- Where the bytes of row y of image g of the input lie that a row buffer holds: a plain row in one piece, the codes of a coded one token by
token (R327, log entry 109). -/
def Walk.rowPieces (w : Walk) (esc : Nat) (e : Nat × Nat) : List (Nat × Nat) :=
  if rawSize (tFormat w.tin) ≠ 0 then [(tAddr w.tin + e.1 * tStride 3 w.tin + e.2 * tStride 2 w.tin, w.iw * tStride 1 w.tin)]
  else (List.range w.iw).map fun x => (tokenPieces w.tin esc (x + w.iw * (e.2 + w.ih * e.1))).headD (0, 0)

/-- One input row loaded from DRAM, with its image and number. -/
def loadRow (w : Walk) (rack : Nat) (p : PktId) (esc : Nat) (e : Nat × Nat) (s : State) : Except Nat ((Nat × Nat) × List Byte) × State :=
  match gatherAll (fetch rack p) (w.rowPieces esc e) s with
  | (.ok ds, s) => (.ok (e, ds.flatten), s)
  | (.error a, s) => (.error a, s)

/-- Rows a to b − 1 of every image. -/
def Walk.rowRange (w : Walk) (a b : Nat) : List (Nat × Nat) :=
  (List.range w.images).flatMap fun g => (List.range (b - a)).map fun y => (g, a + y)

/-- The own rows of a replica that its neighbours need loaded, stored into their row buffers and signalled (R327, steps 1 to 3). The
first rack of a replica does so (log entry 109). -/
def sendHalos (w : Walk) (v : Strip) (p : PktId) (esc : Nat) (s : State) : Except Nat Unit × State :=
  let (a, b) := w.ownRows v.repl
  let main := decide (w.mainRack v.repl = some v.rack)
  let up := if main && decide (0 < v.repl) then w.rowRange a (a + w.hDown (v.repl - 1)) else []
  let down := if main && decide (v.repl + 1 < w.repl) then w.rowRange (b - w.hUp (v.repl + 1)) b else []
  match gatherAll (loadRow w v.rack p esc) up s with
  | (.error e, s) => (.error e, s)
  | (.ok rows, s) =>
    match gatherAll (loadRow w v.rack p esc) down s with
    | (.error e, s) => (.error e, s)
    | (.ok rows', s) =>
      let s := sendHalo w v.rack (v.repl - 1) (w.lower (v.repl - 1)) rows p s
      (.ok (), sendHalo w v.rack (v.repl + 1) (w.upper (v.repl + 1)) rows' p s)

/-- A replica's own rows loaded on a rack, after those that its neighbours need have been stored and signalled (R327). -/
def fillRows (p : PktId) (i : Nat) (w : Walk) (v : Strip) (s : State) : State :=
  match operandHead w v.rack p s with
  | (.error e, s) => walkTrap v.rack p 7 e s
  | (.ok h, s) =>
  match sendHalos w v p h.1 s with
  | (.error e, s) => walkTrap v.rack p 7 e s
  | (.ok _, s) =>
    match gatherAll (loadRow w v.rack p h.1) (w.rowRange (w.ownRows v.repl).1 (w.ownRows v.repl).2) s with
    | (.error e, s) => walkTrap v.rack p 7 e s
    | (.ok rows, s) => modStrip p i (fun v => { v with filled := true }) (rows.foldl (storeRow w v.rack v.repl v.rack p) s)

/-- Whether the halo rows that some cells read have arrived (R327). -/
def haloIn (w : Walk) (q : Nat) (cs : List TileCell) (s : State) : Bool :=
  let (a, b) := w.ownRows q
  (!(cs.any fun c => decide ((w.rowsOf c).1 < a)) || reached (w.upper q) (w.images * w.hUp q) s) &&
    (!(cs.any fun c => decide (b < (w.rowsOf c).2)) || reached (w.lower q) (w.images * w.hDown q) s)

/-! ### Gathering and coding (R324, R328 to R330) -/

/-- The pieces of an input token, in band mode the row's bytes out of the rack's row buffer (R325, R327). -/
def Walk.pieces (w : Walk) (r q e n : Nat) : List (Nat × Nat) :=
  let ps := tokenPieces w.tin e n
  if w.bandMode then
    (0x2000000000 + w.rowPlace r q (n / (w.iw * w.ih), n / w.iw % w.ih) + n % w.iw * w.tokenBytes, (ps.headD (0, 0)).2) :: ps.tail
  else ps

/-- An escape without a valid side-list entry: EV_SIDE_LIST with the row; cask, slot and token are free (R208). -/
def sideMissing (p : PktId) (s : State) (row : Nat) : State :=
  drawFree (raiseEvent 0x0402 ((Config.freeWord s.freeCtr).toNat % 4096) ((Config.freeWord s.freeCtr).toNat / 4096 % 256) (row % 512) (some p) s)

/-- One tap of a token: the channels of an input token, or of the padding (R328, R329). -/
def gatherTap (r q e : Nat) (table : List Byte) (w : Walk) (p : PktId) (tap : Option Nat) (s : State) : Except Nat (List Gathered) × State :=
  let k := tDim 0 w.tin
  match tap with
  | none => (.ok ((List.range k).map (padElem w.tin table (Config.freeWord s.freeCtr))), s)
  | some n =>
    match gatherAll (fetch r p) (w.pieces r q e n) s with
    | (.error e, s) => (.error e, s)
    | (.ok ps, s) =>
      let els := (List.range k).map (tokenElem w.tin table ps)
      let lost := (List.range k).filter fun i => (nthD none i els).isNone
      (.ok (els.map fun x => (x.getD 0, none)), lost.foldl (sideMissing p) s)

/-- A token of K elements: its taps one after another, padding beyond the operand, zeros beyond its taps; a token past the end of an output
row is all zero (R324, R329, R330). -/
def gatherToken (r q e : Nat) (table : List Byte) (w : Walk) (p : PktId) (taps : Option (List (Option Nat))) (s : State) :
    Except Nat (List Gathered) × State :=
  match taps with
  | none => (.ok (List.replicate w.inputs (0, none)), s)
  | some ts =>
    match gatherAll (gatherTap r q e table w p) ts s with
    | (.error e, s) => (.error e, s)
    | (.ok xs, s) =>
      let l := xs.flatten
      let rest := (List.range (w.inputs - l.length)).map fun i =>
        if w.conv then (0, none) else padElem w.tin table (Config.freeWord s.freeCtr) (l.length + i)
      (.ok (l.take w.inputs ++ rest), s)

/-- The cells of data block b of a replica (R324). -/
def Walk.blockCells (w : Walk) (q b : Nat) : List TileCell := ((w.cells q).drop (16 * b)).take 16

/-- The tokens of a cell in its data block: 16, of which a row tail's are all zero; of a MATMUL's last cell only those below T, for the
rest are absent (Table 9.4). -/
def Walk.tokensOf (w : Walk) (c : TileCell) : List (Option (List (Option Nat))) :=
  (List.range (if w.conv then 16 else w.vtok c)).map (w.taps c)

/-- The next data block of a replica gathered and coded on a rack: 16 cells of 16 tokens, A8 or A4 as the layer map says, in dynamic mode,
with the operator's escape allowance (R324, R199 to R206). -/
def codeBlock (p : PktId) (i : Nat) (w : Walk) (v : Strip) (s : State) : State :=
  let r := v.rack
  let b := v.coded
  match operandHead w r p s with
  | (.error e, s) => walkTrap r p 7 e s
  | (.ok (e, table), s) =>
    let taps := (w.blockCells v.repl b).flatMap w.tokensOf
    match gatherAll (gatherToken r v.repl e table w p) taps s with
    | (.error e, s) => walkTrap r p 7 e s
    | (.ok xs, s) =>
      let q := w.infmt * 2 ^ 28 + w.escapes * 2 ^ 16
      let ts := xs.map fun els => (codeToken q 0 (els.map (·.1))).placed (qWidth w.infmt) els
      let s := writeBlock r q w.inputs (w.dataAt v.repl (16 * b) s) (w.scaleAt v.repl (16 * b) s)
        (Config.walkBsn (leAt 24 8 w.map) v.repl + b) ts (some p) s
      modStrip p i (fun v => { v with coded := b + 1 }) (noteTokens r (some p) ts (drawFree s))

/-- Whether a slot of a rack holds adds at the scale block of an address: its operations and its drain read that block (R217, R227). -/
def slotNames (r a : Nat) (s : State) : Bool :=
  (getRack r s).slots.any fun e => decide (e.2.st ≠ 0) && decide ((e.2.rec'.map (·.scale)) = some a)

/-- Whether every stream of a replica has drained the cells of its data block b, no operation on its racks still reads the block, and no drain
its scale block (R217, R227, R249, R324). -/
def blockFree (p : PktId) (w : Walk) (v : Strip) (b : Nat) (s : State) : Bool :=
  let a := w.dataAt v.repl (16 * b) s
  let mine := fun (o : CaskOp) => decide (o.pkt = some p) && decide (o.data = a)
  let past := fun (t : Stream) => t.ended || (decide (16 * (b + 1) ≤ t.cell) &&
    t.flights.all fun f => decide (f.cell / 16 ≠ b) || decide (w.replica f.share ≠ v.repl))
  (w.streams.all fun t => past t || (w.sharesOn t.rack t.home).all fun j => decide (w.replica j ≠ v.repl)) &&
    (w.racksOf v.repl).all fun r =>
      !((List.range 16).any fun k => let c := getCask (16 * r + k) s; c.queue.any mine || c.running.any fun o => mine o.op) &&
        !((getRack r s).corr.any fun o => mine o.op) && !slotNames r (w.scaleAt v.repl (16 * b) s) s

/-- Halo objects of a replica returned to 0 once their full count has come and no rack of the replica has more to gather (R320). -/
def closeHalo (p : PktId) (i : Nat) (w : Walk) (v : Strip) (s : State) : State :=
  let q := v.repl
  if decide (w.mainRack q ≠ some v.rack) || !w.bandMode then modStrip p i (fun v => { v with closed := true }) s
  else if (w.strips.all fun x => decide (x.repl ≠ q) || (w.blockCells q x.coded).isEmpty) &&
      reached (w.upper q) (w.images * w.hUp q) s && reached (w.lower q) (w.images * w.hDown q) s then
    let s := if w.hUp q = 0 then s else walkSignal (w.upper q) (-(w.images * w.hUp q : Int)) p s
    let s := if w.hDown q = 0 then s else walkSignal (w.lower q) (-(w.images * w.hDown q : Int)) p s
    modStrip p i (fun v => { v with closed := true }) s
  else s

/-- What a strip does in one round: fills its rows, codes its next data block into the buffer that is free, closes its halos. -/
def stripStep (p : PktId) (s : State) (i : Nat) : State :=
  match (walkOf p s).bind fun w => (w.strips[i]?).map fun v => (w, v) with
  | none => s
  | some (w, v) =>
    let cs := w.blockCells v.repl v.coded
    if (walkThread v.rack p s).isNone || v.closed then s
    else if w.bandMode && !v.filled then fillRows p i w v s
    else if !cs.isEmpty then
      if (v.coded < 2 || blockFree p w v (v.coded - 2) s) && (!w.bandMode || haloIn w v.repl cs s) then codeBlock p i w v s else s
    else if w.streams.all fun t => decide (t.rack ≠ v.rack) || t.ended then closeHalo p i w v s
    else s

/-! ### Cells in flight (R316 to R318) -/

/-- The cask operations of a flight entered, once there is room (R247, R310). -/
def feed (p : PktId) (i k : Nat) (w : Walk) (f : Flight) (s : State) : Option State :=
  let r := w.rackOf f.share
  let d := w.tile f.share f.cell (f.slots.headD 0) s
  if tileRefused r d s then some (walkTrap r p 5 0 s)
  else if mayAccept r 64 s.now d (some p) s then
    some (modStream p i (fun t => { t with flights := modAt k (fun f => { f with fed := true }) t.flights }) (enterOps r d (some p) s))
  else none

/-- The next partial of a home cell loaded once its producer has it ready (R317). -/
def loadPartial (p : PktId) (i k : Nat) (w : Walk) (f : Flight) (s : State) : Option State :=
  let r := w.rackOf f.share
  let n := w.slotsPer
  let j := nthD 0 (f.loads / n) (w.producers f.share)
  let slot := nthD 0 (f.loads % n) f.slots
  if reached (w.ready j) (n * (f.cell + 1)) s && decide ((getRack r s).ldp.length < 4) then
    let s := modRack r (fun x => { x with ldp := x.ldp ++ [⟨w.partAddr j f.cell (f.loads % n), slot, some p⟩] }) s
    let s := modSlot r slot (fun x => { x with pend := x.pend + 1 }) s
    some (modStream p i (fun t => { t with flights := modAt k (fun f => { f with loads := f.loads + 1 }) t.flights }) s)
  else none

/-- The partial buffers of a home cell given back once its slots have nothing pending (R317, R318). -/
def giveBack (p : PktId) (i k : Nat) (w : Walk) (f : Flight) (s : State) : Option State :=
  if f.slots.all fun x => decide ((getSlot (w.rackOf f.share) x s).pend = 0) then
    let s := (w.producers f.share).foldl (fun s j => walkSignal (w.consumed j) 1 p s) s
    some (modStream p i (fun t => { t with flights := modAt k (fun f => { f with told := true }) t.flights }) s)
  else none

/-- One row of RES for a drain: what RES holds, padding where it holds nothing (R329). -/
def resRowOf (w : Walk) (r ch0 n : Nat) (p : PktId) (tok : Option Nat) (s : State) : Except Nat (List Byte) × State :=
  match w.resPiece tok ch0 n with
  | (none, k) => (.ok (List.replicate k w.resPad).flatten, s)
  | (some a, k) =>
    match fetch r p a s with
    | (.ok d, s) => (.ok (d ++ (List.replicate k w.resPad).flatten), s)
    | (.error e, s) => (.error e, s)

/-- The residual rows that the walker stages for a home drain: none where the chain has no RESADD, or RES lies as the output does
(R329). -/
def stageRes (w : Walk) (home : Bool) (f : Flight) (p : PktId) (s : State) : Except Nat (Option (List (List Byte))) × State :=
  if !home || w.tres.isEmpty || w.resPlain then (.ok none, s)
  else
    let c := w.cellAt (w.replica f.share) f.cell
    let nb := leAt 4 2 (shareAt w.map f.share)
    let row := resRowOf w (w.rackOf f.share) (256 * (w.slotsPer * nb + f.drained)) (w.vch nb f.drained) p
    match gatherAll row ((List.range (w.vtok c)).map (w.resToken c)) s with
    | (.ok rows, s) => (.ok (some rows), s)
    | (.error e, s) => (.error e, s)

/-- The next slot of a cell handed to the decant; with the last the cell leaves flight. A slot without valid channels is dropped (R250,
R316, R317, R330, R332). -/
def drainNext (p : PktId) (i k : Nat) (home : Bool) (w : Walk) (f : Flight) (s : State) : Option State :=
  let r := w.rackOf f.share
  let slot := nthD 0 f.drained f.slots
  let d := if home then w.homeDrain f.share f.cell f.drained slot else w.partialDrain f.share f.cell f.drained slot
  let isDrop := decide (w.vch (leAt 4 2 (shareAt w.map f.share)) f.drained = 0) && home
  let left := fun (t : Stream) => { t with
    mine := t.mine ++ [s.nextOp]
    flights := if f.drained + 1 < w.slotsPer then modAt k (fun f => { f with drained := f.drained + 1 }) t.flights else t.flights.eraseIdx k }
  if !decantRoom r s then none
  else if isDrop then some (modStream p i left (acceptDrain r true slot [] (some p) s))
  else if drainRefused r slot d s then
    some (walkTrap r p 5 0 (if decide (byteAt 52 d % 16 = 5) && drainQtBad r d s then raiseEvent 0x0505 r 0 0 (some p) s else s))
  else match stageRes w home f p s with
    | (.error e, s) => some (walkTrap r p 7 e s)
    | (.ok rows, s) => some (modStream p i left (acceptStaged r false slot d (some p) rows s))

/-- The next thing a cell in flight can do, if any (R316, R317). A home cell with no producer waits for no partial. -/
def flightStep (p : PktId) (i : Nat) (w : Walk) (home : Bool) (s : State) (e : Flight × Nat) : Option State :=
  let f := e.1
  if !f.fed then feed p i e.2 w f s
  else if home && decide (f.loads < w.slotsPer * (w.producers f.share).length) then loadPartial p i e.2 w f s
  else if home && !f.told && !(w.producers f.share).isEmpty then giveBack p i e.2 w f s
  else drainNext p i e.2 home w f s

/-! ### Opening cells (R323, R332 to R335) -/

/-- The stream's next place among its shares, in the same cell or the next (R323). -/
def Stream.advance (t : Stream) (shares : Nat) : Stream :=
  if t.next + 1 < shares then { t with next := t.next + 1 } else { t with next := 0, cell := t.cell + 1 }

/-- The slots of a cell: the lowest FREE one, in W5 the lowest FREE pair (R242, R316). -/
def cellSlots (r : Nat) (w5 : Bool) (s : State) : Option (List Nat) :=
  if w5 then ((List.range 15).find? fun k => decide ((getSlot r k s).st = 0) && decide ((getSlot r (k + 1) s).st = 0)).map fun k => [k, k + 1]
  else (freeSlot r s).map fun k => [k]

/-- The drains of a stream that are outstanding (R333). -/
def ownDrains (t : Stream) (s : State) : List Nat := t.mine.filter fun d => (getRack t.rack s).drains.any fun x => decide (x.id = d)

/-- Whether a stream that failed to open in reduction-first order tries again: one of its drains has ended, or 1 µs has passed where none was
outstanding (R333). -/
def mayRetry (t : Stream) (s : State) : Bool :=
  match t.tried with
  | none => true
  | some (at', ds) => if ds.isEmpty then decide (at' + 200 ≤ s.now) else ds.any fun d => !(ownDrains t s).contains d

/-- Whether the order that a stream is in lets it open a share of a cell: in breadth order cell s + L only after cell s has left flight
(R332, R333). -/
def orderAdmits (w : Walk) (t : Stream) (s : State) : Bool :=
  if t.redFirst then t.flights.isEmpty && mayRetry t s else t.flights.all fun f => decide (t.cell < f.cell + w.limit t.rack)

/-- ACC.OPEN gave no slot: in breadth order the stream goes over to reduction-first order, with FALLBACK and, where the layer map asks for
it, EV_TILE_FALLBACK; in reduction-first order it will try again (R333 to R335). -/
def openFailed (p : PktId) (i : Nat) (w : Walk) (t : Stream) (s : State) : State :=
  if t.redFirst then modStream p i (fun t => { t with tried := some (s.now, ownDrains t s) }) s
  else
    let s := modStream p i (fun t => { t with redFirst := true }) (pktFlag 1 (some p) s)
    if bitAt 1 (byteAt 18 w.map) then raiseEvent 0x0702 t.rack (if t.home then 0 else 1) t.cell (some p) s else s

/-- What a stream opens next: the slots of one share of a cell, once the cell is coded, a partial buffer is free and its order admits it
(R316, R317, R324, R332). -/
def openNext (p : PktId) (i : Nat) (w : Walk) (t : Stream) (s : State) : State :=
  let js := w.sharesOn t.rack t.home
  let j := nthD 0 t.next js
  let q := w.replica j
  let coded := ((w.strips.find? fun v => decide (v.rack = t.rack) && decide (v.repl = q)).map (·.coded)).getD 0
  if (w.cells q).length ≤ t.cell then modStream p i (·.advance js.length) s
  else if coded ≤ t.cell / 16 || !orderAdmits w t s || (!t.home && !reached (w.consumed j) (t.cell + 1 - w.pb) s) then s
  else match cellSlots t.rack w.w5 s with
    | none => openFailed p i w t s
    | some ks =>
      let s := ks.foldl (fun s k => modSlot t.rack k (fun x => { x with st := 1, pkt := some p }) s) s
      modStream p i (fun t => { t.advance js.length with flights := t.flights ++ [⟨j, t.cell, ks, false, 0, false, 0⟩], tried := none }) s

/-- The objects that a stream returns to 0 at its end, each with its full count (R320). -/
def Walk.unwinds (w : Walk) (t : Stream) : List (Nat × Nat) :=
  (w.sharesOn t.rack t.home).flatMap fun j =>
    let c := (w.cells (w.replica j)).length
    if t.home then (w.producers j).map fun k => (w.ready k, w.slotsPer * c) else [(w.consumed j, c)]

/-- The end of a stream's walk: its objects return to 0, one after another (R320). -/
def unwind (p : PktId) (i : Nat) (w : Walk) (t : Stream) (s : State) : State :=
  match (w.unwinds t)[t.unwound]? with
  | none => modStream p i (fun t => { t with ended := true }) s
  | some (o, n) =>
    if reached o n s then modStream p i (fun t => { t with unwound := t.unwound + 1 }) (if n = 0 then s else walkSignal o (-(n : Int)) p s)
    else s

/-- The first of some actions that can be done. -/
def firstSome {α : Type} (f : α → Option State) : List α → Option State
  | [] => none
  | a :: l => match f a with
    | some s => some s
    | none => firstSome f l

/-- What a stream does in one round: in breadth order the oldest of its cells that can go on goes on, in reduction-first order the oldest alone;
else it opens its next cell, or ends (R323, R333, R334). -/
def streamStep (p : PktId) (s : State) (i : Nat) : State :=
  match (walkOf p s).bind fun w => (w.streams[i]?).map fun t => (w, t) with
  | none => s
  | some (w, t) =>
    let js := w.sharesOn t.rack t.home
    if (walkThread t.rack p s).isNone || t.ended then s
    else match firstSome (flightStep p i w t.home s) (if t.redFirst then t.flights.zipIdx.take 1 else t.flights.zipIdx) with
      | some s => s
      | none =>
        if js.all fun j => decide ((w.cells (w.replica j)).length ≤ t.cell) then (if t.flights.isEmpty then unwind p i w t s else s)
        else if t.flights.all (·.fed) then openNext p i w t s
        else s

/-! ### Rounds -/

/-- Whether a walker has nothing more to do on a rack. -/
def Walk.over (w : Walk) (r : Nat) : Bool :=
  (w.streams.all fun t => decide (t.rack ≠ r) || t.ended) && w.strips.all fun v => decide (v.rack ≠ r) || v.closed

/-- The threads of a walker end on every rack where it is over (R273, R320). -/
def endWalkers (p : PktId) (s : State) : State :=
  match walkOf p s with
  | none => s
  | some w =>
    let isOver := fun (k : Nat) (t : Thread) => decide (t.pkt = some p) && decide (t.st = .ready) && w.over (k / 64)
    emptyIbufs { s with threads := s.threads.mapV fun k t => if isOver k t then Thread.init else t }

/-- One round of a walker: every strip, then every stream, does the next thing it can (R315 to R334). -/
def walkRound (p : PktId) (s : State) : State :=
  match walkOf p s with
  | none => s
  | some w =>
    let s := (List.range w.strips.length).foldl (stripStep p) s
    endWalkers p ((List.range w.streams.length).foldl (streamStep p) s)

/-- Whether a packet of an opcode is a walker at work: accepted, its walk begun, not yet complete. -/
def walking (op : Nat) (p : PktId) (s : State) : Bool :=
  match findPkt p s with
  | some k => decide (k.work ≠ .none) && decide (k.work ≠ .done) && k.walk.isSome && !k.complete && decide (pktOp k.bytes = op)
  | none => false

end Sys2Proof.Machine
end

