-- ==== Sys2Proof/Machine/Operators.lean ====
section
/-! DEFINITION. The operator library: what each opcode's packet is checked for and what it sets to work (R313, R314, R366 to R372, R569).
The instructions of library kernels arrive as commands of their own, as those of custom kernels do (log entry 32). -/

namespace Sys2Proof.Machine

/-! ### Packets and rejections -/

/-- A packet's own engine work set. -/
def setWork (w : OpWork) (p : PktId) (s : State) : State := modPkt p (fun k => { k with work := w }) s

/-- A packet that issues no work and completes with a code (R371). -/
def rejectPkt (code : Nat) (p : PktId) (s : State) : State := setWork .done p (pktCode code (some p) s)

/-- An operator's effect on a started packet of its opcode whose operator has not run. -/
def opRow (op : Nat) (n : RingId) (i : Index) (f : PktId → List Byte → State → State) (s : State) : State :=
  match findPkt ⟨n, i⟩ s with
  | some k => if k.work = .none && !k.complete && decide (pktOp k.bytes = op) then f ⟨n, i⟩ k.bytes s else s
  | none => s

/-! ### Descriptors (R214, R216, R253, R367, R368, R371) -/

/-- A descriptor read: its bytes, or the completion code of an address that is misaligned or lies in no memory (CONFIG) or of a read
that failed (BUS). -/
def readDesc (a n : Nat) (p : PktId) (s : State) : Except Nat (List Byte) × State :=
  if decide (a % 32 ≠ 0) || !inMemory noRack a n s then (.error 3, s)
  else match devRead noRack a n (some p) s with
    | (.ok d, s) => (.ok d, s)
    | (r, s) => (.error 5, busOf r (some p) s)

/-- Whether a tensor descriptor violates Table 10.9; a dimension of 0 within RANK does (log entry 34). -/
def tensorBad (t : List Byte) : Bool :=
  let rank := byteAt 9 t
  decide (10 < tFormat t) || decide (rank = 0) || decide (4 < rank) || decide (leAt 10 2 t ≠ 0) || decide (tStride 1 t % 32 ≠ 0) ||
    decide (leAt 48 16 t ≠ 0) || (List.range 4).any fun k => if k < rank then decide (tDim k t = 0) else decide (tDim k t ≠ 1)

/-- Whether R216 rejects the padding descriptor of a tensor descriptor. -/
def padBad (t : List Byte) : Bool :=
  let f := tFormat t
  let kind := byteAt 44 t
  let v := leAt 40 4 t
  let exp := bits 30 23 v
  decide (3 < kind) || decide (leAt 45 3 t ≠ 0) ||
    (decide (kind = 1) && (decide (f = 5 ∨ f = 6) || (decide (f = 0) && decide (v % 256 = 0x80)) || (decide (f = 1) && decide (v % 16 = 8)))) ||
    (decide (kind = 2) && decide (exp = 255) && decide (f ≠ 5 ∧ f ≠ 6)) || (decide (kind = 3) && decide (f ≠ 10))

/-- A parameter block's chain entry k (R368). -/
def parChain (k : Nat) (b : List Byte) : Nat := leAt (48 + 4 * k) 4 b

/-- Whether the fused chain of a parameter block breaks R252 or R253. -/
def parChainBad (b : List Byte) : Bool :=
  let n := byteAt 80 b
  let es := (List.range n).map fun k => parChain k b
  decide (8 < n) || es.any (fun e => decide (bits 31 26 e = 0) || decide (8 < bits 31 26 e) || decide (bits 25 4 e ≠ 0)) ||
    (es.zipIdx.any fun e => decide (bits 31 26 e.1 = 8) && decide (e.2 + 1 ≠ n)) ||
    (es.any (fun e => decide (bits 31 26 e = 7)) && decide (leAt 88 8 b = 0)) || decide (1 < byteAt 81 b) || decide (leAt 82 2 b ≠ 0) ||
    decide (leAt 100 28 b ≠ 0)

/-- Whether the operator fields of a parameter block break Table 10.10. -/
def parFieldsBad (op : Nat) (b : List Byte) : Bool :=
  if op = 0x10 then decide (16 < byteAt 8 b) || decide (leAt 9 23 b ≠ 0)
  else if op = 0x11 ∨ op = 0x12 then decide (16 < byteAt 18 b) || decide (leAt 19 13 b ≠ 0)
  else if op = 0x15 then decide (leAt 0 8 b ≠ 0) || decide (16 < byteAt 18 b) || decide (2 < byteAt 19 b) || decide (leAt 20 12 b ≠ 0)
  else if op = 0x13 then decide (1 < byteAt 12 b) || decide (byteAt 13 b ≠ 0) || decide (leAt 18 14 b ≠ 0)
  else if op = 0x14 then decide (1 < byteAt 20 b) || decide (leAt 21 11 b ≠ 0)
  else if op = 0x16 then decide (1 < byteAt 4 b) || decide (leAt 5 27 b ≠ 0)
  else if op = 0x17 then decide (3 < byteAt 0 b) || decide (leAt 1 31 b ≠ 0)
  else if op = 0x18 then decide (leAt 4 28 b ≠ 0)
  else if op = 0x19 then decide (1 < byteAt 2 b) || decide (byteAt 3 b ≠ 0) || decide (leAt 12 20 b ≠ 0)
  else decide (byteAt 20 b = 0) || decide (24 < byteAt 20 b) || decide (leAt 21 11 b ≠ 0)

/-- Tensor descriptors read and checked; `pads` says whose padding descriptor an operator reads. With the descriptors, the completion
code of the first that is wrong, and whether it was a padding descriptor. -/
def readTensors (p : PktId) : List (Nat × Bool) → State → Except (Nat × Bool) (List (List Byte)) × State
  | [], s => (.ok [], s)
  | (a, pad) :: rest, s =>
    match readDesc a 64 p s with
    | (.ok t, s) =>
      if tensorBad t then (.error (3, false), s)
      else if pad && padBad t then (.error (3, true), s)
      else match readTensors p rest s with
        | (.ok ts, s) => (.ok (t :: ts), s)
        | e => e
    | (.error c, s) => (.error (c, false), s)

/-- A parameter block read: zeros where PARAM is 0. -/
def readParams (a : Nat) (p : PktId) (s : State) : Except Nat (List Byte) × State :=
  if a = 0 then (.ok (leBytes 128 0), s) else readDesc a 128 p s

/-- The tensor descriptors that a parameter block names: V of an ATTENTION, RES of a chain with RESADD. -/
def parTensors (op : Nat) (b : List Byte) : List (Nat × Bool) :=
  (if op = 0x13 then [(leAt 0 8 b, true)] else []) ++
    (if (List.range (byteAt 80 b)).any fun k => decide (bits 31 26 (parChain k b) = 7) then [(leAt 88 8 b, true)] else [])

/-- A packet rejected for its descriptors; a padding descriptor raises EV_QT_PAD (R216, R328, R371). -/
def rejectDesc (e : Nat × Bool) (p : PktId) (b : List Byte) (s : State) : State :=
  let s := if e.2 then raiseEvent 0x0506 ((opRacks b s).headD 0) 0 0 (some p) s else s
  rejectPkt e.1 p s

/-- A packet's descriptors all checked before any work: operand tensors, the parameter block and the tensors it names; then f goes on
with the operand tensors and the parameter block (R371). -/
def withDescs (op : Nat) (tensors : List (Nat × Bool)) (hasPar : Bool) (p : PktId) (b : List Byte)
    (f : List (List Byte) → List Byte → State → State) (s : State) : State :=
  match readTensors p tensors s with
  | (.error e, s) => rejectDesc e p b s
  | (.ok ts, s) =>
    match (if hasPar then readParams (leAt 56 8 b) p s else (.ok (leBytes 128 0), s)) with
    | (.error c, s) => rejectPkt c p s
    | (.ok par, s) =>
      if hasPar && decide (leAt 56 8 b ≠ 0) && (parFieldsBad op par || parChainBad par) then rejectPkt 3 p s
      else match readTensors p (if hasPar then parTensors op par else []) s with
        | (.error e, s) => rejectDesc e p b s
        | (.ok _, s) => f ts par s

/-- A library kernel's threads are to be placed on the racks of its packet (R369). -/
def placeKernel (p : PktId) (b : List Byte) (s : State) : State := setWork (.kernel (opRacks b s)) p s

/-! ### NOP and KERNEL -/

/-- NOP_PACKET: no work; a body that is not zero completes with CONFIG (R353, R366). -/
def execNopPacket (n : RingId) (i : Index) (s : State) : Host.Outcome State Fault Refusal :=
  .next (opRow 0 n i (fun p b s => if leAt 32 32 b = 0 then setWork .done p s else rejectPkt 3 p s) s)

/-- KERNEL: threads go on each rack of the range as soon as it has contexts enough (R369, R371). -/
def execKernel (n : RingId) (i : Index) (s : State) : Host.Outcome State Fault Refusal :=
  .next (opRow 1 n i (fun p b s => if kernelBad b then rejectPkt 3 p s else placeKernel p b s) s)

/-! ### MATMUL and CONV2D: the layer map (R308, R313, R314) -/

/-- Whether a reserved byte or bit of a layer map is not zero. -/
def mapReserved (m : List Byte) : Bool :=
  decide (1 < byteAt 8 m) || decide (1 < byteAt 9 m) || decide (3 < byteAt 18 m) || decide (leAt 19 5 m ≠ 0) || decide (leAt 34 30 m ≠ 0) ||
    (shares m).any fun e => decide (1 < byteAt 7 e) || decide (leAt 9 7 e ≠ 0)

/-- Whether the shares of one group break R314. -/
def reductionBad (kb : Nat) (es : List (List Byte)) : Bool :=
  let blocks := es.flatMap shareBlocks
  (List.range kb).any (fun k => decide (blocks.count k ≠ 1)) ||
    (match es.filter shareHome with
      | [h] => decide (byteAt 6 h ≠ 0)
      | _ => true) ||
    es.any fun e => decide (byteAt 8 e ≠ byteAt 8 (es.headD []))

/-- Whether a cask that a share names is not racked, or racked in another weight mode. -/
def shareCasksBad (w5 : Bool) (e : List Byte) (s : State) : Bool :=
  (maskBits 16 (leAt 2 2 e)).any fun c =>
    let k := 16 * byteAt 0 e + c
    !(getCask k s).racked || (rflag .CK_CONFIG k 0 0 s != w5)

/-- Whether R314 rejects a layer map. -/
def mapBad (m : List Byte) (s : State) : Bool :=
  let w5 := decide (byteAt 8 m = 1)
  let kb := byteAt 10 m
  let nb := leAt 12 2 m
  let es := shares m
  let groups := ((List.range (byteAt 11 m)).flatMap fun r => (List.range nb).map fun n => (r, n)) ++ es.map shareGroup
  let homes := es.filter shareHome
  mapReserved m || decide (kb ≠ kBlocks (leAt 0 4 m)) || decide (nb ≠ nBlocks (leAt 4 4 m) w5) || decide (62 < kb) ||
    es.any (fun e => shareCasksBad w5 e s) ||
    es.any (fun e => decide (kb < byteAt 6 e + popCount 16 (leAt 2 2 e))) ||
    groups.any (fun g => reductionBad kb (es.filter fun e => decide (shareGroup e = g))) ||
    es.any (fun e => decide ((if w5 then 30 else 31) < byteAt 8 e)) ||
    homes.any (fun h => decide (1 < (homes.filter fun x => decide (byteAt 0 x = byteAt 0 h ∧ byteAt 8 x = byteAt 8 h)).length)) ||
    decide (byteAt 17 m < byteAt 16 m + 1) || decide (leAt 24 8 m % 32 ≠ 0)

/-- A layer map rejected: EV_LAYER_MAP and a layer-map status (R314). -/
def rejectMap (a : Nat) (m : List Byte) (p : PktId) (s : State) : State :=
  rejectPkt 4 p (raiseEvent 0x0701 (byteAt 0 (shareAt m 0)) 0 a (some p) s)

/-- The walker of a MATMUL or CONV2D: descriptors and layer map are checked, then its threads go on every rack of the layer (R314,
R369, R371). -/
def runWalker (op : Nat) (p : PktId) (b : List Byte) (s : State) : State :=
  withDescs op [(leAt 32 8 b, true), (leAt 48 8 b, false)] true p b (fun ts par s =>
    let a := leAt 40 8 b
    match readDesc a 64 p s with
    | (.error c, s) => rejectPkt c p s
    | (.ok h, s) =>
      match readDesc a (64 + 16 * leAt 14 2 h) p s with
      | (.error c, s) => rejectPkt c p s
      | (.ok m, s) =>
        if mapBad m s then rejectMap a m p s
        else
          let res := (parTensors op par).getLast?.map (·.1)
          let tres := if (parTensors op par).isEmpty then [] else peekAny (res.getD 0) 64 s
          placeKernel p b (modPkt p (fun k => { k with
            walk := some (Walk.opened ⟨decide (op = 0x11), m, nthD [] 0 ts, nthD [] 1 ts, tres, par, [], []⟩) }) s)) s

/-- A walker's command: the first checks the packet and begins the walk, every later one is a round of it (R314 to R335, log entry 32). -/
def walkerRow (op : Nat) (n : RingId) (i : Index) (s : State) : State :=
  if walking op ⟨n, i⟩ s then walkRound ⟨n, i⟩ s else opRow op n i (runWalker op) s

/-- MATMUL (R314). -/
def execMatmul (n : RingId) (i : Index) (s : State) : Host.Outcome State Fault Refusal := .next (walkerRow 0x10 n i s)

/-- CONV2D, with halo exchange (R314, R325 to R327). -/
def execConv2d (n : RingId) (i : Index) (s : State) : Host.Outcome State Fault Refusal := .next (walkerRow 0x11 n i s)

/-! ### Vector-unit operators (R366 to R369, R371) -/

/-- An operator on the vector units: its descriptors are checked, then its kernel's threads are placed. in1: 0 no IN1, 1 IN1, 2 IN1
or 0. -/
def runVector (op in1 : Nat) (p : PktId) (b : List Byte) (s : State) : State :=
  let a1 := leAt 40 8 b
  if in1 = 0 && decide (a1 ≠ 0) then rejectPkt 3 p s
  else
    let ts := [(leAt 32 8 b, true)] ++ (if in1 = 1 || decide (a1 ≠ 0) then [(a1, true)] else []) ++ [(leAt 48 8 b, false)]
    withDescs op ts true p b (fun _ _ s => placeKernel p b s) s

/-- DWCONV (R366, R369). -/
def execDwconv (n : RingId) (i : Index) (s : State) : Host.Outcome State Fault Refusal := .next (opRow 0x12 n i (runVector 0x12 1) s)

/-- ATTENTION (R366, R369). -/
def execAttention (n : RingId) (i : Index) (s : State) : Host.Outcome State Fault Refusal := .next (opRow 0x13 n i (runVector 0x13 1) s)

/-- LAYERNORM (R366, R369). -/
def execLayernorm (n : RingId) (i : Index) (s : State) : Host.Outcome State Fault Refusal := .next (opRow 0x14 n i (runVector 0x14 0) s)

/-- POOL (R366, R369). -/
def execPool (n : RingId) (i : Index) (s : State) : Host.Outcome State Fault Refusal := .next (opRow 0x15 n i (runVector 0x15 0) s)

/-- RESIZE (R366, R369). -/
def execResize (n : RingId) (i : Index) (s : State) : Host.Outcome State Fault Refusal := .next (opRow 0x16 n i (runVector 0x16 0) s)

/-- ELTWISE (R366, R369). -/
def execEltwise (n : RingId) (i : Index) (s : State) : Host.Outcome State Fault Refusal := .next (opRow 0x17 n i (runVector 0x17 2) s)

/-- TOPK_NMS (R366, R369). -/
def execTopkNms (n : RingId) (i : Index) (s : State) : Host.Outcome State Fault Refusal := .next (opRow 0x19 n i (runVector 0x19 2) s)

/-- SENSOR_FUSE: IN0 is a front-end sample buffer, not a tensor (R366, R369). -/
def execSensorFuse (n : RingId) (i : Index) (s : State) : Host.Outcome State Fault Refusal :=
  .next (opRow 0x20 n i (fun p b s =>
    if decide (leAt 40 8 b ≠ 0) || decide (leAt 32 8 b % 32 ≠ 0) then rejectPkt 3 p s
    else withDescs 0x20 [(leAt 48 8 b, false)] true p b (fun _ _ s => placeKernel p b s) s) s)

/-! ### QUANTIZE (R569) -/

/-- Whether R569 rejects the formats or shapes of a QUANTIZE packet. -/
def quantizeBad (ctrl : Nat) (tin tout : List Byte) : Bool :=
  decide (tFormat tin ≠ 5 ∧ tFormat tin ≠ 6) || decide (tFormat tout ≠ (if qFormat ctrl = 6 then 10 else qFormat ctrl)) ||
    decide (byteAt 9 tin ≠ byteAt 9 tout) || (List.range 4).any fun k => decide (tDim k tin ≠ tDim k tout)

/-- The quantise job of a QUANTIZE packet (R569). -/
def quantizeJob (p : PktId) (b tin tout par : List Byte) (s : State) : QJob :=
  ⟨(opRacks b s).headD 0, (List.range (tDim 1 tin * tDim 2 tin * tDim 3 tin)).map (tokenAddr tin), decide (tFormat tin = 5), tDim 0 tin,
    tAddr tout, leAt 32 8 tout, leAt 84 4 par, BitVec.ofNat 32 (leAt 0 4 par), some p⟩

/-- QUANTIZE: IN0 is coded into OUT (R569). -/
def execQuantize (n : RingId) (i : Index) (s : State) : Host.Outcome State Fault Refusal :=
  .next (opRow 0x18 n i (fun p b s =>
    if leAt 40 8 b ≠ 0 then rejectPkt 3 p s
    else withDescs 0x18 [(leAt 32 8 b, true), (leAt 48 8 b, false)] true p b (fun ts par s =>
      let tin := nthD [] 0 ts
      let tout := nthD [] 1 ts
      if quantizeBad (leAt 84 4 par) tin tout then rejectPkt 3 p s
      else setWork .done p (runQuantise (quantizeJob p b tin tout par s) s).2) s) s)

/-! ### The cellarer's operators (R120, R151, R371) -/

/-- RACK_LOAD: the racking plan is handed to the cellarer (R120, R371). -/
def execRackLoad (n : RingId) (i : Index) (s : State) : Host.Outcome State Fault Refusal :=
  .next (opRow 0x30 n i (fun p b s =>
    let a := leAt 32 8 b
    let k := leAt 40 4 b
    if decide (a % 32 ≠ 0) || decide (k = 0) || decide (4096 < k) || decide (leAt 44 20 b ≠ 0) then rejectPkt 3 p s
    else setWork (.plan a k 0) p s) s)

/-- TOP_UP: topping is due for the casks named, and the packet completes when every one of those toppings has ended (R151, R371). -/
def execTopUp (n : RingId) (i : Index) (s : State) : Host.Outcome State Fault Refusal :=
  .next (opRow 0x31 n i (fun p b s =>
    let all := bitAt 0 (byteAt 42 b)
    let k := leAt 40 2 b
    let due := fun (cs : List Nat) (s : State) =>
      let s := cs.foldl (fun s c => dueTopping c s) s
      setWork (topUpWork (cs.filter fun c => (getCask c s).topDue || (getCask c s).topping)) p s
    if decide (1 < byteAt 42 b) || decide (leAt 43 21 b ≠ 0) then rejectPkt 3 p s
    else if all then due ((List.range 4096).filter fun c => (getCask c s).racked) s
    else if decide (k = 0) || decide (4096 < k) then rejectPkt 3 p s
    else match devRead noRack (leAt 32 8 b) (2 * k) (some p) s with
      | (.ok d, s) =>
        let cs := (List.range k).map fun j => leAt (2 * j) 2 d
        if cs.any fun c => decide (4095 < c) then rejectPkt 3 p s else due cs s
      | (r, s) => setWork .done p (busOf r (some p) s)) s)

/-! ### Pod operators (R366, R369) -/

/-- A pod operator: descriptors checked, then its kernel's threads are placed. root: byte 59 names a ROOT member. -/
def runPod (op : Nat) (root : Bool) (p : PktId) (b : List Byte) (s : State) : State :=
  if decide (leAt 40 8 b ≠ 0) || decide (1 < byteAt 58 b) || decide ((if root then 15 else 0) < byteAt 59 b) || decide (leAt 62 2 b ≠ 0) then
    rejectPkt 3 p s
  else withDescs op [(leAt 32 8 b, true), (leAt 48 8 b, false)] false p b (fun _ _ s => placeKernel p b s) s

/-- POD_ALLREDUCE (R366, R369). -/
def execPodAllreduce (n : RingId) (i : Index) (s : State) : Host.Outcome State Fault Refusal := .next (opRow 0x40 n i (runPod 0x40 false) s)

/-- POD_BROADCAST (R366, R369). -/
def execPodBroadcast (n : RingId) (i : Index) (s : State) : Host.Outcome State Fault Refusal := .next (opRow 0x41 n i (runPod 0x41 true) s)

/-- POD_ALLGATHER (R366, R369). -/
def execPodAllgather (n : RingId) (i : Index) (s : State) : Host.Outcome State Fault Refusal := .next (opRow 0x42 n i (runPod 0x42 false) s)

/-! ### Estate operators (R32 to R34, R372) -/

/-- Whether an estate packet's range, length or unnamed bytes break Table 10.8 or R371. -/
def estateBad (b : List Byte) (s : State) : Bool :=
  let len := leAt 40 4 b
  decide (len % 32 ≠ 0) || decide (2 ^ 20 < len) || decide (leAt 46 2 b ≠ 0) || decide (leAt 56 8 b ≠ 0) || !goodRange noRack (leAt 32 8 b) len s

/-- ESTATE_SEND: the message and its envelope go to OUTBOX, and the ring's VECTOR is raised (R372). -/
def execEstateSend (n : RingId) (i : Index) (s : State) : Host.Outcome State Fault Refusal :=
  .next (opRow 0x48 n i (fun p b s =>
    if estateBad b s then rejectPkt 3 p s
    else
      let len := leAt 40 4 b
      match devRead noRack (leAt 32 8 b) len (some p) s with
      | (.ok d, s) =>
        let id := 16 * rfield .BV_IDENT 0 0 15 4 s + rfield .BV_IDENT 0 0 3 0 s
        let num := s.nextOp % 2 ^ 32
        let s := sendUp (.estate (leAt 48 8 b) id (leAt 44 2 b) len num d) { s with nextOp := s.nextOp + 1 }
        setWork (.estateSend num) p (raiseVector (getRing n.val s).ctx.vector s)
      | (r, s) => setWork .done p (busOf r (some p) s)) s)

/-- ESTATE_RECV: waits for a message from SOURCE (R372). -/
def execEstateRecv (n : RingId) (i : Index) (s : State) : Host.Outcome State Fault Refusal :=
  .next (opRow 0x49 n i (fun p b s => if estateBad b s then rejectPkt 3 p s else setWork .estateRecv p s) s)

/-- Whether a packet is an estate send that waits for its answer. -/
def sendWaits (p : PktId) (s : State) : Bool :=
  match (findPkt p s).map Pkt.work with
  | some (.estateSend _) => true
  | _ => false

/-- ESTATE_ACK: the acknowledgement, or host software's word of failure, stands in the outbox (R372). -/
def execEstateAck (n : RingId) (i : Index) (ok : Bool) (s : State) : Host.Outcome State Fault Refusal :=
  let p : PktId := ⟨n, i⟩
  .next (if sendWaits p s && upstreamOk s then rejectPkt (if ok then 0 else 7) p s else s)

/-- ESTATE_INBOX_WRITE: a message from SOURCE, of at most LENGTH bytes, stands in the inbox: it goes to DST, and the completion writes the
acknowledgement (R372). -/
def execEstateInboxWrite (n : RingId) (i : Index) (source : BitVec 16) (data : List Byte) (s : State) :
    Host.Outcome State Fault Refusal :=
  let p : PktId := ⟨n, i⟩
  .next (match findPkt p s with
    | some k =>
      let b := k.bytes
      if decide (k.work = .estateRecv) && decide (source.toNat = leAt 44 2 b) && decide (data.length ≤ leAt 40 4 b) &&
          decide (data.length % 32 = 0) && upstreamOk s then
        setWork .done p (sendUp (.estateAck (leAt 48 8 b)) (devWrite noRack (leAt 32 8 b) data s))
      else s
    | none => s)

/-- ESTATE_TIMEOUT: no answer within RG_ESTATE_TMO milliseconds of the start (R372). -/
def execEstateTimeout (n : RingId) (i : Index) (s : State) : Host.Outcome State Fault Refusal :=
  let p : PktId := ⟨n, i⟩
  .next (match findPkt p s with
    | some k =>
      if sendWaits p s && decide (k.started + rfield .RG_ESTATE_TMO 0 0 19 0 s * 200000 ≤ s.now) then rejectPkt 6 p s else s
    | none => s)

end Sys2Proof.Machine
end

