-- ==== Sys2Proof/Machine/Memory.lean ====
section
/-! DEFINITION. Memory commands: COPY and its DMA engines, host accesses through BAR2 and BAR4, cache fills, scrubbing, seals, the trellis
links (R381 to R410). -/

namespace Sys2Proof.Machine

/-! ### COPY (R385, R386, R394 to R397, R405) -/

/-- DMA engine e of quadrant q, by number. -/
def dmaNo (q : Quad) (e : Fin 4) : Nat := 4 * q.val + e.val

/-- A DMA engine. -/
def getDma (k : Nat) (s : State) : Dma := Store.getD Dma.init k s.mem.dma

/-- The state with a DMA engine changed by f. -/
def modDma (k : Nat) (f : Dma → Dma) (s : State) : State :=
  { s with mem := { s.mem with dma := s.mem.dma.put k (f (getDma k s)) } }

/-- MODE bits of a COPY's body byte 56 (Table 10.8). -/
def Copy.srcHost (c : Copy) : Bool := bitAt 0 c.mode
/-- DST_HOST. -/
def Copy.dstHost (c : Copy) : Bool := bitAt 1 c.mode
/-- SEAL on write. -/
def Copy.seal' (c : Copy) : Bool := bitAt 2 c.mode
/-- CHECK seals on read. -/
def Copy.check (c : Copy) : Bool := bitAt 3 c.mode

/-- A device-side range that a COPY may use: whole sectors below U (R385, R386). -/
def copyRange (a n : Nat) (s : State) : Bool := decide (a % 32 = 0) && decide (a + n ≤ usable s)

/-- Whether a COPY is rejected at its start (R371, R385, R386, R394, R397). Seals exist in device DRAM only, so SEAL with a host
destination and CHECK with a host source are configuration errors (log entry 35). -/
def copyBad (b : List Byte) (c : Copy) (s : State) : Bool :=
  decide (c.len % 32 ≠ 0) || decide (15 < c.mode) || decide (leAt 57 7 b ≠ 0) || (!c.srcHost && !copyRange c.src c.len s) ||
    (!c.dstHost && !copyRange c.dst c.len s) ||
    (c.seal' && (!rflag .MC_CTRL 0 0 0 s || decide (c.dst % 4096 ≠ 0) || decide (c.len % 4096 ≠ 0) || c.dstHost)) ||
    (c.check && c.srcHost)

/-- Relaxed Ordering Enable of Device Control (R414). -/
def relaxed (s : State) : Bool := flagOf 4 s.px.devCtl

/-- The most non-posted requests that the device holds outstanding, by 10-bit Tag Requester Enable of Device Control 2 (R415). -/
def readLimit (s : State) : Nat := if flagOf 12 s.px.devCtl2 then 768 else 256

/-- The requests of a DMA engine that are host reads, and outstanding (R415). -/
def Dma.hostReads (d : Dma) : Nat :=
  match d.copy with
  | some c => if c.srcHost then d.out else 0
  | none => 0

/-- The host reads outstanding on the device. -/
def hostReads (s : State) : Nat := (s.mem.dma.map fun e => e.2.hostReads).sum

/-- How many requests a DMA engine can issue now for a COPY that has n left: one for each free token (R405), and host reads within the
limit of R415. -/
def copyTokens (c : Copy) (n : Nat) (d : Dma) (s : State) : Nat :=
  min n (min (64 - d.back - d.out) (if c.srcHost then readLimit s - hostReads s else n))

/-- Requests of a COPY issued, n of up to 128 bytes each from request number j on: reads of the host go upstream (R405). -/
def issueReads (c : Copy) (j n : Nat) (s : State) : State :=
  if c.srcHost then
    (List.range n).foldl (fun s k => sendUp (.read (c.src + 128 * (j + k)) (min 128 (c.len - 128 * (j + k)))) s) s
  else s

/-- A COPY's next requests issued, as many as can be: each takes a token (R405). -/
def issueCopy (k : Nat) (s : State) : State :=
  match (getDma k s).copy with
  | none => s
  | some c =>
    let n := copyTokens c c.todo (getDma k s) s
    issueReads c (ceilDiv c.len 128 - c.todo) n
      (modDma k (fun d => { d with copy := some { c with todo := c.todo - n }, out := d.out + n }) s)

/-- COPY: a free DMA engine takes the packet, unless it is rejected, and issues its first requests (R353, R394, R405, R410). -/
def execCopy (n : RingId) (i : Index) (q : Quad) (e : Fin 4) (s : State) : Host.Outcome State Fault Refusal :=
  .next (opRow 2 n i (fun p b s =>
    let len := leAt 48 8 b
    let c : Copy := ⟨p, leAt 32 8 b, leAt 40 8 b, len, byteAt 56 b, ceilDiv len 128, s.now⟩
    let k := dmaNo q e
    if copyBad b c s then rejectPkt 3 p s
    else if !dmaTakes k p s then s
    else issueCopy k (modDma k (fun d => { d with copy := some c, out := 0 }) (setWork .engine p s))) s)

/-- A source block of a COPY with CHECK that holds no valid seal: handled as a failed seal, UNSEALED (R396, R397). -/
def unsealedBlock (blk : Nat) (p : PktId) (s : State) : State :=
  let s := { s with mem := poisonBlock blk s.mem }
  let s := bump .MC_SEAL_FAILS 0 0 1 (bump .MC_POISONS 0 0 128 s)
  raiseEvent 0x0902 0 1 (4096 * blk) (some p) s

/-- The sectors of a device-side source read one after another, up to the first that fails; with CHECK, each block's seal must stand
when its first sector is read (R396, R397, Table 11.3). -/
def copyRead (check : Bool) (p : PktId) : Nat → Nat → Bool → State → List Byte × Option Rd × State
  | _, 0, _, s => ([], none, s)
  | sec, n + 1, first, s =>
    if check && (first || decide (sec % 128 = 0)) && (s.mem.seals.find (sec / 128)).isNone then
      ([], some .badSeal, unsealedBlock (sec / 128) p s)
    else match readSector sec (some p) s with
      | (.ok d, s1) =>
        let rest := copyRead check p (sec + 1) n false s1
        (d ++ rest.1, rest.2.1, rest.2.2)
      | (r, s1) => ([], some r, s1)

/-- A block written by a COPY with SEAL: to DRAM with its parity, any cached copy invalidated, then its seal valid (R394). -/
def sealBlock (blk : Nat) (data : List Byte) (s : State) : State :=
  let put := fun (m : Mem) (k : Nat) =>
    let d := (data.drop (32 * k)).take 32
    dramPut (128 * blk + k) d (parityOf d) { m with csec := m.csec.drop (128 * blk + k) }
  let m := (List.range 128).foldl put s.mem
  { s with mem := { m with
      seals := m.seals.put blk (crc32c data)
      failed := Store.clear (128 * blk) (128 * blk + 128) m.failed } }

/-- What a COPY has read, written to its destination: to the host, sealed block by block, or as whole sectors. -/
def copyWrite (c : Copy) (data : List Byte) (s : State) : State :=
  if data.isEmpty then s
  else if c.dstHost then sendUp (.dmaWrite c.dst data (relaxed s)) s
  else if c.seal' then
    let full := data.length / 4096
    let s := (List.range full).foldl (fun s k => sealBlock (c.dst / 4096 + k) ((data.drop (4096 * k)).take 4096) s) s
    writeDram (c.dst + 4096 * full) (data.drop (4096 * full)) s
  else writeDram c.dst data s

/-- A DMA engine free of its COPY; its tokens are on their way back (R405). -/
def endCopy (k : Nat) (s : State) : State := modDma k (fun d => ⟨none, 0, d.back + d.out⟩) s

/-- Whether every request of a COPY has been issued and has had its completion (R405). -/
def requestsOver (c : Copy) (k : Nat) (s : State) : Bool := decide (c.todo = 0) && decide ((getDma k s).out = 0)

/-- A COPY at its end: what was read is written, and the packet's engine work is done. -/
def finishCopy (k : Nat) (c : Copy) (data : List Byte) (bad : Option Rd) (s : State) : State :=
  let p := some c.pkt
  let s := copyWrite c data s
  let s := match bad with
    | some r => busOf r p s
    | none => s
  ringProgress p (setWork .done c.pkt (endCopy k s))

/-- Data whose parity fails between the PCIe core and a DMA engine, or on a path of BAR2 or BAR4: counted, recorded and raised as an error of a
buffer of the quadrant, with the device address it was read from or goes to (R390, R403, log entry 121). -/
def pathError (q : Quad) (a : Nat) (p : Option PktId) (s : State) : State := parityError 5 q.val (a / 32 * 32) p s

/-- COPY_COMPLETE: the data moves; a failing sector, or a failed completion of a host read, ends the copy with BUS after the sectors
before it (R390, R396, R420, Table 11.3). hostData: the host's bytes, or, of a copy to the host whose parity fails in the PCIe core, as many as passed
it; fault: what failed after them (R403). Every request has been issued under a token and has had its completion (R405, R415). -/
def execCopyComplete (q : Quad) (e : Fin 4) (hostData : List Byte) (fault : CopyFault) (s : State) : Host.Outcome State Fault Refusal :=
  let k := dmaNo q e
  .next (match (getDma k s).copy with
    | none => s
    | some c =>
      if ((c.srcHost || c.dstHost) && !upstreamOk s) || !requestsOver c k s then s
      else if c.srcHost then
        let n := hostData.length / 32 * 32
        if fault = .none then (if hostData.length = c.len then finishCopy k c hostData none s else s)
        else if hostData.length < c.len then
          finishCopy k c (hostData.take n) (some .bus) (if fault = .parity then pathError q (c.src + n) (some c.pkt) s else s)
        else s
      else
        let r := copyRead c.check c.pkt (c.src / 32) (c.len / 32) true s
        let n := hostData.length / 32 * 32
        if c.dstHost && decide (fault = .parity) && decide (n < r.1.length) then
          finishCopy k c (r.1.take n) (some .bus) (pathError q (c.src + n) (some c.pkt) r.2.2)
        else finishCopy k c r.1 r.2.1 r.2.2)

/-- A request of a running COPY has its completion, its token on the way back; the time of the oldest request starts again (R405). -/
def Dma.completed (now : Nat) (d : Dma) : Dma :=
  match d.copy with
  | some c => if 0 < d.out then { d with copy := some { c with since := now }, out := d.out - 1, back := d.back + 1 } else d
  | none => d

/-- The completion of a request of a COPY, a progress event of its ring (R405, R504). -/
def requestDone (k : Nat) (s : State) : State :=
  ringProgress ((getDma k s).copy.map (·.pkt)) (modDma k (Dma.completed s.now) s)

/-- DMA_TOKEN_RETURN: a token in return is free again, and the engine issues the next request of its COPY. With none in return, a request
of the COPY has its completion first (R405); with none outstanding, the engine issues what the limit of R415 held back. -/
def execDmaTokenReturn (q : Quad) (e : Fin 4) (s : State) : Host.Outcome State Fault Refusal :=
  let k := dmaNo q e
  let s1 := if (getDma k s).back = 0 then requestDone k s else s
  .next (issueCopy k (modDma k (fun d => { d with back := d.back - 1 }) s1))

/-! ### Host accesses (R234, R385, R386, R409, R417) -/

/-- Whether BAR2 answers: the wipe is complete (R409), and the function is in D0 (R422). -/
def barOpen (s : State) : Bool := s.pm.wiped && !s.px.d3

/-- Whether BAR4 answers: as BAR2, and the DRAM controller is on (R533). -/
def bar4Open (s : State) : Bool := barOpen s && !domainIsOff 72 s

/-- A host write narrower than a sector is discarded, logged, counted and reported (Table 11.2). bar: 0 BAR2, 1 BAR4. -/
def subSector (bar off : Nat) (s : State) : State := raiseEvent 0x0903 0 bar off none (bump .MC_SUBSECTOR 0 0 1 (aerLog 15 (tlpHeader bar off s) s))

/-- The data of a read's completions: cut at every 64-byte boundary of the offsets that were read, from offset off on (R415). -/
def cutAt64 : Nat → Nat → List Byte → List (List Byte)
  | 0, _, _ => []
  | n + 1, off, d => if d.isEmpty then [] else d.take (64 - off % 64) :: cutAt64 n (off + (64 - off % 64)) (d.drop (64 - off % 64))

/-- The completions of a host read (R415). -/
def completeRead (off : Nat) (d : List Byte) (s : State) : State :=
  (cutAt64 (d.length / 64 + 2) off d).foldl (fun s b => respond (.readData b) s) s

/-- Whether a write TLP covers whole aligned sectors. -/
def wholeSectors (off : Nat) (data : List Byte) (fullBE : Bool) : Bool :=
  decide (off % 32 = 0) && decide (data.length % 32 = 0) && fullBE

/-- HOST_BAR4_READ: DRAM through the shared cache; at or above U, or after a failed read, a completer abort (R385, R390, R409). A function
in D3hot answers nothing (R422). parity: the data fails its parity on the way to the host (Table 11.5). -/
def execHostBar4Read (off len : Nat) (parity : Bool) (s : State) : Host.Outcome State Fault Refusal :=
  .next (if s.px.d3 then s
    else if !bar4Open s || decide (2 ^ s.px.bar4Log2 < off + len) then respond .abort s
    else if usable s < off + len then respond .abort (raiseEvent 0x0904 0 0 off none s)
    else match readDram off len none s with
      | (.ok d, s) => if parity then respond .abort (pathError 0 off none s) else completeRead off d s
      | (_, s) => respond .abort s)

/-- HOST_BAR4_WRITE: whole sectors into DRAM; narrower writes and writes at or above U are discarded with their events (R385, R386,
R409). parity: the data fails its parity on the way from the PCIe core, and is discarded (R403, log entry 121). -/
def execHostBar4Write (off : Nat) (data : List Byte) (fullBE parity : Bool) (s : State) : Host.Outcome State Fault Refusal :=
  .next (if !bar4Open s || decide (2 ^ s.px.bar4Log2 < off + data.length) then s
    else if !wholeSectors off data fullBE then subSector 1 off s
    else if usable s < off + data.length then raiseEvent 0x0904 0 0 off none (aerLog 15 (tlpHeader 1 off s) s)
    else if parity then pathError 0 off none s
    else writeDram off data s)

/-- HOST_BAR2_READ: a rack's scratchpad; a failed read is a completer abort (R234, R389, R390). A function in D3hot answers nothing
(R422). parity: an upset has made the parity of the first sector fail. -/
def execHostBar2Read (off len : Nat) (parity : Bool) (s : State) : Host.Outcome State Fault Refusal :=
  let r := off / 0x80000
  .next (if s.px.d3 then s
    else if !barOpen s || decide (2 ^ 27 < off + len) || domainIsOff (rackDomain r) s then respond .abort s
    else match spFetch r (off % 0x80000) len none (if parity then strikeSector noRack (0x1000000000 + off) s else s) with
      | (.ok d, s) => completeRead off d s
      | (_, s) => respond .abort s)

/-- HOST_BAR2_WRITE: whole sectors into a rack's scratchpad (R234, R386). parity: as for BAR4 (R403, log entry 121). -/
def execHostBar2Write (off : Nat) (data : List Byte) (fullBE parity : Bool) (s : State) : Host.Outcome State Fault Refusal :=
  let r := off / 0x80000
  .next (if !barOpen s || decide (2 ^ 27 < off + data.length) || domainIsOff (rackDomain r) s then s
    else if !wholeSectors off data fullBE then subSector 0 off s
    else if parity then pathError 0 off none s
    else spWrite r (off % 0x80000) data s)

/-! ### The shared cache (R381, R388) -/

/-- Whether a read of a sector from DRAM meets no error: its link, its block's seal, its parity (R381, R388, R396). -/
def fillGood (sec : Nat) (m : Mem) : Bool :=
  !m.failed.has sec && decide (dramPar sec m = parityOf (dramData sec m)) &&
    match m.seals.find (sec / 128) with
    | none => true
    | some crc => (lostSector (sec / 128) m).isNone && decide (crc32c (blockData (sec / 128) m) = crc)

/-- CACHE_FILL: DRAM data for a sector that is not cached returns, is checked, and is installed with the rest of its line where it passes
(R381, R387, R388, R396). An error is its requester's: the read whose miss the fill serves, or the next one that reads the sector from DRAM,
meets it and reports it (R390, log entry 121). -/
def execCacheFill (sector : Nat) (link : LinkResult) (s : State) : Host.Outcome State Fault Refusal :=
  .next (if (s.mem.csec.find sector).isSome || decide (usable s < 32 * sector + 32) then s
    else if link = .failed then { s with mem := { s.mem with failed := s.mem.failed.add sector } }
    else
      let s := countLink link s
      if fillGood sector s.mem then (missSector sector none s).2 else s)

/-! ### Scrubbing (R399 to R402) -/

/-- BASE and LEN of the scrub range. -/
def scrubBase (s : State) : Nat := rpair .MC_SCRUB_BASE_LO .MC_SCRUB_BASE_HI 0 s
/-- LEN of the scrub range. -/
def scrubLen (s : State) : Nat := rpair .MC_SCRUB_LEN_LO .MC_SCRUB_LEN_HI 0 s

/-- A pass starts: the summary is cleared (R399, R400). -/
def scrubStart (s : State) : State :=
  let b := scrubBase s
  let n := scrubLen s
  if scrubBusy s then writeBusy (regOff .MC_SCRUB_CTRL 0 0) s
  else if b % 32 ≠ 0 ∨ n % 32 ≠ 0 ∨ n < 32 ∨ usable s < b + n then rejectWrite .MC_SCRUB_CTRL 0 0 s
  else
    let s := rset .MC_SCRUB_TIME 0 0 0 (rset .MC_SCRUB_ERRORS 0 0 0 s)
    let s := rset64 .MC_SCRUB_LAST 0 0 (2 ^ 64 - 1) (rset64 .MC_SCRUB_FIRST 0 0 (2 ^ 64 - 1) s)
    { s with mem := { s.mem with scrub := some ⟨b, b + n, s.now⟩ } }

/-- A pass ends: TIME in microseconds, rounded up, and EV_SCRUB_DONE (R401, R402). -/
def scrubEnd (aborted : Bool) (s : State) : State :=
  match s.mem.scrub with
  | none => s
  | some p =>
    let s := rset .MC_SCRUB_TIME 0 0 (BitVec.ofNat 32 (ceilDiv (s.now - p.since) 200)) { s with mem := { s.mem with scrub := none } }
    raiseEvent 0x0905 0 aborted.toNat (rget .MC_SCRUB_ERRORS 0 0 s).toNat none s

/-- A write to MC_SCRUB_CTRL: RATE, then GO or ABORT (R399, R402, R564). -/
def scrubCtrl (v : Word) (s : State) : State :=
  if !rangeOk .MC_SCRUB_CTRL v then rejectWrite .MC_SCRUB_CTRL 0 0 s
  else
    let s := rput .MC_SCRUB_CTRL 0 0 5 0 (fieldOf 5 0 v) s
    let s := if flagOf 31 v then scrubStart s else s
    if flagOf 30 v then scrubEnd true s else s

/-- SCRUB_GO (R399). -/
def execScrubGo (v : Word) (s : State) : Host.Outcome State Fault Refusal :=
  .next (hostWrite .MC_SCRUB_CTRL 0 0 (fun s => scrubCtrl (setFlag 31 true v) s) s)

/-- SCRUB_ABORT: ABORT is written, with RATE as it stands (R402). -/
def execScrubAbort (s : State) : Host.Outcome State Fault Refusal := .next (hostWrite .MC_SCRUB_CTRL 0 0 (scrubEnd true) s)

/-- Whether the stored copy of a sector passes its check: the cached copy where there is one, otherwise what DRAM and its link deliver (R381,
R400). -/
def sectorGood (sec : Nat) (link : LinkResult) (m : Mem) : Bool :=
  match m.csec.find sec with
  | some c => decide (c.par = parityOf c.data)
  | none => decide (link ≠ .failed) && !m.failed.has sec && decide (dramPar sec m = parityOf (dramData sec m))

/-- SCRUB_SECTOR: the next sector of the pass is read and checked; a failing one is counted, and loses the cask's shadow it lies in; the last one
ends the pass (R136, R400, R401). link: what the link returns where the sector is read from DRAM (R381). -/
def execScrubSector (link : LinkResult) (s : State) : Host.Outcome State Fault Refusal :=
  .next (match s.mem.scrub with
    | none => s
    | some p =>
      let sec := p.next / 32
      let good := sectorGood sec link s.mem
      let s := if (s.mem.csec.find sec).isSome then s
        else countLink link { s with mem := { s.mem with failed := s.mem.failed.drop sec } }
      let s := if good then s
        else
          let s := rset64 .MC_SCRUB_LAST 0 0 p.next (bump .MC_SCRUB_ERRORS 0 0 1 (shadowHit p.next none s))
          if rget64 .MC_SCRUB_FIRST 0 0 s = 2 ^ 64 - 1 then rset64 .MC_SCRUB_FIRST 0 0 p.next s else s
      let s := { s with mem := { s.mem with scrub := some { p with next := p.next + 32 } } }
      if p.stop ≤ p.next + 32 then scrubEnd false s else s)

/-! ### MC_CTRL (R398, R410) -/

/-- A write to MC_CTRL: a write that sets SEAL_EN to 0 clears every seal (R398). -/
def mcCtrl (v : Word) (s : State) : State :=
  let ok := writeOk .MC_CTRL 0 0 v s
  if goingOff 72 s && !flagOf 8 v then writeBusy (regOff .MC_CTRL 0 0) s
  else
  let s := storeWrite .MC_CTRL 0 0 v s
  if ok && !flagOf 0 v then { s with mem := { s.mem with seals := [] } } else s

/-- SEAL_DISABLE (R398). -/
def execSealDisable (s : State) : Host.Outcome State Fault Refusal :=
  .next (hostWrite .MC_CTRL 0 0 (fun s => mcCtrl (setFlag 0 false (rget .MC_CTRL 0 0 s)) s) s)

/-- DMA_QUIESCE (R410). -/
def execDmaQuiesce (s : State) : Host.Outcome State Fault Refusal :=
  .next (hostWrite .MC_CTRL 0 0 (fun s => mcCtrl (setFlag 8 true (rget .MC_CTRL 0 0 s)) s) s)

/-! ### Trellis links (R406) -/

/-- A link direction. -/
def getLink (k : Nat) (s : State) : TLink := Store.getD TLink.init k s.mem.tlink

/-- The state with a link direction changed by f. -/
def modLink (k : Nat) (f : TLink → TLink) (s : State) : State :=
  { s with mem := { s.mem with tlink := s.mem.tlink.put k (f (getLink k s)) } }

/-- A flit as it is sent: from the replay buffer where one of its flits has not been received, otherwise a new one, which takes a credit and a
place in the replay buffer (R406). -/
def TLink.send (flit : List Byte) (l : TLink) : TLink := if l.got < l.sent.length then l else { l with sent := l.sent ++ [flit] }

/-- Whether a link direction can send: it is up, and a flit is to be replayed or one of the 8 credits is left (R406). -/
def TLink.maySend (l : TLink) : Bool := !l.down && (decide (l.got < l.sent.length) || decide (l.sent.length < 8))

/-- TRELLIS_FLIT_RECEIVE: a flit is sent and arrives: it takes a slot of the receiving buffer, or, where it fails its CRC, is discarded, and the
sender replays from it; the sixteenth failure in a row takes the link down, and every flit that needs it is discarded (R28, R406). -/
def execTrellisFlitReceive (r : Rack) (dir : Fin 4) (flit : List Byte) (crcOk : Bool) (s : State) : Host.Outcome State Fault Refusal :=
  let k := 4 * r.val + dir.val
  let l := getLink k s
  .next (if !l.maySend then s
    else if crcOk then modLink k (fun l => let l := l.send flit; { l with got := l.got + 1, fails := 0 }) s
    else if l.fails + 1 < 16 then
      bump .MC_TRELLIS_RETRIES 0 0 1 (modLink k (fun l => let l := l.send flit; { l with fails := l.fails + 1 }) s)
    else raiseEvent 0x0906 r.val dir.val (l.fails + 1) none (modLink k (fun l => ⟨[], 0, l.fails + 1, true⟩) s))

/-- A link direction whose oldest flit has left the receiving buffer, its credit back at the sender (R406). -/
def TLink.returned (l : TLink) : TLink := if 0 < l.got then { l with sent := l.sent.tail, got := l.got - 1 } else l

/-- TRELLIS_CREDIT_RETURN: the oldest received flit is accepted, and its credit comes back; a link that is down checks none (R406). -/
def execTrellisCreditReturn (r : Rack) (dir : Fin 4) (s : State) : Host.Outcome State Fault Refusal :=
  let k := 4 * r.val + dir.val
  .next (if (getLink k s).down then s else modLink k TLink.returned s)

end Sys2Proof.Machine
end

