-- ==== Sys2Proof/Machine/Links.lean ====
section
/-! DEFINITION. The host link and the Burivo links: configuration requests, power states, MSI-X, faulty TLPs, ports, pod members and
their messages (R417 to R440). The resets that the host link causes stand with the other resets. -/

namespace Sys2Proof.Machine

/-! ### Requests that waited (R419, R421, R422) -/

/-- One waiting request issued. -/
def issueUp (m : HostMsg) (s : State) : State :=
  match m with
  | .event cls rec' =>
    let r := deliverEvent cls rec' s
    poisonEvents r.2 r.1
  | m => respond m s

/-- The waiting requests issued in their original order, once requests may be issued (R421, R422). -/
def flushUp (s : State) : State :=
  if upstreamOk s then s.px.upstream.foldl (fun s m => issueUp m s) { s with px := { s.px with upstream := [] } } else s

/-- The messages of pending vectors that may be sent now (R379, R419). -/
def sendPending (s : State) : State :=
  (s.px.pba.map (·.1)).foldl (fun s v =>
    if vectorOpen v s then sendUp (vectorMsg v s) { s with px := { s.px with pba := Store.drop v s.px.pba } } else s) s

/-- BUS_MASTER_DISABLE: upstream requests wait from now on (R421). -/
def execBusMasterDisable (s : State) : Host.Outcome State Fault Refusal := .next { s with px := { s.px with bme := false } }

/-- BUS_MASTER_ENABLE: the waiting requests are issued (R421). -/
def execBusMasterEnable (s : State) : Host.Outcome State Fault Refusal := .next (flushUp { s with px := { s.px with bme := true } })

/-- D3HOT_ENTRY: only configuration requests are answered (R422). -/
def execD3hotEntry (s : State) : Host.Outcome State Fault Refusal := .next { s with px := { s.px with d3 := true } }

/-- D0_RETURN: no state is lost, and the waiting requests are issued (R422). -/
def execD0Return (s : State) : Host.Outcome State Fault Refusal := .next (flushUp { s with px := { s.px with d3 := false } })

/-- Word w of MSI-X table entry v written; an unmasked pending vector sends its message (R379, R419). -/
def msixWrite (v w : Nat) (x : Word) (s : State) : State :=
  sendPending { s with px := { s.px with msix := s.px.msix.put (4 * v + w) x } }

/-- MSIX_UNMASK: the mask bit of a vector is cleared (R419). -/
def execMsixUnmask (v : Fin 2048) (s : State) : Host.Outcome State Fault Refusal :=
  .next (if s.px.d3 then s else msixWrite v.val 3 (setFlag 0 false (msixWord v.val 3 s)) s)

/-! ### Configuration requests (R412, R413, R417, R424) -/

/-- The capabilities of Table 12.2 that the function has, in the order of the two lists they stand in: power management, PCI Express,
MSI-X; Advanced Error Reporting, Device Serial Number, Resizable BAR. The order is the model's (log entry 123). -/
inductive Capa where
  | pm
  | express
  | msix
  | aer
  | serial
  | rebar
  deriving DecidableEq, Repr

/-- The offset of a capability: no rule gives it, but that the first extended one stands at 0x100. Each has a range of offsets of its own, in
which it stands whole (log entry 123). -/
def Capa.at' (c : Capa) : Nat :=
  match c with
  | .pm => 0x40 + 4 * (Config.capAt 0 % 3)
  | .msix => 0x50 + 4 * (Config.capAt 1 % 6)
  | .express => 0x70 + 4 * (Config.capAt 2 % 22)
  | .aer => 0x100
  | .serial => 0x200 + 4 * (Config.capAt 3 % 62)
  | .rebar => 0x300 + 4 * (Config.capAt 4 % 830)

/-- The words of configuration space that the model gives a meaning, by their place (R412, R413, R416): the fields and numbers are those of
the PCI Express specification that R412 names (log entry 123). -/
inductive CfgReg where
  | ids | command | classRev | header | bar (k : Fin 6) | subsystem | capPtr
  | pmCap | pmCsr | expCap | devCap | devCtl | linkCap | linkCtl | devCap2 | devCtl2
  | msixCtl | msixTable | msixPba
  | aerCap | aerStatus | aerControl | aerHeader (k : Fin 4) | serialCap | serialWord (k : Fin 2) | rebarCap | rebarSizes | rebarCtl
  | other
  deriving DecidableEq, Repr

/-- Which word an offset holds. -/
def cfgReg (off : Nat) : CfgReg :=
  if off = 0x00 then .ids
  else if off = 0x04 then .command
  else if off = 0x08 then .classRev
  else if off = 0x0C then .header
  else if h : 0x10 ≤ off ∧ off < 0x28 then .bar ⟨(off - 0x10) / 4, by omega⟩
  else if off = 0x2C then .subsystem
  else if off = 0x34 then .capPtr
  else if off = Capa.pm.at' then .pmCap
  else if off = Capa.pm.at' + 4 then .pmCsr
  else if off = Capa.express.at' then .expCap
  else if off = Capa.express.at' + 0x04 then .devCap
  else if off = Capa.express.at' + 0x08 then .devCtl
  else if off = Capa.express.at' + 0x0C then .linkCap
  else if off = Capa.express.at' + 0x10 then .linkCtl
  else if off = Capa.express.at' + 0x24 then .devCap2
  else if off = Capa.express.at' + 0x28 then .devCtl2
  else if off = Capa.msix.at' then .msixCtl
  else if off = Capa.msix.at' + 4 then .msixTable
  else if off = Capa.msix.at' + 8 then .msixPba
  else if off = Capa.aer.at' then .aerCap
  else if off = Capa.aer.at' + 4 then .aerStatus
  else if off = Capa.aer.at' + 0x18 then .aerControl
  else if h : Capa.aer.at' + 0x1C ≤ off ∧ off < Capa.aer.at' + 0x2C then .aerHeader ⟨(off - (Capa.aer.at' + 0x1C)) / 4, by omega⟩
  else if off = Capa.serial.at' then .serialCap
  else if off = Capa.serial.at' + 4 then .serialWord 0
  else if off = Capa.serial.at' + 8 then .serialWord 1
  else if off = Capa.rebar.at' then .rebarCap
  else if off = Capa.rebar.at' + 4 then .rebarSizes
  else if off = Capa.rebar.at' + 8 then .rebarCtl
  else .other

/-- The size of a BAR as a power of two, by its first register (Table 12.3, R417). -/
def barLog2 (k : Nat) (s : State) : Nat := if k = 0 then 26 else if k = 2 then 27 else s.px.bar4Log2

/-- The word of a BAR register that holds what was written: 64-bit, BAR4 prefetchable; the bits below its size read 0 (Table 12.3). -/
def barWord (k : Nat) (w : Word) (s : State) : Word :=
  let l := barLog2 (k / 2 * 2) s
  if k % 2 = 0 then BitVec.ofNat 32 (w.toNat / 2 ^ min l 32 * 2 ^ min l 32 + (if k = 4 then 0xC else 0x4))
  else BitVec.ofNat 32 (w.toNat / 2 ^ (l - 32) * 2 ^ (l - 32))

/-- The header of an extended capability: its number, version and the next one's offset. -/
def extHeader (id ver next : Nat) : Word := fieldsWord [(20, next), (16, ver), (0, id)]

/-- A word of configuration space (R412, R413, R416, R417): what the spec gives, what was written, or the PCI Express specification's or the
board's own (log entries 11, 123). -/
def cfgGet (off : Nat) (s : State) : Word :=
  let own := Config.cfgWord off
  let w := (s.px.cfg.find off).getD own
  match cfgReg off with
  | .ids => 0x40961FB7#32
  | .command => setFlag 20 true (setFlag 1 s.px.mse (setFlag 2 s.px.bme w))
  | .classRev => BitVec.ofNat 32 (0x12000000 + s.pm.stepping % 256)
  | .header => setField 31 16 0 w
  | .bar k => barWord k.val ((s.px.cfg.find off).getD 0) s
  | .subsystem => s.px.subsys.getD 0x00001FB7#32
  | .capPtr => BitVec.ofNat 32 Capa.pm.at'
  | .pmCap => setField 26 25 0 (setField 15 8 Capa.express.at' (setField 7 0 0x01 own))
  | .pmCsr => setFlag 3 true (setField 1 0 (if s.px.d3 then 3 else 0) w)
  | .expCap => setField 23 16 0x02 (setField 15 8 Capa.msix.at' (setField 7 0 0x10 own))
  | .devCap => setFlag 28 true (setFlag 5 true (setField 2 0 2 own))
  | .devCtl => setField 15 0 s.px.devCtl.toNat w
  | .linkCap => setField 17 15 (fieldOf 16 15 own) (setField 11 10 2 (setField 9 4 8 (setField 3 0 5 own)))
  | .linkCtl => setField 25 20 s.px.width (setField 19 16 s.px.speed (setField 15 0 s.px.linkCtl.toNat own))
  | .devCap2 => setFlag 17 true (setFlag 16 true (setField 13 12 0 (setFlag 11 false own)))
  | .devCtl2 => setField 15 0 s.px.devCtl2.toNat w
  | .msixCtl => setFlag 31 s.px.msixEn (setFlag 30 s.px.fnMask (setField 26 16 2047 (setField 15 8 0 (setField 7 0 0x11 own))))
  | .msixTable => 0x00008000#32
  | .msixPba => 0x00010000#32
  | .aerCap => extHeader 0x0001 2 Capa.serial.at'
  | .aerStatus => s.px.aer
  | .aerControl => setFlag 7 true (setFlag 5 true (setField 4 0 s.px.aerFirst w))
  | .aerHeader k => BitVec.ofNat 32 (s.px.aerHdr.toNat / 2 ^ (32 * (3 - k.val)))
  | .serialCap => extHeader 0x0003 1 Capa.rebar.at'
  | .serialWord k => BitVec.ofNat 32 (leAt (4 * k.val) 4 (padTo 8 s.pm.dsn))
  | .rebarCap => extHeader 0x0015 1 0
  | .rebarSizes => setField 31 4 (0x7F * 2 ^ 10) own
  | .rebarCtl => setField 13 8 (s.px.bar4Log2 - 20) (setField 7 5 1 (setField 2 0 4 own))
  | .other => w

/-- BAR4 given one of the sizes it offers, by log2 of the size in GiB (R417). -/
def resizeBar4 (log2GiB : Nat) (s : State) : State :=
  if log2GiB ≤ 6 then { s with px := { s.px with bar4Log2 := 30 + log2GiB } } else s

/-- A word of configuration space written: the fields that the device acts on take effect, error status clears where ones are written,
what is read-only stays (R412 to R422). -/
def cfgPut (off : Nat) (v : Word) (s : State) : State :=
  let kept := { s with px := { s.px with cfg := s.px.cfg.put off v } }
  match cfgReg off with
  | .command => flushUp { kept with px := { kept.px with mse := flagOf 1 v, bme := flagOf 2 v } }
  | .header => kept
  | .bar _ => kept
  | .pmCsr =>
    if fieldOf 1 0 v = 3 then { kept with px := { kept.px with d3 := true } }
    else if fieldOf 1 0 v = 0 then flushUp { kept with px := { kept.px with d3 := false } }
    else s
  | .devCtl => { kept with px := { kept.px with devCtl := BitVec.ofNat 32 (fieldOf 14 0 v) } }
  | .devCtl2 => { kept with px := { kept.px with devCtl2 := BitVec.ofNat 32 (fieldOf 15 0 v) } }
  | .linkCtl => { s with px := { s.px with linkCtl := BitVec.ofNat 32 (fieldOf 15 0 v) } }
  | .msixCtl => sendPending { s with px := { s.px with msixEn := flagOf 31 v, fnMask := flagOf 30 v } }
  | .aerStatus => { s with px := { s.px with aer := s.px.aer &&& ~~~v } }
  | .rebarCtl => if 10 ≤ fieldOf 13 8 v then resizeBar4 (fieldOf 13 8 v - 10) s else s
  | .aerControl => kept
  | .other => kept
  | _ => s

/-- RESIZABLE_BAR_WRITE: BAR4 takes one of the sizes 1 to 64 GiB (R417). -/
def execResizableBarWrite (log2GiB : Fin 64) (s : State) : Host.Outcome State Fault Refusal :=
  .next (if s.px.cfgReady then resizeBar4 log2GiB.val s else s)

/-! ### Faulty TLPs (R420) -/

/-- An ECRC failure logged, counted and reported. aux: 0 request, 1 completion. -/
def ecrcFail (aux : Nat) (hdr : BitVec 128) (s : State) : State :=
  raiseEvent 0x0A06 0 aux 0 none (bump .PX_ECRC_ERRS 0 0 1 (aerLog 19 hdr s))

/-- A TLP that is poisoned, or fails ECRC, logged; an ECRC failure is counted and reported too (R420). -/
def badTlp (aux : Nat) (hdr : BitVec 128) (ecrc : Bool) (s : State) : State := if ecrc then ecrcFail aux hdr s else aerLog 12 hdr s

/-- The completion timeout in step clocks that Device Control 2 programs: 50 ms after reset, the upper end of the range that its value
names otherwise; none while it is disabled (R420, log entry 123). -/
def completionTimeout (s : State) : Option Nat :=
  if flagOf 4 s.px.devCtl2 then none
  else some (20 * (match fieldOf 3 0 s.px.devCtl2 with
    | 1 => 1000
    | 2 => 100000
    | 5 => 550000
    | 6 => 2100000
    | 9 => 9000000
    | 10 => 35000000
    | 13 => 130000000
    | 14 => 640000000
    | _ => 500000))

/-- A host read of a DMA engine that ends with a bus error: its COPY completes with BUS (R420, Table 11.3). -/
def failHostRead (k : Nat) (s : State) : State :=
  match (getDma k s).copy with
  | some c => if c.srcHost then finishCopy k c [] (some .bus) s else s
  | none => s

/-- POISONED_TLP: a poisoned or ECRC-failing TLP is discarded; a failing completion ends its read (R420). -/
def execPoisonedTlp (kind : TlpKind) (ecrc : Bool) (s : State) : Host.Outcome State Fault Refusal :=
  .next (match kind with
    | .write => badTlp 0 (tlpHeader 2 0 s) ecrc s
    | .request => badTlp 0 (tlpHeader 3 0 s) ecrc s
    | .completion q e => failHostRead (dmaNo q e) (badTlp 1 (tlpHeader 4 (dmaNo q e) s) ecrc s))

/-- Whether a host read of a COPY has waited for the completion timeout (R420). -/
def timedOut (c : Copy) (s : State) : Bool :=
  match completionTimeout s with
  | some n => decide (c.since + n ≤ s.now)
  | none => false

/-- COMPLETION_TIMEOUT: a host read gets no completion in time (R420). -/
def execCompletionTimeout (q : Quad) (e : Fin 4) (s : State) : Host.Outcome State Fault Refusal :=
  let k := dmaNo q e
  .next (match (getDma k s).copy with
    | some c => if c.srcHost && decide (0 < (getDma k s).out) && timedOut c s then failHostRead k (aerLog 14 (tlpHeader 4 k s) s) else s
    | none => s)

/-! ### Losing members and ports (R362, R364, R429, R436) -/

/-- Every message to a member failed. With their number. -/
def failMsgsTo (p : PeerMsg → Bool) (s : State) : Nat × State :=
  let ms := s.bv.msgs.filter p
  (ms.length, ms.foldl (fun s m => failMsg true m s) { s with bv := { s.bv with msgs := s.bv.msgs.filter fun m => !p m } })

/-- The rings whose packet at index START waits with WAIT_REMOTE set (R364). -/
def remoteWaits (s : State) : List RingId :=
  (s.rings.map (·.1)).filterMap fun n => if h : n < 65536 then (if waitsRemote n s then some ⟨n, h⟩ else none) else none

/-- Signals that reach sync objects in one rack clock: those to one object as one sum (R360). -/
def signalTogether (l : List (Nat × Int × PktId)) (s : State) : State :=
  (l.map (·.1)).eraseDups.foldl (fun s o =>
    let mine := l.filter fun x => decide (x.1 = o)
    signal o (mine.map (·.2.1)).sum (mine.head?.map (·.2.2)) s) s

/-- R364 at the loss of a peer: every SY.WAITR ends with 2, every packet waiting with WAIT_REMOTE completes with LINK. The signals of those
packets to objects of the device fall in one rack clock (R360, R436). -/
def endRemoteWaits (s : State) : State :=
  let one := fun (s : State) (k : Nat) =>
    match (Store.getD Thread.init k s.threads).wait with
    | some (.sync _ _ d true) => releaseWith (k / 64) (k % 64) d 2 s
    | _ => s
  let s := (s.threads.map (·.1)).foldl one s
  let rs := remoteWaits s
  signalTogether (rs.filterMap fun n => frontSignal n s) (rs.foldl (fun s n => failRemoteWait true 7 n s) s)

/-- The MSI-X messages of a list after its first n, each vector's only once: requests for one vector in one rack clock produce one message
(R379). -/
def onceEach (n : Nat) (l : List HostMsg) : List HostMsg :=
  (l.drop n).foldl (fun acc m => match m with
    | .msix _ _ _ => if (acc.drop n).contains m then acc else acc ++ [m]
    | m => acc ++ [m]) (l.take n)

/-- Work done in one rack clock: what it sends for one vector is one message (R379). -/
def oneClock (f : State → State) (s : State) : State :=
  let u := f s
  { u with sent := onceEach s.sent.length u.sent, px := { u.px with upstream := onceEach s.px.upstream.length u.px.upstream } }

/-- A message acknowledged: delivered, or failed (R433). -/
def ackMsg (id : Nat) (accepted : Bool) (s : State) : State :=
  match s.bv.msgs.find? fun m => decide (m.id = id) with
  | none => s
  | some m =>
    let s := { s with bv := { s.bv with msgs := s.bv.msgs.filter fun x => decide (x.id ≠ id) } }
    if accepted then ringProgress m.pkt s else failMsg false m s

/-- The acknowledgements of some messages that arrive in this rack clock, taking effect first (R437). The commands that wait in the queue
fall in the same rack clock: time passes on an empty queue only (log entry 124). -/
def acksFirst (p : PeerMsg → Bool) (s : State) : State :=
  s.pending.foldl (fun s c => match c with
    | .peerAckReceive v m id accepted =>
      if decide (v.dest.val = ownMember s) && ((getPort v.port.val s).rx v.vc).flatten.contains ⟨m, v.dest, v.id, .ack id accepted⟩ &&
        s.bv.msgs.any (fun m => decide (m.id = id) && p m) then ackMsg id accepted s else s
    | _ => s) s

/-- A present member declared lost, by cause: 0 heartbeat, 1 epoch, 2 port down (R436, R437). What was heard of it counts for nothing when it
comes back (R435). -/
def losePeer (m cause : Nat) (s : State) : State :=
  if !memberPresent m s then s
  else
    oneClock (fun s =>
      let s := acksFirst (fun x => decide (x.dest = m)) s
      let s := { s with bv := { s.bv with present := s.bv.present - 2 ^ m, peers := s.bv.peers.drop m } }
      let r := failMsgsTo (fun x => decide (x.dest = m)) s
      raiseEvent 0x0A03 m cause r.1 none (endRemoteWaits r.2)) s

/-- The flits that lie in a port: sent and not acknowledged, queued for it, or received from it (R429). -/
def Port.flits (k : Port) : Nat := k.buf.length + k.txq.length + k.rx0.length + k.rx1.length

/-- A port goes down, by cause: 0 liveness, 1 replay failure, 2 disabled (R429): its flits are discarded, the members behind it are
lost, every message that was to leave through it fails, all in one rack clock. An acknowledgement in the same rack clock takes effect first
(R437). -/
def portDown (p cause : Nat) (st : PortSt) (s : State) : State :=
  let k := getPort p s
  if k.st ≠ .up then modPort p (fun k => { k with st := st }) s
  else oneClock (fun s =>
    let behind := fun (m : PeerMsg) => routeValid m.dest s && decide (routePort m.dest s = p)
    let s := acksFirst behind s
    let s := modPort p (fun _ => { Port.init with st := st, lastTrain := s.now }) s
    let s := (List.range 16).foldl (fun s m => if routeValid m s && decide (routePort m s = p) then losePeer m 2 s else s) s
    let s := (failMsgsTo behind s).2
    raiseEvent 0x0A01 p cause k.flits none (bump .BV_PORT_DOWNS 0 p 1 s)) s

/-! ### Ports (R426 to R429, R440) -/

/-- A port enabled: its domain comes on, and it trains (R429, R531). -/
def enablePort (p : Nat) (s : State) : State :=
  let s := { s with pm := { s.pm with domainOff := Store.drop (74 + p) s.pm.domainOff } }
  modPort p (fun _ => { Port.init with st := .training, lastTrain := s.now }) s

/-- A port disabled: it goes down, and its domain goes off (R429, R531). -/
def disablePort (p : Nat) (s : State) : State :=
  let s := portDown p 2 .disabled s
  { s with pm := { s.pm with domainOff := s.pm.domainOff.add (74 + p) } }

/-- A write to BV_CTRL: ports whose PORT_EN bit rises are enabled, those whose bit falls disabled (R429, R440). -/
def bvCtrl (v : Word) (s : State) : State :=
  let old := rget .BV_CTRL 0 0 s
  let s := storeWrite .BV_CTRL 0 0 v s
  let new := rget .BV_CTRL 0 0 s
  (List.range 4).foldl (fun s p =>
    if flagOf p new && !flagOf p old then enablePort p s
    else if flagOf p old && !flagOf p new then disablePort p s
    else s) s

/-- PORT_ENABLE (R429). -/
def execPortEnable (p : Fin 4) (s : State) : Host.Outcome State Fault Refusal :=
  .next (hostWrite .BV_CTRL 0 0 (fun s => bvCtrl (setFlag p.val true (rget .BV_CTRL 0 0 s)) s) s)

/-- PORT_DISABLE (R429). -/
def execPortDisable (p : Fin 4) (s : State) : Host.Outcome State Fault Refusal :=
  .next (hostWrite .BV_CTRL 0 0 (fun s => bvCtrl (setFlag p.val false (rget .BV_CTRL 0 0 s)) s) s)

/-- BV_QUIESCE (R440). -/
def execBvQuiesce (s : State) : Host.Outcome State Fault Refusal :=
  .next (hostWrite .BV_CTRL 0 0 (fun s => bvCtrl (setFlag 8 true (rget .BV_CTRL 0 0 s)) s) s)

/-- The bytes of data that a message carries. -/
def loadSize : PeerLoad → Nat
  | .store _ data => data.length
  | _ => 0

/-- The messages of a flit. -/
def flitMsgs (f : Flit) : List BvMsg :=
  match f.load with
  | .messages l => l
  | _ => []

/-- Whether a flit's messages fit into its payload of 224 bytes; the layout of message headers no rule gives (R426, log entry 122). -/
def flitFits (f : Flit) : Bool := decide ((flitMsgs f |>.map fun m => loadSize m.load).sum ≤ 224)

/-- Whether a flit that passes its CRC is accepted: the one expected next, so that flits after a failed one wait for the replay (R427); a
flit with messages needs a free place in its receive buffer (R428). -/
def Port.accepts (f : Flit) (k : Port) : Bool :=
  flitFits f && decide (f.seq = k.rxSeq) && ((flitMsgs f).isEmpty || decide ((k.rx f.vc).length < 32))

/-- A port with the payload of an accepted flit: messages lie in its receive buffer, and their flit counts in the sequence; returned credits
wait to be taken (R426, R428, log entry 122). -/
def Port.unload (f : Flit) (k : Port) : Port :=
  match f.load with
  | .credits a b => { k with back0 := k.back0 + a, back1 := k.back1 + b }
  | _ => if (flitMsgs f).isEmpty then k else { k.putRx f.vc (k.rx f.vc ++ [flitMsgs f]) with rxSeq := k.rxSeq + 1 }

/-- A port after a flit is accepted: the flits it acknowledges leave the replay buffer (R426 to R428). -/
def Port.accept (f : Flit) (k : Port) : Port :=
  Port.unload f { k with fails := 0, replaying := false, buf := k.buf.filter fun x => decide (f.ack ≤ x.1) }

/-- The flits of a port's replay buffer sent again, in their order, where the flit received asks for it (R427). -/
def replayFlits (p : Nat) (f : Flit) (s : State) : State :=
  if f.replay then (getPort p s).buf.foldl (fun s x => respond x.2 s) (modPort p (fun k => { k with lastTx := s.now }) s) else s

/-- BURIVO_FLIT_RECEIVE: a flit that passes its CRC after correction is accepted in its order; one that fails is discarded, as is every
later one until its replay, which is requested; the sixteenth failed replay in a row takes the port down (R427 to R429). -/
def execBurivoFlitReceive (p : Fin 4) (flit : Flit) (corrected crcOk : Bool) (s : State) : Host.Outcome State Fault Refusal :=
  let k := getPort p.val s
  .next (if k.st ≠ .up then s
    else
      let s := if corrected then bump .BV_PORT_FEC 0 p.val 1 s else s
      if crcOk then
        let s := modPort p.val (fun k => { k with lastRx := s.now }) s
        if k.accepts flit then pumpPort p.val (replayFlits p.val flit (modPort p.val (Port.accept flit) s)) else s
      else if k.replaying && decide (15 ≤ k.fails) then portDown p.val 1 .down s
      else
        bump .BV_PORT_REPLAYS 0 p.val 1 (respond (.flitReplay p.val k.rxSeq)
          (modPort p.val (fun k => { k with fails := if k.replaying then k.fails + 1 else 0, replaying := true }) s)))

/-- The credits of a channel that a port's flits have brought back and that are not taken yet (R426, R428). -/
def Port.back (vc : Fin 2) (k : Port) : Nat := if vc = 0 then k.back0 else k.back1

/-- A port with a credit of a channel back, of the 32 it has (R428). -/
def Port.credited (vc : Fin 2) (k : Port) : Port :=
  if vc = 0 then { k with cred0 := min 32 (k.cred0 + 1), back0 := k.back0 - 1 }
  else { k with cred1 := min 32 (k.cred1 + 1), back1 := k.back1 - 1 }

/-- BURIVO_CREDIT_RETURN: a flit credit of a channel, which a flit has brought, is back at the sender, and what waited for it is sent (R426,
R428). -/
def execBurivoCreditReturn (p : Fin 4) (vc : Fin 2) (s : State) : Host.Outcome State Fault Refusal :=
  .next (if decide ((getPort p.val s).st ≠ .up) || decide ((getPort p.val s).back vc = 0) then s else pumpPort p.val (modPort p.val (Port.credited vc) s))

/-- IDLE_FLIT_SEND: a port that is up sends a flit without messages (R429). -/
def execIdleFlitSend (p : Fin 4) (s : State) : Host.Outcome State Fault Refusal :=
  .next (if (getPort p.val s).st = .up then respond (.flitIdle p.val) (modPort p.val (fun k => { k with lastTx := s.now }) s) else s)

/-- PORT_LIVENESS_TIMEOUT: no valid flit for 2 µs (R429). -/
def execPortLivenessTimeout (p : Fin 4) (s : State) : Host.Outcome State Fault Refusal :=
  let k := getPort p.val s
  .next (if k.st = .up ∧ k.lastRx + 400 ≤ s.now then portDown p.val 0 .down s else s)

/-- PORT_TRAINING_ATTEMPT: an enabled port that is down, as it is after an attempt that did not succeed, trains again after 1 ms (R429). -/
def execPortTrainingAttempt (p : Fin 4) (s : State) : Host.Outcome State Fault Refusal :=
  let k := getPort p.val s
  .next (if k.state s.now = .down ∧ rflag .BV_CTRL 0 0 p.val s ∧ k.lastTrain + 200000 ≤ s.now then
      modPort p.val (fun k => { k with st := .training, lastTrain := s.now }) s
    else s)

/-- PORT_TRAINED: within 200 µs of the attempt the port is up, its credits are 32 on each channel, EV_LINK_UP names the lanes (R428, R429). -/
def execPortTrained (p : Fin 4) (lanes : Fin 5) (s : State) : Host.Outcome State Fault Refusal :=
  .next (if (getPort p.val s).state s.now = .training then
      raiseEvent 0x0A02 p.val lanes.val 0 none (modPort p.val (fun k => { Port.init with
        st := .up
        cred0 := 32
        cred1 := 32
        lastRx := s.now
        lastTx := s.now
        lastTrain := k.lastTrain }) s)
    else s)

/-! ### Members (R432 to R437) -/

/-- HEARTBEAT_SEND: a heartbeat with the device's epoch to every member with a valid route through a port that is up (R434). -/
def execHeartbeatSend (s : State) : Host.Outcome State Fault Refusal :=
  .next ((List.range 16).foldl (fun s m =>
    if rflag .BV_MEMBERS 0 0 m s && decide (m ≠ ownMember s) then routeMsg false (ownMember s) m 0 (.heartbeat s.bv.epoch) s
    else s) s)

/-- HEARTBEAT_RECEIVE: another epoch loses a present member; 100 µs of heartbeats of one epoch without a 2 µs gap make a member
present (R435, R436). -/
def execHeartbeatReceive (via : Via) (m : Member) (epoch : Word) (s : State) : Host.Outcome State Fault Refusal :=
  let k := Store.getD PeerRec.init m.val s.bv.peers
  let fresh := !k.seen || decide (k.epoch ≠ epoch) || decide (k.last + 400 ≤ s.now)
  .next (arrive via m (.heartbeat epoch) (fun s =>
    let s := if memberPresent m.val s && decide (k.epoch ≠ epoch) then losePeer m.val 1 s else s
    let start := if fresh && !memberPresent m.val s then s.now else k.runStart
    let s := modPeer m.val (fun _ => ⟨epoch, start, s.now, true⟩) s
    if !memberPresent m.val s && decide (start + 20000 ≤ s.now) then
      raiseEvent 0x0A04 m.val 0 epoch.toNat none { s with bv := { s.bv with present := s.bv.present + 2 ^ m.val } }
    else s) s)

/-- PEER_LIVENESS_TIMEOUT: nothing heard of a present member for 2 µs (R436). -/
def execPeerLivenessTimeout (m : Member) (s : State) : Host.Outcome State Fault Refusal :=
  .next (if (Store.getD PeerRec.init m.val s.bv.peers).last + 400 ≤ s.now then losePeer m.val 0 s else s)

/-- Whether a peer-window store can be written here: whole sectors below U or in one scratchpad window (R386, R432). -/
def peerWriteOk (addr : Nat) (data : List Byte) (s : State) : Bool :=
  decide (addr % 32 = 0) && decide (data.length % 32 = 0) && inMemory noRack addr data.length s

/-- PEER_MESSAGE_RECEIVE: a store of a present member is written and acknowledged, or discarded with EV_PEER_REJECT and acknowledged as
rejected; a message of a member that is not present is discarded (R432, R433, R435). -/
def execPeerMessageReceive (via : Via) (m : Member) (addr : Nat) (data : List Byte) (s : State) : Host.Outcome State Fault Refusal :=
  .next (arrive via m (.store addr data) (fun s =>
    if !memberPresent m.val s then s
    else
      let s := heardFrom m.val s
      if peerWriteOk addr data s then ackPeer m.val via.id true (devWrite noRack addr data s)
      else ackPeer m.val via.id false (raiseEvent 0x0A05 m.val 0 addr none s)) s)

/-- PEER_ACK_RECEIVE: the acknowledgement, by a present member, of a message to it: the message is delivered, or has failed (R433, R435). -/
def execPeerAckReceive (via : Via) (m : Member) (id : Nat) (accepted : Bool) (s : State) : Host.Outcome State Fault Refusal :=
  .next (arrive via m (.ack id accepted) (fun s => if memberPresent m.val s then ackMsg id accepted (heardFrom m.val s) else s) s)

end Sys2Proof.Machine
end

