-- ==== Sys2Proof/Machine/HangOps.lean ====
section
/-! DEFINITION. Hang incidents: which engines work belongs to, suspects, opening and ending an incident, cancelling and replaying a packet
(R503 to R506, R508, R512 to R518, R523). -/

namespace Sys2Proof.Machine

/-! ### Engines and suspects (R508, R512, Table 15.2) -/

/-- Whether an engine lies inside another. -/
def Engine.inside (e f : Engine) : Bool :=
  decide (e.domain ≤ f.domain) && (match e.domain with
    | 0 => f.coversCask e.unit
    | 1 => f.coversRack e.unit
    | 2 => decide (f.domain = 2 ∧ f.unit = e.unit) || decide (3 ≤ f.domain)
    | _ => true)

/-- An engine put into its place in a list: the larger domain first, then the lower unit; each engine once. -/
def insertEngine (e : Engine) : List Engine → List Engine
  | [] => [e]
  | f :: r =>
    if e = f then f :: r
    else if f.domain < e.domain ∨ (e.domain = f.domain ∧ e.unit < f.unit) then e :: f :: r
    else f :: insertEngine e r

/-- Whether the cellarer holds a cask for its topping. -/
def toppedNow (k : Cask) : Bool := decide (k.hold = some .topping) || decide (k.hold = some .topRemap) || decide (k.hold = some .topWait)

/-- The casks that the cellarer holds for a TOP_UP packet (R508). -/
def toppedFor (p : PktId) (s : State) : List Nat :=
  match (findPkt p s).map Pkt.work with
  | some (.topUp cs) => cs.filter fun c => toppedNow (getCask c s)
  | _ => []

/-- Whether a packet has a thread, engine work, or an OPEN or SEALED slot on an engine (R508, R512). -/
def engineHas (e : Engine) (p : PktId) (s : State) : Bool :=
  s.threads.any (fun t => e.coversRack (t.1 / 64) && decide (t.2.pkt = some p) && decide (t.2.st ≠ .free)) ||
    s.casks.any (fun c => e.coversCask c.1 && c.2.worksFor p) ||
    s.racks.any (fun r => e.coversRack r.1 && (r.2.worksFor p ||
      r.2.slots.any fun k => decide (k.2.pkt = some p) && (decide (k.2.st = 1) || decide (k.2.st = 2)))) ||
    s.mem.dma.any (fun d => decide (2 ≤ e.domain) && (decide (3 ≤ e.domain) || decide (d.1 / 4 = e.unit)) &&
      decide (d.2.copy.map (·.pkt) = some p)) ||
    s.cellar.active.any (fun a => decide (a.2.1 = p) && decide (a.1 < 4096) && e.coversCask a.1) ||
    (toppedFor p s).any e.coversCask

/-- The packets of a ring that are in flight: started and not complete. -/
def flying (n : Nat) (r : Ring) : List PktId := (r.pkts.filter fun k => !k.complete).map fun k => ⟨⟨n % 65536, Nat.mod_lt _ (by decide)⟩, k.idx⟩

/-- Every packet in flight. -/
def allFlying (s : State) : List PktId := s.rings.flatMap fun e => flying e.1 e.2

/-- The place of a packet in the order of starts. -/
def startOrder (p : PktId) (s : State) : Nat := ((findPkt p s).map Pkt.order).getD 0

/-- A packet put into a list in the order in which packets started (R513). -/
def insertStarted (s : State) (p : PktId) : List PktId → List PktId
  | [] => [p]
  | q :: r => if p = q then q :: r else if startOrder p s < startOrder q s then p :: q :: r else q :: insertStarted s p r

/-- The suspects of engines, in the order in which they started. -/
def suspectsOf (es : List Engine) (s : State) : List PktId :=
  ((allFlying s).filter fun p => es.any fun e => engineHas e p s).foldr (insertStarted s) []

/-! ### Counters (R503 to R506) -/

/-- When a counter of a watchdog last restarted: at its own restart, or as its watchdog was enabled (R506). -/
def startedAt (watchdog start : Nat) (s : State) : Nat := max start (Store.getD 0 watchdog s.hang.enabledAt)

/-- The budget that a counter of a watchdog runs against: the one in force at its last restart (R506). -/
def budgetAt (watchdog start now' : Nat) (s : State) : Nat :=
  ((s.hang.budgets.find? fun b => decide (b.1 = watchdog) && decide (startedAt watchdog start s < b.2.1)).map (·.2.2)).getD now'

/-- Where a counter of a watchdog stands: the step clocks since its last restart, but those for which it was paused. -/
def elapsed (watchdog start paused : Nat) (s : State) : Nat := s.now - startedAt watchdog start s - paused

/-- Whether recovery on an engine that a packet uses stands in the way of its ring's progress: any, but for the replay of a packet of that
ring; a suspect uses its engine until its replay is over (R504). -/
def recovering (n : Nat) (p : PktId) (s : State) : Bool :=
  match s.hang.incident with
  | some i => (i.replaying.map fun q => q.ring.val) ≠ some n && (i.suspects.contains p || i.engines.any fun e => engineHas e p s)
  | none => false

/-- Whether a packet uses a cask that the cellarer holds or that is quiesced, a quiesced rack, or quiesced DMA engines. -/
def usesStopped (p : PktId) (s : State) : Bool :=
  s.casks.any (fun c => c.2.worksFor p && (c.2.hold.isSome || rflag .CK_CTRL c.1 0 0 s)) ||
    s.threads.any (fun t => t.2.worksFor p && rackStops (t.1 / 64) s) ||
    s.racks.any (fun r => r.2.worksFor p && rackStops r.1 s) ||
    (rflag .MC_CTRL 0 0 8 s && s.mem.dma.any fun d => decide (d.2.copy.map (·.pkt) = some p))

/-- Whether a ring's progress counter is paused (R504). -/
def ringPaused (n : Nat) (r : Ring) (s : State) : Bool := (flying n r).any fun p => recovering n p s || usesStopped p s

/-- Whether a ring's progress counter counts: a packet is in flight, the ring is ACTIVE or STOPPING, and nothing pauses it (R504). -/
def ringCounts (n : Nat) (r : Ring) (s : State) : Bool :=
  (decide (r.st = .active) || decide (r.st = .stopping)) && decide (0 < r.inflight) && !ringPaused n r s

/-- Whether a cask's operation counter counts: an operation is in progress on it, and it is neither held nor quiesced (R505). -/
def caskCounts (c : Nat) (k : Cask) (s : State) : Bool := !k.quiet && k.hold.isNone && !rflag .CK_CTRL c 0 0 s

/-- A step clock passes for the counters that it does not advance (R504, R505). -/
def pauseCounters (s : State) : State :=
  { s with
    rings := s.rings.mapV fun n r => if ringCounts n r s then r else { r with paused := r.paused + 1 }
    casks := s.casks.mapV fun c k => if caskCounts c k s then k else { k with paused := k.paused + 1 } }

/-! ### Opening and ending (R513, R517, R518, R523) -/

/-- The threads of an incident's engines and its suspects' threads elsewhere enter HELD (R513). -/
def holdThreads (i : Incident) (s : State) : State :=
  { s with threads := s.threads.mapV fun k t =>
      let mine := i.engines.any (fun e => e.coversRack (k / 64)) || i.suspects.any fun p => decide (t.pkt = some p)
      if mine && decide (t.st ≠ .free) && decide (t.st ≠ .halted) then { t with st := .held } else t }

/-- The first engine of an incident, by which its later events name it. -/
def Incident.engine (i : Incident) : Engine := i.engines.headD ⟨0, 0⟩

/-- An incident begins: freeze and EV_HANG, with the suspects that are still in flight (R512, R513). Detected incidents on engines that lie
inside its own join it (R518). -/
def freeze (i : Incident) (s : State) : State :=
  let within := fun (j : Incident) => j.engines.all fun e => i.engines.any fun f => e.inside f
  let all := (s.hang.detected.filter within).foldl (fun l j => j.suspects.foldr (insertStarted s) l) i.suspects
  let live := all.filter fun p => (allFlying s).contains p
  let i := { i with phase := 1, suspects := live, frozenAt := s.now }
  let s := bump .HG_INCIDENTS 0 0 1 { s with hang := { s.hang with
    incident := some i
    detected := s.hang.detected.filter fun j => !within j
    recent := s.hang.recent ++ i.engines.map fun e => (s.now, e) } }
  i.engines.foldl (fun s e => raiseEvent 0x0D01 e.unit (e.domain + 2 ^ 8 * i.fromCask.toNat) live.length none s) (holdThreads i s)

/-- A detected incident put in order of detection; of two in one step clock the larger domain comes first (R518). -/
def insertIncident (i : Incident) : List Incident → List Incident
  | [] => [i]
  | j :: r => if j.step = i.step ∧ j.engine.domain < i.engine.domain then i :: j :: r else j :: insertIncident i r

/-- The incident that was detected first begins, where none is in progress (R518). -/
def startIncident (s : State) : State :=
  match s.hang.incident, s.hang.detected with
  | none, i :: rest => freeze i { s with hang := { s.hang with detected := rest } }
  | _, _ => s

/-- An incident is detected on some engines: it joins the one in progress before that one's reset, is discarded after it, or waits; it begins
at the end of its step clock, where none is in progress then, so that a packet that completes in that step clock is no suspect and of two
incidents the one with the larger domain goes first (R512, R513, R518; log entry 142). -/
def openIncident (es : List Engine) (fromCask : Bool) (s : State) : State :=
  let es := es.foldr insertEngine []
  let sus := suspectsOf es s
  let i : Incident := ⟨es, fromCask, 1, sus, [], none, 0, 0, false, s.now, posUm s, posFrame s, s.now⟩
  let wait := { s with hang := { s.hang with detected := insertIncident i s.hang.detected } }
  if es.isEmpty then s
  else match s.hang.incident with
    | none => wait
    | some j =>
      if es.all fun e => j.engines.any fun f => e.inside f then
        if j.phase = 1 then
          let j := { j with suspects := sus.foldr (insertStarted s) j.suspects }
          holdThreads j { s with hang := { s.hang with incident := some j } }
        else s
      else wait

/-- Incidents that an engine opened within the 60 s that end with its latest one (R523). -/
def recentCount (e : Engine) (s : State) : Nat :=
  let at' := (s.hang.recent.filter fun x => decide (x.2 = e)).map (·.1)
  (at'.filter fun t => decide (maxOf at' ≤ t + 12000000000)).length

/-- An engine returns to service, or stays out of it (R523). -/
def returnEngine (s : State) (e : Engine) : State :=
  let n := recentCount e s
  if rflag .HG_CTRL 0 0 10 s && decide (n < 3) then s
  else raiseEvent 0x0D06 e.unit e.domain n none { s with hang := { s.hang with oos := s.hang.oos ++ [e] } }

/-- An incident all of whose suspects have been replayed or aborted ends; the next one detected begins (R517, R518, R523). -/
def endIncident (i : Incident) (s : State) : State :=
  let s := { s with hang := { s.hang with incident := none } }
  let s := raiseEvent 0x0D05 i.engine.unit i.engine.domain (i.replayed % 65536 + 2 ^ 16 * (i.aborted % 65536)) none s
  let s := i.engines.foldl returnEngine s
  startIncident s

/-- The incident in progress ends where nothing of it is left to do. -/
def maybeEnd (s : State) : State :=
  match s.hang.incident with
  | some i =>
    if decide (i.phase = 3) && i.waiting.isEmpty && i.replaying.isNone && s.hang.resets.isEmpty then endIncident i s else s
  | none => s

/-- The incident in progress changed by f. -/
def modIncident (f : Incident → Incident) (s : State) : State :=
  { s with hang := { s.hang with incident := s.hang.incident.map f } }

/-- A packet has completed: one that was being replayed is innocent, and the next suspect follows (R516). -/
def replayOver (p : PktId) (s : State) : State :=
  match s.hang.incident with
  | some i =>
    if i.replaying = some p then maybeEnd (modIncident (fun i => { i with replaying := none, replayed := i.replayed + 1 }) s) else s
  | none => s

/-! ### Cancelling, aborting, replaying (R513 to R515) -/

/-- A slot dropped as ACC.DROP drops it: at once, or once the decant queue has room (R255, R292, R514). -/
def dropSlot (s : State) (x : Nat × Nat) : State :=
  if decantRoom x.1 s then acceptDrain x.1 true x.2 [] none s else modRack x.1 (fun k => { k with toDrop := k.toDrop ++ [x.2] }) s

/-- A packet's OPEN slots dropped; the drain or drop that has sealed another completes by itself (R292, R514). -/
def dropSlots (p : PktId) (s : State) : State :=
  let held := s.racks.flatMap fun r => (r.2.slots.filter fun k => decide (k.2.pkt = some p) && decide (k.2.st = 1)).map fun k => (r.1, k.1)
  held.foldl dropSlot s

/-- A COPY of the packet given up: its tokens go back (R405, R510). -/
def dropCopy (p : PktId) (d : Dma) : Dma := if d.copy.map (·.pkt) = some p then ⟨none, 0, d.back + d.out⟩ else d

/-- A packet's work on other engines cancelled: its threads end, its slots are dropped, its COPY requests are given up (R514). -/
def cancelWork (p : PktId) (s : State) : State :=
  let s := dropSlots p s
  emptyIbufs { s with
    threads := s.threads.mapV fun _ t => if t.pkt = some p then Thread.init else t
    mem := { s.mem with dma := s.mem.dma.mapV fun _ d => dropCopy p d } }

/-- A packet that completes with ABORTED once its issued work is done (R511, R513). -/
def abortPkt (p : PktId) (s : State) : State :=
  modPkt p (fun k => { k with work := .done }) (pktCode 8 (some p) (cancelWork p s))

/-- A suspect aborted and counted. -/
def abortSuspect (s : State) (p : PktId) : State :=
  modIncident (fun i => { i with aborted := i.aborted + 1 }) (bump .HG_ABORTS 0 0 1 (abortPkt p s))

/-- The sync objects of a layer set to 0 before its operator is replayed (R515, Table 9.1). -/
def clearLayer (b : List Byte) (s : State) : State :=
  if pktOp b = 0x10 ∨ pktOp b = 0x11 then
    let m := peekAny (leAt 40 8 b) 64 s
    let o := leAt 32 2 m
    { s with sync := Store.clear o (o + 2 * leAt 14 2 m + 2 * byteAt 11 m) s.sync }
  else s

/-- A suspect runs again from its packet start: code and flags anew but for REPLAYED; index, frame and position stay (R514). -/
def replayPkt (p : PktId) (s : State) : State :=
  let s := clearLayer (((findPkt p s).map (·.bytes)).getD []) (cancelWork p s)
  let s := modPkt p (fun k => { k with
    work := .none
    code := 0
    flags := 2 ^ 3
    kstatus := 0
    exc := none
    replay := true
    walk := none }) s
  ringProgress (some p) s

end Sys2Proof.Machine
end

