-- ==== Sys2Proof/Machine/Rings.lean ====
section
/-! DEFINITION. Rings: commands, doorbells, the packet at index START, starting, placing threads and completing (R337 to R358, R369). -/

namespace Sys2Proof.Machine

/-! ### Ring commands (R339, R340) -/

/-- A ring context as its 64 bytes give it (Table 10.1). -/
def ctxOf (b : List Byte) : RingCtx :=
  ⟨leAt 0 8 b, leAt 8 8 b, leAt 16 8 b, byteAt 24 b, byteAt 25 b, byteAt 26 b, byteAt 27 b, leAt 28 2 b⟩

/-- RESIDENT of a context. -/
def RingCtx.resident (c : RingCtx) : Bool := bitAt 1 c.mode

/-- Bytes of a ring's packet array. -/
def RingCtx.size (c : RingCtx) : Nat := 64 * 2 ^ c.log2

/-- Whether an array of a ring lies in DRAM, aligned as BASE (Table 10.1). -/
def arrayOk (a : Nat) (c : RingCtx) (s : State) : Bool :=
  decide (a % c.size = 0) && decide (a % 4096 = 0) && decide (a + c.size ≤ usable s)

/-- Bytes of the packet arrays of all resident rings (R339). -/
def residentBytes (s : State) : Nat :=
  (s.rings.map fun e => if e.2.st ≠ .disabled ∧ e.2.ctx.resident then e.2.ctx.size else 0).sum

/-- Whether R339 accepts a context: ranges, alignment, reserved bytes, resident total. -/
def ctxOk (b : List Byte) (s : State) : Bool :=
  let c := ctxOf b
  decide (4 ≤ c.log2) && decide (c.log2 ≤ 16) && decide (c.mode < 32) && decide (c.prio < 4) && decide (1 ≤ c.inflight) &&
    decide (c.inflight ≤ 16) && decide (c.vector < 2048) && decide (leAt 30 34 b = 0) && arrayOk c.base c s && arrayOk c.cmpl c s &&
    decide (c.wb % 32 = 0) && decide (c.wb + 32 ≤ usable s) &&
    (!c.resident || decide (residentBytes s + c.size ≤ 8 * 2 ^ 20))

/-- The lines of a resident ring's packet array pinned in the shared cache, or their pins taken off (R339, R387). -/
def pinArray (pin : Bool) (c : RingCtx) (s : State) : State :=
  let e := (c.base / 128, c.size / 128)
  if !c.resident then s
  else { s with mem := { s.mem with pins := if pin then s.mem.pins ++ [e] else s.mem.pins.erase e } }

/-- EV_RING_CONFIG of a command that the ring's state does not allow (R340). -/
def rejectCmd (cmd n : Nat) (s : State) : State := raiseEvent 0x0801 0 0 (cmd + n * 2 ^ 16) none s

/-- The ring that RG_SEL selects. -/
def selectedRing (s : State) : Nat := rfield .RG_SEL 0 0 15 0 s

/-- The library kernels copied to a new base, where that is due (R540). -/
def libCopy (s : State) : State :=
  if s.pm.libDue then dramStore (libBase s) s.pm.kernels { s with pm := { s.pm with libDue := false } } else s

/-- Whether a ring's becoming ACTIVE would end the quiesce of a domain that is being turned off: the DRAM controller's, or for a resident
ring a cache slice's (R532). -/
def activeBusy (c : RingCtx) (s : State) : Bool := goingOff 72 s || (c.resident && (List.range 4).any fun q => goingOff (64 + q) s)

/-- The ENABLE command: reads the context; the ring is ACTIVE, or the enable fails (R337, R339, R340); it fails in RETIRED (Table 16.7),
and is discarded where it would end the quiesce of a domain going off (R532). -/
def ringEnable (s : State) : State :=
  let n := selectedRing s
  if (getRing n s).st ≠ .disabled then rejectCmd 1 n s
  else if goingOff 72 s then writeBusy (regOff .RG_CMD 0 0) s
  else
    let s := libCopy s
    let a := rpair .RG_TABLE_LO .RG_TABLE_HI 0 s + 64 * n
    let fail := fun (s : State) =>
      raiseEvent 0x0801 0 0 (2 ^ 8 + n * 2 ^ 16) none (modRing n (fun r => { r with err := 1 }) s)
    if decide (usable s < a + 64) || decide (s.pm.lcState = 4) then fail s
    else match readDram a 64 none s with
      | (.ok b, s) =>
        if ctxOk b s && activeBusy (ctxOf b) s then writeBusy (regOff .RG_CMD 0 0) s
        else if ctxOk b s then
          pinArray true (ctxOf b) (modRing n (fun r => { r.moveTo .active with ctx := ctxOf b, err := 0, progress := s.now, paused := 0 }) s)
        else fail s
      | (_, s) => fail s

/-- The STOP command (Table 10.2). -/
def ringStop (s : State) : State :=
  let n := selectedRing s
  if (getRing n s).st = .active then modRing n (fun r => (r.moveTo .stopping).settle) s else rejectCmd 2 n s

/-- The RESUME command (Table 10.2). -/
def ringResume (s : State) : State :=
  let n := selectedRing s
  let r := getRing n s
  if r.st ≠ .stopped then rejectCmd 3 n s
  else if activeBusy r.ctx s then writeBusy (regOff .RG_CMD 0 0) s
  else modRing n (fun r => r.moveTo .active) s

/-- Whether RESET is accepted: DISABLED, STOPPED or ERROR with no packet of the ring in flight (R340). -/
def Ring.mayReset (r : Ring) : Bool :=
  decide (r.inflight = 0) && match r.st with
    | .disabled => true
    | .stopped => true
    | .error => true
    | _ => false

/-- The RESET command: every index 0, the ring DISABLED; the packet at index START gives its gate entry back (R340, R351). -/
def ringReset (s : State) : State :=
  let n := selectedRing s
  let r := getRing n s
  if r.mayReset then
    let s := match r.front with
      | some f => freeEntry f s
      | none => s
    let s := pinArray false r.ctx s
    modRing n (fun r => { r.moveTo .disabled with head := 0, start := 0, tail := 0, front := none, pkts := [], err := 0 }) s
  else rejectCmd 4 n s

/-- RG_ENABLE (R337, R339). -/
def execRgEnable (s : State) : Host.Outcome State Fault Refusal := .next (hostWrite .RG_CMD 0 0 ringEnable s)

/-- RG_STOP (R340, R354). -/
def execRgStop (s : State) : Host.Outcome State Fault Refusal := .next (hostWrite .RG_CMD 0 0 ringStop s)

/-- RG_RESUME (R340). -/
def execRgResume (s : State) : Host.Outcome State Fault Refusal := .next (hostWrite .RG_CMD 0 0 ringResume s)

/-- RG_RESET (R340). -/
def execRgReset (s : State) : Host.Outcome State Fault Refusal := .next (hostWrite .RG_CMD 0 0 ringReset s)

/-! ### Doorbells (R341, R342) -/

/-- A doorbell's effect: COUNT packets more, or one of the improper writes of R342. -/
def doorbell (n : Nat) (v : Word) (s : State) : State :=
  let r := getRing n s
  let count := fieldOf 16 0 v
  if decide (count = 0) || decide (fieldOf 31 17 v ≠ 0) || r.deviceFed || !r.takes then raiseEvent 0x0802 0 0 v.toNat none s
  else if 2 ^ r.ctx.log2 < (r.tail - r.head).toNat + count then
    raiseEvent 0x0803 0 0 count none (modRing n (fun r => { r.moveTo .error with err := 2 }) s)
  else modRing n (fun r => { r with tail := r.tail + BitVec.ofNat 32 count, wbDue := true }) s

/-- RING_DOORBELL: a write to the doorbell register of a ring (R341 to R343). -/
def execRingDoorbell (n : RingId) (v : Word) (s : State) : Host.Outcome State Fault Refusal :=
  .next (regWrite .host (0x2000000 + n.val * 0x200) (doorbell n.val v) s)

/-! ### The packet at index START (R348 to R351) -/

/-- Whether an opcode is one of Table 10.8. -/
def opKnown (op : Nat) : Bool :=
  decide (op ≤ 2) || (decide (0x10 ≤ op) && decide (op ≤ 0x19)) || decide (op = 0x20) || decide (op = 0x30) || decide (op = 0x31) ||
    (decide (0x40 ≤ op) && decide (op ≤ 0x42)) || decide (op = 0x48) || decide (op = 0x49)

/-- Whether R348 accepts a header on a ring with a GATE mode. -/
def headerOk (gate : Nat) (b : List Byte) (s : State) : Bool :=
  opKnown (pktOp b) && decide (byteAt 2 b < 64) && decide (byteAt 3 b = 0) && decide (byteAt 16 b < 32) && decide (leAt 17 3 b = 0) &&
    !sigForbidden b s && (decide (gate ≠ 0) || decide (leAt 24 8 b = 0)) && (decide (gate ≠ 3) || decide (leAt 28 4 b = 0))

/-- The record's bytes 0 to 31 of a packet that could not be read: OPCODE 0xFFFF, everything else zero (Table 11.3). -/
def unreadPkt : List Byte := leBytes 2 0xFFFF ++ leBytes 62 0

/-- The gate entry of a packet: POS, TARGET, KIND 4 with COND from the ring's GATE, VALID; a frame gate of 0xFFFF_FFFF names the next
frame (R351, R460, Table 13.1). -/
def gateWord (n : Nat) (r : Ring) (b : List Byte) (s : State) : Nat :=
  let pos := if r.gate = 3 ∧ leAt 24 4 b = 0xFFFFFFFF then (posFrame s + 1) % 2 ^ 48 else leAt 24 8 b
  pos + 2 ^ 96 * n + 2 ^ 112 * (4 + 16 * (r.gate - 1)) + 2 ^ 120

/-- PACKET_FETCH: the packet at index START of an ACTIVE ring is read and its header checked; a rejected header, or a packet that could
not be read, completes at once (R348, Table 11.3). -/
def execPacketFetch (n : RingId) (s : State) : Host.Outcome State Fault Refusal :=
  let r := getRing n.val s
  .next (if decide (r.st ≠ .active) || r.front.isSome || decide (r.start = r.tail) || s.px.d3 then s
    else match readDram (r.ctx.base + 64 * r.slotOf r.start) 64 (some ⟨n, r.start⟩) s with
      | (.ok b, s) =>
        if headerOk r.gate b s then
          let g := gateWord n.val r b s
          modRing n.val (fun r => { r with front := some ⟨b, headerWaits b s, decide (r.gate ≠ 0) && petHolds g s, g, none, s.now⟩ }) s
        else completeFront false n b 9 0 0 s
      | (.badSeal, s) => completeFront false n unreadPkt 5 (2 ^ 28) 1 s
      | (.bus, s) => completeFront false n unreadPkt 5 0 1 s)

/-- Whether a ring waits for a gate entry: its packet is at index START, and it has none (R351). -/
def Ring.wantsEntry (r : Ring) : Bool :=
  decide (r.gate ≠ 0) && match r.front with
    | some f => f.entry.isNone
    | none => false

/-- The lowest pool entry that no ring holds: the pool is the top RG_GATE_POOL.ENTRIES entries (R351, R460). -/
def poolEntry (s : State) : Option Nat :=
  let k := rfield .RG_GATE_POOL 0 0 11 0 s
  ((List.range k).map fun j => 4096 - k + j).find? fun e => !(s.rings.any fun x => decide (x.2.front.bind (·.entry) = some e))

/-- GATE_ENTRY_GRANT: a gated ring whose packet has reached index START takes an entry of the pool; rings are served in order of ring
number (R351). -/
def execGateEntryGrant (n : RingId) (s : State) : Host.Outcome State Fault Refusal :=
  let r := getRing n.val s
  .next (if !r.wantsEntry || s.rings.any (fun e => decide (e.1 < n.val) && e.2.wantsEntry) then s
    else match poolEntry s, r.front with
      | some e, some f =>
        latchGates (modRing n.val (fun r => { r with front := some { f with entry := some e } }) (petPut e f.gate s))
      | _, _ => s)

/-! ### Starting (R349, R352, R353, R369) -/

/-- A packet starts: frame and position are sampled, START advances, the gate entry returns (R351, R353). With the first packet in flight the
ring's progress counter starts (R504). -/
def startPacket (n : Nat) (f : Front) (s : State) : State :=
  let r := getRing n s
  let k : Pkt := ⟨r.start, f.bytes, .none, false, 0, 0, 0, 0, posFrame s, posUm s, none, s.now, s.nextOp, false, none⟩
  let first := decide (r.inflight = 0)
  let begin := fun (r : Ring) => if first then { r with progress := s.now, paused := 0 } else r
  let s := modRing n (fun r => { begin r with front := none, start := r.start + 1, pkts := r.pkts ++ [k] }) (freeEntry f s)
  { s with nextOp := s.nextOp + 1, lastRing := n }

/-- PACKET_START: the packet at index START starts when every condition of R349 holds and the dispatcher serves its ring before the
others (R349, R352, R353). -/
def execPacketStart (n : RingId) (s : State) : Host.Outcome State Fault Refusal :=
  .next (match (getRing n.val s).front with
    | some f => if startable n.val (getRing n.val s) s && servedNext n.val s then startPacket n.val f s else s
    | none => s)

/-- The registers a kernel thread starts with: those of R369 for KERNEL, free values in s1 to s3 for the library's own kernels (R265,
log entry 32). -/
def startRegs (b : List Byte) (r k : Nat) (s : State) : Store DWord :=
  let reg := fun (d : Nat) (v : DWord) (m : Store DWord) => Store.setD 0 d v m
  if pktOp b = 1 then
    reg 3 (BitVec.ofNat 64 (leAt 50 2 b * byteAt 52 b))
      (reg 2 (BitVec.ofNat 64 ((r - leAt 48 2 b) * byteAt 52 b + k)) (reg 1 (BitVec.ofNat 64 (leAt 40 8 b)) []))
  else
    let free := fun j => (Config.freeWord (s.freeCtr + 6 * k + 2 * j)) ++ (Config.freeWord (s.freeCtr + 6 * k + 2 * j + 1))
    reg 3 (free 2) (reg 2 (free 1) (reg 1 (free 0) []))

/-- The PC a kernel thread starts at: that of the packet, or the library kernel's in the library region (R369, R540). -/
def startPc (b : List Byte) (s : State) : DWord :=
  if pktOp b = 1 then BitVec.ofNat 64 (leAt 32 8 b) else BitVec.ofNat 64 (libBase s + Config.libEntry (pktOp b))

/-- The first n FREE contexts of a rack. -/
def freeTids (r n : Nat) (s : State) : List Nat :=
  ((List.range 64).filter fun t => decide ((getThread r t s).st = .free)).take n

/-- The threads of a packet placed on a rack (R265, R369); a quiesced rack holds them (R262). -/
def placeThreads (p : PktId) (b : List Byte) (r : Nat) (s : State) : State :=
  let tids := freeTids r (opThreads b) s
  let st := if rackStops r s then TSt.held else TSt.ready
  let put := fun (s' : State) (e : Nat × Nat) =>
    setThread r e.1 { Thread.init with st := st, pc := startPc b s, s := startRegs b r e.2 s, since := s.now, pkt := some p } s'
  { tids.zipIdx.foldl put s with freeCtr := if pktOp b = 1 then s.freeCtr else s.freeCtr + 6 * 64 }

/-- THREAD_PLACE: the threads of a started packet go on one of its racks once that rack has contexts enough (R369). -/
def execThreadPlace (n : RingId) (i : Index) (r : Rack) (s : State) : Host.Outcome State Fault Refusal :=
  let p : PktId := ⟨n, i⟩
  .next (match findPkt p s with
    | some k =>
      match k.work with
      | .kernel racks =>
        if racks.contains r.val && rackTakes r.val p s && decide (opThreads k.bytes ≤ freeContexts r.val s) then
          let s := modPkt p (fun k => { k with work := .kernel (racks.filter fun x => decide (x ≠ r.val)) }) s
          placeThreads p k.bytes r.val s
        else s
      | _ => s
    | none => s)

/-! ### Completing (R345, R355) -/

/-- PACKET_COMPLETE: a packet whose threads and engine work have all finished is completed; one that was being replayed is innocent (R355
to R358, R516). -/
def execPacketComplete (n : RingId) (i : Index) (s : State) : Host.Outcome State Fault Refusal :=
  let p : PktId := ⟨n, i⟩
  .next (match findPkt p s with
    | some k => if pktDone p s && mayFinish k.bytes s then replayOver p (completePkt false p s) else s
    | none => s)

/-- STATUS_SECTOR_WRITE: the status sector owed after a state change, a doorbell or a push (R345, R421). -/
def execStatusSectorWrite (n : RingId) (s : State) : Host.Outcome State Fault Refusal :=
  .next (if (getRing n.val s).wbDue && upstreamOk s then writeStatus n.val s else s)

end Sys2Proof.Machine
end

