-- ==== Sys2Proof/Machine/Recovery.lean ====
section
/-! DEFINITION. Watchdogs, dumps, engine resets, replay, and the return of engines to service (R134, R407, R408, R503 to R523). The
resets of the whole device stand with power and boot. -/

namespace Sys2Proof.Machine

/-! ### Cask, rack and quadrant resets (R80, R81, R134, R154, R407, R408, R508, R510) -/

/-- The registers of a range of offsets at their reset values, with nothing staged and no apply waiting (R13). -/
def clearRegs (lo hi : Nat) (s : State) : State :=
  { s with
    regs := Store.clear lo hi s.regs
    staged := Store.clear lo hi s.staged
    applies := Store.clear lo hi s.applies }

/-- The offset of a cask's register block (R84). -/
def caskBlock (c : Nat) : Nat := 0x1000000 + c / 16 * 0x10000 + 0x8000 + c % 16 * 0x400

/-- A cask's configuration registers reloaded from its cells, the remap entries checked as at an apply; a write to the cells that was not
complete is lost, with its GEN (R80, R81, R83). -/
def reloadCells (c : Nat) (s : State) : State :=
  let x := (getCask c s).cells
  let s := rset .CK_CONFIG c 0 x.config (setMap c x.remap x.pin s)
  let s := rput .CK_REMAP_COMMIT c 0 15 0 x.gen s
  remapChecks c (modCask c (fun k => { k with saving := false }) s)

/-- The slots of an operation that is discarded wait for it no longer (R244, R510). -/
def dropOp (c : Nat) (s : State) (o : CaskOp) : State :=
  let s := modRack (c / 16) (fun k => { k with corr := k.corr.filter fun w => decide (w.op.op ≠ o.op) }) s
  o.slots.foldl (fun s x => modSlot (c / 16) x (fun k => { k with pend := k.pend - 1 }) s) s

/-- A cask that is marked incomplete erased, once an erase may start (R134, R530). -/
def eraseIncomplete (c : Nat) (s : State) : State :=
  if (getCask c s).incomplete && s.pm.vppOk then newDigest (eraseCask c s) else s

/-- A racking that its reset cut short: its refold is waited for no longer, its entry ends with status 0x07, and the cask is erased (R134,
R510). DESIGN CHOICE: it adds no program cycles (R155, log entry 61). -/
def interruptRacking (c : Nat) (s : State) : State :=
  let s := { s with quant := { s.quant with rackWait := s.quant.rackWait.filter (· ≠ c) } }
  endRacking c 7 (eraseIncomplete c s)

/-- What the cellarer had under way on a cask that is reset: a racking entry ends with status 0x07 and the cask is erased, a topping has
its credit back and adds no program cycles (DESIGN CHOICE, R155, log entry 61), a remap is asked for again by a diagnosis; an entry that has not begun keeps its place for a credit (R109, R120, R134,
R154, R510); a calibration that holds it is abandoned (R493); a cold erase asks for its credit again (R543). -/
def interrupt (c : Nat) (s : State) : State :=
  let k := getCask c s
  let begun := decide (k.hold = some .racking)
  let s := if (activeEntry c s).isSome && !begun then s else vppFree c s
  match k.hold with
  | some .racking => interruptRacking c s
  | some .cal => calAbort s
  | some .erase => vppAsk c s
  | some h =>
    let again := decide (h = .remap) || decide (h = .topRemap) || decide (h = .diagnosis)
    let s := modCask c (fun k => { k with
      hold := none
      prog := none
      thenTop := false
      failed := []
      fitWas := none
      topDue := k.topDue || decide (h = .topping)
      diagDue := k.diagDue || again }) s
    if k.topping && decide (h ≠ .topping) then topUpOver c s else s
  | none => eraseIncomplete c s

/-- A cask reset: queue, integrators and requests go, the credits it holds return with their window, its home window and its registers take
their reset values, configuration is reloaded; the cask stays in reset until its reference read (R80, R105, R134, R407, R510). -/
def caskReset (c : Nat) (s : State) : State :=
  let k := getCask c s
  let ops := (k.queue ++ k.running.map (·.op)).eraseDups
  let s := { s with ledger := { s.ledger with home := Store.drop c s.ledger.home } }
  let clear := fun (k : Cask) => { k with
    inReset := true
    queue := []
    running := []
    waiting := []
    posted := none
    replays := []
    bufA := none
    bufB := none
    intoB := false
    convs := [] }
  let s := ops.foldl (dropOp c) (modCask c clear s)
  reloadCells c (interrupt c (clearRegs (caskBlock c) (caskBlock c + 0x400) s))

/-- Threads that a reset frees: those of a rack. -/
def clearThreads (r : Nat) (s : State) : State := { s with threads := Store.clear (64 * r) (64 * r + 64) s.threads }

/-- A rack reset: its casks, threads, slots, units and memories; its slice of both banks and its match gains at 1.0 (R226, R407, Table
15.2). -/
def rackReset (r : Nat) (s : State) : State :=
  let s := (List.range 16).foldl (fun s j => caskReset (16 * r + j) s) s
  let s := clearRegs (0x1000000 + r * 0x10000) (0x1000000 + r * 0x10000 + 0x8000) s
  let s := setRack r { RackSt.init with resetAt := s.now } (clearThreads r (unitBanks r s))
  { s with mem := { s.mem with
    sp := Store.clear (0x80000 * r) (0x80000 * (r + 1)) s.mem.sp
    acc := Store.clear (accKey r 0 0 0) (accKey (r + 1) 0 0 0) s.mem.acc
    spBad := Store.clear (0x4000 * r) (0x4000 * (r + 1)) s.mem.spBad
    accBad := Store.clear (16 * r) (16 * (r + 1)) s.mem.accBad } }

/-- A slice's lines written back and gone (R408, R533), with the events of the poisons that made. -/
def flushSlice (q : Nat) (s : State) : State :=
  let lines := (s.mem.cline.filter fun e => decide (homeSlice e.1 = q)).map (·.1)
  lines.foldl (fun s l =>
    let r := evictLine l s.mem
    poisonEvents r.2 { s with mem := r.1 }) s

/-- Whether a slice holds a dirty line. -/
def sliceDirty (q : Nat) (s : State) : Bool := s.mem.csec.any fun e => e.2.dirty && decide (homeSlice (e.1 / 4) = q)

/-- A slice wiped: at once where nothing is dirty, otherwise once its lines are written back, which goes on from now (R408). -/
def wipeSlice (q : Nat) (s : State) : State :=
  if sliceDirty q s then { s with hang := { s.hang with flush := s.hang.flush ++ [q] } } else flushSlice q s

/-- A quadrant reset: its racks, its slice after write-back, its DMA engines, its credit pool (R107, R407, R408, Table 15.2). -/
def quadReset (q : Nat) (s : State) : State :=
  let s := (List.range 64).foldl (fun s j => rackReset (64 * q + j) s) s
  let s := wipeSlice q s
  { s with
    mem := { s.mem with dma := Store.clear (4 * q) (4 * q + 4) s.mem.dma }
    ledger := { s.ledger with books := Store.clear (32 * q) (32 * q + 32) s.ledger.books } }

/-- An engine reset in its domain; its reset is in progress from now on (R508, R509). -/
def resetEngine (escalated : Bool) (e : Engine) (s : State) : State :=
  let s := match e.domain with
    | 0 => caskReset e.unit s
    | 1 => rackReset e.unit s
    | _ => quadReset e.unit s
  { s with hang := { s.hang with resets := s.hang.resets ++ [(e, escalated, s.now)] } }

/-- The residual entries of a cask written anew from its shadow (R170, R409, R533). -/
def rewriteResid (s : State) (c : Nat) : State :=
  let k := getCask c s
  if k.racked && k.shadowOk then
    match readShadow none c s with
    | (some rows, s) => putResid c (pinWords c s) rows s
    | (none, s) => s
  else s

/-- A cask with nothing racked leaves reset, unless it must be erased first; a racked one leaves it with its reference read (R134). -/
def leaveReset (s : State) (c : Nat) : State :=
  let k := getCask c s
  if k.racked || k.incomplete then s else modCask c (fun k => { k with inReset := false }) s

/-- What the cellarer does for the racks of an engine that has been reset: residual tables, and the refold into both banks; casks with
nothing racked leave reset (R134, R170, R226, R409). -/
def restoreEngine (e : Engine) (s : State) : State :=
  let cs := (List.range 4096).filter fun c => e.coversCask c && (getCask c s).inReset
  let s := cs.foldl leaveReset s
  if e.domain = 0 then s
  else ((List.range 256).filter e.coversRack).foldl foldRackNow (cs.foldl rewriteResid s)

/-! ### Watchdogs (R503 to R505) -/

/-- Whether a thread is in one of the states that its budget counts. -/
def Thread.waits (k : Thread) : Bool :=
  decide (k.st = .waitMem) || decide (k.st = .waitCask) || decide (k.st = .waitSync) || decide (k.st = .waitDrain)

/-- The word of the instruction that a thread waits with: the one it issued, or, where it waits for its operands' loads, the word in memory
at its PC. -/
def waitingInsn (k : Thread) (s : State) : Word :=
  match k.wait with
  | some (.data _ _) => BitVec.ofNat 32 (leNat (peekAny k.pc.toNat 4 s))
  | _ => k.insn

/-- THREAD_BUDGET_EXPIRY: a thread has stayed in its wait for HG_THREAD_BUDGET: BUDGET (R503). -/
def execThreadBudgetExpiry (r : Rack) (t : Tid) (s : State) : Host.Outcome State Fault Refusal :=
  let k := getThread r.val t.val s
  let ms := budgetAt 0 k.since (rfield .HG_THREAD_BUDGET 0 0 15 0 s) s
  .next (if rflag .HG_CTRL 0 0 0 s && k.waits && decide (ms * 200000 ≤ elapsed 0 k.since 0 s) then trap r.val t.val 8 0 (waitingInsn k s) s
    else s)

/-- A guilty packet: the engine is reset again, the packet is aborted, the next suspect follows (R516). -/
def guilty (p : PktId) (i : Incident) (s : State) : State :=
  let s := i.engines.foldl (fun s e => resetEngine false e s) s
  let s := modIncident (fun i => { i with replaying := none }) (bump .HG_GUILTY 0 0 1 s)
  raiseEvent 0x0D04 i.engine.unit i.engine.domain (rget .HG_INCIDENTS 0 0 s).toNat (some p) (abortSuspect s p)

/-- The engines that a ring's packets in flight name: racks of their threads and engine work, quadrants of their COPY requests, casks held
for their RACK_LOAD or TOP_UP (R508). -/
def stalledEngines (ps : List PktId) (s : State) : List Engine :=
  let mine := fun (o : Option PktId) => ps.any fun p => decide (o = some p)
  let works := fun (f : PktId → Bool) => ps.any f
  ((s.threads.filter fun t => mine t.2.pkt && decide (t.2.st ≠ .free)).map fun t => ⟨1, t.1 / 64⟩) ++
    ((s.racks.filter fun r => works fun p => r.2.worksFor p).map fun r => ⟨1, r.1⟩) ++
    ((s.casks.filter fun c => works fun p => c.2.worksFor p).map fun c => ⟨1, c.1 / 16⟩) ++
    ((s.mem.dma.filter fun d => mine (d.2.copy.map (·.pkt))).map fun d => ⟨2, d.1 / 4⟩) ++
    ((s.cellar.active.filter fun a => mine (some a.2.1) && decide ((getCask a.1 s).hold = some .racking)).map fun a => ⟨0, a.1⟩) ++
    (ps.flatMap fun p => (toppedFor p s).map fun c => ⟨0, c⟩)

/-- What a watchdog that fires on some engines leads to: the packet that is being replayed on one of them is guilty where the watchdog is its
ring's or its cask's, else an incident is detected (R504, R505, R516). -/
def watchdogFires (es : List Engine) (fromCask : Bool) (own : PktId → Bool) (s : State) : State :=
  match s.hang.incident with
  | some i =>
    let here := es.any fun e => i.engines.any fun f => e.inside f || f.inside e
    match i.replaying with
    | some p => if own p && here then guilty p i s else openIncident es fromCask s
    | none => openIncident es fromCask s
  | none => openIncident es fromCask s

/-- RING_PROGRESS_EXPIRY: a ring's packets in flight have made no progress for HG_RING_BUDGET: an incident opens on their engines, or the
packet that is being replayed is guilty (R504, R508, R516). -/
def execRingProgressExpiry (n : RingId) (s : State) : Host.Outcome State Fault Refusal :=
  let r := getRing n.val s
  let ms := budgetAt 1 r.progress (rfield .HG_RING_BUDGET 0 0 19 0 s) s
  .next (if rflag .HG_CTRL 0 0 1 s && ringCounts n.val r s && decide (ms * 200000 ≤ elapsed 1 r.progress r.paused s) then
      watchdogFires (stalledEngines (flying n.val r) s) false (fun p => decide (p.ring = n))
        (modRing n.val (fun r => { r with progress := s.now, paused := 0 }) s)
    else s)

/-- CASK_WATCHDOG_EXPIRY: an operation in progress on a cask has not moved for HG_CASK_BUDGET: an incident opens on the cask, or the packet
that is being replayed on its engine is guilty (R505, R516). -/
def execCaskWatchdogExpiry (c : CaskId) (s : State) : Host.Outcome State Fault Refusal :=
  let k := getCask c.val s
  let us := budgetAt 2 k.progress (rfield .HG_CASK_BUDGET 0 0 15 0 s) s
  .next (if rflag .HG_CTRL 0 0 2 s && caskCounts c.val k s && !frozenWhere (·.coversCask c.val) s &&
      decide (us * 200 ≤ elapsed 2 k.progress k.paused s) then
      watchdogFires [⟨0, c.val⟩] true (fun _ => true) (modCask c.val (fun k => k.restart s.now) s)
    else s)

/-! ### Dumps (R519 to R522) -/

/-- A dump entry before its words are read: LOC's cask or rack and offset, KIND, and the words, at most 6, each present or not. -/
structure DumpEnt where
  unit : Nat
  off : Nat
  kind : Nat
  words : List Nat
  deriving DecidableEq, Repr

/-- The bytes of a space from byte a on as dump entries of 6 words each. -/
def dumpBytes (unit kind a : Nat) (bs : List Byte) : List DumpEnt :=
  ((piecesOf 24 ((bs.length + 23) / 24) bs).zipIdx).map fun e =>
    ⟨unit, a + 24 * e.2, kind, (List.range ((e.1.length + 3) / 4)).map fun w => leAt (4 * w) 4 e.1⟩

/-- The tile of a slot as it lies in AccMem (R238). -/
def tileBytes (r slot : Nat) (s : State) : List Byte :=
  (List.range 16).flatMap fun t => (List.range 256).flatMap fun c => leBytes 4 (patternOf 32 (accWord r slot t c s))

/-- The number that names a packet's ring, with its index above it. -/
def pktBytes (p : Option PktId) : List Byte :=
  match p with
  | some p => leBytes 4 p.ring.val ++ leBytes 4 p.idx.toNat
  | none => leBytes 8 0

/-- A thread in a dump: its RP_THREAD_STATE word and its PC (log entry 40). -/
def threadBytes (k : Thread) : List Byte := leBytes 4 (threadWord k).toNat ++ leBytes 8 k.pc.toNat

/-- A cask queue entry in a dump: its packet, slot, block and channel group, and its tile descriptor (log entry 40). -/
def opBytes (o : CaskOp) : List Byte :=
  pktBytes o.pkt ++ leBytes 1 o.slot ++ leBytes 1 o.block ++ leBytes 1 o.group ++ leBytes 13 0 ++ padTo 64 o.tile

/-- A slot in a dump: state, pending count and record (log entry 40). -/
def slotBytes (k : Slot) : List Byte :=
  leBytes 4 k.st ++ leBytes 4 k.pend ++ (match k.rec' with
    | some e => leBytes 8 e.scale ++ leBytes 1 e.token0 ++ leBytes 1 e.ntok ++ leBytes 2 e.group
    | none => [])

/-- A decant request in a dump: slot, whether it is a drop, its packet, and its descriptor (log entry 40). -/
def drainBytes (x : Drain) : List Byte := leBytes 1 x.slot ++ leBytes 1 x.isDrop.toNat ++ leBytes 2 0 ++ pktBytes x.pkt ++ x.desc

/-- An entry of the correction unit's queue in a dump: cask, next token, and the operation (log entry 40). -/
def corrBytes (w : CorrWork) : List Byte := leBytes 2 w.cask ++ leBytes 2 w.tok ++ opBytes w.op

/-- A ledger request in a dump: its cost, start window and age, and the step clock of its post (log entry 40). -/
def requestBytes (x : Posted) : List Byte := leBytes 4 x.req.cost ++ leBytes 4 x.start ++ leBytes 4 x.age ++ leBytes 8 x.since

/-- Things of a space one after another, each from a multiple of n bytes on. -/
def dumpEach (unit kind n : Nat) (bss : List (List Byte)) : List DumpEnt := bss.zipIdx.flatMap fun e => dumpBytes unit kind (n * e.2) e.1

/-- The racks of an incident's engines. -/
def incidentRacks (i : Incident) : List Nat := (List.range 256).filter fun r => i.engines.any (·.coversRack r)

/-- The sample of a dump: the first SP_KB KiB of each scratchpad, and the tiles of slots that suspects hold, each at its place among the
rack's tiles of 16 KiB (R238, Table 15.3). -/
def dumpSample (i : Incident) (s : State) : List DumpEnt :=
  (incidentRacks i).flatMap fun r =>
    dumpBytes r 1 0 (spRead r 0 (1024 * min 512 (rfield .HG_DUMP_CFG 0 0 9 0 s)) s) ++
      (((getRack r s).slots.filter fun k => decide (1 ≤ k.2.st ∧ k.2.st ≤ 3) && i.suspects.any fun p => decide (k.2.pkt = some p)).flatMap
        fun k => dumpBytes r 2 (0x4000 * k.1) (tileBytes r k.1 s))

/-- The state of a dump (Table 15.3): threads, cask queue entries with their tile descriptors, slots, decant and correction queues, ledger
requests, rings of the suspects by their status sectors, sync objects. -/
def dumpState (i : Incident) (s : State) : List DumpEnt :=
  let casks := (List.range 4096).filter fun c => i.engines.any (·.coversCask c)
  ((incidentRacks i).flatMap fun r =>
    dumpEach r 3 24 ((List.range 64).map fun t => threadBytes (getThread r t s)) ++
      dumpEach r 5 24 ((List.range 16).map fun k => slotBytes (getSlot r k s)) ++
      dumpEach r 6 144 ((getRack r s).drains.map drainBytes ++ (getRack r s).corr.map corrBytes)) ++
    (casks.flatMap fun c => dumpEach c 4 96 (((getCask c s).running.map (·.op) ++ (getCask c s).queue).map opBytes)) ++
    (casks.flatMap fun c => dumpEach c 7 24 ((getCask c s).posted.toList.map requestBytes)) ++
    ((i.suspects.map fun p => p.ring.val).eraseDups.flatMap fun n => dumpBytes 0 8 (32 * n) (getRing n s).sector) ++
    dumpBytes 0 9 0 ((List.range 65536).flatMap fun o => leBytes 4 (syncGet o s).toNat)

/-- The entries of a dump by DUMP_MODE. -/
def dumpEntries (i : Incident) (s : State) : List DumpEnt :=
  let m := rfield .HG_CTRL 0 0 5 4 s
  (if m % 2 = 1 then dumpSample i s else []) ++ if 2 ≤ m then dumpState i s else []

/-- Whether word w of a dump's entry could not be read: it is in the list, and the side port reads it; rings and sync objects lie outside the
engine and are read by ordinary reads (R520). -/
def wordLost (bad : List Nat) (e : DumpEnt × Nat) (w : Nat) : Bool :=
  decide (e.1.kind ≤ 7) && decide (w < e.1.words.length) && bad.contains (6 * e.2 + w)

/-- A dump entry's 32 bytes; words whose place in the dump is in a list could not be read (R520, Table 15.5). -/
def entryBytes (bad : List Nat) (e : DumpEnt × Nat) : List Byte :=
  let lost := wordLost bad e
  let valid := (List.range e.1.words.length).foldl (fun m w => if lost w then m else m + 2 ^ w) 0
  leBytes 6 (e.1.off + 2 ^ 36 * e.1.unit) ++ leBytes 1 valid ++ leBytes 1 e.1.kind ++
    (List.range 6).flatMap fun w => leBytes 4 (if lost w then 0xFFFFFFFF else nthD 0 w e.1.words)

/-- A suspect's word in a dump header (Table 15.4). -/
def suspectWord (p : PktId) (s : State) : Nat :=
  p.ring.val + 2 ^ 16 * p.idx.toNat + 2 ^ 48 * (pktFl 2 (((findPkt p s).map (·.bytes)).getD [])).toNat

/-- The header of a dump (Table 15.4). -/
def dumpHeader (i : Incident) (cut : Bool) (lost n : Nat) (s : State) : List Byte :=
  let e := i.engine
  padTo 4096 (padTo 64 (([0x48, 0x44, 0x4D, 0x50] : List Nat).map (BitVec.ofNat 8) ++ leBytes 4 (rget .HG_INCIDENTS 0 0 s).toNat ++
    leBytes 1 i.fromCask.toNat ++ leBytes 1 e.domain ++ leBytes 2 e.unit ++ leBytes 1 (rfield .HG_CTRL 0 0 5 4 s) ++
    leBytes 1 (1 + 2 * cut.toNat) ++ leBytes 2 i.suspects.length ++ leBytes 8 i.step ++ leBytes 8 (patternOf 64 i.pos) ++
    leBytes 4 i.frame ++ leBytes 4 lost ++ leBytes 4 n ++ leBytes 4 ((s.now - i.frozenAt) / 200)) ++
    (i.suspects.take 504).flatMap fun p => leBytes 8 (suspectWord p s))

/-- A dump of n entries written: entries first, the header last; EV_DUMP_DONE (R519 to R522). -/
def writeDump (i : Incident) (cut : Bool) (n : Nat) (bad : List Nat) (s : State) : State :=
  let es := (dumpEntries i s).take n
  let lost := (es.zipIdx.map fun e => ((List.range 6).filter (wordLost bad e)).length).sum
  let base := rpair .HG_DUMP_BASE_LO .HG_DUMP_BASE_HI 0 s
  let head := dumpHeader i cut lost es.length s
  let s := dramStore (base + 4096) (es.zipIdx.flatMap (entryBytes bad)) s
  let s := rput .HG_DUMP_STATUS 0 0 31 31 1 (dramStore base head s)
  let s := { s with hang := { s.hang with truncated := cut, unreadable := lost } }
  raiseEvent 0x0D02 i.engine.unit cut.toNat lost none (modIncident (fun i => { i with dumped := true }) s)

/-- Whether the incident in progress writes a dump: a mode is set and the last dump need not be kept (R522, Table 15.3). -/
def wantsDump (s : State) : Bool :=
  decide (rfield .HG_CTRL 0 0 5 4 s ≠ 0) && !(rflag .HG_DUMP_STATUS 0 0 31 s && rflag .HG_CTRL 0 0 9 s)

/-- DUMP: the cellarer reads the frozen engine through its side port and writes the dump (R520, R521). unreadable: the words, counted
through the dump's entries, that time out or fail parity. -/
def execDump (unreadable : List Nat) (s : State) : Host.Outcome State Fault Refusal :=
  .next (match s.hang.incident with
    | some i =>
      if decide (i.phase = 1) && !i.dumped && wantsDump s then writeDump i false (dumpEntries i s).length unreadable s else s
    | none => s)

/-- DUMP_TIME_LIMIT: MAX_MS has passed since the freeze: the dump stops with the entries written so far (R520). -/
def execDumpTimeLimit (written : Nat) (unreadable : List Nat) (s : State) : Host.Outcome State Fault Refusal :=
  .next (match s.hang.incident with
    | some i =>
      if decide (i.phase = 1) && !i.dumped && wantsDump s && decide (i.frozenAt + rfield .HG_DUMP_CFG 0 0 23 16 s * 200000 ≤ s.now) then
        writeDump i true written unreadable s
      else s
    | none => s)

/-! ### Reset, replay and return to service (R508 to R510, R513 to R517, R523) -/

/-- ENGINE_RESET: the incident's engines are reset once the dump is over (R508, R513). -/
def execEngineReset (s : State) : Host.Outcome State Fault Refusal :=
  .next (match s.hang.incident with
    | some i =>
      if decide (i.phase = 1) && (i.dumped || !wantsDump s) then
        i.engines.foldl (fun s e => resetEngine false e s) (modIncident (fun i => { i with phase := 2 }) s)
      else s
    | none => s)

/-- Suspects that may not be replayed are aborted; the others wait for their replay in the order of their starts (R513). -/
def sortSuspects (s : State) : State :=
  match s.hang.incident with
  | some i =>
    if i.phase = 2 then
      let noReplay := fun p => !rflag .HG_CTRL 0 0 8 s || pktFl 2 (((findPkt p s).map (·.bytes)).getD [])
      let live := i.suspects.filter fun p => (allFlying s).contains p
      let s := modIncident (fun i => { i with phase := 3, waiting := live.filter fun p => !noReplay p }) s
      maybeEnd ((live.filter noReplay).foldl abortSuspect s)
    else maybeEnd s
  | none => s

/-- The slices of quadrants in reset written back and wiped (R408). -/
def endFlush (s : State) : State := s.hang.flush.foldl (fun s q => flushSlice q s) { s with hang := { s.hang with flush := [] } }

/-- ENGINE_RESET_DONE: a part of the engine resets in progress completes: the write-back of the slices that a quadrant reset wipes (R408, log
entry 143); with none left, the resets: EV_ENGINE_RESET for each, what the cellarer writes anew, then the suspects (R509, R510, R513). -/
def execEngineResetDone (s : State) : Host.Outcome State Fault Refusal :=
  .next (if s.hang.resets.isEmpty then s
    else if !s.hang.flush.isEmpty then endFlush s
    else
      let rs := s.hang.resets
      let s := { s with hang := { s.hang with resets := [] } }
      sortSuspects (rs.foldl (fun s e =>
        raiseEvent 0x0D03 e.1.unit (e.1.domain + 2 ^ 8 * e.2.1.toNat) 0 none (restoreEngine e.1 s)) s))

/-- SUSPECT_REPLAY: the earliest suspect that waits runs again from its start (R513, R514). A suspect that is no longer in flight is passed
over. -/
def execSuspectReplay (s : State) : Host.Outcome State Fault Refusal :=
  .next (match s.hang.incident with
    | some i =>
      match i.waiting with
      | p :: rest =>
        if decide (i.phase = 3) && i.replaying.isNone && s.hang.resets.isEmpty then
          let s := modIncident (fun i => { i with waiting := rest }) s
          if (allFlying s).contains p then
            replayPkt p (modIncident (fun i => { i with replaying := some p }) (bump .HG_REPLAYS 0 0 1 s))
          else maybeEnd s
        else s
      | [] => s
    | none => s)

/-- Whether UNIT names a unit of a domain. -/
def unitOk (d u : Nat) : Bool :=
  match d with
  | 0 => decide (u < 4096)
  | 1 => decide (u < 256)
  | 2 => decide (u < 4)
  | 3 => true
  | 4 => true
  | _ => false

/-- What a write to HG_RESUME does: discarded where DOMAIN or UNIT names no engine (R524, R564), unless ALL is 1; else, with GO 1, engines
return to service (R523). -/
def hostResume (v : Word) (s : State) : State :=
  let e : Engine := ⟨fieldOf 18 16 v, fieldOf 11 0 v⟩
  if !flagOf 30 v && (decide (2 < e.domain) || !unitOk e.domain e.unit) then rejectWrite .HG_RESUME 0 0 s
  else if !flagOf 31 v then s
  else
    let out := s.hang.oos.filter fun x => flagOf 30 v || decide (x = e)
    let s := { s with hang := { s.hang with oos := s.hang.oos.filter fun x => !out.contains x } }
    out.foldl (fun s x => raiseEvent 0x0D06 x.unit (x.domain + 2 ^ 8) (recentCount x s) none s) s

/-- HOST_RESUME: a host write to HG_RESUME. -/
def execHostResume (v : Word) (s : State) : Host.Outcome State Fault Refusal := .next (hostWrite .HG_RESUME 0 0 (hostResume v) s)

/-- A watchdog newly enabled: its counters restart at 0 (R506). -/
def enableWatchdog (k : Nat) (s : State) : State :=
  { s with
    hang := { s.hang with enabledAt := s.hang.enabledAt.put k s.now }
    rings := if k = 1 then s.rings.mapV fun _ r => { r with paused := 0 } else s.rings
    casks := if k = 2 then s.casks.mapV fun _ c => { c with paused := 0 } else s.casks }

/-- A write to HG_CTRL or a budget register: its fields; a watchdog newly enabled starts its counters at 0, and a running counter keeps
the budget it started with (R506). -/
def hangConfig (n : RegName) (v : Word) (s : State) : State :=
  let old := s
  let s := storeWrite n 0 0 v s
  let on := fun (s : State) (k : Nat) => if flagOf k (rget .HG_CTRL 0 0 s) && !flagOf k (rget .HG_CTRL 0 0 old) then
      enableWatchdog k s
    else s
  let note := fun (k : Nat) (s : State) =>
    if rget n 0 0 s = rget n 0 0 old then s
    else { s with hang := { s.hang with budgets := s.hang.budgets ++ [(k, s.now, (rget n 0 0 old).toNat)] } }
  match n with
  | .HG_CTRL => (List.range 3).foldl on s
  | .HG_THREAD_BUDGET => note 0 s
  | .HG_RING_BUDGET => note 1 s
  | .HG_CASK_BUDGET => note 2 s
  | _ => s

end Sys2Proof.Machine
end

