-- ==== Sys2Proof/Machine/Resets.lean ====
section
/-! DEFINITION. The resets of the device and what starts them, escalation, and resets at host request (R407, R409, R423, R424, R444,
R507, R509, R511, R526 to R530, R535, R554, R561). -/

namespace Sys2Proof.Machine

/-! ### Device resets (R407, R409, R535, Table 16.3) -/

/-- A cask after a device reset: what its cells, its row table and configuration NVM hold, and nothing else. -/
def Cask.afterReset (k : Cask) : Cask := { Cask.init with
  racked := k.racked
  incomplete := k.incomplete
  chkLost := k.chkLost
  retired := k.retired
  digest := k.digest
  cells := k.cells
  rows := k.rows
  levels := k.levels
  lSum := k.lSum
  lCnt := k.lCnt
  cycles8 := k.cycles8
  refA0 := k.refA0
  refB0 := k.refB0 }

/-- The power domains that are off after a reset: the ports, and PCI Express where its strap is low (R531). -/
def offAfterReset (pcie : Bool) : KeySet :=
  (if pcie then [] else [(73, ())]) ++ [(74, ()), (75, ()), (76, ()), (77, ())]

/-- Power, boot and security after a device reset: fuses, NVM and straps stay, the boot flow starts again. power: after a loss of power,
when no journal entry that waited is left (R529, R548). -/
def Pm.afterReset (power : Bool) (cause : Nat) (p : Pm) : Pm := { p with
  domainOff := offAfterReset p.pcieEn
  goingOff := []
  goingOn := []
  onAfter := []
  stage := 0
  bootImg := 0
  err0 := 0
  err1 := 0
  svn := 0
  key3 := false
  imgDigest := List.replicate 48 0
  cleanBoot := !power
  fwReady := false
  wiped := false
  atRun := none
  atResult := 0
  waiting := if power then [] else p.waiting
  lost := if power then 0 else p.lost
  libBase := none
  kernels := []
  libDue := false
  bootStep := 0
  warm := false
  rowsCut := 0
  cause := cause }

/-- The host link after a reset: nothing waits, no vector is pending, the table is unwritten, BAR4 has 64 GiB (R417); a reset from the host link or a loss of
power takes its configuration space too (R423, R424). -/
def Px.afterReset (conf : Bool) (p : Px) : Px :=
  if conf then { Px.init with perst := p.perst, subsys := p.subsys }
  else { p with msix := [], pba := [], upstream := [], bar4Log2 := 36 }

/-- A device warm or cold reset: every on-die SRAM and DRAM wiped, every register at its reset value; weights, configuration cells,
configuration NVM, fuses and pins stay (R407, R444, R535). conf: configuration space is lost. -/
def deviceReset (power conf : Bool) (cause : Nat) (s : State) : State := { State.reset with
  freeCtr := s.freeCtr
  nextOp := s.nextOp
  pending := s.pending
  casks := s.casks.mapV fun _ k => k.afterReset
  cellar := { Cellar.init with digest := s.cellar.digest }
  sent := s.sent
  px := s.px.afterReset conf
  bv := { Bv.init with epoch := s.bv.epoch, nextMsg := s.bv.nextMsg }
  pos := { Pos.init with a := s.pos.a, b := s.pos.b }
  cal := { Cal.init with
    slotA := s.cal.slotA
    slotB := s.cal.slotB
    factory := s.cal.factory
    inForce := s.cal.inForce
    highest := s.cal.highest }
  pm := s.pm.afterReset power cause }

/-- A device warm reset. -/
def warmReset (conf : Bool) (cause : Nat) (s : State) : State :=
  let s := deviceReset false conf cause s
  { s with pm := { s.pm with warm := true } }

/-- DEVICE_WARM_RESET, by cause: 2 hot reset, 3 link down, 4 Function Level Reset, 5 HG_RESET, 6 escalation, 7 the cellarer's watchdog
(Tables 15.13, 16.3). -/
def execDeviceWarmReset (cause : BitVec 4) (s : State) : Host.Outcome State Fault Refusal :=
  let c := cause.toNat
  .next (if 2 ≤ c ∧ c ≤ 7 then warmReset (decide (c ≤ 3)) c s else s)

/-- COLD_RESET, by cause: 0 power-on or a loss of power, 1 PERST#, 5 HG_RESET, 8 a life-cycle change (Tables 15.13, 16.3). -/
def execColdReset (cause : BitVec 4) (s : State) : Host.Outcome State Fault Refusal :=
  let c := cause.toNat
  .next (if c = 0 ∨ c = 1 ∨ c = 5 ∨ c = 8 then deviceReset (decide (c = 0)) (decide (c ≤ 1)) c s else s)

/-! ### Resets from the host link (R412, R423, R424, Table 12.4) -/

/-- PERST_ASSERT: a cold reset, held while PERST# is asserted. -/
def execPerstAssert (s : State) : Host.Outcome State Fault Refusal :=
  .next (deviceReset false true 1 { s with px := { s.px with perst := true } })

/-- PERST_RELEASE: configuration space can come up. -/
def execPerstRelease (s : State) : Host.Outcome State Fault Refusal := .next { s with px := { s.px with perst := false } }

/-- HOT_RESET: a device warm reset. -/
def execHotReset (s : State) : Host.Outcome State Fault Refusal := .next (warmReset true 2 s)

/-- DL_DOWN: the link goes down: a device warm reset. -/
def execDlDown (s : State) : Host.Outcome State Fault Refusal := .next (if s.px.linkUp then warmReset true 3 s else s)

/-- FUNCTION_LEVEL_RESET: a device warm reset; the function loses its enables and its MSI-X state, the link stays up. -/
def execFunctionLevelReset (s : State) : Host.Outcome State Fault Refusal :=
  let p := s.px
  let px := { Px.init with
    perst := p.perst
    cfgReady := p.cfgReady
    linkUp := p.linkUp
    width := p.width
    speed := p.speed
    linkCtl := p.linkCtl
    aer := p.aer
    aerFirst := p.aerFirst
    aerHdr := p.aerHdr
    subsys := p.subsys }
  .next (warmReset false 4 { s with px := px })

/-- CONFIG_REQUEST: retried until configuration space is ready, then answered; a write that initiates a Function Level Reset starts it (R422
to R424). A function held in cold reset or without its domain answers nothing (R528, R554, R561). -/
def execConfigRequest (off : Nat) (wr : Option Word) (s : State) : Host.Outcome State Fault Refusal :=
  let a := off % 4096 / 4 * 4
  if s.px.perst || s.pm.coldHold || !s.pm.pcieEn then .next s
  else if !s.px.cfgReady then .next (respond .crs s)
  else match wr with
    | some v => if cfgReg a = .devCtl ∧ flagOf 15 v then execFunctionLevelReset s else .next (cfgPut a v s)
    | none => .next (respond (.cfgData (cfgGet a s)) s)

/-- Whether the device trains to a width and a speed: ×1, ×2, ×4 or ×8 at one of five rates (R412, Table 12.9). -/
def linkRate (width speed : Nat) : Bool := [1, 2, 4, 8].contains width && decide (1 ≤ speed) && decide (speed ≤ 5)

/-- PCIE_LINK_UP: the link is trained: LINK_UP, WIDTH and SPEED; configuration space answers from here on (R412, R424, log entry 41). -/
def execPcieLinkUp (width : Fin 16) (speed : Fin 8) (s : State) : Host.Outcome State Fault Refusal :=
  .next (if !linkRate width.val speed.val || s.px.perst || !s.pm.pcieEn || s.pm.coldHold || !s.pm.rails then s
    else { s with px := { s.px with linkUp := true, width := width.val, speed := speed.val, cfgReady := true } })

/-! ### Supplies (R526 to R530, R554) -/

/-- POWER_ON: the rails of groups 1 to 3 have risen; the device holds itself in cold reset (R528). VPP follows later (R527). -/
def execPowerOn (s : State) : Host.Outcome State Fault Refusal :=
  .next (if s.pm.rails then s
    else
      let s := deviceReset true true 0 s
      { s with pm := { s.pm with rails := true, vppOk := false, coldHold := true, testEn := false } })

/-- RAIL_UNDERVOLTAGE: a rail of groups 1 to 3 stays below its threshold for 1 µs: cold reset, held until the rails are back (R528, R529);
loss of VDDIO releases a thermal trip (R561). -/
def execRailUndervoltage (rail : Rail) (s : State) : Host.Outcome State Fault Refusal :=
  .next (if rail = .vpp then s
    else
      let s := deviceReset true true 0 s
      { s with pm := { s.pm with rails := false, coldHold := true, thermTrip := s.pm.thermTrip && decide (rail ≠ .vddio) } })

/-- COLD_RESET_HOLD_END: 1 ms after the last rail the hold ends and the straps are sampled; with TEST_EN high the device does not leave cold
reset, and a thermal trip holds it too (R528, R554, R561). -/
def execColdResetHoldEnd (bootSrc pcieEn testEn : Bool) (s : State) : Host.Outcome State Fault Refusal :=
  .next (if s.pm.rails && s.pm.coldHold && !s.pm.testEn && !s.pm.thermTrip then
      { s with pm := { s.pm with
        coldHold := testEn
        bootSrc := bootSrc
        pcieEn := pcieEn
        testEn := testEn
        domainOff := offAfterReset pcieEn } }
    else s)

/-- Whether a cask may have a pulse in progress: it programs a row and holds its credit (R109, R124). -/
def pulsing (c : Nat) (s : State) : Bool :=
  (vppSentAt c s).isNone && (match (getCask c s).prog with
    | some p => p.reading && decide (0 < p.cycles) && !p.fit
    | none => false)

/-- The casks that have a pulse in progress as VPP falls: which of those that program a row do is physical (R530, log entry 5). -/
def cutCasks (s : State) : List Nat :=
  ((s.ledger.vppHeld.filter fun c => pulsing c s).zipIdx.filter fun e => flagOf 0 (Config.freeWord (s.freeCtr + e.2))).map (·.1)

/-- A row whose pulse was cut off. -/
def cutRow (s : State) (c : Nat) : State :=
  modCask c (fun k => { k with prog := k.prog.map fun p => { p.fresh with cut := true } }) s

/-- VPP_LOST: VPP falls below its threshold; pulses in progress are cut off, one row in each cask (R530). -/
def execVppLost (s : State) : Host.Outcome State Fault Refusal :=
  let cut := cutCasks s
  .next (if s.pm.vppOk then
      let s := cut.foldl cutRow { s with
        pm := { s.pm with vppOk := false, rowsCut := cut.length }
        freeCtr := s.freeCtr + s.ledger.vppHeld.length }
      if s.pm.coldHold then s else raiseEvent 0x0E01 0 1 cut.length none s
    else s)

/-! ### Thermal (R560, R561) -/

/-- THERM_ALERT: the comparators on the eight sensors, by grade: low at 100 or 90 °C and above, released when all are below 95 or 85 °C
(R560, Table 17.6). -/
def execThermAlert (temps : List Int) (s : State) : Host.Outcome State Fault Refusal :=
  let hot : Int := if s.pm.grade = 1 then 100 else 90
  .next (if temps.any (fun t => decide (hot ≤ t)) then { s with pm := { s.pm with thermAlert := true } }
    else if temps.all (fun t => decide (t < hot - 5)) then { s with pm := { s.pm with thermAlert := false } }
    else s)

/-- THERMTRIP: a sensor has been at the trip value for 10 µs: THERMTRIP# low, everything stops in a cold reset, both held until VDDIO
falls (R561). -/
def execThermtrip (s : State) : Host.Outcome State Fault Refusal :=
  .next (let s := deviceReset true true 0 s
    { s with pm := { s.pm with thermTrip := true, coldHold := true } })

/-! ### Resets at host request and escalation (R507, R509, R511) -/

/-- Whether a unit is in recovery, or lies inside an engine that is. -/
def inRecovery (e : Engine) (s : State) : Bool :=
  (match s.hang.incident with
    | some i => i.engines.any fun f => e.inside f
    | none => false) || s.hang.resets.any fun x => e.inside x.1

/-- Every packet with work on an engine completes with ABORTED (R511). -/
def abortOn (e : Engine) (s : State) : State :=
  ((allFlying s).filter fun p => engineHas e p s).foldl (fun s p => abortPkt p s) s

/-- What a write to HG_RESET does: discarded where DOMAIN or UNIT names none (R524, R564), else, with GO 1, the reset (R511). -/
def resetRequest (v : Word) (s : State) : State :=
  let e : Engine := ⟨fieldOf 18 16 v, fieldOf 11 0 v⟩
  if !unitOk e.domain e.unit then rejectWrite .HG_RESET 0 0 s
  else if !flagOf 31 v then s
  else if e.domain = 3 then warmReset false 5 s
  else if e.domain = 4 then deviceReset false false 5 s
  else if inRecovery e s then writeBusy (regOff .HG_RESET 0 0) s
  else resetEngine false e (abortOn e s)

/-- HOST_RESET: a host write to HG_RESET. -/
def execHostReset (v : Word) (s : State) : Host.Outcome State Fault Refusal := .next (hostWrite .HG_RESET 0 0 (resetRequest v) s)

/-- CELLARER_WATCHDOG: the cellarer's firmware has not restarted its watchdog for 250 ms: a device warm reset (R507). -/
def execCellarerWatchdog (s : State) : Host.Outcome State Fault Refusal := .next (warmReset false 7 s)

/-- The step clocks within which an engine reset must be over (Table 15.2). -/
def resetLimit (d : Nat) : Nat := if d = 0 then 800 else if d = 1 then 4000 else 30000

/-- Whether an engine reset that began at a step clock is overdue: in whole, or in the write-back of a quadrant's slice, which is over within
100 µs (R408, R509). -/
def resetOverdue (x : Engine × Bool × Nat) (s : State) : Bool :=
  decide (x.2.2 + resetLimit x.1.domain ≤ s.now) ||
    (decide (x.1.domain = 2) && s.hang.flush.contains x.1.unit && decide (x.2.2 + 20000 < s.now))

/-- The engine of the next domain up (Table 15.2). -/
def Engine.up (e : Engine) : Engine := if e.domain = 0 then ⟨1, e.unit / 16⟩ else if e.domain = 1 then ⟨2, e.unit / 64⟩ else ⟨3, 0⟩

/-- The packets that the larger domain of an escalation reaches: they join the suspects of the incident whose engine was reset, or are
aborted where host software asked for the reset (R509, R511, log entry 42). -/
def escalatePkts (e f : Engine) (s : State) : State :=
  match s.hang.incident with
  | some i =>
    if i.engines.any fun x => e.inside x then
      let sus := (suspectsOf [f] s).foldr (insertStarted s) i.suspects
      holdThreads { i with engines := insertEngine f i.engines, suspects := sus }
        (modIncident (fun i => { i with engines := insertEngine f i.engines, suspects := sus }) s)
    else abortOn f s
  | none => abortOn f s

/-- The step clocks within which a device warm reset has wiped its memories: 2 ms for the journal's entries, 50 µs for the SRAMs, and the DRAM
wipe of the capacity fitted (Tables 11.1, 15.2, 16.4). -/
def wipeLimit (s : State) : Nat := 410000 + 200000 * (if s.pm.capacity = 1 then 64 else if s.pm.capacity = 2 then 127 else 253)

/-- Whether a device warm reset has not wiped the device in its time (R409, R509; log entry 138). -/
def warmOverdue (s : State) : Bool := s.pm.warm && !s.pm.wiped && decide (wipeLimit s ≤ s.now)

/-- RESET_ESCALATION: a reset has not completed in its time: the reset of the next domain up begins; above a quadrant that is a device warm
reset, above that a cold reset; either raises its event before it wipes the queues (R408, R509). -/
def execResetEscalation (s : State) : Host.Outcome State Fault Refusal :=
  .next (if warmOverdue s then deviceReset false false 6 (raiseEvent 0x0D03 0 (4 + 2 ^ 8) 0 none s)
    else match s.hang.resets.find? fun x => resetOverdue x s with
    | some x =>
      let f := x.1.up
      if f.domain = 3 then warmReset false 6 (raiseEvent 0x0D03 0 (3 + 2 ^ 8) 0 none s)
      else
        let s := escalatePkts x.1 f s
        resetEngine true f { s with hang := { s.hang with resets := s.hang.resets.filter fun y => decide (y ≠ x) } }
    | none => s)

end Sys2Proof.Machine
end

