-- ==== Sys2Proof/Machine/Power.lean ====
section
/-! DEFINITION. Switched power domains: requests, conditions, what a domain does as it goes off and as it comes back on (R107, R531 to
R534). -/

namespace Sys2Proof.Machine

/-! ### Conditions (Table 16.2) -/

/-- The racks of a rack group. -/
def groupRacks (g : Nat) : List Nat := (List.range 4).map fun j => 4 * g + j

/-- Whether the condition of Table 16.2 to turn a domain off holds. -/
def mayTurnOff (d : Nat) (s : State) : Bool :=
  if d < 64 then (groupRacks d).all fun r => rackQuiesced r s && decide (activeThreads r s = 0)
  else if d < 68 then !(s.rings.any fun e => e.2.ctx.resident && decide (e.2.st = .active))
  else if d < 72 then (List.range 1024).all fun j => caskQuiesced (1024 * (d - 68) + j) s && (getCask (1024 * (d - 68) + j) s).hold.isNone
  else if d = 72 then allDisabled s && ((List.range 64).all fun g => domainIsOff g s) && dmaQuiesced s
  else if d = 79 then adcQuiesced s
  else false

/-- Whether PM_ON controls a domain (Table 16.2). -/
def switched (d : Nat) : Bool := decide (d ≤ 72) || decide (d = 79)

/-- The PM_ON bit of a domain: 1 while it is on or asked on (R531, R532); a domain without a PM_ON control reads the state in force (Table
16.14). -/
def askedOn (d : Nat) (s : State) : Bool :=
  if switched d then (!domainIsOff d s && !goingOff d s) || s.pm.goingOn.has d || s.pm.onAfter.has d
  else decide (d < 80) && !domainIsOff d s

/-- The books of a quadrant's window credits empty: every held credit reclaimed, FREE equal to LIMIT (R107). -/
def reclaim (q : Nat) (s : State) : State :=
  { s with ledger := { s.ledger with books := Store.clear (32 * q) (32 * q + 32) s.ledger.books } }

/-! ### Requests (R531, R532) -/

/-- A domain requested off: refused where its condition does not hold, else on its way off (R107, R532). -/
def domainOff (d : Nat) (s : State) : State :=
  if !switched d || (domainIsOff d s && !s.pm.goingOn.has d) then s
  else if goingOff d s then { s with pm := { s.pm with onAfter := Store.drop d s.pm.onAfter } }
  else if mayTurnOff d s then
    let s := { s with pm := { s.pm with goingOff := s.pm.goingOff.add d, goingOn := Store.drop d s.pm.goingOn } }
    if 68 ≤ d ∧ d < 72 then reclaim (d - 68) s else s
  else raiseEvent 0x0E02 d 0 0 none s

/-- A domain requested on: it powers up, or does so once it is off; a rack group that would end the quiesce of the DRAM controller stays as
it is (R532). -/
def domainOn (d : Nat) (s : State) : State :=
  if !switched d then s
  else if goingOff d s then { s with pm := { s.pm with onAfter := s.pm.onAfter.add d } }
  else if !domainIsOff d s then s
  else if decide (d < 64) && goingOff 72 s then writeBusy (regOff .PM_ON 0 (d / 32)) s
  else { s with pm := { s.pm with goingOn := s.pm.goingOn.add d } }

/-- PM_DOMAIN_OFF: a host write to PM_ON that clears a domain's bit. -/
def execPmDomainOff (d : Fin 80) (s : State) : Host.Outcome State Fault Refusal :=
  .next (hostWrite .PM_ON 0 (d.val / 32) (domainOff d.val) s)

/-- PM_DOMAIN_ON: a host write to PM_ON that sets a domain's bit. -/
def execPmDomainOn (d : Fin 80) (s : State) : Host.Outcome State Fault Refusal :=
  .next (hostWrite .PM_ON 0 (d.val / 32) (domainOn d.val) s)

/-! ### Off and on (R533) -/

/-- What goes with a domain that is off: dirty lines are written back, DAC outputs are high-impedance, trigger outputs are driven low. -/
def goneOff (d : Nat) (s : State) : State :=
  if 64 ≤ d ∧ d < 68 then flushSlice (d - 64) s
  else if d = 79 then
    { s with fe := { s.fe with
      dacs := s.fe.dacs.mapV fun _ k => { k with hiZ := true }
      trigs := s.fe.trigs.mapV fun _ k => { k with active := false } } }
  else s

/-- DOMAIN_POWER_DOWN_DONE: a domain on its way off reports off; a request to turn it on that came meanwhile is carried out (R107, R532). -/
def execDomainPowerDownDone (d : Fin 80) (s : State) : Host.Outcome State Fault Refusal :=
  let n := d.val
  .next (if goingOff n s then
      let s := goneOff n s
      let again := s.pm.onAfter.has n
      { s with pm := { s.pm with
        domainOff := s.pm.domainOff.add n
        goingOff := Store.drop n s.pm.goingOff
        onAfter := Store.drop n s.pm.onAfter
        goingOn := if again then s.pm.goingOn.add n else s.pm.goingOn } }
    else s)

/-- A rack group that is on again: each rack takes a rack reset, its residual tables are rewritten and its groups refolded; its casks stay in
reset until their reference reads (R134, R170, R226, R409, R533). -/
def groupOn (g : Nat) (s : State) : State := (groupRacks g).foldl (fun s r => restoreEngine ⟨1, r⟩ (rackReset r s)) s

/-- A bias domain that is on again: every racked cask is held until its reference read (R107, R533). -/
def biasBack (q : Nat) (s : State) : State :=
  let hold := fun s c =>
    let k := getCask c s
    if k.racked && k.hold.isNone then setCask c { k with hold := some .domain } s else s
  ((List.range 1024).map fun j => 1024 * q + j).foldl hold (reclaim q s)

/-- The front end on again: registers at their reset values, each DAC channel with its DEFAULT (R470, R533). -/
def frontEndOn (s : State) : State := (List.range 8).foldl (fun s n => loadDefault n s) (feReset (clearRegs 0x401000 0x402000 s))

/-- DOMAIN_POWER_UP_DONE: a domain is on, and its racks, casks or front end are brought back (R533). A slice comes up empty. -/
def execDomainPowerUpDone (d : Fin 80) (s : State) : Host.Outcome State Fault Refusal :=
  let n := d.val
  .next (if s.pm.goingOn.has n then
      let s := { s with pm := { s.pm with domainOff := Store.drop n s.pm.domainOff, goingOn := Store.drop n s.pm.goingOn } }
      if n < 64 then groupOn n s
      else if 68 ≤ n ∧ n < 72 then biasBack (n - 68) s
      else if n = 79 then frontEndOn s
      else s
    else s)

end Sys2Proof.Machine
end

