-- ==== Sys2Proof/Machine/Boot.lean ====
section
/-! DEFINITION. The boot flow and boot trust, life cycle, attestation, the change journal, and VPP's return (R134, R135, R434, R470, R500,
R530, R536 to R549). -/

namespace Sys2Proof.Machine

/-! ### The change journal (R546 to R549) -/

/-- The 64 bytes of a journal entry with its sequence number and its CRC (Table 16.11). -/
def journalBytes (seq : Nat) (e : JEntry) : List Byte :=
  let body := padTo 60 (leBytes 4 seq ++ leBytes 1 e.kind ++ leBytes 1 e.source ++ leBytes 2 e.unit ++ leBytes 8 e.step ++
    leBytes 8 (patternOf 64 e.pos) ++ leBytes 4 e.frame ++ leBytes 4 e.reg ++ leBytes 4 e.gen ++ leBytes 4 e.old.toNat ++
    leBytes 4 e.new.toNat ++ leBytes 4 e.count)
  body ++ leBytes 4 (crc32c body).toNat

/-- An entry written to NVM: the next SEQ, in the place of the oldest entry once 4,096 are held (R547). -/
def storeEntry (s : State) (e : JEntry) : State :=
  { s with pm := { s.pm with
    journal := s.pm.journal.put (s.pm.nextSeq % 4096) (journalBytes s.pm.nextSeq e)
    nextSeq := s.pm.nextSeq + 1 } }

/-- A journal entry of the present moment. -/
def entryNow (kind source reg : Nat) (old new : Word) (s : State) : JEntry :=
  ⟨kind, source, 0, s.now, posUm s, posFrame s % 2 ^ 32, reg, 0, old, new, 1⟩

/-- The entry that reports lost entries, once there is space for it (R548). -/
def reportLost (s : State) : State :=
  if 0 < s.pm.lost ∧ s.pm.waiting.length < 64 then
    journal 9 1 0 0 0 0 (BitVec.ofNat 32 s.pm.lost) { s with pm := { s.pm with lost := 0 } }
  else s

/-- JOURNAL_WRITE: the entry that has waited longest is in NVM (R548). -/
def execJournalWrite (s : State) : Host.Outcome State Fault Refusal :=
  .next (match s.pm.waiting with
    | e :: rest => reportLost (storeEntry { s with pm := { s.pm with waiting := rest } } e)
    | [] => s)

/-- The entry that the journal holds for a SEQ, if it holds one (R549). -/
def journalHeld (seq : Nat) (s : State) : Option (List Byte) :=
  (s.pm.journal.find (seq % 4096)).filter fun b => decide (leAt 0 4 b = seq)

/-- A write to JR_SEL: the selected entry is there to read, or MISS is set (R549). -/
def jrSelect (v : Word) (s : State) : State :=
  let e := journalHeld v.toNat s
  let s := rput .JR_STATUS 0 0 31 31 e.isNone.toNat (rset .JR_SEL 0 0 v s)
  (List.range 16).foldl (fun s k => rset .JR_DATA 0 k (BitVec.ofNat 32 (leAt (4 * k) 4 (e.getD []))) s) s

/-- JR_SEL_WRITE. -/
def execJrSelWrite (v : Word) (s : State) : Host.Outcome State Fault Refusal := .next (hostWrite .JR_SEL 0 0 (jrSelect v) s)

/-! ### Erasure of every cask (R542, R543) -/

/-- Every cask erased, its configuration cells and row table too, and the digests cleared; program cycles stay (R80, R86, R542). -/
def eraseCasks (s : State) : State :=
  let s := (s.casks.map (·.1)).foldl (fun s c => eraseCask c s) s
  { s with cellar := { s.cellar with digest := List.replicate 48 0 } }

/-- Whether the cellarer holds any cask. -/
def holding (s : State) : Bool := s.casks.any fun e => e.2.hold.isSome

/-- A cask held for a cold erase, in the queue for its VPP credit (R108, R543). -/
def coldEraseAsk (s : State) (c : Nat) : State := vppAsk c (modCask c (fun k => { k with hold := some .erase }) s)

/-- A write to LC_ERASE: with its key and nothing enabled or held, every cask asks for the VPP credit under which it is erased; one that the
store does not list is erased already (R108, R530, R543; log entry 135). Another KEY is a value its Description does not allow (Table 16.19,
R550, R564; log entry 128). -/
def coldEraseWrite (v : Word) (s : State) : State :=
  if fieldOf 31 16 v ≠ 0x4345 then rejectWrite .LC_ERASE 0 0 s
  else if !allDisabled s || holding s then writeBusy (regOff .LC_ERASE 0 0) s
  else
    (s.casks.map (·.1)).foldl coldEraseAsk (journal 8 1 0 (regOff .LC_ERASE 0 0) 0 0 0 s)

/-- COLD_ERASE: a host write to LC_ERASE. -/
def execColdErase (v : Word) (s : State) : Host.Outcome State Fault Refusal := .next (hostWrite .LC_ERASE 0 0 (coldEraseWrite v) s)

/-! ### Life cycle (R541, R542) -/

/-- Whether Table 16.8 has a transition and its limit is not used up. -/
def lcAllowed (a b : Nat) (p : Pm) : Bool :=
  (decide (a = 0) && decide (b = 1)) || (decide (a = 1) && decide (b = 2)) || (decide (a = 2) && decide (b = 3) && decide (0 < p.serviceLeft)) ||
    (decide (a = 3) && decide (b = 2)) || (decide (1 ≤ a ∧ a ≤ 3) && decide (b = 4))

/-- The fuses of the new state programmed (R542, step 3). -/
def lcFuse (a b : Nat) (p : Pm) : Pm := { p with
  lcState := b
  serviceLeft := if a = 2 ∧ b = 3 then p.serviceLeft - 1 else p.serviceLeft }

/-- The erasures of a transition (Table 16.8; R542, step 4) and the marker cleared (step 5). -/
def lcErase (a b : Nat) (s : State) : State :=
  let s := eraseCasks s
  let s := if (a = 0 ∧ b = 1) ∨ (a = 3 ∧ b = 2) ∨ b = 4 then
      { s with cal := { s.cal with slotA := none, slotB := none, inForce := 0 } }
    else s
  let s := if (a = 0 ∧ b = 1) ∨ b = 4 then { s with pm := { s.pm with dacDefaults := List.replicate 8 none } } else s
  let s := if a = 0 ∧ b = 1 then { s with pm := { s.pm with journal := [], leaf := 0 } } else s
  { s with pm := { s.pm with eraseDue := none } }

/-- Steps 4 to 6 of a transition, once an erase may start (R530, R542). -/
def lcFinish (s : State) : State :=
  match s.pm.eraseDue with
  | some (a, b) => if s.pm.vppOk then deviceReset false false 8 (lcErase a b s) else s
  | none => s

/-- A write to LC_REQ (R542). -/
def lcRequest (v : Word) (s : State) : State :=
  let a := s.pm.lcState
  let b := fieldOf 3 0 v
  if fieldOf 31 16 v ≠ 0x4C43 ∨ !lcAllowed a b s.pm ∨ s.pm.eraseDue.isSome then raiseEvent 0x0E05 0 0 v.toNat none s
  else
    let s := storeEntry s (entryNow 5 2 (regOff .LC_REQ 0 0) (BitVec.ofNat 32 a) (BitVec.ofNat 32 b) s)
    lcFinish { s with pm := { lcFuse a b s.pm with eraseDue := some (a, b) } }

/-- LIFE_CYCLE_TRANSITION: a host write to LC_REQ. -/
def execLifeCycleTransition (v : Word) (s : State) : Host.Outcome State Fault Refusal := .next (hostWrite .LC_REQ 0 0 (lcRequest v) s)

/-- A write to LC_SVN: with its key, the minimum SVN rises to that of the running image (R541). Another KEY is a value its Description does
not allow (Table 16.19, R550, R564; log entry 128). -/
def svnRaise (v : Word) (s : State) : State :=
  if fieldOf 31 16 v ≠ 0x5356 then rejectWrite .LC_SVN 0 0 s
  else if s.pm.svnMin < s.pm.svn then
    journal 7 1 0 (regOff .LC_SVN 0 0) 0 (BitVec.ofNat 32 s.pm.svnMin) (BitVec.ofNat 32 s.pm.svn)
      { s with pm := { s.pm with svnMin := s.pm.svn } }
  else s

/-- LC_SVN_RAISE: a host write to LC_SVN. -/
def execLcSvnRaise (v : Word) (s : State) : Host.Outcome State Fault Refusal := .next (hostWrite .LC_SVN 0 0 (svnRaise v) s)

/-! ### Image checks (R537, R538, Table 16.6) -/

/-- LENGTH of an image header. -/
def imgLength (b : List Byte) : Nat := leAt 12 4 b

/-- The payload of an image. -/
def imgPayload (b : List Byte) : List Byte := (b.drop 4096).take (imgLength b)

/-- n bytes of an image from byte a on. -/
def imgField (a n : Nat) (b : List Byte) : List Byte := (b.drop a).take n

/-- A typecode of RFC 8554 at byte a, most significant byte first. -/
def typeCode (a : Nat) (b : List Byte) : Nat := (imgField a 4 b).foldl (fun n x => 256 * n + x.toNat) 0

/-- Whether the typecodes of LMS_PUB and LMS_SIG are of the accepted sets: LMS_SHA256_M32 with H10, H15, H20 or H25 (6 to 9 in RFC 8554) and
LMOTS_SHA256_N32 with W4 or W8 (3 and 4), the signature's those of its key; its LMS typecode follows a one-time signature of 67 or 34 hash
values (R538, check 5; log entry 136). -/
def lmsTypes (b : List Byte) : Bool :=
  let lms := typeCode 384 b
  let ots := typeCode 388 b
  decide (6 ≤ lms ∧ lms ≤ 9) && decide (ots = 3 ∨ ots = 4) && decide (typeCode 548 b = ots) &&
    decide (typeCode (544 + 8 + 32 * (1 + if ots = 3 then 67 else 34)) b = lms)

/-- The result of the checks on an image, as a boot error code: the first check that fails, checks 4 and 5 together as 0x9 (R538). -/
def imgCheck (b : List Byte) (p : Pm) : Nat :=
  let key := byteAt 9 b
  let len := imgLength b
  let ecdsa := Config.ecdsaOk (imgField 256 97 b) (sha384 (imgField 0 256 b)) (imgField 448 96 b)
  let lms := lmsTypes b && Config.lmsOk (imgField 384 56 b) (imgField 0 256 b) (imgField 544 3552 b)
  if imgField 0 4 b ≠ ([0x43, 0x46, 0x57, 0x49] : List Nat).map (BitVec.ofNat 8) ∨ len = 0 ∨ 8384512 < len then 1
  else if 3 < key ∨ bitAt key p.revoked ∨ (key = 3 ∧ p.lcState ≠ 3) then 2
  else if sha384 (imgField 256 192 b) ≠ nthD [] key p.keyHash then 3
  else if !ecdsa && !lms then 9
  else if !ecdsa then 4
  else if !lms then 5
  else if imgField 16 48 b ≠ sha384 (imgPayload b) then 6
  else if byteAt 8 b < p.svnMin then 7
  else 0

/-- The result for a flash copy: 0x8 where it could not be read. -/
def copyCheck (b : Option (List Byte)) (p : Pm) : Nat :=
  match b with
  | some b => imgCheck b p
  | none => 8

/-! ### The rest of the boot flow (R536, Table 16.4) -/

/-- Whether a vintage record passes its CHECK (R497). -/
def recordOk (r : Option (List Byte)) : Bool :=
  match r with
  | some b => decide (crc32c (patchAt 60 (leBytes 4 0) b) = BitVec.ofNat 32 (leAt 60 4 b))
  | none => false

/-- The vintage that comes up after a reset (R500). -/
def loadVintage (s : State) : State :=
  let a := recordOk s.cal.slotA
  let b := recordOk s.cal.slotB
  let num := fun (r : Option (List Byte)) => leAt 4 4 (r.getD [])
  let k := if a && (!b || decide (num s.cal.slotB ≤ num s.cal.slotA)) then 1 else if b then 2 else 0
  let s := { s with cal := { s.cal with inForce := k } }
  let bad := fun (aux : Nat) => raiseEvent 0x0C04 0 aux (vintageNumber s) none s
  if !a && !b then bad 2 else if !a then bad 0 else if !b then bad 1 else s

/-- What a cask's reads give in a flow. -/
def readsFor (reads : List CaskReads) (c : Nat) : CaskReads := (reads.find? fun e => decide (e.cask = c)).getD ⟨c, []⟩

/-- A cask's reconciliation begins (R80, R83, R107, R134): erased where it is marked incomplete, its configuration registers reloaded, the
reference read of a racked one posted. -/
def reconcile (s : State) (c : Nat) : State :=
  let s := reloadCells c (eraseIncomplete c s)
  if (getCask c s).racked then startRef c s else s

/-- The reference read of a racked cask, which is over, recorded and fitted (R134). -/
def reconciled (s : State) (c : Nat) : State :=
  match refResult (getCask c s) with
  | some (id, a, b) => refRead c a b (modCask c (fun k => k.endProbe id) s)
  | none => s

/-- The casks that hold a block, in ascending order. -/
def rackedCasks (s : State) : List Nat := (s.casks.filter fun e => e.2.racked).map (·.1)

/-- The journal entry of a boot (Table 16.10). -/
def bootEntry (s : State) : JEntry := entryNow 6 2 0 (BitVec.ofNat 32 s.pm.cleanBoot.toNat) (BitVec.ofNat 32 s.pm.svn) s

/-- Firmware starts from a verified image, and loads the vintage and the DAC defaults: the first part of step 7. img: 0 copy 0, 1 copy 1, 2
the host's (R434, R470, R500, R536). -/
def bootFirmware (img : Nat) (b : List Byte) (s : State) : State :=
  let p := { s.pm with
    stage := 3
    bootStep := 7
    bootImg := img
    svn := byteAt 8 b
    key3 := decide (byteAt 9 b = 3)
    imgDigest := imgField 16 48 b
    kernels := (Config.libKernels (imgPayload b)).take (2 ^ 26) }
  (List.range 8).foldl (fun s n => loadDefault n s) (loadVintage { s with bv := { s.bv with epoch := s.bv.epoch + 1 }, pm := p })

/-- Steps 1 to 4: the journal's pending entries, the wipe and the self-test; then the image: from flash, or the host's (R536, R539). -/
def bootWipe (s : State) : State :=
  let s := s.pm.waiting.foldl storeEntry { s with pm := { s.pm with waiting := [] } }
  let s := reportLost { s with pm := { s.pm with wiped := true } }
  { s with pm := { s.pm with stage := if s.pm.bootSrc then 2 else 1 } }

/-- The host's image as it lies at DRAM address 0 (R539). -/
def hostImage (s : State) : List Byte := peek 0 (4096 + min 8384512 (imgLength (peek 0 16 s))) s

/-- Steps 5 and 6: the image is checked: the host's after its GO, else copy 0 and then copy 1; the firmware of the first that passes starts,
or the ROM waits for the host's image with the errors recorded (R538, R539). -/
def bootVerify (copy0 copy1 : Option (List Byte)) (s : State) : State :=
  let b := hostImage s
  let e0 := copyCheck copy0 s.pm
  let e1 := copyCheck copy1 s.pm
  if s.pm.bootImg = 2 then
    let s := { s with pm := { s.pm with err0 := imgCheck b s.pm } }
    if s.pm.err0 = 0 then bootFirmware 2 b s else { s with pm := { s.pm with stage := 1 } }
  else if e0 = 0 then bootFirmware 0 (copy0.getD []) s
  else if e1 = 0 then bootFirmware 1 (copy1.getD []) { s with pm := { s.pm with err0 := e0 } }
  else { s with pm := { s.pm with stage := 1, err0 := e0, err1 := e1 } }

/-- The rest of step 7: a life-cycle erasure that is due, for which it waits for VPP, and the journal entry of the boot (R530, R542). -/
def bootErase (s : State) : State :=
  if s.pm.eraseDue.isSome && !s.pm.vppOk then s
  else
    let s := match s.pm.eraseDue with
      | some (a, c) => lcErase a c s
      | none => s
    storeEntry { s with pm := { s.pm with bootStep := 8 } } (bootEntry s)

/-- Step 8: every cask reconciled, the reference reads of the racked ones under way; it waits for VPP where a cask must be erased (R134,
R530). -/
def bootReconcile (s : State) : State :=
  if (s.casks.any fun e => e.2.incomplete) && !s.pm.vppOk then s
  else (s.casks.map (·.1)).foldl reconcile { s with pm := { s.pm with bootStep := 9 } }

/-- Steps 9 and 10: shadows rebuilt with their tasting records and residual tables, library kernels copied. -/
def bootCasks (reads : List CaskReads) (s : State) : State :=
  let s := rebuildAll (dropShadows (fun c => (readsFor reads c).cells) s)
  dramStore (libBase s) s.pm.kernels s

/-- Step 11: FW_READY, with EV_BOOT where the boot follows a failed copy or uses the host's image (R536, R539). -/
def bootReady (s : State) : State :=
  let p := s.pm
  let s := { s with pm := { p with fwReady := true, stage := 4, bootStep := 0 } }
  if decide (p.bootImg ≠ 0) || decide (p.err0 ≠ 0) then raiseEvent 0x0E04 0 p.bootImg (p.err1 * 2 ^ 8 + p.err0 * 2 ^ 16) none s else s

/-- Steps 9 to 11, once every reference read of step 8 is over (R134, R135, R536). -/
def bootFinish (reads : List CaskReads) (s : State) : State :=
  let cs := rackedCasks s
  if readsDone cs s then bootReady (bootCasks reads (cs.foldl reconciled s)) else s

/-- Whether the device is out of every hold, so that its boot flow runs (R424, R528, R554, R561). -/
def mayBoot (s : State) : Bool := s.pm.rails && !s.pm.coldHold && !s.px.perst && !s.pm.fwReady

/-- BOOT_FLOW: after a reset: the next part of the boot flow, each of which ends where BOOT_STATUS.STAGE changes or where the flow waits: for
the host's image, for VPP, for the reference reads of step 8 (R536 to R539; log entry 137). copy0 and copy1: the flash's images, none where
the flash cannot be read. -/
def execBootFlow (copy0 copy1 : Option (List Byte)) (reads : List CaskReads) (s : State) : Host.Outcome State Fault Refusal :=
  .next (if !mayBoot s then s
    else match s.pm.stage, s.pm.bootStep with
      | 0, _ => bootWipe s
      | 2, _ => bootVerify copy0 copy1 s
      | 3, 7 => bootErase s
      | 3, 8 => bootReconcile s
      | 3, 9 => bootFinish reads s
      | _, _ => s)

/-- A write to BOOT_CMD: GO has the ROM check the host's image while it waits for one (R539). -/
def bootGo (v : Word) (s : State) : State :=
  if !flagOf 31 v || decide (s.pm.stage ≠ 1) || !mayBoot s then s else { s with pm := { s.pm with stage := 2, bootImg := 2 } }

/-- BOOT_CMD_GO: a host write to BOOT_CMD with GO 1. -/
def execBootCmdGo (s : State) : Host.Outcome State Fault Refusal := .next (hostWrite .BOOT_CMD 0 0 (bootGo 0x80000000#32) s)

/-- A write to LIB_BASE_LO or _HI: the library region moves; its kernels are copied before the next ring enable is accepted (R540). -/
def libBaseSet (hi : Bool) (v : Word) (s : State) : State :=
  let n := if hi then RegName.LIB_BASE_HI else .LIB_BASE_LO
  let a := libBase s
  let b := if hi then a % 2 ^ 32 + 2 ^ 32 * v.toNat else a / 2 ^ 32 * 2 ^ 32 + v.toNat
  if !rangeOk n v then rejectWrite n 0 0 s
  else if b = a then s
  else if !allDisabled s then writeBusy (regOff n 0 0) s
  else { s with pm := { s.pm with libBase := some b, libDue := true } }

/-- LIB_BASE_WRITE. -/
def execLibBaseWrite (hi : Bool) (v : Word) (s : State) : Host.Outcome State Fault Refusal :=
  .next (hostWrite (if hi then .LIB_BASE_HI else .LIB_BASE_LO) 0 0 (libBaseSet hi v) s)

/-! ### VPP back (R530) -/

/-- A cask whose erase waited for VPP in its reset is erased and leaves reset (R134, R530). -/
def eraseWaiting (s : State) (c : Nat) : State :=
  if (getCask c s).inReset && (getCask c s).incomplete then leaveReset (eraseIncomplete c s) c else s

/-- VPP_RESTORED: VPP is up: EV_VPP_FAULT with its lost bit clear; erases that waited go on, rows that were cut off are erased and
programmed again (R530). -/
def execVppRestored (s : State) : Host.Outcome State Fault Refusal :=
  .next (if s.pm.vppOk || !s.pm.rails then s
    else
      let n := s.pm.rowsCut
      let s := { s with pm := { s.pm with vppOk := true, rowsCut := 0 } }
      let s := if s.pm.coldHold then s else raiseEvent 0x0E01 0 0 n none s
      if !s.pm.fwReady then s
      else
        let s := (s.casks.map (·.1)).foldl eraseWaiting s
        lcFinish (s.ledger.vppHeld.foldl (fun s c => coldEraseOne c s) s))

/-! ### Attestation (R544, R545) -/

/-- The body of a report (Table 16.9). -/
def attestBody (s : State) : List Byte :=
  padTo 512 (([0x41, 0x54, 0x53, 0x54] : List Nat).map (BitVec.ofNat 8) ++ leBytes 2 1 ++ leBytes 1 s.pm.lcState ++ leBytes 1 s.pm.key3.toNat ++
    padTo 8 s.pm.dsn ++ leBytes 4 (0x40960000 + s.pm.grade * 2 ^ 12 + s.pm.stepping * 2 ^ 8) ++ leBytes 2 (rget .BV_IDENT 0 0 s).toNat ++
    leBytes 1 s.pm.svn ++ leBytes 1 s.pm.svnMin ++ leBytes 4 (vintageNumber s) ++
    ((List.range 8).flatMap fun k => leBytes 4 (rget .AT_NONCE 0 k s).toNat) ++ leBytes 4 s.pm.nextSeq ++ padTo 48 s.pm.imgDigest ++
    padTo 48 s.cellar.digest ++ leBytes 4 s.pm.leaf ++ leBytes 8 s.now ++ leBytes 8 (patternOf 64 (posUm s)) ++ leBytes 4 (posFrame s))

/-- A signed report. -/
def attestBytes (s : State) : List Byte :=
  let b := attestBody s
  b ++ padTo 96 (Config.ecdsaSign (sha384 b)) ++ padTo 2828 (Config.lmsSign s.pm.leaf b)

/-- The public-key record (R544). -/
def keyBytes (s : State) : List Byte :=
  padTo 8 s.pm.dsn ++ padTo 97 Config.ecdsaKey ++ List.replicate 7 0 ++ padTo 56 Config.lmsKey

/-- The buffer address of attestation. -/
def attestBuf (s : State) : Nat := rpair .AT_BUF_LO .AT_BUF_HI 0 s

/-- An attestation command starts: what it will write, or nothing where its buffer is bad or no leaf is left; a leaf is used up at once
(R544, R545). -/
def attestStart (keys : Bool) (s : State) : State :=
  let set := fun (res leaf : Nat) (bs : List Byte) (s : State) =>
    { s with pm := { s.pm with atRun := some (keys, bs), atResult := res, atLeaf := leaf } }
  let bad := decide (usable s < attestBuf s + 4096)
  let none' := (Config.freeWord s.freeCtr).toNat
  if bad then set 1 none' [] (drawFree s)
  else if keys then set 0 none' (keyBytes s) (drawFree s)
  else if 1048576 ≤ s.pm.leaf then set 2 none' [] (drawFree s)
  else
    let s1 := set 0 s.pm.leaf (attestBytes s) { s with pm := { s.pm with leaf := s.pm.leaf + 1 } }
    if s1.pm.leaf = 1040000 then raiseEvent 0x0E07 0 0 s1.pm.leaf none s1 else s1

/-- A write to AT_CMD (Table 16.20). -/
def attestCmd (v : Word) (s : State) : State :=
  if !flagOf 31 v then s
  else if s.pm.atRun.isSome then writeBusy (regOff .AT_CMD 0 0) s
  else attestStart (flagOf 0 v) s

/-- ATTESTATION_REPORT: a host write to AT_CMD with GO 1 and KIND 0. -/
def execAttestationReport (s : State) : Host.Outcome State Fault Refusal := .next (hostWrite .AT_CMD 0 0 (attestCmd 0x80000000#32) s)

/-- ATTESTATION_PUBLIC_KEYS: a host write to AT_CMD with GO 1 and KIND 1. -/
def execAttestationPublicKeys (s : State) : Host.Outcome State Fault Refusal := .next (hostWrite .AT_CMD 0 0 (attestCmd 0x80000001#32) s)

/-- Bytes stored from a 32-byte aligned DRAM address on; the rest of the last sector stays. -/
def storeBytes (a : Nat) (bs : List Byte) (s : State) : State :=
  let n := ceilDiv bs.length 32 * 32
  dramStore a (bs ++ (peek a n s).drop bs.length) s

/-- ATTEST_DONE: the report or record is in the buffer; EV_ATTEST_DONE (R544). DETAIL without a leaf used is free. -/
def execAttestDone (s : State) : Host.Outcome State Fault Refusal :=
  .next (match s.pm.atRun with
    | some (_, bs) =>
      let s := if bs.isEmpty then s else storeBytes (attestBuf s) bs s
      raiseEvent 0x0E06 0 s.pm.atResult s.pm.atLeaf none { s with pm := { s.pm with atRun := none } }
    | none => s)

end Sys2Proof.Machine
end

