-- ==== Sys2Proof/Machine/Fpu.lean ====
section
/-! DEFINITION. Scalar FP32 instructions of Skovfa (Table 8.7, R272): operands and results in bits [31:0], bits [63:32] zero, flags
into FFLAGS. -/

namespace Sys2Proof.Machine

/-- A two-operand FP32 instruction with an FP32 result. -/
def fpu2 (r : Rack) (t : Tid) (d a b : Reg) (op : Nat → Nat → Nat × Nat) (s : State) : State :=
  issue r t false [.sreg d] [.sreg a, .sreg b] (putF r t d fun k => op (k.f32 a) (k.f32 b)) s

/-- A one-operand FP32 instruction with its result. -/
def fpu1 (r : Rack) (t : Tid) (d a : Reg) (op : Nat → Nat × Nat) (s : State) : State :=
  issue r t false [.sreg d] [.sreg a] (putF r t d fun k => op (k.f32 a)) s

/-- An FP32 compare: 1 or 0 as a 64-bit integer, with its flags. -/
def fcmp (c : FVal → FVal → Bool) (fl : FVal → FVal → Nat) (x y : Nat) : Nat × Nat :=
  let x := fdecode fp32 x
  let y := fdecode fp32 y
  ((c x y).toNat, fl x y)

/-- FADD: s_A + s_B (R272, Table 8.7). -/
def execSkFadd (r : Rack) (t : Tid) (d a b : Reg) (s : State) : Out := .next (fpu2 r t d a b (fadd fp32) s)

/-- FSUB: s_A − s_B (R272, Table 8.7). -/
def execSkFsub (r : Rack) (t : Tid) (d a b : Reg) (s : State) : Out := .next (fpu2 r t d a b (fsub fp32) s)

/-- FMUL: s_A × s_B (R272, Table 8.7). -/
def execSkFmul (r : Rack) (t : Tid) (d a b : Reg) (s : State) : Out := .next (fpu2 r t d a b (fmul fp32) s)

/-- FMIN: minimumNumber (R272, Table 8.7). -/
def execSkFmin (r : Rack) (t : Tid) (d a b : Reg) (s : State) : Out := .next (fpu2 r t d a b (fmin fp32) s)

/-- FMAX: maximumNumber (R272, Table 8.7). -/
def execSkFmax (r : Rack) (t : Tid) (d a b : Reg) (s : State) : Out := .next (fpu2 r t d a b (fmax fp32) s)

/-- FDIV: s_A / s_B, correctly rounded (R272, Table 8.7). -/
def execSkFdiv (r : Rack) (t : Tid) (d a b : Reg) (s : State) : Out := .next (fpu2 r t d a b (fdiv fp32) s)

/-- FEQ: 1 when equal; a NaN gives 0 (R272, Table 8.7). -/
def execSkFeq (r : Rack) (t : Tid) (d a b : Reg) (s : State) : Out := .next (fpu2 r t d a b (fcmp feqV snanFlags) s)

/-- FLT: 1 when s_A < s_B; a NaN gives 0 and sets NV (R272, Table 8.7). -/
def execSkFlt (r : Rack) (t : Tid) (d a b : Reg) (s : State) : Out := .next (fpu2 r t d a b (fcmp fltV nanFlag) s)

/-- FLE: 1 when s_A ≤ s_B; a NaN gives 0 and sets NV (R272, Table 8.7). -/
def execSkFle (r : Rack) (t : Tid) (d a b : Reg) (s : State) : Out := .next (fpu2 r t d a b (fcmp fleV nanFlag) s)

/-- FMADD: s_D + s_A × s_B, rounded once (R272, Table 8.7). -/
def execSkFmadd (r : Rack) (t : Tid) (d a b : Reg) (s : State) : Out :=
  .next (issue r t false [] [.sreg d, .sreg a, .sreg b] (putF r t d fun k => fma fp32 (k.f32 d) (k.f32 a) (k.f32 b)) s)

/-- FSQRT: √s_A, correctly rounded (R272, Table 8.7). -/
def execSkFsqrt (r : Rack) (t : Tid) (d a : Reg) (s : State) : Out := .next (fpu1 r t d a (fsqrt fp32) s)

/-- FTOI: FP32 to a 64-bit integer, ties to even, saturating; a NaN gives 0 and sets NV (R272, Table 8.7). -/
def execSkFtoi (r : Rack) (t : Tid) (d a : Reg) (s : State) : Out :=
  .next (fpu1 r t d a (fun x =>
    let e := toIntEven (-(2 ^ 63 : Nat)) ((2 ^ 63 : Nat) - 1) (fdecode fp32 x)
    (patternOf 64 e.1, e.2)) s)

/-- ITOF: a 64-bit integer to FP32 (R272, Table 8.7). -/
def execSkItof (r : Rack) (t : Tid) (d a : Reg) (s : State) : Out :=
  .next (issue r t false [.sreg d] [.sreg a] (putF r t d fun k => fencode fp32 (ofInt (k.s' a).toInt)) s)

/-- FRND: the nearest integral FP32 value, ties away from zero (R272, Table 8.7). -/
def execSkFrnd (r : Rack) (t : Tid) (d a : Reg) (s : State) : Out := .next (fpu1 r t d a (frnd fp32) s)

end Sys2Proof.Machine
end

