-- ==== Sys2Proof/Machine/Vector.lean ====
section
/-! DEFINITION. Vector instructions of Skovfa: integer and floating-point lanes (Tables 8.12, 8.13, R277 to R280). -/

namespace Sys2Proof.Machine

/-! ### Lane-wise operations -/

/-- A lane-wise integer operation of a type on two vectors: op takes the lane width and the lanes as unsigned numbers (R279). -/
def vint2 (i : Instr) (r : Rack) (t : Tid) (ty : VType) (d a b : Reg) (p : Fin 8) (pn : Bool) (op : Nat → Nat → Nat → Nat)
    (s : State) : State :=
  issueWf i r t false [] [.vreg d, .vreg a, .vreg b] (thenStep r t fun k =>
    let w := ty.width
    k.setV d (mergeLanes w (k.active p pn) (fun j => op w (lane w j (k.getV a)) (lane w j (k.getV b))) (k.getV d))) s

/-- A lane-wise integer operation on signed lanes, its result taken modulo 2^w. -/
def onSigned (op : Nat → Int → Int → Int) (w x y : Nat) : Nat := patternOf w (op w (signedOf w x) (signedOf w y))

/-- The IEEE format of a floating-point element type; BF16 for a type that is none. -/
def vfmt : VType → FFmt
  | .fp32 => fp32
  | _ => bf16

/-- The flags of the active lanes of an operation (R279). -/
def laneFlags (n : Nat) (act : Nat → Bool) (f : Nat → Nat) : Nat := joinFlags ((List.range n).map fun j => if act j then f j else 0)

/-- A lane-wise floating-point operation whose lane j gives a result and its flags, under the predicate (R278, R279). -/
def vfpOp (i : Instr) (r : Rack) (t : Tid) (ty : VType) (d : Reg) (regs : List LoadDest) (p : Fin 8) (pn : Bool)
    (op : Thread → Nat → Nat × Nat) (s : State) : State :=
  issueWf i r t false [] (.vreg d :: regs) (thenStep r t fun k =>
    let w := ty.width
    let act := k.active p pn
    (k.setV d (mergeLanes w act (fun j => (op k j).1) (k.getV d))).orFlags (laneFlags ty.lanes act fun j => (op k j).2)) s

/-- A floating-point operation on two vectors. -/
def vfp2 (i : Instr) (r : Rack) (t : Tid) (ty : VType) (d a b : Reg) (p : Fin 8) (pn : Bool)
    (op : FFmt → Nat → Nat → Nat × Nat) (s : State) : State :=
  vfpOp i r t ty d [.vreg a, .vreg b] p pn (fun k j =>
    op (vfmt ty) (lane ty.width j (k.getV a)) (lane ty.width j (k.getV b))) s

/-- A floating-point operation on one vector. -/
def vfp1 (i : Instr) (r : Rack) (t : Tid) (ty : VType) (d a : Reg) (p : Fin 8) (pn : Bool) (op : FFmt → Nat → Nat × Nat)
    (s : State) : State :=
  vfpOp i r t ty d [.vreg a] p pn (fun k j => op (vfmt ty) (lane ty.width j (k.getV a))) s

/-! ### Integer lanes (Table 8.12) -/

/-- VADD: a[i] + b[i] (R279, Table 8.12). -/
def execSkVadd (r : Rack) (t : Tid) (ty : VType) (d a b : Reg) (p : Fin 8) (pn : Bool) (s : State) : Out :=
  .next (vint2 (.skVadd r t ty d a b p pn) r t ty d a b p pn (fun _ x y => x + y) s)

/-- VSUB: a[i] − b[i] (R279, Table 8.12). -/
def execSkVsub (r : Rack) (t : Tid) (ty : VType) (d a b : Reg) (p : Fin 8) (pn : Bool) (s : State) : Out :=
  .next (vint2 (.skVsub r t ty d a b p pn) r t ty d a b p pn (fun w x y => x + 2 ^ w - y) s)

/-- VMUL: low w bits of a[i] × b[i] (R279, Table 8.12). -/
def execSkVmul (r : Rack) (t : Tid) (ty : VType) (d a b : Reg) (p : Fin 8) (pn : Bool) (s : State) : Out :=
  .next (vint2 (.skVmul r t ty d a b p pn) r t ty d a b p pn (fun _ x y => x * y) s)

/-- VMIN: signed minimum (R279, Table 8.12). -/
def execSkVmin (r : Rack) (t : Tid) (ty : VType) (d a b : Reg) (p : Fin 8) (pn : Bool) (s : State) : Out :=
  .next (vint2 (.skVmin r t ty d a b p pn) r t ty d a b p pn (onSigned fun _ x y => if x < y then x else y) s)

/-- VMAX: signed maximum (R279, Table 8.12). -/
def execSkVmax (r : Rack) (t : Tid) (ty : VType) (d a b : Reg) (p : Fin 8) (pn : Bool) (s : State) : Out :=
  .next (vint2 (.skVmax r t ty d a b p pn) r t ty d a b p pn (onSigned fun _ x y => if x < y then y else x) s)

/-- VAND: a[i] AND b[i] (R279, Table 8.12). -/
def execSkVand (r : Rack) (t : Tid) (ty : VType) (d a b : Reg) (p : Fin 8) (pn : Bool) (s : State) : Out :=
  .next (vint2 (.skVand r t ty d a b p pn) r t ty d a b p pn (fun _ x y => x &&& y) s)

/-- VOR: a[i] OR b[i] (R279, Table 8.12). -/
def execSkVor (r : Rack) (t : Tid) (ty : VType) (d a b : Reg) (p : Fin 8) (pn : Bool) (s : State) : Out :=
  .next (vint2 (.skVor r t ty d a b p pn) r t ty d a b p pn (fun _ x y => x ||| y) s)

/-- VXOR: a[i] XOR b[i] (R279, Table 8.12). -/
def execSkVxor (r : Rack) (t : Tid) (ty : VType) (d a b : Reg) (p : Fin 8) (pn : Bool) (s : State) : Out :=
  .next (vint2 (.skVxor r t ty d a b p pn) r t ty d a b p pn (fun _ x y => x ^^^ y) s)

/-- VSHL: a[i] << b[i], the amount modulo w (R279, Table 8.12). -/
def execSkVshl (r : Rack) (t : Tid) (ty : VType) (d a b : Reg) (p : Fin 8) (pn : Bool) (s : State) : Out :=
  .next (vint2 (.skVshl r t ty d a b p pn) r t ty d a b p pn (fun w x y => x * 2 ^ (y % w)) s)

/-- VSHR: a[i] >> b[i], logical, the amount modulo w (R279, Table 8.12). -/
def execSkVshr (r : Rack) (t : Tid) (ty : VType) (d a b : Reg) (p : Fin 8) (pn : Bool) (s : State) : Out :=
  .next (vint2 (.skVshr r t ty d a b p pn) r t ty d a b p pn (fun w x y => x / 2 ^ (y % w)) s)

/-- VSRA: a[i] >> b[i], arithmetic, the amount modulo w (R279, Table 8.12). -/
def execSkVsra (r : Rack) (t : Tid) (ty : VType) (d a b : Reg) (p : Fin 8) (pn : Bool) (s : State) : Out :=
  .next (vint2 (.skVsra r t ty d a b p pn) r t ty d a b p pn (fun w x y => patternOf w (signedOf w x / (2 ^ (y % w) : Nat))) s)

/-- VADDS: a[i] + b[i], saturated to the signed range (R279, Table 8.12). -/
def execSkVadds (r : Rack) (t : Tid) (ty : VType) (d a b : Reg) (p : Fin 8) (pn : Bool) (s : State) : Out :=
  .next (vint2 (.skVadds r t ty d a b p pn) r t ty d a b p pn (onSigned fun w x y => clampInt (-(2 ^ (w - 1) : Nat)) ((2 ^ (w - 1) : Nat) - 1) (x + y)) s)

/-- VABS: |a[i]|, with −2^(w−1) unchanged (R279, Table 8.12). -/
def execSkVabs (r : Rack) (t : Tid) (ty : VType) (d a : Reg) (p : Fin 8) (pn : Bool) (s : State) : Out :=
  .next (vint2 (.skVabs r t ty d a p pn) r t ty d a a p pn (onSigned fun _ x _ => x.natAbs) s)

/-- VDOT4: INT32 lane i of v_D += Σ a[4i + k] × b[4i + k] over INT8 lanes, modulo 2³²; 32 predicate lanes (R279, Table 8.12). -/
def execSkVdot4 (r : Rack) (t : Tid) (d a b : Reg) (p : Fin 8) (pn : Bool) (s : State) : Out :=
  .next (issue r t false [] [.vreg d, .vreg a, .vreg b] (thenStep r t fun k =>
    let dot := fun j => sumRange 4 fun i => laneS 8 (4 * j + i) (k.getV a) * laneS 8 (4 * j + i) (k.getV b)
    k.setV d (mergeLanes 32 (k.active p pn) (fun j => patternOf 32 (laneS 32 j (k.getV d) + dot j)) (k.getV d))) s)

/-! ### Floating-point lanes (Table 8.13) -/

/-- VFADD: a[i] + b[i] (R279, Table 8.13). -/
def execSkVfadd (r : Rack) (t : Tid) (ty : VType) (d a b : Reg) (p : Fin 8) (pn : Bool) (s : State) : Out :=
  .next (vfp2 (.skVfadd r t ty d a b p pn) r t ty d a b p pn fadd s)

/-- VFSUB: a[i] − b[i] (R279, Table 8.13). -/
def execSkVfsub (r : Rack) (t : Tid) (ty : VType) (d a b : Reg) (p : Fin 8) (pn : Bool) (s : State) : Out :=
  .next (vfp2 (.skVfsub r t ty d a b p pn) r t ty d a b p pn fsub s)

/-- VFMUL: a[i] × b[i] (R279, Table 8.13). -/
def execSkVfmul (r : Rack) (t : Tid) (ty : VType) (d a b : Reg) (p : Fin 8) (pn : Bool) (s : State) : Out :=
  .next (vfp2 (.skVfmul r t ty d a b p pn) r t ty d a b p pn fmul s)

/-- VFMIN: minimumNumber (R279, Table 8.13). -/
def execSkVfmin (r : Rack) (t : Tid) (ty : VType) (d a b : Reg) (p : Fin 8) (pn : Bool) (s : State) : Out :=
  .next (vfp2 (.skVfmin r t ty d a b p pn) r t ty d a b p pn fmin s)

/-- VFMAX: maximumNumber (R279, Table 8.13). -/
def execSkVfmax (r : Rack) (t : Tid) (ty : VType) (d a b : Reg) (p : Fin 8) (pn : Bool) (s : State) : Out :=
  .next (vfp2 (.skVfmax r t ty d a b p pn) r t ty d a b p pn fmax s)

/-- VFMA: d[i] + a[i] × b[i], rounded once (R279, Table 8.13). -/
def execSkVfma (r : Rack) (t : Tid) (ty : VType) (d a b : Reg) (p : Fin 8) (pn : Bool) (s : State) : Out :=
  .next (vfpOp (.skVfma r t ty d a b p pn) r t ty d [.vreg a, .vreg b] p pn (fun k j =>
    let l := fun x => lane ty.width j (k.getV x)
    fma (vfmt ty) (l d) (l a) (l b)) s)

/-- The FP32 accumulation of one BF16 lane pair, with its flags. -/
def fmaw (acc x y : Nat) : Nat × Nat := finish fp32 (fmaV (fdecode fp32 acc) (fdecode bf16 x) (fdecode bf16 y))

/-- The other register of a VFMAW pair: v_D+1. -/
def pairHigh (d : Reg) : Reg := regNo (d.val + 1)

/-- VFMAW: FP32 lane i of v_D (i < 32) or lane i − 32 of v_D+1 += a[i] × b[i] over 64 BF16 lanes, rounded once; 64 predicate
lanes; D is even (R279, Table 8.13). -/
def execSkVfmaw (r : Rack) (t : Tid) (d a b : Reg) (p : Fin 8) (pn : Bool) (s : State) : Out :=
  .next (issueWf (.skVfmaw r t d a b p pn) r t false [] [.vreg d, .vreg (pairHigh d), .vreg a, .vreg b] (thenStep r t fun k =>
    let act := k.active p pn
    let go := fun j acc => fmaw acc (lane 16 j (k.getV a)) (lane 16 j (k.getV b))
    let lo := fun j => go j (lane 32 j (k.getV d))
    let hi := fun j => go (32 + j) (lane 32 j (k.getV (pairHigh d)))
    let fl := laneFlags 32 act (fun j => (lo j).2) ||| laneFlags 32 (fun j => act (32 + j)) (fun j => (hi j).2)
    let k1 := k.setV d (mergeLanes 32 act (fun j => (lo j).1) (k.getV d))
    let k2 := k1.setV (pairHigh d) (mergeLanes 32 (fun j => act (32 + j)) (fun j => (hi j).1) (k.getV (pairHigh d)))
    k2.orFlags fl) s)

/-- VFABS: |a[i]|; a NaN becomes the canonical NaN (R272, Table 8.13). -/
def execSkVfabs (r : Rack) (t : Tid) (ty : VType) (d a : Reg) (p : Fin 8) (pn : Bool) (s : State) : Out :=
  .next (vfp1 (.skVfabs r t ty d a p pn) r t ty d a p pn (fun f x =>
    let v := fdecode f x
    finish f (v.abs, snanFlag v)) s)

/-! ### Approximated functions (R280) -/

/-- The free error of an approximated function of a lane (R280, log entry 17): function fn on the bits x of format f. -/
def approx (fn : Nat) (f : FFmt) (x : Nat) (n : Int) (d : Nat) : FVal := ofQ (nudge (Config.approxErr (2 * fn + f.mw % 2) x) n d)

/-- 1 / x: ±0 gives ±∞ and DZ (R280). -/
def vrcp (f : FFmt) (x : Nat) : Nat × Nat :=
  match fdecode f x with
  | .nan s => (f.nan, snanFlag (.nan s))
  | .inf neg => (withSign f neg 0, 0)
  | .fin neg n d =>
    if n = 0 then finish f (.inf neg, flDZ) else fencode f (approx 0 f x (sgn neg d) n)

/-- 1 / √x: a negative value is invalid (R280); ±0 gives ±∞ and DZ, as IEEE 754's rSqrt does (log entry 22). -/
def vrsq (f : FFmt) (x : Nat) : Nat × Nat :=
  match fdecode f x with
  | .nan s => (f.nan, snanFlag (.nan s))
  | .inf neg => if neg then (f.nan, flNV) else (0, 0)
  | .fin neg n d =>
    if n = 0 then finish f (.inf neg, flDZ)
    else if neg then (f.nan, flNV)
    else let q := sqrtQ d n; fencode f (approx 1 f x q.1 q.2)

/-- e^x: +∞ on overflow, +0 on underflow, with the matching flag (R280). Underflow is a value below the smallest normal value (R272,
log entry 22). -/
def vexp (f : FFmt) (x : Nat) : Nat × Nat :=
  match fdecode f x with
  | .nan s => (f.nan, snanFlag (.nan s))
  | .inf neg => if neg then (0, 0) else fencode f (.inf false)
  | .fin neg n d =>
    let q := expQ (sgn neg n) d
    if q.1 * 2 ^ 126 < q.2 then (0, flUF + flNX) else fencode f (approx 2 f x q.1 q.2)

/-- tanh x; ±∞ gives ±1 (R280). -/
def vtanh (f : FFmt) (x : Nat) : Nat × Nat :=
  match fdecode f x with
  | .nan s => (f.nan, snanFlag (.nan s))
  | .inf neg => fencode f (.fin neg 1 1)
  | .fin neg n d => let q := tanhQ (sgn neg n) d; fencode f (approx 3 f x q.1 q.2)

/-- VFRCP: 1 / a[i] within the bound of R280 (Table 8.13). -/
def execSkVfrcp (r : Rack) (t : Tid) (ty : VType) (d a : Reg) (p : Fin 8) (pn : Bool) (s : State) : Out :=
  .next (vfp1 (.skVfrcp r t ty d a p pn) r t ty d a p pn vrcp s)

/-- VFRSQ: 1 / √a[i] within the bound of R280 (Table 8.13). -/
def execSkVfrsq (r : Rack) (t : Tid) (ty : VType) (d a : Reg) (p : Fin 8) (pn : Bool) (s : State) : Out :=
  .next (vfp1 (.skVfrsq r t ty d a p pn) r t ty d a p pn vrsq s)

/-- VFEXP: e^a[i] within the bound of R280 (Table 8.13). -/
def execSkVfexp (r : Rack) (t : Tid) (ty : VType) (d a : Reg) (p : Fin 8) (pn : Bool) (s : State) : Out :=
  .next (vfp1 (.skVfexp r t ty d a p pn) r t ty d a p pn vexp s)

/-- VFTANH: tanh(a[i]) within the bound of R280 (Table 8.13). -/
def execSkVftanh (r : Rack) (t : Tid) (ty : VType) (d a : Reg) (p : Fin 8) (pn : Bool) (s : State) : Out :=
  .next (vfp1 (.skVftanh r t ty d a p pn) r t ty d a p pn vtanh s)

end Sys2Proof.Machine
end

