-- ==== Sys2Proof/Machine/Lanes.lean ====
section
/-! DEFINITION. Vector instructions of Skovfa on lanes, selections, compares, reductions and predicates (Table 8.14, R278, R281),
and conversions and scaled coding (R282 to R284). -/

namespace Sys2Proof.Machine

/-! ### Lanes and selection (Table 8.14) -/

/-- VBCAST: every lane of v_D = the low w bits of s_A. -/
def execSkVbcast (r : Rack) (t : Tid) (ty : VType) (d a : Reg) (p : Fin 8) (pn : Bool) (s : State) : Out :=
  .next (issue r t false [] [.vreg d, .sreg a] (thenStep r t fun k =>
    k.setV d (mergeLanes ty.width (k.active p pn) (fun _ => (k.s' a).toNat) (k.getV d))) s)

/-- The lane that s_B selects: s_B mod L. -/
def laneSel (k : Thread) (ty : VType) (b : Reg) : Nat := (k.s' b).toNat % ty.lanes

/-- VINS: lane (s_B mod L) of v_D = the low w bits of s_A; other lanes unchanged. -/
def execSkVins (r : Rack) (t : Tid) (ty : VType) (d a b : Reg) (p : Fin 8) (pn : Bool) (s : State) : Out :=
  .next (issue r t false [] [.vreg d, .sreg a, .sreg b] (thenStep r t fun k =>
    k.setV d (mergeLanes ty.width (fun j => decide (j = laneSel k ty b) && k.active p pn j) (fun _ => (k.s' a).toNat)
      (k.getV d))) s)

/-- A lane as VEXT returns it: integers sign-extended, floating-point bits zero-extended. -/
def extLane (ty : VType) (x : Nat) : DWord :=
  if ty.isFloat then BitVec.ofNat 64 x else BitVec.ofInt 64 (signedOf ty.width x)

/-- VEXT: s_D = lane (s_B mod L) of v_A; s_D keeps its value where the predicate leaves that lane out (R278, log entry 24). -/
def execSkVext (r : Rack) (t : Tid) (ty : VType) (d a b : Reg) (p : Fin 8) (pn : Bool) (s : State) : Out :=
  .next (issue r t false [.sreg d] [.vreg a, .sreg b] (thenStep r t fun k =>
    let j := laneSel k ty b
    if k.active p pn j then k.setS d.val (extLane ty (lane ty.width j (k.getV a))) else k) s)

/-- VPERM: v_D[i] = a[b[i] mod L], b[i] unsigned. -/
def execSkVperm (r : Rack) (t : Tid) (ty : VType) (d a b : Reg) (p : Fin 8) (pn : Bool) (s : State) : Out :=
  .next (issue r t false [] [.vreg d, .vreg a, .vreg b] (thenStep r t fun k =>
    let w := ty.width
    k.setV d (mergeLanes w (k.active p pn) (fun j => lane w (lane w j (k.getV b) % ty.lanes) (k.getV a)) (k.getV d))) s)

/-- VSEL: v_D[i] = a[i] where bit i of p_P XOR PN is 1, otherwise b[i]; the predicate selects and masks nothing (R278). -/
def execSkVsel (r : Rack) (t : Tid) (ty : VType) (d a b : Reg) (p : Fin 8) (pn : Bool) (s : State) : Out :=
  .next (issue r t false [.vreg d] [.vreg a, .vreg b] (thenStep r t fun k =>
    let w := ty.width
    k.setV d (vecOf w fun j => lane w j (k.getV (if k.active p pn j then a else b)))) s)

/-- VLANE: v_D[i] = i, in TYPE. -/
def execSkVlane (r : Rack) (t : Tid) (ty : VType) (d : Reg) (p : Fin 8) (pn : Bool) (s : State) : Out :=
  .next (issue r t false [] [.vreg d] (thenStep r t fun k =>
    k.setV d (mergeLanes ty.width (k.active p pn)
      (fun j => if ty.isFloat then (fencode (vfmt ty) (ofInt j)).1 else j) (k.getV d))) s)

/-! ### Compares (R281) -/

/-- A compare of one lane: its result and its flags. -/
def cmpLane (ty : VType) (ci : Int → Int → Bool) (cf : FVal → FVal → Bool) (fl : FVal → FVal → Nat) (x y : Nat) : Bool × Nat :=
  if ty.isFloat then
    let u := fdecode (vfmt ty) x
    let v := fdecode (vfmt ty) y
    (cf u v, fl u v)
  else (ci (signedOf ty.width x) (signedOf ty.width y), 0)

/-- A lane-wise compare into a predicate: lanes left out are written 0 (R278, R281). -/
def vcmp (r : Rack) (t : Tid) (ty : VType) (d : Fin 8) (a b : Reg) (p : Fin 8) (pn : Bool) (ci : Int → Int → Bool)
    (cf : FVal → FVal → Bool) (fl : FVal → FVal → Nat) (s : State) : State :=
  issue r t false [] [.vreg a, .vreg b] (thenStep r t fun k =>
    let w := ty.width
    let act := k.active p pn
    let c := fun j => cmpLane ty ci cf fl (lane w j (k.getV a)) (lane w j (k.getV b))
    (k.setP d (predOf ty.lanes fun j => act j && (c j).1)).orFlags (laneFlags ty.lanes act fun j => (c j).2)) s

/-- VCMPEQ: p_D bit i = (a[i] = b[i]); a NaN gives 0. -/
def execSkVcmpeq (r : Rack) (t : Tid) (ty : VType) (d : Fin 8) (a b : Reg) (p : Fin 8) (pn : Bool) (s : State) : Out :=
  .next (vcmp r t ty d a b p pn (fun x y => decide (x = y)) feqV snanFlags s)

/-- VCMPLT: p_D bit i = (a[i] < b[i]); a NaN gives 0 and sets NV. -/
def execSkVcmplt (r : Rack) (t : Tid) (ty : VType) (d : Fin 8) (a b : Reg) (p : Fin 8) (pn : Bool) (s : State) : Out :=
  .next (vcmp r t ty d a b p pn (fun x y => decide (x < y)) fltV nanFlag s)

/-- VCMPLE: p_D bit i = (a[i] ≤ b[i]); a NaN gives 0 and sets NV. -/
def execSkVcmple (r : Rack) (t : Tid) (ty : VType) (d : Fin 8) (a b : Reg) (p : Fin 8) (pn : Bool) (s : State) : Out :=
  .next (vcmp r t ty d a b p pn (fun x y => decide (x ≤ y)) fleV nanFlag s)

/-! ### Reductions (Table 8.14, R278, R281) -/

/-- The active lanes of a vector, in ascending order. -/
def activeLanes (k : Thread) (ty : VType) (a : Reg) (p : Fin 8) (pn : Bool) : List Nat :=
  ((List.range ty.lanes).filter (k.active p pn)).map fun j => lane ty.width j (k.getV a)

/-- The FP32 sum of values in order, each add rounded; the first lane starts the sum, and no lane gives +0 (log entry 23). -/
def fsum : List FVal → Nat × Nat
  | [] => (0, 0)
  | x :: xs => xs.foldl (fun acc y =>
      let r := finish fp32 (faddV (fdecode fp32 acc.1) y)
      (r.1, acc.2 ||| r.2)) (finish fp32 (x, snanFlag x))

/-- A reduction of the active lanes into s_D: integers, or values into an FP32 pattern with flags. -/
def reduce (r : Rack) (t : Tid) (ty : VType) (d a : Reg) (p : Fin 8) (pn : Bool) (fi : List Int → Int) (ff : List FVal → Nat × Nat)
    (s : State) : State :=
  issue r t false [.sreg d] [.vreg a] (thenStep r t fun k =>
    let ls := activeLanes k ty a p pn
    if ty.isFloat then
      let x := ff (ls.map (fdecode (vfmt ty)))
      (k.setS d.val (BitVec.ofNat 64 x.1)).orFlags x.2
    else k.setS d.val (BitVec.ofInt 64 (fi (ls.map (signedOf ty.width))))) s

/-- VRSUM: the sum of the lanes: integers exactly as 64-bit, floating point as FP32 in ascending lane order, each add rounded. -/
def execSkVrsum (r : Rack) (t : Tid) (ty : VType) (d a : Reg) (p : Fin 8) (pn : Bool) (s : State) : Out :=
  .next (reduce r t ty d a p pn (sumList id) fsum s)

/-- The largest of FP values, NaN lanes ignored; the canonical NaN when every lane is one, `none'` when there is no lane (R281). -/
def fmaxList (none' : FVal) (l : List FVal) : Nat × Nat :=
  let nums := l.filter fun x => !x.isNan
  let fl := joinFlags (l.map snanFlag)
  let m := match nums with
    | [] => if l.isEmpty then none' else .nan false
    | x :: xs => xs.foldl (fun m y => (fmaxV m y).1) x
  let e := fencode fp32 m
  (e.1, e.2 ||| fl)

/-- The largest of integers, `none'` when there is none. -/
def imaxList (none' : Int) : List Int → Int
  | [] => none'
  | x :: xs => xs.foldl (fun m y => if m < y then y else m) x

/-- VRMAX: the largest lane, as an integer or FP32; with no lane, the most negative integer of the type, or −∞ (R281, log
entry 24). -/
def execSkVrmax (r : Rack) (t : Tid) (ty : VType) (d a : Reg) (p : Fin 8) (pn : Bool) (s : State) : Out :=
  .next (reduce r t ty d a p pn (imaxList (-(2 ^ (ty.width - 1) : Nat))) (fmaxList (.inf true)) s)

/-- VRMAXA: the largest magnitude, as an integer or FP32; with no lane, 0 (R281). -/
def execSkVrmaxa (r : Rack) (t : Tid) (ty : VType) (d a : Reg) (p : Fin 8) (pn : Bool) (s : State) : Out :=
  .next (reduce r t ty d a p pn (fun l => imaxList 0 (l.map fun x => (x.natAbs : Int)))
    (fun l => fmaxList (.fin false 0 1) (l.map FVal.abs)) s)

/-! ### Predicates (Table 8.14) -/

/-- A predicate operation: lanes left out are written 0 (R278). -/
def predOp (r : Rack) (t : Tid) (d a b : Fin 8) (p : Fin 8) (pn : Bool) (op : Bool → Bool → Bool) (s : State) : State :=
  issue r t false [] [] (thenStep r t fun k =>
    k.setP d (predOf 128 fun j => k.active p pn j && op (bitAt j (k.getP a).toNat) (bitAt j (k.getP b).toNat))) s

/-- PAND: p_D = p_A AND p_B. -/
def execSkPand (r : Rack) (t : Tid) (d a b : Fin 8) (p : Fin 8) (pn : Bool) (s : State) : Out :=
  .next (predOp r t d a b p pn (fun x y => x && y) s)

/-- POR: p_D = p_A OR p_B. -/
def execSkPor (r : Rack) (t : Tid) (d a b : Fin 8) (p : Fin 8) (pn : Bool) (s : State) : Out :=
  .next (predOp r t d a b p pn (fun x y => x || y) s)

/-- PXOR: p_D = p_A XOR p_B. -/
def execSkPxor (r : Rack) (t : Tid) (d a b : Fin 8) (p : Fin 8) (pn : Bool) (s : State) : Out :=
  .next (predOp r t d a b p pn (fun x y => xor x y) s)

/-- PCNT: s_D = number of set bits of p_A among the 128 lanes of TYPE 0b000, lanes left out excepted (R278, R281). -/
def execSkPcnt (r : Rack) (t : Tid) (d : Reg) (a : Fin 8) (p : Fin 8) (pn : Bool) (s : State) : Out :=
  .next (issue r t false [.sreg d] [] (putS r t d fun k =>
    BitVec.ofNat 64 ((List.range 128).filter fun j => k.active p pn j && bitAt j (k.getP a).toNat).length) s)

/-! ### Conversion (R282, R283) -/

/-- The IEEE format behind a floating-point number format, if it is one. -/
def nfFloat : NFmt → Option FFmt
  | .e4m3 => some e4m3
  | .e5m2 => some e5m2
  | .e2m1 => some e2m1
  | .bf16 => some Machine.bf16
  | .fp32 => some Machine.fp32
  | _ => none

/-- The range of an integer or code format; A8 and A4 leave out the escape (R283). -/
def nfRange (f : NFmt) : Int × Int :=
  match f with
  | .a8 => (-127, 127)
  | .a4 => (-7, 7)
  | _ => (-(2 ^ (f.width - 1) : Nat), (2 ^ (f.width - 1) : Nat) - 1)

/-- Whether a lane holds the escape code of A8 or A4. -/
def nfEscape (f : NFmt) (x : Nat) : Bool :=
  match f with
  | .a8 => decide (x = 0x80)
  | .a4 => decide (x = 0x8)
  | _ => false

/-- The value of a lane and NV for an escape code, which converts as 0 (R283). -/
def srcValue (f : NFmt) (x : Nat) : FVal × Nat :=
  match nfFloat f with
  | some g => (fdecode g x, 0)
  | none => if nfEscape f x then (ofInt 0, flNV) else (ofInt (signedOf f.width x), 0)

/-- A value converted to a format, with its flags (R188, R283). -/
def dstValue (f : NFmt) (v : FVal) : Nat × Nat :=
  match nfFloat f with
  | some g => finish g (v, snanFlag v)
  | none => let e := toIntAway (nfRange f).1 (nfRange f).2 v; (patternOf f.width e.1, e.2)

/-- One lane of VCVT. -/
def cvtLane (src dst : NFmt) (x : Nat) : Nat × Nat :=
  let v := srcValue src x
  let e := dstValue dst v.1
  (e.1, e.2 ||| v.2)

/-- Lanes written into a vector: L lanes from lane `first` of the destination's width on; the other lanes keep their value. -/
def writeLanes (w first l : Nat) (act : Nat → Bool) (f : Nat → Nat) (old : BitVec 1024) : BitVec 1024 :=
  mergeLanes w (fun j => decide (first ≤ j) && decide (j < first + l) && act (j - first)) (fun j => f (j - first)) old

/-- VCVT: L = 1,024 / max(ws, wd) lanes; PART selects lanes PART × L on of the narrower operand; the predicate's bit i governs
conversion lane i (R282, log entry 25). -/
def execSkVcvt (r : Rack) (t : Tid) (d a : Reg) (src dst : NFmt) (part : Fin 4) (p : Fin 8) (pn : Bool) (s : State) : Out :=
  .next (issueWf (.skVcvt r t d a src dst part p pn) r t false [] [.vreg d, .vreg a] (thenStep r t fun k =>
    let l := cvtLanes src dst
    let from' := if src.width < dst.width then part.val * l else 0
    let to' := if dst.width < src.width then part.val * l else 0
    let act := k.active p pn
    let c := fun j => cvtLane src dst (lane src.width (from' + j) (k.getV a))
    (k.setV d (writeLanes dst.width to' l act (fun j => (c j).1) (k.getV d))).orFlags (laneFlags l act fun j => (c j).2)) s)

/-! ### Scaled expansion and coding (R284) -/

/-- One lane of VSCL expand: v × s rounded once to BF16; an escape gives +0 (R208, R284). -/
def expandLane (f : NFmt) (sc : Word) (x : Nat) : Nat × Nat :=
  if nfEscape f x then (0, 0)
  else
    let v := (srcValue f x).1
    finish bf16 (fmulV v (val32 sc))

/-- One lane of VSCL code: the nearest integer to x / s with ties away from zero, beyond ±qmax set to ±qmax with OF; an FP format
narrows x / s (R188, R195, R284). The code of a NaN is not stated: a free value (log entry 18). -/
def codeLane (f : NFmt) (sc : Word) (x : Nat) : Nat × Nat :=
  let v := fdecode bf16 x
  match nfFloat f with
  | some g => finish g (fdivV v (val32 sc))
  | none =>
    let qmax := (nfRange f).2
    match v with
    | .nan sn => (Config.sclNanCode f.width % 2 ^ f.width, snanFlag (.nan sn))
    | .inf neg => (patternOf f.width (if neg then -qmax else qmax), flOF)
    | .fin neg n dn =>
      let q := q32 sc
      let c := roundAway (sgn neg n * q.2) (dn * q.1.natAbs)
      if c < -qmax then (patternOf f.width (-qmax), flOF) else if qmax < c then (patternOf f.width qmax, flOF)
      else (patternOf f.width c, if (n * q.2) % (dn * q.1.natAbs) = 0 then 0 else flNX)

/-- What every lane gives when s is not finite or not positive: 0 in a code format, the canonical NaN in others, and NV (R284). -/
def badScale (f : NFmt) : Nat × Nat :=
  match nfFloat f with
  | some g => (g.nan, flNV)
  | none => (0, flNV)

/-- VSCL KIND 0: the narrow lanes PART × 64 on of v_A, scaled, into 64 BF16 lanes of v_D (R284). -/
def execSkVsclExpand (r : Rack) (t : Tid) (d a b : Reg) (fmt : NFmt) (part : Fin 4) (p : Fin 8) (pn : Bool) (s : State) : Out :=
  .next (issueWf (.skVsclExpand r t d a b fmt part p pn) r t false [] [.vreg d, .vreg a, .sreg b] (thenStep r t fun k =>
    let sc := BitVec.ofNat 32 (k.f32 b)
    let act := k.active p pn
    let c := fun j => if posFin32 sc then expandLane fmt sc (lane fmt.width (64 * part.val + j) (k.getV a)) else badScale .bf16
    (k.setV d (mergeLanes 16 act (fun j => (c j).1) (k.getV d))).orFlags (laneFlags 64 act fun j => (c j).2)) s)

/-- VSCL KIND 1: 64 BF16 lanes of v_A, coded at the scale, into the narrow lanes PART × 64 on of v_D (R284). -/
def execSkVsclCode (r : Rack) (t : Tid) (d a b : Reg) (fmt : NFmt) (part : Fin 4) (p : Fin 8) (pn : Bool) (s : State) : Out :=
  .next (issueWf (.skVsclCode r t d a b fmt part p pn) r t false [] [.vreg d, .vreg a, .sreg b] (thenStep r t fun k =>
    let sc := BitVec.ofNat 32 (k.f32 b)
    let act := k.active p pn
    let c := fun j => if posFin32 sc then codeLane fmt sc (lane 16 j (k.getV a)) else badScale fmt
    (k.setV d (writeLanes fmt.width (64 * part.val) 64 act (fun j => (c j).1) (k.getV d))).orFlags
      (laneFlags 64 act fun j => (c j).2)) s)

end Sys2Proof.Machine
end

