-- ==== Sys2Proof/Machine/Position.lean ====
section
/-! DEFINITION. The position clock and the Position Event Table: counts from the encoder and the synthetic sources, index and PPS
edges, the rate window, idle, captures, table entries (R442 to R460, R479). -/

namespace Sys2Proof.Machine

/-! ### Counts (R443 to R448, R454) -/

/-- REVERSE set once the position lies more than POS_REV_MAX below H, cleared when it is back at H (R446). -/
def checkReverse (s : State) : State :=
  let back := s.pos.high - posUm s
  if back ≤ 0 then { s with pos := { s.pos with reverse := false } }
  else if !s.pos.reverse && decide (((rget .POS_REV_MAX 0 0 s).toNat : Int) < back) then
    raiseEvent 0x0B02 0 0 back.toNat none { s with pos := { s.pos with reverse := true } }
  else s

/-- The frame boundary of a step clock whose frame distance has reached FRAME_LEN (R454, R455). -/
def frameCheck (s : State) : State :=
  let len : Int := (rget .POS_FRAME_LEN 0 0 s).toNat
  if len ≤ s.pos.dist then boundary true { s with pos := { s.pos with frame := s.pos.frame + 1, dist := s.pos.dist - len } }
  else s

/-- The frame boundary that a step clock without a count still owes, after an apply that has shortened the frame (R454). -/
def frameTick (s : State) : State :=
  if ((rget .POS_FRAME_LEN 0 0 s).toNat : Int) ≤ s.pos.dist then latchGates (frameCheck s) else s

/-- The frame distance advanced by the increase of H, and the frame boundary that it reaches (R454, R455). -/
def advance (s : State) : State :=
  let up := max 0 (posUm s - s.pos.high)
  frameCheck { s with pos := { s.pos with high := s.pos.high + up, dist := s.pos.dist + up } }

/-- A write to POS_REV_MAX: the limit holds for the present reverse travel at once (R446). -/
def revMaxSet (v : Word) (s : State) : State := checkReverse (storeWrite .POS_REV_MAX 0 0 v s)

/-- Idle ends once the count has moved STILL_EXIT counts from its value at the declaration (R448). Tasting that idle allowed ends with it
(R180), and the trigger timeouts go on (R466). -/
def checkIdleExit (s : State) : State :=
  if s.pos.idle && decide (rfield .POS_CHECK 0 0 31 24 s ≤ (s.pos.count - s.pos.idleCount).toInt.natAbs) then
    let s := { s with
      pos := { s.pos with idle := false }
      cellar := { s.cellar with tasteLeft := if s.cellar.tasteLeft = none then some 0 else s.cellar.tasteLeft } }
    let later := fun (q : Seq) => { q with lastTrig := q.lastTrig + (s.now - max s.pos.idleAt q.lastTrig) }
    raiseEvent 0x0B05 0 0 (patternOf 64 (posUm s)) none (modSeq true later (modSeq false later s))
  else s

/-- One accepted count: position, H, frame distance, index interval, reverse travel, idle, position outputs, gates. -/
def applyCount (up : Bool) (s : State) : State :=
  let d : Int := if up then 1 else -1
  let turned := match s.pos.idxDir with
    | some u => u != up
    | none => false
  let s := { s with pos := { s.pos with
    count := s.pos.count + BitVec.ofInt 48 d
    winCounts := s.pos.winCounts + 1
    lastCount := s.now
    idxNet := s.pos.idxNet + d
    idxTurned := s.pos.idxTurned || turned
    idxDir := some up } }
  let s := checkIdleExit (checkReverse (advance s))
  latchGates ((List.range 16).foldl (fun s n => if feOn s then positionTrig n s else s) s)

/-- Whether a new (A, B) state follows the old one in the order 00, 01, 11, 10. -/
def quadUp (a b a' b' : Bool) : Bool := if a = b then (b' != b) && (a' == a) else (a' != a) && (b' == b)

/-- Whether a level of an input that has held for so many step clocks is accepted: FILT × 20 ns (R442). -/
def accepted (held : Nat) (s : State) : Bool := decide (4 * rfield .POS_CHECK 0 0 7 0 s ≤ held)

/-- ENCODER_EDGE: new levels of ENC_A and ENC_B have held for so many step clocks; a shorter pulse is discarded (R442). One change is one
count while the encoder is the source; two in one step clock are an error that changes no count (R443, R452). -/
def execEncoderEdge (a b : Bool) (held : Nat) (s : State) : Host.Outcome State Fault Refusal :=
  let a0 := s.pos.a
  let b0 := s.pos.b
  let t := { s with pos := { s.pos with a := a, b := b } }
  .next (if (a = a0 ∧ b = b0) ∨ accepted held s = false then s
    else if s.pos.src ≠ 0 then t
    else if a ≠ a0 ∧ b ≠ b0 then
      let t := bump .POS_QUAD_ERRS 0 0 1 t
      let due := match t.pos.quadEv with
        | some x => decide (x + 20000 ≤ t.now)
        | none => true
      if due then raiseEvent 0x0B04 0 0 t.pos.count.toNat none { t with pos := { t.pos with quadEv := some t.now } } else t
    else applyCount (xor (quadUp a0 b0 a b) s.pos.dir) t)

/-- An index closes its interval (R447). -/
def index (s : State) : State :=
  let cpr : Int := (rget .POS_CPR 0 0 s).toNat
  if cpr = 0 then s
  else
    let net := s.pos.idxNet
    let diff := if net < 0 then net + cpr else net - cpr
    let judged := !s.pos.idxFirst && !s.pos.idxTurned
    let s := { s with pos := { s.pos with idxNet := 0, idxFirst := false, idxTurned := false, idxDir := none } }
    if judged && decide (rfield .POS_CHECK 0 0 15 8 s < diff.natAbs) then
      raiseEvent 0x0B03 0 0 (patternOf 64 diff) none (bump .POS_IDX_ERRS 0 0 1 s)
    else s

/-- INDEX_EDGE: a rising edge of ENC_Z whose level has held for so many step clocks, while the encoder is the source (R442, R447, R452). -/
def execIndexEdge (held : Nat) (s : State) : Host.Outcome State Fault Refusal :=
  .next (if accepted held s && decide (s.pos.src = 0) then index s else s)

/-- The n-th count of synthetic rate is due n / RATE seconds after the rate or the source was set (R453). -/
def rateDue (s : State) : Bool :=
  decide ((s.pos.synN + 1) * 200000000 ≤ (s.now - s.pos.synLast) * rfield .POS_SYN_RATE 0 0 20 0 s)

/-- One synthetic count, with the synthetic index that every POS_CPR counts bring (R453). -/
def synthCount (up : Bool) (s : State) : State :=
  let s := applyCount up { s with pos := { s.pos with synIdx := s.pos.synIdx + (if up then 1 else -1) } }
  let cpr := (rget .POS_CPR 0 0 s).toNat
  if cpr ≠ 0 ∧ cpr ≤ s.pos.synIdx.natAbs then index { s with pos := { s.pos with synIdx := 0 } } else s

/-- SYNTHETIC_COUNT: the synthetic source in force produces one count, when one is due (R453). -/
def execSyntheticCount (s : State) : Host.Outcome State Fault Refusal :=
  .next (if s.pos.src = 1 && rateDue s then
      synthCount (!rflag .POS_SYN_RATE 0 0 31 s) { s with pos := { s.pos with synN := s.pos.synN + 1 } }
    else if s.pos.src = 2 && decide (s.pos.synDebt ≠ 0) && decide (s.pos.synLast < s.now) then
      let up := decide (0 < s.pos.synDebt)
      synthCount up { s with pos := { s.pos with synDebt := s.pos.synDebt - (if up then 1 else -1), synLast := s.now } }
    else s)

/-- A value written to POS_SYN_STEP (R453); outside −2,048 to +2,047 it is discarded (R478). -/
def synStep (v : Word) (s : State) : State :=
  let k := signedOf 16 v.toNat
  if k < -2048 || decide (2047 < k) then rejectWrite .POS_SYN_STEP 0 0 s
  else if s.pos.src = 2 then { s with pos := { s.pos with synDebt := s.pos.synDebt + k } }
  else s

/-- POS_SYN_STEP_WRITE: a host write to POS_SYN_STEP. -/
def execPosSynStepWrite (v : Word) (s : State) : Host.Outcome State Fault Refusal := .next (hostWrite .POS_SYN_STEP 0 0 (synStep v) s)

/-! ### PPS, the rate window and idle (R445, R448, R449) -/

/-- PPS_EDGE: a rising edge whose level has held for so many step clocks latches the step clock, and its interval is checked (R442,
R449). -/
def execPpsEdge (held : Nat) (s : State) : Host.Outcome State Fault Refusal :=
  let gap := s.now - s.pos.pps
  let bad := s.pos.ppsSeen && (decide (gap < 199800000) || decide (200200000 < gap))
  let t := { s with pos := { s.pos with pps := s.now, ppsSeen := true, ppsOk := true } }
  .next (if !accepted held s then s else if bad then raiseEvent 0x0B06 0 1 gap none t else t)

/-- PPS_LOST: no PPS edge for 1.5 s (R449). -/
def execPpsLost (s : State) : Host.Outcome State Fault Refusal :=
  .next (if s.pos.ppsOk && decide (s.pos.pps + 300000000 ≤ s.now) then
      raiseEvent 0x0B06 0 0 (s.now - s.pos.pps) none { s with pos := { s.pos with ppsOk := false } }
    else s)

/-- RATE_WINDOW_END: a 100 µs window ends, and its counts are held against POS_RATE_MAX (R445). -/
def execRateWindowEnd (s : State) : Host.Outcome State Fault Refusal :=
  let n := s.pos.winCounts
  .next (if s.pos.winStart + 20000 ≤ s.now then
      let s := { s with pos := { s.pos with winCounts := 0, winStart := s.now } }
      if rfield .POS_RATE_MAX 0 0 20 0 s < n * 10000 then
        raiseEvent 0x0B01 0 0 n none (rput .POS_STATUS 0 0 29 29 1 (bump .POS_RATE_ERRS 0 0 1 s))
      else s
    else s)

/-- IDLE_DECLARE: no count for POS_STILL ms, the step clock in which that time expired included: the declaration stands after it, so that a
count of that step clock has come first; the step clock of the declaration is an idle boundary (R448; log entry 139). -/
def execIdleDeclare (s : State) : Host.Outcome State Fault Refusal :=
  .next (if !s.pos.idle && decide (s.pos.lastCount + rfield .POS_STILL 0 0 15 0 s * 200000 < s.now) then
      let s := { s with pos := { s.pos with idle := true, idleCount := s.pos.count, idleAt := s.now } }
      boundary false (raiseEvent 0x0B05 0 1 (patternOf 64 (posUm s)) none s)
    else s)

/-! ### Captures (R479) -/

/-- The capture of a read of POS_COUNT_LO, with the value read. -/
def capture (s : State) : Word × State :=
  (BitVec.ofNat 32 s.pos.count.toNat,
    { s with pos := { s.pos with capCount := s.pos.count.toNat, capP := posUm s, capFrame := posFrame s } })

/-- POS_CAPTURE_READ: a host read of POS_COUNT_LO. -/
def execPosCaptureRead (s : State) : Host.Outcome State Fault Refusal := .next (regRead (regOff .POS_COUNT 0 0) capture s)

/-- The latch of a read of POS_PPS_LO, with the value read. -/
def capturePps (s : State) : Word × State :=
  (BitVec.ofNat 32 s.pos.pps, { s with pos := { s.pos with capPps := s.pos.pps } })

/-- PPS_CAPTURE_READ: a host read of POS_PPS_LO. -/
def execPpsCaptureRead (s : State) : Host.Outcome State Fault Refusal := .next (regRead (regOff .POS_PPS 0 0) capturePps s)

/-! ### The Position Event Table (R457 to R460) -/

/-- A staged word of a table entry: PET_W0 to PET_W2. -/
def petStaged (k : Nat) (s : State) : Nat := (Store.getD 0 k s.pos.petStage).toNat

/-- Whether the TARGET of an entry is one its kind has (Table 13.2). -/
def petTargetOk (kind target : Nat) : Bool :=
  match kind with
  | 0 => decide (target = 0)
  | 1 => decide (target = 0)
  | 3 => decide (target = 0)
  | 6 => decide (target < 256)
  | _ => true

/-- Whether an entry is one that host software may install: a kind of Table 13.2 that is not the device's own, with a TARGET it has, no
reserved condition, and the bits that Table 13.1 gives as zero. -/
def petAllowed (w : Nat) : Bool :=
  decide (bits 115 112 w ≤ 6) && decide (bits 115 112 w ≠ 4) && decide (bits 117 116 w ≠ 3) && decide (bits 119 118 w = 0) &&
    decide (bits 127 122 w = 0) && petTargetOk (bits 115 112 w) (bits 111 96 w) &&
    (decide (bits 117 116 w ≠ 2) || decide (bits 63 48 w = 0))

/-- The entry that was in force as the present step clock began, where PET_W3 has replaced it in this step clock (R459). -/
def petOldNow (e : Nat) (s : State) : Option Nat :=
  (s.pos.petOld.find e).bind fun x => if x.1 = s.now then some x.2.toNat else none

/-- Whether an entry was installed in the present step clock: it is scanned from the next scan on (R459). -/
def petNew (e : Nat) (s : State) : Bool := (petOldNow e s).isSome

/-- The entry that the scan of the present step clock sees (R459). -/
def petSeen (e : Nat) (s : State) : Nat := (petOldNow e s).getD (petGet e s)

/-- An entry installed whole by the write of PET_W3; FIRED stays as it was (R459, R460). -/
def petInstall (v : Word) (s : State) : State :=
  let e := rfield .PET_SEL 0 0 11 0 s
  let w := petStaged 0 s + 2 ^ 32 * petStaged 1 s + 2 ^ 64 * petStaged 2 s + 2 ^ 96 * v.toNat
  if 4096 ≤ e + rfield .RG_GATE_POOL 0 0 11 0 s then raiseEvent 0x0B10 0 0 e none s
  else if !petAllowed w then rejectWrite .PET_W 0 3 s
  else
    let s := if petNew e s then s else { s with pos := { s.pos with petOld := s.pos.petOld.put e (s.now, BitVec.ofNat 128 (petGet e s)) } }
    petPut e (w - bits 121 121 w * 2 ^ 121 + bits 121 121 (petGet e s) * 2 ^ 121) s

/-- PET_ENTRY_WRITE: a host write to PET_W3. -/
def execPetEntryWrite (v : Word) (s : State) : Host.Outcome State Fault Refusal := .next (hostWrite .PET_W 0 3 (petInstall v) s)

/-- How many pitches make the condition of an entry false (R458). -/
def petSteps (w : Nat) (s : State) : Nat :=
  let pitch := bits 95 64 w
  match bits 117 116 w with
  | 0 => (posUm s - signedOf 64 w).toNat / pitch + 1
  | 1 => (signedOf 64 w - posUm s).toNat / pitch + 1
  | _ => (posFrame s - bits 47 0 w) / pitch + 1

/-- What an entry becomes that has fired: done, or moved by its pitch (R458). -/
def petNext (w : Nat) (s : State) : Nat :=
  let pitch := bits 95 64 w
  if pitch = 0 then w - 2 ^ 120 + (if bitAt 121 w then 0 else 2 ^ 121)
  else
    let k := petSteps w s
    let pos := if bits 117 116 w = 2 then (bits 47 0 w + k * pitch) % 2 ^ 48
      else patternOf 64 (if bits 117 116 w = 0 then signedOf 64 w + k * pitch else signedOf 64 w - k * pitch)
    w - w % 2 ^ 64 + pos

/-- An entry after it has fired: it advances, unless a new one has taken its place in this step clock, and the pitches it has missed are
counted (R458, R459). -/
def petAdvance (e w : Nat) (s : State) : State :=
  let k := petSteps w s
  let s := if petNew e s then s else petPut e (petNext w s) s
  if bits 95 64 w ≠ 0 ∧ 1 < k then raiseEvent 0x0B07 e 0 (k - 1) none (bump .PET_MISSES 0 0 (k - 1) s) else s

/-- The action of an entry's kind (Table 13.2). -/
def petAction (e w : Nat) (s : State) : State :=
  let target := bits 111 96 w
  match bits 115 112 w with
  | 0 => if feOn s && decide (trigSrc false s = 3) then trigger false s else s
  | 1 => if feOn s && decide (trigSrc true s = 3) then trigger true s else s
  | 2 =>
    if feOn s then (maskBits 16 target).foldl (fun s n => if trigMode n s = 3 then pulseOrMiss n 0 s else s) s else s
  | 3 => allowTasting (some (rfield .CT_TASTE_CFG 0 0 7 0 s)) (owedTastes s) s
  | 4 => latchGates s
  | 5 => raiseEvent 0x0B08 e target (patternOf 64 (posUm s)) none s
  | 6 => if feOn s then (maskBits 8 target).foldl (fun s n => modDac n (fun d => { d with clearPhase := true }) s) s else s
  | _ => s

/-- Whether the scan of the present step clock fires an entry: it is valid and its condition holds (R458). -/
def petDue (e : Nat) (s : State) : Bool := bitAt 120 (petSeen e s) && petHolds (petSeen e s) s

/-- Whether the scan has passed an entry of the present step clock (R458). -/
def petPassed (e : Nat) (s : State) : Bool :=
  match s.pos.petAt with
  | some (t, m) => decide (t = s.now) && decide (e ≤ m)
  | none => false

/-- Whether the scan is at an entry: it sees 16 in each step clock, entry 0 with a multiple of 256, in ascending order (R458; log entry
140). -/
def petTurn (e : Nat) (s : State) : Bool :=
  decide (s.now % 256 = e / 16) && !petPassed e s &&
    (List.range (e % 16)).all fun j => petPassed (e / 16 * 16 + j) s || !petDue (e / 16 * 16 + j) s

/-- PET_ENTRY_FIRE: the scan reaches a valid entry whose condition holds; it acts, and clears or advances (R458). -/
def execPetEntryFire (n : Fin 4096) (s : State) : Host.Outcome State Fault Refusal :=
  .next (if petTurn n.val s && petDue n.val s then
      let w := petSeen n.val s
      petAdvance n.val w (petAction n.val w { s with pos := { s.pos with petAt := some (s.now, n.val) } })
    else s)

end Sys2Proof.Machine
end

