-- ==== Sys2Proof/Machine/Sync.lean ====
section
/-! DEFINITION. Sync objects from outside the racks, and event queues: host signals, remote signals, the remote-wait timeout, the EQ
registers (R362 to R365, R375, R378, R380, R438). -/

namespace Sys2Proof.Machine

/-! ### Sync objects (R362, R364, R365) -/

/-- A write to SY_SIGNAL adds its signed value to the selected object (R365). -/
def hostSignal (v : Word) (s : State) : State := signal (rfield .SY_SEL 0 0 15 0 s) (signedOf 32 v.toNat) none s

/-- HOST_SIGNAL (R365). -/
def execHostSignal (v : Word) (s : State) : Host.Outcome State Fault Refusal := .next (hostWrite .SY_SIGNAL 0 0 (hostSignal v) s)

/-- A write to SY_SEL: OBJECT selects first, then a 1 in WRAP clears the bit of that object (R365). -/
def sySelect (v : Word) (s : State) : State :=
  let s := rset .SY_SEL 0 0 (BitVec.ofNat 32 (fieldOf 15 0 v)) s
  if flagOf 31 v then { s with wraps := Store.drop (fieldOf 15 0 v) s.wraps } else s

/-- SY_SEL_WRITE (R365). -/
def execSySelWrite (v : Word) (s : State) : Host.Outcome State Fault Refusal := .next (hostWrite .SY_SEL 0 0 (sySelect v) s)

/-- Whether a member's route goes through a port that is up, so that it is lost when the port goes down (R436). -/
def behindPort (m p : Nat) (s : State) : Bool :=
  routeValid m s && decide (routePort m s = p) && decide ((getPort p s).st = .up)

/-- Whether a register write clears the PORT_EN bit of a port (R429, Table 12.11). -/
def disablesPort (p off size : Nat) (v : DWord) : Bool :=
  (decide (off = regOff .BV_CTRL 0 0) && !bitAt p v.toNat) ||
    (decide (size = 8) && decide (off + 4 = regOff .BV_CTRL 0 0) && !bitAt (32 + p) v.toNat)

/-- Whether a command takes a member's heartbeats as lost in this rack clock (R429, R436). -/
def losesMember (m : Nat) (s : State) : Instr → Bool
  | .peerLivenessTimeout m' => decide (m'.val = m) && decide ((Store.getD PeerRec.init m s.bv.peers).last + 400 ≤ s.now)
  | .heartbeatReceive v m' e =>
    decide (m'.val = m) && decide (v.dest.val = ownMember s) && decide ((Store.getD PeerRec.init m s.bv.peers).epoch ≠ e)
  | .portLivenessTimeout p => behindPort m p.val s && decide ((getPort p.val s).lastRx + 400 ≤ s.now)
  | .portDisable p => behindPort m p.val s
  | .registerWrite _ off size v => behindPort m (routePort m s) s && disablesPort (routePort m s) off size v
  | .burivoFlitReceive p _ _ crcOk =>
    behindPort m p.val s && !crcOk && (getPort p.val s).replaying && decide (15 ≤ (getPort p.val s).fails)
  | _ => false

/-- REMOTE_SIGNAL_ARRIVE: a signal from a present member takes effect on the local object and is acknowledged; from any other, and from
one that is declared lost in the same rack clock, it is discarded (R362, R433, R435, R437). The commands that wait in the queue fall in
the same rack clock: time passes on an empty queue only (log entry 124). -/
def execRemoteSignalArrive (via : Via) (m : Member) (obj : BitVec 16) (v : Word) (s : State) : Host.Outcome State Fault Refusal :=
  .next (arrive via m (.signal obj v) (fun s =>
    if memberPresent m.val s && !s.pending.any (losesMember m.val s) then
      ackPeer m.val via.id true (signal obj.toNat (signedOf 32 v.toNat) none (heardFrom m.val s))
    else s) s)

/-- Whether a wait that began at a step clock has reached the remote-wait timeout (R438). -/
def rwaitOver (since : Nat) (s : State) : Bool := decide (since + rfield .BV_RWAIT_TMO 0 0 19 0 s * 200000 ≤ s.now)

/-- REMOTE_WAIT_TIMEOUT: an SY.WAITR ends with result 1; a packet waiting with WAIT_REMOTE completes with TIMEOUT (R295, R364, R438). -/
def execRemoteWaitTimeout (w : Waiter) (s : State) : Host.Outcome State Fault Refusal :=
  .next (match w with
    | .thread r t =>
      let k := getThread r.val t.val s
      match k.wait with
      | some (.sync _ _ d true) => if rwaitOver k.since s then releaseWith r.val t.val d 1 s else s
      | _ => s
    | .packet n =>
      match (getRing n.val s).front with
      | some f => if rwaitOver f.since s then failRemoteWait false 6 n s else s
      | none => s)

/-! ### Event queues (R375, R378, R380) -/

/-- A write to EQ_HEAD: taken unless it would leave more than a queue's length behind the tail (R375). -/
def eqHead (e : Nat) (v : Word) (s : State) : State :=
  if (rget .EQ_TAIL 0 e s - v).toNat ≤ 2 ^ rfield .EQ_CFG 0 e 20 16 s then rset .EQ_HEAD 0 e v s else raiseEvent 0x0801 0 0 (2 ^ 10) none s

/-- EQ_HEAD_WRITE (R375). -/
def execEqHeadWrite (e : Fin 16) (v : Word) (s : State) : Host.Outcome State Fault Refusal :=
  .next (hostWrite .EQ_HEAD 0 e.val (eqHead e.val v) s)

/-- A write to EQ_ARM: 1 arms the queue, or raises its vector at once when records wait (R378). -/
def eqArm (e : Nat) (v : Word) (s : State) : State :=
  if !flagOf 0 v then s
  else if rget .EQ_TAIL 0 e s = rget .EQ_HEAD 0 e s then { s with armed := s.armed.add e }
  else raiseVector (rfield .EQ_CFG 0 e 10 0 s) { s with armed := Store.drop e s.armed }

/-- EQ_ARM_WRITE (R378). -/
def execEqArmWrite (e : Fin 16) (v : Word) (s : State) : Host.Outcome State Fault Refusal :=
  .next (hostWrite .EQ_ARM 0 e.val (eqArm e.val v) s)

/-- A write to EQ_CFG: out of range where it enables a queue whose array would reach the usable capacity; LOG2SIZE only while the queue
is disabled (R380, R564). -/
def eqCfg (e : Nat) (v : Word) (s : State) : State :=
  let last := rpair .EQ_BASE_LO .EQ_BASE_HI e s + 32 * 2 ^ fieldOf 20 16 v
  if flagOf 31 v && decide (usable s < last) then rejectWrite .EQ_CFG 0 e s else storeWrite .EQ_CFG 0 e v s

/-- EQ_CFG_WRITE (R380). -/
def execEqCfgWrite (e : Fin 16) (v : Word) (s : State) : Host.Outcome State Fault Refusal :=
  .next (hostWrite .EQ_CFG 0 e.val (eqCfg e.val v) s)

end Sys2Proof.Machine
end

