-- ==== Sys2Proof/Machine/Tasting.lean ====
section
/-! DEFINITION. Tasting: the order of runs, the vectors through a cask, and the comparison (R176 to R182, R185). -/

namespace Sys2Proof.Machine

/-! ### Which cask is next (R180) -/

/-- Whether tasting covers a cask: racked, with its shadow. -/
def tasteable (c : Nat) (s : State) : Bool := (getCask c s).racked && (getCask c s).shadowOk

/-- The cask numbers in round-robin order from one on. -/
def robinFrom (c : Nat) : List Nat := (List.range 4096).map fun k => (c + k) % 4096

/-- Whether a cask may be tasted now: racked, with its shadow, not held, no diagnosis due first, in service, and its domains on and not
going off (R176, R180, R181, R523, R532). -/
def tasteFree (c : Nat) (s : State) : Bool :=
  tasteable c s && !caskStopped c s && !(getCask c s).diagDue && caskUp c s

/-- The cask that the next run tastes: the lowest of those owed at this point, else the next of the round robin; a held cask is passed
over, one released since the point waits for the next one (R176, R180). -/
def tasteNext (s : State) : Option Nat :=
  match (List.range 4096).find? fun c => s.cellar.owed.contains c && tasteFree c s with
  | some c => some c
  | none => (robinFrom s.cellar.tasteFrom).find? fun c => tasteFree c s && !(getCask c s).tasteDue

/-- The round robin past a cask: a held cask that was passed over is kept as the next one; a cask owed its tasting leaves it as it is. -/
def robinPast (c : Nat) (s : State) : State :=
  let next := ((robinFrom s.cellar.nextTaste).find? fun x => tasteable x s && (decide (x = c) || (getCask x s).hold.isSome)).getD c
  if s.cellar.owed.contains c then { s with cellar := { s.cellar with owed := s.cellar.owed.filter (· ≠ c) } }
  else { s with cellar := { s.cellar with
    tasteFrom := (c + 1) % 4096
    nextTaste := if next = c then (c + 1) % 4096 else next } }

/-- One of the runs that the present point allows is used. -/
def countTaste (s : State) : State := { s with cellar := { s.cellar with tasteLeft := s.cellar.tasteLeft.map (· - 1) } }

/-! ### Vectors through the cask (R179) -/

/-- A tasting vector as the codes of a token. -/
def tasteCodes (c k : Nat) : List Byte := (tasteVector c k).map fun x => BitVec.ofInt 8 x

/-- The vectors of a held cask, once nothing else is in progress on it, as the tokens of an operation under the gain group in force, which
asks for credits as any does (R179). -/
def putVectors (c : Nat) (s : State) : State :=
  let n := rfield .CT_TASTE_CFG 0 0 9 8 s + 1
  let run : RunOp := ⟨.taste, probeOp s.nextOp n (caskW5 c s), (List.range n).map (tasteCodes c), none, none, none, 0, 0, [], false, 0⟩
  if (getCask c s).quiet then modCask c (fun k => { k with running := k.running ++ [run] }) { s with nextOp := s.nextOp + 1 } else s

/-- A tasting run begins: the cask is held, and the operation in progress on it completes first (R179). -/
def startTaste (c : Nat) (s : State) : State :=
  let s := countTaste (robinPast c (bump .CT_TASTE_RUNS 0 0 1 s))
  putVectors c (modCask c (fun k => { k with hold := some .tasting, tasteDue := false }) s)

/-! ### The comparison (R179, R182) -/

/-- The difference y − g_eff × y_exact of a column in 2⁻¹⁴⁹, and the tolerance of R179 in 2⁻¹⁴⁹ / 1,000. -/
def tasteDiff (g : Word) (y exact : Int) : Int := y * 2 ^ 149 - sval g * exact

/-- Whether a column passes. -/
def tastePass (tol g : Word) (y exact : Int) (abs : Nat) (q : Int) : Bool :=
  decide (1000 * ((tasteDiff g y exact).natAbs : Int) ≤
    (fieldOf 7 0 tol : Int) * sval g * abs + 1000 * (fieldOf 15 8 tol : Int) * q * 2 ^ 149)

/-- The first failing column of a vector's results against its record, with its difference. -/
def tasteFirst (w5 : Bool) (pin : List Word) (tol g : Word) (cs : List Conv) (rec' : List Byte) : Option (Nat × Word) :=
  (List.range (columns w5)).findSome? fun j =>
    let y := columnSum w5 cs j
    let exact := signedOf 32 (leAt (8 * j) 4 rec')
    if pinnedColumn w5 pin j || tastePass tol g y exact (leAt (8 * j + 4) 4 rec') (convQ cs) then none
    else some (j, ratWord (tasteDiff g y exact) (2 ^ 149))

/-- A failed run: counted, SUSPECT set, EV_TASTE_FAIL; the first failure of a cask asks for a diagnosis and a second run; when that fails
too the cask stays suspect until it is racked again (R182). -/
def tasteFailed (c v j : Nat) (diff : Word) (s : State) : State :=
  let again := (getCask c s).tasteRepeat
  let s := bump .CT_TASTE_FAILS 0 0 1 s
  let s := if again then modCask c (fun k => { k with suspect := true, condemned := true }) s
    else modCask c (fun k => { k with tasteRepeat := true }) (setSuspect c s)
  raiseEvent 0x0404 c (v + 2 ^ 24 * again.toNat) (j + 2 ^ 32 * diff.toNat) none s

/-- A run that passed: SUSPECT clears, unless its diagnosis is still due or a repeated run has failed (R176, R182). -/
def tastePassed (c : Nat) (s : State) : State :=
  modCask c (fun k => if k.diagDue || k.condemned then k else { k with suspect := false, tasteRepeat := false }) s

/-- A run's results compared with the cask's records, each unpinned column under the pin set of the run. -/
def tasteCompare (c : Nat) (pin : List Word) (runs : List (List Conv)) (s : State) : State :=
  match readDram (tasteAt c s) (4096 * runs.length) none s with
  | (.ok bs, s) =>
    let first := runs.zipIdx.findSome? fun e =>
      (tasteFirst (caskW5 c s) pin (rget .CT_TASTE_TOL 0 0 s) (gEff c s) e.1 (bs.drop (4096 * e.2))).map fun x => (e.2, x)
    match first with
    | some (v, j, d) => tasteFailed c v j d s
    | none => tastePassed c s
  | (_, s) => s

/-- The run in progress on a cask, once every vector is converted. -/
def tasteOver (k : Cask) : Option RunOp := (k.probe .taste).filter k.probeDone

/-- A tasting run ends: the cask is released, and the results are compared (R179). -/
def endTaste (c : Nat) (o : RunOp) (s : State) : State :=
  let k := getCask c s
  tasteCompare c (o.pins.getD (pinWords c s)) ((List.range o.op.ntok).map (k.convsOf o.op.op))
    (modCask c (fun k => { k.endProbe o.op.op with hold := none }) s)

/-- Whether a tasting run may begin on a cask now. -/
def mayTaste (c : Nat) (s : State) : Bool :=
  rflag .CT_CTRL 0 0 3 s && !rflag .CT_CTRL 0 0 8 s && decide (s.cellar.tasteLeft ≠ some 0) && decide (tasteNext s = some c)

/-- TASTING_RUN: at a point that allows it, the next cask is held and its vectors go through it; once they are converted it is released and
they are compared (R176, R179 to R182). -/
def execTastingRun (c : CaskId) (s : State) : Host.Outcome State Fault Refusal :=
  .next (match tasteOver (getCask c.val s) with
    | some o => if frozenWhere (·.coversCask c.val) s then s else endTaste c.val o s
    | none =>
      if decide ((getCask c.val s).hold = some .tasting) then putVectors c.val s
      else if mayTaste c.val s then startTaste c.val s
      else s)

/-- The tasting records of every racked cask with its shadow computed again (R185). -/
def retaste (s : State) : State :=
  ((s.casks.filter fun e => e.2.racked && e.2.shadowOk).map (·.1)).foldl (fun s c =>
    match readShadow none c s with
    | (some rows, s) => putTaste c (caskW5 c s) rows s
    | (none, s) => s) s

/-- A write to CT_TASTE_BASE_LO or CT_TASTE_BASE_HI; one that takes effect has every record computed at the new base (R185). -/
def tasteBaseSet (hi : Bool) (v : Word) (s : State) : State :=
  let n := if hi then RegName.CT_TASTE_BASE_HI else .CT_TASTE_BASE_LO
  if writeOk n 0 0 v s then retaste (storeWrite n 0 0 v s) else storeWrite n 0 0 v s

/-- TASTE_BASE_WRITE (R185). -/
def execTasteBaseWrite (hi : Bool) (v : Word) (s : State) : Host.Outcome State Fault Refusal :=
  .next (hostWrite (if hi then .CT_TASTE_BASE_HI else .CT_TASTE_BASE_LO) 0 0 (tasteBaseSet hi v) s)

end Sys2Proof.Machine
end

