-- ==== Sys2Proof/Machine/Registers.lean ====
section
/-! DEFINITION. Register accesses through BAR0 and the cellarer's port: what a write to each register does, what a read of each register
returns, and the rows of the commit groups (R1 to R14, R418, R419, R425, R534, R563, R564). -/

namespace Sys2Proof.Machine

/-! ### Writes with an effect of their own -/

/-- A host write to a journaled register: its fields, then its entry (Table 16.10). -/
def journaledWrite (src : Source) (r : RegRef) (v : Word) (s : State) : State :=
  let ok := writeOk r.name r.unit r.idx v s
  let old := rget r.name r.unit r.idx s
  let s := storeWrite r.name r.unit r.idx v s
  if ok && decide (src = .host) then journal 2 0 r.unit r.off 0 old (rget r.name r.unit r.idx s) s else s

/-- A write to PM_ON: every domain whose bit changes is requested on or off (R531). -/
def pmOnWrite (i : Nat) (v : Word) (s : State) : State :=
  (List.range 32).foldl (fun s b =>
    let d := 32 * i + b
    if flagOf b v = askedOn d s then s else if flagOf b v then domainOn d s else domainOff d s) s

/-- A write to RG_CMD: one command, or RESET; both together are no command of Table 10.17 and are rejected (R340). -/
def rgCmd (v : Word) (s : State) : State :=
  let n := selectedRing s
  match flagOf 2 v, fieldOf 1 0 v with
  | false, 0 => s
  | false, 1 => ringEnable s
  | false, 2 => ringStop s
  | false, _ => ringResume s
  | true, 0 => ringReset s
  | true, k => rejectCmd (4 + k) n s

/-- A write to RG_GATE_POOL: entries that join a pool that grows are cleared (R460). -/
def gatePool (v : Word) (s : State) : State :=
  let old := rfield .RG_GATE_POOL 0 0 11 0 s
  let s := storeWrite .RG_GATE_POOL 0 0 v s
  let new := rfield .RG_GATE_POOL 0 0 11 0 s
  (List.range (new - old)).foldl (fun s k => petPut (4096 - new + k) 0 s) s

/-- A write to CAL_CTRL: discarded whole where its SCOPE is none of Table 14.1 (R564), else GO with its checks, or the fields, and ABORT
(R483, R493). What the device measures at REFCAL is free here. -/
def calCtrl (v : Word) (s : State) : State :=
  let uv := (Config.freeWord s.freeCtr).toInt
  let s := drawFree s
  if !rangeOk .CAL_CTRL v then rejectWrite .CAL_CTRL 0 0 s
  else
    let s := if flagOf 31 v then calGo v uv s else storeWrite .CAL_CTRL 0 0 v s
    if flagOf 30 v then calAbort s else s

/-- A write to RK_CTRL: when QUIESCE falls, the rebuilds that waited are made (R128, R135). -/
def rkCtrl (v : Word) (s : State) : State :=
  let was := rflag .RK_CTRL 0 0 8 s
  let s := storeWrite .RK_CTRL 0 0 v s
  if was && !rflag .RK_CTRL 0 0 8 s then rebuildAll s else s

/-- A write to POS_SYN_RATE: the synthetic counts are spaced from here on (R453). -/
def synRate (v : Word) (s : State) : State :=
  let ok := writeOk .POS_SYN_RATE 0 0 v s
  let s := storeWrite .POS_SYN_RATE 0 0 v s
  if ok then { s with pos := { s.pos with synLast := s.now, synN := 0 } } else s

/-- A write to a trigger register of a sequence: its timeout starts (R466). -/
def trigWrite (inj : Bool) (v : Word) (s : State) : State :=
  let n := trigReg inj
  let ok := writeOk n 0 0 v s
  let s := storeWrite n 0 0 v s
  if ok then modSeq inj (fun q => { q with lastTrig := s.now }) s else s

/-- A write to FE_SW_TRIG: bit 0 triggers the regular sequence, bit 1 the injected one (R464). -/
def swTrig (v : Word) (s : State) : State :=
  let s := if flagOf 0 v then softTrigger false s else s
  if flagOf 1 v then softTrigger true s else s

/-- A write to CK_CTRL or RP_CTRL: quiesce or resume, where QUIESCE changes (R78, R262). -/
def quiesceWrite (n : RegName) (u : Nat) (v : Word) (quiesce resume : Nat → State → State) (s : State) : State :=
  if flagOf 0 v = rflag n u 0 0 s then s else if flagOf 0 v then quiesce u s else resume u s

/-- A write to CK_CONFIG: Quiesced only, journaled, and written to the configuration cells (R53, R81, R546). -/
def ckConfig (src : Source) (c : Nat) (v : Word) (s : State) : State :=
  let ok := writeOk .CK_CONFIG c 0 v s
  let s := journaledWrite src ⟨.CK_CONFIG, c, 0⟩ v s
  if ok then startSaving c s else s

/-- The cask whose home window an access names: the one LG_HOME_SEL selects, or the one the cellarer's port does (R105, R115). -/
def homeNamed (src : Source) (s : State) : Nat :=
  match src with
  | .port e => e % 4096
  | _ => rfield .LG_HOME_SEL 0 0 11 0 s

/-- A write to LG_HOME_DATA: the home window of the named cask (R105, R115). -/
def homeWrite (src : Source) (v : Word) (s : State) : State :=
  { s with ledger := { s.ledger with home := s.ledger.home.put (homeNamed src s) (fieldOf 4 0 v) } }

/-- A write of PET_W: words 0 to 2 are staged, word 3 installs the entry (R459). -/
def petWrite (k : Nat) (v : Word) (s : State) : State :=
  if k = 3 then petInstall v s else { s with pos := { s.pos with petStage := Store.setD 0 k v s.pos.petStage } }

/-- A write to a COMMIT register: discarded whole where another owns the group (R142, R224), else BUSY_ERR clears where it is written 1, then
the ACTION (Table 0.5). -/
def commitWrite (src : Source) (c : RegRef) (v : Word) (s : State) : State :=
  if commitOwned src c s then ownerBusy c c.off (decide (fieldOf 17 16 v = 1) || decide (fieldOf 17 16 v = 2)) s
  else
  let s := if flagOf 30 v then rput c.name c.unit c.idx 30 30 0 s else s
  commitAction src c (fieldOf 17 16 v) s

/-- What a write to a register does, once it reaches its block. -/
def regEffect (src : Source) (r : RegRef) (v : Word) (s : State) : State :=
  match r.name with
  | .PM_ON => pmOnWrite r.idx v s
  | .BOOT_CMD => bootGo v s
  | .LIB_BASE_LO => libBaseSet false v s
  | .LIB_BASE_HI => libBaseSet true v s
  | .LG_ROW_DATA => writeRow src v s
  | .LG_HOME_DATA => homeWrite src v s
  | .RK_CTRL => rkCtrl v s
  | .RK_SHADOW_LO => shadowBaseSet false v [] s
  | .RK_SHADOW_HI => shadowBaseSet true v [] s
  | .CT_TASTE_BASE_LO => tasteBaseSet false v s
  | .CT_TASTE_BASE_HI => tasteBaseSet true v s
  | .RS_BASE_LO => journaledWrite src r v s
  | .RS_BASE_HI => journaledWrite src r v s
  | .RS_GROUPS_LO => journaledWrite src r v s
  | .RS_GROUPS_HI => journaledWrite src r v s
  | .RS_REFOLD => refoldSet src v s
  | .CAL_CTRL => calCtrl v s
  | .MC_CTRL => mcCtrl v s
  | .MC_SCRUB_CTRL => scrubCtrl v s
  | .RG_CMD => rgCmd v s
  | .RG_GATE_POOL => gatePool v s
  | .SY_SEL => sySelect v s
  | .SY_SIGNAL => hostSignal v s
  | .EQ_CFG => eqCfg r.idx v s
  | .EQ_HEAD => eqHead r.idx v s
  | .EQ_ARM => eqArm r.idx v s
  | .POS_CTRL => journaledWrite src r v s
  | .POS_REV_MAX => revMaxSet v s
  | .POS_SYN_RATE => synRate v s
  | .POS_SYN_STEP => synStep v s
  | .PET_W => petWrite r.idx v s
  | .FE_ADC_CTRL => adcCtrl v s
  | .FE_REG_TRIG => trigWrite false v s
  | .FE_INJ_TRIG => trigWrite true v s
  | .FE_SW_TRIG => swTrig v s
  | .FE_DAC_CTRL => dacConfig .FE_DAC_CTRL r.idx v s
  | .FE_DAC_SUP => dacConfig .FE_DAC_SUP r.idx v s
  | .FE_DAC_STATUS => dacStatus r.idx v s
  | .FE_TBL_DATA => tblWrite v s
  | .BV_CTRL => bvCtrl v s
  | .HG_CTRL => hangConfig .HG_CTRL v s
  | .HG_THREAD_BUDGET => hangConfig .HG_THREAD_BUDGET v s
  | .HG_RING_BUDGET => hangConfig .HG_RING_BUDGET v s
  | .HG_CASK_BUDGET => hangConfig .HG_CASK_BUDGET v s
  | .HG_RESET => resetRequest v s
  | .HG_RESUME => hostResume v s
  | .LC_REQ => lcRequest v s
  | .LC_SVN => svnRaise v s
  | .LC_ERASE => coldEraseWrite v s
  | .AT_CMD => attestCmd v s
  | .JR_SEL => jrSelect v s
  | .RP_CTRL => quiesceWrite .RP_CTRL r.unit v rpQuiesce rpResume s
  | .CK_CTRL => quiesceWrite .CK_CTRL r.unit v ckQuiesce ckResume s
  | .CK_CONFIG => ckConfig src r.unit v s
  | _ =>
    if r.name.desc.commit then commitWrite src r v s
    else if (groupOf r).isSome then stageWrite src r v s
    else storeWrite r.name r.unit r.idx v s

/-- A 32-bit write to an offset: an MSI-X table word, a doorbell, a register, or nothing (R419, R563). -/
def writeWord (src : Source) (off : Nat) (v : Word) (s : State) : State :=
  if 0x8000 ≤ off ∧ off < 0x10000 then msixWrite ((off - 0x8000) / 16) (off / 4 % 4) v s
  else if 0x2000000 ≤ off then (if off % 0x200 = 0 then doorbell ((off - 0x2000000) / 0x200) v s else s)
  else match regAt off with
    | some r => regEffect src r v s
    | none => s

/-- EV_REG_ACCESS of an access of the wrong width or alignment (R5). -/
def regAccess (off : Nat) (s : State) : State := raiseEvent 0x0001 0 0 off none s

/-- Whether an offset lies in the MSI-X table or the PBA (R419). -/
def inMsix (off : Nat) : Bool := decide (0x8000 ≤ off) && decide (off < 0x10100)

/-- Whether an access is one 32-bit word, or in the MSI-X structures an aligned 64-bit one (R4, R418). -/
def accessOk (off size : Nat) : Bool := (decide (size = 4) && decide (off % 4 = 0)) || (decide (size = 8) && decide (off % 8 = 0) && inMsix off)

/-- Whether a BAR0 access is one at all: within the 64 MiB, with the function out of D3hot (R422, Table 12.3). -/
def inBar0 (off : Nat) (s : State) : Bool := decide (off < 0x4000000) && !s.px.d3

/-- A word at an offset written with a value that no rule states. -/
def writeFree (src : Source) (off : Nat) (s : State) : State := writeWord src off (Config.freeWord s.freeCtr) (drawFree s)

/-- A write to the MSI-X structures that is neither one nor two aligned words: R5 does not apply (R418), and no rule states what the words
it touches then hold (log entry 126). -/
def msixLoose (src : Source) (off size : Nat) (s : State) : State :=
  let s := writeFree src (off / 4 * 4) s
  if 4 < off % 4 + size then writeFree src (off / 4 * 4 + 4) s else s

/-- REGISTER_WRITE: a write of size bytes at a BAR0 offset, by the host, or by the cellarer through its own port; one that does not reach its
block is discarded whatever its width (R1, R5, R7, R418, R425, R534). -/
def execRegisterWrite (src : Source) (off size : Nat) (v : DWord) (s : State) : Host.Outcome State Fault Refusal :=
  let lo := BitVec.ofNat 32 v.toNat
  let hi := BitVec.ofNat 32 (v.toNat / 2 ^ 32)
  .next (if decide (src = .host) && !inBar0 off s then s
    else if decide (src = .host) && !reaches off s then s
    else if !accessOk off size then (if inMsix off then msixLoose src off size s else regAccess off s)
    else
      let s := regWrite src off (writeWord src off lo) s
      if size = 8 then regWrite src (off + 4) (writeWord src (off + 4) hi) s else s)

/-! ### What a read returns -/

/-- A word from flags: bit and value of each. -/
def bitsWord (n : Nat) (f : Nat → Bool) : Word := fieldsWord ((List.range n).map fun b => (b, (f b).toNat))

/-- The low or high word of a 64-bit value. -/
def halfOf (i v : Nat) : Word := BitVec.ofNat 32 (v / 2 ^ (32 * i))

/-- The code of a port state (Table 12.18). -/
def PortSt.code : PortSt → Nat
  | .disabled => 0
  | .training => 1
  | .up => 2
  | .down => 3

/-- LG_POOL_STATUS of a quadrant (Table 3.16). -/
def poolStatus (q : Nat) (s : State) : Word :=
  let bs := (List.range 32).map fun w => getBook q w s
  let b := getBook q (windowAt s.now) s
  fieldsWord [(31, (rflag .LG_POOL_STATUS 0 q 31 s).toNat), (30, (goingOff (68 + q) s).toNat),
    (16, min 512 (bs.map fun b => b.inflight s.now).sum), (0, rfield .LG_POOL_LIMIT 0 q 8 0 s - b.held s.now)]

/-- RK_CASK_STATE of a cask (Table 4.18). -/
def caskStateWord (c : Nat) (s : State) : Word :=
  let k := getCask c s
  fieldsWord [(31, k.racked.toNat), (30, k.shadowOk.toNat), (29, k.chkLost.toNat), (28, (decide (80000 ≤ k.cycles8)).toNat),
    (27, (k.topDue || k.topping).toNat),
    (26, k.outOfRange.toNat), (16, sparesUsed (remapWords c s)), (0, ((pinWords c s).map fun w => popCount 32 w.toNat).sum)]

/-- CK_STATUS of a cask (Table 2.13). -/
def caskStatusWord (c : Nat) (s : State) : Word :=
  let k := getCask c s
  let sat := (List.range 17).any fun i => rget .CK_SAT_FLAG c i s ≠ 0
  fieldsWord [(28, caskState c s), (27, (caskQuiesced c s).toNat), (26, k.saving.toNat), (25, k.suspect.toNat),
    (23, (rflag .CK_STATUS c 0 23 s).toNat), (22, (rflag .CK_STATUS c 0 22 s).toNat), (21, sat.toNat), (0, min 8 k.depth)]

/-- RP_STATUS of a rack (Table 7.12). -/
def rackStatusWord (r : Nat) (s : State) : Word :=
  fieldsWord [(31, (rackQuiesced r s).toNat), (30, ((getRack r s).drains.any fun d => decide (d.phase ≠ 0)).toNat),
    (16, readyThreads r s), (0, activeThreads r s)]

/-- RP_THREAD_STATE of the selected thread (Table 7.15). -/
def threadStateWord (r : Nat) (s : State) : Word := threadWord (getThread r (rfield .RP_THREAD_SEL r 0 5 0 s) s)

/-- RP_IDLE: the rack clocks since the rack's reset in which nothing issued; a step clock holds 7.5 of them (Tables 7.11 and 7.19). -/
def idleClocks (r : Nat) (s : State) : Word :=
  BitVec.ofNat 32 ((s.now - (getRack r s).resetAt) * 15 / 2 - (rget .RP_ISSUED r 0 s).toNat)

/-- RP_DC_STATUS of a rack (Table 7.18). -/
def drainStatusWord (r : Nat) (s : State) : Word :=
  let ds := (getRack r s).drains
  fieldsWord [(16, ds.length), (0, match ds with | d :: _ => d.slot | [] => 0)]

/-- DEV_ID (Table 1.7). -/
def devIdWord (s : State) : Word := fieldsWord [(16, 0x4096), (12, s.pm.grade % 16), (8, s.pm.stepping % 16)]

/-- The entry of the Channel Rescale Table in force that RS_SEL selects (R220). -/
def rsData (s : State) : Word :=
  let e := rfield .RS_SEL 0 0 12 0 s
  Store.getD one32 (crtKey (rfield .RS_SEL 0 0 20 13 s) (e / 256) (e % 256)) s.quant.crt

/-- The word a read of a register returns, before the side effect the read may have. -/
def regValue (r : RegRef) (s : State) : Word :=
  let stored := rget r.name r.unit r.idx s &&& fieldMask r.name fun f => decide (f.acc ≠ .wo)
  let i := r.idx
  let v := vintage s
  match r.name with
  | .DEV_ID => devIdWord s
  | .PX_STATUS => fieldsWord [(31, s.pm.fwReady.toNat), (30, s.px.linkUp.toNat), (29, s.px.d3.toNat), (16, s.px.width % 16), (0, s.px.speed % 8)]
  | .PM_ON => bitsWord 32 fun b => askedOn (32 * i + b) s
  | .PM_STATE => bitsWord 32 fun b => decide (32 * i + b < 80) && !domainIsOff (32 * i + b) s
  | .PM_STATUS => fieldsWord [(31, (!s.pm.goingOff.isEmpty || !s.pm.goingOn.isEmpty).toNat), (0, s.pm.vppOk.toNat)]
  | .BOOT_STATUS => fieldsWord [(28, s.pm.stage), (24, s.pm.bootImg), (16, s.pm.err0), (8, s.pm.err1), (0, s.pm.svn % 64)]
  | .LIB_BASE_LO => halfOf 0 (libBase s)
  | .LIB_BASE_HI => halfOf 1 (libBase s)
  | .LG_VPP_STATUS => fieldsWord [(31, (rflag .LG_VPP_STATUS 0 0 31 s).toNat), (16, s.ledger.vppQueue.length), (0, s.ledger.vppHeld.length)]
  | .LG_ROW_DATA => rowWord (rowEnt (selectedCask s) (rfield .LG_ROW_SEL 0 0 8 0 s) s)
  | .LG_HOME_DATA => BitVec.ofNat 32 (homeWindow (rfield .LG_HOME_SEL 0 0 11 0 s) s)
  | .LG_POOL_STATUS => poolStatus i s
  | .RK_STATUS => fieldsWord [(31, (rkQuiesced s).toNat), (30, (rackingNow s).toNat), (29, (toppingNow s).toNat),
      (28, (rebuildingNow s).toNat), -- TOP_QUEUE counts casks whose topping is due and not in progress (DESIGN CHOICE, log entry 133)
      (0, (s.casks.filter fun e => e.2.topDue).length)]
  | .RK_CASK_STATE => caskStateWord (rfield .RK_CASK_SEL 0 0 11 0 s) s
  | .RK_CASK_FIT => (getCask (rfield .RK_CASK_SEL 0 0 11 0 s) s).fitWord
  | .RK_CASK_AGE => (getCask (rfield .RK_CASK_SEL 0 0 11 0 s) s).ageWord
  | .RK_DIGEST => BitVec.ofNat 32 (leAt (4 * i) 4 s.cellar.digest)
  | .CT_STATUS => fieldsWord [(31, (tasteQuiesced s).toNat), (30, (tastingNow s).toNat), (0, s.cellar.nextTaste % 4096)]
  | .QT_STATUS => fieldsWord [(31, (refoldQuiesced s).toNat), (30, (!s.quant.batch.isEmpty).toNat), (29, s.quant.copyDue.toNat)]
  | .RS_DATA => rsData s
  | .CAL_STATUS => fieldsWord [(31, (calBusy s).toNat), (30, s.cal.pendingSlot.isSome.toNat), (29, s.cal.zero.isSome.toNat), (0, s.cal.result % 256)]
  | .CAL_VINTAGE => BitVec.ofNat 32 (leAt 4 4 v)
  | .CAL_COUNT => BitVec.ofNat 32 (leAt 12 4 v)
  | .CAL_LAST_TIME => BitVec.ofNat 32 (leAt (16 + 4 * i) 4 v)
  | .CAL_LAST_POS => BitVec.ofNat 32 (leAt (24 + 4 * i) 4 v)
  | .CAL_LAST_FRAME => BitVec.ofNat 32 (leAt 32 4 v)
  | .MC_STATUS => fieldsWord [(31, s.pm.wiped.toNat), (30, (scrubBusy s).toNat), (29, (dmaQuiesced s).toNat), (0, s.pm.capacity % 4)]
  | .MC_USABLE_LO => halfOf 0 (usable s)
  | .MC_USABLE_HI => halfOf 1 (usable s)
  | .RG_STATUS => fieldsWord [(31, (allDisabled s).toNat), (0, (s.rings.filter fun e => decide (e.2.st ≠ .disabled)).length)]
  | .RG_STATE => let k := getRing (selectedRing s) s; fieldsWord [(28, k.st.code), (24, k.err % 4), (0, k.inflight)]
  | .RG_HEAD => (getRing (selectedRing s) s).head
  | .RG_TAIL => (getRing (selectedRing s) s).tail
  | .SY_SEL => fieldsWord [(31, (s.wraps.has (rfield .SY_SEL 0 0 15 0 s)).toNat), (0, rfield .SY_SEL 0 0 15 0 s)]
  | .SY_COUNT => syncGet (rfield .SY_SEL 0 0 15 0 s) s
  | .POS_STATUS => fieldsWord [(31, s.pos.idle.toNat), (30, s.pos.ppsOk.toNat), (29, (rflag .POS_STATUS 0 0 29 s).toNat),
      (28, s.pos.reverse.toNat), (0, s.pos.src % 4)]
  | .POS_COUNT => halfOf i s.pos.capCount
  | .POS_UM => halfOf i (patternOf 64 s.pos.capP)
  | .POS_FRAME => halfOf i s.pos.capFrame
  | .POS_PPS => halfOf i s.pos.capPps
  | .PET_W => halfOf i (petGet (rfield .PET_SEL 0 0 11 0 s) s)
  | .FE_ADC_STATUS => fieldsWord [(31, (adcQuiesced s).toNat), (30, s.fe.settled.toNat), (29, s.fe.refFault.toNat),
      (28, (decide (s.fe.reg.st ≠ 0)).toNat), (27, (decide (s.fe.inj.st ≠ 0)).toNat), (0, s.fe.refinMv % 2 ^ 16)]
  | .FE_DAC_CTRL => setField 31 16 (getDac i s).defaultCode stored
  | .FE_DAC_STATUS => let d := getDac i s; fieldsWord [(31, d.fault.toNat), (29, d.cause % 4), (28, d.clip.toNat), (0, d.out % 2 ^ 16)]
  | .BV_STATUS => fieldsWord ((31, (bvQuiesced s).toNat) :: (List.range 4).map fun p => (p, (decide ((getPort p s).st = .up)).toNat))
  | .BV_PRESENT => BitVec.ofNat 32 (s.bv.present % 2 ^ 16)
  | .BV_EPOCH => s.bv.epoch
  | .BV_PORT_STATUS => fieldsWord [(28, ((getPort i s).state s.now).code), (0, (getPort i s).cred1)]
  | .HG_STATUS => fieldsWord [(31, (hangBusy s).toNat), (28, match s.hang.incident with | some k => k.phase % 8 | none => 0),
      (0, s.hang.oos.length % 2 ^ 13)]
  | .HG_DUMP_STATUS => fieldsWord [(31, (rflag .HG_DUMP_STATUS 0 0 31 s).toNat), (30, s.hang.truncated.toNat), (0, s.hang.unreadable % 2 ^ 24)]
  | .HG_RESET_CAUSE => fieldsWord [(28, s.pm.cause % 16)]
  | .LC_STATE => fieldsWord [(28, s.pm.lcState % 16), (27, s.pm.eraseDue.isSome.toNat), (8, s.pm.serviceLeft % 16)]
  | .LC_SVN => fieldsWord [(0, s.pm.svnMin % 64)]
  | .AT_STATUS => fieldsWord [(31, s.pm.atRun.isSome.toNat), (29, if s.pm.atRun.isSome then 0 else s.pm.atResult % 4), (0, s.pm.leaf % 2 ^ 21)]
  | .JR_STATUS => setField 30 0 s.pm.nextSeq stored
  | .RP_STATUS => rackStatusWord r.unit s
  | .RP_IDLE => idleClocks r.unit s
  | .RP_THREAD_STATE => threadStateWord r.unit s
  | .RP_ACC_STATE => fieldsWord ((List.range 8).map fun n => (4 * n, (getSlot r.unit (8 * i + n) s).st % 8))
  | .RP_DC_STATUS => drainStatusWord r.unit s
  | .CK_STATUS => caskStatusWord r.unit s
  | _ => if r.name.desc.commit then setFlag 31 (applyPending r s) stored else stored

/-- The side effect of a read: RC fields clear, LG_ROW_DATA and FE_TBL_DATA move on, captures are taken (R1, R114, R472, R479). With the
word that the read returns. -/
def readReg (r : RegRef) (s : State) : Word × State :=
  let rc := r.name.desc.fields.filter fun f => decide (f.acc = .rc)
  match r.name, r.idx with
  | .LG_ROW_DATA, _ => (regValue r s, nextRowSel s)
  | .FE_TBL_DATA, _ => tblRead s
  | .POS_COUNT, 0 => capture s
  | .POS_PPS, 0 => capturePps s
  | _, _ =>
    (regValue r s, rc.foldl (fun s f => rput r.name r.unit r.idx f.hi f.lo 0 s) s)

/-- The word of the PBA at an offset: the pending bits of 32 vectors (R419). -/
def pbaWord (off : Nat) (s : State) : Word := bitsWord 32 fun b => s.px.pba.has (8 * (off - 0x10000) + b)

/-- A 32-bit read of an offset: an MSI-X structure, a register, or zero (R419, R563). -/
def readWord (off : Nat) (s : State) : Word × State :=
  if 0x8000 ≤ off ∧ off < 0x10000 then (msixWord ((off - 0x8000) / 16) (off / 4 % 4) s, s)
  else if 0x10000 ≤ off ∧ off < 0x10100 then (pbaWord off s, s)
  else if 0x2000000 ≤ off then (0, s)
  else match regAt off with
    | some r => readReg r s
    | none => (0, s)

/-- REGISTER_READ: a host read of size bytes at a BAR0 offset; before FW_READY outside the device control region it completes with a
completer abort; of the wrong width or alignment it does so too and raises EV_REG_ACCESS, but in the MSI-X structures, where no rule
states what it reads (R5, R418, R425, R534, log entry 126). -/
def execRegisterRead (off size : Nat) (s : State) : Host.Outcome State Fault Refusal :=
  .next (if !inBar0 off s then s
    else if !reaches off s then respond .abort s
    else if !accessOk off size then
      if inMsix off then respond (.regData (Config.freeWord s.freeCtr)) (drawFree s) else respond .abort (regAccess off s)
    else
      let s := regRead off (readWord off) s
      if size = 8 then regRead (off + 4) (readWord (off + 4)) s else s)

/-- READ_CLEAR: a host read of a register with an RC field: its value, then zero (R1). -/
def execReadClear (off : Nat) (s : State) : Host.Outcome State Fault Refusal :=
  let rc := match regAt off with
    | some r => r.name.desc.fields.any fun f => decide (f.acc = .rc)
    | none => false
  .next (if rc && inBar0 off s then regRead off (readWord off) s else s)

/-! ### Commit groups (R8 to R12) -/

/-- CW_STAGE_WRITE: a write to a register of a commit group (R8). -/
def execCwStageWrite (src : Source) (off : Nat) (v : Word) (s : State) : Host.Outcome State Fault Refusal :=
  .next (match regAt off with
    | some r => if (groupOf r).isSome then regWrite src off (stageWrite src r v) s else s
    | none => s)

/-- A write of an ACTION to the COMMIT register at an offset. -/
def commitRow (src : Source) (off act : Nat) (s : State) : State :=
  match regAt off with
  | some c => if c.name.desc.commit then regWrite src off (commitAction src c act) s else s
  | none => s

/-- COMMIT_APPLY_OPERATION: ACTION 0b01 (R12). -/
def execCommitApplyOperation (src : Source) (off : Nat) (s : State) : Host.Outcome State Fault Refusal := .next (commitRow src off 1 s)

/-- COMMIT_APPLY_FRAME: ACTION 0b10 (R12). -/
def execCommitApplyFrame (src : Source) (off : Nat) (s : State) : Host.Outcome State Fault Refusal := .next (commitRow src off 2 s)

/-- COMMIT_DISCARD: ACTION 0b11 (R11). -/
def execCommitDiscard (src : Source) (off : Nat) (s : State) : Host.Outcome State Fault Refusal := .next (commitRow src off 3 s)

/-- GROUP_APPLY: a request with ACTION 0b01 is carried out at its block's operation boundary (R9, R12). -/
def execGroupApply (off : Nat) (s : State) : Host.Outcome State Fault Refusal :=
  .next (match regAt off with
    | some c => if c.name.desc.commit && opBoundary c s && (offDomain off s).isNone then applyDue c s else s
    | none => s)

end Sys2Proof.Machine
end

