-- ==== Sys2Proof/Machine/Dispatch.lean ====
section
/-! DEFINITION. The dispatch: one arm for each command, calling its meaning. -/

namespace Sys2Proof.Machine

/-- What a command does to everything but the queue. -/
def exec (i : Instr) (s : State) : Host.Outcome State Fault Refusal :=
  match i with
  | .registerWrite src off size v => Sys2Proof.Machine.execRegisterWrite src off size v s
  | .readClear off => Sys2Proof.Machine.execReadClear off s
  | .cwStageWrite src off v => Sys2Proof.Machine.execCwStageWrite src off v s
  | .commitApplyOperation src off => Sys2Proof.Machine.execCommitApplyOperation src off s
  | .commitApplyFrame src off => Sys2Proof.Machine.execCommitApplyFrame src off s
  | .commitDiscard src off => Sys2Proof.Machine.execCommitDiscard src off s
  | .groupApply off => Sys2Proof.Machine.execGroupApply off s
  | .ckQuiesce c => Sys2Proof.Machine.execCkQuiesce c s
  | .ckResume c => Sys2Proof.Machine.execCkResume c s
  | .caskOpStart c => Sys2Proof.Machine.execCaskOpStart c s
  | .admission c => Sys2Proof.Machine.execAdmission c s
  | .creditArbitration q => Sys2Proof.Machine.execCreditArbitration q s
  | .sliceStep c dev => Sys2Proof.Machine.execSliceStep c dev s
  | .replayPost c => Sys2Proof.Machine.execReplayPost c s
  | .tokenAdd c residueFault => Sys2Proof.Machine.execTokenAdd c residueFault s
  | .creditReturn q w => Sys2Proof.Machine.execCreditReturn q w s
  | .creditAudit q w => Sys2Proof.Machine.execCreditAudit q w s
  | .referenceRead c => Sys2Proof.Machine.execReferenceRead c s
  | .refPeriodExpiry c => Sys2Proof.Machine.execRefPeriodExpiry c s
  | .configCellSave c => Sys2Proof.Machine.execConfigCellSave c s
  | .lgRowDataAccess wr => Sys2Proof.Machine.execLgRowDataAccess wr s
  | .vppGrant => Sys2Proof.Machine.execVppGrant s
  | .vppCreditReturn c => Sys2Proof.Machine.execVppCreditReturn c s
  | .vppCreditAudit c => Sys2Proof.Machine.execVppCreditAudit c s
  | .rackEntry n idx k => Sys2Proof.Machine.execRackEntry n idx k s
  | .caskProgram c reads => Sys2Proof.Machine.execCaskProgram c reads s
  | .diagnosisRead c reads => Sys2Proof.Machine.execDiagnosisRead c reads s
  | .remapPin c reads => Sys2Proof.Machine.execRemapPin c reads s
  | .topping c reads => Sys2Proof.Machine.execTopping c reads s
  | .shadowBaseWrite hi v reads => Sys2Proof.Machine.execShadowBaseWrite hi v reads s
  | .tempSample temps => Sys2Proof.Machine.execTempSample temps s
  | .refold r => Sys2Proof.Machine.execRefold r s
  | .bankCopy => Sys2Proof.Machine.execBankCopy s
  | .rsRefoldRack v => Sys2Proof.Machine.execRsRefoldRack v s
  | .rsRefoldAll => Sys2Proof.Machine.execRsRefoldAll s
  | .correctionToken r => Sys2Proof.Machine.execCorrectionToken r s
  | .rowBufferFill c row => Sys2Proof.Machine.execRowBufferFill c row s
  | .tastingRun c => Sys2Proof.Machine.execTastingRun c s
  | .tasteBaseWrite hi v => Sys2Proof.Machine.execTasteBaseWrite hi v s
  | .quantiseRun r => Sys2Proof.Machine.execQuantiseRun r s
  | .quantiseComplete r => Sys2Proof.Machine.execQuantiseComplete r s
  | .quantTokenAssemble r => Sys2Proof.Machine.execQuantTokenAssemble r s
  | .drainStart r accParity => Sys2Proof.Machine.execDrainStart r accParity s
  | .drainSignal r => Sys2Proof.Machine.execDrainSignal r s
  | .slotClearEnd r slot => Sys2Proof.Machine.execSlotClearEnd r slot s
  | .partialLoadComplete r parity => Sys2Proof.Machine.execPartialLoadComplete r parity s
  | .rpQuiesce r => Sys2Proof.Machine.execRpQuiesce r s
  | .rpResume r => Sys2Proof.Machine.execRpResume r s
  | .skNop r t => Sys2Proof.Machine.execSkNop r t s
  | .skEnd r t => Sys2Proof.Machine.execSkEnd r t s
  | .skBrk r t => Sys2Proof.Machine.execSkBrk r t s
  | .skCsrr r t d n => Sys2Proof.Machine.execSkCsrr r t d n s
  | .skCsrw r t a n => Sys2Proof.Machine.execSkCsrw r t a n s
  | .skAdd r t d a b => Sys2Proof.Machine.execSkAdd r t d a b s
  | .skSub r t d a b => Sys2Proof.Machine.execSkSub r t d a b s
  | .skAnd r t d a b => Sys2Proof.Machine.execSkAnd r t d a b s
  | .skOr r t d a b => Sys2Proof.Machine.execSkOr r t d a b s
  | .skXor r t d a b => Sys2Proof.Machine.execSkXor r t d a b s
  | .skShl r t d a b => Sys2Proof.Machine.execSkShl r t d a b s
  | .skShr r t d a b => Sys2Proof.Machine.execSkShr r t d a b s
  | .skSra r t d a b => Sys2Proof.Machine.execSkSra r t d a b s
  | .skSlt r t d a b => Sys2Proof.Machine.execSkSlt r t d a b s
  | .skSltu r t d a b => Sys2Proof.Machine.execSkSltu r t d a b s
  | .skMin r t d a b => Sys2Proof.Machine.execSkMin r t d a b s
  | .skMax r t d a b => Sys2Proof.Machine.execSkMax r t d a b s
  | .skMinu r t d a b => Sys2Proof.Machine.execSkMinu r t d a b s
  | .skMaxu r t d a b => Sys2Proof.Machine.execSkMaxu r t d a b s
  | .skMul r t d a b => Sys2Proof.Machine.execSkMul r t d a b s
  | .skMulh r t d a b => Sys2Proof.Machine.execSkMulh r t d a b s
  | .skMulhu r t d a b => Sys2Proof.Machine.execSkMulhu r t d a b s
  | .skDiv r t d a b => Sys2Proof.Machine.execSkDiv r t d a b s
  | .skDivu r t d a b => Sys2Proof.Machine.execSkDivu r t d a b s
  | .skRem r t d a b => Sys2Proof.Machine.execSkRem r t d a b s
  | .skRemu r t d a b => Sys2Proof.Machine.execSkRemu r t d a b s
  | .skClz r t d a => Sys2Proof.Machine.execSkClz r t d a s
  | .skPopc r t d a => Sys2Proof.Machine.execSkPopc r t d a s
  | .skFadd r t d a b => Sys2Proof.Machine.execSkFadd r t d a b s
  | .skFsub r t d a b => Sys2Proof.Machine.execSkFsub r t d a b s
  | .skFmul r t d a b => Sys2Proof.Machine.execSkFmul r t d a b s
  | .skFmadd r t d a b => Sys2Proof.Machine.execSkFmadd r t d a b s
  | .skFmin r t d a b => Sys2Proof.Machine.execSkFmin r t d a b s
  | .skFmax r t d a b => Sys2Proof.Machine.execSkFmax r t d a b s
  | .skFdiv r t d a b => Sys2Proof.Machine.execSkFdiv r t d a b s
  | .skFsqrt r t d a => Sys2Proof.Machine.execSkFsqrt r t d a s
  | .skFeq r t d a b => Sys2Proof.Machine.execSkFeq r t d a b s
  | .skFlt r t d a b => Sys2Proof.Machine.execSkFlt r t d a b s
  | .skFle r t d a b => Sys2Proof.Machine.execSkFle r t d a b s
  | .skFtoi r t d a => Sys2Proof.Machine.execSkFtoi r t d a s
  | .skItof r t d a => Sys2Proof.Machine.execSkItof r t d a s
  | .skFrnd r t d a => Sys2Proof.Machine.execSkFrnd r t d a s
  | .skAddi r t d a imm => Sys2Proof.Machine.execSkAddi r t d a imm s
  | .skAndi r t d a imm => Sys2Proof.Machine.execSkAndi r t d a imm s
  | .skOri r t d a imm => Sys2Proof.Machine.execSkOri r t d a imm s
  | .skXori r t d a imm => Sys2Proof.Machine.execSkXori r t d a imm s
  | .skSlti r t d a imm => Sys2Proof.Machine.execSkSlti r t d a imm s
  | .skShli r t d a sh => Sys2Proof.Machine.execSkShli r t d a sh s
  | .skShri r t d a sh => Sys2Proof.Machine.execSkShri r t d a sh s
  | .skSrai r t d a sh => Sys2Proof.Machine.execSkSrai r t d a sh s
  | .skLui r t d imm => Sys2Proof.Machine.execSkLui r t d imm s
  | .skBr r t cond a disp => Sys2Proof.Machine.execSkBr r t cond a disp s
  | .skJ r t disp => Sys2Proof.Machine.execSkJ r t disp s
  | .skJal r t disp => Sys2Proof.Machine.execSkJal r t disp s
  | .skJr r t d a => Sys2Proof.Machine.execSkJr r t d a s
  | .skLb r t d a ofs => Sys2Proof.Machine.execSkLb r t d a ofs s
  | .skLbu r t d a ofs => Sys2Proof.Machine.execSkLbu r t d a ofs s
  | .skLh r t d a ofs => Sys2Proof.Machine.execSkLh r t d a ofs s
  | .skLhu r t d a ofs => Sys2Proof.Machine.execSkLhu r t d a ofs s
  | .skLw r t d a ofs => Sys2Proof.Machine.execSkLw r t d a ofs s
  | .skLwu r t d a ofs => Sys2Proof.Machine.execSkLwu r t d a ofs s
  | .skLdd r t d a ofs => Sys2Proof.Machine.execSkLdd r t d a ofs s
  | .skVld r t d a sz ofs => Sys2Proof.Machine.execSkVld r t d a sz ofs s
  | .skVst r t d a sz ofs => Sys2Proof.Machine.execSkVst r t d a sz ofs s
  | .skSst4 r t d a ofs => Sys2Proof.Machine.execSkSst4 r t d a ofs s
  | .skTld r t d a ofs => Sys2Proof.Machine.execSkTld r t d a ofs s
  | .skTst r t d a ofs => Sys2Proof.Machine.execSkTst r t d a ofs s
  | .loadDataReturn r t k upset => Sys2Proof.Machine.execLoadDataReturn r t k upset s
  | .skFenceL r t => Sys2Proof.Machine.execSkFenceL r t s
  | .skFenceD r t => Sys2Proof.Machine.execSkFenceD r t s
  | .skFenceP r t d => Sys2Proof.Machine.execSkFenceP r t d s
  | .fenceComplete r t => Sys2Proof.Machine.execFenceComplete r t s
  | .skVadd r t ty d a b p pn => Sys2Proof.Machine.execSkVadd r t ty d a b p pn s
  | .skVsub r t ty d a b p pn => Sys2Proof.Machine.execSkVsub r t ty d a b p pn s
  | .skVmul r t ty d a b p pn => Sys2Proof.Machine.execSkVmul r t ty d a b p pn s
  | .skVmin r t ty d a b p pn => Sys2Proof.Machine.execSkVmin r t ty d a b p pn s
  | .skVmax r t ty d a b p pn => Sys2Proof.Machine.execSkVmax r t ty d a b p pn s
  | .skVand r t ty d a b p pn => Sys2Proof.Machine.execSkVand r t ty d a b p pn s
  | .skVor r t ty d a b p pn => Sys2Proof.Machine.execSkVor r t ty d a b p pn s
  | .skVxor r t ty d a b p pn => Sys2Proof.Machine.execSkVxor r t ty d a b p pn s
  | .skVshl r t ty d a b p pn => Sys2Proof.Machine.execSkVshl r t ty d a b p pn s
  | .skVshr r t ty d a b p pn => Sys2Proof.Machine.execSkVshr r t ty d a b p pn s
  | .skVsra r t ty d a b p pn => Sys2Proof.Machine.execSkVsra r t ty d a b p pn s
  | .skVadds r t ty d a b p pn => Sys2Proof.Machine.execSkVadds r t ty d a b p pn s
  | .skVdot4 r t d a b p pn => Sys2Proof.Machine.execSkVdot4 r t d a b p pn s
  | .skVabs r t ty d a p pn => Sys2Proof.Machine.execSkVabs r t ty d a p pn s
  | .skVfadd r t ty d a b p pn => Sys2Proof.Machine.execSkVfadd r t ty d a b p pn s
  | .skVfsub r t ty d a b p pn => Sys2Proof.Machine.execSkVfsub r t ty d a b p pn s
  | .skVfmul r t ty d a b p pn => Sys2Proof.Machine.execSkVfmul r t ty d a b p pn s
  | .skVfma r t ty d a b p pn => Sys2Proof.Machine.execSkVfma r t ty d a b p pn s
  | .skVfmin r t ty d a b p pn => Sys2Proof.Machine.execSkVfmin r t ty d a b p pn s
  | .skVfmax r t ty d a b p pn => Sys2Proof.Machine.execSkVfmax r t ty d a b p pn s
  | .skVfmaw r t d a b p pn => Sys2Proof.Machine.execSkVfmaw r t d a b p pn s
  | .skVfabs r t ty d a p pn => Sys2Proof.Machine.execSkVfabs r t ty d a p pn s
  | .skVfrcp r t ty d a p pn => Sys2Proof.Machine.execSkVfrcp r t ty d a p pn s
  | .skVfrsq r t ty d a p pn => Sys2Proof.Machine.execSkVfrsq r t ty d a p pn s
  | .skVfexp r t ty d a p pn => Sys2Proof.Machine.execSkVfexp r t ty d a p pn s
  | .skVftanh r t ty d a p pn => Sys2Proof.Machine.execSkVftanh r t ty d a p pn s
  | .skVbcast r t ty d a p pn => Sys2Proof.Machine.execSkVbcast r t ty d a p pn s
  | .skVins r t ty d a b p pn => Sys2Proof.Machine.execSkVins r t ty d a b p pn s
  | .skVext r t ty d a b p pn => Sys2Proof.Machine.execSkVext r t ty d a b p pn s
  | .skVperm r t ty d a b p pn => Sys2Proof.Machine.execSkVperm r t ty d a b p pn s
  | .skVsel r t ty d a b p pn => Sys2Proof.Machine.execSkVsel r t ty d a b p pn s
  | .skVcmpeq r t ty d a b p pn => Sys2Proof.Machine.execSkVcmpeq r t ty d a b p pn s
  | .skVcmplt r t ty d a b p pn => Sys2Proof.Machine.execSkVcmplt r t ty d a b p pn s
  | .skVcmple r t ty d a b p pn => Sys2Proof.Machine.execSkVcmple r t ty d a b p pn s
  | .skVrsum r t ty d a p pn => Sys2Proof.Machine.execSkVrsum r t ty d a p pn s
  | .skVrmax r t ty d a p pn => Sys2Proof.Machine.execSkVrmax r t ty d a p pn s
  | .skVrmaxa r t ty d a p pn => Sys2Proof.Machine.execSkVrmaxa r t ty d a p pn s
  | .skPand r t d a b p pn => Sys2Proof.Machine.execSkPand r t d a b p pn s
  | .skPor r t d a b p pn => Sys2Proof.Machine.execSkPor r t d a b p pn s
  | .skPxor r t d a b p pn => Sys2Proof.Machine.execSkPxor r t d a b p pn s
  | .skPcnt r t d a p pn => Sys2Proof.Machine.execSkPcnt r t d a p pn s
  | .skVlane r t ty d p pn => Sys2Proof.Machine.execSkVlane r t ty d p pn s
  | .skVcvt r t d a src dst part p pn => Sys2Proof.Machine.execSkVcvt r t d a src dst part p pn s
  | .skVsclExpand r t d a b fmt part p pn => Sys2Proof.Machine.execSkVsclExpand r t d a b fmt part p pn s
  | .skVsclCode r t d a b fmt part p pn => Sys2Proof.Machine.execSkVsclCode r t d a b fmt part p pn s
  | .skQtReq r t d a => Sys2Proof.Machine.execSkQtReq r t d a s
  | .skTset r t d a ofs wd => Sys2Proof.Machine.execSkTset r t d a ofs wd s
  | .skTget r t d a ofs wd => Sys2Proof.Machine.execSkTget r t d a ofs wd s
  | .skCkMvm r t a => Sys2Proof.Machine.execSkCkMvm r t a s
  | .ckMvmAccept r t => Sys2Proof.Machine.execCkMvmAccept r t s
  | .skAccOpen r t d => Sys2Proof.Machine.execSkAccOpen r t d s
  | .skAccWait r t a => Sys2Proof.Machine.execSkAccWait r t a s
  | .accWaitComplete r t => Sys2Proof.Machine.execAccWaitComplete r t s
  | .skAccLdp r t d a b => Sys2Proof.Machine.execSkAccLdp r t d a b s
  | .skAccDrop r t a => Sys2Proof.Machine.execSkAccDrop r t a s
  | .accDropAccept r t => Sys2Proof.Machine.execAccDropAccept r t s
  | .skAccStat r t d a => Sys2Proof.Machine.execSkAccStat r t d a s
  | .skDcDrain r t a b parity => Sys2Proof.Machine.execSkDcDrain r t a b parity s
  | .dcDrainAccept r t => Sys2Proof.Machine.execDcDrainAccept r t s
  | .skSySig r t a b => Sys2Proof.Machine.execSkSySig r t a b s
  | .skSyWait r t d a b => Sys2Proof.Machine.execSkSyWait r t d a b s
  | .skSyWaitr r t d a b => Sys2Proof.Machine.execSkSyWaitr r t d a b s
  | .skSyRd r t d a => Sys2Proof.Machine.execSkSyRd r t d a s
  | .skRgPush r t d a b => Sys2Proof.Machine.execSkRgPush r t d a b s
  | .skRgStat r t a => Sys2Proof.Machine.execSkRgStat r t a s
  | .skPosRd r t d => Sys2Proof.Machine.execSkPosRd r t d s
  | .skPosFrm r t d => Sys2Proof.Machine.execSkPosFrm r t d s
  | .skPosTagp r t d => Sys2Proof.Machine.execSkPosTagp r t d s
  | .skPosTagf r t d => Sys2Proof.Machine.execSkPosTagf r t d s
  | .rgEnable => Sys2Proof.Machine.execRgEnable s
  | .rgStop => Sys2Proof.Machine.execRgStop s
  | .rgResume => Sys2Proof.Machine.execRgResume s
  | .rgReset => Sys2Proof.Machine.execRgReset s
  | .ringDoorbell n v => Sys2Proof.Machine.execRingDoorbell n v s
  | .packetFetch n => Sys2Proof.Machine.execPacketFetch n s
  | .gateEntryGrant n => Sys2Proof.Machine.execGateEntryGrant n s
  | .packetStart n => Sys2Proof.Machine.execPacketStart n s
  | .threadPlace n idx r => Sys2Proof.Machine.execThreadPlace n idx r s
  | .packetComplete n idx => Sys2Proof.Machine.execPacketComplete n idx s
  | .statusSectorWrite n => Sys2Proof.Machine.execStatusSectorWrite n s
  | .nopPacket n idx => Sys2Proof.Machine.execNopPacket n idx s
  | .kernel n idx => Sys2Proof.Machine.execKernel n idx s
  | .copy n idx q e => Sys2Proof.Machine.execCopy n idx q e s
  | .copyComplete q e hostData fault => Sys2Proof.Machine.execCopyComplete q e hostData fault s
  | .matmul n idx => Sys2Proof.Machine.execMatmul n idx s
  | .conv2d n idx => Sys2Proof.Machine.execConv2d n idx s
  | .dwconv n idx => Sys2Proof.Machine.execDwconv n idx s
  | .attention n idx => Sys2Proof.Machine.execAttention n idx s
  | .layernorm n idx => Sys2Proof.Machine.execLayernorm n idx s
  | .pool n idx => Sys2Proof.Machine.execPool n idx s
  | .resize n idx => Sys2Proof.Machine.execResize n idx s
  | .eltwise n idx => Sys2Proof.Machine.execEltwise n idx s
  | .quantize n idx => Sys2Proof.Machine.execQuantize n idx s
  | .topkNms n idx => Sys2Proof.Machine.execTopkNms n idx s
  | .sensorFuse n idx => Sys2Proof.Machine.execSensorFuse n idx s
  | .rackLoad n idx => Sys2Proof.Machine.execRackLoad n idx s
  | .topUp n idx => Sys2Proof.Machine.execTopUp n idx s
  | .podAllreduce n idx => Sys2Proof.Machine.execPodAllreduce n idx s
  | .podBroadcast n idx => Sys2Proof.Machine.execPodBroadcast n idx s
  | .podAllgather n idx => Sys2Proof.Machine.execPodAllgather n idx s
  | .estateSend n idx => Sys2Proof.Machine.execEstateSend n idx s
  | .estateRecv n idx => Sys2Proof.Machine.execEstateRecv n idx s
  | .estateAck n idx ok => Sys2Proof.Machine.execEstateAck n idx ok s
  | .estateInboxWrite n idx source data => Sys2Proof.Machine.execEstateInboxWrite n idx source data s
  | .estateTimeout n idx => Sys2Proof.Machine.execEstateTimeout n idx s
  | .hostSignal v => Sys2Proof.Machine.execHostSignal v s
  | .sySelWrite v => Sys2Proof.Machine.execSySelWrite v s
  | .remoteSignalArrive via m obj v => Sys2Proof.Machine.execRemoteSignalArrive via m obj v s
  | .remoteWaitTimeout w => Sys2Proof.Machine.execRemoteWaitTimeout w s
  | .eqHeadWrite e v => Sys2Proof.Machine.execEqHeadWrite e v s
  | .eqArmWrite e v => Sys2Proof.Machine.execEqArmWrite e v s
  | .eqCfgWrite e v => Sys2Proof.Machine.execEqCfgWrite e v s
  | .hostBar4Read off len parity => Sys2Proof.Machine.execHostBar4Read off len parity s
  | .hostBar4Write off data fullBE parity => Sys2Proof.Machine.execHostBar4Write off data fullBE parity s
  | .hostBar2Read off len parity => Sys2Proof.Machine.execHostBar2Read off len parity s
  | .hostBar2Write off data fullBE parity => Sys2Proof.Machine.execHostBar2Write off data fullBE parity s
  | .cacheFill sector link => Sys2Proof.Machine.execCacheFill sector link s
  | .scrubGo v => Sys2Proof.Machine.execScrubGo v s
  | .scrubAbort => Sys2Proof.Machine.execScrubAbort s
  | .scrubSector link => Sys2Proof.Machine.execScrubSector link s
  | .sealDisable => Sys2Proof.Machine.execSealDisable s
  | .dmaQuiesce => Sys2Proof.Machine.execDmaQuiesce s
  | .dmaTokenReturn q e => Sys2Proof.Machine.execDmaTokenReturn q e s
  | .trellisFlitReceive r dir flit crcOk => Sys2Proof.Machine.execTrellisFlitReceive r dir flit crcOk s
  | .trellisCreditReturn r dir => Sys2Proof.Machine.execTrellisCreditReturn r dir s
  | .perstAssert => Sys2Proof.Machine.execPerstAssert s
  | .perstRelease => Sys2Proof.Machine.execPerstRelease s
  | .hotReset => Sys2Proof.Machine.execHotReset s
  | .dlDown => Sys2Proof.Machine.execDlDown s
  | .functionLevelReset => Sys2Proof.Machine.execFunctionLevelReset s
  | .configRequest off wr => Sys2Proof.Machine.execConfigRequest off wr s
  | .d3hotEntry => Sys2Proof.Machine.execD3hotEntry s
  | .d0Return => Sys2Proof.Machine.execD0Return s
  | .busMasterDisable => Sys2Proof.Machine.execBusMasterDisable s
  | .busMasterEnable => Sys2Proof.Machine.execBusMasterEnable s
  | .msixUnmask v => Sys2Proof.Machine.execMsixUnmask v s
  | .resizableBarWrite log2GiB => Sys2Proof.Machine.execResizableBarWrite log2GiB s
  | .poisonedTlp kind ecrc => Sys2Proof.Machine.execPoisonedTlp kind ecrc s
  | .completionTimeout q e => Sys2Proof.Machine.execCompletionTimeout q e s
  | .portEnable p => Sys2Proof.Machine.execPortEnable p s
  | .portDisable p => Sys2Proof.Machine.execPortDisable p s
  | .bvQuiesce => Sys2Proof.Machine.execBvQuiesce s
  | .burivoFlitReceive p flit corrected crcOk => Sys2Proof.Machine.execBurivoFlitReceive p flit corrected crcOk s
  | .burivoCreditReturn p vc => Sys2Proof.Machine.execBurivoCreditReturn p vc s
  | .idleFlitSend p => Sys2Proof.Machine.execIdleFlitSend p s
  | .portLivenessTimeout p => Sys2Proof.Machine.execPortLivenessTimeout p s
  | .portTrainingAttempt p => Sys2Proof.Machine.execPortTrainingAttempt p s
  | .portTrained p lanes => Sys2Proof.Machine.execPortTrained p lanes s
  | .heartbeatSend => Sys2Proof.Machine.execHeartbeatSend s
  | .heartbeatReceive via m epoch => Sys2Proof.Machine.execHeartbeatReceive via m epoch s
  | .peerLivenessTimeout m => Sys2Proof.Machine.execPeerLivenessTimeout m s
  | .peerMessageReceive via m addr data => Sys2Proof.Machine.execPeerMessageReceive via m addr data s
  | .peerAckReceive via m id accepted => Sys2Proof.Machine.execPeerAckReceive via m id accepted s
  | .encoderEdge a b held => Sys2Proof.Machine.execEncoderEdge a b held s
  | .indexEdge held => Sys2Proof.Machine.execIndexEdge held s
  | .ppsEdge held => Sys2Proof.Machine.execPpsEdge held s
  | .ppsLost => Sys2Proof.Machine.execPpsLost s
  | .rateWindowEnd => Sys2Proof.Machine.execRateWindowEnd s
  | .idleDeclare => Sys2Proof.Machine.execIdleDeclare s
  | .syntheticCount => Sys2Proof.Machine.execSyntheticCount s
  | .posSynStepWrite v => Sys2Proof.Machine.execPosSynStepWrite v s
  | .posCaptureRead => Sys2Proof.Machine.execPosCaptureRead s
  | .ppsCaptureRead => Sys2Proof.Machine.execPpsCaptureRead s
  | .petEntryWrite v => Sys2Proof.Machine.execPetEntryWrite v s
  | .petEntryFire n => Sys2Proof.Machine.execPetEntryFire n s
  | .adcTimerTrigger => Sys2Proof.Machine.execAdcTimerTrigger s
  | .adcSoftwareTriggerRegular => Sys2Proof.Machine.execAdcSoftwareTriggerRegular s
  | .adcSoftwareTriggerInjected => Sys2Proof.Machine.execAdcSoftwareTriggerInjected s
  | .adcPassStart inj => Sys2Proof.Machine.execAdcPassStart inj s
  | .adcPassEnd raw => Sys2Proof.Machine.execAdcPassEnd raw s
  | .injectedPassEnd raw => Sys2Proof.Machine.execInjectedPassEnd raw s
  | .adcTriggerTimeout inj => Sys2Proof.Machine.execAdcTriggerTimeout inj s
  | .refinMeasure mv => Sys2Proof.Machine.execRefinMeasure mv s
  | .refSettleEnd => Sys2Proof.Machine.execRefSettleEnd s
  | .dacUpdate => Sys2Proof.Machine.execDacUpdate s
  | .dacSupTimeout n => Sys2Proof.Machine.execDacSupTimeout n s
  | .dacFaultClear n v => Sys2Proof.Machine.execDacFaultClear n v s
  | .feTblDataAccess wr => Sys2Proof.Machine.execFeTblDataAccess wr s
  | .trigTimePeriod n => Sys2Proof.Machine.execTrigTimePeriod n s
  | .trigPulseEnd n => Sys2Proof.Machine.execTrigPulseEnd n s
  | .calFrontEndRange v refcalUv => Sys2Proof.Machine.execCalFrontEndRange v refcalUv s
  | .calSystemZero v => Sys2Proof.Machine.execCalSystemZero v s
  | .calSystemFullScale v => Sys2Proof.Machine.execCalSystemFullScale v s
  | .calCask v refcalUv => Sys2Proof.Machine.execCalCask v refcalUv s
  | .calCaskHoldStart => Sys2Proof.Machine.execCalCaskHoldStart s
  | .calWholeDevice v refcalUv => Sys2Proof.Machine.execCalWholeDevice v refcalUv s
  | .calAbort => Sys2Proof.Machine.execCalAbort s
  | .calEnd m => Sys2Proof.Machine.execCalEnd m s
  | .threadBudgetExpiry r t => Sys2Proof.Machine.execThreadBudgetExpiry r t s
  | .ringProgressExpiry n => Sys2Proof.Machine.execRingProgressExpiry n s
  | .caskWatchdogExpiry c => Sys2Proof.Machine.execCaskWatchdogExpiry c s
  | .dump unreadable => Sys2Proof.Machine.execDump unreadable s
  | .dumpTimeLimit written unreadable => Sys2Proof.Machine.execDumpTimeLimit written unreadable s
  | .engineReset => Sys2Proof.Machine.execEngineReset s
  | .engineResetDone => Sys2Proof.Machine.execEngineResetDone s
  | .resetEscalation => Sys2Proof.Machine.execResetEscalation s
  | .suspectReplay => Sys2Proof.Machine.execSuspectReplay s
  | .hostReset v => Sys2Proof.Machine.execHostReset v s
  | .hostResume v => Sys2Proof.Machine.execHostResume v s
  | .cellarerWatchdog => Sys2Proof.Machine.execCellarerWatchdog s
  | .deviceWarmReset cause => Sys2Proof.Machine.execDeviceWarmReset cause s
  | .coldReset cause => Sys2Proof.Machine.execColdReset cause s
  | .powerOn => Sys2Proof.Machine.execPowerOn s
  | .railUndervoltage rail => Sys2Proof.Machine.execRailUndervoltage rail s
  | .coldResetHoldEnd bootSrc pcieEn testEn => Sys2Proof.Machine.execColdResetHoldEnd bootSrc pcieEn testEn s
  | .vppLost => Sys2Proof.Machine.execVppLost s
  | .vppRestored => Sys2Proof.Machine.execVppRestored s
  | .pmDomainOff d => Sys2Proof.Machine.execPmDomainOff d s
  | .pmDomainOn d => Sys2Proof.Machine.execPmDomainOn d s
  | .domainPowerUpDone d => Sys2Proof.Machine.execDomainPowerUpDone d s
  | .bootFlow copy0 copy1 reads => Sys2Proof.Machine.execBootFlow copy0 copy1 reads s
  | .bootCmdGo => Sys2Proof.Machine.execBootCmdGo s
  | .libBaseWrite hi v => Sys2Proof.Machine.execLibBaseWrite hi v s
  | .lcSvnRaise v => Sys2Proof.Machine.execLcSvnRaise v s
  | .lifeCycleTransition v => Sys2Proof.Machine.execLifeCycleTransition v s
  | .coldErase v => Sys2Proof.Machine.execColdErase v s
  | .attestationReport => Sys2Proof.Machine.execAttestationReport s
  | .attestationPublicKeys => Sys2Proof.Machine.execAttestationPublicKeys s
  | .attestDone => Sys2Proof.Machine.execAttestDone s
  | .journalWrite => Sys2Proof.Machine.execJournalWrite s
  | .jrSelWrite v => Sys2Proof.Machine.execJrSelWrite v s
  | .thermAlert temps => Sys2Proof.Machine.execThermAlert temps s
  | .thermtrip => Sys2Proof.Machine.execThermtrip s
  | .registerRead off size => Sys2Proof.Machine.execRegisterRead off size s
  | .illegalInstruction r t w => Sys2Proof.Machine.execIllegalInstruction r t w s
  | .instructionFetchFault r t parity => Sys2Proof.Machine.execInstructionFetchFault r t parity s
  | .pcieLinkUp width speed => Sys2Proof.Machine.execPcieLinkUp width speed s
  | .domainPowerDownDone d => Sys2Proof.Machine.execDomainPowerDownDone d s
  | .calWholeDeviceHoldStart => Sys2Proof.Machine.execCalWholeDeviceHoldStart s

end Sys2Proof.Machine
end

