-- ==== Sys2Proof/Machine/Step.lean ====
section
/-! DEFINITION. One step: the command at the front of the queue is carried out; on an empty queue one step clock passes. -/

namespace Sys2Proof.Machine

/-- The passing of one step clock while no command waits: paused counters stand still, an incident detected in the step clock that ends begins,
a frame boundary that is owed occurs (log entry 1, R454, R504, R505, R518). -/
def idleTick (s : State) : State := frameTick (startIncident { pauseCounters s with now := s.now + 1 })

/-- One step of the device: the command at the front of the queue, on the state with the rest of the queue. -/
def step (s : State) : Host.Outcome State Fault Refusal :=
  match s.pending with
  | [] => .next (idleTick s)
  | i :: rest => exec i { s with pending := rest }

/-- The state with the command that a table word spells at the front of its queue. The table gives no row any bits, so no word spells
a command. -/
def State.withFetchWord (s : State) (nbits w : Nat) : State :=
  match decodeTableWord nbits w with
  | some i => { s with pending := i :: s.pending }
  | none => s

end Sys2Proof.Machine
end

