-- ==== Sys2Proof/Safety.lean ====
section
/-! DEFINITION. The terms in which claims are made: what of the state a command may change and what it leaves as it was, when a thread
issues an instruction, and the canonical form of the memories. -/

namespace Sys2Proof.Machine

/-! ### Frames -/

/-- The parts of the state, one for each field. -/
inductive Part where
  | clock
  | free
  | opNames
  | queue
  | regs
  | staged
  | applies
  | casks
  | ledger
  | cellar
  | racks
  | threads
  | quant
  | mem
  | rings
  | lastRing
  | sync
  | wraps
  | armed
  | sent
  | px
  | bv
  | pos
  | fe
  | cal
  | hang
  | pm
  deriving DecidableEq, Repr

/-- A part is the same in two states. -/
def Part.same (s u : State) : Part → Prop
  | .clock => u.now = s.now
  | .free => u.freeCtr = s.freeCtr
  | .opNames => u.nextOp = s.nextOp
  | .queue => u.pending = s.pending
  | .regs => u.regs = s.regs
  | .staged => u.staged = s.staged
  | .applies => u.applies = s.applies
  | .casks => u.casks = s.casks
  | .ledger => u.ledger = s.ledger
  | .cellar => u.cellar = s.cellar
  | .racks => u.racks = s.racks
  | .threads => u.threads = s.threads
  | .quant => u.quant = s.quant
  | .mem => u.mem = s.mem
  | .rings => u.rings = s.rings
  | .lastRing => u.lastRing = s.lastRing
  | .sync => u.sync = s.sync
  | .wraps => u.wraps = s.wraps
  | .armed => u.armed = s.armed
  | .sent => u.sent = s.sent
  | .px => u.px = s.px
  | .bv => u.bv = s.bv
  | .pos => u.pos = s.pos
  | .fe => u.fe = s.fe
  | .cal => u.cal = s.cal
  | .hang => u.hang = s.hang
  | .pm => u.pm = s.pm

/-- Two states differ at most in the parts named. -/
structure onlyIn (ps : List Part) (s u : State) : Prop where
  /-- Every part that is not named is the same. -/
  same : ∀ p : Part, p ∉ ps → p.same s u

/-- What raising an event may change: EQ_TAIL and the counts, the record in memory, the packet's event count, the arming of its
vector, what is sent or waits for the host link (R375 to R379). -/
def eventParts : List Part := [.regs, .mem, .rings, .armed, .sent, .px]

/-- What reading one of the memories may change: what the event of a failing read may, and the casks, of which one may lose its shadow
(R136, R390). -/
def readParts : List Part := .casks :: eventParts

/-- Casks are as they were, but that a read of a memory may have found an error in the shadow of one, which is then lost (R136). -/
def shadowsOnly (s u : State) : Prop :=
  ∀ c, getCask c u = getCask c s ∨ getCask c u = { getCask c s with shadowOk := false }

/-- What a frame or idle boundary may change. -/
def boundaryParts : List Part :=
  .pos :: .cal :: .casks :: .cellar :: .ledger :: .applies :: .staged :: .quant :: .pm :: .fe :: eventParts

/-- Threads other than t of rack r are the same. -/
def otherThreads (r t : Nat) (s u : State) : Prop :=
  ∀ k, k ≠ 64 * r + t → Store.find k u.threads = Store.find k s.threads

/-- Casks other than c are the same. -/
def otherCasks (c : Nat) (s u : State) : Prop := ∀ k, k ≠ c → Store.find k u.casks = Store.find k s.casks

/-- Racks other than r are the same. -/
def otherRacks (r : Nat) (s u : State) : Prop := ∀ k, k ≠ r → Store.find k u.racks = Store.find k s.racks

/-- Rings other than n are the same. -/
def otherRings (n : Nat) (s u : State) : Prop := ∀ k, k ≠ n → Store.find k u.rings = Store.find k s.rings

/-- Stored register words other than those at the listed BAR0 offsets are the same. -/
def otherRegs (offs : List Nat) (s u : State) : Prop := ∀ o, o ∉ offs → Store.find o u.regs = Store.find o s.regs

/-- The registers that raising an event may change: tails and lost counts of the event queues, and the memory counts of a poison that
an eviction for the record writes (R376, R378, R391). -/
def eventRegs : List Nat :=
  ((List.range 16).map fun q => regOff .EQ_TAIL 0 q) ++ ((List.range 16).map fun q => regOff .EQ_LOST 0 q) ++
    [regOff .MC_POISONS 0 0, regOff .MC_ERR_ADDR 0 0, regOff .MC_ERR_ADDR 0 1, regOff .MC_ERR_SRC 0 0]

/-- Of memory, only the scratchpads change, and of their sectors' marks of bad parity, only those of n sectors from lo, now good (R392). -/
def onlySectors (lo n : Nat) (s u : State) : Prop :=
  { u.mem with sp := s.mem.sp, spBad := s.mem.spBad } = s.mem ∧
    ∀ x, u.mem.spBad.has x = (s.mem.spBad.has x && !(decide (lo ≤ x) && decide (x < lo + n)))

/-- A message to a member can leave at once: its route is up, and its port has a credit of the channel and room for its replay (R427,
R428, R431). -/
def answerable (m : Nat) (s : State) : Prop :=
  routeUp m s = true ∧ (getPort (routePort m s) s).maySend (routeVc1 m s) = true

/-! ### Threads that issue -/

/-- The thread is READY at an address from which instructions are fetched, is no tile walker's, no load it must wait for is
outstanding, the round robin may choose it, and no register that the instruction reads fails its parity (R233, R268, R275, R390). The
instruction writes the registers dst and reads the registers src. -/
def issues (r : Rack) (t : Tid) (all : Bool) (dst src : List LoadDest) (s : State) : Prop :=
  (getThread r.val t.val s).st = .ready ∧ fetchable (getThread r.val t.val s).pc.toNat s = true ∧
    walks (getThread r.val t.val s) s = false ∧ (getThread r.val t.val s).blocked all (dst ++ src) = false ∧
    myTurn r.val t.val s = true ∧ (getThread r.val t.val s).spoilt src = none

/-- An instruction of thread t of rack r changes that thread alone, but for RP_ISSUED, which counts it, and the rack's record of which
thread issued last and of the instructions it has fetched (R233, R268). -/
def threadOnly (r : Rack) (t : Tid) (s u : State) : Prop :=
  onlyIn [.threads, .regs, .racks] s u ∧ otherThreads r.val t.val s u ∧ otherRegs [regOff .RP_ISSUED r.val 0] s u ∧
    rget .RP_ISSUED r.val 0 u = rget .RP_ISSUED r.val 0 s + 1 ∧ otherRacks r.val s u ∧
    getRack r.val u = issuedRack r.val t.val s

/-- The command is carried out, and all it does is to turn the thread into what f makes of it. -/
def turns (i : Instr) (r : Rack) (t : Tid) (f : Thread → Thread) (s : State) : Prop :=
  ∃ u, exec i s = .next u ∧ threadOnly r t s u ∧ getThread r.val t.val u = f (getThread r.val t.val s)

/-- A thread that an exception halts at its instruction, its registers as they were, with the record of the exception (R298, R299). -/
def haltedWith (rec' : List Byte) (k : Thread) : Thread := { k with st := .halted, wait := none, exc := some rec' }

/-- The command is carried out, and all it does is to raise a precise exception of the thread at its instruction: cause and address (R298). -/
def traps (i : Instr) (r : Rack) (t : Tid) (cause addr : Nat) (s : State) : Prop :=
  ∃ u, exec i s = .next u ∧ onlyIn (.threads :: .racks :: eventParts) s u ∧ otherThreads r.val t.val s u ∧
    getThread r.val t.val u = haltedWith
      (excRecord r.val t.val cause 0 (getThread r.val t.val s).pc.toNat addr (skWord i)) (getThread r.val t.val s)

/-- Whether a thread's access of n bytes at an address raises an exception, and of which cause: ALIGN at an address that is no multiple of
align; ADDRESS where no memory lies under every byte; ACCESS at a load through a peer window, or a store into that of the device's own
member (R235, R266, R267, R274, R297). -/
def accessFails (r a n align : Nat) (store : Bool) (cause : Nat) (s : State) : Prop :=
  (cause = 2 ∧ a % align ≠ 0) ∨ (a % align = 0 ∧
    ((cause = 3 ∧ (regionOf r a s = .nowhere ∨ (∃ b, regionOf r a s = .dram b ∧ usable s < b + n) ∨
        (∃ q o, regionOf r a s = .sp q o ∧ inWindows a o n = false) ∨ ∃ m b, regionOf r a s = .peer m b ∧ 0x2000000000 < b + n)) ∨
      (cause = 4 ∧ ∃ m b, regionOf r a s = .peer m b ∧ b + n ≤ 0x2000000000 ∧ (store = false ∨ m = ownMember s))))

/-- A thread past an engine instruction whose result v comes to s_D later, as load data does (R296). -/
def lateResult (d : Reg) (v : DWord) (i : Instr) (k : Thread) : Thread :=
  { k.step with loads := k.loads ++ [⟨.sreg d, 0, 8, false, some v, k.pc, skWord i⟩] }

/-- A thread that waits with its instruction. -/
def waits (st : TSt) (w : Wait) (i : Instr) (now : Nat) (k : Thread) : Thread :=
  { k with st := st, wait := some w, since := now, insn := skWord i }

/-- A scalar register of a thread: s0 reads zero (Table 8.1). -/
def sreg (k : Thread) (a : Reg) : DWord := k.getS a.val

/-- The register files of a thread in canonical form: rising register numbers, and no entry of an all-zero register. -/
def Thread.wf (k : Thread) : Bool := Store.wf 0 k.s && Store.wf 0 k.v && Store.wf 0 k.p && Store.wf 0 k.t

/-! ### What Skovfa's tables say of the scalar instructions (Tables 8.5 to 8.7) -/

/-- The two-operand integer instructions and their results (Table 8.6). -/
def scalarTable : List ((Rack → Tid → Reg → Reg → Reg → Instr) × (DWord → DWord → DWord)) :=
  [(.skAdd, fun x y => x + y), (.skSub, fun x y => x - y), (.skAnd, fun x y => x &&& y), (.skOr, fun x y => x ||| y),
   (.skXor, fun x y => x ^^^ y), (.skShl, fun x y => x <<< (y % 64)), (.skShr, fun x y => x >>> (y % 64)),
   (.skSra, fun x y => x.sshiftRight' (y % 64)), (.skSlt, fun x y => if x.slt y then 1 else 0),
   (.skSltu, fun x y => if x < y then 1 else 0), (.skMin, fun x y => if x.slt y then x else y),
   (.skMax, fun x y => if x.slt y then y else x), (.skMinu, fun x y => if x < y then x else y),
   (.skMaxu, fun x y => if x < y then y else x), (.skMul, fun x y => x * y),
   (.skMulh, fun x y => ((x.signExtend 128 * y.signExtend 128) >>> 64).setWidth 64),
   (.skMulhu, fun x y => ((x.setWidth 128 * y.setWidth 128) >>> 64).setWidth 64),
   (.skDiv, fun x y => if y = 0 then -1 else x.sdiv y), (.skDivu, fun x y => if y = 0 then -1 else x / y),
   (.skRem, fun x y => if y = 0 then x else x.srem y), (.skRemu, fun x y => if y = 0 then x else x % y)]

/-- The instructions with a 16-bit immediate and their results (Table 8.5). -/
def immediateTable : List ((Rack → Tid → Reg → Reg → BitVec 16 → Instr) × (DWord → BitVec 16 → DWord)) :=
  [(.skAddi, fun x i => x + i.signExtend 64), (.skAndi, fun x i => x &&& i.setWidth 64), (.skOri, fun x i => x ||| i.setWidth 64),
   (.skXori, fun x i => x ^^^ i.setWidth 64), (.skSlti, fun x i => if x.slt (i.signExtend 64) then 1 else 0)]

/-- The instructions that shift by an immediate (Table 8.5). -/
def shiftTable : List ((Rack → Tid → Reg → Reg → Fin 64 → Instr) × (DWord → Nat → DWord)) :=
  [(.skShli, fun x n => x <<< n), (.skShri, fun x n => x >>> n), (.skSrai, fun x n => x.sshiftRight n)]

/-- The two-operand FP32 instructions, each with its result and flags (Table 8.7). -/
def floatTable : List ((Rack → Tid → Reg → Reg → Reg → Instr) × (Nat → Nat → Nat × Nat)) :=
  [(.skFadd, fadd fp32), (.skFsub, fsub fp32), (.skFmul, fmul fp32), (.skFdiv, fdiv fp32), (.skFmin, fmin fp32),
   (.skFmax, fmax fp32), (.skFeq, fcmp feqV snanFlags), (.skFlt, fcmp fltV nanFlag), (.skFle, fcmp fleV nanFlag)]

/-- The loads of a scalar register: bytes, and whether the value is sign-extended (Table 8.10). -/
def loadTable : List ((Rack → Tid → Reg → Reg → BitVec 10 → Instr) × Nat × Bool) :=
  [(.skLb, 1, true), (.skLbu, 1, false), (.skLh, 2, true), (.skLhu, 2, false), (.skLw, 4, true), (.skLwu, 4, false),
   (.skLdd, 8, false)]

/-! ### What Skovfa's tables say of the vector instructions (Tables 8.12 to 8.14) -/

/-- The lane-wise integer instructions: the result of a lane of width w from the lanes of v_A and v_B, each as a w-bit pattern, before
it is taken modulo 2^w (Table 8.12). -/
def vectorTable : List ((Rack → Tid → VType → Reg → Reg → Reg → Fin 8 → Bool → Instr) × (Nat → Nat → Nat → Int)) :=
  [(.skVadd, fun w x y => signedOf w x + signedOf w y), (.skVsub, fun w x y => signedOf w x - signedOf w y),
   (.skVmul, fun w x y => signedOf w x * signedOf w y), (.skVmin, fun w x y => min (signedOf w x) (signedOf w y)),
   (.skVmax, fun w x y => max (signedOf w x) (signedOf w y)), (.skVand, fun _ x y => (x &&& y : Nat)),
   (.skVor, fun _ x y => (x ||| y : Nat)), (.skVxor, fun _ x y => (x ^^^ y : Nat)),
   (.skVshl, fun w x y => (x : Int) * 2 ^ (y % w)), (.skVshr, fun w x y => (x : Int) / 2 ^ (y % w)),
   (.skVsra, fun w x y => signedOf w x / 2 ^ (y % w)),
   (.skVadds, fun w x y => max (-2 ^ (w - 1)) (min (2 ^ (w - 1) - 1) (signedOf w x + signedOf w y)))]

/-- The lane-wise floating-point instructions on two vectors (Table 8.13). -/
def vectorFloatTable : List ((Rack → Tid → VType → Reg → Reg → Reg → Fin 8 → Bool → Instr) × (FFmt → Nat → Nat → Nat × Nat)) :=
  [(.skVfadd, fadd), (.skVfsub, fsub), (.skVfmul, fmul), (.skVfmin, fmin), (.skVfmax, fmax)]

/-- The lane-wise floating-point instructions on one vector (Table 8.13). -/
def vectorUnaryTable : List ((Rack → Tid → VType → Reg → Reg → Fin 8 → Bool → Instr) × (FFmt → Nat → Nat × Nat)) :=
  [(.skVfabs, fun f x => finish f ((fdecode f x).abs, snanFlag (fdecode f x))), (.skVfrcp, vrcp), (.skVfrsq, vrsq),
   (.skVfexp, vexp), (.skVftanh, vtanh)]

/-- Lanes of v_D after a lane-wise instruction: the active ones hold f, the others what they held (R278). -/
def lanesAre (ty : VType) (d : Reg) (act : Nat → Bool) (f : Nat → Nat) (k u : Thread) : Prop :=
  ∀ j, j < ty.lanes → lane ty.width j (u.getV d) = if act j then f j % 2 ^ ty.width else lane ty.width j (k.getV d)

/-- A thread that differs from another past its instruction at most in vector register d, whose parity is good now, and its flags. -/
def onlyVector (d : Reg) (k u : Thread) : Prop :=
  u = { k.step with v := u.v, fflags := u.fflags, struck := k.struck.filter (· ≠ .vreg d) } ∧ ∀ x : Reg, x ≠ d → u.getV x = k.getV x

/-- A thread that differs from another past its instruction at most in predicate register d, which p0 discards, and the flags added. -/
def onlyPredicate (d : Fin 8) (fl : Nat) (k u : Thread) : Prop :=
  u = { k.step with p := u.p, fflags := k.fflags ||| BitVec.ofNat 5 fl } ∧ (∀ x : Fin 8, x ≠ d → u.getP x = k.getP x) ∧
    (d.val = 0 → u.p = k.p)

/-! ### Skovfa words -/

/-- The rack and the thread that issue an instruction of Skovfa as its word spells it: none for every other command, and for a DC.DRAIN
that also says that its descriptor cannot be read. -/
def issuerOf : Instr → Option (Rack × Tid)
  | .skNop r t => some (r, t)
  | .skEnd r t => some (r, t)
  | .skBrk r t => some (r, t)
  | .skCsrr r t _ _ => some (r, t)
  | .skCsrw r t _ _ => some (r, t)
  | .skAdd r t _ _ _ => some (r, t)
  | .skSub r t _ _ _ => some (r, t)
  | .skAnd r t _ _ _ => some (r, t)
  | .skOr r t _ _ _ => some (r, t)
  | .skXor r t _ _ _ => some (r, t)
  | .skShl r t _ _ _ => some (r, t)
  | .skShr r t _ _ _ => some (r, t)
  | .skSra r t _ _ _ => some (r, t)
  | .skSlt r t _ _ _ => some (r, t)
  | .skSltu r t _ _ _ => some (r, t)
  | .skMin r t _ _ _ => some (r, t)
  | .skMax r t _ _ _ => some (r, t)
  | .skMinu r t _ _ _ => some (r, t)
  | .skMaxu r t _ _ _ => some (r, t)
  | .skMul r t _ _ _ => some (r, t)
  | .skMulh r t _ _ _ => some (r, t)
  | .skMulhu r t _ _ _ => some (r, t)
  | .skDiv r t _ _ _ => some (r, t)
  | .skDivu r t _ _ _ => some (r, t)
  | .skRem r t _ _ _ => some (r, t)
  | .skRemu r t _ _ _ => some (r, t)
  | .skClz r t _ _ => some (r, t)
  | .skPopc r t _ _ => some (r, t)
  | .skFadd r t _ _ _ => some (r, t)
  | .skFsub r t _ _ _ => some (r, t)
  | .skFmul r t _ _ _ => some (r, t)
  | .skFmadd r t _ _ _ => some (r, t)
  | .skFmin r t _ _ _ => some (r, t)
  | .skFmax r t _ _ _ => some (r, t)
  | .skFdiv r t _ _ _ => some (r, t)
  | .skFeq r t _ _ _ => some (r, t)
  | .skFlt r t _ _ _ => some (r, t)
  | .skFle r t _ _ _ => some (r, t)
  | .skFsqrt r t _ _ => some (r, t)
  | .skFtoi r t _ _ => some (r, t)
  | .skItof r t _ _ => some (r, t)
  | .skFrnd r t _ _ => some (r, t)
  | .skAddi r t _ _ _ => some (r, t)
  | .skAndi r t _ _ _ => some (r, t)
  | .skOri r t _ _ _ => some (r, t)
  | .skXori r t _ _ _ => some (r, t)
  | .skSlti r t _ _ _ => some (r, t)
  | .skShli r t _ _ _ => some (r, t)
  | .skShri r t _ _ _ => some (r, t)
  | .skSrai r t _ _ _ => some (r, t)
  | .skLui r t _ _ => some (r, t)
  | .skBr r t _ _ _ => some (r, t)
  | .skJ r t _ => some (r, t)
  | .skJal r t _ => some (r, t)
  | .skJr r t _ _ => some (r, t)
  | .skLb r t _ _ _ => some (r, t)
  | .skLbu r t _ _ _ => some (r, t)
  | .skLh r t _ _ _ => some (r, t)
  | .skLhu r t _ _ _ => some (r, t)
  | .skLw r t _ _ _ => some (r, t)
  | .skLwu r t _ _ _ => some (r, t)
  | .skLdd r t _ _ _ => some (r, t)
  | .skVld r t _ _ _ _ => some (r, t)
  | .skVst r t _ _ _ _ => some (r, t)
  | .skSst4 r t _ _ _ => some (r, t)
  | .skTld r t _ _ _ => some (r, t)
  | .skTst r t _ _ _ => some (r, t)
  | .skFenceL r t => some (r, t)
  | .skFenceD r t => some (r, t)
  | .skFenceP r t _ => some (r, t)
  | .skVadd r t _ _ _ _ _ _ => some (r, t)
  | .skVsub r t _ _ _ _ _ _ => some (r, t)
  | .skVmul r t _ _ _ _ _ _ => some (r, t)
  | .skVmin r t _ _ _ _ _ _ => some (r, t)
  | .skVmax r t _ _ _ _ _ _ => some (r, t)
  | .skVand r t _ _ _ _ _ _ => some (r, t)
  | .skVor r t _ _ _ _ _ _ => some (r, t)
  | .skVxor r t _ _ _ _ _ _ => some (r, t)
  | .skVshl r t _ _ _ _ _ _ => some (r, t)
  | .skVshr r t _ _ _ _ _ _ => some (r, t)
  | .skVsra r t _ _ _ _ _ _ => some (r, t)
  | .skVadds r t _ _ _ _ _ _ => some (r, t)
  | .skVdot4 r t _ _ _ _ _ => some (r, t)
  | .skVabs r t _ _ _ _ _ => some (r, t)
  | .skVfadd r t _ _ _ _ _ _ => some (r, t)
  | .skVfsub r t _ _ _ _ _ _ => some (r, t)
  | .skVfmul r t _ _ _ _ _ _ => some (r, t)
  | .skVfma r t _ _ _ _ _ _ => some (r, t)
  | .skVfmin r t _ _ _ _ _ _ => some (r, t)
  | .skVfmax r t _ _ _ _ _ _ => some (r, t)
  | .skVfmaw r t _ _ _ _ _ => some (r, t)
  | .skVfabs r t _ _ _ _ _ => some (r, t)
  | .skVfrcp r t _ _ _ _ _ => some (r, t)
  | .skVfrsq r t _ _ _ _ _ => some (r, t)
  | .skVfexp r t _ _ _ _ _ => some (r, t)
  | .skVftanh r t _ _ _ _ _ => some (r, t)
  | .skVins r t _ _ _ _ _ _ => some (r, t)
  | .skVext r t _ _ _ _ _ _ => some (r, t)
  | .skVperm r t _ _ _ _ _ _ => some (r, t)
  | .skVsel r t _ _ _ _ _ _ => some (r, t)
  | .skVcmpeq r t _ _ _ _ _ _ => some (r, t)
  | .skVcmplt r t _ _ _ _ _ _ => some (r, t)
  | .skVcmple r t _ _ _ _ _ _ => some (r, t)
  | .skVbcast r t _ _ _ _ _ => some (r, t)
  | .skVrsum r t _ _ _ _ _ => some (r, t)
  | .skVrmax r t _ _ _ _ _ => some (r, t)
  | .skVrmaxa r t _ _ _ _ _ => some (r, t)
  | .skPand r t _ _ _ _ _ => some (r, t)
  | .skPor r t _ _ _ _ _ => some (r, t)
  | .skPxor r t _ _ _ _ _ => some (r, t)
  | .skPcnt r t _ _ _ _ => some (r, t)
  | .skVlane r t _ _ _ _ => some (r, t)
  | .skVcvt r t _ _ _ _ _ _ _ => some (r, t)
  | .skVsclExpand r t _ _ _ _ _ _ _ => some (r, t)
  | .skVsclCode r t _ _ _ _ _ _ _ => some (r, t)
  | .skQtReq r t _ _ => some (r, t)
  | .skCkMvm r t _ => some (r, t)
  | .skAccOpen r t _ => some (r, t)
  | .skAccWait r t _ => some (r, t)
  | .skAccLdp r t _ _ _ => some (r, t)
  | .skAccDrop r t _ => some (r, t)
  | .skAccStat r t _ _ => some (r, t)
  | .skDcDrain r t _ _ false => some (r, t)
  | .skSySig r t _ _ => some (r, t)
  | .skSyWait r t _ _ _ => some (r, t)
  | .skSyWaitr r t _ _ _ => some (r, t)
  | .skSyRd r t _ _ => some (r, t)
  | .skRgPush r t _ _ _ => some (r, t)
  | .skRgStat r t _ => some (r, t)
  | .skPosRd r t _ => some (r, t)
  | .skPosFrm r t _ => some (r, t)
  | .skPosTagp r t _ => some (r, t)
  | .skPosTagf r t _ => some (r, t)
  | .skTset r t _ _ _ _ => some (r, t)
  | .skTget r t _ _ _ _ => some (r, t)
  | _ => none

/-! ### Registers -/

/-- A host access at a BAR0 offset reaches its register: in BAR0, configuration space is ready and the function answers, the device control
region or firmware ready, the register's domain on (R422, R424, R425, R534). -/
def hostReaches (off : Nat) (s : State) : Prop :=
  off < 0x4000000 ∧ s.px.cfgReady = true ∧ s.px.d3 = false ∧ (s.pm.fwReady = true ∨ off < 0x100000) ∧ offDomain off s = none

/-- Device registers whose writes only store, one or more of each access code and block. -/
def plainRegs : List RegName :=
  [.LG_ROW_SEL, .LG_HOME_SEL, .LG_POOL_LIMIT, .RK_LIMITS, .RK_REF_PERIOD, .CT_TASTE_CFG, .EV_ROUTE, .PET_SEL, .BV_ROUTE]

/-- COMMIT registers of the device's commit groups that only put their staged values in force: the racking policy, the checksum
tolerances. -/
def plainCommits : List RegRef := [⟨.RK_POLICY_COMMIT, 0, 0⟩, ⟨.CT_CHECK_COMMIT, 0, 0⟩]

/-! ### Packets -/

/-- A started packet of an opcode whose operator has not run. -/
def packetWaits (p : PktId) (op : Nat) (x : Pkt) (s : State) : Prop :=
  findPkt p s = some x ∧ x.work = .none ∧ x.complete = false ∧ pktOp x.bytes = op

/-- A packet's walk is about to open a cell: it has one strip and one home stream on the same rack, W9, not in band mode; every cell is
coded; the stream is in breadth order, with no cell in flight and cells left; a thread of the walker is READY there (R316, R324, R332). -/
def opensNext (p : PktId) (w : Walk) (v : Strip) (t : Stream) (s : State) : Prop :=
  walkOf p s = some w ∧ w.strips = [v] ∧ w.streams = [t] ∧ v.rack = t.rack ∧ t.home = true ∧ t.ended = false ∧ t.redFirst = false ∧
    t.flights = [] ∧ w.w5 = false ∧ w.bandMode = false ∧ 0 < w.limit t.rack ∧ w.blockCells v.repl v.coded = [] ∧
    t.next < (w.sharesOn t.rack t.home).length ∧ w.replica (nthD 0 t.next (w.sharesOn t.rack t.home)) = v.repl ∧
    t.cell < (w.cells v.repl).length ∧ t.cell / 16 < v.coded ∧ (walkThread t.rack p s).isSome = true

/-- A library operator: its command and opcode, the tensors of its packet with whether their padding descriptors are checked, whether it
has a parameter block, whether it walks a layer map, what its body's other bytes must hold (Tables 10.8 to 10.10). -/
structure OperatorRow where
  command : RingId → Index → Instr
  op : Nat
  tensors : List Byte → List (Nat × Bool)
  params : Bool
  walks : Bool
  bodyOk : List Byte → Bool

/-- IN0 and OUT. -/
def tensors2 (b : List Byte) : List (Nat × Bool) := [(leAt 32 8 b, true), (leAt 48 8 b, false)]
/-- IN0, IN1 and OUT. -/
def tensors3 (b : List Byte) : List (Nat × Bool) := [(leAt 32 8 b, true), (leAt 40 8 b, true), (leAt 48 8 b, false)]
/-- IN0, IN1 where it is given, and OUT. -/
def tensorsOpt (b : List Byte) : List (Nat × Bool) := if leAt 40 8 b = 0 then tensors2 b else tensors3 b

/-- The body of an operator with no IN1. -/
def noIn1 (b : List Byte) : Bool := decide (leAt 40 8 b = 0)
/-- The body of a pod operator whose ROOT is at most some number. -/
def podBody (root : Nat) (b : List Byte) : Bool :=
  noIn1 b && decide (byteAt 58 b ≤ 1) && decide (byteAt 59 b ≤ root) && decide (leAt 62 2 b = 0)

/-- The operators whose kernels the library holds, but for QUANTIZE (Table 10.8). -/
def operatorTable : List OperatorRow :=
  [⟨.matmul, 0x10, tensors2, true, true, fun _ => true⟩, ⟨.conv2d, 0x11, tensors2, true, true, fun _ => true⟩,
   ⟨.dwconv, 0x12, tensors3, true, false, fun _ => true⟩, ⟨.attention, 0x13, tensors3, true, false, fun _ => true⟩,
   ⟨.layernorm, 0x14, tensors2, true, false, noIn1⟩, ⟨.pool, 0x15, tensors2, true, false, noIn1⟩,
   ⟨.resize, 0x16, tensors2, true, false, noIn1⟩, ⟨.eltwise, 0x17, tensorsOpt, true, false, fun _ => true⟩,
   ⟨.topkNms, 0x19, tensorsOpt, true, false, fun _ => true⟩,
   ⟨.sensorFuse, 0x20, fun b => [(leAt 48 8 b, false)], true, false, fun b => noIn1 b && decide (leAt 32 8 b % 32 = 0)⟩,
   ⟨.podAllreduce, 0x40, tensors2, false, false, podBody 0⟩, ⟨.podBroadcast, 0x41, tensors2, false, false, podBody 15⟩,
   ⟨.podAllgather, 0x42, tensors2, false, false, podBody 0⟩]

/-! ### Resets of the device -/

/-- What a device reset leaves: every register, every on-die memory and DRAM as after reset, no thread, no ring, no incident; the cells
of the casks, configuration NVM, fuses and the queue as they were; no cask holds work; firmware boots again (R407, R409, R535, Table
16.3). -/
structure wipedBy (cause : Nat) (s u : State) : Prop where
  /-- What every reset sets to its reset value. -/
  reset : ∀ p ∈ [Part.clock, .regs, .staged, .applies, .ledger, .racks, .threads, .quant, .mem, .rings, .lastRing, .sync, .wraps, .armed,
    .fe, .hang], p.same State.reset u
  /-- What no reset touches. -/
  kept : ∀ p ∈ [Part.free, .opNames, .queue, .sent], p.same s u
  /-- The cells, row table and marks of every cask stay, its work goes. -/
  cask : ∀ c, let k := getCask c s
    getCask c u = { Cask.init with
      racked := k.racked
      incomplete := k.incomplete
      chkLost := k.chkLost
      retired := k.retired
      digest := k.digest
      cells := k.cells
      rows := k.rows
      levels := k.levels
      lSum := k.lSum
      lCnt := k.lCnt
      cycles8 := k.cycles8
      refA0 := k.refA0
      refB0 := k.refB0 }
  /-- The clock of record starts anew (R444). -/
  pos : u.pos = { Pos.init with a := s.pos.a, b := s.pos.b }
  /-- Configuration NVM: vintages, the journal, DAC defaults. -/
  nvm : u.cal.slotA = s.cal.slotA ∧ u.cal.slotB = s.cal.slotB ∧ u.cal.factory = s.cal.factory ∧ u.cal.run = none ∧
    u.pm.journal = s.pm.journal ∧ u.pm.nextSeq = s.pm.nextSeq ∧ u.pm.dacDefaults = s.pm.dacDefaults
  /-- Fuses. -/
  fuses : u.pm.lcState = s.pm.lcState ∧ u.pm.serviceLeft = s.pm.serviceLeft ∧ u.pm.svnMin = s.pm.svnMin ∧
    u.pm.revoked = s.pm.revoked ∧ u.pm.keyHash = s.pm.keyHash ∧ u.pm.leaf = s.pm.leaf
  /-- The boot flow runs again. -/
  boot : u.pm.fwReady = false ∧ u.pm.wiped = false ∧ u.pm.stage = 0 ∧ u.pm.cause = cause

/-! ### Memories -/

/-- The canonical form of the memories: rising addresses, and no entry that equals what an unlisted address reads as; every cached
sector holds 32 bytes. -/
def Mem.wf (m : Mem) : Bool :=
  Store.wf 0 m.dram && Store.wf 0xFFFFFFFF#32 m.parity && Store.risesFrom 0 m.seals && Store.risesFrom 0 m.csec &&
    Store.risesFrom 0 m.cline && Store.wf 0 m.sp && Store.wf 0 m.acc && Store.risesFrom 0 m.spBad &&
    Store.risesFrom 0 m.accBad && Store.risesFrom 0 m.failed && m.csec.all fun e => decide (e.2.data.length = 32)

end Sys2Proof.Machine
end

