-- ==== Sys2Proof/Certificates/Slice0/Obligations.lean ====
section
/-! DEFINITION. The statements about the model for the provers, one proposition each. -/

open Sys2Proof Sys2Proof.Machine

/-! ### The queue and the clock -/

/-- A step with a command at the front of the queue is that command, carried out on the state with the rest of the queue. -/
def Obligations.StepRunsTheFrontCommand : Prop :=
  ∀ (i : Instr) (q : List Instr) (s : State), s.pending = i :: q → step s = exec i { s with pending := q }

/-- The model's choice (log entry 1): with no command waiting, a step is one step clock. The progress counters of rings and casks advance with
it, but for those that are paused, whose paused step clocks count up (R504, R505). Nothing else changes, unless an incident detected in the
step clock that ends waits to begin (R518, log entry 142) or an apply has left a frame boundary owing (R454). -/
def Obligations.IdleStepIsOneStepClock : Prop :=
  ∀ s : State, s.pending = [] → s.hang.incident.isSome ∨ s.hang.detected = [] → s.pos.dist < (rget .POS_FRAME_LEN 0 0 s).toNat →
    ∃ u, step s = .next u ∧ u.now = s.now + 1 ∧ onlyIn [.clock, .rings, .casks] s u ∧
      (∀ n, Store.find n u.rings = (Store.find n s.rings).map fun k => if ringCounts n k s then k else { k with paused := k.paused + 1 }) ∧
      ∀ c, Store.find c u.casks = (Store.find c s.casks).map fun k => if caskCounts c k s then k else { k with paused := k.paused + 1 }

/-! ### Skovfa -/

/-- Every two-operand integer instruction writes the result of Table 8.6 to s_D and moves to the next instruction; nothing else of the device
changes but the count of issued instructions. None of them raises an exception. The one-operand integer instructions, and those with an
immediate, write the result of Tables 8.5 and 8.6. -/
def Obligations.ScalarInstructionsWriteTheirResult : Prop :=
   (∀ e ∈ scalarTable, ∀ (r : Rack) (t : Tid) (d a b : Reg) (s : State), issues r t false [.sreg d] [.sreg a, .sreg b] s →
      turns (e.1 r t d a b) r t (fun k => (k.setS d.val (e.2 (sreg k a) (sreg k b))).step) s) ∧
   (∀ (r : Rack) (t : Tid) (d a : Reg) (s : State), issues r t false [.sreg d] [.sreg a] s →
      (∀ e ∈ immediateTable, ∀ i, turns (e.1 r t d a i) r t (fun k => (k.setS d.val (e.2 (sreg k a) i)).step) s) ∧
      (∀ e ∈ shiftTable, ∀ n, turns (e.1 r t d a n) r t (fun k => (k.setS d.val (e.2 (sreg k a) n.val)).step) s) ∧
      turns (.skClz r t d a) r t (fun k => (k.setS d.val (sreg k a).clz).step) s ∧
      turns (.skPopc r t d a) r t
        (fun k => (k.setS d.val (BitVec.ofNat 64 ((List.range 64).countP fun j => (sreg k a).getLsbD j))).step) s ∧
      ∀ i : BitVec 16, turns (.skLui r t d i) r t (fun k => (k.setS d.val (BitVec.signExtend 64 i <<< 16)).step) s)

/-- BR goes to PC + 4 × DISP when its condition holds and to the next instruction otherwise; J and JAL always jump; JAL and JR leave PC + 4 in
s31 and s_D; JR jumps to s_A when bits [1:0] of it are zero, and raises ALIGN otherwise (R270). NOP moves on; END frees the thread, and a rack
whose threads are then all FREE has an empty instruction buffer; CSRW writes FFLAGS; CSRR reads TID, RACK, DEVID, the rack clocks since the
rack's last reset, of which one step clock holds 7.5 (log entry 15), the step clock, FFLAGS, the packet's address and its ring (Table 8.2). -/
def Obligations.BranchesAndSystemInstructions : Prop :=
   (∀ (r : Rack) (t : Tid) (s : State),
      (∀ c a disp, (Instr.skBr r t c a disp).wf = true → issues r t false [] (condReads c a) s →
        turns (.skBr r t c a disp) r t
          (fun k => { k with pc := if condHolds c k a then k.pc + 4 * disp.signExtend 64 else k.pc + 4 }) s) ∧
      (∀ disp, issues r t false [] [] s →
        turns (.skJ r t disp) r t (fun k => { k with pc := k.pc + 4 * disp.signExtend 64 }) s) ∧
      (∀ disp, issues r t false [.sreg 31] [] s →
        turns (.skJal r t disp) r t (fun k => { k.setS 31 (k.pc + 4) with pc := k.pc + 4 * disp.signExtend 64 }) s) ∧
      ∀ d a, issues r t false [.sreg d] [.sreg a] s →
        ((sreg (getThread r.val t.val s) a).toNat % 4 = 0 →
          turns (.skJr r t d a) r t (fun k => { k.setS d.val (k.pc + 4) with pc := sreg k a }) s) ∧
        ((sreg (getThread r.val t.val s) a).toNat % 4 ≠ 0 →
          traps (.skJr r t d a) r t 2 (sreg (getThread r.val t.val s) a).toNat s)) ∧
   (∀ (r : Rack) (t : Tid) (s : State),
      (issues r t false [] [] s → turns (.skNop r t) r t Thread.step s) ∧
      (issues r t true [] [] s → ∃ u, exec (.skEnd r t) s = .next u ∧ onlyIn [.threads, .regs, .racks] s u ∧ otherThreads r.val t.val s u ∧
        otherRegs [regOff .RP_ISSUED r.val 0] s u ∧ getThread r.val t.val u = Thread.init ∧
        ∀ x, getRack x u =
          let k := if x = r.val then issuedRack r.val t.val s else getRack x s
          if allFree x u then { k with ibuf := [] } else k) ∧
      (∀ a, issues r t false [] [.sreg a] s →
        turns (.skCsrw r t a 5) r t (fun k => { k.step with fflags := (sreg k a).setWidth 5 }) s) ∧
      ∀ d, issues r t false [.sreg d] [] s →
        turns (.skCsrr r t d 0) r t (fun k => (k.setS d.val (BitVec.ofNat 64 t.val)).step) s ∧
        turns (.skCsrr r t d 1) r t (fun k => (k.setS d.val (BitVec.ofNat 64 r.val)).step) s ∧
        turns (.skCsrr r t d 4) r t (fun k => (k.setS d.val (BitVec.ofNat 64 s.now)).step) s ∧
        turns (.skCsrr r t d 5) r t (fun k => (k.setS d.val (k.fflags.setWidth 64)).step) s ∧
        turns (.skCsrr r t d 2) r t (fun k => (k.setS d.val
          (BitVec.ofNat 64 (16 * rfield .BV_IDENT 0 0 15 4 s + rfield .BV_IDENT 0 0 3 0 s))).step) s ∧
        (∀ p, (getThread r.val t.val s).pkt = some p → let x := (getRing p.ring.val s).ctx
          turns (.skCsrr r t d 6) r t (fun k => (k.setS d.val (BitVec.ofNat 64 (x.base + 64 * (p.idx.toNat % 2 ^ x.log2)))).step) s ∧
          turns (.skCsrr r t d 7) r t (fun k => (k.setS d.val (BitVec.ofNat 64 p.ring.val)).step) s) ∧
        ∃ u n, n < 8 ∧ exec (.skCsrr r t d 3) s = .next u ∧ onlyIn [.free, .threads, .regs, .racks] s u ∧ otherThreads r.val t.val s u ∧
          getThread r.val t.val u = ((getThread r.val t.val s).setS d.val
            (BitVec.ofNat 64 ((s.now - (getRack r.val s).resetAt) * 15 / 2 + n))).step)

/-- A thread after a precise exception: HALTED at its instruction, which changed no register; the record says the cause, the thread, the rack,
the PC and the word, and EV_THREAD_EXC and the packet tell of it (R297 to R299). A reserved operand combination raises ILLEGAL and has no
other effect on the thread: a CSR number that is not listed, a CSRW to a CSR that is not FFLAGS, SST4 with D above 28 (R264, R269). A
fetch fails where no instruction can be fetched: at an address that is no multiple of 4 with ALIGN, outside DRAM below U with ADDRESS,
both with the FETCH flag, and the thread halts (R268, R297, Table 8.18). -/
def Obligations.ExceptionsHaltTheThread : Prop :=
   (∀ (r : Rack) (t : Tid) (s : State), issues r t false [] [] s →
      traps (.skBrk r t) r t 6 0 s ∧
      ∀ w, skovfaDecode r t w = none →
        ∃ u, exec (.illegalInstruction r t w) s = .next u ∧ onlyIn (.threads :: .racks :: eventParts) s u ∧
          otherThreads r.val t.val s u ∧
          getThread r.val t.val u = haltedWith
            (excRecord r.val t.val 1 0 (getThread r.val t.val s).pc.toNat 0 w) (getThread r.val t.val s)) ∧
   (∀ (r : Rack) (t : Tid) (s : State) (i : Instr), issues r t false [] [] s →
      (∃ d n, i = .skCsrr r t d n ∧ 8 ≤ n.val) ∨ (∃ a n, i = .skCsrw r t a n ∧ n.val ≠ 5) ∨
        (∃ d a o, i = .skSst4 r t d a o ∧ 28 < d.val) →
      traps i r t 1 0 s) ∧
   (∀ (r : Rack) (t : Tid) (parity : Bool) (s : State), (getThread r.val t.val s).st = .ready →
      ((getThread r.val t.val s).pc.toNat % 4 ≠ 0 ∨ usable s < (getThread r.val t.val s).pc.toNat + 4) →
      ∃ u, exec (.instructionFetchFault r t parity) s = .next u ∧ onlyIn (.threads :: eventParts) s u ∧
        otherThreads r.val t.val s u ∧
        getThread r.val t.val u = haltedWith
            (excRecord r.val t.val (if (getThread r.val t.val s).pc.toNat % 4 ≠ 0 then 2 else 3) 2
            (getThread r.val t.val s).pc.toNat (getThread r.val t.val s).pc.toNat 0) (getThread r.val t.val s))

/-- The thread after an FP32 instruction with a result and flags: the result in bits [31:0] of s_D with zeros above, the flags added to
FFLAGS, at the next instruction (R272). Rounding is to nearest: no finite value of the format lies closer to a quotient n / d than the one
that it rounds to, unless the quotient overflows the format (R188, R272). The model's reading: FRND signals no inexact, a conversion to an
integer does (log entry 108, DEDUCED). -/
def Obligations.FloatInstructionsRoundToNearest : Prop :=
   (∀ (r : Rack) (t : Tid) (d a b : Reg) (s : State),
      (issues r t false [.sreg d] [.sreg a, .sreg b] s →
        (∀ e ∈ floatTable, turns (e.1 r t d a b) r t (fun k =>
          { (k.setS d.val (BitVec.ofNat 64 (e.2 (k.f32 a) (k.f32 b)).1)).step with
            fflags := k.fflags ||| BitVec.ofNat 5 (e.2 (k.f32 a) (k.f32 b)).2 }) s)) ∧
      (issues r t false [] [.sreg d, .sreg a, .sreg b] s →
        turns (.skFmadd r t d a b) r t (fun k =>
          { (k.setS d.val (BitVec.ofNat 64 (fma fp32 (k.f32 d) (k.f32 a) (k.f32 b)).1)).step with
            fflags := k.fflags ||| BitVec.ofNat 5 (fma fp32 (k.f32 d) (k.f32 a) (k.f32 b)).2 }) s) ∧
      (issues r t false [.sreg d] [.sreg a] s →
        turns (.skFsqrt r t d a) r t (fun k =>
          { (k.setS d.val (BitVec.ofNat 64 (fsqrt fp32 (k.f32 a)).1)).step with
            fflags := k.fflags ||| BitVec.ofNat 5 (fsqrt fp32 (k.f32 a)).2 }) s ∧
        turns (.skFrnd r t d a) r t (fun k =>
          { (k.setS d.val (BitVec.ofNat 64 (frnd fp32 (k.f32 a)).1)).step with
            fflags := k.fflags ||| BitVec.ofNat 5 (frnd fp32 (k.f32 a)).2 }) s ∧
        turns (.skItof r t d a) r t (fun k =>
          { (k.setS d.val (BitVec.ofNat 64 (fencode fp32 (ofInt (sreg k a).toInt)).1)).step with
            fflags := k.fflags ||| BitVec.ofNat 5 (fencode fp32 (ofInt (sreg k a).toInt)).2 }) s ∧
        turns (.skFtoi r t d a) r t (fun k =>
          { (k.setS d.val (BitVec.ofInt 64 (toIntEven (-2 ^ 63) (2 ^ 63 - 1) (fdecode fp32 (k.f32 a))).1)).step with
            fflags := k.fflags ||| BitVec.ofNat 5 (toIntEven (-2 ^ 63) (2 ^ 63 - 1) (fdecode fp32 (k.f32 a))).2 }) s)) ∧
   (∀ f ∈ [fp32, bf16, e5m2, e4m3, e2m1], ∀ (neg : Bool) (n d : Nat), 0 < d → (fround f neg n d).2 &&& flOF = 0 →
      ∃ m e, fdecode f (fround f neg n d).1 = .fin neg m e ∧ 0 < e ∧
        ∀ x, x ≤ f.maxFin → ∀ m' e', fdecode f x = .fin false m' e' →
          |(m : ℚ) / e - n / d| ≤ |(m' : ℚ) / e' - n / d|)

/-- A load whose access is allowed is outstanding after it issues: destination, address, bytes, sign; memory and the destination are as
before, and the thread goes on (R266, R274, R275). A load that breaks its alignment, reaches no memory or goes through a peer window raises
ALIGN, ADDRESS or ACCESS and has no effect (R235, R267, R274, R298). The data of a load from the scratchpad of its own or another rack whose
parity is good there, or from a DRAM sector that is cached with good parity, reaches the load's register, sign-extended or zero-extended, and
the load is no longer outstanding; an upset may strike the register as it is written (R234, R275, R388, R389, log entry 121). Where the
parity of the sector read fails, the thread halts with an imprecise BUS and the register keeps its value (R298). -/
def Obligations.LoadsBringTheirData : Prop :=
   (∀ (r : Rack) (t : Tid) (a : Reg) (o : BitVec 10) (s : State),
      (∀ e ∈ loadTable, ∀ d, issues r t false [.sreg d] [.sreg a] s →
        accessCause r.val (effAddr (getThread r.val t.val s) a o e.2.1) e.2.1 e.2.1 false s = none →
        turns (e.1 r t d a o) r t (fun k =>
          { k.step with loads := k.loads ++ [⟨.sreg d, effAddr k a o e.2.1, e.2.1, e.2.2, none, k.pc, skWord (e.1 r t d a o)⟩] }) s) ∧
      (∀ d sz, issues r t false [.vreg d] [.sreg a] s →
        accessCause r.val (effAddr (getThread r.val t.val s) a o 32) (vbytes sz) 32 false s = none →
        turns (.skVld r t d a sz o) r t (fun k => { k.step with
          loads := k.loads ++ [⟨.vreg d, effAddr k a o 32, vbytes sz, false, none, k.pc, skWord (.skVld r t d a sz o)⟩] }) s) ∧
      (∀ d, issues r t false [.treg d] [.sreg a] s →
        accessCause r.val (effAddr (getThread r.val t.val s) a o 32) 64 32 false s = none →
        turns (.skTld r t d a o) r t (fun k => { k.step with
          loads := k.loads ++ [⟨.treg d, effAddr k a o 32, 64, false, none, k.pc, skWord (.skTld r t d a o)⟩] }) s) ∧
      ∀ cause, let fails := fun unit n align =>
          accessFails r.val (effAddr (getThread r.val t.val s) a o unit) n align false cause s
        (∀ e ∈ loadTable, ∀ d, issues r t false [.sreg d] [.sreg a] s → fails e.2.1 e.2.1 e.2.1 →
          traps (e.1 r t d a o) r t cause (effAddr (getThread r.val t.val s) a o e.2.1) s) ∧
        (∀ d sz, issues r t false [.vreg d] [.sreg a] s → fails 32 (vbytes sz) 32 →
          traps (.skVld r t d a sz o) r t cause (effAddr (getThread r.val t.val s) a o 32) s) ∧
        ∀ d, issues r t false [.treg d] [.sreg a] s → fails 32 64 32 →
          traps (.skTld r t d a o) r t cause (effAddr (getThread r.val t.val s) a o 32) s) ∧
   (∀ (r : Rack) (t : Tid) (n : Nat) (l : Load) (s : State),
      (getThread r.val t.val s).loads[n]? = some l → l.result = none → 0 < l.size →
      (getThread r.val t.val s).st = .ready → (getThread r.val t.val s).wait = none →
      let k := { getThread r.val t.val s with loads := (getThread r.val t.val s).loads.eraseIdx n }
      let arrives := fun (parts : List Part) (data : List Byte) => ∀ up, up ≠ .source →
        ∃ u, exec (.loadDataReturn r t n up) s = .next u ∧ onlyIn parts s u ∧ otherThreads r.val t.val s u ∧
          getThread r.val t.val u =
            if up = .register then (k.writeLoad l (leNat data)).strike l.dest else k.writeLoad l (leNat data)
      (∀ q off, (l.addr = 0x2000000000 + off ∧ q = r.val) ∨ (l.addr = 0x1000000000 + 0x80000 * q + off ∧ q < 256 ∧
          trellisUp r.val q s = true ∧ trellisUp q r.val s = true) → off + l.size ≤ 0x80000 →
        (badSector q off l.size s = none → arrives [.threads] (spRead q off l.size s)) ∧
        ∀ x, badSector q off l.size s = some x →
          ∃ u, exec (.loadDataReturn r t n .none) s = .next u ∧ onlyIn (.threads :: eventParts) s u ∧ otherThreads r.val t.val s u ∧
            getThread r.val t.val u = haltedWith (excRecord r.val t.val 7 1 l.pc.toNat l.addr l.insn) k) ∧
      ∀ c, l.addr < 0x1000000000 → l.addr + l.size ≤ usable s → l.addr % 32 + l.size ≤ 32 → s.mem.csec.find (l.addr / 32) = some c →
        c.par = parityOf c.data → arrives [.threads, .mem] ((c.data.drop (l.addr % 32)).take l.size))

/-- A store into the scratchpad of the own or another rack puts its bytes there, least significant first, and nowhere else, once no load of the
thread is outstanding; the parity of the sectors that it writes is good again, and no other's changes (R234, R235, R274, R392). A store to
DRAM below U puts its bytes there and nowhere else (R266, R387); one through the peer window of another member leaves as a message to it and
is kept until it is acknowledged (R428, R432, R433). A store that breaks its alignment, reaches no memory or goes through the device's own
peer window raises ALIGN, ADDRESS or ACCESS and has no effect (R235, R267, R274, R298). A fence puts its thread in WAIT_MEM; its completion
moves the thread past it, and after FENCE.P says in s_D whether a peer-window store failed (R304). The model's readings: a store inside the
device is visible as it issues (log entry 16, DEDUCED), and FENCE.P tells of every failure since the thread was placed (log entry 48,
DEDUCED). -/
def Obligations.StoresAndFences : Prop :=
   (∀ (r : Rack) (t : Tid) (a : Reg) (o : BitVec 10) (s : State), Mem.wf s.mem = true →
      let k := getThread r.val t.val s
      let ea := effAddr k a o 32
      let goes := fun (i : Instr) (parts : List Part) (x : State → Prop) => ∃ u, exec i s = .next u ∧
        onlyIn (.threads :: .regs :: .racks :: parts) s u ∧ otherThreads r.val t.val s u ∧ getThread r.val t.val u = k.step ∧ x u
      let stores := fun (i : Instr) (n : Nat) (byte : Nat → Byte) =>
        (∀ q off, (ea = 0x2000000000 + off ∧ q = r.val) ∨ (ea = 0x1000000000 + 0x80000 * q + off ∧ q < 256 ∧ trellisUp r.val q s = true) →
          off % 32 = 0 → off + n ≤ 0x80000 → goes i [.mem, .rings] fun u => onlySectors (0x4000 * q + off / 32) (n / 32) s u ∧
            (∀ j, j < n → Store.getD 0 (0x80000 * q + off + j) u.mem.sp = byte j) ∧
            ∀ j, ¬ (0x80000 * q + off ≤ j ∧ j < 0x80000 * q + off + n) → Store.getD 0 j u.mem.sp = Store.getD 0 j s.mem.sp) ∧
        (ea < 0x1000000000 → ea % 32 = 0 → ea + n ≤ usable s → s.mem.cline.length < 11 →
          (∀ j, j < n → sliceOn ((ea + j) / 128) s = true) → goes i [.mem, .rings] fun u =>
            (∀ j, j < n → peekByte (ea + j) u = byte j) ∧ ∀ x, ¬ (ea ≤ x ∧ x < ea + n) → peekByte x u = peekByte x s) ∧
        (∀ m b, regionOf r.val ea s = .peer m b → ea % 32 = 0 → b + n ≤ 0x2000000000 → m ≠ ownMember s → answerable m s →
          rflag .BV_CTRL 0 0 8 s = false → goes i [.bv, .sent] fun u => let data := (List.range n).map byte
            u.bv.msgs = s.bv.msgs ++ [⟨s.bv.nextMsg, m, b, data, false, k.pkt, some (64 * r.val + t.val)⟩] ∧
            u.sent = s.sent ++ [.burivo (routePort m s) (routeVc1 m s) (ownMember s) m s.bv.nextMsg (.store b data)]) ∧
        ∀ cause, accessFails r.val ea n 32 true cause s → traps i r t cause ea s
      (∀ d sz, issues r t true [] [.sreg a, .vreg d] s →
        stores (.skVst r t d a sz o) (vbytes sz) fun j => BitVec.ofNat 8 ((k.getV d).toNat / 256 ^ j)) ∧
      (∀ d, issues r t true [] [.sreg a, .treg d] s →
        stores (.skTst r t d a o) 64 fun j => BitVec.ofNat 8 ((k.getT d).toNat / 256 ^ j)) ∧
      ∀ d : Reg, d.val ≤ 28 → issues r t true [] [.sreg a, .sreg d, .sreg (regPlus d 1), .sreg (regPlus d 2), .sreg (regPlus d 3)] s →
        stores (.skSst4 r t d a o) 32 fun j => BitVec.ofNat 8 ((k.getS (d.val + j / 8)).toNat / 256 ^ (j % 8))) ∧
   (∀ (r : Rack) (t : Tid) (s : State),
      (issues r t true [] [] s →
        turns (.skFenceL r t) r t (fun k =>
          { k with st := .waitMem, wait := some .fence, since := s.now, insn := skWord (.skFenceL r t) }) s ∧
        turns (.skFenceD r t) r t (fun k =>
          { k with st := .waitMem, wait := some .fence, since := s.now, insn := skWord (.skFenceD r t) }) s) ∧
      (∀ d, issues r t true [.sreg d] [] s → turns (.skFenceP r t d) r t (fun k =>
        { k with st := .waitMem, wait := some (.fenceP d), since := s.now, insn := skWord (.skFenceP r t d) }) s) ∧
      ((getThread r.val t.val s).st = .waitMem → rackStops r.val s = false →
        ((getThread r.val t.val s).wait = some .fence →
          ∃ u, exec (.fenceComplete r t) s = .next u ∧ onlyIn [.threads] s u ∧ otherThreads r.val t.val s u ∧
            getThread r.val t.val u = { (getThread r.val t.val s).step with st := .ready, wait := none }) ∧
        ∀ d, (getThread r.val t.val s).wait = some (.fenceP d) → peerStoresOut r.val t.val s = false →
          ∃ u, exec (.fenceComplete r t) s = .next u ∧ onlyIn [.threads] s u ∧ otherThreads r.val t.val s u ∧
            getThread r.val t.val u = { ((getThread r.val t.val s).setS d.val
              (if (getThread r.val t.val s).peerFailed then 1 else 0)).step with st := .ready, wait := none }))

/-- A lane-wise integer instruction gives each active lane the result of Table 8.12 modulo 2^w, and leaves the other lanes, registers and the
rest of the device as they were (R277 to R279). A lane-wise floating-point instruction gives each active lane its result in the element
format and adds the flags of the active lanes alone to FFLAGS (R272, R278 to R280). -/
def Obligations.VectorLanes : Prop :=
   (∀ (r : Rack) (t : Tid) (ty : VType) (d a b p pn) (s : State), ty.isFloat = false → (getThread r.val t.val s).wf = true →
      (issues r t false [] [.vreg d, .vreg a, .vreg b] s → ∀ e ∈ vectorTable,
        ∃ u, exec (e.1 r t ty d a b p pn) s = .next u ∧ threadOnly r t s u ∧
          onlyVector d (getThread r.val t.val s) (getThread r.val t.val u) ∧
          (getThread r.val t.val u).fflags = (getThread r.val t.val s).fflags ∧
          lanesAre ty d ((getThread r.val t.val s).active p pn) (fun j => patternOf ty.width (e.2 ty.width
            (lane ty.width j ((getThread r.val t.val s).getV a)) (lane ty.width j ((getThread r.val t.val s).getV b))))
            (getThread r.val t.val s) (getThread r.val t.val u)) ∧
      (issues r t false [] [.vreg d, .vreg a] s →
        ∃ u, exec (.skVabs r t ty d a p pn) s = .next u ∧ threadOnly r t s u ∧
          onlyVector d (getThread r.val t.val s) (getThread r.val t.val u) ∧
          (getThread r.val t.val u).fflags = (getThread r.val t.val s).fflags ∧
          lanesAre ty d ((getThread r.val t.val s).active p pn)
            (fun j => (laneS ty.width j ((getThread r.val t.val s).getV a)).natAbs)
            (getThread r.val t.val s) (getThread r.val t.val u))) ∧
   (∀ (r : Rack) (t : Tid) (ty : VType) (d a b p pn) (s : State), ty.isFloat = true → (getThread r.val t.val s).wf = true →
      (issues r t false [] [.vreg d, .vreg a, .vreg b] s → ∀ e ∈ vectorFloatTable,
        ∃ u, exec (e.1 r t ty d a b p pn) s = .next u ∧ threadOnly r t s u ∧
          onlyVector d (getThread r.val t.val s) (getThread r.val t.val u) ∧
          (let f := fun j => e.2 (vfmt ty) (lane ty.width j ((getThread r.val t.val s).getV a))
              (lane ty.width j ((getThread r.val t.val s).getV b))
           (getThread r.val t.val u).fflags = (getThread r.val t.val s).fflags |||
              BitVec.ofNat 5 (laneFlags ty.lanes ((getThread r.val t.val s).active p pn) fun j => (f j).2) ∧
           lanesAre ty d ((getThread r.val t.val s).active p pn) (fun j => (f j).1)
             (getThread r.val t.val s) (getThread r.val t.val u))) ∧
      (issues r t false [] [.vreg d, .vreg a] s → ∀ e ∈ vectorUnaryTable,
        ∃ u, exec (e.1 r t ty d a p pn) s = .next u ∧ threadOnly r t s u ∧
          onlyVector d (getThread r.val t.val s) (getThread r.val t.val u) ∧
          (let f := fun j => e.2 (vfmt ty) (lane ty.width j ((getThread r.val t.val s).getV a))
           (getThread r.val t.val u).fflags = (getThread r.val t.val s).fflags |||
              BitVec.ofNat 5 (laneFlags ty.lanes ((getThread r.val t.val s).active p pn) fun j => (f j).2) ∧
           lanesAre ty d ((getThread r.val t.val s).active p pn) (fun j => (f j).1)
             (getThread r.val t.val s) (getThread r.val t.val u))))

/-- VDOT4 adds to each active INT32 lane of v_D the sum of four products of INT8 lanes, modulo 2³² (R279, Table 8.12). VFMA adds a product to
each active lane of v_D with one rounding; VFMAW adds 64 BF16 products to the FP32 lanes of v_D and v_D+1 (R279, Table 8.13). -/
def Obligations.VectorDotAndMultiplyAdd : Prop :=
   (∀ (r : Rack) (t : Tid) (d a b p pn) (s : State), (getThread r.val t.val s).wf = true →
      issues r t false [] [.vreg d, .vreg a, .vreg b] s →
      ∃ u, exec (.skVdot4 r t d a b p pn) s = .next u ∧ threadOnly r t s u ∧
        onlyVector d (getThread r.val t.val s) (getThread r.val t.val u) ∧
        lanesAre .int32 d ((getThread r.val t.val s).active p pn) (fun j =>
          let x := fun i => laneS 8 (4 * j + i) ((getThread r.val t.val s).getV a) * laneS 8 (4 * j + i) ((getThread r.val t.val s).getV b)
          patternOf 32 (laneS 32 j ((getThread r.val t.val s).getV d) + x 0 + x 1 + x 2 + x 3))
          (getThread r.val t.val s) (getThread r.val t.val u)) ∧
   (∀ (r : Rack) (t : Tid) (d a b p pn) (s : State), (getThread r.val t.val s).wf = true →
      (∀ ty : VType, ty.isFloat = true → issues r t false [] [.vreg d, .vreg a, .vreg b] s →
        ∃ u, exec (.skVfma r t ty d a b p pn) s = .next u ∧ threadOnly r t s u ∧
          onlyVector d (getThread r.val t.val s) (getThread r.val t.val u) ∧
          lanesAre ty d ((getThread r.val t.val s).active p pn) (fun j =>
            (fma (vfmt ty) (lane ty.width j ((getThread r.val t.val s).getV d)) (lane ty.width j ((getThread r.val t.val s).getV a))
              (lane ty.width j ((getThread r.val t.val s).getV b))).1)
            (getThread r.val t.val s) (getThread r.val t.val u)) ∧
      (d.val % 2 = 0 → issues r t false [] [.vreg d, .vreg (pairHigh d), .vreg a, .vreg b] s →
        ∃ u, exec (.skVfmaw r t d a b p pn) s = .next u ∧ threadOnly r t s u ∧
          (getThread r.val t.val u).pc = (getThread r.val t.val s).pc + 4 ∧
          (let k := getThread r.val t.val s
           let x := fun j acc => (fmaw acc (lane 16 j (k.getV a)) (lane 16 j (k.getV b))).1
           lanesAre .fp32 d (k.active p pn) (fun j => x j (lane 32 j (k.getV d))) k (getThread r.val t.val u) ∧
           lanesAre .fp32 (pairHigh d) (fun j => k.active p pn (32 + j)) (fun j => x (32 + j) (lane 32 j (k.getV (pairHigh d)))) k
             (getThread r.val t.val u))))

/-- VBCAST, VINS, VPERM, VSEL and VLANE fill the lanes of v_D as Table 8.14 says; VEXT and the lanes that the predicate leaves out change
nothing else (R278). VCVT and VSCL turn the lanes that PART selects of the narrower operand; every other lane of v_D keeps its value; a
scale that is not positive and finite gives 0 in a code format and sets NV (R282 to R284). Three readings are the model's: VEXT of a lane that
is left out leaves s_D (log entry 24), bit i of the predicate governs lane i of the lanes that a conversion turns (log entry 25), and PART of
VSCL goes as far as the lanes of the narrower operand do (log entry 20), all three DEDUCED; so is NV of a conversion that saturates (log
entry 49), and the code of a NaN is free (log entry 18, DESIGN CHOICE). -/
def Obligations.VectorMovesAndConversions : Prop :=
   (∀ (r : Rack) (t : Tid) (ty : VType) (d a b p pn) (s : State), (getThread r.val t.val s).wf = true →
      let k := getThread r.val t.val s
      let act := k.active p pn
      (issues r t false [] [.vreg d, .sreg a] s →
        ∃ u, exec (.skVbcast r t ty d a p pn) s = .next u ∧ threadOnly r t s u ∧ onlyVector d k (getThread r.val t.val u) ∧
        lanesAre ty d act (fun _ => (sreg k a).toNat) k (getThread r.val t.val u)) ∧
      (issues r t false [] [.vreg d, .sreg a, .sreg b] s →
        ∃ u, exec (.skVins r t ty d a b p pn) s = .next u ∧ threadOnly r t s u ∧ onlyVector d k (getThread r.val t.val u) ∧
        lanesAre ty d (fun j => act j && decide (j = (sreg k b).toNat % ty.lanes)) (fun _ => (sreg k a).toNat) k
          (getThread r.val t.val u)) ∧
      (issues r t false [] [.vreg d, .vreg a, .vreg b] s →
        ∃ u, exec (.skVperm r t ty d a b p pn) s = .next u ∧ threadOnly r t s u ∧ onlyVector d k (getThread r.val t.val u) ∧
        lanesAre ty d act (fun j => lane ty.width (lane ty.width j (k.getV b) % ty.lanes) (k.getV a)) k (getThread r.val t.val u)) ∧
      (issues r t false [.vreg d] [.vreg a, .vreg b] s →
        ∃ u, exec (.skVsel r t ty d a b p pn) s = .next u ∧ threadOnly r t s u ∧ onlyVector d k (getThread r.val t.val u) ∧
        lanesAre ty d (fun _ => true) (fun j => lane ty.width j (if act j then k.getV a else k.getV b)) k
          (getThread r.val t.val u)) ∧
      (issues r t false [] [.vreg d] s →
        ∃ u, exec (.skVlane r t ty d p pn) s = .next u ∧ threadOnly r t s u ∧ onlyVector d k (getThread r.val t.val u) ∧
        (ty.isFloat = false → lanesAre ty d act id k (getThread r.val t.val u))) ∧
      (issues r t false [.sreg d] [.vreg a, .sreg b] s → turns (.skVext r t ty d a b p pn) r t (fun k =>
        let j := (sreg k b).toNat % ty.lanes
        let x := lane ty.width j (k.getV a)
        if act j then (k.setS d.val (if ty.isFloat then BitVec.ofNat 64 x else BitVec.ofInt 64 (signedOf ty.width x))).step
        else k.step) s)) ∧
   (∀ (r : Rack) (t : Tid) (d a b : Reg) (src dst fmt : NFmt) (part : Fin 4) (p : Fin 8) (pn : Bool) (s : State),
      (getThread r.val t.val s).wf = true →
      let k := getThread r.val t.val s
      let act := k.active p pn
      (cvtOk src dst part = true → issues r t false [] [.vreg d, .vreg a] s →
        let first := if dst.width < src.width then part.val * cvtLanes src dst else 0
        let from' := if src.width < dst.width then part.val * cvtLanes src dst else 0
        ∃ u, exec (.skVcvt r t d a src dst part p pn) s = .next u ∧ threadOnly r t s u ∧ onlyVector d k (getThread r.val t.val u) ∧
          ∀ j, j < 1024 / dst.width → lane dst.width j ((getThread r.val t.val u).getV d) =
            if first ≤ j ∧ j < first + cvtLanes src dst ∧ act (j - first) = true then
              (cvtLane src dst (lane src.width (from' + (j - first)) (k.getV a))).1 % 2 ^ dst.width
            else lane dst.width j (k.getV d)) ∧
      (issues r t false [] [.vreg d, .vreg a, .sreg b] s → sclOk fmt part = true → posFin32 (BitVec.ofNat 32 (k.f32 b)) = true →
        ∃ u, exec (.skVsclExpand r t d a b fmt part p pn) s = .next u ∧ threadOnly r t s u ∧ onlyVector d k (getThread r.val t.val u) ∧
          lanesAre .bf16 d act
            (fun j => (expandLane fmt (BitVec.ofNat 32 (k.f32 b)) (lane fmt.width (64 * part.val + j) (k.getV a))).1) k
            (getThread r.val t.val u)) ∧
      (issues r t false [] [.vreg d, .vreg a, .sreg b] s → sclOk fmt part = true → posFin32 (BitVec.ofNat 32 (k.f32 b)) = false → fmt = .a8 ∨ fmt = .a4 → act 0 = true →
        ∃ u, exec (.skVsclCode r t d a b fmt part p pn) s = .next u ∧ threadOnly r t s u ∧ onlyVector d k (getThread r.val t.val u) ∧
          (getThread r.val t.val u).fflags = k.fflags ||| 16 ∧ lane fmt.width (64 * part.val) ((getThread r.val t.val u).getV d) = 0) ∧
      (issues r t false [] [.vreg d, .vreg a, .sreg b] s → sclOk fmt part = true → posFin32 (BitVec.ofNat 32 (k.f32 b)) = true →
        ∃ u, exec (.skVsclCode r t d a b fmt part p pn) s = .next u ∧ threadOnly r t s u ∧ onlyVector d k (getThread r.val t.val u) ∧
          ∀ j, j < 64 → act j = true → lane fmt.width (64 * part.val + j) ((getThread r.val t.val u).getV d) =
            (codeLane fmt (BitVec.ofNat 32 (k.f32 b)) (lane 16 j (k.getV a))).1 % 2 ^ fmt.width))

/-- A compare writes bit i of p_D for lane i, 0 for every lane left out and at or above the lane count; PAND, POR and PXOR write bit by bit;
p0 discards; every other predicate register keeps its value, and the flags change only by those that the active lanes of a floating-point
compare add (R278, R279, R281, Table 8.14). A reduction of integer lanes writes their exact sum, the largest lane or the largest magnitude
among the active lanes to s_D, one of floating-point lanes the FP32 sum in ascending order of the lanes or the largest with its flags, and
PCNT the number of active set bits (R281, Table 8.14; that the first lane starts the sum and what no lane gives: log entries 23, 24). -/
def Obligations.PredicatesAndReductions : Prop :=
   (∀ (r : Rack) (t : Tid) (d p : Fin 8) (pn : Bool) (s : State), (getThread r.val t.val s).wf = true →
      let k := getThread r.val t.val s
      let gives := fun (i : Instr) (fl : Nat) (f : Nat → Bool) => ∃ u, exec i s = .next u ∧ threadOnly r t s u ∧
        onlyPredicate d fl k (getThread r.val t.val u) ∧
        ∀ j, j < 128 → d.val ≠ 0 → ((getThread r.val t.val u).getP d).getLsbD j = (k.active p pn j && f j)
      (∀ (ty : VType) (a b : Reg), issues r t false [] [.vreg a, .vreg b] s →
        (ty.isFloat = false →
          let x := fun j => laneS ty.width j (k.getV a)
          let y := fun j => laneS ty.width j (k.getV b)
          gives (.skVcmpeq r t ty d a b p pn) 0 (fun j => decide (j < ty.lanes) && decide (x j = y j)) ∧
          gives (.skVcmplt r t ty d a b p pn) 0 (fun j => decide (j < ty.lanes) && decide (x j < y j)) ∧
          gives (.skVcmple r t ty d a b p pn) 0 (fun j => decide (j < ty.lanes) && decide (x j ≤ y j))) ∧
        (ty.isFloat = true →
          let x := fun j => fdecode (vfmt ty) (lane ty.width j (k.getV a))
          let y := fun j => fdecode (vfmt ty) (lane ty.width j (k.getV b))
          let fl := fun (f : FVal → FVal → Nat) => laneFlags ty.lanes (k.active p pn) fun j => f (x j) (y j)
          gives (.skVcmpeq r t ty d a b p pn) (fl snanFlags) (fun j => decide (j < ty.lanes) && feqV (x j) (y j)) ∧
          gives (.skVcmplt r t ty d a b p pn) (fl nanFlag) (fun j => decide (j < ty.lanes) && fltV (x j) (y j)) ∧
          gives (.skVcmple r t ty d a b p pn) (fl nanFlag) (fun j => decide (j < ty.lanes) && fleV (x j) (y j)))) ∧
      (issues r t false [] [] s → ∀ a b : Fin 8,
        gives (.skPand r t d a b p pn) 0 (fun j => (k.getP a).getLsbD j && (k.getP b).getLsbD j) ∧
        gives (.skPor r t d a b p pn) 0 (fun j => (k.getP a).getLsbD j || (k.getP b).getLsbD j) ∧
        gives (.skPxor r t d a b p pn) 0 (fun j => (k.getP a).getLsbD j ^^ (k.getP b).getLsbD j))) ∧
   (∀ (r : Rack) (t : Tid) (ty : VType) (d a : Reg) (p : Fin 8) (pn : Bool) (s : State), ty.isFloat = true →
      issues r t false [.sreg d] [.vreg a] s →
      let xs := ((List.range ty.lanes).filter fun j => (getThread r.val t.val s).active p pn j).map fun j =>
        fdecode (vfmt ty) (lane ty.width j ((getThread r.val t.val s).getV a))
      let gives := fun (i : Instr) (x : Nat × Nat) => turns i r t (fun k =>
        { (k.setS d.val (BitVec.ofNat 64 x.1)).step with fflags := k.fflags ||| BitVec.ofNat 5 x.2 }) s
      gives (.skVrsum r t ty d a p pn) (fsum xs) ∧ gives (.skVrmax r t ty d a p pn) (fmaxList (.inf true) xs) ∧
        gives (.skVrmaxa r t ty d a p pn) (fmaxList (.fin false 0 1) (xs.map FVal.abs))) ∧
   (∀ (r : Rack) (t : Tid) (ty : VType) (d a : Reg) (q p : Fin 8) (pn : Bool) (s : State), ty.isFloat = false →
      issues r t false [.sreg d] [.vreg a] s →
      let k := getThread r.val t.val s
      let xs := ((List.range ty.lanes).filter fun j => k.active p pn j).map fun j => laneS ty.width j (k.getV a)
      turns (.skVrsum r t ty d a p pn) r t (fun k => (k.setS d.val (BitVec.ofInt 64 xs.sum)).step) s ∧
      (xs ≠ [] → ∃ m ∈ xs, (∀ x ∈ xs, x ≤ m) ∧
        turns (.skVrmax r t ty d a p pn) r t (fun k => (k.setS d.val (BitVec.ofInt 64 m)).step) s) ∧
      (∃ m : Nat, (∀ x ∈ xs, x.natAbs ≤ m) ∧ (m = 0 ∨ ∃ x ∈ xs, x.natAbs = m) ∧
        turns (.skVrmaxa r t ty d a p pn) r t (fun k => (k.setS d.val (BitVec.ofNat 64 m)).step) s) ∧
      turns (.skPcnt r t d q p pn) r t (fun k => (k.setS d.val (BitVec.ofNat 64
        ((List.range 128).countP fun j => k.active p pn j && (k.getP q).getLsbD j))).step) s)

/-- ACC.OPEN takes the lowest-numbered FREE slot and returns its number; when no slot is FREE it returns −1 and every slot is as it was; in
both cases the thread goes on to its next instruction. -/
def Obligations.OpenTakesTheLowestFreeSlot : Prop :=
  ∀ (r : Rack) (t : Tid) (d : Reg) (s : State), issues r t true [.sreg d] [] s →
    (∀ n, n < 16 → (getSlot r.val n s).st = 0 → (∀ m, m < n → (getSlot r.val m s).st ≠ 0) →
      ∃ u, exec (.skAccOpen r t d) s = .next u ∧ onlyIn [.threads, .regs, .racks] s u ∧ otherThreads r.val t.val s u ∧
        otherRacks r.val s u ∧
        getThread r.val t.val u = lateResult d (BitVec.ofNat 64 n) (.skAccOpen r t d) (getThread r.val t.val s) ∧
        getSlot r.val n u = { getSlot r.val n s with st := 1, pkt := (getThread r.val t.val s).pkt } ∧
        ∀ m, m ≠ n → getSlot r.val m u = getSlot r.val m s) ∧
    ((∀ n, n < 16 → (getSlot r.val n s).st ≠ 0) →
      ∃ u, exec (.skAccOpen r t d) s = .next u ∧ onlyIn [.threads, .regs, .racks] s u ∧ otherThreads r.val t.val s u ∧
        otherRacks r.val s u ∧
        getThread r.val t.val u = lateResult d (-1) (.skAccOpen r t d) (getThread r.val t.val s) ∧
        ∀ m, getSlot r.val m u = getSlot r.val m s)

/-- TSET writes 1, 2, 4 or 8 low bytes of s_A at an offset of t_D that is a multiple of their number and keeps its other bytes; TGET reads the
same field of t_A into s_D, zero-extended (R287). Engine instructions that read: the state and pending count of a slot, a sync object's
count, the position and the frame number, and what the packet of the thread sampled at its start; each result reaches s_D as load data
does (R45, R288, R294 to R296, R450, R454). -/
def Obligations.TileFieldsAndEngineReads : Prop :=
   (∀ (r : Rack) (t : Tid) (ofs : Fin 64) (wd : Fin 4) (s : State), ofs.val % 2 ^ wd.val = 0 →
      (getThread r.val t.val s).wf = true →
      (∀ (d : TReg) (a : Reg), issues r t false [] [.treg d, .sreg a] s →
        ∃ u, exec (.skTset r t d a ofs wd) s = .next u ∧ threadOnly r t s u ∧
          getThread r.val t.val u = { (getThread r.val t.val s).step with t := (getThread r.val t.val u).t } ∧
          (∀ x : TReg, x ≠ d → (getThread r.val t.val u).getT x = (getThread r.val t.val s).getT x) ∧
          ∀ j, j < 64 → ((getThread r.val t.val u).getT d).toNat / 256 ^ j % 256 =
            if ofs.val ≤ j ∧ j < ofs.val + 2 ^ wd.val then
              (sreg (getThread r.val t.val s) a).toNat / 256 ^ (j - ofs.val) % 256
            else ((getThread r.val t.val s).getT d).toNat / 256 ^ j % 256) ∧
      ∀ (d : Reg) (a : TReg), issues r t false [.sreg d] [.treg a] s →
        turns (.skTget r t d a ofs wd) r t (fun k =>
          (k.setS d.val (BitVec.ofNat 64 ((k.getT a).toNat / 256 ^ ofs.val % 256 ^ 2 ^ wd.val))).step) s) ∧
   (∀ (r : Rack) (t : Tid) (d : Reg) (s : State),
      (∀ a, issues r t true [.sreg d] [.sreg a] s →
        (∀ n, n < 16 → sreg (getThread r.val t.val s) a = BitVec.ofNat 64 n →
          turns (.skAccStat r t d a) r t (lateResult d
            (BitVec.ofNat 64 ((getSlot r.val n s).st + 256 * ((getSlot r.val n s).pend % 65536))) (.skAccStat r t d a)) s) ∧
        ((sreg (getThread r.val t.val s) a).toNat < 2 ^ 20 →
          turns (.skSyRd r t d a) r t (lateResult d
            ((syncGet ((sreg (getThread r.val t.val s) a).toNat % 65536) s).setWidth 64) (.skSyRd r t d a)) s)) ∧
      (issues r t true [.sreg d] [] s →
        turns (.skPosRd r t d) r t (lateResult d (BitVec.ofInt 64 (posUm s)) (.skPosRd r t d)) s ∧
        turns (.skPosFrm r t d) r t (lateResult d (s.pos.frame.setWidth 64) (.skPosFrm r t d)) s ∧
        ∀ p k, (getThread r.val t.val s).pkt = some p → findPkt p s = some k →
          turns (.skPosTagp r t d) r t (lateResult d (BitVec.ofInt 64 k.pos) (.skPosTagp r t d)) s ∧
          turns (.skPosTagf r t d) r t (lateResult d (BitVec.ofNat 64 k.frame) (.skPosTagf r t d)) s))

/-- QT.REQ hands a descriptor of the own-rack window to the quantiser and returns 0, or returns 1 when the quantiser holds 16 requests (R285).
ACC.WAIT completes at once on a slot with nothing pending and otherwise waits in WAIT_CASK; its completion moves the thread on when the
pending count is 0 (R288, R290). -/
def Obligations.QuantiseRequestsAndAccWait : Prop :=
   (∀ (r : Rack) (t : Tid) (d a : Reg) (off : Nat) (s : State), issues r t true [.sreg d] [.sreg a] s →
      (sreg (getThread r.val t.val s) a).toNat = 0x2000000000 + off → off % 32 = 0 → off + 64 ≤ 0x80000 →
      ((getRack r.val s).qt.length < 16 →
        ∃ u, exec (.skQtReq r t d a) s = .next u ∧ onlyIn [.threads, .regs, .racks] s u ∧ otherThreads r.val t.val s u ∧
          otherRacks r.val s u ∧ getThread r.val t.val u = lateResult d 0 (.skQtReq r t d a) (getThread r.val t.val s) ∧
          getRack r.val u = { issuedRack r.val t.val s with
            qt := (getRack r.val s).qt ++ [⟨off, [], (getThread r.val t.val s).pkt, 0, 0⟩] }) ∧
      ((getRack r.val s).qt.length = 16 → turns (.skQtReq r t d a) r t (lateResult d 1 (.skQtReq r t d a)) s)) ∧
   (∀ (r : Rack) (t : Tid) (a : Reg) (n : Nat) (s : State), n < 16 →
      (issues r t true [] [.sreg a] s → sreg (getThread r.val t.val s) a = BitVec.ofNat 64 n →
        ((getSlot r.val n s).pend = 0 → turns (.skAccWait r t a) r t Thread.step s) ∧
        ((getSlot r.val n s).pend ≠ 0 → turns (.skAccWait r t a) r t (waits .waitCask (.acc n) (.skAccWait r t a) s.now) s)) ∧
      ((getThread r.val t.val s).st = .waitCask → (getThread r.val t.val s).wait = some (.acc n) → rackStops r.val s = false →
        (getSlot r.val n s).pend = 0 →
        ∃ u, exec (.accWaitComplete r t) s = .next u ∧ onlyIn [.threads] s u ∧ otherThreads r.val t.val s u ∧
          getThread r.val t.val u = { (getThread r.val t.val s).step with st := .ready, wait := none }))

/-- ACC.LDP accepts a partial load of an OPEN slot, whose pending count rises, or returns 1 when 4 are outstanding; ACC.DROP and DC.DRAIN seal
the slot and join the decant queue, or wait in WAIT_DRAIN while it holds 8; a waiting drop or drain is accepted once it has room (R250,
R255, R288, R291, R292, R568). -/
def Obligations.PartialLoadsDrainsAndDrops : Prop :=
  ∀ (r : Rack) (t : Tid) (n : Nat) (s : State), n < 16 → (getSlot r.val n s).st = 1 →
    let k := getThread r.val t.val s
    let sealed' := fun (i : Instr) (isDrop : Bool) (desc : List Byte) (done : Thread) => ∃ u, exec i s = .next u ∧
      onlyIn [.threads, .regs, .racks, .opNames] s u ∧ otherThreads r.val t.val s u ∧ otherRacks r.val s u ∧
      getThread r.val t.val u = done ∧ getSlot r.val n u = { getSlot r.val n s with st := 2 } ∧
      (∀ m, m ≠ n → getSlot r.val m u = getSlot r.val m s) ∧
      (getRack r.val u).drains = (getRack r.val s).drains ++ [⟨s.nextOp, isDrop, n, desc, k.pkt, 0, none⟩]
    (∀ d a b, issues r t true [.sreg d] [.sreg a, .sreg b] s → sreg k a = BitVec.ofNat 64 n → (sreg k b).toNat % 32 = 0 →
      ((getRack r.val s).ldp.length < 4 →
        ∃ u, exec (.skAccLdp r t d a b) s = .next u ∧ onlyIn [.threads, .regs, .racks] s u ∧ otherThreads r.val t.val s u ∧
          getThread r.val t.val u = lateResult d 0 (.skAccLdp r t d a b) k ∧
          getSlot r.val n u = { getSlot r.val n s with pend := (getSlot r.val n s).pend + 1 } ∧
          (getRack r.val u).ldp = (getRack r.val s).ldp ++ [⟨(sreg k b).toNat, n, k.pkt⟩]) ∧
      (4 ≤ (getRack r.val s).ldp.length → turns (.skAccLdp r t d a b) r t (lateResult d 1 (.skAccLdp r t d a b)) s)) ∧
    (∀ a, issues r t true [] [.sreg a] s → sreg k a = BitVec.ofNat 64 n →
      ((getRack r.val s).drains.length < 8 → sealed' (.skAccDrop r t a) true [] k.step) ∧
      (8 ≤ (getRack r.val s).drains.length →
        turns (.skAccDrop r t a) r t (waits .waitDrain (.drop n) (.skAccDrop r t a) s.now) s)) ∧
    (∀ a b off, issues r t true [] [.sreg a, .sreg b] s → (sreg k a).toNat = 0x2000000000 + off → off % 32 = 0 →
      off + 128 ≤ 0x80000 → (if b = 0 then byteAt 51 (spRead r.val off 128 s) % 16 else (sreg k b).toNat) = n →
      badSector r.val off 128 s = none → drainRefused r.val n (spRead r.val off 128 s) s = false →
      ((getRack r.val s).drains.length < 8 → sealed' (.skDcDrain r t a b false) false (spRead r.val off 128 s) k.step) ∧
      (8 ≤ (getRack r.val s).drains.length →
        turns (.skDcDrain r t a b false) r t
          (waits .waitDrain (.drain n (spRead r.val off 128 s) (sreg k a).toNat) (.skDcDrain r t a b false) s.now) s)) ∧
    (k.st = .waitDrain → rackStops r.val s = false → (getRack r.val s).drains.length < 8 →
      (k.wait = some (.drop n) → sealed' (.accDropAccept r t) true [] { k.step with st := .ready, wait := none }) ∧
      ∀ d a, k.wait = some (.drain n d a) → drainRefused r.val n d s = false →
        sealed' (.dcDrainAccept r t) false d { k.step with st := .ready, wait := none })

/-- A CK.MVM, accepted at once or after a wait for room, puts one operation for each cask that it names at the end of that cask's queue and, in
rising order of the casks, of the correction unit's work, and counts each operation on its slot, in W5 on the next slot too; every other cask
and slot is as it was. Without room it waits in WAIT_CASK (R166, R243, R244, R246, R247, R289, R568). -/
def Obligations.CaskOperationsEnterTheirQueue : Prop :=
  ∀ (r : Rack) (t : Tid) (a : TReg) (tile : BitVec 512) (s : State),
    let k := getThread r.val t.val s
    let d := leBytes 64 tile.toNat
    let op := fun i => tileOp d i k.pkt (s.nextOp + i)
    let slots := (tileCasks d).flatMap fun e => (tileSlots d e.2).map (·.1)
    let accepted := fun (i : Instr) (done : Thread) => ∃ u, exec i s = .next u ∧
      onlyIn [.threads, .regs, .racks, .casks, .opNames] s u ∧ otherThreads r.val t.val s u ∧ otherRacks r.val s u ∧
      getThread r.val t.val u = done ∧ u.nextOp = s.nextOp + (tileCasks d).length ∧
      (∀ e ∈ tileCasks d, let x := getCask (16 * r.val + e.1) s
        getCask (16 * r.val + e.1) u = { x with queue := x.queue ++ [op e.2], foundEmpty := x.foundEmpty || x.standsEmpty }) ∧
      (∀ c, (∀ e ∈ tileCasks d, c ≠ 16 * r.val + e.1) → Store.find c u.casks = Store.find c s.casks) ∧
      (getRack r.val u).corr = (getRack r.val s).corr ++ (tileCasks d).map (fun e => ⟨16 * r.val + e.1, op e.2, 0, none, none, []⟩) ∧
      ∀ m, (getSlot r.val m u).pend = (getSlot r.val m s).pend + slots.count m ∧
        (m ∉ slots → getSlot r.val m u = getSlot r.val m s)
    tileRefused r.val d s = false →
    (issues r t true [] [.treg a] s → k.getT a = tile →
      (mayAccept r.val t.val s.now d k.pkt s = true →
        (mvmWaiters r.val s).any (fun u => mayAccept r.val u.1 u.2.1 u.2.2.1 u.2.2.2 s) = false → accepted (.skCkMvm r t a) k.step) ∧
      (mayAccept r.val t.val s.now d k.pkt s = false →
        turns (.skCkMvm r t a) r t (waits .waitCask (.mvm tile) (.skCkMvm r t a) s.now) s)) ∧
    (k.st = .waitCask → k.wait = some (.mvm tile) → rackStops r.val s = false → mayAccept r.val t.val k.since d k.pkt s = true →
      (∀ u ∈ mvmWaiters r.val s, k.since ≤ u.2.1) →
      accepted (.ckMvmAccept r t) { k.step with st := .ready, wait := none })

/-- SY.SIG on a local object adds s_B to its count modulo 2³²; other objects keep theirs; SY.WAIT and SY.WAITR return 0 when the count has
reached the target and otherwise wait in WAIT_SYNC (R294, R295, R359, R360). RG.PUSH writes its packet at the tail of a device-fed ring
with room, advances the tail and returns 0; a full ring returns 1 and nothing changes; a ring that takes no packet of the device returns 1
with EV_RING_DOORBELL. RG.STAT adds bits to the kernel status of its packet (R296, R344, R356). -/
def Obligations.SignalsWaitsAndRingPushes : Prop :=
   (∀ (r : Rack) (t : Tid) (d a b : Reg) (s : State), issues r t true [.sreg d] [.sreg a, .sreg b] s →
      let k := getThread r.val t.val s
      let o := (sreg k a).toNat % 65536
      let target := (sreg k b).setWidth 32
      (sreg k a).toNat < 2 ^ 20 →
      (Store.wf 0 s.sync = true → k.wait = none →
        ∃ u, exec (.skSySig r t a b) s = .next u ∧ onlyIn (.threads :: .racks :: .sync :: .wraps :: eventParts) s u ∧
          syncGet o u = syncGet o s + (sreg k b).setWidth 32 ∧ (∀ m, m ≠ o → syncGet m u = syncGet m s) ∧
          getThread r.val t.val u = k.step ∧
          (u.wraps.has o = true ↔ s.wraps.has o = true ∨
            ((syncGet o s).toNat + target.toInt < 0 ∨ 2 ^ 32 ≤ (syncGet o s).toNat + target.toInt))) ∧
      (target ≤ syncGet o s →
        turns (.skSyWait r t d a b) r t (lateResult d 0 (.skSyWait r t d a b)) s ∧
        turns (.skSyWaitr r t d a b) r t (lateResult d 0 (.skSyWaitr r t d a b)) s) ∧
      (syncGet o s < target →
        turns (.skSyWait r t d a b) r t (waits .waitSync (.sync o target d false) (.skSyWait r t d a b) s.now) s ∧
        turns (.skSyWaitr r t d a b) r t (waits .waitSync (.sync o target d true) (.skSyWaitr r t d a b) s.now) s)) ∧
   (∀ (r : Rack) (t : Tid) (d a b : Reg) (n : RingId) (s : State), issues r t true [.sreg d] [.sreg a, .vreg b] s →
      let k := getThread r.val t.val s
      let g := getRing n.val s
      let addr := g.ctx.base + 64 * (g.tail.toNat % 2 ^ g.ctx.log2)
      sreg k a = BitVec.ofNat 64 n.val →
      (g.takes = true → g.deviceFed = true → (g.tail - g.head).toNat ≠ 2 ^ g.ctx.log2 → s.mem.cline.length < 12 →
        addr % 64 = 0 → sliceOn (addr / 128) s = true → Mem.wf s.mem = true →
        ∃ u, exec (.skRgPush r t d a b) s = .next u ∧
          onlyIn [.threads, .racks, .regs, .rings, .mem, .armed, .sent, .px] s u ∧ otherThreads r.val t.val s u ∧
          otherRings n.val s u ∧ getThread r.val t.val u = lateResult d 0 (.skRgPush r t d a b) k ∧
          getRing n.val u = { g with tail := g.tail + 1, wbDue := true } ∧
          (∀ j, j < 64 → peekByte (addr + j) u = BitVec.ofNat 8 ((k.getV b).toNat / 256 ^ j)) ∧
          ∀ x, ¬ (addr ≤ x ∧ x < addr + 64) → peekByte x u = peekByte x s) ∧
      (g.takes = true → g.deviceFed = true → (g.tail - g.head).toNat = 2 ^ g.ctx.log2 →
        turns (.skRgPush r t d a b) r t (lateResult d 1 (.skRgPush r t d a b)) s) ∧
      (g.takes = false ∨ g.deviceFed = false →
        ∃ u, exec (.skRgPush r t d a b) s = .next u ∧ onlyIn (.threads :: .racks :: eventParts) s u ∧
          getThread r.val t.val u = lateResult d 1 (.skRgPush r t d a b) k ∧ (getRing n.val u).tail = g.tail) ∧
      ∀ p x, k.pkt = some p → findPkt p s = some x →
        ∃ u, exec (.skRgStat r t a) s = .next u ∧ onlyIn [.threads, .racks, .regs, .rings] s u ∧
          getThread r.val t.val u = k.step ∧
          findPkt p u = some { x with kstatus := x.kstatus ||| (sreg k a).setWidth 32 })

/-! ### Registers, casks and the Crop Ledger -/

/-- A write of 32 bits gives the RW fields of a register the written value, leaves its other fields and every other register as they
were, and a read returns what is stored; a value out of range is discarded whole; before firmware is ready a read outside the device
control region completes with an abort (R1, R2, R425, R564, Table 0.4). A read of a counter that clears on reads returns its value and
leaves it 0. A register read of the wrong width or alignment is answered with an abort and raises EV_REG_ACCESS, and such a write is
discarded with that event; in the MSI-X structures an access is no such error (R1, R5, R418, R425), and what it reads there is free (log
entry 126, DESIGN CHOICE). -/
def Obligations.RegisterAccesses : Prop :=
   (∀ n ∈ plainRegs, ∀ (i : Nat) (v : Word) (s : State), i < n.desc.count → hostReaches (regOff n 0 i) s →
      (∀ src, n.desc.allows v = true → busyWrite n 0 i v s = false →
        ∃ u, exec (.registerWrite src (regOff n 0 i) 4 (v.setWidth 64)) s = .next u ∧ onlyIn [.regs] s u ∧
          otherRegs [regOff n 0 i] s u ∧ ∀ f ∈ n.desc.fields, fieldOf f.hi f.lo (rget n 0 i u) =
            if f.acc = .rw then fieldOf f.hi f.lo v else fieldOf f.hi f.lo (rget n 0 i s)) ∧
      (∀ src, n.desc.allows v = false →
        ∃ u, exec (.registerWrite src (regOff n 0 i) 4 (v.setWidth 64)) s = .next u ∧ onlyIn eventParts s u ∧
          rget n 0 i u = rget n 0 i s) ∧
      (∃ u, exec (.registerRead (regOff n 0 i) 4) s = .next u ∧ onlyIn [.sent] s u ∧
        u.sent = s.sent ++ [.regData (rget n 0 i s &&& fieldMask n fun f => decide (f.acc ≠ .wo))])) ∧
   (∀ s : State, s.px.cfgReady = true → s.px.d3 = false →
      (∀ c : CaskId, hostReaches (regOff .CK_SAT_COUNT c.val 0) s →
        ∃ u, exec (.readClear (regOff .CK_SAT_COUNT c.val 0)) s = .next u ∧ onlyIn [.sent, .regs] s u ∧
          otherRegs [regOff .CK_SAT_COUNT c.val 0] s u ∧ rget .CK_SAT_COUNT c.val 0 u = 0 ∧
          u.sent = s.sent ++ [.regData (rget .CK_SAT_COUNT c.val 0 s)]) ∧
      (∀ off size, off < 0x4000000 → inMsix off = false → size ≠ 4 ∨ off % 4 ≠ 0 →
        (∃ u, exec (.registerRead off size) s = .next u ∧ onlyIn eventParts s u ∧ u.sent.getLast? = some .abort) ∧
        ∀ v, ∃ u, exec (.registerWrite .host off size v) s = .next u ∧ onlyIn eventParts s u) ∧
      (∀ off size, inMsix off = true →
        ∃ u, exec (.registerRead off size) s = .next u ∧ onlyIn [.sent, .free] s u ∧ ∀ m ∈ u.sent.drop s.sent.length, m ≠ .abort) ∧
      ∀ off, off < 0x4000000 → 0x100000 ≤ off → off % 4 = 0 → s.pm.fwReady = false →
        ∃ u, exec (.registerRead off 4) s = .next u ∧ onlyIn [.sent] s u ∧ u.sent = s.sent ++ [.abort])

/-- A commit group: a write is staged and the value in force stays; an ACTION waits for its boundary with PENDING 1; the apply puts every
staged word in force at once, counts GEN up modulo 65,536 and clears PENDING; a discard gives the staged words up; a write of a staged
field while an apply is pending is discarded and sets BUSY_ERR (R8 to R12). QUIESCE of a cask is set and cleared; QUIESCE of a rack holds
its READY threads, and its end lets them go (R78, R262). -/
def Obligations.CommitGroupsAndQuiesce : Prop :=
   (∀ c ∈ plainCommits, ∀ s : State, hostReaches c.off s → Store.risesFrom 0 s.applies = true →
      Store.risesFrom 0 s.staged = true →
      (∀ r ∈ groupRegs c, ∀ v, r.name.desc.allows v = true →
        (∀ src, applyPending c s = false →
          ∃ u, exec (.cwStageWrite src r.off v) s = .next u ∧ onlyIn [.staged] s u ∧
            ∀ f ∈ r.name.desc.fields, fieldOf f.hi f.lo (stagedWord r u) = fieldOf f.hi f.lo v) ∧
        (∀ src, applyPending c s = true →
          ∃ u, exec (.cwStageWrite src r.off v) s = .next u ∧ onlyIn [.regs] s u ∧ otherRegs [c.off] s u ∧
            rflag c.name c.unit c.idx 30 u = true)) ∧
      (∀ src, applyPending c s = false →
        (∃ u, exec (.commitApplyOperation src c.off) s = .next u ∧ onlyIn [.applies] s u ∧
          u.applies.find c.off = some ⟨false, decide (src = .host)⟩) ∧
        ∃ u, exec (.commitApplyFrame src c.off) s = .next u ∧ onlyIn [.applies] s u ∧
          u.applies.find c.off = some ⟨true, decide (src = .host)⟩) ∧
      (∀ src, ∃ u, exec (.commitDiscard src c.off) s = .next u ∧ onlyIn [.applies, .staged] s u ∧ applyPending c u = false ∧
        ∀ r ∈ groupRegs c, stagedWord r u = rget r.name r.unit r.idx s) ∧
      ∀ h, s.applies.find c.off = some ⟨false, h⟩ →
        ∃ u, exec (.groupApply c.off) s = .next u ∧ onlyIn (.staged :: .applies :: .pm :: eventParts) s u ∧
          applyPending c u = false ∧ (∀ r ∈ groupRegs c, rget r.name r.unit r.idx u = stagedWord r s) ∧
          rfield c.name c.unit c.idx 15 0 u = (rfield c.name c.unit c.idx 15 0 s + 1) % 65536) ∧
   (∀ s : State,
      (∀ c : CaskId, hostReaches (regOff .CK_CTRL c.val 0) s →
        (∃ u, exec (.ckQuiesce c) s = .next u ∧ onlyIn [.regs] s u ∧ otherRegs [regOff .CK_CTRL c.val 0] s u ∧
          rflag .CK_CTRL c.val 0 0 u = true) ∧
        (goingOff (68 + c.val / 1024) s = false →
          ∃ u, exec (.ckResume c) s = .next u ∧ onlyIn [.regs, .casks] s u ∧ otherRegs [regOff .CK_CTRL c.val 0] s u ∧
            otherCasks c.val s u ∧ rflag .CK_CTRL c.val 0 0 u = false)) ∧
      ∀ r : Rack, hostReaches (regOff .RP_CTRL r.val 0) s →
        (∃ u, exec (.rpQuiesce r) s = .next u ∧ onlyIn [.regs, .threads] s u ∧ rflag .RP_CTRL r.val 0 0 u = true ∧
          ∀ x t, t < 64 → getThread x t u = if x = r.val ∧ (getThread x t s).st = .ready then
            { getThread x t s with st := .held } else getThread x t s) ∧
        (goingOff (rackDomain r.val) s = false → s.hang.incident = none →
          ∃ u, exec (.rpResume r) s = .next u ∧ onlyIn [.regs, .threads] s u ∧ rflag .RP_CTRL r.val 0 0 u = false ∧
            ∀ x t, t < 64 → getThread x t u = if x = r.val ∧ (getThread x t s).st = .held then
              { getThread x t s with st := unheldState (getThread x t s) } else getThread x t s))

/-- The oldest queued operation of a cask starts: it leaves the queue, its codes are read from its data block in the rack's scratchpad, and
its operation is in execution with no token admitted; where none was in progress, the operation counter starts at 0 (R65, R243, R248, R505).
The next token of an operation is admitted: its slices are partitioned, the first request is posted with age 0 and the cask's home window,
the others wait behind it; a replay is posted the same way; the buffer of the previous integrating step is converted, without saturation to
the token's codes, and is then reset (R60, R61, R63, R74, R90, R98). -/
def Obligations.CaskOperationsAdmitAndConvert : Prop :=
   (∀ (c : CaskId) (o : CaskOp) (rest : List CaskOp) (off : Nat) (s : State),
      let k := getCask c.val s
      let h := spRead (c.val / 16) off 32 s
      let n := if o.infmt = 1 then 256 else 512
      k.queue = o :: rest → mayStart c.val s = true → rflag .CK_CONFIG c.val 0 0 s = o.w5 → o.infmt < 2 →
      (k.racked = true → k.shadowOk = true) → (∀ x ∈ k.running, x.op.op ≠ o.op) →
      o.data = 0x1000000000 + 0x80000 * (c.val / 16) + off → byteAt 2 h = o.infmt → o.block < ceilDiv (leAt 8 4 h) 512 →
      (∀ t, t < o.ntok → off + 32 + (o.token0 + t) * leAt 12 4 h + o.block * n + n ≤ 0x80000) → off + 32 ≤ 0x80000 →
      (∀ x, x / 0x4000 = c.val / 16 → s.mem.spBad.has x = false) →
      ∃ u, exec (.caskOpStart c) s = .next u ∧ onlyIn [.casks, .racks] s u ∧ otherCasks c.val s u ∧
        otherRacks (c.val / 16) s u ∧
        getCask c.val u = { (if k.quiet then k.restart s.now else k) with queue := rest, running := k.running ++ [⟨.mvm, o,
          (List.range o.ntok).map fun t => spRead (c.val / 16) (off + 32 + (o.token0 + t) * leAt 12 4 h + o.block * n) n s,
          none, none, none, 0, 0, [], false, 0⟩] }) ∧
   (∀ (c : CaskId) (s : State), s.hang.incident = none →
      let k := getCask c.val s
      (∀ o q rest, (k.running.find? fun x => !x.past && decide (x.admitted < x.op.ntok)) = some o → k.waiting = [] →
        k.posted = none → k.replays = [] →
        let a4 := decide (o.op.infmt = 1)
        let g := o.used.getD (o.op.govr.getD (gainGroup c.val s))
        (slicesOf a4).flatMap (fun x => sliceReqs k k.ceil g o.op.op o.admitted x
          (sliceLevels a4 x (nthD [] o.admitted o.codes))) = q :: rest →
        ∃ u, exec (.admission c) s = .next u ∧ onlyIn (.casks :: .racks :: eventParts) s u ∧ otherCasks c.val s u ∧
          (getCask c.val u).posted = some ⟨q, homeWindow c.val s, 0, s.now, none⟩ ∧ (getCask c.val u).waiting = rest ∧
          ∃ x ∈ (getCask c.val u).running, x.op = o.op ∧ x.admitted = o.admitted + 1 ∧ x.used = some g) ∧
      (∀ q rest, k.posted = none → k.replays = q :: rest →
        ∃ u, exec (.replayPost c) s = .next u ∧ onlyIn [.casks, .regs] s u ∧ otherCasks c.val s u ∧
          otherRegs [regOff .LG_SUBSTEPS 0 (c.val / 1024)] s u ∧
          getCask c.val u = { k with posted := some ⟨q, homeWindow c.val s, 0, s.now, none⟩, replays := rest }) ∧
      ∀ b o, k.buf = some b → k.posted = none → k.replays = [] → k.waiting = [] →
        (k.running.find? fun x => decide (x.op.op = b.req.op)) = some o →
        (∀ q ∈ b.req.parts, b.saturated (decide (o.kind = .refRead)) q = []) →
        ∃ u, exec (.sliceStep c []) s = .next u ∧ onlyIn [.casks] s u ∧ otherCasks c.val s u ∧
          getCask c.val u = { k.clearBuf with convs := k.convs ++ b.req.parts.map b.convPart })

/-- A granted slice integrates once its window has begun: its charge is held for conversion, CK_STEP_COUNT counts it, its credits are taken
from the window's books (R60, R63, R103). That the command may come at any step clock from the window's first on, with the books of its
window, is the model's choice (log entry 131); R63 names step clocks 2w and 2w + 1. A finished token of the oldest operation is added: every
unpinned logical column of its codes into its slot and channel, exactly modulo 2³⁶, every other AccMem element as it was; with a residue
fault, or from a suspect cask under SUSPECT_DROP, nothing is added (R67, R69, R175, R239). -/
def Obligations.SlicesIntegrateAndTokensAdd : Prop :=
   (∀ (c : CaskId) (dev : List (Nat × Int)) (q : SliceReq) (st age t : Nat) (g : Grant) (s : State), s.hang.incident = none →
      let k := getCask c.val s
      let b := getBook (c.val / 1024) (windowAt g.at') s
      k.buf = none → k.posted = some ⟨q, st, age, t, some g⟩ → k.waiting = [] → g.at' ≤ s.now →
      b.late s.now = false ∨ b.at' = g.at' →
      ∃ u, exec (.sliceStep c dev) s = .next u ∧ onlyIn [.casks, .regs, .ledger, .racks] s u ∧ otherCasks c.val s u ∧
        (getCask c.val u).posted = none ∧
        (getCask c.val u).buf = some (integrate k q (q.map.getD (remapWords c.val s, pinWords c.val s)).1
          (q.map.getD (remapWords c.val s, pinWords c.val s)).2 (dev.foldl (fun m e => Store.put e.1 e.2 m) [])) ∧
        rget .CK_STEP_COUNT c.val 0 u = rget .CK_STEP_COUNT c.val 0 s + 1 ∧
        getBook (c.val / 1024) (windowAt g.at') u =
          { b.opened g with granted := (b.opened g).granted + q.cost, out := b.out + q.cost } ∧
        ∀ x y, 32 * x + y ≠ 32 * (c.val / 1024) + windowAt g.at' → getBook x y u = getBook x y s) ∧
   (∀ (c : CaskId) (o : RunOp) (rest : List RunOp) (s : State), s.hang.incident = none → Store.wf 0 s.mem.acc = true →
      let k := getCask c.val s
      let t := o.nextTok
      let cs := k.convs.filter fun x => decide (x.op = o.op.op) && decide (x.tok = t)
      k.running = o :: rest → o.kind = .mvm → t < o.op.ntok → t < o.admitted → k.tokenBusy o.op.op t = false → t < 16 →
      ((k.suspect = false ∨ rflag .CT_CTRL 0 0 2 s = false) →
        ∃ u, exec (.tokenAdd c false) s = .next u ∧ otherCasks c.val s u ∧ otherRacks (c.val / 16) s u ∧
          (∀ j, j < columns o.op.w5 →
            Store.getD 0 (accKey (c.val / 16) (o.op.slot + j / 256) t (j % 256)) u.mem.acc =
              Store.getD 0 (accKey (c.val / 16) (o.op.slot + j / 256) t (j % 256)) s.mem.acc +
                if pinnedColumn o.op.w5 (o.pins.getD []) j then 0 else BitVec.ofInt 36 (columnSum o.op.w5 cs j)) ∧
          (∀ a, (∀ j, j < columns o.op.w5 → a ≠ accKey (c.val / 16) (o.op.slot + j / 256) t (j % 256)) →
            Store.getD 0 a u.mem.acc = Store.getD 0 a s.mem.acc) ∧
          (getCask c.val u).convs = k.convs.filter fun x => !(decide (x.op = o.op.op) && decide (x.tok = t))) ∧
      (k.suspect = true → rflag .CT_CTRL 0 0 2 s = true →
        ∃ u, exec (.tokenAdd c false) s = .next u ∧ otherCasks c.val s u ∧ u.mem = s.mem) ∧
      ∃ u, exec (.tokenAdd c true) s = .next u ∧ otherCasks c.val s u ∧ u.mem.acc = s.mem.acc ∧
        rflag .CK_STATUS c.val 0 22 u = true)

/-- An arbitration grants in no window more credits than the pool limit, and only to requests posted by step clock 47; a granted request has
its window of the next slice step, a deferred one is one slice step older and starts from window 0; the grants, slides and deferrals are
counted (R98, R100). Credits come back: a return in time adds what was in flight to the returned credits; a return that is late, or
credits that do not balance, have every outstanding credit of the window written off and the audit error set; VPP credits go to the cask
that has waited longest while fewer than the limit are held, and come back, a late one with an audit (R103, R106, R108, R109). What becomes
of a return whose credit was written off, and of one from a cask that holds none, is the model's choice (log entry 111), and so is the step
clock from which a window's return counts (log entry 131). -/
def Obligations.ArbitrationKeepsTheLimit : Prop :=
   (∀ (q : Quad) (s : State), Store.risesFrom 0 s.casks = true → mayArbitrate q.val s = true →
      (∀ w, windowTotal (arbitrate q.val s).1 w ≤ rfield .LG_POOL_LIMIT 0 q.val 8 0 s) ∧
      ∃ u, exec (.creditArbitration q) s = .next u ∧ onlyIn [.casks, .ledger, .regs] s u ∧
        (∀ g ∈ (arbitrate q.val s).1, ∃ p, (getCask g.1.cask s).posted = some p ∧ p.start ≤ g.2 ∧ g.2 < 32 ∧
          p.since ≤ s.now / 64 * 64 + 47 ∧
          (getCask g.1.cask u).posted = some { p with grant := some (grantOf q.val g.2 s) }) ∧
        (∀ b ∈ (arbitrate q.val s).2, ∃ p, (getCask b.cask s).posted = some p ∧
          (getCask b.cask u).posted = some { p with age := min (p.age + 1) 1023, start := 0 }) ∧
        rget .LG_GRANTS 0 q.val u = rget .LG_GRANTS 0 q.val s + BitVec.ofNat 32 (arbitrate q.val s).1.length ∧
        rget .LG_DEFERS 0 q.val u = rget .LG_DEFERS 0 q.val s + BitVec.ofNat 32 (arbitrate q.val s).2.length) ∧
   (∀ s : State,
      (∀ (q : Quad) (w : Fin 32), biasOn q.val s = true →
        let b := getBook q.val w.val s
        (b.inflight s.now ≠ 0 → b.late s.now = false →
          ∃ u, exec (.creditReturn q w) s = .next u ∧ onlyIn [.ledger] s u ∧
            getBook q.val w.val u = { b with returned := b.returned + b.out, out := 0 } ∧
            ∀ x y, 32 * x + y ≠ 32 * q.val + w.val → getBook x y u = getBook x y s) ∧
        (b.late s.now = true →
          ∃ u, exec (.creditReturn q w) s = .next u ∧ onlyIn (.ledger :: eventParts) s u ∧
            (getBook q.val w.val u).out = 0 ∧ (getBook q.val w.val u).returned = b.returned + b.out ∧
            (getBook q.val w.val u).lost = b.lost ∧ rflag .LG_POOL_STATUS 0 q.val 31 u = true) ∧
        (b.late s.now = true ∨ b.balanced s.now = false →
          ∃ u, exec (.creditAudit q w) s = .next u ∧ onlyIn (.ledger :: eventParts) s u ∧
            getBook q.val w.val u = { b with
              granted := b.returned + b.out
              returned := b.returned + b.out
              out := 0
              limit := max b.limit (b.returned + b.out)
              lost := b.lost + b.out } ∧
            (∀ x y, 32 * x + y ≠ 32 * q.val + w.val → getBook x y u = getBook x y s) ∧
            rflag .LG_POOL_STATUS 0 q.val 31 u = true)) ∧
      (∀ c rest, s.ledger.vppQueue = c :: rest → s.ledger.vppHeld.length < rfield .LG_VPP_LIMIT 0 0 6 0 s →
        s.ledger.vppHeld.contains c = false → (getCask c s).hold ≠ some .erase →
        ∃ u, exec .vppGrant s = .next u ∧ onlyIn [.ledger, .casks] s u ∧ otherCasks c s u ∧
          u.ledger = { s.ledger with vppQueue := rest, vppHeld := s.ledger.vppHeld ++ [c] } ∧
          ((activeEntry c s).isSome = true → (getCask c s).hold = none →
            (getCask c u).hold = some .racking ∧ (getCask c u).incomplete = true)) ∧
      (∀ (c : CaskId) t, vppSentAt c.val s = some t →
        (s.now ≤ t + 8 →
          ∃ u, exec (.vppCreditReturn c) s = .next u ∧ onlyIn [.ledger] s u ∧ u.ledger.vppQueue = s.ledger.vppQueue ∧
            u.ledger.vppHeld = s.ledger.vppHeld.filter (· ≠ c.val) ∧ vppSentAt c.val u = none) ∧
        (t + 8 < s.now →
          (∃ u, exec (.vppCreditReturn c) s = .next u ∧ onlyIn (.ledger :: eventParts) s u ∧
            u.ledger.vppHeld = s.ledger.vppHeld.filter (· ≠ c.val) ∧ rflag .LG_VPP_STATUS 0 0 31 u = true) ∧
          ∃ u, exec (.vppCreditAudit c) s = .next u ∧ onlyIn (.ledger :: eventParts) s u ∧
            u.ledger.vppHeld = s.ledger.vppHeld.filter (· ≠ c.val) ∧ u.ledger.vppLost = s.ledger.vppLost ++ [c.val] ∧
            rflag .LG_VPP_STATUS 0 0 31 u = true)) ∧
      ∀ c : CaskId, vppSentAt c.val s = none → s.ledger.vppHeld.contains c.val = false →
        ∃ u, exec (.vppCreditAudit c) s = .next u ∧ onlyIn eventParts s u ∧ rflag .LG_VPP_STATUS 0 0 31 u = true)

/-- The row table through its window, and a cask's configuration cells: a host write of the selected entry of a quiesced cask stores its
ceiling and row sum and moves the selection on when it is asked to; a read returns them; a save puts CK_CONFIG and the remap group into
the cells (R80, R81, R113, R114). -/
def Obligations.RowTableAndConfigurationCells : Prop :=
  ∀ s : State,
    (hostReaches (regOff .LG_ROW_DATA 0 0) s →
      let c := selectedCask s
      let i := rfield .LG_ROW_SEL 0 0 8 0 s
      let next := if rflag .LG_ROW_SEL 0 0 31 s then (rfield .LG_ROW_SEL 0 0 20 0 s + 1) % 2 ^ 21
        else rfield .LG_ROW_SEL 0 0 20 0 s
      (∀ v, fieldOf 20 16 v ≤ 16 → fieldOf 12 0 v ≤ 7980 → caskQuiesced c s = true →
        Store.wf ⟨0, 0⟩ (getCask c s).rows = true →
        ∃ u, exec (.lgRowDataAccess (some v)) s = .next u ∧ onlyIn (.casks :: .pm :: eventParts) s u ∧ otherCasks c s u ∧
          rowEnt c i u = ⟨fieldOf 20 16 v, fieldOf 12 0 v⟩ ∧ (∀ j, j ≠ i → rowEnt c j u = rowEnt c j s) ∧
          rfield .LG_ROW_SEL 0 0 20 0 u = next) ∧
      ∃ u, exec (.lgRowDataAccess none) s = .next u ∧ onlyIn [.regs, .sent] s u ∧
        u.sent = s.sent ++ [.regData (BitVec.ofNat 32 ((rowEnt c i s).ceil * 65536 + (rowEnt c i s).sum))] ∧
        rfield .LG_ROW_SEL 0 0 20 0 u = next) ∧
    ∀ c : CaskId, (getCask c.val s).saving = true →
      ∃ u, exec (.configCellSave c) s = .next u ∧ onlyIn [.casks] s u ∧ otherCasks c.val s u ∧
        getCask c.val u = { getCask c.val s with saving := false, cells :=
          ⟨rget .CK_CONFIG c.val 0 s, (List.range 16).map fun k => rget .CK_REMAP c.val k s,
            (List.range 16).map fun k => rget .CK_PIN c.val k s, rfield .CK_REMAP_COMMIT c.val 0 15 0 s⟩ }

/-! ### The cellarer, correction, decant and the quantiser -/

/-- A reference read drives every row at level 8 in one slice step, every segment whole at gain code 4 or 5, its request posted as any is;
once it is converted, its sums of the reference pairs and their fit are recorded and it ends a cask's reset (R79, R94, R144, R145). An
expiry of the reference period is counted unless the cask has been found empty at an operation boundary in that period, which starts the
count anew (R144); a diagnosis read releases the cask when no used pair fails, or lets its topping follow where one is due, else it calls for
a remap with the pairs that failed (R137, R144, R176, R181). What the cells read comes with the command (log entry 5), and a diagnosis read
makes no topping due (log entry 150, DESIGN CHOICE); a quadrant's temperature is the mean of its sensors (log entry 58, DEDUCED). -/
def Obligations.ReferenceAndDiagnosisReads : Prop :=
  ∀ (c : CaskId) (s : State),
    let k := getCask c.val s
    (∀ id, (∀ i, k.ceil i ≤ 16) → ∃ q, refReqs k id = [q] ∧ q.levels = List.replicate 512 8 ∧ q.parts.length = 8 ∧
      ∀ x ∈ q.parts, x.rows.length = 64 ∧ (x.gain = 4 ∨ x.gain = 5)) ∧
    (mayRefRead c.val s = true → ∀ q rest, refReqs k s.nextOp = q :: rest →
      ∃ u, exec (.referenceRead c) s = .next u ∧ onlyIn [.casks, .opNames] s u ∧ otherCasks c.val s u ∧
        getCask c.val u = { k with
          running := [⟨.refRead, probeOp s.nextOp 1 false, [], some ⟨false, false, 5⟩, none, none, 1, 0, [], false, 0⟩]
          posted := some ⟨q, homeWindow c.val s, 0, s.now, none⟩
          waiting := rest }) ∧
    (∀ id a b, refResult k = some (id, a, b) → refKept c.val s = false → s.hang.incident = none →
      ∃ u, exec (.referenceRead c) s = .next u ∧ onlyIn (.casks :: .quant :: eventParts) s u ∧
        rget .CK_REF_A c.val 0 u = BitVec.ofInt 32 a ∧ rget .CK_REF_B c.val 0 u = BitVec.ofInt 32 b ∧
        rget .CK_REF_SEQ c.val 0 u = rget .CK_REF_SEQ c.val 0 s + 1 ∧ (getCask c.val u).refA = a ∧ (getCask c.val u).refB = b ∧
        (getCask c.val u).fitted = true ∧ (getCask c.val u).tFit = quadTemp (c.val / 1024) s ∧
        (getCask c.val u).inReset = false ∧ (getCask c.val u).lastRef = s.now ∧
        ∀ x, x ≠ c.val → getCask x u = { getCask x s with topDue := (getCask x u).topDue }) ∧
    (k.racked = true → rfield .RK_REF_PERIOD 0 0 19 0 s * 200000 ≤ s.now - k.lastRef →
      ∃ u, exec (.refPeriodExpiry c) s = .next u ∧ onlyIn [.casks] s u ∧ otherCasks c.val s u ∧
        getCask c.val u = { k with
          refMissed := if k.foundEmpty || k.standsEmpty then 0 else k.refMissed + 1
          foundEmpty := false
          lastRef := s.now }) ∧
    ∀ reads, k.hold = some .diagnosis → k.quiet = true →
      (diagnosed c.val reads s = [] → k.thenTop = false →
        ∃ u, exec (.diagnosisRead c reads) s = .next u ∧ onlyIn [.casks] s u ∧ otherCasks c.val s u ∧
          getCask c.val u = { k with
            hold := none
            diagDue := false
            thenTop := false
            failed := []
            prog := none
            tasteDue := true }) ∧
      (diagnosed c.val reads s = [] → k.thenTop = true → k.topDue = true → k.shadowOk = true → rflag .RK_CTRL 0 0 8 s = false →
        activeEntry c.val s = none →
        ∃ u, exec (.diagnosisRead c reads) s = .next u ∧ onlyIn [.casks, .ledger] s u ∧ otherCasks c.val s u ∧
          (getCask c.val u).hold = some .topping ∧ (c.val ∈ u.ledger.vppQueue ∨ c.val ∈ u.ledger.vppHeld)) ∧
      (diagnosed c.val reads s ≠ [] → rflag .RK_CTRL 0 0 8 s = false →
        ∃ u, exec (.diagnosisRead c reads) s = .next u ∧ onlyIn [.casks, .ledger] s u ∧ otherCasks c.val s u ∧
          getCask c.val u = { k with hold := some .remap, diagDue := false, failed := diagnosed c.val reads s } ∧
          (c.val ∈ u.ledger.vppQueue ∨ c.val ∈ u.ledger.vppHeld))

/-- A plan entry that passes its checks joins the rackings in progress and the plan goes on to its next entry; an ill-formed entry completes
with status 8 and leaves every cask as it was (R117, R119, R120, R122). A cask with a programming credit is erased and programmed row by
row from its plan entry, a pulse and a verify read at a time, the read asking for one credit: a row inside its windows goes on to the
next, a cell below its window is pulsed again up to the limit, one above it calls for the row's second attempt, one above level 15.5
there ends the racking with the cask erased. After the last row the cask is racked, holds the pattern's levels, digest, mode and row
table, has counted one program cycle (8 eighths), and is read for its fit, which it then takes as its zero; it is incomplete until the
refold it asks for takes effect (R110, R122 to R127, R131, R132, R145, R155). What the cells of a row read comes with the command (log
entry 5); that an entry which ends with status 05 has counted a cycle, and that GEN moves on, are the model's readings (log entry 61), and so
is the batch of refolds that a racking has of its own (log entry 115). -/
def Obligations.RackingPlansProgramTheirCasks : Prop :=
   (∀ (n : RingId) (i : Index) (a cnt k : Nat) (x : Pkt) (e : List Byte) (s s2 : State),
      let p : PktId := ⟨n, i⟩
      let c := leAt 8 2 e
      let s1 := modPkt p (fun y => { y with work := .plan a cnt (k + 1) }) s
      findPkt p s = some x → x.work = .plan a cnt k → k < cnt → rflag .RK_CTRL 0 0 8 s = false →
      entryWaits (leAt 8 2 (peek (a + 32 * k) 32 s)) p s = false → readDram (a + 32 * k) 32 (some p) s1 = (.ok e, s2) →
      (∀ src s3, entryFormed e s2 = true → shadowFits c s2 = true → readDram (leAt 0 8 e) 0x40000 (some p) s2 = (.ok src, s3) →
        (∀ w ∈ sourceWeights (decide (byteAt 10 e = 1)) src, w.natAbs ≤ if byteAt 10 e = 1 then 15 else 255) →
        (getCask c s).cycles8 < 80000 → activeEntry c s = none → domainIsOff (rackDomain (c / 16)) s = false →
        byteAt 11 e % 2 = 0 →
        ∃ u, exec (.rackEntry n i k) s = .next u ∧ onlyIn (.casks :: .ledger :: .cellar :: eventParts) s u ∧
          otherCasks c s u ∧ u.cellar = { s.cellar with active := s.cellar.active ++ [(c, p, a + 32 * k, e ++ src)] } ∧
          (c ∈ u.ledger.vppQueue ∨ c ∈ u.ledger.vppHeld) ∧ (findPkt p u).map Pkt.work = some (.plan a cnt (k + 1))) ∧
      (entryFormed e s2 = false → activeEntry c s = none →
        ∃ u, exec (.rackEntry n i k) s = .next u ∧ onlyIn (.cellar :: eventParts) s u ∧ u.cellar = s.cellar ∧
          (findPkt p u).map Pkt.work = some (if cnt ≤ k + 1 ∧ ∀ y ∈ s.cellar.active, y.2.1 ≠ p then .done
            else .plan a cnt (k + 1)))) ∧
   (∀ (c : CaskId) (y : Nat) (q : PktId) (at' : Nat) (e : List Byte) (s : State),
      let k := getCask c.val s
      let w5 := decide (byteAt 10 e = 1)
      let rows := levelRows w5 (sourceWeights w5 (e.drop 32))
      let parts := .casks :: .racks :: .quant :: .ledger :: .cellar :: .pm :: .staged :: .applies :: eventParts
      activeEntry c.val s = some (y, q, at', e) → k.hold = some .racking → mayProgram c.val s = true →
      (k.prog = none → ∀ reads, ∃ u, exec (.caskProgram c reads) s = .next u ∧ onlyIn parts s u ∧ otherCasks c.val s u ∧
        (getCask c.val u).hold = some .racking ∧ (getCask c.val u).racked = false ∧ (getCask c.val u).incomplete = true ∧
        (getCask c.val u).levels = [] ∧ (getCask c.val u).posted = some ⟨verifyReq 0, homeWindow c.val s, 0, s.now, none⟩ ∧
        (∃ p, (getCask c.val u).prog = some p ∧ p.kind = .rack ∧ p.row = 0 ∧ p.cycles = 1 ∧ p.second = false ∧
          p.below.map (·.1) = (List.range 1064).filter fun x => decide (0 < cellTarget [] (nthD [] 0 rows) x)) ∧
        u.cellar.active = s.cellar.active) ∧
      ∀ p, k.prog = some p → p.kind = .rack → p.fit = false → p.reading = true → p.above = [] →
        let level := cellTarget [] (nthD [] p.row rows)
        let max := rfield .RK_LIMITS 0 0 5 0 s
        (p.row < 511 →
          (∃ u, exec (.caskProgram c []) s = .next u ∧ onlyIn [.casks] s u ∧ otherCasks c.val s u ∧
            (getCask c.val u).posted = some ⟨verifyReq (p.row + 1), homeWindow c.val s, 0, s.now, none⟩ ∧
            ∃ p', (getCask c.val u).prog = some p' ∧ p'.row = p.row + 1 ∧ p'.cycles = 1 ∧ p'.second = false ∧ p'.fails = p.fails ∧
              p'.pulses = p.pulses ++ [p.cycles]) ∧
          (∀ x v, (p.below.filter fun e => decide (e.1 = x)).length = 1 → x < 1064 → 0 < level x → v < 1000 * level x - 150 →
            v ≤ 15500 → p.cycles < max →
            ∃ u, exec (.caskProgram c [(x, v)]) s = .next u ∧ onlyIn [.casks] s u ∧ otherCasks c.val s u ∧
              getCask c.val u = { k with
                posted := some ⟨verifyReq p.row, homeWindow c.val s, 0, s.now, none⟩
                prog := some { p with cycles := p.cycles + 1, below := [(x, v)] } }) ∧
          (∀ x v, x < 1064 → p.second = false → (if level x = 0 then 10 < v else (1000 * level x - 50 : Int) < v) →
            ∃ u, exec (.caskProgram c [(x, v)]) s = .next u ∧ onlyIn [.casks] s u ∧ otherCasks c.val s u ∧
              (getCask c.val u).posted = some ⟨verifyReq p.row, homeWindow c.val s, 0, s.now, none⟩ ∧
              ∃ p', (getCask c.val u).prog = some p' ∧ p'.row = p.row ∧ p'.second = true ∧ p'.cycles = 1 ∧ p'.above = [] ∧
                p'.fails = p.fails ∧ p'.pulses = p.pulses) ∧
          ∀ x v, x < 1064 → p.second = true → 15500 < v →
            ∃ u, exec (.caskProgram c [(x, v)]) s = .next u ∧ onlyIn parts s u ∧ (getCask c.val u).racked = false ∧
              (getCask c.val u).levels = [] ∧ (getCask c.val u).hold = none ∧ (getCask c.val u).cycles8 = k.cycles8 + 8 ∧
              u.cellar.active = s.cellar.active.filter fun z => decide (z.1 ≠ c.val ∨ z.2.1 ≠ q)) ∧
        (p.row = 511 → p.fails = [] →
          ∃ u, exec (.caskProgram c []) s = .next u ∧ onlyIn (.opNames :: parts) s u ∧ otherCasks c.val s u ∧
            (getCask c.val u).racked = true ∧ (getCask c.val u).incomplete = k.incomplete ∧ (getCask c.val u).shadowOk = true ∧
            (getCask c.val u).digest = caskDigest w5 rows ∧ (getCask c.val u).levels = programmed (List.replicate 16 0) rows ∧
            (getCask c.val u).cycles8 = k.cycles8 + 8 ∧ (getCask c.val u).hold = some .racking ∧
            rflag .CK_CONFIG c.val 0 0 u = w5 ∧ (∀ i, i < 16 → rget .CK_REMAP c.val i u = 0 ∧ rget .CK_PIN c.val i u = 0) ∧
            (∀ i, i < 512 → rowEnt c.val i u =
              rowEntry (List.replicate 16 0) (List.replicate 16 0) [] i (nthD [] i rows)) ∧
            vppSentAt c.val u = some s.now ∧ ((getCask c.val u).probe .refRead).isSome = true ∧ progFits c.val u = true ∧
            u.cellar.active = s.cellar.active)) ∧
   (∀ (c : CaskId) (id : Nat) (a b : Int) (s : State),
      let k := getCask c.val s
      (activeEntry c.val s).isSome = true → k.hold = some .racking → progFits c.val s = true → refResult k = some (id, a, b) →
      s.hang.incident = none → ∀ reads,
      ∃ u, exec (.caskProgram c reads) s = .next u ∧ onlyIn (.casks :: .quant :: eventParts) s u ∧
        (getCask c.val u).refA = a ∧ (getCask c.val u).refB = b ∧ (getCask c.val u).refA0 = a ∧ (getCask c.val u).refB0 = b ∧
        (getCask c.val u).fitted = true ∧ (getCask c.val u).prog = none ∧ (getCask c.val u).hold = some .racking ∧
        (getCask c.val u).incomplete = k.incomplete ∧ u.quant.rackWait = s.quant.rackWait ++ [c.val] ∧
        ∀ r ∈ racksOf c.val s, r ∈ u.quant.rackFold)

/-- A remap prepares the spares that its plan needs, one row's pulse and verify read at a time, then puts in force the entries and pins that
serve or pin the failed pairs, checksum pairs first and each kind lowest first. A topping reads each row first and pulses only rows with
a cell below its window; it adds an eighth of a cycle, takes its fit as the new zero, and waits for its refold, or for a remap of the
pairs that failed (R110, R138 to R141, R151 to R155). What the cells of a row read comes with the command (log entry 5); the order among
failed pairs and spares (log entry 30), the tasting owed after a remap (log entry 62) and the pulse counts that a topping leaves in the
records (log entry 117) are the model's readings. -/
def Obligations.RemapsAndToppings : Prop :=
  ∀ (c : CaskId) (s : State), let k := getCask c.val s
    let base : Plan := ⟨remapWords c.val s, pinWords c.val s, k.retired, k.chkLost⟩
    let max := rfield .RK_LIMITS 0 0 5 0 s
    let asks := fun (u : State) (row : Nat) =>
      (getCask c.val u).posted = some ⟨verifyReq row, homeWindow c.val s, 0, s.now, none⟩
    (mayProgram c.val s = true → ∀ rows s1, readShadow (cellarPkt c.val s) c.val s = (some rows, s1) → ∀ reads,
      (k.hold = some .remap ∨ k.hold = some .topRemap →
        (k.prog = none → ∀ x, (Prog.start .spare).nextSpare base (Plan.repairAll [] k.failed base) = some x →
          ∃ u, exec (.remapPin c reads) s = .next u ∧ onlyIn (.casks :: eventParts) s u ∧ otherCasks c.val s u ∧ asks u 0 ∧
            ∃ p, (getCask c.val u).prog = some p ∧ p.spare = some x ∧ p.row = 0 ∧ p.cycles = 1) ∧
        ∀ p recs s2, p = ((k.prog.getD { Prog.start .spare with row := 512 }).judge max base.remap rows reads) → 512 ≤ p.row →
          512 ≤ (p.prepare base k.failed).row → readDram (shadowAt c.val s1 + 0x40000) 4096 (cellarPkt c.val s1) s1 = (.ok recs, s2) →
          k.thenTop = false ∨ k.hold = some .topRemap →
          let plan := Plan.repairAll (p.prepare base k.failed).badSpares k.failed base
          ∃ u, exec (.remapPin c reads) s = .next u ∧
            onlyIn (.casks :: .racks :: .ledger :: .staged :: .applies :: eventParts) s u ∧ otherCasks c.val s u ∧
            (∀ i, i < 16 → rget .CK_REMAP c.val i u = nthD 0 i plan.remap ∧ rget .CK_PIN c.val i u = nthD 0 i plan.pin) ∧
            (getCask c.val u).retired = plan.retired ∧ (getCask c.val u).levels = programmed plan.remap rows ∧
            (getCask c.val u).failed = [] ∧ (getCask c.val u).prog = none ∧ (getCask c.val u).tasteDue = true ∧
            vppSentAt c.val u = some s.now ∧
            (getCask c.val u).hold = if k.hold = some .topRemap then some .topWait else none) ∧
      (k.hold = some .topping →
        (k.prog = none →
          ∃ u, exec (.topping c reads) s = .next u ∧ onlyIn (.casks :: eventParts) s u ∧ otherCasks c.val s u ∧ asks u 0 ∧
            ∃ p, (getCask c.val u).prog = some p ∧ p.kind = .top ∧ p.row = 0 ∧ p.cycles = 0) ∧
        ∀ p, k.prog = some p → p.kind = .top → p.fit = false → p.reading = true → p.above = [] →
          let level := cellTarget base.remap (nthD [] p.row rows)
          (p.row < 511 →
            (reads = [] → ∃ u, exec (.topping c reads) s = .next u ∧ onlyIn (.casks :: eventParts) s u ∧ otherCasks c.val s u ∧
              asks u (p.row + 1) ∧
              ∃ p', (getCask c.val u).prog = some p' ∧ p'.row = p.row + 1 ∧ p'.cycles = 0 ∧ p'.fails = p.fails ∧
                p'.pulses = p.pulses ++ [p.cycles]) ∧
            ∀ x v, reads = [(x, v)] → (p.below.filter fun e => decide (e.1 = x)).length = 1 → x < 1064 → 0 < level x →
              v < 1000 * level x - 150 → p.cycles < max →
              ∃ u, exec (.topping c reads) s = .next u ∧ onlyIn (.casks :: eventParts) s u ∧ otherCasks c.val s u ∧ asks u p.row ∧
                (getCask c.val u).prog = some { p with cycles := p.cycles + 1, below := [(x, v)] }) ∧
          (p.row = 511 → reads = [] →
            let bad := (List.range 532).filter fun q =>
              pairUsed base.remap base.pin q && p.fails.any fun f => decide (f.pair = q)
            ∃ u, exec (.topping c reads) s = .next u ∧ onlyIn (.opNames :: .ledger :: .racks :: .casks :: eventParts) s u ∧
              (getCask c.val u).cycles8 = k.cycles8 + 1 ∧ (getCask c.val u).failed = bad ∧ (getCask c.val u).hold = some .topping ∧
              (getCask c.val u).levels = k.levels ∧ ((getCask c.val u).probe .refRead).isSome = true ∧ progFits c.val u = true ∧
              vppSentAt c.val u = if bad = [] then some s.now else none))) ∧
    ∀ id a b reads, k.hold = some .topping → progFits c.val s = true → refResult k = some (id, a, b) → s.hang.incident = none →
      ∃ u, exec (.topping c reads) s = .next u ∧ onlyIn (.casks :: .quant :: eventParts) s u ∧
        (getCask c.val u).refA = a ∧ (getCask c.val u).refB = b ∧ (getCask c.val u).refA0 = a ∧ (getCask c.val u).refB0 = b ∧
        (getCask c.val u).levels = k.levels ∧ (getCask c.val u).prog = none ∧
        (getCask c.val u).hold = (if k.failed = [] then some .topWait else some .topRemap) ∧
        ∀ r ∈ racksOf c.val s, r ∈ u.quant.refold

/-- A shadow base that is written drops every shadow and owes every racked cask a rebuild, which follows at once unless RK_CTRL.QUIESCE holds
it back (R128, Tables 4.10, 4.12); a new tasting base is stored; a temperature sample has the racks refolded whose casks' quadrant moved by
more than 2 °C since the rack's last recomputation; RS_REFOLD asks for one rack or all; a batch of refolds opens with the racks that a
racking waits for, else with every rack asked for; a refold takes its rack out of the batch, stages the match gains of its racked casks and
notes the temperatures it was made with, and the last one of a batch asks for the apply; the bank copy puts the bank in force into the staged
bank (R147, R162, R185, R222 to R226). The batches and their order are the model's choice (log entry 115, DESIGN CHOICE), and a
quadrant's temperature is the mean of its two sensors (log entry 58, DEDUCED). -/
def Obligations.ShadowBaseTemperatureAndRefold : Prop :=
  ∀ s : State,
    (∀ (hi : Bool) (v : Word) reads, let n := if hi then RegName.RK_SHADOW_HI else .RK_SHADOW_LO
      hostReaches (regOff n 0 0) s → writeOk n 0 0 v s = true → Store.risesFrom 0 s.casks = true →
      (rflag .RK_CTRL 0 0 8 s = true →
        ∃ u, exec (.shadowBaseWrite hi v reads) s = .next u ∧ onlyIn [.regs, .casks, .cellar] s u ∧ otherRegs [regOff n 0 0] s u ∧
          (∀ f ∈ n.desc.fields, f.acc = .rw → fieldOf f.hi f.lo (rget n 0 0 u) = fieldOf f.hi f.lo v) ∧
          ∀ c, getCask c u = { getCask c s with shadowOk := false } ∧ ((∃ e ∈ u.cellar.rebuild, e.1 = c) ↔ (getCask c s).racked = true)) ∧
      (rflag .RK_CTRL 0 0 8 s = false →
        ∃ u, exec (.shadowBaseWrite hi v reads) s = .next u ∧ u.cellar.rebuild = [] ∧
          (∀ f ∈ n.desc.fields, f.acc = .rw → fieldOf f.hi f.lo (rget n 0 0 u) = fieldOf f.hi f.lo v) ∧
          ∀ c, (getCask c s).racked = false → (getCask c u).shadowOk = false)) ∧
    (∀ (hi : Bool) (v : Word), let n := if hi then RegName.CT_TASTE_BASE_HI else .CT_TASTE_BASE_LO
      hostReaches (regOff n 0 0) s → writeOk n 0 0 v s = true →
      ∃ u, exec (.tasteBaseWrite hi v) s = .next u ∧ onlyIn (.casks :: eventParts) s u ∧
        ∀ f ∈ n.desc.fields, f.acc = .rw → fieldOf f.hi f.lo (rget n 0 0 u) = fieldOf f.hi f.lo v) ∧
    (∀ temps, let s1 := { s with cellar := { s.cellar with lastTemps := temps } }
      Store.risesFrom 0 s.casks = true →
      ∃ u, exec (.tempSample temps) s = .next u ∧ onlyIn [.cellar, .quant] s u ∧ u.cellar = { s.cellar with lastTemps := temps } ∧
        ∀ r, r ∈ u.quant.refold ↔ r ∈ s.quant.refold ∨
          ∃ c, (getCask c s).racked = true ∧ r ∈ racksOf c s ∧
            1024 < (quadTemp (c / 1024) s1 - Store.getD 12800 (4 * r + c / 1024) s.cellar.foldTemps).natAbs) ∧
    (hostReaches (regOff .RS_REFOLD 0 0) s →
      (∀ v, flagOf 31 v = false → ∃ u, exec (.rsRefoldRack v) s = .next u ∧ onlyIn (.quant :: .pm :: eventParts) s u ∧
        ∀ r, r ∈ u.quant.refold ↔ r ∈ s.quant.refold ∨ r = fieldOf 7 0 v) ∧
      ∃ u, exec .rsRefoldAll s = .next u ∧ onlyIn (.quant :: .pm :: eventParts) s u ∧
        ∀ r, r ∈ u.quant.refold ↔ r ∈ s.quant.refold ∨ r < 256) ∧
    (s.quant.batch = [] → rflag .QT_CTRL 0 0 8 s = false → applyPending rsCommit s = false → s.quant.copyDue = false →
      (openBatch s).quant.batch = (if s.quant.rackFold = [] then s.quant.refold else s.quant.rackFold) ∧
        (openBatch s).quant.refold = (if s.quant.rackFold = [] then [] else s.quant.refold) ∧ (openBatch s).quant.rackFold = []) ∧
    (∀ r : Rack, r.val ∈ (openBatch s).quant.batch → applyPending rsCommit s = false → Store.wf one32 s.quant.gainStaged = true →
      Store.wf 12800 s.cellar.foldTemps = true →
      ∃ u, exec (.refold r) s = .next u ∧ onlyIn (.quant :: .casks :: .applies :: .free :: .cellar :: eventParts) s u ∧
        shadowsOnly s u ∧ u.quant.batch = (openBatch s).quant.batch.filter (· ≠ r.val) ∧
        u.quant.refold = (openBatch s).quant.refold ∧ u.quant.gain = s.quant.gain ∧ u.quant.crt = s.quant.crt ∧
        (applyPending rsCommit u = true ↔ u.quant.batch = []) ∧
        (∀ q, q < 4 → Store.getD 12800 (4 * r.val + q) u.cellar.foldTemps = quadTemp q s) ∧
        ∀ k, k < 16 → (getCask (16 * r.val + k) s).racked = true → (getCask (16 * r.val + k) s).fitted = true →
          Store.getD one32 (16 * r.val + k) u.quant.gainStaged = gFold (openBatch s).quant.forRack (16 * r.val + k) s) ∧
    (s.quant.copyDue = true →
      ∃ u, exec .bankCopy s = .next u ∧ onlyIn [.quant] s u ∧
        u.quant = { s.quant with crtStaged := s.quant.crt, gainStaged := s.quant.gain, copyDue := false })

/-- A correction token adds round(G_c × C) to each column, C from the escaped rows' integers and the pinned columns' codes, exactly modulo
2³⁶, and goes on to the operation's next token; a shadow row that the unit misses comes into its row buffer (R161, R164, R165, R167, R168).
A tasting run holds its cask, counts itself, and puts its vectors through the cask as tokens; when they are converted the cask is
released: it passes, and is no longer suspect unless its diagnosis is due or a repeated run has failed, or fails, and is suspect, the
second time for good (R176, R179, R180, R182). The model's choice (log entry 118): the entry that was filled first leaves a full row
buffer. Its readings of tasting and of the correction queue are log entries 63 and 64 (DEDUCED). -/
def Obligations.CorrectionAndTasting : Prop :=
   (∀ (r : Rack) (w : CorrWork) (rest : List CorrWork) (s : State), (getRack r.val s).corr = w :: rest → w.cask / 16 = r.val →
      let o := w.op
      (∀ (pin : List Word) (i : TokIn) (x : List Byte) (s1 s2 s3 s4 : State) used esc gs,
        let a4 := decide (o.infmt = 1)
        let escaped := fun k => decide (codeAt a4 i.codes k = escCode a4)
        let xs := (List.range 512).map fun k => if escaped k then 0 else codeAt a4 i.codes k
        w.pins = some pin → frozenWhere (·.coversRack r.val) s = false → readTok w s = (.ok x, i, s1) →
        useSide w.cask o w.tok i.scale escaped i.side s1 = (s2, used) →
        escapedRows w.cask o.pkt used s2 = (some esc, s3) →
        pinnedCols w pin s3 = (some gs, s4) →
        (getCask w.cask s4).suspect = false → w.dropped.contains w.tok = false → Store.wf 0 s.mem.acc = true → w.tok + 1 < o.ntok →
        ∃ u, exec (.correctionToken r) s = .next u ∧
          (∀ j, j < columns o.w5 → Store.getD 0 (accKey r.val (o.slot + j / 256) w.tok (j % 256)) u.mem.acc =
            Store.getD 0 (accKey r.val (o.slot + j / 256) w.tok (j % 256)) s.mem.acc +
              BitVec.ofInt 36 (clampInt (-2147483648) 2147483647
                (roundAway (sval (Store.getD one32 w.cask s.quant.gain) * corrSum o.w5 pin esc gs xs j) (2 ^ 149)))) ∧
          (∀ a, (∀ j, j < columns o.w5 → a ≠ accKey r.val (o.slot + j / 256) w.tok (j % 256)) →
            Store.getD 0 a u.mem.acc = Store.getD 0 a s.mem.acc) ∧
          ∀ y ∈ (getRack r.val u).corr, y.op.op = o.op → y.tok = w.tok + 1) ∧
      ∀ (c : CaskId) (row : Fin 512) (d : List Byte) (s1 : State), c.val = w.cask → (getCask c.val s).shadowOk = true →
        (∀ b ∈ (getRack r.val s).rowBuf, ¬ (b.cask = c.val ∧ b.row = row.val)) →
        readDram (shadowAt c.val s + 512 * row.val) 512 o.pkt s = (.ok d, s1) →
        ∃ u, exec (.rowBufferFill c row) s = .next u ∧ onlyIn (.racks :: eventParts) s u ∧ otherRacks r.val s u ∧
          (getRack r.val u).rowBuf = (if 128 ≤ (getRack r.val s).rowBuf.length then (getRack r.val s).rowBuf.drop 1
            else (getRack r.val s).rowBuf) ++ [⟨c.val, row.val, d⟩]) ∧
   (∀ (c : CaskId) (s : State), rflag .CT_CTRL 0 0 3 s = true → rflag .CT_CTRL 0 0 8 s = false →
      s.cellar.tasteLeft ≠ some 0 → tasteNext s = some c.val → (getCask c.val s).quiet = true → caskStopped c.val s = false →
      domainIsOff (68 + c.val / 1024) s = false → domainIsOff (rackDomain (c.val / 16)) s = false →
      let n := rfield .CT_TASTE_CFG 0 0 9 8 s + 1
      ∃ u, exec (.tastingRun c) s = .next u ∧ onlyIn [.casks, .regs, .cellar, .opNames] s u ∧ otherCasks c.val s u ∧
        otherRegs [regOff .CT_TASTE_RUNS 0 0] s u ∧ rget .CT_TASTE_RUNS 0 0 u = rget .CT_TASTE_RUNS 0 0 s + 1 ∧
        u.cellar.tasteLeft = s.cellar.tasteLeft.map (· - 1) ∧
        getCask c.val u = { getCask c.val s with
          hold := some .tasting
          tasteDue := false
          running := [⟨.taste, probeOp s.nextOp n (caskW5 c.val s), (List.range n).map (tasteCodes c.val), none, none, none, 0, 0, [],
            false, 0⟩] }) ∧
   (∀ (c : CaskId) (o : RunOp) (bs : List Byte) (s s1 : State),
      let k := getCask c.val s
      let s0 := modCask c.val (fun x => { x.endProbe o.op.op with hold := none }) s
      let first := fun (v : Nat) => tasteFirst (caskW5 c.val s) (o.pins.getD (pinWords c.val s)) (rget .CT_TASTE_TOL 0 0 s)
        (gEff c.val s) (k.convsOf o.op.op v) (bs.drop (4096 * v))
      tasteOver k = some o → s.hang.incident = none → readDram (tasteAt c.val s0) (4096 * o.op.ntok) none s0 = (.ok bs, s1) →
      ((∀ v, v < o.op.ntok → first v = none) →
        ∃ u, exec (.tastingRun c) s = .next u ∧ onlyIn (.casks :: eventParts) s u ∧ otherCasks c.val s u ∧
          rget .CT_TASTE_FAILS 0 0 u = rget .CT_TASTE_FAILS 0 0 s ∧
          getCask c.val u = { k.endProbe o.op.op with
            hold := none
            suspect := k.suspect && (k.diagDue || k.condemned)
            tasteRepeat := k.tasteRepeat && (k.diagDue || k.condemned) }) ∧
      ∀ v, v < o.op.ntok → first v ≠ none →
        ∃ u, exec (.tastingRun c) s = .next u ∧ onlyIn (.casks :: eventParts) s u ∧ otherCasks c.val s u ∧
          rget .CT_TASTE_FAILS 0 0 u = rget .CT_TASTE_FAILS 0 0 s + 1 ∧
          getCask c.val u = { k.endProbe o.op.op with
            hold := none
            suspect := true
            tasteRepeat := true
            condemned := k.condemned || k.tasteRepeat
            diagDue := if k.tasteRepeat then k.diagDue else !k.condemned })

/-- The decant: a drain of a one-token tile with FP32 or narrower output and no bias or chain writes (a × CRT) × scale of each element to its
row and leaves its slot DRAINING; a drop writes nothing and leaves its slot CLEARING; slots read before it are CLEARING; a finished drain
leaves the decant, is counted unless nothing was added into its slot, and signals its object, whereupon a drop of a cancelled packet may
take its place in the queue; a cleared slot is zero and FREE; a partial load adds its elements and takes itself off the pending count
(R227, R228, R240, R241, R245, R251, R254 to R256, R292, R514). The model's choice: DRAINING lasts until the decant's next event (log entry
120, DESIGN CHOICE), RP_DRAINS counts no drop and no drain of an empty slot, and a drain that signals is counted then (log entry 65,
DEDUCED). The quantiser: a request whose descriptor Table 8.16 rejects ends with status 1 and writes nothing but its event; one
whose descriptor it does not reject is run with a status of at most 2; a finished one has its STATUS written into its descriptor and
signals its object; an assembly of drained tokens is coded once every element has come, and lets its drains signal (R190, R199, R285,
R286). -/
def Obligations.DrainsAndQuantiserRequestsComplete : Prop :=
   (∀ (r : Rack) (s : State),
      (∀ x, (getRack r.val s).drains.find? (fun x => decide (x.phase = 0)) = some x → (getSlot r.val x.slot s).pend = 0 →
        frozenWhere (·.coversRack r.val) s = false → resettingWhere (·.coversRack r.val) s = false →
        (x.isDrop = true → ∀ par, ∃ u, exec (.drainStart r par) s = .next u ∧ onlyIn [.racks, .mem] s u ∧ otherRacks r.val s u ∧
          { u.mem with accBad := s.mem.accBad } = s.mem ∧ getSlot r.val x.slot u = { getSlot r.val x.slot s with st := 4 } ∧
          (∀ n, n ≠ x.slot → getSlot r.val n u = { getSlot r.val n s with
            st := if (getSlot r.val n s).st = 3 then 4 else (getSlot r.val n s).st }) ∧
          (getRack r.val u).drains = (getRack r.val s).drains.map fun y =>
            if y.id = x.id then { y with phase := if (getSlot r.val x.slot s).rec' = none then 3 else 1 } else y) ∧
        (x.isDrop = false → (getSlot r.val x.slot s).rec' = none → asmRoom r.val x s = true →
          ∃ u, exec (.drainStart r false) s = .next u ∧ onlyIn [.racks] s u ∧ otherRacks r.val s u ∧
            getSlot r.val x.slot u = { getSlot r.val x.slot s with st := 3 } ∧
            (getRack r.val u).drains = (getRack r.val s).drains.map fun y => if y.id = x.id then { y with phase := 3 } else y) ∧
        ∀ e off so, x.isDrop = false → (getSlot r.val x.slot s).rec' = some e → (getSlot r.val x.slot s).skewed = false →
          byteAt 52 x.desc < 4 → byteAt 50 x.desc = 1 → leAt 8 8 x.desc = 0 → chainOf x.desc = [] →
          leAt 48 2 x.desc * outBytes (byteAt 52 x.desc) % 32 = 0 → leAt 48 2 x.desc ≤ 256 →
          leAt 0 8 x.desc = 0x2000000000 + off → off % 32 = 0 → off + 1024 ≤ 0x80000 → e.scale = 0x2000000000 + so →
          so + 2080 ≤ 0x80000 → e.token0 < 256 → Mem.wf s.mem = true → s.mem.accBad.has (16 * r.val + x.slot) = false →
          (∀ y, y / 0x4000 = r.val → s.mem.spBad.has y = false) →
          (∀ t ∈ (getSlot r.val x.slot s).tags,
            t = (leAt 0 2 (spRead r.val so 32 s), byteAt 2 (spRead r.val so 32 s), byteAt 3 (spRead r.val so 32 s))) →
          rflag .CT_CTRL 0 0 0 s = false → rflag .CT_CTRL 0 0 1 s = false →
          leAt 4 4 (spRead r.val (so + 32 + 8 * e.token0) 8 s) / 64 % 4 = 0 →
          ∃ u, exec (.drainStart r false) s = .next u ∧ onlyIn (.racks :: eventParts) s u ∧ otherRacks r.val s u ∧
            getSlot r.val x.slot u = { getSlot r.val x.slot s with st := 3 } ∧ u.mem.acc = s.mem.acc ∧
            ((getRack r.val u).drains = (getRack r.val s).drains.map fun y => if y.id = x.id then { y with phase := 1 } else y) ∧
            spRead r.val off (leAt 48 2 x.desc * outBytes (byteAt 52 x.desc)) u =
              (List.range (leAt 48 2 x.desc)).flatMap (fun c => leBytes (outBytes (byteAt 52 x.desc))
                (fencode (outFmt (byteAt 52 x.desc)) (val32 (mul32 (mul32 (int32f (accWord r.val x.slot 0 c s))
                  (Store.getD one32 (crtKey r.val e.group c) s.quant.crt))
                  (BitVec.ofNat 32 (leAt 0 4 (spRead r.val (so + 32 + 8 * e.token0) 8 s)))))).1)) ∧
      (∀ x, (getRack r.val s).drains.find? (fun x => decide (x.phase = 1) || decide (x.phase = 3)) = some x →
        ∃ u, exec (.drainSignal r) s = .next u ∧ onlyIn (.racks :: .threads :: .opNames :: .sync :: .wraps :: eventParts) s u ∧
          otherRacks r.val s u ∧
          (let left := (getRack r.val s).drains.filter fun y => decide (y.id ≠ x.id)
           match (getRack r.val s).toDrop with
           | [] => (getRack r.val u).drains = left ∧ (getRack r.val u).toDrop = []
           | k :: rest =>
             if 8 ≤ left.length then (getRack r.val u).drains = left ∧ (getRack r.val u).toDrop = k :: rest
             else (getRack r.val u).toDrop = rest ∧ (getRack r.val u).drains = left ++
               if (getSlot r.val k s).st = 1 then [⟨s.nextOp, true, k, [], none, 0, none⟩] else []) ∧
          rget .RP_DRAINS r.val 0 u = rget .RP_DRAINS r.val 0 (if x.isDrop = true ∨ x.phase = 3 then s else bump .RP_DRAINS r.val 0 1 s) ∧
          (Store.wf 0 s.sync = true → ∀ o, syncGet o u = syncGet o s +
            if x.isDrop = false ∧ byteAt 56 x.desc % 2 = 1 ∧ o = leAt 54 2 x.desc then 1 else 0)) ∧
      (∀ n : Fin 16, (getSlot r.val n.val s).st = 3 ∨ (getSlot r.val n.val s).st = 4 →
        ∃ u, exec (.slotClearEnd r n) s = .next u ∧ onlyIn [.racks, .mem] s u ∧ otherRacks r.val s u ∧
          getSlot r.val n.val u = Slot.init ∧ (∀ m, m ≠ n.val → getSlot r.val m u = getSlot r.val m s) ∧
          (∀ t c, t < 16 → c < 256 → accGet r.val n.val t c u = 0) ∧
          ∀ a, ¬ (accKey r.val n.val 0 0 ≤ a ∧ a < accKey r.val n.val 0 0 + 4096) →
            Store.getD 0 a u.mem.acc = Store.getD 0 a s.mem.acc) ∧
      ∀ l rest off, (getRack r.val s).ldp = l :: rest → l.addr = 0x2000000000 + off → off % 32 = 0 → off + 16448 ≤ 0x80000 →
        badSector r.val off 16448 s = none → Store.wf 0 s.mem.acc = true → (∀ e, (getSlot r.val l.slot s).rec' = some e → e = partialRec (spRead r.val off 16448 s)) →
        ∃ u, exec (.partialLoadComplete r false) s = .next u ∧ onlyIn [.racks, .mem, .rings] s u ∧ otherRacks r.val s u ∧
          (getRack r.val u).ldp = rest ∧ (getSlot r.val l.slot u).pend = (getSlot r.val l.slot s).pend - 1 ∧
          (getSlot r.val l.slot u).rec' = some (partialRec (spRead r.val off 16448 s)) ∧
          ∀ t c, t < 16 → c < 256 → Store.getD 0 (accKey r.val l.slot t c) u.mem.acc =
            Store.getD 0 (accKey r.val l.slot t c) s.mem.acc +
              BitVec.ofInt 36 (signedOf 32 (leAt (64 + 1024 * t + 4 * c) 4 (spRead r.val off 16448 s)))) ∧
   (∀ (r : Rack) (s : State),
      (∀ i q, nextQt r.val s = some (i, q) →
        (∃ u st, exec (.quantiseRun r) s = .next u ∧ onlyIn (.racks :: .free :: readParts) s u ∧ shadowsOnly s u ∧
          otherRacks r.val s u ∧ st ≤ 2 ∧
          (badSector r.val q.desc 64 s ≠ none → st = 2 ∧ u.mem.sp = s.mem.sp ∧ u.freeCtr = s.freeCtr) ∧
          (badSector r.val q.desc 64 s = none → descBad (spRead r.val q.desc 64 s) = true →
            st = 1 ∧ u.mem.sp = s.mem.sp ∧ u.freeCtr = s.freeCtr) ∧
          (let q' := { q with body := spRead r.val q.desc 64 s, phase := 1, status := st }
           getRack r.val u = { getRack r.val s with qt := (getRack r.val s).qt.set i q' }))) ∧
      (∀ q rest, (getRack r.val s).qt = q :: rest → q.phase = 1 → q.body.length = 64 → Store.wf 0 s.mem.sp = true →
        Store.wf 0 s.sync = true →
        ∃ u, exec (.quantiseComplete r) s = .next u ∧ onlyIn (.racks :: .threads :: .sync :: .wraps :: eventParts) s u ∧
          getRack r.val u = { getRack r.val s with qt := rest } ∧
          spRead r.val (q.desc + 32) 32 u = (q.body.drop 32).take 28 ++ leBytes 4 (2 ^ 31 + q.status) ∧
          ∀ o, syncGet o u = syncGet o s + if byteAt 39 q.body % 2 = 1 ∧ o = leAt 44 2 q.body then 1 else 0) ∧
      ∀ a, (getRack r.val s).asm.find? asmReady = some a →
        ∃ u, exec (.quantTokenAssemble r) s = .next u ∧ onlyIn (.racks :: eventParts) s u ∧ otherRacks r.val s u ∧
          (getRack r.val u).asm = (getRack r.val s).asm.filter (fun b => decide (b.drains ≠ a.drains)) ∧
          ∀ y ∈ (getRack r.val u).drains, y.id ∈ a.drains → y.phase = 1)

/-! ### Rings, packets, sync and events -/

/-- The ring commands: ENABLE of a DISABLED ring reads its context and makes it ACTIVE, or fails with ERR 1 on a context that R339 does not
accept; STOP leaves it STOPPED once nothing is in flight, RESUME makes it ACTIVE again, RESET makes it DISABLED with every index 0 (R337
to R340). A doorbell of a host-fed ring moves TAIL by COUNT, puts the ring into ERROR where that would overrun it, and does nothing but
raise an event on a ring that takes no packets or with COUNT 0; the packet at index START is fetched once, its header accepted; a status
sector that is owed is written at WB (R341, R342, R345, R348). The model's reading: RESET also sets ERR to 0, and an enable whose context
cannot be accepted fails with ERR 1 (log entry 68, DEDUCED). -/
def Obligations.RingCommandsAndDoorbells : Prop :=
   (∀ s : State, hostReaches (regOff .RG_CMD 0 0) s →
      let n := selectedRing s
      let g := getRing n s
      (g.st = .disabled → goingOff 72 s = false → s.pm.libDue = false → s.pm.lcState ≠ 4 →
        ∀ b s1, rpair .RG_TABLE_LO .RG_TABLE_HI 0 s + 64 * n + 64 ≤ usable s →
        readDram (rpair .RG_TABLE_LO .RG_TABLE_HI 0 s + 64 * n) 64 none s = (.ok b, s1) →
        (ctxOk b s1 = true → activeBusy (ctxOf b) s1 = false →
          ∃ u, exec .rgEnable s = .next u ∧ onlyIn eventParts s u ∧ otherRings n s u ∧
            getRing n u = { g with st := .active, ctx := ctxOf b, err := 0, progress := s.now, paused := 0, wbDue := true }) ∧
        (ctxOk b s1 = false →
          ∃ u, exec .rgEnable s = .next u ∧ onlyIn eventParts s u ∧ otherRings n s u ∧ getRing n u = { g with err := 1 })) ∧
      (g.st = .active →
        ∃ u, exec .rgStop s = .next u ∧ onlyIn [.rings] s u ∧ otherRings n s u ∧
          getRing n u = { g with st := if g.inflight = 0 then .stopped else .stopping, wbDue := true }) ∧
      (g.st = .stopped → activeBusy g.ctx s = false →
        ∃ u, exec .rgResume s = .next u ∧ onlyIn [.rings] s u ∧ otherRings n s u ∧
          getRing n u = { g with st := .active, wbDue := true }) ∧
      (g.mayReset = true →
        ∃ u, exec .rgReset s = .next u ∧ onlyIn [.rings, .mem, .pos] s u ∧ otherRings n s u ∧
          (getRing n u).st = .disabled ∧ (getRing n u).err = 0 ∧ (getRing n u).head = 0 ∧ (getRing n u).start = 0 ∧
          (getRing n u).tail = 0 ∧ (getRing n u).front = none ∧ (getRing n u).pkts = []) ∧
      (g.st ≠ .disabled → ∃ u, exec .rgEnable s = .next u ∧ onlyIn eventParts s u ∧ ∀ m, getRing m u = getRing m s)) ∧
   (∀ (n : RingId) (s : State),
      let g := getRing n.val s
      (hostReaches (0x2000000 + n.val * 0x200) s → ∀ v : Word, let k := fieldOf 16 0 v
        (k ≠ 0 → fieldOf 31 17 v = 0 → g.deviceFed = false → g.takes = true →
          ((g.tail - g.head).toNat + k ≤ 2 ^ g.ctx.log2 →
            ∃ u, exec (.ringDoorbell n v) s = .next u ∧ onlyIn [.rings] s u ∧ otherRings n.val s u ∧
              getRing n.val u = { g with tail := g.tail + BitVec.ofNat 32 k, wbDue := true }) ∧
          (2 ^ g.ctx.log2 < (g.tail - g.head).toNat + k →
            ∃ u, exec (.ringDoorbell n v) s = .next u ∧ onlyIn eventParts s u ∧ otherRings n.val s u ∧
              (getRing n.val u).st = .error ∧ (getRing n.val u).err = 2 ∧ (getRing n.val u).tail = g.tail)) ∧
        (k = 0 ∨ fieldOf 31 17 v ≠ 0 ∨ g.deviceFed = true ∨ g.takes = false →
          ∃ u, exec (.ringDoorbell n v) s = .next u ∧ onlyIn eventParts s u ∧ ∀ m, getRing m u = getRing m s)) ∧
      (g.st = .active → g.front = none → g.start ≠ g.tail → s.px.d3 = false →
        ∀ b s1, readDram (g.ctx.base + 64 * (g.start.toNat % 2 ^ g.ctx.log2)) 64 (some ⟨n, g.start⟩) s = (.ok b, s1) →
          headerOk g.gate b s1 = true →
          ∃ u, exec (.packetFetch n) s = .next u ∧ onlyIn eventParts s u ∧
            (getRing n.val u).front = some ⟨b, headerWaits b s, decide (g.gate ≠ 0) && petHolds (gateWord n.val g b s) s,
              gateWord n.val g b s, none, s.now⟩ ∧ (getRing n.val u).start = g.start ∧
            (getRing n.val u).head = g.head ∧ (getRing n.val u).tail = g.tail) ∧
      (g.wbDue = true → upstreamOk s = true → g.ctx.wb % 32 = 0 → s.mem.cline.length < 12 → sliceOn (g.ctx.wb / 128) s = true →
        Mem.wf s.mem = true →
        ∃ u, exec (.statusSectorWrite n) s = .next u ∧ onlyIn [.rings, .mem] s u ∧ otherRings n.val s u ∧
          getRing n.val u = { g with wbDue := false } ∧
          (∀ j, j < 32 → peekByte (g.ctx.wb + j) u = nthD 0 j (leBytes 4 g.head.toNat ++ leBytes 4 g.tail.toNat ++
            leBytes 4 g.start.toNat ++ leBytes 1 g.st.code ++ leBytes 1 g.err ++ leBytes 18 0)) ∧
          ∀ x, ¬ (g.ctx.wb ≤ x ∧ x < g.ctx.wb + 32) → peekByte x u = peekByte x s))

/-- A gated packet takes the lowest free entry of the pool; a packet that may start, and that the dispatcher serves before all others, is
sampled and moves START on; its kernel's threads go to the lowest free contexts of a rack with room; once its work is done it is complete,
its record stands at CMPL + 64 × (i mod 2^LOG2SIZE) with the layout of Table 10.5, its signal adds to its object, and the completed packets
at the head of the ring leave it (R349, R351 to R353, R355, R356, R362, R369). A library kernel starts with free values in s1 to s3 (log
entry 32, DESIGN CHOICE). -/
def Obligations.PacketsStartRunAndComplete : Prop :=
  ∀ (n : RingId) (s : State),
    let g := getRing n.val s
    (∀ f e, g.wantsEntry = true → (∀ m, m < n.val → (getRing m s).wantsEntry = false) → g.front = some f → poolEntry s = some e →
      Store.risesFrom 0 s.rings = true → Store.wf 0 s.pos.pet = true →
      ∃ u, exec (.gateEntryGrant n) s = .next u ∧ onlyIn [.rings, .pos] s u ∧
        (getRing n.val u).front.map (fun x => (x.bytes, x.entry)) = some (f.bytes, some e) ∧
        petGet e u = f.gate % 2 ^ 128 ∧ ∀ x, x ≠ e → petGet x u = petGet x s) ∧
    (∀ f, g.front = some f → startable n.val g s = true → servedNext n.val s = true →
      ∃ u k, exec (.packetStart n) s = .next u ∧ onlyIn [.rings, .pos, .opNames, .lastRing] s u ∧ otherRings n.val s u ∧
        getRing n.val u = { g with
          front := none
          start := g.start + 1
          pkts := g.pkts ++ [k]
          progress := if g.inflight = 0 then s.now else g.progress
          paused := if g.inflight = 0 then 0 else g.paused } ∧
        k.idx = g.start ∧ k.bytes = f.bytes ∧ k.work = .none ∧ k.complete = false ∧ k.code = 0 ∧ k.flags = 0 ∧
        k.frame = posFrame s ∧ k.pos = posUm s ∧ u.lastRing = n.val) ∧
    (∀ i (r : Rack) x racks, let p : PktId := ⟨n, i⟩
      findPkt p s = some x → x.work = .kernel racks → r.val ∈ racks → rackTakes r.val p s = true →
      opThreads x.bytes ≤ freeContexts r.val s →
      ∃ u, exec (.threadPlace n i r) s = .next u ∧ onlyIn [.threads, .rings, .free] s u ∧ otherRings n.val s u ∧
        (findPkt p u).map Pkt.work = some (.kernel (racks.filter fun y => decide (y ≠ r.val))) ∧
        (∀ j t, (freeTids r.val (opThreads x.bytes) s)[j]? = some t → getThread r.val t u = { Thread.init with
          st := if rackStops r.val s then .held else .ready
          pc := startPc x.bytes s
          s := startRegs x.bytes r.val j s
          since := s.now
          pkt := some p }) ∧
        ∀ y t, t < 64 → (y ≠ r.val ∨ t ∉ freeTids r.val (opThreads x.bytes) s) → getThread y t u = getThread y t s) ∧
    ∀ i x, let p : PktId := ⟨n, i⟩
      findPkt p s = some x → pktDone p s = true → mayFinish x.bytes s = true → x.codeOut < 2 →
      (pktFl 5 x.bytes = false ∨ sigRemote x.bytes = false) → s.hang.incident = none → Store.wf 0 s.sync = true →
      (∀ y ∈ g.pkts, y.idx = i → y = x) →
      ∃ u, exec (.packetComplete n i) s = .next u ∧ onlyIn (.threads :: .racks :: .sync :: .wraps :: eventParts) s u ∧
        (let a := g.ctx.cmpl + 64 * (i.toNat % 2 ^ g.ctx.log2)
         pktFl 5 x.bytes = false → x.bytes.length = 64 → (∀ e, x.exc = some e → e.length = 32) → g.ctx.cmpl % 32 = 0 →
          g.ctx.wb / 32 ≠ a / 32 → g.ctx.wb / 32 ≠ a / 32 + 1 → Mem.wf s.mem = true → s.mem.cline.length < 10 →
          sliceOn (a / 128) s = true → sliceOn ((a + 32) / 128) s = true →
          ∀ j, j < 64 → peekByte (a + j) u = nthD 0 j (leBytes 2 (pktOp x.bytes) ++ leBytes 1 x.codeOut ++
            leBytes 1 (if bitAt g.ctx.log2 i.toNat then 1 else 0) ++ leBytes 4 x.flags ++ (x.bytes.drop 20).take 4 ++
            leBytes 4 x.kstatus.toNat ++ leBytes 4 x.frame ++ leBytes 4 x.events ++ leBytes 8 (patternOf 64 x.pos) ++
            x.exc.getD (List.replicate 32 0))) ∧
        (let done := g.pkts.map fun y => if y.idx == i then { y with complete := true } else y
         (getRing n.val u).head = g.head + BitVec.ofNat 32 (done.takeWhile (·.complete)).length ∧
          (getRing n.val u).pkts.map Pkt.idx = (done.dropWhile (·.complete)).map Pkt.idx) ∧
        (∀ y, findPkt p u = some y → y.complete = true) ∧
        (∀ t ∈ u.threads, t.2.pkt = some p → t.2.st ≠ .halted) ∧
        ∀ o, syncGet o u = syncGet o s + if pktFl 5 x.bytes = true ∧ o = leAt 6 2 x.bytes then
          BitVec.ofInt 32 (signedOf 32 (leAt 12 4 x.bytes)) else 0

/-- The library's operators on started packets: with every descriptor in order a kernel is placed on the racks of its operands (for MATMUL
and CONV2D once the layer map stands, whose rejection gives LAYER_MAP); an operand descriptor that is misaligned, lies in no memory or
violates Table 10.9 or R216 gives CONFIG and no work, one whose read fails gives BUS; so do a layer map and a parameter block, whose fields
and chain give CONFIG too; a byte that the body does not name and that is not 0 gives CONFIG (R314, R366, R369, R371). The model's readings:
the walker's actions stand for the library's code, and its racks are those of the operands (log entry 32, DESIGN CHOICE); a byte that is not
zero is a body that R371 rejects (log entry 67, DEDUCED); PARAM 0 is a block of zeros that is not checked (log entry 70, DEDUCED); a
dimension of 0 violates Table 10.9 (log entry 34, DEDUCED). A round of a walker with one stream, in breadth order with no cell in flight and
its next cell coded, opens the lowest FREE slot of the rack; where none is FREE the packet gets FALLBACK and the stream goes over to
reduction-first order (R242, R316, R334). -/
def Obligations.OperatorsCheckAndPlace : Prop :=
  (∀ o ∈ operatorTable, ∀ (n : RingId) (i : Index) (x : Pkt) (s : State), packetWaits ⟨n, i⟩ o.op x s →
    let p : PktId := ⟨n, i⟩
    let ends := fun (s' : State) (k : Nat) => ∃ u y, exec (o.command n i) s = .next u ∧ onlyIn readParts s u ∧ shadowsOnly s u ∧
      findPkt p u = some y ∧ y.work = .done ∧ some y.code = (findPkt p s').map fun z => max z.code k
    (o.bodyOk x.bytes = false → ∃ u, exec (o.command n i) s = .next u ∧ onlyIn [.rings] s u ∧ otherRings n.val s u ∧
      findPkt p u = some { x with work := .done, code := max x.code 3 }) ∧
    (o.bodyOk x.bytes = true →
    (∀ ts par ts' s1 s2 s3, readTensors p (o.tensors x.bytes) s = (.ok ts, s1) →
      (if o.params then readParams (leAt 56 8 x.bytes) p s1 else (.ok (leBytes 128 0), s1)) = (.ok par, s2) →
      (o.params = true → leAt 56 8 x.bytes ≠ 0 → parFieldsBad o.op par = false ∧ parChainBad par = false) →
      readTensors p (if o.params then parTensors o.op par else []) s2 = (.ok ts', s3) →
      (o.walks = false →
        ∃ u, exec (o.command n i) s = .next u ∧ onlyIn eventParts s u ∧
          (findPkt p u).map Pkt.work = some (.kernel (opRacks x.bytes s3))) ∧
      (o.walks = true → ∀ h m s4 s5, readDesc (leAt 40 8 x.bytes) 64 p s3 = (.ok h, s4) →
        readDesc (leAt 40 8 x.bytes) (64 + 16 * leAt 14 2 h) p s4 = (.ok m, s5) →
        (mapBad m s5 = false → ∃ u, exec (o.command n i) s = .next u ∧ onlyIn eventParts s u ∧
          (findPkt p u).map Pkt.work = some (.kernel (opRacks x.bytes s5)) ∧
          ∃ w, walkOf p u = some w ∧ w.map = m ∧ w.par = par ∧ ∀ t ∈ w.streams, t.cell = 0 ∧ t.flights = []) ∧
        (mapBad m s5 = true → ends s5 4))) ∧
    (∀ ts s1, readTensors p (o.tensors x.bytes) s = (.ok ts, s1) → o.params = true → leAt 56 8 x.bytes ≠ 0 →
      (leAt 56 8 x.bytes % 32 ≠ 0 ∨ inMemory noRack (leAt 56 8 x.bytes) 128 s1 = false → ends s1 3) ∧
      (∀ s2, leAt 56 8 x.bytes % 32 = 0 → inMemory noRack (leAt 56 8 x.bytes) 128 s1 = true →
        (∀ par, devRead noRack (leAt 56 8 x.bytes) 128 (some p) s1 = (.ok par, s2) →
          parFieldsBad o.op par = true ∨ parChainBad par = true → ends s2 3) ∧
        (devRead noRack (leAt 56 8 x.bytes) 128 (some p) s1 = (.bus, s2) ∨
          devRead noRack (leAt 56 8 x.bytes) 128 (some p) s1 = (.badSeal, s2) → ends s2 5))) ∧
    ∀ before a pad after ts s1, o.tensors x.bytes = before ++ (a, pad) :: after → readTensors p before s = (.ok ts, s1) →
      (a % 32 ≠ 0 ∨ inMemory noRack a 64 s1 = false → ends s1 3) ∧
      ∀ s2, a % 32 = 0 → inMemory noRack a 64 s1 = true →
        (∀ t, devRead noRack a 64 (some p) s1 = (.ok t, s2) → tensorBad t = true ∨ (pad = true ∧ padBad t = true) → ends s2 3) ∧
        (devRead noRack a 64 (some p) s1 = (.bus, s2) ∨ devRead noRack a 64 (some p) s1 = (.badSeal, s2) → ends s2 5))) ∧
  ∀ o ∈ operatorTable, o.walks = true → ∀ (n : RingId) (i : Index) (w : Walk) (v : Strip) (t : Stream) (s : State),
    let p : PktId := ⟨n, i⟩
    let emptied := fun (x : Nat) (u : State) =>
      getRack x u = if allFree x u then { getRack x s with ibuf := [] } else getRack x s
    walking o.op p s = true → opensNext p w v t s →
      (∀ k, k < 16 → (getSlot t.rack k s).st = 0 → (∀ m, m < k → (getSlot t.rack m s).st ≠ 0) →
        ∃ u, exec (o.command n i) s = .next u ∧ onlyIn [.threads, .racks, .rings] s u ∧
          (∀ x, x < 64 → getThread t.rack x u = getThread t.rack x s) ∧ (∀ x, x ≠ t.rack → emptied x u) ∧
          getSlot t.rack k u = { getSlot t.rack k s with st := 1, pkt := some p } ∧
          (∀ m, m ≠ k → getSlot t.rack m u = getSlot t.rack m s) ∧
          ∃ w', walkOf p u = some w' ∧ (w'.streams.map Stream.flights) =
            [[⟨nthD 0 t.next (w.sharesOn t.rack t.home), t.cell, [k], false, 0, false, 0⟩]]) ∧
      ((∀ k, k < 16 → (getSlot t.rack k s).st ≠ 0) →
        ∃ u, exec (o.command n i) s = .next u ∧ onlyIn (.threads :: .racks :: eventParts) s u ∧
          (∀ x, x < 64 → getThread t.rack x u = getThread t.rack x s) ∧ (∀ x, emptied x u) ∧
          walkOf p u = some { w with streams := [{ t with redFirst := true }] } ∧
          ∃ y, findPkt p u = some y ∧ y.flags.testBit 1 = true)

/-- The other packets: NOP does nothing, KERNEL asks for its racks, RACK_LOAD hands its plan to the cellarer, TOP_UP calls for toppings,
QUANTIZE runs the quantiser to its end, the estate operators send, receive, are acknowledged or time out; a body that R371 rejects gives
CONFIG (R120, R151, R353, R366, R369, R371, R372, R569). The model's readings: bytes that a body does not name must be 0, and a COUNT out of
range is a body that R371 rejects (log entries 67 and 72, DEDUCED); PARAM 0 is a block of zeros, and a QUANTIZE packet's chain has no
effect (log entries 70 and 71, DEDUCED); a topping in progress is the one called for (log entry 133, DESIGN CHOICE); an estate message and
its answer stand by name (log entry 73, DESIGN CHOICE). -/
def Obligations.NopKernelCellarerAndEstatePackets : Prop :=
  ∀ (n : RingId) (i : Index) (x : Pkt) (s : State),
    let p : PktId := ⟨n, i⟩
    let b := x.bytes
    let works := fun (c : Instr) (ps : List Part) (w : OpWork) => ∃ u, exec c s = .next u ∧ onlyIn ps s u ∧ otherRings n.val s u ∧
      (findPkt p u).map Pkt.work = some w
    let coded := fun (c : Instr) (k : Nat) => ∃ u, exec c s = .next u ∧ onlyIn [.rings] s u ∧ otherRings n.val s u ∧
      findPkt p u = some { x with work := .done, code := max x.code k }
    (packetWaits p 0 x s → (leAt 32 32 b = 0 → works (.nopPacket n i) [.rings] .done) ∧
      (leAt 32 32 b ≠ 0 → coded (.nopPacket n i) 3)) ∧
    (packetWaits p 1 x s → (kernelBad b = false →
        works (.kernel n i) [.rings] (.kernel ((List.range (leAt 50 2 b)).map fun k => leAt 48 2 b + k))) ∧
      (kernelBad b = true → coded (.kernel n i) 3)) ∧
    (packetWaits p 0x30 x s → leAt 32 8 b % 32 = 0 → 0 < leAt 40 4 b → leAt 40 4 b ≤ 4096 → leAt 44 20 b = 0 →
      works (.rackLoad n i) [.rings] (.plan (leAt 32 8 b) (leAt 40 4 b) 0)) ∧
    (packetWaits p 0x31 x s → byteAt 42 b = 1 → leAt 43 21 b = 0 →
      ∃ u, exec (.topUp n i) s = .next u ∧ onlyIn [.casks, .rings] s u ∧
        (∀ c, getCask c u = { getCask c s with topDue := (getCask c s).topDue ||
          (decide (c < 4096) && (getCask c s).racked && !(getCask c s).topping && decide ((getCask c s).cycles8 < 84000)) }) ∧
        ∃ w, (findPkt p u).map Pkt.work = some w ∧ (w = .done ↔ ∀ c, c < 4096 → (getCask c s).racked = true →
          (getCask c u).topDue = false ∧ (getCask c u).topping = false)) ∧
    (packetWaits p 0x18 x s → leAt 40 8 b = 0 → leAt 56 8 b = 0 → ∀ tin tout s1,
      readTensors p [(leAt 32 8 b, true), (leAt 48 8 b, false)] s = (.ok [tin, tout], s1) →
      (quantizeBad 0 tin tout = false → ∃ u, exec (.quantize n i) s = .next u ∧ onlyIn (.free :: readParts) s u ∧ shadowsOnly s u ∧
        (findPkt p u).map Pkt.work = some .done) ∧
      (quantizeBad 0 tin tout = true → ∃ u, exec (.quantize n i) s = .next u ∧ onlyIn eventParts s u ∧
        ∃ y, findPkt p u = some y ∧ y.work = .done ∧ some y.code = (findPkt p s1).map fun z => max z.code 3)) ∧
    (packetWaits p 0x48 x s → estateBad b s = false → upstreamOk s = true → ∀ d s1,
      devRead noRack (leAt 32 8 b) (leAt 40 4 b) (some p) s = (.ok d, s1) →
      ∃ u, exec (.estateSend n i) s = .next u ∧ onlyIn (.opNames :: eventParts) s u ∧ u.nextOp = s.nextOp + 1 ∧
        (findPkt p u).map Pkt.work = some (.estateSend (s.nextOp % 2 ^ 32)) ∧
        HostMsg.estate (leAt 48 8 b) (16 * rfield .BV_IDENT 0 0 15 4 s + rfield .BV_IDENT 0 0 3 0 s) (leAt 44 2 b) (leAt 40 4 b)
          (s.nextOp % 2 ^ 32) d ∈ u.sent) ∧
    (packetWaits p 0x49 x s → (estateBad b s = false → works (.estateRecv n i) [.rings] .estateRecv) ∧
      (estateBad b s = true → coded (.estateRecv n i) 3)) ∧
    (findPkt p s = some x → ∀ k, x.work = .estateSend k →
      (upstreamOk s = true → works (.estateAck n i true) [.rings] .done ∧
        ∃ u, exec (.estateAck n i false) s = .next u ∧ onlyIn [.rings] s u ∧
          findPkt p u = some { x with work := .done, code := max x.code 7 }) ∧
      (x.started + rfield .RG_ESTATE_TMO 0 0 19 0 s * 200000 ≤ s.now → coded (.estateTimeout n i) 6)) ∧
    (findPkt p s = some x → x.work = .estateRecv → ∀ (source : BitVec 16) data off, source.toNat = leAt 44 2 b →
      data.length ≤ leAt 40 4 b → data.length % 32 = 0 → upstreamOk s = true → off + data.length ≤ 0x8000000 →
      leAt 32 8 b = 0x1000000000 + off → off % 0x80000 + data.length ≤ 0x80000 → Store.wf 0 s.mem.sp = true →
      ∃ u, exec (.estateInboxWrite n i source data) s = .next u ∧ onlyIn [.rings, .mem, .sent] s u ∧
        (findPkt p u).map Pkt.work = some .done ∧ Store.getN 0 off data.length u.mem.sp = data ∧
        u.sent = s.sent ++ [.estateAck (leAt 48 8 b)])

/-- Signals from the host and from present members add to their object modulo 2³², and the member's is acknowledged; SY_SEL selects an
object and clears its WRAP; a wait on a remote signal that has run out ends with 1 (R295, R361, R362, R364, R365, R435, R438). An event of a
class routed to an enabled queue with room is written at its tail, with the phase of its pass, and EQ_TAIL counts it; an event of a class
that is not routed is lost and counted in EQ_LOST of queue 0, one routed to a queue that is disabled or full in its EQ_LOST; EQ_HEAD takes a
value no more than a queue's length behind the tail; EQ_ARM arms an empty queue and raises the vector of one that holds records; EQ_CFG
takes a configuration whose array lies below U (R375, R376, R378, R380). A message arrives as the next one of a port's receive buffer, and a
signal's member is not lost in the same rack clock (log entries 122 and 124, DESIGN CHOICE). -/
def Obligations.SignalsFromOutsideAndEventQueues : Prop :=
   (∀ s : State, Store.wf 0 s.sync = true →
      let signalled := fun (o : Nat) (v : Word) (u : State) => (∀ x, syncGet x u = syncGet x s + if x = o then v else 0) ∧
        (u.wraps.has o = true ↔ s.wraps.has o = true ∨ (syncGet o s).toNat + v.toInt < 0 ∨ 2 ^ 32 ≤ (syncGet o s).toNat + v.toInt)
      (∀ v, hostReaches (regOff .SY_SIGNAL 0 0) s →
        ∃ u, exec (.hostSignal v) s = .next u ∧ onlyIn (.threads :: .sync :: .wraps :: eventParts) s u ∧
          signalled (rfield .SY_SEL 0 0 15 0 s) v u) ∧
      (∀ (via : Via) (m : Member) (o : BitVec 16) v, hasMsg via m (.signal o v) s = true → via.dest.val = ownMember s →
        (memberPresent m.val s = true → (∀ c ∈ s.pending, losesMember m.val s c = false) →
          ∃ u, exec (.remoteSignalArrive via m o v) s = .next u ∧ onlyIn (.threads :: .sync :: .wraps :: .bv :: eventParts) s u ∧
            signalled o.toNat v u ∧ (answerable m.val s →
              u.sent.getLast? = some (.burivo (routePort m.val s) (routeVc1 m.val s) (ownMember s) m.val 0 (.ack via.id true)))) ∧
        (memberPresent m.val s = false → ∃ u, exec (.remoteSignalArrive via m o v) s = .next u ∧ onlyIn [.bv, .sent] s u)) ∧
      (∀ v, hostReaches (regOff .SY_SEL 0 0) s → Store.risesFrom 0 s.wraps = true →
        ∃ u, exec (.sySelWrite v) s = .next u ∧ onlyIn [.regs, .wraps] s u ∧ otherRegs [regOff .SY_SEL 0 0] s u ∧
          rfield .SY_SEL 0 0 15 0 u = fieldOf 15 0 v ∧
          ∀ o, u.wraps.has o = (s.wraps.has o && !(flagOf 31 v && decide (o = fieldOf 15 0 v)))) ∧
      ∀ (r : Rack) (t : Tid) o target (d : Reg), let k := getThread r.val t.val s
        k.wait = some (.sync o target d true) → k.since + rfield .BV_RWAIT_TMO 0 0 19 0 s * 200000 ≤ s.now →
        ∃ u, exec (.remoteWaitTimeout (.thread r t)) s = .next u ∧ onlyIn [.threads] s u ∧ otherThreads r.val t.val s u ∧
          getThread r.val t.val u = { k.setS d.val 1 with
            st := if k.st = .held ∨ rackStops r.val s = true then .held else .ready
            wait := none
            pc := k.pc + 4 }) ∧
   (∀ (e : Fin 16) (s : State),
      let cfg := rget .EQ_CFG 0 e.val s
      let tail := rget .EQ_TAIL 0 e.val s
      (∀ code unit aux detail, code / 256 < 16 → upstreamOk s = true → rget .EV_ROUTE 0 (code / 256) s = BitVec.ofNat 32 (2 ^ 31 + e.val) →
        let a := rpair .EQ_BASE_LO .EQ_BASE_HI e.val s + 32 * (tail.toNat % 2 ^ fieldOf 20 16 cfg)
        (flagOf 31 cfg = true → (tail - rget .EQ_HEAD 0 e.val s).toNat ≠ 2 ^ fieldOf 20 16 cfg → a % 32 = 0 →
          s.mem.cline.length < 12 → sliceOn (a / 128) s = true → Mem.wf s.mem = true → code < 65536 →
          let u := raiseEvent code unit aux detail none s
          rget .EQ_TAIL 0 e.val u = tail + 1 ∧ leAt 0 2 (peek a 2 u) = code ∧
          byteAt 0 (peek (a + 2) 1 u) = (if bitAt (fieldOf 20 16 cfg) tail.toNat then 0x80 else 0) ∧
          leAt 0 2 (peek (a + 4) 2 u) = unit % 65536 ∧ leAt 0 4 (peek (a + 12) 4 u) = aux % 2 ^ 32 ∧
          leAt 0 8 (peek (a + 16) 8 u) = s.now % 2 ^ 64 ∧ leAt 0 8 (peek (a + 24) 8 u) = detail % 2 ^ 64) ∧
        (flagOf 31 cfg = false ∨ (tail - rget .EQ_HEAD 0 e.val s).toNat = 2 ^ fieldOf 20 16 cfg →
          raiseEvent code unit aux detail none s = rset .EQ_LOST 0 e.val (rget .EQ_LOST 0 e.val s + 1) s)) ∧
      (∀ code unit aux detail, code / 256 < 16 → upstreamOk s = true → flagOf 31 (rget .EV_ROUTE 0 (code / 256) s) = false →
        raiseEvent code unit aux detail none s = rset .EQ_LOST 0 0 (rget .EQ_LOST 0 0 s + 1) s) ∧
      (hostReaches (regOff .EQ_HEAD 0 e.val) s → ∀ v, (tail - v).toNat ≤ 2 ^ fieldOf 20 16 cfg →
        ∃ u, exec (.eqHeadWrite e v) s = .next u ∧ onlyIn [.regs] s u ∧ otherRegs [regOff .EQ_HEAD 0 e.val] s u ∧
          rget .EQ_HEAD 0 e.val u = v) ∧
      (hostReaches (regOff .EQ_ARM 0 e.val) s → ∀ v, flagOf 0 v = true →
        (tail = rget .EQ_HEAD 0 e.val s →
          ∃ u, exec (.eqArmWrite e v) s = .next u ∧ onlyIn [.armed] s u ∧ u.armed.has e.val = true) ∧
        (tail ≠ rget .EQ_HEAD 0 e.val s → upstreamOk s = true → vectorOpen (fieldOf 10 0 cfg) s = true →
          Store.risesFrom 0 s.armed = true →
          ∃ u, exec (.eqArmWrite e v) s = .next u ∧ onlyIn [.armed, .sent] s u ∧ u.armed.has e.val = false ∧
            u.sent = s.sent ++ [vectorMsg (fieldOf 10 0 cfg) s])) ∧
      (hostReaches (regOff .EQ_CFG 0 e.val) s → ∀ v, RegName.EQ_CFG.desc.allows v = true → busyWrite .EQ_CFG 0 e.val v s = false →
        (flagOf 31 v = false ∨ rpair .EQ_BASE_LO .EQ_BASE_HI e.val s + 32 * 2 ^ fieldOf 20 16 v ≤ usable s) →
        ∃ u, exec (.eqCfgWrite e v) s = .next u ∧ onlyIn [.regs] s u ∧ otherRegs [regOff .EQ_CFG 0 e.val] s u ∧
          ∀ f ∈ RegName.EQ_CFG.desc.fields, f.acc = .rw → fieldOf f.hi f.lo (rget .EQ_CFG 0 e.val u) = fieldOf f.hi f.lo v))

/-! ### Memory, host link and Burivo -/

/-- A COPY is taken by a free DMA engine, which issues as many of its requests as it has tokens for, asking the host for a host source; at its
end the bytes stand at the destination, the packet's engine work is done and the engine's tokens are on their way back, one at a time, each
letting the next request go; a request's completion brings its token and restarts the copy's time; a COPY that breaks its ranges completes
with CONFIG, and one whose host read fails, fails its parity or is not answered in time with BUS, a failing TLP with an entry in the error
log, which it heads where no other stands there (R385, R386, R394, R403, R405, R415, R420). The model's choices: the data moves with
COPY_COMPLETE, once every request has had its completion, and the return of a token stands for a completion where none is under way (log
entry 125); the bits of the error log are PCI Express's (log entry 123, PRESUMED); a COPY with SEAL or CHECK on the host's
side breaks its ranges (log entry 35, DEDUCED). -/
def Obligations.CopiesMoveTheirData : Prop :=
  ∀ (q : Quad) (e : Fin 4) (s : State),
    let k := dmaNo q e
    let d := getDma k s
    let issued := fun (c : Copy) (n : Nat) (u : State) => u.sent = s.sent ++ if c.srcHost then (List.range n).map fun j =>
      let m := ceilDiv c.len 128 - c.todo + j
      .read (c.src + 128 * m) (min 128 (c.len - 128 * m)) else []
    let others := fun (u : State) => ∀ j, j ≠ k → getDma j u = getDma j s
    (∀ n i x, let p : PktId := ⟨n, i⟩; let b := x.bytes
      let c : Copy := ⟨p, leAt 32 8 b, leAt 40 8 b, leAt 48 8 b, byteAt 56 b, ceilDiv (leAt 48 8 b) 128, s.now⟩
      packetWaits p 2 x s →
      (copyBad b c s = false → d.copy = none → rflag .MC_CTRL 0 0 8 s = false →
        inService (·.coversQuad q.val) (some p) s = true → upstreamOk s = true →
        let s2 := modDma k (fun d => { d with copy := some c, out := 0 }) s
        let t := copyTokens c c.todo (getDma k s2) s2
        ∃ u, exec (.copy n i q e) s = .next u ∧ onlyIn [.rings, .mem, .sent] s u ∧ issued c t u ∧ others u ∧
          (findPkt p u).map Pkt.work = some .engine ∧ getDma k u = ⟨some { c with todo := c.todo - t }, t, d.back⟩) ∧
      (copyBad b c s = true → ∃ u, exec (.copy n i q e) s = .next u ∧ onlyIn [.rings] s u ∧
        findPkt p u = some { x with work := .done, code := max x.code 3 })) ∧
    (d.copy = none → 0 < d.back → ∃ u, exec (.dmaTokenReturn q e) s = .next u ∧ onlyIn [.mem] s u ∧ others u ∧
      getDma k u = { d with back := d.back - 1 }) ∧
    ∀ c x, d.copy = some c → findPkt c.pkt s = some x → upstreamOk s = true →
      let freed := fun (u : State) => others u ∧ getDma k u = ⟨none, 0, d.back + d.out⟩
      let allBack := c.todo = 0 ∧ d.out = 0
      let bus := fun (u : State) => freed u ∧ (findPkt c.pkt u).map (fun y => (y.work, y.code)) = some (.done, max x.code 5)
      let failed := fun (bit : Nat) (u : State) => bus u ∧ u.px.aer = s.px.aer ||| BitVec.ofNat 32 (2 ^ bit) ∧
        u.px.aerFirst = if aerMasked bit s = true ∨ flagOf s.px.aerFirst s.px.aer = true then s.px.aerFirst else bit
      (c.srcHost = true → c.dstHost = false → c.seal' = false → c.len = 32 → allBack → c.dst % 32 = 0 → s.mem.cline.length < 12 →
        sliceOn (c.dst / 128) s = true → Mem.wf s.mem = true → ∀ data : List Byte, data.length = 32 →
        ∃ u, exec (.copyComplete q e data .none) s = .next u ∧ onlyIn [.rings, .mem] s u ∧ freed u ∧
          (∀ j, j < 32 → peekByte (c.dst + j) u = nthD 0 j data) ∧
          (∀ a, ¬ (c.dst ≤ a ∧ a < c.dst + 32) → peekByte a u = peekByte a s) ∧ (findPkt c.pkt u).map Pkt.work = some .done) ∧
      (c.srcHost = true → allBack → 0 < c.len →
        (∃ u, exec (.copyComplete q e [] .host) s = .next u ∧ onlyIn [.rings, .mem] s u ∧ bus u ∧ ∀ a, peekByte a u = peekByte a s) ∧
        ∃ u, exec (.copyComplete q e [] .parity) s = .next u ∧ onlyIn eventParts s u ∧ bus u ∧
          rget .MC_PARITY_ERRS 0 0 u = rget .MC_PARITY_ERRS 0 0 s + 1) ∧
      (c.srcHost = false → c.dstHost = true → allBack → ∀ data s1,
        copyRead c.check c.pkt (c.src / 32) (c.len / 32) true s = (data, none, s1) → data ≠ [] →
        ∃ u, exec (.copyComplete q e [] .none) s = .next u ∧ onlyIn eventParts s u ∧ freed u ∧
          u.sent = s1.sent ++ [.dmaWrite c.dst data (relaxed s)] ∧ (findPkt c.pkt u).map Pkt.work = some .done) ∧
      (c.srcHost = true → 0 < d.out → timedOut c s = true →
        ∃ u, exec (.completionTimeout q e) s = .next u ∧ onlyIn [.rings, .mem, .px] s u ∧ failed 14 u) ∧
      (c.srcHost = true → (∃ u, exec (.poisonedTlp (.completion q e) false) s = .next u ∧ onlyIn [.rings, .mem, .px] s u ∧
          failed 12 u) ∧
        ∃ u, exec (.poisonedTlp (.completion q e) true) s = .next u ∧ onlyIn eventParts s u ∧ failed 19 u ∧
          rget .PX_ECRC_ERRS 0 0 u = rget .PX_ECRC_ERRS 0 0 s + 1) ∧
      (0 < d.back → let s2 := modDma k (fun d => { d with back := d.back - 1 }) s
        let t := copyTokens c c.todo (getDma k s2) s2
        ∃ u, exec (.dmaTokenReturn q e) s = .next u ∧ onlyIn [.mem, .sent] s u ∧ issued c t u ∧ others u ∧
          getDma k u = ⟨some { c with todo := c.todo - t }, d.out + t, d.back - 1⟩) ∧
      (d.back = 0 → let c2 := if 0 < d.out then { c with since := s.now } else c
        let s2 := modDma k (fun _ => ⟨some c2, d.out - 1, 0⟩) s
        let t := copyTokens c c.todo (getDma k s2) s2
        ∃ u, exec (.dmaTokenReturn q e) s = .next u ∧ onlyIn [.rings, .mem, .sent] s u ∧ issued c t u ∧ others u ∧
          getDma k u = ⟨some { c2 with todo := c.todo - t }, d.out - 1 + t, 0⟩)

/-- Host accesses: BAR2 reads and writes a rack's scratchpad, BAR4 reads and writes DRAM below U, in whole sectors; read data comes back cut at
every 64-byte boundary; a narrower write is discarded and counted; an access above U is aborted or discarded with its event; data that fails
its parity is not returned, or not written (R234, R385, R386, R389, R390, R403, R409, R415, Table 11.2). An upset comes as an operand of the
command that meets it, and an error of the write path is one of a buffer of quadrant 0 (log entry 121, DESIGN CHOICE). -/
def Obligations.HostAccessesToMemory : Prop :=
  ∀ (off : Nat) (s : State), s.pm.wiped = true → s.px.d3 = false →
    let returned := fun (bs : List Byte) => (cutAt64 (bs.length / 64 + 2) off bs).map HostMsg.readData
    (off < 2 ^ 27 → domainIsOff (rackDomain (off / 0x80000)) s = false →
      (∀ data : List Byte, off % 32 = 0 → data.length % 32 = 0 → off + data.length ≤ 2 ^ 27 → Store.wf 0 s.mem.sp = true →
        ∃ u, exec (.hostBar2Write off data true false) s = .next u ∧ onlyIn [.mem] s u ∧ onlySectors (off / 32) (data.length / 32) s u ∧
          u.mem.sp = Store.setN 0 off data s.mem.sp ∧ Store.getN 0 off data.length u.mem.sp = data) ∧
      (∀ (data : List Byte) be, off + data.length ≤ 2 ^ 27 → off % 32 ≠ 0 ∨ data.length % 32 ≠ 0 ∨ be = false →
        ∃ u, exec (.hostBar2Write off data be false) s = .next u ∧ onlyIn eventParts s u ∧ u.mem.sp = s.mem.sp ∧
          rget .MC_SUBSECTOR 0 0 u = rget .MC_SUBSECTOR 0 0 s + 1) ∧
      (∀ data : List Byte, off % 32 = 0 → data.length % 32 = 0 → off + data.length ≤ 2 ^ 27 →
        ∃ u, exec (.hostBar2Write off data true true) s = .next u ∧ onlyIn eventParts s u ∧ u.mem.sp = s.mem.sp ∧
          rget .MC_PARITY_ERRS 0 0 u = rget .MC_PARITY_ERRS 0 0 s + 1) ∧
      ∀ len, off + len ≤ 2 ^ 27 →
        (badSector (off / 0x80000) (off % 0x80000) len s = none →
          ∃ u, exec (.hostBar2Read off len false) s = .next u ∧ onlyIn [.sent] s u ∧
            u.sent = s.sent ++ returned (Store.getN 0 off len s.mem.sp)) ∧
        ∃ u, exec (.hostBar2Read off len true) s = .next u ∧ onlyIn eventParts s u ∧ u.sent.getLast? = some .abort ∧
          rget .MC_PARITY_ERRS 0 0 u = rget .MC_PARITY_ERRS 0 0 s + 1) ∧
    (domainIsOff 72 s = false → ∀ data : List Byte, off + data.length ≤ 2 ^ s.px.bar4Log2 →
      (data.length = 32 → off % 32 = 0 → off + 32 ≤ usable s → s.mem.cline.length < 12 → sliceOn (off / 128) s = true →
        Mem.wf s.mem = true →
        (∃ u, exec (.hostBar4Write off data true true) s = .next u ∧ onlyIn eventParts s u ∧
          rget .MC_PARITY_ERRS 0 0 u = rget .MC_PARITY_ERRS 0 0 s + 1) ∧
        ∃ u, exec (.hostBar4Write off data true false) s = .next u ∧ onlyIn [.mem] s u ∧
          (∀ j, j < 32 → peekByte (off + j) u = nthD 0 j data) ∧
          (∀ a, ¬ (off ≤ a ∧ a < off + 32) → peekByte a u = peekByte a s) ∧ u.mem.seals.find (off / 4096) = none) ∧
      (∀ be, off % 32 ≠ 0 ∨ data.length % 32 ≠ 0 ∨ be = false →
        ∃ u, exec (.hostBar4Write off data be false) s = .next u ∧ onlyIn eventParts s u ∧
          rget .MC_SUBSECTOR 0 0 u = rget .MC_SUBSECTOR 0 0 s + 1) ∧
      (off % 32 = 0 → data.length % 32 = 0 → usable s < off + data.length →
        ∃ u, exec (.hostBar4Write off data true false) s = .next u ∧ onlyIn eventParts s u ∧ rget .MC_SUBSECTOR 0 0 u = rget .MC_SUBSECTOR 0 0 s) ∧
      (∀ d s1, off + data.length ≤ usable s → readDram off data.length none s = (.ok d, s1) →
        (∃ u, exec (.hostBar4Read off data.length false) s = .next u ∧ onlyIn eventParts s u ∧ u.sent = s1.sent ++ returned d) ∧
        ∃ u, exec (.hostBar4Read off data.length true) s = .next u ∧ onlyIn eventParts s u ∧ u.sent.getLast? = some .abort ∧
          rget .MC_PARITY_ERRS 0 0 u = rget .MC_PARITY_ERRS 0 0 s + 1) ∧
      (∀ parity, usable s < off + data.length →
        ∃ u, exec (.hostBar4Read off data.length parity) s = .next u ∧ onlyIn eventParts s u ∧ u.sent.getLast? = some .abort))

/-- A good sector that returns from DRAM is installed in the shared cache and changes no byte; a failed one is a parity error; a scrub pass
checks sector by sector and counts the bad ones, and ends after its last sector, with its time in microseconds rounded up; what a link
corrected is counted; MC_CTRL ends every seal and holds the DMA engines; a trellis link sends a flit within its eight credits, or the flit
that its replay buffer holds after a failure, takes it where it is good, and goes down at the sixteenth failure in a row (R381, R388, R390,
R398 to R402, R406, R410). The model's readings: an error of a fill is its reader's, and the link's result is the command's operand (log
entry 121, DESIGN CHOICE); a flit is sent with its arrival (log entry 75, DEDUCED). -/
def Obligations.CacheScrubSealsAndTrellis : Prop :=
  ∀ s : State,
    (∀ sec, s.mem.csec.find sec = none → 32 * sec + 32 ≤ usable s →
      (s.mem.seals.find (sec / 128) = none → dramPar sec s.mem = parityOf (dramData sec s.mem) → sliceOn (sec / 4) s = true →
        s.mem.cline.length < 12 → Mem.wf s.mem = true →
        ∃ u, exec (.cacheFill sec .clean) s = .next u ∧ onlyIn [.mem] s u ∧
          u.mem.csec.find sec = some ⟨dramData sec s.mem, dramPar sec s.mem, false⟩ ∧ ∀ a, peekByte a u = peekByte a s) ∧
      exec (.cacheFill sec .failed) s = .next { s with mem := { s.mem with failed := s.mem.failed.add sec } }) ∧
    (hostReaches (regOff .MC_SCRUB_CTRL 0 0) s →
      (∀ v, RegName.MC_SCRUB_CTRL.desc.allows (setFlag 31 true v) = true → flagOf 30 v = false → s.mem.scrub = none →
        scrubBase s % 32 = 0 → scrubLen s % 32 = 0 → 32 ≤ scrubLen s → scrubBase s + scrubLen s ≤ usable s →
        ∃ u, exec (.scrubGo v) s = .next u ∧ onlyIn [.regs, .mem] s u ∧
          u.mem = { s.mem with scrub := some ⟨scrubBase s, scrubBase s + scrubLen s, s.now⟩ } ∧
          rget .MC_SCRUB_ERRORS 0 0 u = 0 ∧ rget .MC_SCRUB_TIME 0 0 u = 0 ∧ rfield .MC_SCRUB_CTRL 0 0 5 0 u = fieldOf 5 0 v) ∧
      ∀ p, s.mem.scrub = some p → ∃ u, exec .scrubAbort s = .next u ∧ onlyIn eventParts s u ∧ u.mem.scrub = none ∧
        rget .MC_SCRUB_TIME 0 0 u = BitVec.ofNat 32 (ceilDiv (s.now - p.since) 200)) ∧
    (∀ p link, s.mem.scrub = some p → let m := some { p with next := p.next + 32 }
      (p.next + 32 < p.stop →
        (sectorGood (p.next / 32) .clean s.mem = true →
          ∃ u, exec (.scrubSector .clean) s = .next u ∧ onlyIn [.mem] s u ∧ u.mem = { s.mem with scrub := m }) ∧
        (sectorGood (p.next / 32) .corrected s.mem = true → s.mem.csec.find (p.next / 32) = none →
          ∃ u, exec (.scrubSector .corrected) s = .next u ∧ onlyIn [.regs, .mem] s u ∧ u.mem = { s.mem with scrub := m } ∧
            rget .MC_LINK_CORR 0 0 u = rget .MC_LINK_CORR 0 0 s + 1) ∧
        (sectorGood (p.next / 32) link s.mem = false →
          ∃ u, exec (.scrubSector link) s = .next u ∧ onlyIn readParts s u ∧ shadowsOnly s u ∧ u.mem.scrub = m ∧
            rget .MC_SCRUB_ERRORS 0 0 u = rget .MC_SCRUB_ERRORS 0 0 s + 1 ∧ rget64 .MC_SCRUB_LAST 0 0 u = p.next % 2 ^ 64)) ∧
      (p.stop ≤ p.next + 32 →
        ∃ u, exec (.scrubSector link) s = .next u ∧ onlyIn readParts s u ∧ shadowsOnly s u ∧ u.mem.scrub = none ∧
          rget .MC_SCRUB_ERRORS 0 0 u = rget .MC_SCRUB_ERRORS 0 0 s + (if sectorGood (p.next / 32) link s.mem = true then 0 else 1) ∧
          rget .MC_SCRUB_TIME 0 0 u = BitVec.ofNat 32 (ceilDiv (s.now - p.since) 200))) ∧
    (hostReaches (regOff .MC_CTRL 0 0) s → goingOff 72 s = false →
      (writeOk .MC_CTRL 0 0 (setFlag 0 false (rget .MC_CTRL 0 0 s)) s = true →
        ∃ u, exec .sealDisable s = .next u ∧ onlyIn [.regs, .mem] s u ∧ u.mem = { s.mem with seals := [] } ∧
          rflag .MC_CTRL 0 0 0 u = false) ∧
      (writeOk .MC_CTRL 0 0 (setFlag 8 true (rget .MC_CTRL 0 0 s)) s = true → rflag .MC_CTRL 0 0 0 s = true →
        ∃ u, exec .dmaQuiesce s = .next u ∧ onlyIn [.regs] s u ∧ rflag .MC_CTRL 0 0 8 u = true)) ∧
    ∀ (r : Rack) (dir : Fin 4), let k := 4 * r.val + dir.val; let l := getLink k s
      (∀ flit, l.down = false → l.got < l.sent.length ∨ l.sent.length < 8 →
        let sent' := if l.got < l.sent.length then l.sent else l.sent ++ [flit]
        (∃ u, exec (.trellisFlitReceive r dir flit true) s = .next u ∧ onlyIn [.mem] s u ∧
          u.mem = { s.mem with tlink := s.mem.tlink.put k ⟨sent', l.got + 1, 0, false⟩ }) ∧
        ∃ u, exec (.trellisFlitReceive r dir flit false) s = .next u ∧ onlyIn eventParts s u ∧
          getLink k u = (if l.fails + 1 < 16 then ⟨sent', l.got, l.fails + 1, false⟩ else ⟨[], 0, l.fails + 1, true⟩) ∧
          rget .MC_TRELLIS_RETRIES 0 0 u = rget .MC_TRELLIS_RETRIES 0 0 s + if l.fails + 1 < 16 then 1 else 0) ∧
      (∀ flit crcOk, l.down = true ∨ (l.got = l.sent.length ∧ l.sent.length = 8) →
        exec (.trellisFlitReceive r dir flit crcOk) s = .next s) ∧
      (l.down = false → 0 < l.got → ∃ u, exec (.trellisCreditReturn r dir) s = .next u ∧ onlyIn [.mem] s u ∧
        u.mem = { s.mem with tlink := s.mem.tlink.put k { l with sent := l.sent.tail, got := l.got - 1 } })

/-- The host link: with Bus Master Enable 0 or in D3hot requests wait, and are issued in order when both allow it; unmasking a vector sends
the message that was pending; configuration requests are retried until configuration space is ready, then answered; BAR4 takes a size of 1
to 64 GiB; a poisoned TLP is logged, an ECRC failure logged and counted, and the first error that is not masked heads the log (R379, R412,
R417, R419 to R422, R424). The bits of configuration space and of the error log are PCI Express's, and a TLP's header is free (log entry 123,
PRESUMED); configuration space is ready from PCIE_LINK_UP on (log entry 41, DEDUCED); its vendor words are the board's (log entry 11). -/
def Obligations.HostLink : Prop :=
  ∀ s : State,
    exec .busMasterDisable s = .next { s with px := { s.px with bme := false } } ∧
    exec .d3hotEntry s = .next { s with px := { s.px with d3 := true } } ∧
    ((∀ m ∈ s.px.upstream, ∀ c d, m ≠ .event c d) →
      (s.px.d3 = false → ∃ u, exec .busMasterEnable s = .next u ∧ onlyIn [.px, .sent] s u ∧
        u.px = { s.px with bme := true, upstream := [] } ∧ u.sent = s.sent ++ s.px.upstream) ∧
      (s.px.bme = true → ∃ u, exec .d0Return s = .next u ∧ onlyIn [.px, .sent] s u ∧
        u.px = { s.px with d3 := false, upstream := [] } ∧ u.sent = s.sent ++ s.px.upstream)) ∧
    (∀ v : Fin 2048, s.px.d3 = false → ∃ u, exec (.msixUnmask v) s = .next u ∧ onlyIn [.px, .sent] s u ∧
      msixWord v.val 3 u = setFlag 0 false (msixWord v.val 3 s) ∧
      (s.px.msixEn = true → s.px.fnMask = false → s.px.bme = true → s.px.pba = [(v.val, ())] →
        u.px.pba = [] ∧ u.sent = s.sent ++ [vectorMsg v.val s])) ∧
    (s.px.perst = false → s.pm.coldHold = false → s.pm.pcieEn = true → ∀ off,
      (s.px.cfgReady = false → ∀ w, exec (.configRequest off w) s = .next { s with sent := s.sent ++ [.crs] }) ∧
      (s.px.cfgReady = true → ∃ u v, exec (.configRequest off none) s = .next u ∧ onlyIn [.sent] s u ∧
        u.sent = s.sent ++ [.cfgData v] ∧ (off < 4 → v = 0x40961FB7#32) ∧
        (off = 4 → flagOf 1 v = s.px.mse ∧ flagOf 2 v = s.px.bme)) ∧
      (s.px.cfgReady = true → ∀ v, s.px.upstream = [] → ∃ u, exec (.configRequest 4 (some v)) s = .next u ∧ onlyIn [.px] s u ∧
        u.px.mse = flagOf 1 v ∧ u.px.bme = flagOf 2 v)) ∧
    (∀ k : Fin 64, k.val ≤ 6 → s.px.cfgReady = true →
      exec (.resizableBarWrite k) s = .next { s with px := { s.px with bar4Log2 := 30 + k.val } }) ∧
    ∀ k, k = .write ∨ k = .request →
      let heads := fun (b : Nat) => aerMasked b s = false ∧ flagOf s.px.aerFirst s.px.aer = false
      (∃ u, exec (.poisonedTlp k true) s = .next u ∧ onlyIn eventParts s u ∧
        rget .PX_ECRC_ERRS 0 0 u = rget .PX_ECRC_ERRS 0 0 s + 1 ∧ u.px.aer = s.px.aer ||| 0x80000#32 ∧
        (heads 19 → u.px.aerFirst = 19) ∧ (¬ heads 19 → u.px.aerFirst = s.px.aerFirst ∧ u.px.aerHdr = s.px.aerHdr)) ∧
      (heads 12 → ∃ hdr, exec (.poisonedTlp k false) s = .next { s with px := { s.px with
        aer := s.px.aer ||| 0x1000#32
        aerFirst := 12
        aerHdr := hdr } }) ∧
      (¬ heads 12 → exec (.poisonedTlp k false) s = .next { s with px := { s.px with aer := s.px.aer ||| 0x1000#32 } })

/-- Burivo ports: a port that is enabled comes on and trains; trained, it is up with 32 credits on each channel; good flits keep it alive, bad
ones are replayed at its request, from the flits that its peer keeps until they are acknowledged, and the sixteenth failed replay, a silence
of 2 µs or its disabling takes it down; a down port trains again after 1 ms, and an attempt succeeds within 200 µs or leaves it down (R426 to
R429, R440, R531). The model's choices: a flit counts in the sequence where it carries messages, and commands name the next message of a
receive buffer (log entry 122, DESIGN CHOICE); what one loss brings falls in one rack clock (log entry 124, DESIGN CHOICE); what the links
leave out is log entry 76. Pod members: heartbeats go to every member with a route that is up; a member is present after 100 µs of
heartbeats of one epoch and lost after 2 µs of silence or at another epoch; a present member's store is written and acknowledged, or
rejected; an acknowledged message is no longer kept; a message for another member is sent on by its route (R431 to R436). -/
def Obligations.BurivoPortsAndMembers : Prop :=
   (∀ (p : Fin 4) (s : State),
      let k := getPort p.val s
      let lost := .pm :: .bv :: .threads :: .racks :: .sync :: .wraps :: .pos :: .free :: .opNames :: eventParts
      (hostReaches (regOff .BV_CTRL 0 0) s →
        (rflag .BV_CTRL 0 0 p.val s = false → writeOk .BV_CTRL 0 0 (setFlag p.val true (rget .BV_CTRL 0 0 s)) s = true →
          ∃ u, exec (.portEnable p) s = .next u ∧ onlyIn [.regs, .pm, .bv] s u ∧ rflag .BV_CTRL 0 0 p.val u = true ∧
            getPort p.val u = { Port.init with st := .training, lastTrain := s.now } ∧
            ∀ x, x ≠ p.val → getPort x u = getPort x s) ∧
        (rflag .BV_CTRL 0 0 p.val s = true → writeOk .BV_CTRL 0 0 (setFlag p.val false (rget .BV_CTRL 0 0 s)) s = true →
          ∃ u, exec (.portDisable p) s = .next u ∧ onlyIn lost s u ∧ rflag .BV_CTRL 0 0 p.val u = false ∧
            (getPort p.val u).st = .disabled ∧ domainIsOff (74 + p.val) u = true ∧
            rget .BV_PORT_DOWNS 0 p.val u = rget .BV_PORT_DOWNS 0 p.val s + if k.st = .up then 1 else 0) ∧
        (writeOk .BV_CTRL 0 0 (setFlag 8 true (rget .BV_CTRL 0 0 s)) s = true →
          ∃ u, exec .bvQuiesce s = .next u ∧ onlyIn [.regs] s u ∧ rflag .BV_CTRL 0 0 8 u = true)) ∧
      (k.st = .up →
        (∀ (f : Flit) corrected,
          let fec := fun (u : State) => rget .BV_PORT_FEC 0 p.val u = rget .BV_PORT_FEC 0 p.val s + if corrected then 1 else 0
          let ms := flitMsgs f
          (flitFits f = true → f.seq = k.rxSeq → ms = [] ∨ (k.rx f.vc).length < 32 →
            ∃ u, exec (.burivoFlitReceive p f corrected true) s = .next u ∧ onlyIn [.regs, .bv, .sent] s u ∧ fec u ∧
              let j := getPort p.val u
              let kept := k.buf.filter fun x => decide (f.ack ≤ x.1)
              (k.txq = [] → j.buf = kept ∧ u.sent = s.sent ++ if f.replay then kept.map (·.2) else []) ∧
              j.st = .up ∧ j.fails = 0 ∧ j.replaying = false ∧ j.lastRx = s.now ∧
                j.rxSeq = k.rxSeq + (if ms = [] then 0 else 1) ∧ (j.rx f.vc = k.rx f.vc ++ if ms = [] then [] else [ms]) ∧
                (∀ vc, vc ≠ f.vc → j.rx vc = k.rx vc) ∧
                (∀ a b, f.load = .credits a b → j.back0 = k.back0 + a ∧ j.back1 = k.back1 + b)) ∧
          (flitFits f = false ∨ f.seq ≠ k.rxSeq ∨ (ms ≠ [] ∧ 32 ≤ (k.rx f.vc).length) →
            ∃ u, exec (.burivoFlitReceive p f corrected true) s = .next u ∧ onlyIn [.regs, .bv] s u ∧ fec u ∧
              getPort p.val u = { k with lastRx := s.now }) ∧
          (¬ (k.replaying = true ∧ 15 ≤ k.fails) →
            ∃ u, exec (.burivoFlitReceive p f corrected false) s = .next u ∧ onlyIn [.regs, .bv, .sent] s u ∧ fec u ∧
              u.sent = s.sent ++ [.flitReplay p.val k.rxSeq] ∧
              getPort p.val u = { k with fails := if k.replaying then k.fails + 1 else 0, replaying := true } ∧
              rget .BV_PORT_REPLAYS 0 p.val u = rget .BV_PORT_REPLAYS 0 p.val s + 1) ∧
          (k.replaying = true → 15 ≤ k.fails →
            ∃ u, exec (.burivoFlitReceive p f corrected false) s = .next u ∧ onlyIn lost s u ∧ (getPort p.val u).st = .down ∧
              rget .BV_PORT_DOWNS 0 p.val u = rget .BV_PORT_DOWNS 0 p.val s + 1)) ∧
        (∀ vc : Fin 2, 0 < k.back vc → let k' := if vc = 0 then { k with cred0 := min 32 (k.cred0 + 1), back0 := k.back0 - 1 }
            else { k with cred1 := min 32 (k.cred1 + 1), back1 := k.back1 - 1 }
          (k.txq = [] → ∃ u, exec (.burivoCreditReturn p vc) s = .next u ∧ onlyIn [.bv] s u ∧ getPort p.val u = k') ∧
          ∀ e rest, k.txq = e :: rest → k'.maySend e.1 = true →
            ∃ u, exec (.burivoCreditReturn p vc) s = .next u ∧ onlyIn [.bv, .sent] s u ∧ s.sent ++ [e.2] <+: u.sent) ∧
        (∀ vc : Fin 2, k.back vc = 0 → exec (.burivoCreditReturn p vc) s = .next s) ∧
        (∃ u, exec (.idleFlitSend p) s = .next u ∧ onlyIn [.bv, .sent] s u ∧ getPort p.val u = { k with lastTx := s.now } ∧
          u.sent = s.sent ++ [.flitIdle p.val]) ∧
        (k.lastRx + 400 ≤ s.now →
          ∃ u, exec (.portLivenessTimeout p) s = .next u ∧ onlyIn lost s u ∧ (getPort p.val u).st = .down ∧
            rget .BV_PORT_DOWNS 0 p.val u = rget .BV_PORT_DOWNS 0 p.val s + 1)) ∧
      (k.st = .down ∨ k.st = .training → rflag .BV_CTRL 0 0 p.val s = true → k.lastTrain + 200000 ≤ s.now →
        ∃ u, exec (.portTrainingAttempt p) s = .next u ∧ onlyIn [.bv] s u ∧
          getPort p.val u = { k with st := .training, lastTrain := s.now }) ∧
      (∀ lanes, k.st = .training → k.lastTrain + 40000 < s.now → exec (.portTrained p lanes) s = .next s) ∧
      (k.st = .training → s.now ≤ k.lastTrain + 40000 → ∀ lanes,
        ∃ u, exec (.portTrained p lanes) s = .next u ∧ onlyIn (.bv :: eventParts) s u ∧ (getPort p.val u).st = .up ∧
          (getPort p.val u).cred0 = 32 ∧ (getPort p.val u).cred1 = 32 ∧ (getPort p.val u).lastRx = s.now)) ∧
   (∀ s : State,
      (∀ ms, ms = ((List.range 16).filter fun m => rflag .BV_MEMBERS 0 0 m s && decide (m ≠ ownMember s) && routeUp m s) →
        (∀ m ∈ ms, let j := getPort (routePort m s) s; 16 ≤ j.cred0 ∧ 16 ≤ j.cred1 ∧ j.buf.length + 16 ≤ 64) →
        ∃ u, exec .heartbeatSend s = .next u ∧ onlyIn [.bv, .sent] s u ∧ u.sent = s.sent ++ ms.map fun m =>
          .burivo (routePort m s) (routeVc1 m s) (ownMember s) m 0 (.heartbeat s.bv.epoch)) ∧
      ∀ (via : Via) (m : Member), let next' := fun (load : PeerLoad) => hasMsg via m load s = true
        let k := Store.getD PeerRec.init m.val s.bv.peers
        let lost := .bv :: .threads :: .racks :: .sync :: .wraps :: .pos :: .free :: .opNames :: eventParts
        let acked := fun (accepted : Bool) (u : State) => answerable m.val s →
          u.sent.getLast? = some (.burivo (routePort m.val s) (routeVc1 m.val s) (ownMember s) m.val 0 (.ack via.id accepted))
        (via.dest.val = ownMember s →
          (memberPresent m.val s = true →
            (next' (.heartbeat k.epoch) → ∃ u, exec (.heartbeatReceive via m k.epoch) s = .next u ∧ onlyIn [.bv, .sent] s u ∧
              memberPresent m.val u = true ∧
              (Store.getD PeerRec.init m.val u.bv.peers).last = s.now) ∧
            (∀ e, e ≠ k.epoch → next' (.heartbeat e) →
              ∃ u, exec (.heartbeatReceive via m e) s = .next u ∧ onlyIn lost s u ∧ memberPresent m.val u = false) ∧
            (k.last + 400 ≤ s.now →
              ∃ u, exec (.peerLivenessTimeout m) s = .next u ∧ onlyIn lost s u ∧ memberPresent m.val u = false ∧
                (Store.getD PeerRec.init m.val u.bv.peers).seen = false) ∧
            (∀ off (data : List Byte), off % 32 = 0 → data.length % 32 = 0 → off < 0x8000000 →
              off % 0x80000 + data.length ≤ 0x80000 → Store.wf 0 s.mem.sp = true → next' (.store (0x1000000000 + off) data) →
              ∃ u, exec (.peerMessageReceive via m (0x1000000000 + off) data) s = .next u ∧ onlyIn [.bv, .mem, .sent] s u ∧
                onlySectors (off / 32) (data.length / 32) s u ∧ u.mem.sp = Store.setN 0 off data s.mem.sp ∧
                Store.getN 0 off data.length u.mem.sp = data ∧ acked true u) ∧
            (∀ addr data, peerWriteOk addr data s = false → next' (.store addr data) →
              ∃ u, exec (.peerMessageReceive via m addr data) s = .next u ∧ onlyIn (.bv :: eventParts) s u ∧ u.mem.sp = s.mem.sp ∧
                acked false u) ∧
            ∀ x ∈ s.bv.msgs, (∀ y ∈ s.bv.msgs, y.id = x.id → y = x) →
              (next' (.ack x.id true) → ∃ u, exec (.peerAckReceive via m x.id true) s = .next u ∧ onlyIn [.bv, .rings, .sent] s u ∧
                u.bv.msgs = s.bv.msgs.filter fun y => decide (y.id ≠ x.id)) ∧
              (next' (.ack x.id false) → ∃ u, exec (.peerAckReceive via m x.id false) s = .next u ∧ onlyIn [.bv, .rings, .sent, .threads] s u ∧
                (u.bv.msgs = s.bv.msgs.filter fun y => decide (y.id ≠ x.id)) ∧
                ∀ p y, x.pkt = some p → findPkt p s = some y → ∃ z, findPkt p u = some z ∧ z.flags.testBit 30 = true)) ∧
          (memberPresent m.val s = false → next' (.heartbeat k.epoch) → k.seen = true → s.now < k.last + 400 → k.runStart + 20000 ≤ s.now →
            ∃ u, exec (.heartbeatReceive via m k.epoch) s = .next u ∧ onlyIn (.bv :: eventParts) s u ∧ memberPresent m.val u = true)) ∧
        (via.dest.val ≠ ownMember s →
          let d := via.dest.val
          let vc1 := decide (via.vc = 1) || routeVc1 d s
          let on := fun (i : Instr) (load : PeerLoad) => next' load → ∃ u, exec i s = .next u ∧ onlyIn [.bv, .sent] s u ∧
            (routeUp d s = true → (getPort (routePort d s) s).maySend vc1 = true →
              u.sent.getLast? = some (.burivo (routePort d s) vc1 m.val d via.id load))
          (∀ e, on (.heartbeatReceive via m e) (.heartbeat e)) ∧
          (∀ addr data, on (.peerMessageReceive via m addr data) (.store addr data)) ∧
          (∀ id ok, on (.peerAckReceive via m id ok) (.ack id ok)) ∧
          ∀ o v, on (.remoteSignalArrive via m o v) (.signal o v)))

/-! ### Position clock, front end, calibration -/

/-- The position clock counts: one accepted change of the encoder, or one due count of the synthetic source, moves the count by one in its
direction, H by what the position rises above it, the frame number where the frame length is reached; two changes at once are an error
that moves nothing; a level that did not hold for the filter's time is discarded; an index closes its interval and is checked against
POS_CPR (R442 to R444, R446, R447, R452 to R454, R478). PPS edges are
latched and missed ones noticed; a rate window ends with its counts held against POS_RATE_MAX; POS_STILL milliseconds without a count
declare idle; reads of POS_COUNT_LO and POS_PPS_LO capture what they belong to; a table entry is installed whole and keeps FIRED; the scan
fires a valid entry whose condition holds, as it stood before an install of the same step clock: one without a pitch is done, one with a
pitch moves by the smallest multiple that makes its condition false, and the pitches it misses are counted (R445, R448, R449, R457 to
R460, R479). The model's readings: the events of the clock (log entry 81, DEDUCED); idle stands after the step clock in which the time
expires (log entry 139, DEDUCED); the scan is at entry 0 in a multiple of 256 step clocks (log entry 140, DESIGN CHOICE). -/
def Obligations.PositionCountsAndTable : Prop :=
   (∀ s : State,
      let counted := fun (up : Bool) (u : State) =>
        let c := s.pos.count + BitVec.ofInt 48 (if up then 1 else -1)
        let h := max s.pos.high (posUm { s with pos := { s.pos with count := c } })
        u.pos.count = c ∧ u.pos.high = h ∧ u.pos.frame = s.pos.frame +
          if ((rget .POS_FRAME_LEN 0 0 s).toNat : Int) ≤ s.pos.dist + (h - s.pos.high) then 1 else 0
      (∀ a b held, accepted held s = true →
        (s.pos.src = 0 → (xor (a != s.pos.a) (b != s.pos.b)) = true →
          ∃ u, exec (.encoderEdge a b held) s = .next u ∧ onlyIn boundaryParts s u ∧ u.pos.a = a ∧ u.pos.b = b ∧
            counted (xor (quadUp s.pos.a s.pos.b a b) s.pos.dir) u) ∧
        (s.pos.src = 0 → a ≠ s.pos.a → b ≠ s.pos.b →
          ∃ u, exec (.encoderEdge a b held) s = .next u ∧ onlyIn (.pos :: eventParts) s u ∧ u.pos.a = a ∧ u.pos.b = b ∧
            u.pos.count = s.pos.count ∧ rget .POS_QUAD_ERRS 0 0 u = rget .POS_QUAD_ERRS 0 0 s + 1) ∧
        (s.pos.src ≠ 0 → exec (.encoderEdge a b held) s = .next { s with pos := { s.pos with a := a, b := b } })) ∧
      (∀ a b held, accepted held s = false → exec (.encoderEdge a b held) s = .next s ∧ exec (.indexEdge held) s = .next s ∧
        exec (.ppsEdge held) s = .next s) ∧
      (s.pos.src = 1 → rateDue s = true →
        ∃ u, exec .syntheticCount s = .next u ∧ onlyIn boundaryParts s u ∧ counted (!rflag .POS_SYN_RATE 0 0 31 s) u) ∧
      (s.pos.src = 2 → s.pos.synDebt ≠ 0 → s.pos.synLast < s.now →
        ∃ u, exec .syntheticCount s = .next u ∧ onlyIn boundaryParts s u ∧ counted (decide (0 < s.pos.synDebt)) u) ∧
      (∀ v : Word, hostReaches (regOff .POS_SYN_STEP 0 0) s → s.pos.src = 2 → -2048 ≤ signedOf 16 v.toNat →
        signedOf 16 v.toNat ≤ 2047 →
        exec (.posSynStepWrite v) s = .next { s with pos := { s.pos with synDebt := s.pos.synDebt + signedOf 16 v.toNat } }) ∧
      (∀ held, accepted held s = true → s.pos.src = 0 → (rget .POS_CPR 0 0 s).toNat ≠ 0 →
        let net := s.pos.idxNet
        let diff := if net < 0 then net + (rget .POS_CPR 0 0 s).toNat else net - (rget .POS_CPR 0 0 s).toNat
        ∃ u, exec (.indexEdge held) s = .next u ∧ onlyIn (.pos :: eventParts) s u ∧
          u.pos = { s.pos with idxNet := 0, idxFirst := false, idxTurned := false, idxDir := none } ∧
          rget .POS_IDX_ERRS 0 0 u = rget .POS_IDX_ERRS 0 0 s +
            if s.pos.idxFirst = false ∧ s.pos.idxTurned = false ∧ rfield .POS_CHECK 0 0 15 8 s < diff.natAbs then 1 else 0)) ∧
   (∀ s : State,
      (∀ held, accepted held s = true → ∃ u, exec (.ppsEdge held) s = .next u ∧ onlyIn (.pos :: eventParts) s u ∧
        u.pos = { s.pos with pps := s.now, ppsSeen := true, ppsOk := true }) ∧
      (s.pos.ppsOk = true → s.pos.pps + 300000000 ≤ s.now →
        ∃ u, exec .ppsLost s = .next u ∧ onlyIn (.pos :: eventParts) s u ∧ u.pos = { s.pos with ppsOk := false }) ∧
      (s.pos.winStart + 20000 ≤ s.now →
        ∃ u, exec .rateWindowEnd s = .next u ∧ onlyIn (.pos :: eventParts) s u ∧
          u.pos = { s.pos with winCounts := 0, winStart := s.now } ∧ rget .POS_RATE_ERRS 0 0 u = rget .POS_RATE_ERRS 0 0 s +
            if rfield .POS_RATE_MAX 0 0 20 0 s < s.pos.winCounts * 10000 then 1 else 0) ∧
      (s.pos.idle = false → s.pos.lastCount + rfield .POS_STILL 0 0 15 0 s * 200000 < s.now →
        ∃ u, exec .idleDeclare s = .next u ∧ onlyIn boundaryParts s u ∧ u.pos.idle = true ∧ u.pos.idleCount = s.pos.count ∧
          u.pos.idleAt = s.now ∧ u.pos.count = s.pos.count ∧ u.pos.frame = s.pos.frame ∧ u.pos.src = rfield .POS_CTRL 0 0 1 0 s ∧
          u.pos.dir = rflag .POS_CTRL 0 0 2 s) ∧
      (hostReaches (regOff .POS_COUNT 0 0) s → exec .posCaptureRead s = .next { s with
        pos := { s.pos with capCount := s.pos.count.toNat, capP := posUm s, capFrame := posFrame s }
        sent := s.sent ++ [.regData (BitVec.ofNat 32 s.pos.count.toNat)] }) ∧
      (hostReaches (regOff .POS_PPS 0 0) s → exec .ppsCaptureRead s = .next { s with
        pos := { s.pos with capPps := s.pos.pps }
        sent := s.sent ++ [.regData (BitVec.ofNat 32 s.pos.pps)] }) ∧
      (∀ v : Word, let e := rfield .PET_SEL 0 0 11 0 s
        let w := petStaged 0 s + 2 ^ 32 * petStaged 1 s + 2 ^ 64 * petStaged 2 s + 2 ^ 96 * v.toNat
        hostReaches (regOff .PET_W 0 3) s → e + rfield .RG_GATE_POOL 0 0 11 0 s < 4096 → petAllowed w = true →
        Store.wf 0 s.pos.pet = true →
        ∃ u, exec (.petEntryWrite v) s = .next u ∧ onlyIn [.pos] s u ∧ (∀ x, x ≠ e → petGet x u = petGet x s) ∧
          (∀ b, b ≠ 121 → bitAt b (petGet e u) = bitAt b w) ∧ bitAt 121 (petGet e u) = bitAt 121 (petGet e s)) ∧
      ∀ n : Fin 4096, let w := petSeen n.val s
        let pitch := bits 95 64 w
        bitAt 120 w = true → petHolds w s = true → petTurn n.val s = true → Store.wf 0 s.pos.pet = true →
        ∃ u, exec (.petEntryFire n) s = .next u ∧ onlyIn (.pos :: .fe :: .cellar :: eventParts) s u ∧
          (∀ x, x ≠ n.val → petGet x u = petGet x s) ∧ (petNew n.val s = true → petGet n.val u = petGet n.val s) ∧
          (pitch = 0 → rget .PET_MISSES 0 0 u = rget .PET_MISSES 0 0 s ∧ (petNew n.val s = false →
            bitAt 120 (petGet n.val u) = false ∧ bitAt 121 (petGet n.val u) = true ∧ petGet n.val u % 2 ^ 120 = w % 2 ^ 120)) ∧
          (pitch ≠ 0 → ∃ k : Nat, 0 < k ∧ rget .PET_MISSES 0 0 u = rget .PET_MISSES 0 0 s + BitVec.ofNat 32 (k - 1) ∧
            (let moved := fun (pos : Int) (bound : Nat) => petNew n.val s = false →
              petGet n.val u / 2 ^ 64 = w / 2 ^ 64 ∧ petGet n.val u % 2 ^ 64 = patternOf bound pos
             (bits 117 116 w = 0 → posUm s < signedOf 64 w + k * pitch ∧ signedOf 64 w + (k - 1) * pitch ≤ posUm s ∧
              moved (signedOf 64 w + k * pitch) 64) ∧
             (bits 117 116 w = 1 → signedOf 64 w - k * pitch < posUm s ∧ posUm s ≤ signedOf 64 w - (k - 1) * pitch ∧
              moved (signedOf 64 w - k * pitch) 64) ∧
             (bits 117 116 w = 2 → posFrame s < bits 47 0 w + k * pitch ∧ bits 47 0 w + (k - 1) * pitch ≤ posFrame s ∧
              moved ((bits 47 0 w + k * pitch : Nat) : Int) 48))))

/-- ADC sequences: a trigger from the timer or from software starts the delay of an enabled sequence at rest and is an overrun in its delay or
pass; a pass samples step, position, frame and vintage at its first sampling instant; at its end a regular pass puts its record into the
buffer or counts it lost, an injected pass puts its results in FE_INJ_DATA; a missing trigger is reported; the reference settles in its
time, and REFIN is measured once in 1 ms and its faults are seen (R461 to R468). The codes and REFIN are operands (log entry 5, DESIGN
CHOICE), ADC_PASS_START stands at the first sampling instant (log entry 36, DESIGN CHOICE), and overruns and timeouts are as log entry 79
reads them (DEDUCED). -/
def Obligations.AdcSequences : Prop :=
  ∀ s : State, feOn s = true →
    let ready := fun (inj : Bool) => calHoldsAdc s = false ∧ rflag .FE_ADC_CTRL 0 0 31 s = true ∧ seqLen inj s ≠ 0 ∧
      (getSeq inj s).st = 0
    let begun := fun (inj : Bool) (u : State) =>
      getSeq inj u = { getSeq inj s with st := 1, trig := s.now, lastTrig := s.now, gaps := [], redone := false } ∧
        getSeq (!inj) u = getSeq (!inj) s
    (s.now % (rget .FE_TIMER 0 0 s).toNat = 0 → s.fe.timerAt ≠ some s.now →
      ∀ inj, ready inj → trigSrc inj s = 1 → trigSrc (!inj) s ≠ 1 →
      ∃ u, exec .adcTimerTrigger s = .next u ∧ onlyIn [.fe] s u ∧ begun inj u) ∧
    (hostReaches (regOff .FE_SW_TRIG 0 0) s →
      (trigSrc false s = 4 → (ready false →
          ∃ u, exec .adcSoftwareTriggerRegular s = .next u ∧ onlyIn [.fe] s u ∧ begun false u) ∧
        (calHoldsAdc s = false → s.fe.reg.st ≠ 0 →
          ∃ u, exec .adcSoftwareTriggerRegular s = .next u ∧ onlyIn (.fe :: eventParts) s u ∧ u.fe.reg.st = s.fe.reg.st ∧
            rget .FE_OVERRUNS 0 0 u = rget .FE_OVERRUNS 0 0 s + 1)) ∧
      (trigSrc true s = 4 → ready true →
        ∃ u, exec .adcSoftwareTriggerInjected s = .next u ∧ onlyIn [.fe] s u ∧ begun true u)) ∧
    (∀ inj, (getSeq inj s).st = 1 → firstSample inj s ≤ s.now →
      (inj = false → s.fe.inj.st ≠ 2 ∧ (s.fe.inj.st = 1 → firstSample false s ≤ delayEnd true s)) → calHoldsAdc s = false →
      ∃ u, exec (.adcPassStart inj) s = .next u ∧ onlyIn [.fe] s u ∧
        getSeq inj u = { getSeq inj s with st := 2, step := s.now, pos := posUm s, frame := posFrame s, vint := s.cal.inForce }) ∧
    (∀ raw, passOver false s = true → let wr := rget .FE_BUF_WR 0 0 s
      ∃ u, exec (.adcPassEnd raw) s = .next u ∧ onlyIn (.fe :: .free :: eventParts) s u ∧ u.fe.reg.st = 0 ∧
        u.fe.seqno = s.fe.seqno + 1 ∧
        ((wr - rget .FE_BUF_RD 0 0 s).toNat ≠ 2 ^ rfield .FE_BUF_CFG 0 0 4 0 s →
          rget .FE_BUF_WR 0 0 u = wr + 1 ∧ rget .FE_LOST 0 0 u = rget .FE_LOST 0 0 s) ∧
        ((wr - rget .FE_BUF_RD 0 0 s).toNat = 2 ^ rfield .FE_BUF_CFG 0 0 4 0 s →
          rget .FE_BUF_WR 0 0 u = wr ∧ rget .FE_LOST 0 0 u = rget .FE_LOST 0 0 s + 1)) ∧
    (∀ raw, passOver true s = true →
      ∃ u, exec (.injectedPassEnd raw) s = .next u ∧ onlyIn (.fe :: .free :: eventParts) s u ∧ u.fe.inj.st = 0 ∧
        ∀ j, j < 4 → j < seqLen true s →
          fieldOf (16 * (j % 2) + 15) (16 * (j % 2)) (rget .FE_INJ_DATA 0 (j / 2) u) =
            patternOf 16 (nthD 0 j (passResults true raw s))) ∧
    (∀ inj, rflag .FE_ADC_CTRL 0 0 31 s = true → trigSrc inj s = 2 ∨ trigSrc inj s = 3 → s.pos.idle = false →
      rfield (trigReg inj) 0 0 23 16 s ≠ 0 → (getSeq inj s).lastTrig + rfield (trigReg inj) 0 0 23 16 s * 200000 ≤ s.now →
      ∃ u, exec (.adcTriggerTimeout inj) s = .next u ∧ onlyIn (.fe :: eventParts) s u ∧
        getSeq inj u = { getSeq inj s with lastTrig := s.now }) ∧
    (∀ mv, (∀ t, s.fe.refinAt = some t → t + 200000 ≤ s.now) →
      ∃ u, exec (.refinMeasure mv) s = .next u ∧ onlyIn (.fe :: eventParts) s u ∧
        u.fe = { s.fe with refinMv := mv % 65536, refFault := decide (mv < 2000 ∨ 2600 < mv), refinAt := some s.now }) ∧
    (∀ t, s.fe.refSince = some t → s.fe.settled = false → t + settleClocks (rfield .FE_ADC_CTRL 0 0 1 0 s) ≤ s.now →
      exec .refSettleEnd s = .next { s with fe := { s.fe with settled := true } })

/-- DAC channels and trigger outputs: every 200 step clocks each channel puts out DEFAULT, CODE or its waveform, whose phase advances by INC;
missing read-backs are a fault, again for each further time without one, that its status clears; table 1 is written while no channel uses it
and read through its index; an output in mode 1 starts its periods, and a pulse ends after B step clocks (R469 to R477). What a fault leaves
on the output and when it counts again are log entries 80 and 141 (DEDUCED), a group's ranges log entry 82 (DEDUCED). -/
def Obligations.DacsAndTriggerOutputs : Prop :=
  ∀ s : State, feOn s = true →
    (s.now % 200 = 0 → s.fe.updateAt ≠ some s.now →
      ∃ u, exec .dacUpdate s = .next u ∧ onlyIn (.fe :: .staged :: .applies :: .pm :: eventParts) s u ∧
        ∀ n, n < 8 → let d := getDac n s
          d.fault = false → d.clearPhase = false →
          (dacMode n s = 0 → d.defaultOk = true → (getDac n u).out = d.defaultCode ∧ (getDac n u).hiZ = false) ∧
          (dacMode n s = 0 → d.defaultOk = false → (getDac n u).out = d.out ∧ (getDac n u).hiZ = true) ∧
          (dacMode n s = 1 → (getDac n u).out = rfield .FE_DAC_CODE 0 n 15 0 s ∧ (getDac n u).hiZ = false) ∧
          (dacMode n s = 2 → s.applies.find (regOff .FE_DAC_COMMIT 0 n) = none →
            (getDac n u).phase = d.phase + BitVec.ofNat 32 (rget .FE_DAC_INC 0 n s).toNat ∧
            (getDac n u).out = (clampInt 0 65535 ((rfield .FE_DAC_WAVE 0 n 15 0 s : Int) +
              roundAway (rfield .FE_DAC_WAVE 0 n 30 16 s * waveEntry n ((getDac n u).phase.toNat / 2 ^ 20) s) 32768)).toNat)) ∧
    (∀ n : Fin 8, let d := getDac n.val s
      rfield .FE_DAC_SUP 0 n.val 31 16 s ≠ 0 → dacMode n.val s ≠ 0 → rfield .FE_DAC_CTRL 0 n.val 5 2 s ≠ 0 →
      calHoldsAdc s = false → d.lastCompare + rfield .FE_DAC_SUP 0 n.val 31 16 s * 200000 ≤ s.now →
      ∃ u, exec (.dacSupTimeout n) s = .next u ∧ onlyIn (.fe :: eventParts) s u ∧ (getDac n.val u).fault = true ∧
        (getDac n.val u).cause = 1 ∧ (getDac n.val u).lastCompare = s.now ∧ ∀ m, m ≠ n.val → getDac m u = getDac m s) ∧
    (∀ (n : Fin 8) v, let d := getDac n.val s
      hostReaches (regOff .FE_DAC_STATUS 0 n.val) s →
      ∃ u, exec (.dacFaultClear n v) s = .next u ∧ onlyIn [.fe] s u ∧ (∀ m, m ≠ n.val → getDac m u = getDac m s) ∧
        getDac n.val u = { d with fault := d.fault && !(flagOf 31 v && decide (d.faultAt ≠ some s.now)), clip := d.clip && !flagOf 28 v }) ∧
    (hostReaches (regOff .FE_TBL_DATA 0 0) s →
      let i := rfield .FE_TBL_IDX 0 0 11 0 s
      (∀ v : Word, tblQuiesced s = true → Store.wf 0 s.fe.tbl = true →
        ∃ u, exec (.feTblDataAccess (some v)) s = .next u ∧ onlyIn [.fe, .regs] s u ∧
          Store.getD 0 i u.fe.tbl = BitVec.ofNat 16 v.toNat ∧ (∀ j, j ≠ i → Store.getD 0 j u.fe.tbl = Store.getD 0 j s.fe.tbl) ∧
          rfield .FE_TBL_IDX 0 0 11 0 u = (i + 1) % 4096) ∧
      ∃ u, exec (.feTblDataAccess none) s = .next u ∧ onlyIn [.regs, .sent] s u ∧
        u.sent = s.sent ++ [.regData (BitVec.ofNat 32 (Store.getD 0 i s.fe.tbl).toNat)] ∧
        rfield .FE_TBL_IDX 0 0 11 0 u = (i + 1) % 4096) ∧
    ∀ n : Fin 16, let t := getTrig n.val s
      (trigMode n.val s = 1 → t.periodStart + max 1 (rget .FE_PWM_A 0 n.val s).toNat ≤ s.now →
        s.applies.find (regOff .FE_PWM_COMMIT 0 n.val) = none →
        ∃ u, exec (.trigTimePeriod n) s = .next u ∧ onlyIn (.fe :: eventParts) s u ∧ (getTrig n.val u).periodStart = s.now ∧
          (rget .FE_PWM_B 0 n.val s ≠ 0 → (getTrig n.val u).active = true ∧
            (getTrig n.val u).pulseEnd = s.now + (rget .FE_PWM_B 0 n.val s).toNat)) ∧
      (trigMode n.val s ≤ 1 ∨ s.applies.find (regOff .FE_PWM_COMMIT 0 n.val) = none → t.active = true → t.pulseEnd ≤ s.now →
        ∃ u, exec (.trigPulseEnd n) s = .next u ∧ onlyIn [.fe] s u ∧ getTrig n.val u = { t with active := false } ∧
          ∀ m, m ≠ n.val → getTrig m u = getTrig m s)

/-- A valid GO takes its scope and target, and a procedure of the front end holds the ADCs at once, a whole-device one every cask that no other
work holds; the holds of casks are complete when no other hold is in their way; ABORT marks the procedure. With its casks held a procedure
makes its first reference reads, then, where its measurements agree and its trims fit, its second ones; at its end nothing is held on,
one that is aborted or rejected reports its result, counts in CAL_REJECTS and leaves the vintages as they were, and one that succeeds writes
the next vintage to the slot that is not in force, where a record that fails its check leaves none (R483 to R488, R491 to R496). The model's
choices: what it measures is an operand (log entry 5, DESIGN CHOICE), a claimed cask gets no new hold (log entry 84, DEDUCED), the slot and
the rounding are log entries 85 and 127 (DEDUCED), and CAL_END goes from one read to the next (log entry 114, DEDUCED). -/
def Obligations.CalibrationProcedures : Prop :=
  ∀ s : State,
    let started := fun (scope : Nat) (v : Word) (i : Instr) =>
      flagOf 31 v = true → fieldOf 3 0 v = scope → writeOk .CAL_CTRL 0 0 v s = true → calBusy s = false →
        s.cal.pendingSlot = none → calValid scope (fieldOf 27 16 v) s = true →
        ∃ u r, exec i s = .next u ∧ onlyIn [.regs, .cal, .fe, .casks] s u ∧ u.cal.run = some r ∧ r.scope = scope ∧
          r.target = fieldOf 27 16 v ∧ r.refcal = (rget .CAL_REFCAL_UV 0 0 s).toNat ∧ r.aborted = false ∧ r.trimmed = none ∧
          r.holding = decide (scope ≤ 3) ∧ (scope ≤ 3 → u.fe.reg.st ≠ 1 ∧ u.fe.inj.st ≠ 1) ∧
          ∀ c, getCask c u = if scope = 5 ∧ c < 4096 then { getCask c s with hold := some ((getCask c s).hold.getD .cal) } else getCask c s
    (hostReaches (regOff .CAL_CTRL 0 0) s →
      (∀ uv v, started 1 v (.calFrontEndRange v uv)) ∧ (∀ v, started 2 v (.calSystemZero v)) ∧
      (∀ v, started 3 v (.calSystemFullScale v)) ∧ (∀ uv v, started 4 v (.calCask v uv)) ∧
      (∀ uv v, started 5 v (.calWholeDevice v uv)) ∧
      ∀ r, s.cal.run = some r → ∃ u, exec .calAbort s = .next u ∧ onlyIn [.cal] s u ∧
        u.cal = { s.cal with run := some { r with aborted := true } }) ∧
    ∀ r, s.cal.run = some r →
      (r.scope = 4 → r.holding = false → (∀ j, j < 16 → (getCask (16 * (r.target / 16) + j) s).hold = none) →
        ∃ u, exec .calCaskHoldStart s = .next u ∧ onlyIn [.casks, .cal] s u ∧
          u.cal.run = some { r with holding := true, since := s.now } ∧
          ∀ c, getCask c u = if c / 16 = r.target / 16 then { getCask c s with hold := some .cal } else getCask c s) ∧
      (r.scope = 5 → r.holding = false → (∀ e ∈ s.casks, e.2.hold = none ∨ e.2.hold = some .cal) →
        ∃ u, exec .calWholeDeviceHoldStart s = .next u ∧ onlyIn [.casks, .cal, .fe] s u ∧
          u.cal.run = some { r with holding := true, since := s.now } ∧
          ∀ c, getCask c u = if c < 4096 then { getCask c s with hold := some .cal } else getCask c s) ∧
      ∀ m, let cs := calReads r s
        let read := calReadAll cs s
        let ps := .cal :: .fe :: .casks :: .quant :: .free :: .cellar :: .applies :: eventParts
        let ended := fun (m : CalMeasure) (s' : State) => ∃ u, exec (.calEnd m) s = .next u ∧ onlyIn ps s u ∧
          u.cal.run = none ∧ u.cal.inForce = s.cal.inForce ∧
          (calResult r m s' = 0 → r.scope ≠ 2 →
            let rec' := if m.readback then some (newVintage r m s') else none
            u.cal.result = (if m.readback then 0 else 6) ∧ u.cal.highest = s.cal.highest + 1 ∧
            u.cal.pendingSlot = (if m.readback then some (if s.cal.inForce = 1 then 2 else 1) else none) ∧
            if s.cal.inForce = 1 then u.cal.slotB = rec' ∧ u.cal.slotA = s.cal.slotA else u.cal.slotA = rec' ∧ u.cal.slotB = s.cal.slotB) ∧
          (calResult r m s' = 0 → r.scope = 2 → u.cal.result = 0 ∧
            u.cal.zero = some (r.target, [meanOf 0 m.zero, meanOf 1 m.zero]) ∧ u.cal.slotA = s.cal.slotA ∧ u.cal.slotB = s.cal.slotB) ∧
          (calResult r m s' ≠ 0 → u.cal.result = calResult r m s' ∧ u.cal.highest = s.cal.highest ∧ u.cal.slotA = s.cal.slotA ∧
            u.cal.slotB = s.cal.slotB ∧ u.cal.pendingSlot = s.cal.pendingSlot ∧ rget .CAL_REJECTS 0 0 u = rget .CAL_REJECTS 0 0 s' + 1)
        (r.aborted = true → (r.holding = true → ∀ c ∈ cs, (getCask c s).probe .refRead = none) →
          ∃ u, exec (.calEnd m) s = .next u ∧ onlyIn (.cal :: .fe :: eventParts) s u ∧
            u.cal = { s.cal with
              run := none
              result := 4
              releasing := s.cal.releasing ++ (if r.holding = true ∨ r.scope = 5 then calCasks r else [])
              relTarget := if r.scope = 4 then some r.target else if r.scope = 5 then none else s.cal.relTarget } ∧
            rget .CAL_REJECTS 0 0 u = rget .CAL_REJECTS 0 0 s + 1) ∧
        (r.aborted = false → r.holding = true → r.scope ≤ 3 ∨ refcalBad r = true → ended m s) ∧
        (r.aborted = false → r.holding = true → r.scope = 4 ∨ r.scope = 5 → refcalBad r = false →
          (r.trimmed = none → readsDone cs s = false →
            ∃ u, exec (.calEnd m) s = .next u ∧ onlyIn [.casks, .opNames, .ledger] s u ∧
              ∀ c ∈ cs, (getCask c s).quiet = true → ((getCask c u).probe .refRead).isSome = true) ∧
          (r.trimmed = none → readsDone cs s = true → cs ≠ [] → calResult r m read.2 = 0 →
            ∃ u, exec (.calEnd m) s = .next u ∧ onlyIn [.cal, .casks, .regs, .opNames, .ledger] s u ∧
              u.cal = { s.cal with run := some { r with trimmed := some (m, read.1) } } ∧
              ∀ c ∈ cs, (getCask c read.2).quiet = true → ((getCask c u).probe .refRead).isSome = true) ∧
          (r.trimmed = none → readsDone cs s = true → cs = [] ∨ calResult r m read.2 ≠ 0 → ended m (calEvaluate read.1 read.2)) ∧
          ∀ m' first, r.trimmed = some (m', first) → readsDone cs s = true → ∃ u, exec (.calEnd m) s = .next u ∧
            onlyIn ps s u ∧ u.cal.run = none ∧ u.cal.inForce = s.cal.inForce ∧
            (calResult r m' read.2 = 0 → m'.readback = true → u.cal.result = 0 ∧ u.cal.highest = s.cal.highest + 1 ∧
              if s.cal.inForce = 1 then u.cal.slotB = some (newVintage r m' read.2) ∧ u.cal.slotA = s.cal.slotA ∧ u.cal.pendingSlot = some 2
              else u.cal.slotA = some (newVintage r m' read.2) ∧ u.cal.slotB = s.cal.slotB ∧ u.cal.pendingSlot = some 1))

/-! ### Hangs, resets, power, boot and security -/

/-- A thread over its budget halts with BUDGET; a ring without progress and a cask whose operation does not move are found, on their engines,
with the packets in flight that use these as suspects; as the step clock of detection ends, where no incident is in progress, the first one
found begins: what was found on engines inside its own joins it, HG_INCIDENTS counts it, and the threads of its engines and of the suspects
that are still in flight are held (R503 to R506, R508, R512, R513, R518). That it begins with the step that ends its step clock is log entry
142 (DEDUCED), on which engines an expiry is found log entry 86, and the word that the record of a waiting thread names log entry 101 (both
DEDUCED). -/
def Obligations.HangsOpenIncidents : Prop :=
  ∀ s : State,
    let found := fun (es : List Engine) (fromCask : Bool) (u : State) => ∃ i, i.phase = 1 ∧ i.fromCask = fromCask ∧ i.step = s.now ∧
      (∀ e, e ∈ i.engines ↔ e ∈ es) ∧ (∀ p, p ∈ i.suspects ↔ p ∈ allFlying s ∧ ∃ e ∈ es, engineHas e p s = true) ∧
      (∀ j, j ∈ u.hang.detected ↔ j = i ∨ j ∈ s.hang.detected) ∧ u.hang = { s.hang with detected := u.hang.detected }
    (∀ (r : Rack) (t : Tid), let k := getThread r.val t.val s
      rflag .HG_CTRL 0 0 0 s = true → k.st = .waitMem ∨ k.st = .waitCask ∨ k.st = .waitSync ∨ k.st = .waitDrain →
      budgetAt 0 k.since (rfield .HG_THREAD_BUDGET 0 0 15 0 s) s * 200000 ≤ elapsed 0 k.since 0 s →
      ∃ u, exec (.threadBudgetExpiry r t) s = .next u ∧ onlyIn (.threads :: eventParts) s u ∧ otherThreads r.val t.val s u ∧
        getThread r.val t.val u = haltedWith (excRecord r.val t.val 8 0 k.pc.toNat 0 (waitingInsn k s)) k) ∧
    (∀ n : RingId, let r := getRing n.val s
      rflag .HG_CTRL 0 0 1 s = true → ringCounts n.val r s = true →
      budgetAt 1 r.progress (rfield .HG_RING_BUDGET 0 0 19 0 s) s * 200000 ≤ elapsed 1 r.progress r.paused s →
      s.hang.incident = none → stalledEngines (flying n.val r) s ≠ [] →
      ∃ u, exec (.ringProgressExpiry n) s = .next u ∧ onlyIn [.hang, .rings] s u ∧ otherRings n.val s u ∧
        getRing n.val u = { r with progress := s.now, paused := 0 } ∧ found (stalledEngines (flying n.val r) s) false u) ∧
    (∀ c : CaskId, let k := getCask c.val s
      rflag .HG_CTRL 0 0 2 s = true → caskCounts c.val k s = true → s.hang.incident = none →
      budgetAt 2 k.progress (rfield .HG_CASK_BUDGET 0 0 15 0 s) s * 200 ≤ elapsed 2 k.progress k.paused s →
      ∃ u, exec (.caskWatchdogExpiry c) s = .next u ∧ onlyIn [.hang, .casks] s u ∧
        otherCasks c.val s u ∧ getCask c.val u = { k with progress := s.now, paused := 0 } ∧ found [⟨0, c.val⟩] true u) ∧
    ∀ i rest, s.pending = [] → s.hang.incident = none → s.hang.detected = i :: rest →
      s.pos.dist < (rget .POS_FRAME_LEN 0 0 s).toNat →
      let joins := fun (k : Incident) => ∀ e ∈ k.engines, ∃ f ∈ i.engines, e.inside f = true
      ∃ u j, step s = .next u ∧ onlyIn (.clock :: .hang :: .threads :: .casks :: eventParts) s u ∧ u.hang.incident = some j ∧
        j.phase = 1 ∧ j.engines = i.engines ∧ j.fromCask = i.fromCask ∧ j.step = i.step ∧ j.frozenAt = s.now + 1 ∧
        (∀ p, p ∈ j.suspects ↔ p ∈ allFlying s ∧ (p ∈ i.suspects ∨ ∃ k ∈ rest, joins k ∧ p ∈ k.suspects)) ∧
        (∀ k, k ∈ u.hang.detected ↔ k ∈ rest ∧ ¬ joins k) ∧
        rget .HG_INCIDENTS 0 0 u = rget .HG_INCIDENTS 0 0 s + 1 ∧
        ∀ (r : Rack) (t : Tid), let k := getThread r.val t.val s
          getThread r.val t.val u =
            if (j.engines.any (·.coversRack r.val) || j.suspects.any fun p => decide (k.pkt = some p)) = true ∧ k.st ≠ .free ∧
                k.st ≠ .halted then { k with st := .held } else k

/-- An incident is dumped where a mode is set, cut short at its time limit; then its engines are reset, every cask under them with an empty
queue; once the resets are over the suspects run again, the earliest first, each from its packet start with its code and flags anew but
for REPLAYED (R508 to R510, R513, R514, R519 to R522). The layouts that Table 15.3 leaves open, and what the host and the cellarer see of an
incident, are log entries 40, 86 and 87. -/
def Obligations.IncidentsRunTheirCourse : Prop :=
  ∀ (s : State) (i : Incident), s.hang.incident = some i →
    (i.phase = 1 → i.dumped = false → wantsDump s = true →
      (∀ bad, ∃ u, exec (.dump bad) s = .next u ∧ onlyIn (.hang :: eventParts) s u ∧ u.hang.truncated = false ∧
        u.hang.incident = some { i with dumped := true } ∧ rflag .HG_DUMP_STATUS 0 0 31 u = true) ∧
      ∀ n bad, i.frozenAt + rfield .HG_DUMP_CFG 0 0 23 16 s * 200000 ≤ s.now →
        ∃ u, exec (.dumpTimeLimit n bad) s = .next u ∧ onlyIn (.hang :: eventParts) s u ∧ u.hang.truncated = true ∧
          u.hang.incident = some { i with dumped := true } ∧ rflag .HG_DUMP_STATUS 0 0 31 u = true) ∧
    (i.phase = 1 → i.dumped = true ∨ wantsDump s = false → (∀ e ∈ i.engines, e.domain ≤ 2) →
      ∃ u, exec .engineReset s = .next u ∧ u.hang = { s.hang with
          incident := some { i with phase := 2 }
          resets := s.hang.resets ++ i.engines.map fun e => (e, false, s.now)
          flush := u.hang.flush } ∧ ((∀ e ∈ i.engines, e.domain ≤ 1) → u.hang.flush = s.hang.flush) ∧
        ∀ c : CaskId, i.engines.any (·.coversCask c.val) = true →
          (getCask c.val u).inReset = true ∧ (getCask c.val u).queue = [] ∧ (getCask c.val u).running = []) ∧
    ∀ p rest, i.phase = 3 → i.waiting = p :: rest → i.replaying = none → s.hang.resets = [] → p ∈ allFlying s →
      ∃ u, exec .suspectReplay s = .next u ∧ u.hang = { s.hang with incident := some { i with waiting := rest, replaying := some p } } ∧
        rget .HG_REPLAYS 0 0 u = rget .HG_REPLAYS 0 0 s + 1 ∧ ∀ x, findPkt p s = some x →
          findPkt p u = some { x with
            work := .none
            code := 0
            flags := 8
            kstatus := 0
            exc := none
            replay := true
            walk := none }

/-- Engine resets end, the write-back of a quadrant's slice first, and casks with nothing racked leave reset; one that takes too long becomes
the reset of the next domain up, up to the cold reset; the host resets an engine that is not in recovery, which aborts the packets that
use it, and takes engines back into service (R134, R507, R509, R511, R523; that the write-back ends with an ENGINE_RESET_DONE of its own,
what joins an incident as a reset escalates, when a device warm reset is overdue, which casks leave reset, and where an escalation's event
comes are the model's, log entries 143, 42, 138, 88 and 98). -/
def Obligations.ResetsEscalateAndTheHostResets : Prop :=
  ∀ s : State,
    (s.hang.resets ≠ [] → s.hang.flush ≠ [] → ∃ u, exec .engineResetDone s = .next u ∧ u.hang = { s.hang with flush := [] } ∧
      u.casks = s.casks ∧ (Mem.wf s.mem = true → (∀ e ∈ s.mem.csec, e.2.par = parityOf e.2.data) →
        ∀ l, homeSlice l ∈ s.hang.flush → Store.find l u.mem.cline = none)) ∧
    (s.hang.resets ≠ [] → s.hang.flush = [] → ∃ u, exec .engineResetDone s = .next u ∧ u.hang.resets = [] ∧
      ∀ c : CaskId, (∃ x ∈ s.hang.resets, x.1.coversCask c.val = true) → (getCask c.val s).racked = false →
        (getCask c.val s).incomplete = false → (getCask c.val u).inReset = false) ∧
    (warmOverdue s = false → ∀ x, s.hang.resets.find? (fun x => resetOverdue x s) = some x →
      (x.1.domain < 2 → ∃ u, exec .resetEscalation s = .next u ∧
        u.hang.resets = s.hang.resets.filter (fun y => decide (y ≠ x)) ++ [(x.1.up, true, s.now)]) ∧
      (2 ≤ x.1.domain → ∃ u, exec .resetEscalation s = .next u ∧ u.threads = State.reset.threads ∧ u.rings = State.reset.rings ∧
        u.mem = State.reset.mem ∧ u.pm.cause = 6 ∧ u.pm.warm = true ∧ u.pm.fwReady = false ∧ u.pending = s.pending)) ∧
    (warmOverdue s = true → ∃ u, exec .resetEscalation s = .next u ∧ u.threads = State.reset.threads ∧ u.rings = State.reset.rings ∧
      u.mem = State.reset.mem ∧ u.pm.cause = 6 ∧ u.pm.warm = false ∧ u.pm.fwReady = false ∧ u.pending = s.pending) ∧
    (∀ v : Word, let e : Engine := ⟨fieldOf 18 16 v, fieldOf 11 0 v⟩
      hostReaches (regOff .HG_RESET 0 0) s → flagOf 31 v = true → e.domain ≤ 2 → unitOk e.domain e.unit = true →
      inRecovery e s = false →
      ∃ u, exec (.hostReset v) s = .next u ∧ u.hang = { s.hang with
          resets := s.hang.resets ++ [(e, false, s.now)]
          flush := u.hang.flush } ∧
        (∀ c : CaskId, e.coversCask c.val = true →
          (getCask c.val u).inReset = true ∧ (getCask c.val u).queue = [] ∧ (getCask c.val u).running = []) ∧
        ∀ p x, findPkt p s = some x → x.complete = false → engineHas e p s = true →
          ∃ y, findPkt p u = some y ∧ 8 ≤ y.code ∧ y.work = .done) ∧
    ∀ v : Word, let e : Engine := ⟨fieldOf 18 16 v, fieldOf 11 0 v⟩
      hostReaches (regOff .HG_RESUME 0 0) s → flagOf 31 v = true → flagOf 30 v = true ∨ (e.domain ≤ 2 ∧ unitOk e.domain e.unit = true) →
      ∃ u, exec (.hostResume v) s = .next u ∧ onlyIn (.hang :: eventParts) s u ∧
        u.hang = { s.hang with oos := if flagOf 30 v then [] else s.hang.oos.filter fun x => decide (x ≠ e) }

/-- Every cause of a device reset brings what a device reset leaves, with its cause; a reset from the host link or a loss of power takes
configuration space too, the others keep it (R407, R423, R424, R507, R511, R528, R529, R535, R561; which resets take configuration space is
deduced, log entry 89, as is that the loss of a rail is a cold reset, log entry 90; the encoder's accepted levels stay, log entry 12). -/
def Obligations.DeviceResetsWipe : Prop :=
  ∀ s : State,
    let confLost := fun (u : State) => u.px = { Px.init with perst := s.px.perst, cfgReady := false, subsys := s.px.subsys }
    let confKept := fun (u : State) => u.px = { s.px with
      msix := []
      pba := []
      upstream := []
      bar4Log2 := 36 }
    (∀ c : BitVec 4, 2 ≤ c.toNat → c.toNat ≤ 7 → ∃ u, exec (.deviceWarmReset c) s = .next u ∧ wipedBy c.toNat s u ∧
      u.pm.waiting = s.pm.waiting ∧ if c.toNat ≤ 3 then confLost u else confKept u) ∧
    (∀ c : BitVec 4, c.toNat = 0 ∨ c.toNat = 1 ∨ c.toNat = 5 ∨ c.toNat = 8 → ∃ u, exec (.coldReset c) s = .next u ∧
      wipedBy c.toNat s u ∧ u.pm.waiting = (if c.toNat = 0 then [] else s.pm.waiting) ∧
      if c.toNat ≤ 1 then confLost u else confKept u) ∧
    (∃ u, exec .hotReset s = .next u ∧ wipedBy 2 s u ∧ confLost u) ∧
    (s.px.linkUp = true → ∃ u, exec .dlDown s = .next u ∧ wipedBy 3 s u ∧ confLost u) ∧
    (∃ u, exec .functionLevelReset s = .next u ∧ wipedBy 4 s u ∧ u.px.linkUp = s.px.linkUp ∧ u.px.bme = false ∧
      u.px.msixEn = false ∧ u.px.aer = s.px.aer ∧ u.px.bar4Log2 = 36) ∧
    (∃ u, exec .cellarerWatchdog s = .next u ∧ wipedBy 7 s u ∧ confKept u) ∧
    (∀ v : Word, hostReaches (regOff .HG_RESET 0 0) s → flagOf 31 v = true → fieldOf 18 16 v = 3 ∨ fieldOf 18 16 v = 4 →
      ∃ u, exec (.hostReset v) s = .next u ∧ wipedBy 5 s u ∧ confKept u) ∧
    (∃ u, exec .perstAssert s = .next u ∧ wipedBy 1 s u ∧ u.px = { Px.init with perst := true, cfgReady := false, subsys := s.px.subsys }) ∧
    (s.pm.rails = false → ∃ u, exec .powerOn s = .next u ∧ wipedBy 0 s u ∧ confLost u ∧ u.pm.rails = true ∧ u.pm.vppOk = false ∧
      u.pm.coldHold = true) ∧
    (∀ r, r ≠ .vpp → ∃ u, exec (.railUndervoltage r) s = .next u ∧ wipedBy 0 s u ∧ confLost u ∧ u.pm.rails = false ∧
      u.pm.coldHold = true ∧ u.pm.thermTrip = (s.pm.thermTrip && decide (r ≠ .vddio))) ∧
    (∃ u, exec .thermtrip s = .next u ∧ wipedBy 0 s u ∧ confLost u ∧ u.pm.thermTrip = true ∧ u.pm.coldHold = true)

/-- Every device reset sets the count, the high-water position, the frame number and the frame distance to 0, and no reset of an engine
touches them; the count runs modulo 2⁴⁸ (R444). -/
def Obligations.ResetsOfTheClockOfRecord : Prop :=
  ∀ s : State,
    let zero := fun (i : Instr) => ∃ u, exec i s = .next u ∧ u.pos.count = 0 ∧ u.pos.high = 0 ∧ u.pos.frame = 0 ∧ u.pos.dist = 0
    (∀ c : BitVec 4, 2 ≤ c.toNat → c.toNat ≤ 7 → zero (.deviceWarmReset c)) ∧
    (∀ c : BitVec 4, c.toNat = 0 ∨ c.toNat = 1 ∨ c.toNat = 5 ∨ c.toNat = 8 → zero (.coldReset c)) ∧
    zero .hotReset ∧ (s.px.linkUp = true → zero .dlDown) ∧ zero .functionLevelReset ∧ zero .cellarerWatchdog ∧ zero .perstAssert ∧
    zero .thermtrip ∧ (s.pm.rails = false → zero .powerOn) ∧ (∀ r, r ≠ .vpp → zero (.railUndervoltage r)) ∧
    (∀ i, s.hang.incident = some i → (∀ e ∈ i.engines, e.domain ≤ 2) →
      ∃ u, exec .engineReset s = .next u ∧ u.pos = s.pos) ∧
    (warmOverdue s = false → ∀ x, s.hang.resets.find? (fun x => resetOverdue x s) = some x → x.1.domain < 2 →
      ∃ u, exec .resetEscalation s = .next u ∧ u.pos = s.pos) ∧
    (∀ v : Word, hostReaches (regOff .HG_RESET 0 0) s → flagOf 31 v = true → fieldOf 18 16 v ≤ 2 →
      ∃ u, exec (.hostReset v) s = .next u ∧ u.pos = s.pos) ∧
    ∀ a b held, accepted held s = true → s.pos.src = 0 → (xor (a != s.pos.a) (b != s.pos.b)) = true →
      ∃ u, exec (.encoderEdge a b held) s = .next u ∧
        u.pos.count.toNat = (s.pos.count.toNat + (if xor (quadUp s.pos.a s.pos.b a b) s.pos.dir then 1 else 2 ^ 48 - 1)) % 2 ^ 48

/-- Supplies and pins: PERST# released and a trained link let configuration space answer; the straps are sampled when the cold-reset hold
ends, which with TEST_EN high or after a thermal trip it does not; VPP lost and back, with at most one row cut off in each cask that
programs; THERM_ALERT with its hysteresis (R412, R424, R528, R530, R531, R554, R560). Switched power domains: a domain whose condition holds
goes off once asked, one whose condition does not raises EV_PM_REFUSED and stays on; a domain that is off comes on once asked; off, the
front end's DAC outputs are high-impedance and its trigger outputs low; on again, its channels have their defaults, a quadrant's window
books are empty from the start of its power-down on, a rack group's racked casks wait in reset for their reference reads (R107, R470, R531
to R533; which rows VPP's loss cuts off is open, log entries 5 and 92; how the casks of a domain come back is log entry 97; that
configuration space answers once the link is trained is deduced, log entry 41). -/
def Obligations.SuppliesAndPowerDomains : Prop :=
   (∀ s : State,
      exec .perstRelease s = .next { s with px := { s.px with perst := false } } ∧
      (∀ w v, linkRate w.val v.val = true → s.px.perst = false → s.pm.pcieEn = true → s.pm.coldHold = false → s.pm.rails = true →
        exec (.pcieLinkUp w v) s = .next { s with px := { s.px with
          linkUp := true
          width := w.val
          speed := v.val
          cfgReady := true } }) ∧
      (∀ b p t, s.pm.rails = true → s.pm.coldHold = true → s.pm.testEn = false → s.pm.thermTrip = false →
        ∃ u, exec (.coldResetHoldEnd b p t) s = .next u ∧ onlyIn [.pm] s u ∧ u.pm.coldHold = t ∧ u.pm.bootSrc = b ∧ u.pm.pcieEn = p ∧ u.pm.testEn = t ∧
        ∀ d, domainIsOff d u = (decide (74 ≤ d ∧ d ≤ 77) || (decide (d = 73) && !p))) ∧
      (∀ b p t, s.pm.testEn = true ∨ s.pm.thermTrip = true → exec (.coldResetHoldEnd b p t) s = .next s) ∧
      (s.pm.vppOk = true → ∃ u, exec .vppLost s = .next u ∧ onlyIn (.pm :: .free :: .casks :: eventParts) s u ∧
        (∃ n, n ≤ s.ledger.vppHeld.length ∧ u.pm = { s.pm with vppOk := false, rowsCut := n }) ∧
        ∀ c, getCask c u = { getCask c s with prog := (getCask c u).prog } ∧ (c ∉ s.ledger.vppHeld → getCask c u = getCask c s)) ∧
      (s.pm.vppOk = false → s.pm.rails = true → s.pm.eraseDue = none →
        ∃ u, exec .vppRestored s = .next u ∧ u.pm.vppOk = true ∧ u.pm.rowsCut = 0 ∧ (s.pm.fwReady = false → onlyIn (.pm :: eventParts) s u) ∧
          (s.pm.fwReady = true → ∀ c, (getCask c s).inReset = true → (getCask c s).incomplete = true →
            (getCask c u).inReset = false ∧ (getCask c u).incomplete = false ∧ (getCask c u).racked = false)) ∧
      ∀ ts : List Int, let hot : Int := if s.pm.grade = 1 then 100 else 90
        ((∃ t ∈ ts, hot ≤ t) → exec (.thermAlert ts) s = .next { s with pm := { s.pm with thermAlert := true } }) ∧
        ((∀ t ∈ ts, t < hot - 5) → exec (.thermAlert ts) s = .next { s with pm := { s.pm with thermAlert := false } }) ∧
        ((∀ t ∈ ts, t < hot) → (∃ t ∈ ts, hot - 5 ≤ t) → exec (.thermAlert ts) s = .next s)) ∧
   (∀ (d : Fin 80) (s : State), let n := d.val
      let booksEmpty := fun (q : Nat) (u : State) => ∀ w, w < 32 → getBook q w u = Book.init
      (hostReaches (regOff .PM_ON 0 (n / 32)) s →
        (switched n = true → domainIsOff n s = false → goingOff n s = false →
          (mayTurnOff n s = true → ∃ u, exec (.pmDomainOff d) s = .next u ∧ onlyIn [.pm, .ledger] s u ∧
            u.pm = { s.pm with goingOff := s.pm.goingOff.add n, goingOn := Store.drop n s.pm.goingOn } ∧
            (n < 68 ∨ 72 ≤ n → u.ledger = s.ledger) ∧ (68 ≤ n → n < 72 → booksEmpty (n - 68) u)) ∧
          (mayTurnOff n s = false → ∃ u, exec (.pmDomainOff d) s = .next u ∧ onlyIn eventParts s u)) ∧
        (switched n = true → domainIsOff n s = true → goingOff n s = false → (n < 64 → goingOff 72 s = false) →
          exec (.pmDomainOn d) s = .next { s with pm := { s.pm with goingOn := s.pm.goingOn.add n } }) ∧
        (switched n = true → goingOff n s = true →
          exec (.pmDomainOn d) s = .next { s with pm := { s.pm with onAfter := s.pm.onAfter.add n } }) ∧
        (switched n = false → exec (.pmDomainOff d) s = .next s ∧ exec (.pmDomainOn d) s = .next s)) ∧
      (goingOff n s = true → ∃ u, exec (.domainPowerDownDone d) s = .next u ∧ onlyIn (.pm :: .fe :: eventParts) s u ∧
        u.pm = { s.pm with
          domainOff := s.pm.domainOff.add n
          goingOff := Store.drop n s.pm.goingOff
          onAfter := Store.drop n s.pm.onAfter
          goingOn := if s.pm.onAfter.has n then s.pm.goingOn.add n else s.pm.goingOn } ∧
        (n = 79 → ∀ j, (getDac j u).hiZ = true ∧ (getTrig j u).active = false) ∧ (n ≠ 79 → u.fe = s.fe)) ∧
      (s.pm.goingOn.has n = true → Store.risesFrom 0 s.pm.domainOff = true →
        ∃ u, exec (.domainPowerUpDone d) s = .next u ∧ domainIsOff n u = false ∧
          ((64 ≤ n ∧ n < 68) ∨ n = 72 → onlyIn [.pm] s u) ∧
          (n = 79 → ∀ j v, j < 8 → nthD none j s.pm.dacDefaults = some v →
            (getDac j u).defaultOk = true ∧ (getDac j u).defaultCode = v) ∧
          (68 ≤ n → n < 72 → booksEmpty (n - 68) u ∧ ∀ c, c / 1024 = n - 68 → (getCask c s).racked = true → (getCask c s).hold = none →
            (getCask c u).hold = some .domain) ∧
          (n < 64 → ∀ c, c / 64 = n → (getCask c u).racked = true → (getCask c u).inReset = true)))

/-- The boot flow in its parts: the entries that waited are in the journal and the memories are wiped; copy 0 is taken, then copy 1, and
otherwise the ROM waits for the host's image with the errors of both; with a verified image firmware starts, the SVN is the image's and a
new epoch of Burivo begins; an erasure that is due is made, with VPP, and the boot entry is written; the casks are reconciled and their
reference reads posted; with those converted FW_READY is 1 (R134, R536 to R539, Table 16.4; where one command of the flow ends and the next
begins is the model's, log entry 137; what the signature checks accept is open, log entry 19, and the order of errors is log entry 94). The
library region moves while every ring is disabled, and else not (R540). -/
def Obligations.BootTakesAVerifiedImage : Prop :=
   (∀ (s : State) (copy0 copy1 : Option (List Byte)) (reads : List CaskReads), mayBoot s = true →
      let flow := Instr.bootFlow copy0 copy1 reads
      let up := fun (img : Nat) (b : List Byte) (u : State) => u.pm.fwReady = false ∧ u.pm.stage = 3 ∧ u.pm.bootStep = 7 ∧
        u.pm.bootImg = img ∧ u.pm.svn = byteAt 8 b ∧ u.pm.imgDigest = imgField 16 48 b ∧ u.bv.epoch = s.bv.epoch + 1 ∧
        u.pending = s.pending
      (s.pm.stage = 0 → ∃ u, exec flow s = .next u ∧ onlyIn [.pm] s u ∧ u.pm.wiped = true ∧ u.pm.fwReady = false ∧
        u.pm.stage = (if s.pm.bootSrc then 2 else 1) ∧ (s.pm.lost = 0 → u.pm.waiting = []) ∧
        ∀ k e, s.pm.waiting[k]? = some e → s.pm.waiting.length ≤ 64 → s.pm.nextSeq + 64 < 2 ^ 32 →
          journalHeld (s.pm.nextSeq + k) u = some (journalBytes (s.pm.nextSeq + k) e)) ∧
      (s.pm.stage = 2 → s.pm.bootImg = 2 → let b := hostImage s
        (imgCheck b s.pm = 0 → ∃ u, exec flow s = .next u ∧ up 2 b u) ∧
        (imgCheck b s.pm ≠ 0 → exec flow s = .next { s with pm := { s.pm with stage := 1, err0 := imgCheck b s.pm } })) ∧
      (s.pm.stage = 2 → s.pm.bootImg ≠ 2 →
        (∀ b, copy0 = some b → imgCheck b s.pm = 0 → ∃ u, exec flow s = .next u ∧ up 0 b u) ∧
        (∀ b, copyCheck copy0 s.pm ≠ 0 → copy1 = some b → imgCheck b s.pm = 0 →
          ∃ u, exec flow s = .next u ∧ up 1 b u ∧ u.pm.err0 = copyCheck copy0 s.pm) ∧
        (copyCheck copy0 s.pm ≠ 0 → copyCheck copy1 s.pm ≠ 0 → exec flow s = .next { s with pm := { s.pm with
          stage := 1
          err0 := copyCheck copy0 s.pm
          err1 := copyCheck copy1 s.pm } })) ∧
      (s.pm.stage = 3 → s.pm.bootStep = 7 →
        (s.pm.eraseDue ≠ none → s.pm.vppOk = false → exec flow s = .next s) ∧
        (s.pm.eraseDue = none ∨ s.pm.vppOk = true → ∃ u, exec flow s = .next u ∧ u.pm.bootStep = 8 ∧ u.pm.eraseDue = none ∧
          (s.pm.eraseDue ≠ none → ∀ c, (getCask c u).racked = false) ∧
          (s.pm.nextSeq < 2 ^ 32 → ∃ e : JEntry, e.kind = 6 ∧ e.old = BitVec.ofNat 32 s.pm.cleanBoot.toNat ∧
            journalHeld s.pm.nextSeq u = some (journalBytes s.pm.nextSeq e)))) ∧
      (s.pm.stage = 3 → s.pm.bootStep = 8 →
        ((∃ x ∈ s.casks, x.2.incomplete = true) → s.pm.vppOk = false → exec flow s = .next s) ∧
        ((∀ x ∈ s.casks, x.2.incomplete = false) ∨ s.pm.vppOk = true → ∃ u, exec flow s = .next u ∧ u.pm.bootStep = 9 ∧
          ∀ c, (getCask c u).incomplete = false ∧ ((getCask c u).racked = true → (getCask c u).running ≠ []))) ∧
      (s.pm.stage = 3 → s.pm.bootStep = 9 →
        (readsDone (rackedCasks s) s = false → exec flow s = .next s) ∧
        (readsDone (rackedCasks s) s = true → ∃ u, exec flow s = .next u ∧ u.pm.fwReady = true ∧ u.pm.stage = 4 ∧
          u.pm.svn = s.pm.svn ∧ u.bv.epoch = s.bv.epoch ∧ u.pending = s.pending)) ∧
      (hostReaches (regOff .BOOT_CMD 0 0) s →
        (s.pm.stage = 1 → exec .bootCmdGo s = .next { s with pm := { s.pm with stage := 2, bootImg := 2 } }) ∧
        (s.pm.stage ≠ 1 → exec .bootCmdGo s = .next s))) ∧
   (∀ (hi : Bool) (v : Word) (s : State), let n := if hi then RegName.LIB_BASE_HI else .LIB_BASE_LO
      let b := if hi then libBase s % 2 ^ 32 + 2 ^ 32 * v.toNat else libBase s / 2 ^ 32 * 2 ^ 32 + v.toNat
      hostReaches (regOff n 0 0) s → rangeOk n v = true → b ≠ libBase s →
        (allDisabled s = true → ∃ u, exec (.libBaseWrite hi v) s = .next u ∧ onlyIn [.pm] s u ∧ libBase u = b ∧ u.pm.libDue = true) ∧
        (allDisabled s = false → ∃ u, exec (.libBaseWrite hi v) s = .next u ∧ onlyIn eventParts s u))

/-- LC_SVN fuses the minimum SVN up to the running image's, with the key; the minimum is never lowered by any step; a running SVN that is not
above it changes nothing (R541). -/
def Obligations.MinimumSvnOnlyRises : Prop :=
  (∀ (v : Word) (s : State), hostReaches (regOff .LC_SVN 0 0) s →
    (fieldOf 31 16 v = 0x5356 → s.pm.svnMin < s.pm.svn →
      ∃ u, exec (.lcSvnRaise v) s = .next u ∧ onlyIn (.pm :: eventParts) s u ∧ u.pm.svnMin = s.pm.svn) ∧
    (fieldOf 31 16 v = 0x5356 → s.pm.svn ≤ s.pm.svnMin → exec (.lcSvnRaise v) s = .next s) ∧
    (fieldOf 31 16 v ≠ 0x5356 → ∃ u, exec (.lcSvnRaise v) s = .next u ∧ onlyIn eventParts s u)) ∧
  ∀ s u : State, step s = .next u → s.pm.svnMin ≤ u.pm.svnMin

/-- A life-cycle request that Table 16.8 has, with its key, programs the fuses and, once an erase may start, erases every cask and ends in a
cold reset; any other changes nothing; a cold erase holds every cask and asks for a programming credit for each, and with its credit and
VPP a cask is erased with its program cycles as they were (R108, R530, R542, R543; that casks the store does not list are erased already
is the model's, log entry 135, and which event another KEY raises, log entry 128). -/
def Obligations.LifeCycleAndColdErase : Prop :=
  ∀ (v : Word) (s : State),
    (hostReaches (regOff .LC_REQ 0 0) s → let a := s.pm.lcState
      let b := fieldOf 3 0 v
      (fieldOf 31 16 v = 0x4C43 → lcAllowed a b s.pm = true → s.pm.eraseDue = none →
        (s.pm.vppOk = true → ∃ u, exec (.lifeCycleTransition v) s = .next u ∧ u.pm.lcState = b ∧ u.pm.eraseDue = none ∧
          u.pm.cause = 8 ∧ u.pm.fwReady = false ∧ u.pending = s.pending ∧
          u.pm.serviceLeft = (if a = 2 ∧ b = 3 then s.pm.serviceLeft - 1 else s.pm.serviceLeft) ∧ ∀ c, (getCask c u).racked = false) ∧
        (s.pm.vppOk = false → ∃ u, exec (.lifeCycleTransition v) s = .next u ∧ onlyIn [.pm] s u ∧ u.pm.lcState = b ∧
          u.pm.eraseDue = some (a, b))) ∧
      (fieldOf 31 16 v ≠ 0x4C43 ∨ lcAllowed a b s.pm = false → ∃ u, exec (.lifeCycleTransition v) s = .next u ∧
        onlyIn eventParts s u)) ∧
    (hostReaches (regOff .LC_ERASE 0 0) s →
      (fieldOf 31 16 v = 0x4345 → allDisabled s = true → (∀ e ∈ s.casks, e.2.hold = none) →
        ∃ u, exec (.coldErase v) s = .next u ∧ onlyIn (.pm :: .casks :: .ledger :: eventParts) s u ∧ u.pm.lcState = s.pm.lcState ∧
          (s.pm.waiting.length < 64 → ∃ e ∈ u.pm.waiting, e.kind = 8) ∧
          ∀ c ∈ s.casks.map (·.1), (c ∈ u.ledger.vppQueue ∨ c ∈ u.ledger.vppHeld) ∧
            getCask c u = { getCask c s with hold := some .erase }) ∧
      (fieldOf 31 16 v = 0x4345 → allDisabled s = false → ∃ u, exec (.coldErase v) s = .next u ∧ onlyIn eventParts s u) ∧
      (fieldOf 31 16 v ≠ 0x4345 → ∃ u, exec (.coldErase v) s = .next u ∧ onlyIn eventParts s u)) ∧
    (∀ c, (getCask c s).hold = some .erase → vppSentAt c s = none →
      let erased := fun (u : State) => (getCask c u).hold = none ∧ (getCask c u).racked = false ∧
        (getCask c u).cycles8 = (getCask c s).cycles8 ∧ (∃ w, vppSentAt c u = some w)
      (∀ rest, s.ledger.vppQueue = c :: rest → s.ledger.vppHeld.length < rfield .LG_VPP_LIMIT 0 0 6 0 s → c ∉ s.ledger.vppHeld →
        s.pm.vppOk = true → ∃ u, exec .vppGrant s = .next u ∧ erased u ∧ u.ledger.vppQueue = rest) ∧
      (c ∈ s.ledger.vppHeld → s.pm.vppOk = false → s.pm.rails = true → s.pm.fwReady = true → s.pm.eraseDue = none →
        (getCask c s).inReset = false → ∃ u, exec .vppRestored s = .next u ∧ erased u))

/-- Attestation: a report uses one leaf and holds what is signed at its start, the public-key record uses none; when either is written the
command is over (R544, R545; that what a report holds is sampled, and its leaf used, as GO is written is deduced, log entry 95). -/
def Obligations.AttestationUsesLeaves : Prop :=
  ∀ s : State,
    (hostReaches (regOff .AT_CMD 0 0) s → s.pm.atRun = none → attestBuf s + 4096 ≤ usable s →
      (s.pm.leaf < 1048576 → ∃ u, exec .attestationReport s = .next u ∧ onlyIn (.pm :: eventParts) s u ∧ u.pm = { s.pm with
        leaf := s.pm.leaf + 1
        atRun := some (false, attestBytes s)
        atResult := 0
        atLeaf := s.pm.leaf }) ∧
      (1048576 ≤ s.pm.leaf → ∃ u, exec .attestationReport s = .next u ∧ onlyIn [.pm, .free] s u ∧ u.pm.atResult = 2 ∧
        u.pm.leaf = s.pm.leaf ∧ u.pm.atRun = some (false, [])) ∧
      ∃ u, exec .attestationPublicKeys s = .next u ∧ onlyIn [.pm, .free] s u ∧ u.pm.leaf = s.pm.leaf ∧ u.pm.atResult = 0 ∧
        u.pm.atRun = some (true, keyBytes s)) ∧
    ∀ x, s.pm.atRun = some x → ∃ u, exec .attestDone s = .next u ∧ onlyIn (.pm :: eventParts) s u ∧ u.pm = { s.pm with atRun := none }

/-- The entry that waited longest takes the next SEQ in the journal, where it can be read back, and where entries were lost and there is space
one entry says so (R547, R548). Entry SEQ is read by writing it
to JR_SEL and reading JR_DATA0–15, which that write latches (log entry 96, DEDUCED); an entry the journal does not hold reads zero with
MISS set (R549). -/
def Obligations.JournalEntriesAreKeptAndSelected : Prop :=
   (∀ s e rest, s.pm.waiting = e :: rest → s.pm.nextSeq < 2 ^ 32 →
      ∃ u, exec .journalWrite s = .next u ∧ onlyIn [.pm] s u ∧ u.pm.nextSeq = s.pm.nextSeq + 1 ∧
        journalHeld s.pm.nextSeq u = some (journalBytes s.pm.nextSeq e) ∧
        (s.pm.lost = 0 ∨ 64 ≤ rest.length → u.pm.waiting = rest ∧ u.pm.lost = s.pm.lost) ∧
        (0 < s.pm.lost → rest.length < 64 → (∀ w ∈ rest, w.kind ≠ 9) → u.pm.lost = 0 ∧
          ∃ w : JEntry, w.kind = 9 ∧ w.new = BitVec.ofNat 32 s.pm.lost ∧ w.count = 1 ∧ u.pm.waiting = rest ++ [w])) ∧
   (∀ (v : Word) (s : State), hostReaches (regOff .JR_SEL 0 0) s →
      ∃ u, exec (.jrSelWrite v) s = .next u ∧ onlyIn [.regs] s u ∧
        otherRegs (regOff .JR_SEL 0 0 :: regOff .JR_STATUS 0 0 :: (List.range 16).map fun k => regOff .JR_DATA 0 k) s u ∧
        (∀ b, journalHeld v.toNat s = some b → rflag .JR_STATUS 0 0 31 u = false ∧
          ∀ k, k < 16 → rget .JR_DATA 0 k u = BitVec.ofNat 32 (leAt (4 * k) 4 b)) ∧
        (journalHeld v.toNat s = none → rflag .JR_STATUS 0 0 31 u = true ∧ ∀ k, k < 16 → rget .JR_DATA 0 k u = 0))

/-! ### Reset, words, invariants -/

/-- Right after reset: no command waits; the count, the high-water position, the frame number and the frame distance are 0, and no table entry
is set; no load, no thread, no enabled ring, every ring DISABLED; sync objects are 0; memory on the die is 0; every cask reads its reset
gain; firmware is not ready and host accesses outside the device control region do not reach their registers (R340, R407, R425, R444,
R457; the values that the spec leaves open are the model's, log entries 3, 4, 7, 12 to 14). -/
def Obligations.StateAfterReset : Prop :=
  let s := State.reset
  s.pending = [] ∧ s.now = 0 ∧ s.pos.count = 0 ∧ s.pos.high = 0 ∧ s.pos.frame = 0 ∧ s.pos.dist = 0 ∧
    (∀ e, petGet e s = 0) ∧ (∀ r t, getThread r t s = Thread.init) ∧ (∀ n, (getRing n s).st = .disabled) ∧ (∀ o, syncGet o s = 0) ∧
    s.mem.sp = [] ∧ s.mem.acc = [] ∧ s.mem.csec = [] ∧ Mem.wf s.mem = true ∧ s.pm.fwReady = false ∧
    (∀ off, 0x100000 ≤ off → ¬ hostReaches off s) ∧
    ∀ u i, rget .HG_CTRL u i s = 0x507#32 ∧ rget .HG_THREAD_BUDGET u i s = 10#32 ∧ rget .HG_RING_BUDGET u i s = 100#32 ∧
      rget .HG_CASK_BUDGET u i s = 50#32 ∧ rget .LG_POOL_LIMIT u i s = 256#32 ∧ rget .RK_LIMITS u i s = 0x10002020#32 ∧
      rget .RK_REF_PERIOD u i s = 10000#32 ∧ rget .CK_GAIN u i s = 5#32 ∧ rget .POS_FRAME_LEN u i s = 1000000#32 ∧
      rget .POS_STILL u i s = 2000#32 ∧ rget .POS_RATE_MAX u i s = 2000000#32 ∧ rget .FE_TIMER u i s = 200000#32 ∧
      rget .EV_ROUTE u i s = 0x80000000#32 ∧ rget .RG_GATE_POOL u i s = 256#32 ∧ rget .CAL_REFCAL_UV u i s = 2048000#32

/-- Words written out from the formats read as their instructions: the worked words of Table 8.20 and one of each format (Tables 8.4 to 8.17). -/
def Obligations.SkovfaWordsOfTheTables : Prop :=
  ∀ (r : Rack) (t : Tid),
    skovfaDecode r t 0x00000000#32 = some (.skNop r t) ∧ skovfaDecode r t 0x00000001#32 = some (.skEnd r t) ∧
    skovfaDecode r t (0b000001#6 ++ 3#5 ++ 4#5 ++ 5#5 ++ 0#3 ++ 0#1 ++ 0b0000001#7) = some (.skSub r t 3 4 5) ∧
    skovfaDecode r t (0b000100#6 ++ 1#5 ++ 2#5 ++ 0xFFFF#16) = some (.skAddi r t 1 2 0xFFFF#16) ∧
    skovfaDecode r t (0b010000#6 ++ 7#5 ++ 1#3 ++ 0x3FFFF#18) = some (.skBr r t .nez 7 0x3FFFF#18) ∧
    skovfaDecode r t (0b011000#6 ++ 9#5 ++ 10#5 ++ 3#3 ++ 0#3 ++ 0x3F8#10) = some (.skLdd r t 9 10 0x3F8#10) ∧
    skovfaDecode r t (0b100000#6 ++ 1#5 ++ 2#5 ++ 3#5 ++ 5#3 ++ 1#1 ++ 2#7) = some (.skVadd r t .int32 1 2 3 5 true) ∧
    skovfaDecode r t 0xC4800000#32 = some (.skAccOpen r t 4) ∧ skovfaDecode r t 0x40880007#32 = some (.skBr r t .ltz 4 7) ∧
    skovfaDecode r t 0xF0040016#32 = some (.skTset r t 0 4 22 0) ∧ skovfaDecode r t 0xC0000000#32 = some (.skCkMvm r t 0) ∧
    skovfaDecode r t 0xC8052000#32 = some (.skDcDrain r t 5 4 false) ∧
    skovfaDecode r t 0xFFFFFFFF#32 = none

/-- Every well-formed Skovfa instruction, with every operand, is what its word decodes to: no bit of an encoding is dropped (R263, R269,
Tables 8.4 to 8.17). -/
def Obligations.SkovfaWordsDecodeToTheirInstruction : Prop :=
  ∀ (r : Rack) (t : Tid) (i : Instr), issuerOf i = some (r, t) → i.wf = true → skovfaDecode r t (skWord i) = some i

/-- Every step keeps the memories canonical: addresses strictly rising, no entry that holds what an unlisted address reads as, every cached
sector 32 bytes long. -/
def Obligations.StepsKeepMemoryCanonical : Prop :=
  ∀ s u : State, Mem.wf s.mem = true → step s = .next u → Mem.wf u.mem = true

/-- The memories are canonical right after reset. -/
def Obligations.MemoryIsCanonicalAfterReset : Prop :=
  Mem.wf State.reset.mem = true
end

