-- ==== Sys2Proof/Laws/State.lean ====
section
/-! SUPPORT. One lemma for each field of the state and each named update of it, so that no proof unfolds a record update. -/

namespace Sys2Proof.Machine

/-! ### rset -/

@[simp] theorem rset_now (n : RegName) (u i : Nat) (v : Word) (s : State) : (rset n u i v s).now = s.now := rfl
@[simp] theorem rset_freeCtr (n : RegName) (u i : Nat) (v : Word) (s : State) : (rset n u i v s).freeCtr = s.freeCtr := rfl
@[simp] theorem rset_nextOp (n : RegName) (u i : Nat) (v : Word) (s : State) : (rset n u i v s).nextOp = s.nextOp := rfl
@[simp] theorem rset_pending (n : RegName) (u i : Nat) (v : Word) (s : State) : (rset n u i v s).pending = s.pending := rfl
@[simp] theorem rset_regs (n : RegName) (u i : Nat) (v : Word) (s : State) : (rset n u i v s).regs = s.regs.put (regOff n u i) v := rfl
@[simp] theorem rset_staged (n : RegName) (u i : Nat) (v : Word) (s : State) : (rset n u i v s).staged = s.staged := rfl
@[simp] theorem rset_applies (n : RegName) (u i : Nat) (v : Word) (s : State) : (rset n u i v s).applies = s.applies := rfl
@[simp] theorem rset_casks (n : RegName) (u i : Nat) (v : Word) (s : State) : (rset n u i v s).casks = s.casks := rfl
@[simp] theorem rset_ledger (n : RegName) (u i : Nat) (v : Word) (s : State) : (rset n u i v s).ledger = s.ledger := rfl
@[simp] theorem rset_cellar (n : RegName) (u i : Nat) (v : Word) (s : State) : (rset n u i v s).cellar = s.cellar := rfl
@[simp] theorem rset_racks (n : RegName) (u i : Nat) (v : Word) (s : State) : (rset n u i v s).racks = s.racks := rfl
@[simp] theorem rset_threads (n : RegName) (u i : Nat) (v : Word) (s : State) : (rset n u i v s).threads = s.threads := rfl
@[simp] theorem rset_quant (n : RegName) (u i : Nat) (v : Word) (s : State) : (rset n u i v s).quant = s.quant := rfl
@[simp] theorem rset_mem (n : RegName) (u i : Nat) (v : Word) (s : State) : (rset n u i v s).mem = s.mem := rfl
@[simp] theorem rset_rings (n : RegName) (u i : Nat) (v : Word) (s : State) : (rset n u i v s).rings = s.rings := rfl
@[simp] theorem rset_lastRing (n : RegName) (u i : Nat) (v : Word) (s : State) : (rset n u i v s).lastRing = s.lastRing := rfl
@[simp] theorem rset_sync (n : RegName) (u i : Nat) (v : Word) (s : State) : (rset n u i v s).sync = s.sync := rfl
@[simp] theorem rset_wraps (n : RegName) (u i : Nat) (v : Word) (s : State) : (rset n u i v s).wraps = s.wraps := rfl
@[simp] theorem rset_armed (n : RegName) (u i : Nat) (v : Word) (s : State) : (rset n u i v s).armed = s.armed := rfl
@[simp] theorem rset_sent (n : RegName) (u i : Nat) (v : Word) (s : State) : (rset n u i v s).sent = s.sent := rfl
@[simp] theorem rset_px (n : RegName) (u i : Nat) (v : Word) (s : State) : (rset n u i v s).px = s.px := rfl
@[simp] theorem rset_bv (n : RegName) (u i : Nat) (v : Word) (s : State) : (rset n u i v s).bv = s.bv := rfl
@[simp] theorem rset_pos (n : RegName) (u i : Nat) (v : Word) (s : State) : (rset n u i v s).pos = s.pos := rfl
@[simp] theorem rset_fe (n : RegName) (u i : Nat) (v : Word) (s : State) : (rset n u i v s).fe = s.fe := rfl
@[simp] theorem rset_cal (n : RegName) (u i : Nat) (v : Word) (s : State) : (rset n u i v s).cal = s.cal := rfl
@[simp] theorem rset_hang (n : RegName) (u i : Nat) (v : Word) (s : State) : (rset n u i v s).hang = s.hang := rfl
@[simp] theorem rset_pm (n : RegName) (u i : Nat) (v : Word) (s : State) : (rset n u i v s).pm = s.pm := rfl

/-! ### rput -/

@[simp] theorem rput_now (n : RegName) (u i hi lo v : Nat) (s : State) : (rput n u i hi lo v s).now = s.now := rfl
@[simp] theorem rput_freeCtr (n : RegName) (u i hi lo v : Nat) (s : State) : (rput n u i hi lo v s).freeCtr = s.freeCtr := rfl
@[simp] theorem rput_nextOp (n : RegName) (u i hi lo v : Nat) (s : State) : (rput n u i hi lo v s).nextOp = s.nextOp := rfl
@[simp] theorem rput_pending (n : RegName) (u i hi lo v : Nat) (s : State) : (rput n u i hi lo v s).pending = s.pending := rfl
@[simp] theorem rput_staged (n : RegName) (u i hi lo v : Nat) (s : State) : (rput n u i hi lo v s).staged = s.staged := rfl
@[simp] theorem rput_applies (n : RegName) (u i hi lo v : Nat) (s : State) : (rput n u i hi lo v s).applies = s.applies := rfl
@[simp] theorem rput_casks (n : RegName) (u i hi lo v : Nat) (s : State) : (rput n u i hi lo v s).casks = s.casks := rfl
@[simp] theorem rput_ledger (n : RegName) (u i hi lo v : Nat) (s : State) : (rput n u i hi lo v s).ledger = s.ledger := rfl
@[simp] theorem rput_cellar (n : RegName) (u i hi lo v : Nat) (s : State) : (rput n u i hi lo v s).cellar = s.cellar := rfl
@[simp] theorem rput_racks (n : RegName) (u i hi lo v : Nat) (s : State) : (rput n u i hi lo v s).racks = s.racks := rfl
@[simp] theorem rput_threads (n : RegName) (u i hi lo v : Nat) (s : State) : (rput n u i hi lo v s).threads = s.threads := rfl
@[simp] theorem rput_quant (n : RegName) (u i hi lo v : Nat) (s : State) : (rput n u i hi lo v s).quant = s.quant := rfl
@[simp] theorem rput_mem (n : RegName) (u i hi lo v : Nat) (s : State) : (rput n u i hi lo v s).mem = s.mem := rfl
@[simp] theorem rput_rings (n : RegName) (u i hi lo v : Nat) (s : State) : (rput n u i hi lo v s).rings = s.rings := rfl
@[simp] theorem rput_lastRing (n : RegName) (u i hi lo v : Nat) (s : State) : (rput n u i hi lo v s).lastRing = s.lastRing := rfl
@[simp] theorem rput_sync (n : RegName) (u i hi lo v : Nat) (s : State) : (rput n u i hi lo v s).sync = s.sync := rfl
@[simp] theorem rput_wraps (n : RegName) (u i hi lo v : Nat) (s : State) : (rput n u i hi lo v s).wraps = s.wraps := rfl
@[simp] theorem rput_armed (n : RegName) (u i hi lo v : Nat) (s : State) : (rput n u i hi lo v s).armed = s.armed := rfl
@[simp] theorem rput_sent (n : RegName) (u i hi lo v : Nat) (s : State) : (rput n u i hi lo v s).sent = s.sent := rfl
@[simp] theorem rput_px (n : RegName) (u i hi lo v : Nat) (s : State) : (rput n u i hi lo v s).px = s.px := rfl
@[simp] theorem rput_bv (n : RegName) (u i hi lo v : Nat) (s : State) : (rput n u i hi lo v s).bv = s.bv := rfl
@[simp] theorem rput_pos (n : RegName) (u i hi lo v : Nat) (s : State) : (rput n u i hi lo v s).pos = s.pos := rfl
@[simp] theorem rput_fe (n : RegName) (u i hi lo v : Nat) (s : State) : (rput n u i hi lo v s).fe = s.fe := rfl
@[simp] theorem rput_cal (n : RegName) (u i hi lo v : Nat) (s : State) : (rput n u i hi lo v s).cal = s.cal := rfl
@[simp] theorem rput_hang (n : RegName) (u i hi lo v : Nat) (s : State) : (rput n u i hi lo v s).hang = s.hang := rfl
@[simp] theorem rput_pm (n : RegName) (u i hi lo v : Nat) (s : State) : (rput n u i hi lo v s).pm = s.pm := rfl

/-! ### bump -/

@[simp] theorem bump_now (n : RegName) (u i k : Nat) (s : State) : (bump n u i k s).now = s.now := rfl
@[simp] theorem bump_freeCtr (n : RegName) (u i k : Nat) (s : State) : (bump n u i k s).freeCtr = s.freeCtr := rfl
@[simp] theorem bump_nextOp (n : RegName) (u i k : Nat) (s : State) : (bump n u i k s).nextOp = s.nextOp := rfl
@[simp] theorem bump_pending (n : RegName) (u i k : Nat) (s : State) : (bump n u i k s).pending = s.pending := rfl
@[simp] theorem bump_staged (n : RegName) (u i k : Nat) (s : State) : (bump n u i k s).staged = s.staged := rfl
@[simp] theorem bump_applies (n : RegName) (u i k : Nat) (s : State) : (bump n u i k s).applies = s.applies := rfl
@[simp] theorem bump_casks (n : RegName) (u i k : Nat) (s : State) : (bump n u i k s).casks = s.casks := rfl
@[simp] theorem bump_ledger (n : RegName) (u i k : Nat) (s : State) : (bump n u i k s).ledger = s.ledger := rfl
@[simp] theorem bump_cellar (n : RegName) (u i k : Nat) (s : State) : (bump n u i k s).cellar = s.cellar := rfl
@[simp] theorem bump_racks (n : RegName) (u i k : Nat) (s : State) : (bump n u i k s).racks = s.racks := rfl
@[simp] theorem bump_threads (n : RegName) (u i k : Nat) (s : State) : (bump n u i k s).threads = s.threads := rfl
@[simp] theorem bump_quant (n : RegName) (u i k : Nat) (s : State) : (bump n u i k s).quant = s.quant := rfl
@[simp] theorem bump_mem (n : RegName) (u i k : Nat) (s : State) : (bump n u i k s).mem = s.mem := rfl
@[simp] theorem bump_rings (n : RegName) (u i k : Nat) (s : State) : (bump n u i k s).rings = s.rings := rfl
@[simp] theorem bump_lastRing (n : RegName) (u i k : Nat) (s : State) : (bump n u i k s).lastRing = s.lastRing := rfl
@[simp] theorem bump_sync (n : RegName) (u i k : Nat) (s : State) : (bump n u i k s).sync = s.sync := rfl
@[simp] theorem bump_wraps (n : RegName) (u i k : Nat) (s : State) : (bump n u i k s).wraps = s.wraps := rfl
@[simp] theorem bump_armed (n : RegName) (u i k : Nat) (s : State) : (bump n u i k s).armed = s.armed := rfl
@[simp] theorem bump_sent (n : RegName) (u i k : Nat) (s : State) : (bump n u i k s).sent = s.sent := rfl
@[simp] theorem bump_px (n : RegName) (u i k : Nat) (s : State) : (bump n u i k s).px = s.px := rfl
@[simp] theorem bump_bv (n : RegName) (u i k : Nat) (s : State) : (bump n u i k s).bv = s.bv := rfl
@[simp] theorem bump_pos (n : RegName) (u i k : Nat) (s : State) : (bump n u i k s).pos = s.pos := rfl
@[simp] theorem bump_fe (n : RegName) (u i k : Nat) (s : State) : (bump n u i k s).fe = s.fe := rfl
@[simp] theorem bump_cal (n : RegName) (u i k : Nat) (s : State) : (bump n u i k s).cal = s.cal := rfl
@[simp] theorem bump_hang (n : RegName) (u i k : Nat) (s : State) : (bump n u i k s).hang = s.hang := rfl
@[simp] theorem bump_pm (n : RegName) (u i k : Nat) (s : State) : (bump n u i k s).pm = s.pm := rfl

/-! ### rset64 -/

@[simp] theorem rset64_now (n : RegName) (u i v : Nat) (s : State) : (rset64 n u i v s).now = s.now := rfl
@[simp] theorem rset64_freeCtr (n : RegName) (u i v : Nat) (s : State) : (rset64 n u i v s).freeCtr = s.freeCtr := rfl
@[simp] theorem rset64_nextOp (n : RegName) (u i v : Nat) (s : State) : (rset64 n u i v s).nextOp = s.nextOp := rfl
@[simp] theorem rset64_pending (n : RegName) (u i v : Nat) (s : State) : (rset64 n u i v s).pending = s.pending := rfl
@[simp] theorem rset64_staged (n : RegName) (u i v : Nat) (s : State) : (rset64 n u i v s).staged = s.staged := rfl
@[simp] theorem rset64_applies (n : RegName) (u i v : Nat) (s : State) : (rset64 n u i v s).applies = s.applies := rfl
@[simp] theorem rset64_casks (n : RegName) (u i v : Nat) (s : State) : (rset64 n u i v s).casks = s.casks := rfl
@[simp] theorem rset64_ledger (n : RegName) (u i v : Nat) (s : State) : (rset64 n u i v s).ledger = s.ledger := rfl
@[simp] theorem rset64_cellar (n : RegName) (u i v : Nat) (s : State) : (rset64 n u i v s).cellar = s.cellar := rfl
@[simp] theorem rset64_racks (n : RegName) (u i v : Nat) (s : State) : (rset64 n u i v s).racks = s.racks := rfl
@[simp] theorem rset64_threads (n : RegName) (u i v : Nat) (s : State) : (rset64 n u i v s).threads = s.threads := rfl
@[simp] theorem rset64_quant (n : RegName) (u i v : Nat) (s : State) : (rset64 n u i v s).quant = s.quant := rfl
@[simp] theorem rset64_mem (n : RegName) (u i v : Nat) (s : State) : (rset64 n u i v s).mem = s.mem := rfl
@[simp] theorem rset64_rings (n : RegName) (u i v : Nat) (s : State) : (rset64 n u i v s).rings = s.rings := rfl
@[simp] theorem rset64_lastRing (n : RegName) (u i v : Nat) (s : State) : (rset64 n u i v s).lastRing = s.lastRing := rfl
@[simp] theorem rset64_sync (n : RegName) (u i v : Nat) (s : State) : (rset64 n u i v s).sync = s.sync := rfl
@[simp] theorem rset64_wraps (n : RegName) (u i v : Nat) (s : State) : (rset64 n u i v s).wraps = s.wraps := rfl
@[simp] theorem rset64_armed (n : RegName) (u i v : Nat) (s : State) : (rset64 n u i v s).armed = s.armed := rfl
@[simp] theorem rset64_sent (n : RegName) (u i v : Nat) (s : State) : (rset64 n u i v s).sent = s.sent := rfl
@[simp] theorem rset64_px (n : RegName) (u i v : Nat) (s : State) : (rset64 n u i v s).px = s.px := rfl
@[simp] theorem rset64_bv (n : RegName) (u i v : Nat) (s : State) : (rset64 n u i v s).bv = s.bv := rfl
@[simp] theorem rset64_pos (n : RegName) (u i v : Nat) (s : State) : (rset64 n u i v s).pos = s.pos := rfl
@[simp] theorem rset64_fe (n : RegName) (u i v : Nat) (s : State) : (rset64 n u i v s).fe = s.fe := rfl
@[simp] theorem rset64_cal (n : RegName) (u i v : Nat) (s : State) : (rset64 n u i v s).cal = s.cal := rfl
@[simp] theorem rset64_hang (n : RegName) (u i v : Nat) (s : State) : (rset64 n u i v s).hang = s.hang := rfl
@[simp] theorem rset64_pm (n : RegName) (u i v : Nat) (s : State) : (rset64 n u i v s).pm = s.pm := rfl

/-! ### setCask -/

@[simp] theorem setCask_now (c : Nat) (k : Cask) (s : State) : (setCask c k s).now = s.now := rfl
@[simp] theorem setCask_freeCtr (c : Nat) (k : Cask) (s : State) : (setCask c k s).freeCtr = s.freeCtr := rfl
@[simp] theorem setCask_nextOp (c : Nat) (k : Cask) (s : State) : (setCask c k s).nextOp = s.nextOp := rfl
@[simp] theorem setCask_pending (c : Nat) (k : Cask) (s : State) : (setCask c k s).pending = s.pending := rfl
@[simp] theorem setCask_regs (c : Nat) (k : Cask) (s : State) : (setCask c k s).regs = s.regs := rfl
@[simp] theorem setCask_staged (c : Nat) (k : Cask) (s : State) : (setCask c k s).staged = s.staged := rfl
@[simp] theorem setCask_applies (c : Nat) (k : Cask) (s : State) : (setCask c k s).applies = s.applies := rfl
@[simp] theorem setCask_casks (c : Nat) (k : Cask) (s : State) : (setCask c k s).casks = s.casks.put c k := rfl
@[simp] theorem setCask_ledger (c : Nat) (k : Cask) (s : State) : (setCask c k s).ledger = s.ledger := rfl
@[simp] theorem setCask_cellar (c : Nat) (k : Cask) (s : State) : (setCask c k s).cellar = s.cellar := rfl
@[simp] theorem setCask_racks (c : Nat) (k : Cask) (s : State) : (setCask c k s).racks = s.racks := rfl
@[simp] theorem setCask_threads (c : Nat) (k : Cask) (s : State) : (setCask c k s).threads = s.threads := rfl
@[simp] theorem setCask_quant (c : Nat) (k : Cask) (s : State) : (setCask c k s).quant = s.quant := rfl
@[simp] theorem setCask_mem (c : Nat) (k : Cask) (s : State) : (setCask c k s).mem = s.mem := rfl
@[simp] theorem setCask_rings (c : Nat) (k : Cask) (s : State) : (setCask c k s).rings = s.rings := rfl
@[simp] theorem setCask_lastRing (c : Nat) (k : Cask) (s : State) : (setCask c k s).lastRing = s.lastRing := rfl
@[simp] theorem setCask_sync (c : Nat) (k : Cask) (s : State) : (setCask c k s).sync = s.sync := rfl
@[simp] theorem setCask_wraps (c : Nat) (k : Cask) (s : State) : (setCask c k s).wraps = s.wraps := rfl
@[simp] theorem setCask_armed (c : Nat) (k : Cask) (s : State) : (setCask c k s).armed = s.armed := rfl
@[simp] theorem setCask_sent (c : Nat) (k : Cask) (s : State) : (setCask c k s).sent = s.sent := rfl
@[simp] theorem setCask_px (c : Nat) (k : Cask) (s : State) : (setCask c k s).px = s.px := rfl
@[simp] theorem setCask_bv (c : Nat) (k : Cask) (s : State) : (setCask c k s).bv = s.bv := rfl
@[simp] theorem setCask_pos (c : Nat) (k : Cask) (s : State) : (setCask c k s).pos = s.pos := rfl
@[simp] theorem setCask_fe (c : Nat) (k : Cask) (s : State) : (setCask c k s).fe = s.fe := rfl
@[simp] theorem setCask_cal (c : Nat) (k : Cask) (s : State) : (setCask c k s).cal = s.cal := rfl
@[simp] theorem setCask_hang (c : Nat) (k : Cask) (s : State) : (setCask c k s).hang = s.hang := rfl
@[simp] theorem setCask_pm (c : Nat) (k : Cask) (s : State) : (setCask c k s).pm = s.pm := rfl

/-! ### modCask -/

@[simp] theorem modCask_now (c : Nat) (f : Cask → Cask) (s : State) : (modCask c f s).now = s.now := rfl
@[simp] theorem modCask_freeCtr (c : Nat) (f : Cask → Cask) (s : State) : (modCask c f s).freeCtr = s.freeCtr := rfl
@[simp] theorem modCask_nextOp (c : Nat) (f : Cask → Cask) (s : State) : (modCask c f s).nextOp = s.nextOp := rfl
@[simp] theorem modCask_pending (c : Nat) (f : Cask → Cask) (s : State) : (modCask c f s).pending = s.pending := rfl
@[simp] theorem modCask_regs (c : Nat) (f : Cask → Cask) (s : State) : (modCask c f s).regs = s.regs := rfl
@[simp] theorem modCask_staged (c : Nat) (f : Cask → Cask) (s : State) : (modCask c f s).staged = s.staged := rfl
@[simp] theorem modCask_applies (c : Nat) (f : Cask → Cask) (s : State) : (modCask c f s).applies = s.applies := rfl
@[simp] theorem modCask_casks (c : Nat) (f : Cask → Cask) (s : State) : (modCask c f s).casks = s.casks.put c (f (getCask c s)) := rfl
@[simp] theorem modCask_ledger (c : Nat) (f : Cask → Cask) (s : State) : (modCask c f s).ledger = s.ledger := rfl
@[simp] theorem modCask_cellar (c : Nat) (f : Cask → Cask) (s : State) : (modCask c f s).cellar = s.cellar := rfl
@[simp] theorem modCask_racks (c : Nat) (f : Cask → Cask) (s : State) : (modCask c f s).racks = s.racks := rfl
@[simp] theorem modCask_threads (c : Nat) (f : Cask → Cask) (s : State) : (modCask c f s).threads = s.threads := rfl
@[simp] theorem modCask_quant (c : Nat) (f : Cask → Cask) (s : State) : (modCask c f s).quant = s.quant := rfl
@[simp] theorem modCask_mem (c : Nat) (f : Cask → Cask) (s : State) : (modCask c f s).mem = s.mem := rfl
@[simp] theorem modCask_rings (c : Nat) (f : Cask → Cask) (s : State) : (modCask c f s).rings = s.rings := rfl
@[simp] theorem modCask_lastRing (c : Nat) (f : Cask → Cask) (s : State) : (modCask c f s).lastRing = s.lastRing := rfl
@[simp] theorem modCask_sync (c : Nat) (f : Cask → Cask) (s : State) : (modCask c f s).sync = s.sync := rfl
@[simp] theorem modCask_wraps (c : Nat) (f : Cask → Cask) (s : State) : (modCask c f s).wraps = s.wraps := rfl
@[simp] theorem modCask_armed (c : Nat) (f : Cask → Cask) (s : State) : (modCask c f s).armed = s.armed := rfl
@[simp] theorem modCask_sent (c : Nat) (f : Cask → Cask) (s : State) : (modCask c f s).sent = s.sent := rfl
@[simp] theorem modCask_px (c : Nat) (f : Cask → Cask) (s : State) : (modCask c f s).px = s.px := rfl
@[simp] theorem modCask_bv (c : Nat) (f : Cask → Cask) (s : State) : (modCask c f s).bv = s.bv := rfl
@[simp] theorem modCask_pos (c : Nat) (f : Cask → Cask) (s : State) : (modCask c f s).pos = s.pos := rfl
@[simp] theorem modCask_fe (c : Nat) (f : Cask → Cask) (s : State) : (modCask c f s).fe = s.fe := rfl
@[simp] theorem modCask_cal (c : Nat) (f : Cask → Cask) (s : State) : (modCask c f s).cal = s.cal := rfl
@[simp] theorem modCask_hang (c : Nat) (f : Cask → Cask) (s : State) : (modCask c f s).hang = s.hang := rfl
@[simp] theorem modCask_pm (c : Nat) (f : Cask → Cask) (s : State) : (modCask c f s).pm = s.pm := rfl

/-! ### setRack -/

@[simp] theorem setRack_now (r : Nat) (k : RackSt) (s : State) : (setRack r k s).now = s.now := rfl
@[simp] theorem setRack_freeCtr (r : Nat) (k : RackSt) (s : State) : (setRack r k s).freeCtr = s.freeCtr := rfl
@[simp] theorem setRack_nextOp (r : Nat) (k : RackSt) (s : State) : (setRack r k s).nextOp = s.nextOp := rfl
@[simp] theorem setRack_pending (r : Nat) (k : RackSt) (s : State) : (setRack r k s).pending = s.pending := rfl
@[simp] theorem setRack_regs (r : Nat) (k : RackSt) (s : State) : (setRack r k s).regs = s.regs := rfl
@[simp] theorem setRack_staged (r : Nat) (k : RackSt) (s : State) : (setRack r k s).staged = s.staged := rfl
@[simp] theorem setRack_applies (r : Nat) (k : RackSt) (s : State) : (setRack r k s).applies = s.applies := rfl
@[simp] theorem setRack_casks (r : Nat) (k : RackSt) (s : State) : (setRack r k s).casks = s.casks := rfl
@[simp] theorem setRack_ledger (r : Nat) (k : RackSt) (s : State) : (setRack r k s).ledger = s.ledger := rfl
@[simp] theorem setRack_cellar (r : Nat) (k : RackSt) (s : State) : (setRack r k s).cellar = s.cellar := rfl
@[simp] theorem setRack_racks (r : Nat) (k : RackSt) (s : State) : (setRack r k s).racks = s.racks.put r k := rfl
@[simp] theorem setRack_threads (r : Nat) (k : RackSt) (s : State) : (setRack r k s).threads = s.threads := rfl
@[simp] theorem setRack_quant (r : Nat) (k : RackSt) (s : State) : (setRack r k s).quant = s.quant := rfl
@[simp] theorem setRack_mem (r : Nat) (k : RackSt) (s : State) : (setRack r k s).mem = s.mem := rfl
@[simp] theorem setRack_rings (r : Nat) (k : RackSt) (s : State) : (setRack r k s).rings = s.rings := rfl
@[simp] theorem setRack_lastRing (r : Nat) (k : RackSt) (s : State) : (setRack r k s).lastRing = s.lastRing := rfl
@[simp] theorem setRack_sync (r : Nat) (k : RackSt) (s : State) : (setRack r k s).sync = s.sync := rfl
@[simp] theorem setRack_wraps (r : Nat) (k : RackSt) (s : State) : (setRack r k s).wraps = s.wraps := rfl
@[simp] theorem setRack_armed (r : Nat) (k : RackSt) (s : State) : (setRack r k s).armed = s.armed := rfl
@[simp] theorem setRack_sent (r : Nat) (k : RackSt) (s : State) : (setRack r k s).sent = s.sent := rfl
@[simp] theorem setRack_px (r : Nat) (k : RackSt) (s : State) : (setRack r k s).px = s.px := rfl
@[simp] theorem setRack_bv (r : Nat) (k : RackSt) (s : State) : (setRack r k s).bv = s.bv := rfl
@[simp] theorem setRack_pos (r : Nat) (k : RackSt) (s : State) : (setRack r k s).pos = s.pos := rfl
@[simp] theorem setRack_fe (r : Nat) (k : RackSt) (s : State) : (setRack r k s).fe = s.fe := rfl
@[simp] theorem setRack_cal (r : Nat) (k : RackSt) (s : State) : (setRack r k s).cal = s.cal := rfl
@[simp] theorem setRack_hang (r : Nat) (k : RackSt) (s : State) : (setRack r k s).hang = s.hang := rfl
@[simp] theorem setRack_pm (r : Nat) (k : RackSt) (s : State) : (setRack r k s).pm = s.pm := rfl

/-! ### modRack -/

@[simp] theorem modRack_now (r : Nat) (f : RackSt → RackSt) (s : State) : (modRack r f s).now = s.now := rfl
@[simp] theorem modRack_freeCtr (r : Nat) (f : RackSt → RackSt) (s : State) : (modRack r f s).freeCtr = s.freeCtr := rfl
@[simp] theorem modRack_nextOp (r : Nat) (f : RackSt → RackSt) (s : State) : (modRack r f s).nextOp = s.nextOp := rfl
@[simp] theorem modRack_pending (r : Nat) (f : RackSt → RackSt) (s : State) : (modRack r f s).pending = s.pending := rfl
@[simp] theorem modRack_regs (r : Nat) (f : RackSt → RackSt) (s : State) : (modRack r f s).regs = s.regs := rfl
@[simp] theorem modRack_staged (r : Nat) (f : RackSt → RackSt) (s : State) : (modRack r f s).staged = s.staged := rfl
@[simp] theorem modRack_applies (r : Nat) (f : RackSt → RackSt) (s : State) : (modRack r f s).applies = s.applies := rfl
@[simp] theorem modRack_casks (r : Nat) (f : RackSt → RackSt) (s : State) : (modRack r f s).casks = s.casks := rfl
@[simp] theorem modRack_ledger (r : Nat) (f : RackSt → RackSt) (s : State) : (modRack r f s).ledger = s.ledger := rfl
@[simp] theorem modRack_cellar (r : Nat) (f : RackSt → RackSt) (s : State) : (modRack r f s).cellar = s.cellar := rfl
@[simp] theorem modRack_racks (r : Nat) (f : RackSt → RackSt) (s : State) : (modRack r f s).racks = s.racks.put r (f (getRack r s)) := rfl
@[simp] theorem modRack_threads (r : Nat) (f : RackSt → RackSt) (s : State) : (modRack r f s).threads = s.threads := rfl
@[simp] theorem modRack_quant (r : Nat) (f : RackSt → RackSt) (s : State) : (modRack r f s).quant = s.quant := rfl
@[simp] theorem modRack_mem (r : Nat) (f : RackSt → RackSt) (s : State) : (modRack r f s).mem = s.mem := rfl
@[simp] theorem modRack_rings (r : Nat) (f : RackSt → RackSt) (s : State) : (modRack r f s).rings = s.rings := rfl
@[simp] theorem modRack_lastRing (r : Nat) (f : RackSt → RackSt) (s : State) : (modRack r f s).lastRing = s.lastRing := rfl
@[simp] theorem modRack_sync (r : Nat) (f : RackSt → RackSt) (s : State) : (modRack r f s).sync = s.sync := rfl
@[simp] theorem modRack_wraps (r : Nat) (f : RackSt → RackSt) (s : State) : (modRack r f s).wraps = s.wraps := rfl
@[simp] theorem modRack_armed (r : Nat) (f : RackSt → RackSt) (s : State) : (modRack r f s).armed = s.armed := rfl
@[simp] theorem modRack_sent (r : Nat) (f : RackSt → RackSt) (s : State) : (modRack r f s).sent = s.sent := rfl
@[simp] theorem modRack_px (r : Nat) (f : RackSt → RackSt) (s : State) : (modRack r f s).px = s.px := rfl
@[simp] theorem modRack_bv (r : Nat) (f : RackSt → RackSt) (s : State) : (modRack r f s).bv = s.bv := rfl
@[simp] theorem modRack_pos (r : Nat) (f : RackSt → RackSt) (s : State) : (modRack r f s).pos = s.pos := rfl
@[simp] theorem modRack_fe (r : Nat) (f : RackSt → RackSt) (s : State) : (modRack r f s).fe = s.fe := rfl
@[simp] theorem modRack_cal (r : Nat) (f : RackSt → RackSt) (s : State) : (modRack r f s).cal = s.cal := rfl
@[simp] theorem modRack_hang (r : Nat) (f : RackSt → RackSt) (s : State) : (modRack r f s).hang = s.hang := rfl
@[simp] theorem modRack_pm (r : Nat) (f : RackSt → RackSt) (s : State) : (modRack r f s).pm = s.pm := rfl

/-! ### modSlot -/

@[simp] theorem modSlot_now (r k : Nat) (f : Slot → Slot) (s : State) : (modSlot r k f s).now = s.now := rfl
@[simp] theorem modSlot_freeCtr (r k : Nat) (f : Slot → Slot) (s : State) : (modSlot r k f s).freeCtr = s.freeCtr := rfl
@[simp] theorem modSlot_nextOp (r k : Nat) (f : Slot → Slot) (s : State) : (modSlot r k f s).nextOp = s.nextOp := rfl
@[simp] theorem modSlot_pending (r k : Nat) (f : Slot → Slot) (s : State) : (modSlot r k f s).pending = s.pending := rfl
@[simp] theorem modSlot_regs (r k : Nat) (f : Slot → Slot) (s : State) : (modSlot r k f s).regs = s.regs := rfl
@[simp] theorem modSlot_staged (r k : Nat) (f : Slot → Slot) (s : State) : (modSlot r k f s).staged = s.staged := rfl
@[simp] theorem modSlot_applies (r k : Nat) (f : Slot → Slot) (s : State) : (modSlot r k f s).applies = s.applies := rfl
@[simp] theorem modSlot_casks (r k : Nat) (f : Slot → Slot) (s : State) : (modSlot r k f s).casks = s.casks := rfl
@[simp] theorem modSlot_ledger (r k : Nat) (f : Slot → Slot) (s : State) : (modSlot r k f s).ledger = s.ledger := rfl
@[simp] theorem modSlot_cellar (r k : Nat) (f : Slot → Slot) (s : State) : (modSlot r k f s).cellar = s.cellar := rfl
@[simp] theorem modSlot_threads (r k : Nat) (f : Slot → Slot) (s : State) : (modSlot r k f s).threads = s.threads := rfl
@[simp] theorem modSlot_quant (r k : Nat) (f : Slot → Slot) (s : State) : (modSlot r k f s).quant = s.quant := rfl
@[simp] theorem modSlot_mem (r k : Nat) (f : Slot → Slot) (s : State) : (modSlot r k f s).mem = s.mem := rfl
@[simp] theorem modSlot_rings (r k : Nat) (f : Slot → Slot) (s : State) : (modSlot r k f s).rings = s.rings := rfl
@[simp] theorem modSlot_lastRing (r k : Nat) (f : Slot → Slot) (s : State) : (modSlot r k f s).lastRing = s.lastRing := rfl
@[simp] theorem modSlot_sync (r k : Nat) (f : Slot → Slot) (s : State) : (modSlot r k f s).sync = s.sync := rfl
@[simp] theorem modSlot_wraps (r k : Nat) (f : Slot → Slot) (s : State) : (modSlot r k f s).wraps = s.wraps := rfl
@[simp] theorem modSlot_armed (r k : Nat) (f : Slot → Slot) (s : State) : (modSlot r k f s).armed = s.armed := rfl
@[simp] theorem modSlot_sent (r k : Nat) (f : Slot → Slot) (s : State) : (modSlot r k f s).sent = s.sent := rfl
@[simp] theorem modSlot_px (r k : Nat) (f : Slot → Slot) (s : State) : (modSlot r k f s).px = s.px := rfl
@[simp] theorem modSlot_bv (r k : Nat) (f : Slot → Slot) (s : State) : (modSlot r k f s).bv = s.bv := rfl
@[simp] theorem modSlot_pos (r k : Nat) (f : Slot → Slot) (s : State) : (modSlot r k f s).pos = s.pos := rfl
@[simp] theorem modSlot_fe (r k : Nat) (f : Slot → Slot) (s : State) : (modSlot r k f s).fe = s.fe := rfl
@[simp] theorem modSlot_cal (r k : Nat) (f : Slot → Slot) (s : State) : (modSlot r k f s).cal = s.cal := rfl
@[simp] theorem modSlot_hang (r k : Nat) (f : Slot → Slot) (s : State) : (modSlot r k f s).hang = s.hang := rfl
@[simp] theorem modSlot_pm (r k : Nat) (f : Slot → Slot) (s : State) : (modSlot r k f s).pm = s.pm := rfl

/-! ### setThread -/

@[simp] theorem setThread_now (r t : Nat) (k : Thread) (s : State) : (setThread r t k s).now = s.now := rfl
@[simp] theorem setThread_freeCtr (r t : Nat) (k : Thread) (s : State) : (setThread r t k s).freeCtr = s.freeCtr := rfl
@[simp] theorem setThread_nextOp (r t : Nat) (k : Thread) (s : State) : (setThread r t k s).nextOp = s.nextOp := rfl
@[simp] theorem setThread_pending (r t : Nat) (k : Thread) (s : State) : (setThread r t k s).pending = s.pending := rfl
@[simp] theorem setThread_regs (r t : Nat) (k : Thread) (s : State) : (setThread r t k s).regs = s.regs := rfl
@[simp] theorem setThread_staged (r t : Nat) (k : Thread) (s : State) : (setThread r t k s).staged = s.staged := rfl
@[simp] theorem setThread_applies (r t : Nat) (k : Thread) (s : State) : (setThread r t k s).applies = s.applies := rfl
@[simp] theorem setThread_casks (r t : Nat) (k : Thread) (s : State) : (setThread r t k s).casks = s.casks := rfl
@[simp] theorem setThread_ledger (r t : Nat) (k : Thread) (s : State) : (setThread r t k s).ledger = s.ledger := rfl
@[simp] theorem setThread_cellar (r t : Nat) (k : Thread) (s : State) : (setThread r t k s).cellar = s.cellar := rfl
@[simp] theorem setThread_racks (r t : Nat) (k : Thread) (s : State) : (setThread r t k s).racks = s.racks := rfl
@[simp] theorem setThread_threads (r t : Nat) (k : Thread) (s : State) : (setThread r t k s).threads = s.threads.put (64 * r + t) k := rfl
@[simp] theorem setThread_quant (r t : Nat) (k : Thread) (s : State) : (setThread r t k s).quant = s.quant := rfl
@[simp] theorem setThread_mem (r t : Nat) (k : Thread) (s : State) : (setThread r t k s).mem = s.mem := rfl
@[simp] theorem setThread_rings (r t : Nat) (k : Thread) (s : State) : (setThread r t k s).rings = s.rings := rfl
@[simp] theorem setThread_lastRing (r t : Nat) (k : Thread) (s : State) : (setThread r t k s).lastRing = s.lastRing := rfl
@[simp] theorem setThread_sync (r t : Nat) (k : Thread) (s : State) : (setThread r t k s).sync = s.sync := rfl
@[simp] theorem setThread_wraps (r t : Nat) (k : Thread) (s : State) : (setThread r t k s).wraps = s.wraps := rfl
@[simp] theorem setThread_armed (r t : Nat) (k : Thread) (s : State) : (setThread r t k s).armed = s.armed := rfl
@[simp] theorem setThread_sent (r t : Nat) (k : Thread) (s : State) : (setThread r t k s).sent = s.sent := rfl
@[simp] theorem setThread_px (r t : Nat) (k : Thread) (s : State) : (setThread r t k s).px = s.px := rfl
@[simp] theorem setThread_bv (r t : Nat) (k : Thread) (s : State) : (setThread r t k s).bv = s.bv := rfl
@[simp] theorem setThread_pos (r t : Nat) (k : Thread) (s : State) : (setThread r t k s).pos = s.pos := rfl
@[simp] theorem setThread_fe (r t : Nat) (k : Thread) (s : State) : (setThread r t k s).fe = s.fe := rfl
@[simp] theorem setThread_cal (r t : Nat) (k : Thread) (s : State) : (setThread r t k s).cal = s.cal := rfl
@[simp] theorem setThread_hang (r t : Nat) (k : Thread) (s : State) : (setThread r t k s).hang = s.hang := rfl
@[simp] theorem setThread_pm (r t : Nat) (k : Thread) (s : State) : (setThread r t k s).pm = s.pm := rfl

/-! ### modThread -/

@[simp] theorem modThread_now (r t : Nat) (f : Thread → Thread) (s : State) : (modThread r t f s).now = s.now := rfl
@[simp] theorem modThread_freeCtr (r t : Nat) (f : Thread → Thread) (s : State) : (modThread r t f s).freeCtr = s.freeCtr := rfl
@[simp] theorem modThread_nextOp (r t : Nat) (f : Thread → Thread) (s : State) : (modThread r t f s).nextOp = s.nextOp := rfl
@[simp] theorem modThread_pending (r t : Nat) (f : Thread → Thread) (s : State) : (modThread r t f s).pending = s.pending := rfl
@[simp] theorem modThread_regs (r t : Nat) (f : Thread → Thread) (s : State) : (modThread r t f s).regs = s.regs := rfl
@[simp] theorem modThread_staged (r t : Nat) (f : Thread → Thread) (s : State) : (modThread r t f s).staged = s.staged := rfl
@[simp] theorem modThread_applies (r t : Nat) (f : Thread → Thread) (s : State) : (modThread r t f s).applies = s.applies := rfl
@[simp] theorem modThread_casks (r t : Nat) (f : Thread → Thread) (s : State) : (modThread r t f s).casks = s.casks := rfl
@[simp] theorem modThread_ledger (r t : Nat) (f : Thread → Thread) (s : State) : (modThread r t f s).ledger = s.ledger := rfl
@[simp] theorem modThread_cellar (r t : Nat) (f : Thread → Thread) (s : State) : (modThread r t f s).cellar = s.cellar := rfl
@[simp] theorem modThread_racks (r t : Nat) (f : Thread → Thread) (s : State) : (modThread r t f s).racks = s.racks := rfl
@[simp] theorem modThread_threads (r t : Nat) (f : Thread → Thread) (s : State) : (modThread r t f s).threads = s.threads.put (64 * r + t) (f (getThread r t s)) := rfl
@[simp] theorem modThread_quant (r t : Nat) (f : Thread → Thread) (s : State) : (modThread r t f s).quant = s.quant := rfl
@[simp] theorem modThread_mem (r t : Nat) (f : Thread → Thread) (s : State) : (modThread r t f s).mem = s.mem := rfl
@[simp] theorem modThread_rings (r t : Nat) (f : Thread → Thread) (s : State) : (modThread r t f s).rings = s.rings := rfl
@[simp] theorem modThread_lastRing (r t : Nat) (f : Thread → Thread) (s : State) : (modThread r t f s).lastRing = s.lastRing := rfl
@[simp] theorem modThread_sync (r t : Nat) (f : Thread → Thread) (s : State) : (modThread r t f s).sync = s.sync := rfl
@[simp] theorem modThread_wraps (r t : Nat) (f : Thread → Thread) (s : State) : (modThread r t f s).wraps = s.wraps := rfl
@[simp] theorem modThread_armed (r t : Nat) (f : Thread → Thread) (s : State) : (modThread r t f s).armed = s.armed := rfl
@[simp] theorem modThread_sent (r t : Nat) (f : Thread → Thread) (s : State) : (modThread r t f s).sent = s.sent := rfl
@[simp] theorem modThread_px (r t : Nat) (f : Thread → Thread) (s : State) : (modThread r t f s).px = s.px := rfl
@[simp] theorem modThread_bv (r t : Nat) (f : Thread → Thread) (s : State) : (modThread r t f s).bv = s.bv := rfl
@[simp] theorem modThread_pos (r t : Nat) (f : Thread → Thread) (s : State) : (modThread r t f s).pos = s.pos := rfl
@[simp] theorem modThread_fe (r t : Nat) (f : Thread → Thread) (s : State) : (modThread r t f s).fe = s.fe := rfl
@[simp] theorem modThread_cal (r t : Nat) (f : Thread → Thread) (s : State) : (modThread r t f s).cal = s.cal := rfl
@[simp] theorem modThread_hang (r t : Nat) (f : Thread → Thread) (s : State) : (modThread r t f s).hang = s.hang := rfl
@[simp] theorem modThread_pm (r t : Nat) (f : Thread → Thread) (s : State) : (modThread r t f s).pm = s.pm := rfl

/-! ### setRing -/

@[simp] theorem setRing_now (n : Nat) (k : Ring) (s : State) : (setRing n k s).now = s.now := rfl
@[simp] theorem setRing_freeCtr (n : Nat) (k : Ring) (s : State) : (setRing n k s).freeCtr = s.freeCtr := rfl
@[simp] theorem setRing_nextOp (n : Nat) (k : Ring) (s : State) : (setRing n k s).nextOp = s.nextOp := rfl
@[simp] theorem setRing_pending (n : Nat) (k : Ring) (s : State) : (setRing n k s).pending = s.pending := rfl
@[simp] theorem setRing_regs (n : Nat) (k : Ring) (s : State) : (setRing n k s).regs = s.regs := rfl
@[simp] theorem setRing_staged (n : Nat) (k : Ring) (s : State) : (setRing n k s).staged = s.staged := rfl
@[simp] theorem setRing_applies (n : Nat) (k : Ring) (s : State) : (setRing n k s).applies = s.applies := rfl
@[simp] theorem setRing_casks (n : Nat) (k : Ring) (s : State) : (setRing n k s).casks = s.casks := rfl
@[simp] theorem setRing_ledger (n : Nat) (k : Ring) (s : State) : (setRing n k s).ledger = s.ledger := rfl
@[simp] theorem setRing_cellar (n : Nat) (k : Ring) (s : State) : (setRing n k s).cellar = s.cellar := rfl
@[simp] theorem setRing_racks (n : Nat) (k : Ring) (s : State) : (setRing n k s).racks = s.racks := rfl
@[simp] theorem setRing_threads (n : Nat) (k : Ring) (s : State) : (setRing n k s).threads = s.threads := rfl
@[simp] theorem setRing_quant (n : Nat) (k : Ring) (s : State) : (setRing n k s).quant = s.quant := rfl
@[simp] theorem setRing_mem (n : Nat) (k : Ring) (s : State) : (setRing n k s).mem = s.mem := rfl
@[simp] theorem setRing_rings (n : Nat) (k : Ring) (s : State) : (setRing n k s).rings = s.rings.put n k := rfl
@[simp] theorem setRing_lastRing (n : Nat) (k : Ring) (s : State) : (setRing n k s).lastRing = s.lastRing := rfl
@[simp] theorem setRing_sync (n : Nat) (k : Ring) (s : State) : (setRing n k s).sync = s.sync := rfl
@[simp] theorem setRing_wraps (n : Nat) (k : Ring) (s : State) : (setRing n k s).wraps = s.wraps := rfl
@[simp] theorem setRing_armed (n : Nat) (k : Ring) (s : State) : (setRing n k s).armed = s.armed := rfl
@[simp] theorem setRing_sent (n : Nat) (k : Ring) (s : State) : (setRing n k s).sent = s.sent := rfl
@[simp] theorem setRing_px (n : Nat) (k : Ring) (s : State) : (setRing n k s).px = s.px := rfl
@[simp] theorem setRing_bv (n : Nat) (k : Ring) (s : State) : (setRing n k s).bv = s.bv := rfl
@[simp] theorem setRing_pos (n : Nat) (k : Ring) (s : State) : (setRing n k s).pos = s.pos := rfl
@[simp] theorem setRing_fe (n : Nat) (k : Ring) (s : State) : (setRing n k s).fe = s.fe := rfl
@[simp] theorem setRing_cal (n : Nat) (k : Ring) (s : State) : (setRing n k s).cal = s.cal := rfl
@[simp] theorem setRing_hang (n : Nat) (k : Ring) (s : State) : (setRing n k s).hang = s.hang := rfl
@[simp] theorem setRing_pm (n : Nat) (k : Ring) (s : State) : (setRing n k s).pm = s.pm := rfl

/-! ### modRing -/

@[simp] theorem modRing_now (n : Nat) (f : Ring → Ring) (s : State) : (modRing n f s).now = s.now := rfl
@[simp] theorem modRing_freeCtr (n : Nat) (f : Ring → Ring) (s : State) : (modRing n f s).freeCtr = s.freeCtr := rfl
@[simp] theorem modRing_nextOp (n : Nat) (f : Ring → Ring) (s : State) : (modRing n f s).nextOp = s.nextOp := rfl
@[simp] theorem modRing_pending (n : Nat) (f : Ring → Ring) (s : State) : (modRing n f s).pending = s.pending := rfl
@[simp] theorem modRing_regs (n : Nat) (f : Ring → Ring) (s : State) : (modRing n f s).regs = s.regs := rfl
@[simp] theorem modRing_staged (n : Nat) (f : Ring → Ring) (s : State) : (modRing n f s).staged = s.staged := rfl
@[simp] theorem modRing_applies (n : Nat) (f : Ring → Ring) (s : State) : (modRing n f s).applies = s.applies := rfl
@[simp] theorem modRing_casks (n : Nat) (f : Ring → Ring) (s : State) : (modRing n f s).casks = s.casks := rfl
@[simp] theorem modRing_ledger (n : Nat) (f : Ring → Ring) (s : State) : (modRing n f s).ledger = s.ledger := rfl
@[simp] theorem modRing_cellar (n : Nat) (f : Ring → Ring) (s : State) : (modRing n f s).cellar = s.cellar := rfl
@[simp] theorem modRing_racks (n : Nat) (f : Ring → Ring) (s : State) : (modRing n f s).racks = s.racks := rfl
@[simp] theorem modRing_threads (n : Nat) (f : Ring → Ring) (s : State) : (modRing n f s).threads = s.threads := rfl
@[simp] theorem modRing_quant (n : Nat) (f : Ring → Ring) (s : State) : (modRing n f s).quant = s.quant := rfl
@[simp] theorem modRing_mem (n : Nat) (f : Ring → Ring) (s : State) : (modRing n f s).mem = s.mem := rfl
@[simp] theorem modRing_rings (n : Nat) (f : Ring → Ring) (s : State) : (modRing n f s).rings = s.rings.put n (f (getRing n s)) := rfl
@[simp] theorem modRing_lastRing (n : Nat) (f : Ring → Ring) (s : State) : (modRing n f s).lastRing = s.lastRing := rfl
@[simp] theorem modRing_sync (n : Nat) (f : Ring → Ring) (s : State) : (modRing n f s).sync = s.sync := rfl
@[simp] theorem modRing_wraps (n : Nat) (f : Ring → Ring) (s : State) : (modRing n f s).wraps = s.wraps := rfl
@[simp] theorem modRing_armed (n : Nat) (f : Ring → Ring) (s : State) : (modRing n f s).armed = s.armed := rfl
@[simp] theorem modRing_sent (n : Nat) (f : Ring → Ring) (s : State) : (modRing n f s).sent = s.sent := rfl
@[simp] theorem modRing_px (n : Nat) (f : Ring → Ring) (s : State) : (modRing n f s).px = s.px := rfl
@[simp] theorem modRing_bv (n : Nat) (f : Ring → Ring) (s : State) : (modRing n f s).bv = s.bv := rfl
@[simp] theorem modRing_pos (n : Nat) (f : Ring → Ring) (s : State) : (modRing n f s).pos = s.pos := rfl
@[simp] theorem modRing_fe (n : Nat) (f : Ring → Ring) (s : State) : (modRing n f s).fe = s.fe := rfl
@[simp] theorem modRing_cal (n : Nat) (f : Ring → Ring) (s : State) : (modRing n f s).cal = s.cal := rfl
@[simp] theorem modRing_hang (n : Nat) (f : Ring → Ring) (s : State) : (modRing n f s).hang = s.hang := rfl
@[simp] theorem modRing_pm (n : Nat) (f : Ring → Ring) (s : State) : (modRing n f s).pm = s.pm := rfl

/-! ### drawFree -/

@[simp] theorem drawFree_now (s : State) : (drawFree s).now = s.now := rfl
@[simp] theorem drawFree_freeCtr (s : State) : (drawFree s).freeCtr = s.freeCtr + 1 := rfl
@[simp] theorem drawFree_nextOp (s : State) : (drawFree s).nextOp = s.nextOp := rfl
@[simp] theorem drawFree_pending (s : State) : (drawFree s).pending = s.pending := rfl
@[simp] theorem drawFree_regs (s : State) : (drawFree s).regs = s.regs := rfl
@[simp] theorem drawFree_staged (s : State) : (drawFree s).staged = s.staged := rfl
@[simp] theorem drawFree_applies (s : State) : (drawFree s).applies = s.applies := rfl
@[simp] theorem drawFree_casks (s : State) : (drawFree s).casks = s.casks := rfl
@[simp] theorem drawFree_ledger (s : State) : (drawFree s).ledger = s.ledger := rfl
@[simp] theorem drawFree_cellar (s : State) : (drawFree s).cellar = s.cellar := rfl
@[simp] theorem drawFree_racks (s : State) : (drawFree s).racks = s.racks := rfl
@[simp] theorem drawFree_threads (s : State) : (drawFree s).threads = s.threads := rfl
@[simp] theorem drawFree_quant (s : State) : (drawFree s).quant = s.quant := rfl
@[simp] theorem drawFree_mem (s : State) : (drawFree s).mem = s.mem := rfl
@[simp] theorem drawFree_rings (s : State) : (drawFree s).rings = s.rings := rfl
@[simp] theorem drawFree_lastRing (s : State) : (drawFree s).lastRing = s.lastRing := rfl
@[simp] theorem drawFree_sync (s : State) : (drawFree s).sync = s.sync := rfl
@[simp] theorem drawFree_wraps (s : State) : (drawFree s).wraps = s.wraps := rfl
@[simp] theorem drawFree_armed (s : State) : (drawFree s).armed = s.armed := rfl
@[simp] theorem drawFree_sent (s : State) : (drawFree s).sent = s.sent := rfl
@[simp] theorem drawFree_px (s : State) : (drawFree s).px = s.px := rfl
@[simp] theorem drawFree_bv (s : State) : (drawFree s).bv = s.bv := rfl
@[simp] theorem drawFree_pos (s : State) : (drawFree s).pos = s.pos := rfl
@[simp] theorem drawFree_fe (s : State) : (drawFree s).fe = s.fe := rfl
@[simp] theorem drawFree_cal (s : State) : (drawFree s).cal = s.cal := rfl
@[simp] theorem drawFree_hang (s : State) : (drawFree s).hang = s.hang := rfl
@[simp] theorem drawFree_pm (s : State) : (drawFree s).pm = s.pm := rfl

/-! ### spWrite -/

@[simp] theorem spWrite_now (r off : Nat) (data : List Byte) (s : State) : (spWrite r off data s).now = s.now := rfl
@[simp] theorem spWrite_freeCtr (r off : Nat) (data : List Byte) (s : State) : (spWrite r off data s).freeCtr = s.freeCtr := rfl
@[simp] theorem spWrite_nextOp (r off : Nat) (data : List Byte) (s : State) : (spWrite r off data s).nextOp = s.nextOp := rfl
@[simp] theorem spWrite_pending (r off : Nat) (data : List Byte) (s : State) : (spWrite r off data s).pending = s.pending := rfl
@[simp] theorem spWrite_regs (r off : Nat) (data : List Byte) (s : State) : (spWrite r off data s).regs = s.regs := rfl
@[simp] theorem spWrite_staged (r off : Nat) (data : List Byte) (s : State) : (spWrite r off data s).staged = s.staged := rfl
@[simp] theorem spWrite_applies (r off : Nat) (data : List Byte) (s : State) : (spWrite r off data s).applies = s.applies := rfl
@[simp] theorem spWrite_casks (r off : Nat) (data : List Byte) (s : State) : (spWrite r off data s).casks = s.casks := rfl
@[simp] theorem spWrite_ledger (r off : Nat) (data : List Byte) (s : State) : (spWrite r off data s).ledger = s.ledger := rfl
@[simp] theorem spWrite_cellar (r off : Nat) (data : List Byte) (s : State) : (spWrite r off data s).cellar = s.cellar := rfl
@[simp] theorem spWrite_racks (r off : Nat) (data : List Byte) (s : State) : (spWrite r off data s).racks = s.racks := rfl
@[simp] theorem spWrite_threads (r off : Nat) (data : List Byte) (s : State) : (spWrite r off data s).threads = s.threads := rfl
@[simp] theorem spWrite_quant (r off : Nat) (data : List Byte) (s : State) : (spWrite r off data s).quant = s.quant := rfl
@[simp] theorem spWrite_rings (r off : Nat) (data : List Byte) (s : State) : (spWrite r off data s).rings = s.rings := rfl
@[simp] theorem spWrite_lastRing (r off : Nat) (data : List Byte) (s : State) : (spWrite r off data s).lastRing = s.lastRing := rfl
@[simp] theorem spWrite_sync (r off : Nat) (data : List Byte) (s : State) : (spWrite r off data s).sync = s.sync := rfl
@[simp] theorem spWrite_wraps (r off : Nat) (data : List Byte) (s : State) : (spWrite r off data s).wraps = s.wraps := rfl
@[simp] theorem spWrite_armed (r off : Nat) (data : List Byte) (s : State) : (spWrite r off data s).armed = s.armed := rfl
@[simp] theorem spWrite_sent (r off : Nat) (data : List Byte) (s : State) : (spWrite r off data s).sent = s.sent := rfl
@[simp] theorem spWrite_px (r off : Nat) (data : List Byte) (s : State) : (spWrite r off data s).px = s.px := rfl
@[simp] theorem spWrite_bv (r off : Nat) (data : List Byte) (s : State) : (spWrite r off data s).bv = s.bv := rfl
@[simp] theorem spWrite_pos (r off : Nat) (data : List Byte) (s : State) : (spWrite r off data s).pos = s.pos := rfl
@[simp] theorem spWrite_fe (r off : Nat) (data : List Byte) (s : State) : (spWrite r off data s).fe = s.fe := rfl
@[simp] theorem spWrite_cal (r off : Nat) (data : List Byte) (s : State) : (spWrite r off data s).cal = s.cal := rfl
@[simp] theorem spWrite_hang (r off : Nat) (data : List Byte) (s : State) : (spWrite r off data s).hang = s.hang := rfl
@[simp] theorem spWrite_pm (r off : Nat) (data : List Byte) (s : State) : (spWrite r off data s).pm = s.pm := rfl

/-! ### accAdd -/

@[simp] theorem accAdd_now (r slot t c : Nat) (v : Int) (s : State) : (accAdd r slot t c v s).now = s.now := rfl
@[simp] theorem accAdd_freeCtr (r slot t c : Nat) (v : Int) (s : State) : (accAdd r slot t c v s).freeCtr = s.freeCtr := rfl
@[simp] theorem accAdd_nextOp (r slot t c : Nat) (v : Int) (s : State) : (accAdd r slot t c v s).nextOp = s.nextOp := rfl
@[simp] theorem accAdd_pending (r slot t c : Nat) (v : Int) (s : State) : (accAdd r slot t c v s).pending = s.pending := rfl
@[simp] theorem accAdd_regs (r slot t c : Nat) (v : Int) (s : State) : (accAdd r slot t c v s).regs = s.regs := rfl
@[simp] theorem accAdd_staged (r slot t c : Nat) (v : Int) (s : State) : (accAdd r slot t c v s).staged = s.staged := rfl
@[simp] theorem accAdd_applies (r slot t c : Nat) (v : Int) (s : State) : (accAdd r slot t c v s).applies = s.applies := rfl
@[simp] theorem accAdd_casks (r slot t c : Nat) (v : Int) (s : State) : (accAdd r slot t c v s).casks = s.casks := rfl
@[simp] theorem accAdd_ledger (r slot t c : Nat) (v : Int) (s : State) : (accAdd r slot t c v s).ledger = s.ledger := rfl
@[simp] theorem accAdd_cellar (r slot t c : Nat) (v : Int) (s : State) : (accAdd r slot t c v s).cellar = s.cellar := rfl
@[simp] theorem accAdd_racks (r slot t c : Nat) (v : Int) (s : State) : (accAdd r slot t c v s).racks = s.racks := rfl
@[simp] theorem accAdd_threads (r slot t c : Nat) (v : Int) (s : State) : (accAdd r slot t c v s).threads = s.threads := rfl
@[simp] theorem accAdd_quant (r slot t c : Nat) (v : Int) (s : State) : (accAdd r slot t c v s).quant = s.quant := rfl
@[simp] theorem accAdd_rings (r slot t c : Nat) (v : Int) (s : State) : (accAdd r slot t c v s).rings = s.rings := rfl
@[simp] theorem accAdd_lastRing (r slot t c : Nat) (v : Int) (s : State) : (accAdd r slot t c v s).lastRing = s.lastRing := rfl
@[simp] theorem accAdd_sync (r slot t c : Nat) (v : Int) (s : State) : (accAdd r slot t c v s).sync = s.sync := rfl
@[simp] theorem accAdd_wraps (r slot t c : Nat) (v : Int) (s : State) : (accAdd r slot t c v s).wraps = s.wraps := rfl
@[simp] theorem accAdd_armed (r slot t c : Nat) (v : Int) (s : State) : (accAdd r slot t c v s).armed = s.armed := rfl
@[simp] theorem accAdd_sent (r slot t c : Nat) (v : Int) (s : State) : (accAdd r slot t c v s).sent = s.sent := rfl
@[simp] theorem accAdd_px (r slot t c : Nat) (v : Int) (s : State) : (accAdd r slot t c v s).px = s.px := rfl
@[simp] theorem accAdd_bv (r slot t c : Nat) (v : Int) (s : State) : (accAdd r slot t c v s).bv = s.bv := rfl
@[simp] theorem accAdd_pos (r slot t c : Nat) (v : Int) (s : State) : (accAdd r slot t c v s).pos = s.pos := rfl
@[simp] theorem accAdd_fe (r slot t c : Nat) (v : Int) (s : State) : (accAdd r slot t c v s).fe = s.fe := rfl
@[simp] theorem accAdd_cal (r slot t c : Nat) (v : Int) (s : State) : (accAdd r slot t c v s).cal = s.cal := rfl
@[simp] theorem accAdd_hang (r slot t c : Nat) (v : Int) (s : State) : (accAdd r slot t c v s).hang = s.hang := rfl
@[simp] theorem accAdd_pm (r slot t c : Nat) (v : Int) (s : State) : (accAdd r slot t c v s).pm = s.pm := rfl

/-! ### accClear -/

@[simp] theorem accClear_now (r slot : Nat) (s : State) : (accClear r slot s).now = s.now := rfl
@[simp] theorem accClear_freeCtr (r slot : Nat) (s : State) : (accClear r slot s).freeCtr = s.freeCtr := rfl
@[simp] theorem accClear_nextOp (r slot : Nat) (s : State) : (accClear r slot s).nextOp = s.nextOp := rfl
@[simp] theorem accClear_pending (r slot : Nat) (s : State) : (accClear r slot s).pending = s.pending := rfl
@[simp] theorem accClear_regs (r slot : Nat) (s : State) : (accClear r slot s).regs = s.regs := rfl
@[simp] theorem accClear_staged (r slot : Nat) (s : State) : (accClear r slot s).staged = s.staged := rfl
@[simp] theorem accClear_applies (r slot : Nat) (s : State) : (accClear r slot s).applies = s.applies := rfl
@[simp] theorem accClear_casks (r slot : Nat) (s : State) : (accClear r slot s).casks = s.casks := rfl
@[simp] theorem accClear_ledger (r slot : Nat) (s : State) : (accClear r slot s).ledger = s.ledger := rfl
@[simp] theorem accClear_cellar (r slot : Nat) (s : State) : (accClear r slot s).cellar = s.cellar := rfl
@[simp] theorem accClear_racks (r slot : Nat) (s : State) : (accClear r slot s).racks = s.racks := rfl
@[simp] theorem accClear_threads (r slot : Nat) (s : State) : (accClear r slot s).threads = s.threads := rfl
@[simp] theorem accClear_quant (r slot : Nat) (s : State) : (accClear r slot s).quant = s.quant := rfl
@[simp] theorem accClear_rings (r slot : Nat) (s : State) : (accClear r slot s).rings = s.rings := rfl
@[simp] theorem accClear_lastRing (r slot : Nat) (s : State) : (accClear r slot s).lastRing = s.lastRing := rfl
@[simp] theorem accClear_sync (r slot : Nat) (s : State) : (accClear r slot s).sync = s.sync := rfl
@[simp] theorem accClear_wraps (r slot : Nat) (s : State) : (accClear r slot s).wraps = s.wraps := rfl
@[simp] theorem accClear_armed (r slot : Nat) (s : State) : (accClear r slot s).armed = s.armed := rfl
@[simp] theorem accClear_sent (r slot : Nat) (s : State) : (accClear r slot s).sent = s.sent := rfl
@[simp] theorem accClear_px (r slot : Nat) (s : State) : (accClear r slot s).px = s.px := rfl
@[simp] theorem accClear_bv (r slot : Nat) (s : State) : (accClear r slot s).bv = s.bv := rfl
@[simp] theorem accClear_pos (r slot : Nat) (s : State) : (accClear r slot s).pos = s.pos := rfl
@[simp] theorem accClear_fe (r slot : Nat) (s : State) : (accClear r slot s).fe = s.fe := rfl
@[simp] theorem accClear_cal (r slot : Nat) (s : State) : (accClear r slot s).cal = s.cal := rfl
@[simp] theorem accClear_hang (r slot : Nat) (s : State) : (accClear r slot s).hang = s.hang := rfl
@[simp] theorem accClear_pm (r slot : Nat) (s : State) : (accClear r slot s).pm = s.pm := rfl

/-! ### respond -/

@[simp] theorem respond_now (m : HostMsg) (s : State) : (respond m s).now = s.now := rfl
@[simp] theorem respond_freeCtr (m : HostMsg) (s : State) : (respond m s).freeCtr = s.freeCtr := rfl
@[simp] theorem respond_nextOp (m : HostMsg) (s : State) : (respond m s).nextOp = s.nextOp := rfl
@[simp] theorem respond_pending (m : HostMsg) (s : State) : (respond m s).pending = s.pending := rfl
@[simp] theorem respond_regs (m : HostMsg) (s : State) : (respond m s).regs = s.regs := rfl
@[simp] theorem respond_staged (m : HostMsg) (s : State) : (respond m s).staged = s.staged := rfl
@[simp] theorem respond_applies (m : HostMsg) (s : State) : (respond m s).applies = s.applies := rfl
@[simp] theorem respond_casks (m : HostMsg) (s : State) : (respond m s).casks = s.casks := rfl
@[simp] theorem respond_ledger (m : HostMsg) (s : State) : (respond m s).ledger = s.ledger := rfl
@[simp] theorem respond_cellar (m : HostMsg) (s : State) : (respond m s).cellar = s.cellar := rfl
@[simp] theorem respond_racks (m : HostMsg) (s : State) : (respond m s).racks = s.racks := rfl
@[simp] theorem respond_threads (m : HostMsg) (s : State) : (respond m s).threads = s.threads := rfl
@[simp] theorem respond_quant (m : HostMsg) (s : State) : (respond m s).quant = s.quant := rfl
@[simp] theorem respond_mem (m : HostMsg) (s : State) : (respond m s).mem = s.mem := rfl
@[simp] theorem respond_rings (m : HostMsg) (s : State) : (respond m s).rings = s.rings := rfl
@[simp] theorem respond_lastRing (m : HostMsg) (s : State) : (respond m s).lastRing = s.lastRing := rfl
@[simp] theorem respond_sync (m : HostMsg) (s : State) : (respond m s).sync = s.sync := rfl
@[simp] theorem respond_wraps (m : HostMsg) (s : State) : (respond m s).wraps = s.wraps := rfl
@[simp] theorem respond_armed (m : HostMsg) (s : State) : (respond m s).armed = s.armed := rfl
@[simp] theorem respond_sent (m : HostMsg) (s : State) : (respond m s).sent = s.sent ++ [m] := rfl
@[simp] theorem respond_px (m : HostMsg) (s : State) : (respond m s).px = s.px := rfl
@[simp] theorem respond_bv (m : HostMsg) (s : State) : (respond m s).bv = s.bv := rfl
@[simp] theorem respond_pos (m : HostMsg) (s : State) : (respond m s).pos = s.pos := rfl
@[simp] theorem respond_fe (m : HostMsg) (s : State) : (respond m s).fe = s.fe := rfl
@[simp] theorem respond_cal (m : HostMsg) (s : State) : (respond m s).cal = s.cal := rfl
@[simp] theorem respond_hang (m : HostMsg) (s : State) : (respond m s).hang = s.hang := rfl
@[simp] theorem respond_pm (m : HostMsg) (s : State) : (respond m s).pm = s.pm := rfl

/-! ### modPort -/

@[simp] theorem modPort_now (p : Nat) (f : Port → Port) (s : State) : (modPort p f s).now = s.now := rfl
@[simp] theorem modPort_freeCtr (p : Nat) (f : Port → Port) (s : State) : (modPort p f s).freeCtr = s.freeCtr := rfl
@[simp] theorem modPort_nextOp (p : Nat) (f : Port → Port) (s : State) : (modPort p f s).nextOp = s.nextOp := rfl
@[simp] theorem modPort_pending (p : Nat) (f : Port → Port) (s : State) : (modPort p f s).pending = s.pending := rfl
@[simp] theorem modPort_regs (p : Nat) (f : Port → Port) (s : State) : (modPort p f s).regs = s.regs := rfl
@[simp] theorem modPort_staged (p : Nat) (f : Port → Port) (s : State) : (modPort p f s).staged = s.staged := rfl
@[simp] theorem modPort_applies (p : Nat) (f : Port → Port) (s : State) : (modPort p f s).applies = s.applies := rfl
@[simp] theorem modPort_casks (p : Nat) (f : Port → Port) (s : State) : (modPort p f s).casks = s.casks := rfl
@[simp] theorem modPort_ledger (p : Nat) (f : Port → Port) (s : State) : (modPort p f s).ledger = s.ledger := rfl
@[simp] theorem modPort_cellar (p : Nat) (f : Port → Port) (s : State) : (modPort p f s).cellar = s.cellar := rfl
@[simp] theorem modPort_racks (p : Nat) (f : Port → Port) (s : State) : (modPort p f s).racks = s.racks := rfl
@[simp] theorem modPort_threads (p : Nat) (f : Port → Port) (s : State) : (modPort p f s).threads = s.threads := rfl
@[simp] theorem modPort_quant (p : Nat) (f : Port → Port) (s : State) : (modPort p f s).quant = s.quant := rfl
@[simp] theorem modPort_mem (p : Nat) (f : Port → Port) (s : State) : (modPort p f s).mem = s.mem := rfl
@[simp] theorem modPort_rings (p : Nat) (f : Port → Port) (s : State) : (modPort p f s).rings = s.rings := rfl
@[simp] theorem modPort_lastRing (p : Nat) (f : Port → Port) (s : State) : (modPort p f s).lastRing = s.lastRing := rfl
@[simp] theorem modPort_sync (p : Nat) (f : Port → Port) (s : State) : (modPort p f s).sync = s.sync := rfl
@[simp] theorem modPort_wraps (p : Nat) (f : Port → Port) (s : State) : (modPort p f s).wraps = s.wraps := rfl
@[simp] theorem modPort_armed (p : Nat) (f : Port → Port) (s : State) : (modPort p f s).armed = s.armed := rfl
@[simp] theorem modPort_sent (p : Nat) (f : Port → Port) (s : State) : (modPort p f s).sent = s.sent := rfl
@[simp] theorem modPort_px (p : Nat) (f : Port → Port) (s : State) : (modPort p f s).px = s.px := rfl
@[simp] theorem modPort_pos (p : Nat) (f : Port → Port) (s : State) : (modPort p f s).pos = s.pos := rfl
@[simp] theorem modPort_fe (p : Nat) (f : Port → Port) (s : State) : (modPort p f s).fe = s.fe := rfl
@[simp] theorem modPort_cal (p : Nat) (f : Port → Port) (s : State) : (modPort p f s).cal = s.cal := rfl
@[simp] theorem modPort_hang (p : Nat) (f : Port → Port) (s : State) : (modPort p f s).hang = s.hang := rfl
@[simp] theorem modPort_pm (p : Nat) (f : Port → Port) (s : State) : (modPort p f s).pm = s.pm := rfl

/-! ### modPeer -/

@[simp] theorem modPeer_now (m : Nat) (f : PeerRec → PeerRec) (s : State) : (modPeer m f s).now = s.now := rfl
@[simp] theorem modPeer_freeCtr (m : Nat) (f : PeerRec → PeerRec) (s : State) : (modPeer m f s).freeCtr = s.freeCtr := rfl
@[simp] theorem modPeer_nextOp (m : Nat) (f : PeerRec → PeerRec) (s : State) : (modPeer m f s).nextOp = s.nextOp := rfl
@[simp] theorem modPeer_pending (m : Nat) (f : PeerRec → PeerRec) (s : State) : (modPeer m f s).pending = s.pending := rfl
@[simp] theorem modPeer_regs (m : Nat) (f : PeerRec → PeerRec) (s : State) : (modPeer m f s).regs = s.regs := rfl
@[simp] theorem modPeer_staged (m : Nat) (f : PeerRec → PeerRec) (s : State) : (modPeer m f s).staged = s.staged := rfl
@[simp] theorem modPeer_applies (m : Nat) (f : PeerRec → PeerRec) (s : State) : (modPeer m f s).applies = s.applies := rfl
@[simp] theorem modPeer_casks (m : Nat) (f : PeerRec → PeerRec) (s : State) : (modPeer m f s).casks = s.casks := rfl
@[simp] theorem modPeer_ledger (m : Nat) (f : PeerRec → PeerRec) (s : State) : (modPeer m f s).ledger = s.ledger := rfl
@[simp] theorem modPeer_cellar (m : Nat) (f : PeerRec → PeerRec) (s : State) : (modPeer m f s).cellar = s.cellar := rfl
@[simp] theorem modPeer_racks (m : Nat) (f : PeerRec → PeerRec) (s : State) : (modPeer m f s).racks = s.racks := rfl
@[simp] theorem modPeer_threads (m : Nat) (f : PeerRec → PeerRec) (s : State) : (modPeer m f s).threads = s.threads := rfl
@[simp] theorem modPeer_quant (m : Nat) (f : PeerRec → PeerRec) (s : State) : (modPeer m f s).quant = s.quant := rfl
@[simp] theorem modPeer_mem (m : Nat) (f : PeerRec → PeerRec) (s : State) : (modPeer m f s).mem = s.mem := rfl
@[simp] theorem modPeer_rings (m : Nat) (f : PeerRec → PeerRec) (s : State) : (modPeer m f s).rings = s.rings := rfl
@[simp] theorem modPeer_lastRing (m : Nat) (f : PeerRec → PeerRec) (s : State) : (modPeer m f s).lastRing = s.lastRing := rfl
@[simp] theorem modPeer_sync (m : Nat) (f : PeerRec → PeerRec) (s : State) : (modPeer m f s).sync = s.sync := rfl
@[simp] theorem modPeer_wraps (m : Nat) (f : PeerRec → PeerRec) (s : State) : (modPeer m f s).wraps = s.wraps := rfl
@[simp] theorem modPeer_armed (m : Nat) (f : PeerRec → PeerRec) (s : State) : (modPeer m f s).armed = s.armed := rfl
@[simp] theorem modPeer_sent (m : Nat) (f : PeerRec → PeerRec) (s : State) : (modPeer m f s).sent = s.sent := rfl
@[simp] theorem modPeer_px (m : Nat) (f : PeerRec → PeerRec) (s : State) : (modPeer m f s).px = s.px := rfl
@[simp] theorem modPeer_pos (m : Nat) (f : PeerRec → PeerRec) (s : State) : (modPeer m f s).pos = s.pos := rfl
@[simp] theorem modPeer_fe (m : Nat) (f : PeerRec → PeerRec) (s : State) : (modPeer m f s).fe = s.fe := rfl
@[simp] theorem modPeer_cal (m : Nat) (f : PeerRec → PeerRec) (s : State) : (modPeer m f s).cal = s.cal := rfl
@[simp] theorem modPeer_hang (m : Nat) (f : PeerRec → PeerRec) (s : State) : (modPeer m f s).hang = s.hang := rfl
@[simp] theorem modPeer_pm (m : Nat) (f : PeerRec → PeerRec) (s : State) : (modPeer m f s).pm = s.pm := rfl

/-! ### petPut -/

@[simp] theorem petPut_now (e w : Nat) (s : State) : (petPut e w s).now = s.now := rfl
@[simp] theorem petPut_freeCtr (e w : Nat) (s : State) : (petPut e w s).freeCtr = s.freeCtr := rfl
@[simp] theorem petPut_nextOp (e w : Nat) (s : State) : (petPut e w s).nextOp = s.nextOp := rfl
@[simp] theorem petPut_pending (e w : Nat) (s : State) : (petPut e w s).pending = s.pending := rfl
@[simp] theorem petPut_regs (e w : Nat) (s : State) : (petPut e w s).regs = s.regs := rfl
@[simp] theorem petPut_staged (e w : Nat) (s : State) : (petPut e w s).staged = s.staged := rfl
@[simp] theorem petPut_applies (e w : Nat) (s : State) : (petPut e w s).applies = s.applies := rfl
@[simp] theorem petPut_casks (e w : Nat) (s : State) : (petPut e w s).casks = s.casks := rfl
@[simp] theorem petPut_ledger (e w : Nat) (s : State) : (petPut e w s).ledger = s.ledger := rfl
@[simp] theorem petPut_cellar (e w : Nat) (s : State) : (petPut e w s).cellar = s.cellar := rfl
@[simp] theorem petPut_racks (e w : Nat) (s : State) : (petPut e w s).racks = s.racks := rfl
@[simp] theorem petPut_threads (e w : Nat) (s : State) : (petPut e w s).threads = s.threads := rfl
@[simp] theorem petPut_quant (e w : Nat) (s : State) : (petPut e w s).quant = s.quant := rfl
@[simp] theorem petPut_mem (e w : Nat) (s : State) : (petPut e w s).mem = s.mem := rfl
@[simp] theorem petPut_rings (e w : Nat) (s : State) : (petPut e w s).rings = s.rings := rfl
@[simp] theorem petPut_lastRing (e w : Nat) (s : State) : (petPut e w s).lastRing = s.lastRing := rfl
@[simp] theorem petPut_sync (e w : Nat) (s : State) : (petPut e w s).sync = s.sync := rfl
@[simp] theorem petPut_wraps (e w : Nat) (s : State) : (petPut e w s).wraps = s.wraps := rfl
@[simp] theorem petPut_armed (e w : Nat) (s : State) : (petPut e w s).armed = s.armed := rfl
@[simp] theorem petPut_sent (e w : Nat) (s : State) : (petPut e w s).sent = s.sent := rfl
@[simp] theorem petPut_px (e w : Nat) (s : State) : (petPut e w s).px = s.px := rfl
@[simp] theorem petPut_bv (e w : Nat) (s : State) : (petPut e w s).bv = s.bv := rfl
@[simp] theorem petPut_fe (e w : Nat) (s : State) : (petPut e w s).fe = s.fe := rfl
@[simp] theorem petPut_cal (e w : Nat) (s : State) : (petPut e w s).cal = s.cal := rfl
@[simp] theorem petPut_hang (e w : Nat) (s : State) : (petPut e w s).hang = s.hang := rfl
@[simp] theorem petPut_pm (e w : Nat) (s : State) : (petPut e w s).pm = s.pm := rfl

end Sys2Proof.Machine
end

