-- ==== Sys2Proof/Laws/Store.lean ====
section
/-! SUPPORT. Laws of the tables: a read after a write, and the canonical form that every operation keeps. -/

namespace Sys2Proof.Machine

variable {α : Type}

theorem Store.find_put_same (k : Nat) (v : α) (m : Store α) : Store.find k (Store.put k v m) = some v := by
  induction m with
  | nil => simp [Store.put, Store.find]
  | cons e m ih =>
    obtain ⟨j, w⟩ := e
    simp only [Store.put]
    split
    · simp [Store.find]
    · split
      · simp [Store.find]
      · rename_i h1 h2
        simp [Store.find, h1, h2, ih]

theorem Store.find_put_ne {k j : Nat} (v : α) (m : Store α) (h : j ≠ k) : Store.find j (Store.put k v m) = Store.find j m := by
  induction m with
  | nil => simp [Store.put, Store.find, h]
  | cons e m ih =>
    obtain ⟨i, w⟩ := e
    simp only [Store.put]
    by_cases h1 : k < i
    · simp only [h1, if_true, Store.find, h, if_false]
      by_cases h2 : j < k
      · simp only [h2, if_true]
        rw [if_neg (by omega), if_pos (by omega)]
      · simp only [h2, if_false]
    · simp only [h1, if_false]
      by_cases h2 : k = i
      · subst h2
        simp only [if_true, Store.find, h, if_false]
      · simp only [h2, if_false, Store.find, ih]

@[simp] theorem Store.getD_put_same (d : α) (k : Nat) (v : α) (m : Store α) : Store.getD d k (Store.put k v m) = v := by
  simp [Store.getD, Store.find_put_same]

theorem Store.getD_put_ne {k j : Nat} (d v : α) (m : Store α) (h : j ≠ k) :
    Store.getD d j (Store.put k v m) = Store.getD d j m := by
  simp [Store.getD, Store.find_put_ne v m h]

/-! ### Rising keys -/

theorem Store.risesFrom_mono {a b : Nat} (h : a ≤ b) (m : Store α) (w : Store.risesFrom b m = true) : Store.risesFrom a m = true := by
  cases m with
  | nil => rfl
  | cons e m =>
    obtain ⟨j, v⟩ := e
    simp only [Store.risesFrom, Bool.and_eq_true, decide_eq_true_eq] at w ⊢
    exact ⟨by omega, w.2⟩

theorem Store.find_low {a k : Nat} (m : Store α) (w : Store.risesFrom a m = true) (h : k < a) : Store.find k m = none := by
  cases m with
  | nil => rfl
  | cons e m =>
    obtain ⟨j, v⟩ := e
    simp only [Store.risesFrom, Bool.and_eq_true, decide_eq_true_eq] at w
    simp only [Store.find]
    rw [if_neg (by omega), if_pos (by omega)]

theorem Store.put_rises {a k : Nat} (v : α) (m : Store α) (w : Store.risesFrom a m = true) (h : a ≤ k) :
    Store.risesFrom a (Store.put k v m) = true := by
  induction m generalizing a with
  | nil => simp [Store.put, Store.risesFrom, h]
  | cons e m ih =>
    obtain ⟨j, x⟩ := e
    simp only [Store.risesFrom, Bool.and_eq_true, decide_eq_true_eq] at w
    simp only [Store.put]
    split
    · simp only [Store.risesFrom, Bool.and_eq_true, decide_eq_true_eq]
      exact ⟨h, by omega, w.2⟩
    · split
      · subst_vars
        simp only [Store.risesFrom, Bool.and_eq_true, decide_eq_true_eq]
        exact ⟨h, w.2⟩
      · simp only [Store.risesFrom, Bool.and_eq_true, decide_eq_true_eq]
        exact ⟨w.1, ih w.2 (by omega)⟩

theorem Store.drop_rises {a : Nat} (k : Nat) (m : Store α) (w : Store.risesFrom a m = true) :
    Store.risesFrom a (Store.drop k m) = true := by
  induction m generalizing a with
  | nil => rfl
  | cons e m ih =>
    obtain ⟨j, x⟩ := e
    have w' := w
    simp only [Store.risesFrom, Bool.and_eq_true, decide_eq_true_eq] at w
    simp only [Store.drop]
    split
    · exact w'
    · split
      · exact Store.risesFrom_mono (by omega) m w.2
      · simp only [Store.risesFrom, Bool.and_eq_true, decide_eq_true_eq]
        exact ⟨w.1, ih w.2⟩

theorem Store.filter_rises {a : Nat} (p : Nat × α → Bool) (m : Store α) (w : Store.risesFrom a m = true) :
    Store.risesFrom a (m.filter p) = true := by
  induction m generalizing a with
  | nil => rfl
  | cons e m ih =>
    obtain ⟨j, x⟩ := e
    simp only [Store.risesFrom, Bool.and_eq_true, decide_eq_true_eq] at w
    by_cases h : p (j, x) = true
    · rw [List.filter_cons_of_pos h]
      simp only [Store.risesFrom, Bool.and_eq_true, decide_eq_true_eq]
      exact ⟨w.1, ih w.2⟩
    · rw [List.filter_cons_of_neg h]
      exact Store.risesFrom_mono (by omega) _ (ih w.2)

theorem Store.mapV_rises {β : Type} {a : Nat} (f : Nat → α → β) (m : Store α) (w : Store.risesFrom a m = true) :
    Store.risesFrom a (Store.mapV f m) = true := by
  induction m generalizing a with
  | nil => rfl
  | cons e m ih =>
    obtain ⟨j, x⟩ := e
    simp only [Store.risesFrom, Bool.and_eq_true, decide_eq_true_eq] at w
    simp only [Store.mapV, List.map_cons, Store.risesFrom, Bool.and_eq_true, decide_eq_true_eq]
    exact ⟨w.1, ih w.2⟩

/-! ### Removing an entry -/

theorem Store.find_drop_same {a : Nat} (k : Nat) (m : Store α) (w : Store.risesFrom a m = true) :
    Store.find k (Store.drop k m) = none := by
  induction m generalizing a with
  | nil => rfl
  | cons e m ih =>
    obtain ⟨j, x⟩ := e
    simp only [Store.risesFrom, Bool.and_eq_true, decide_eq_true_eq] at w
    simp only [Store.drop]
    split
    · simp only [Store.find]
      rw [if_neg (by omega), if_pos (by omega)]
    · split
      · exact Store.find_low m w.2 (by omega)
      · rename_i h1 h2
        simp only [Store.find, h1, h2, if_false]
        exact ih w.2

theorem Store.find_drop_ne {a j k : Nat} (m : Store α) (w : Store.risesFrom a m = true) (h : j ≠ k) :
    Store.find j (Store.drop k m) = Store.find j m := by
  induction m generalizing a with
  | nil => rfl
  | cons e m ih =>
    obtain ⟨i, x⟩ := e
    simp only [Store.risesFrom, Bool.and_eq_true, decide_eq_true_eq] at w
    simp only [Store.drop]
    split
    · rfl
    · split
      · subst_vars
        simp only [Store.find]
        rw [if_neg h]
        split
        · exact Store.find_low m w.2 (by omega)
        · rfl
      · simp only [Store.find]
        rw [ih w.2]

/-! ### The canonical form -/

section canonical
variable [DecidableEq α] (d : α)

theorem Store.wf_iff (m : Store α) : Store.wf d m = true ↔ Store.risesFrom 0 m = true ∧ ∀ e ∈ m, e.2 ≠ d := by
  simp [Store.wf]

omit [DecidableEq α] in
theorem Store.put_mem {k : Nat} {v : α} (m : Store α) {e : Nat × α} (h : e ∈ Store.put k v m) : e = (k, v) ∨ e ∈ m := by
  induction m with
  | nil => simpa [Store.put] using h
  | cons x m ih =>
    obtain ⟨j, w⟩ := x
    simp only [Store.put] at h
    split at h
    · simpa using h
    · split at h
      · simp only [List.mem_cons] at h ⊢
        tauto
      · simp only [List.mem_cons] at h ⊢
        rcases h with h | h
        · tauto
        · rcases ih h with h | h <;> tauto

omit [DecidableEq α] in
theorem Store.drop_mem {k : Nat} (m : Store α) {e : Nat × α} (h : e ∈ Store.drop k m) : e ∈ m := by
  induction m with
  | nil => exact h
  | cons x m ih =>
    obtain ⟨j, w⟩ := x
    simp only [Store.drop] at h
    split at h
    · exact h
    · split at h
      · exact List.mem_cons_of_mem _ h
      · simp only [List.mem_cons] at h ⊢
        exact h.imp id ih

theorem Store.setD_wf (k : Nat) (v : α) (m : Store α) (h : Store.wf d m = true) : Store.wf d (Store.setD d k v m) = true := by
  rw [Store.wf_iff] at h ⊢
  unfold Store.setD
  split
  · exact ⟨Store.drop_rises k m h.1, fun e he => h.2 e (Store.drop_mem m he)⟩
  · rename_i hv
    refine ⟨Store.put_rises v m h.1 (by omega), fun e he => ?_⟩
    rcases Store.put_mem m he with he | he
    · subst he
      exact hv
    · exact h.2 e he

theorem Store.setN_wf (k : Nat) (vs : List α) (m : Store α) (h : Store.wf d m = true) : Store.wf d (Store.setN d k vs m) = true := by
  induction vs generalizing k m with
  | nil => exact h
  | cons v vs ih => exact ih _ _ (Store.setD_wf d k v m h)

theorem Store.clear_wf (lo hi : Nat) (m : Store α) (h : Store.wf d m = true) : Store.wf d (Store.clear lo hi m) = true := by
  rw [Store.wf_iff] at h ⊢
  exact ⟨Store.filter_rises _ m h.1, fun e he => h.2 e (List.mem_filter.mp he).1⟩

theorem Store.getD_setD_same (k : Nat) (v : α) (m : Store α) (h : Store.wf d m = true) :
    Store.getD d k (Store.setD d k v m) = v := by
  rw [Store.wf_iff] at h
  unfold Store.setD
  split
  · rename_i hv
    simp [Store.getD, Store.find_drop_same k m h.1, hv]
  · simp

theorem Store.getD_setD_ne {j k : Nat} (v : α) (m : Store α) (h : Store.wf d m = true) (hk : j ≠ k) :
    Store.getD d j (Store.setD d k v m) = Store.getD d j m := by
  rw [Store.wf_iff] at h
  unfold Store.setD
  split
  · simp [Store.getD, Store.find_drop_ne m h.1 hk]
  · exact Store.getD_put_ne d v m hk

theorem Store.getD_setN_out {j : Nat} (k : Nat) (vs : List α) (m : Store α) (h : Store.wf d m = true)
    (hj : j < k ∨ k + vs.length ≤ j) : Store.getD d j (Store.setN d k vs m) = Store.getD d j m := by
  induction vs generalizing k m with
  | nil => rfl
  | cons v vs ih =>
    simp only [List.length_cons] at hj
    have hw := Store.setD_wf d k v m h
    have h1 : Store.getD d j (Store.setN d (k + 1) vs (Store.setD d k v m)) = _ := ih (k + 1) _ hw (by omega)
    exact h1.trans (Store.getD_setD_ne d v m h (by omega))

theorem Store.getD_setN_in (k i : Nat) (vs : List α) (m : Store α) (h : Store.wf d m = true) (hi : i < vs.length) :
    Store.getD d (k + i) (Store.setN d k vs m) = vs.getD i d := by
  induction vs generalizing k i m with
  | nil => simp at hi
  | cons v vs ih =>
    have hw := Store.setD_wf d k v m h
    cases i with
    | zero =>
      have h1 : Store.getD d (k + 0) (Store.setN d (k + 1) vs (Store.setD d k v m)) = _ :=
        Store.getD_setN_out d (k + 1) vs _ hw (by omega)
      refine h1.trans ?_
      simpa using Store.getD_setD_same d k v m h
    | succ i =>
      have h1 : Store.getD d (k + 1 + i) (Store.setN d (k + 1) vs (Store.setD d k v m)) = _ :=
        ih (k + 1) i _ hw (by simpa using hi)
      have e : k + (i + 1) = k + 1 + i := by omega
      rw [e]
      exact h1.trans (by simp)

/-- A read of a run of entries that was written gives what was written. -/
theorem Store.getN_setN_same (k : Nat) (vs : List α) (m : Store α) (h : Store.wf d m = true) :
    Store.getN d k vs.length (Store.setN d k vs m) = vs := by
  induction vs generalizing k m with
  | nil => rfl
  | cons v vs ih =>
    have hw := Store.setD_wf d k v m h
    have h0 := Store.getD_setN_in d k 0 (v :: vs) m h (by simp)
    have h1 : Store.getN d (k + 1) vs.length (Store.setN d k (v :: vs) m) = vs := ih (k + 1) _ hw
    simp only [Nat.add_zero, List.getD_cons_zero] at h0
    simp only [List.length_cons, Store.getN, h0, h1]

end canonical

end Sys2Proof.Machine
end

