-- ==== Sys2Proof/Laws/Ops.lean ====
section
/-! SUPPORT. What the shared operations can do, each said once: reads after writes, which parts of the state an operation may change,
what issuing an instruction does. -/

namespace Sys2Proof.Machine

/-! ### Frames compose -/

theorem Part.same_refl (s : State) (p : Part) : p.same s s := by cases p <;> rfl

theorem Part.same_trans {s u v : State} {p : Part} (h : p.same s u) (k : p.same u v) : p.same s v := by
  cases p <;> exact Eq.trans k h

theorem onlyIn_refl (ps : List Part) (s : State) : onlyIn ps s s := ⟨fun p _ => p.same_refl s⟩

theorem onlyIn_trans {ps : List Part} {s u v : State} (h : onlyIn ps s u) (k : onlyIn ps u v) : onlyIn ps s v :=
  ⟨fun p hp => Part.same_trans (h.same p hp) (k.same p hp)⟩

theorem onlyIn_mono {ps qs : List Part} {s u : State} (h : onlyIn ps s u) (k : ∀ p ∈ ps, p ∈ qs) : onlyIn qs s u :=
  ⟨fun p hp => h.same p fun hq => hp (k p hq)⟩

theorem onlyIn_foldl {α : Type} {ps : List Part} (f : State → α → State) (h : ∀ s x, onlyIn ps s (f s x)) (l : List α) (s : State) :
    onlyIn ps s (l.foldl f s) := by
  induction l generalizing s with
  | nil => exact onlyIn_refl ps s
  | cons x l ih => exact onlyIn_trans (h s x) (ih (f s x))

/-! ### One update changes one part -/

theorem rset_onlyIn (n : RegName) (u i : Nat) (v : Word) (s : State) : onlyIn [.regs] s (rset n u i v s) := by
  constructor; intro p hp; cases p <;> first | rfl | simp at hp

theorem rput_onlyIn (n : RegName) (u i hi lo v : Nat) (s : State) : onlyIn [.regs] s (rput n u i hi lo v s) := rset_onlyIn ..

theorem bump_onlyIn (n : RegName) (u i k : Nat) (s : State) : onlyIn [.regs] s (bump n u i k s) := rset_onlyIn ..

theorem rset64_onlyIn (n : RegName) (u i v : Nat) (s : State) : onlyIn [.regs] s (rset64 n u i v s) :=
  onlyIn_trans (rset_onlyIn ..) (rset_onlyIn ..)

theorem setCask_onlyIn (c : Nat) (k : Cask) (s : State) : onlyIn [.casks] s (setCask c k s) := by
  constructor; intro p hp; cases p <;> first | rfl | simp at hp

theorem modCask_onlyIn (c : Nat) (f : Cask → Cask) (s : State) : onlyIn [.casks] s (modCask c f s) := setCask_onlyIn ..

theorem setRack_onlyIn (r : Nat) (k : RackSt) (s : State) : onlyIn [.racks] s (setRack r k s) := by
  constructor; intro p hp; cases p <;> first | rfl | simp at hp

theorem modRack_onlyIn (r : Nat) (f : RackSt → RackSt) (s : State) : onlyIn [.racks] s (modRack r f s) := setRack_onlyIn ..

theorem modSlot_onlyIn (r k : Nat) (f : Slot → Slot) (s : State) : onlyIn [.racks] s (modSlot r k f s) := setRack_onlyIn ..

theorem setThread_onlyIn (r t : Nat) (k : Thread) (s : State) : onlyIn [.threads] s (setThread r t k s) := by
  constructor; intro p hp; cases p <;> first | rfl | simp at hp

theorem modThread_onlyIn (r t : Nat) (f : Thread → Thread) (s : State) : onlyIn [.threads] s (modThread r t f s) :=
  setThread_onlyIn ..

theorem setRing_onlyIn (n : Nat) (k : Ring) (s : State) : onlyIn [.rings] s (setRing n k s) := by
  constructor; intro p hp; cases p <;> first | rfl | simp at hp

theorem modRing_onlyIn (n : Nat) (f : Ring → Ring) (s : State) : onlyIn [.rings] s (modRing n f s) := setRing_onlyIn ..

theorem modPkt_onlyIn (p : PktId) (f : Pkt → Pkt) (s : State) : onlyIn [.rings] s (modPkt p f s) := modRing_onlyIn ..

theorem modPktOf_onlyIn (p : Option PktId) (f : Pkt → Pkt) (s : State) : onlyIn [.rings] s (modPktOf p f s) := by
  cases p with
  | none => exact onlyIn_refl ..
  | some p => exact modPkt_onlyIn ..

theorem pktFlag_onlyIn (b : Nat) (p : Option PktId) (s : State) : onlyIn [.rings] s (pktFlag b p s) := modPktOf_onlyIn ..

theorem pktCode_onlyIn (c : Nat) (p : Option PktId) (s : State) : onlyIn [.rings] s (pktCode c p s) := modPktOf_onlyIn ..

theorem ringProgress_onlyIn (p : Option PktId) (s : State) : onlyIn [.rings] s (ringProgress p s) := by
  cases p with
  | none => exact onlyIn_refl ..
  | some p =>
    unfold ringProgress
    exact modRing_onlyIn _ _ s

/-- An update of the memories changes the memories alone. -/
theorem mem_onlyIn (m : Mem) (s : State) : onlyIn [.mem] s { s with mem := m } := by
  constructor; intro p hp; cases p <;> first | rfl | simp at hp

theorem px_onlyIn (m : Px) (s : State) : onlyIn [.px] s { s with px := m } := by
  constructor; intro p hp; cases p <;> first | rfl | simp at hp

theorem sent_onlyIn (m : List HostMsg) (s : State) : onlyIn [.sent] s { s with sent := m } := by
  constructor; intro p hp; cases p <;> first | rfl | simp at hp

theorem armed_onlyIn (m : KeySet) (s : State) : onlyIn [.armed] s { s with armed := m } := by
  constructor; intro p hp; cases p <;> first | rfl | simp at hp

/-! ### Memory writes and events -/

theorem putSector_onlyIn (sec : Nat) (data : List Byte) (s : State) : onlyIn [.mem] s (putSector sec data s).1 := by
  unfold putSector
  simp only
  split
  · split <;> exact mem_onlyIn ..
  · exact mem_onlyIn ..

theorem notePoison_onlyIn (sec : Nat) (s : State) : onlyIn [.regs] s (notePoison sec s) :=
  onlyIn_trans (bump_onlyIn ..) (onlyIn_trans (rset64_onlyIn ..) (rset_onlyIn ..))

theorem sendUp_onlyIn (m : HostMsg) (s : State) : onlyIn [.sent, .px] s (sendUp m s) := by
  unfold sendUp
  split
  · exact onlyIn_mono (sent_onlyIn ..) (by decide)
  · exact onlyIn_mono (px_onlyIn ..) (by decide)

theorem respond_onlyIn (m : HostMsg) (s : State) : onlyIn [.sent] s (respond m s) := sent_onlyIn ..

theorem raiseVector_onlyIn (v : Nat) (s : State) : onlyIn [.sent, .px] s (raiseVector v s) := by
  unfold raiseVector
  split
  · exact sendUp_onlyIn ..
  · exact onlyIn_mono (px_onlyIn ..) (by decide)

/-- Delivering an event touches no part but those of an event, and no packet. -/
theorem deliverEvent_onlyIn (cls : Nat) (rec' : List Byte) (s : State) :
    onlyIn [.regs, .mem, .armed, .sent, .px] s (deliverEvent cls rec' s).1 := by
  unfold deliverEvent
  simp only
  split
  · exact onlyIn_mono (bump_onlyIn ..) (by decide)
  · split
    · exact onlyIn_mono (bump_onlyIn ..) (by decide)
    · generalize hx : rset .EQ_TAIL 0 _ _ (putSector _ _ s).1 = x
      have h : onlyIn [.regs, .mem, .armed, .sent, .px] s x := by
        rw [← hx]
        exact onlyIn_trans (onlyIn_mono (putSector_onlyIn ..) (by decide)) (onlyIn_mono (rset_onlyIn ..) (by decide))
      split
      · refine onlyIn_trans h (onlyIn_trans (onlyIn_mono (armed_onlyIn (Store.drop (fieldOf 3 0 (rget .EV_ROUTE 0 cls s)) x.armed) x) (by decide)) ?_)
        exact onlyIn_mono (raiseVector_onlyIn ..) (by decide)
      · exact h

theorem postEvent_onlyIn (cls : Nat) (rec' : List Byte) (s : State) :
    onlyIn [.regs, .mem, .armed, .sent, .px] s (postEvent cls rec' s).1 := by
  unfold postEvent
  split
  · exact deliverEvent_onlyIn ..
  · exact onlyIn_mono (px_onlyIn ..) (by decide)

theorem poisonEvent_onlyIn (sec : Nat) (s : State) : onlyIn [.regs, .mem, .armed, .sent, .px] s (poisonEvent sec s).1 :=
  onlyIn_trans (onlyIn_mono (notePoison_onlyIn ..) (by decide)) (postEvent_onlyIn ..)

theorem poisonAll_onlyIn (n : Nat) (secs : List Nat) (s : State) : onlyIn [.regs, .mem, .armed, .sent, .px] s (poisonAll n secs s) := by
  induction n generalizing secs s with
  | zero => exact onlyIn_refl ..
  | succ n ih =>
    cases secs with
    | nil => exact onlyIn_refl ..
    | cons sec rest => exact onlyIn_trans (poisonEvent_onlyIn sec s) (ih _ _)

/-- Telling of poisoned sectors changes the registers, memory and vectors of events alone (R391). -/
theorem poisonEvents_onlyIn (secs : List Nat) (s : State) : onlyIn [.regs, .mem, .armed, .sent, .px] s (poisonEvents secs s) :=
  poisonAll_onlyIn ..

/-- Raising an event changes the parts of an event alone (R375 to R379). -/
theorem raiseEvent_onlyIn (code unit aux detail : Nat) (p : Option PktId) (s : State) :
    onlyIn eventParts s (raiseEvent code unit aux detail p s) := by
  unfold raiseEvent
  refine onlyIn_trans ?_ (onlyIn_mono (poisonEvents_onlyIn ..) (by decide))
  refine onlyIn_trans ?_ (onlyIn_mono (postEvent_onlyIn ..) (by decide))
  exact onlyIn_mono (modPktOf_onlyIn ..) (by decide)

theorem writeSector_onlyIn (sec : Nat) (data : List Byte) (s : State) :
    onlyIn [.regs, .mem, .armed, .sent, .px] s (writeSector sec data s) := by
  unfold writeSector
  exact onlyIn_trans (onlyIn_mono (putSector_onlyIn ..) (by decide)) (poisonEvents_onlyIn ..)

theorem writeDram_onlyIn (a : Nat) (data : List Byte) (s : State) :
    onlyIn [.regs, .mem, .armed, .sent, .px] s (writeDram a data s) :=
  onlyIn_foldl _ (fun _ _ => writeSector_onlyIn ..) _ _

theorem spWrite_onlyIn (r off : Nat) (data : List Byte) (s : State) : onlyIn [.mem] s (spWrite r off data s) := mem_onlyIn ..

theorem devWrite_onlyIn (r a : Nat) (data : List Byte) (s : State) :
    onlyIn [.regs, .mem, .armed, .sent, .px] s (devWrite r a data s) := by
  unfold devWrite
  split
  · exact onlyIn_refl ..
  · split
    · exact writeDram_onlyIn ..
    · split
      · exact onlyIn_mono (spWrite_onlyIn ..) (by decide)
      · exact onlyIn_refl ..
    · exact onlyIn_refl ..

theorem loseShadow_onlyIn (c : Nat) (p : Option PktId) (s : State) : onlyIn readParts s (loseShadow c p s) :=
  onlyIn_trans (onlyIn_mono (modCask_onlyIn ..) (by decide)) (onlyIn_mono (raiseEvent_onlyIn ..) (by decide))

theorem shadowFails_onlyIn (c : Nat) (p : Option PktId) (s : State) : onlyIn readParts s (shadowFails c p s) := by
  unfold shadowFails
  split
  · exact loseShadow_onlyIn ..
  · exact onlyIn_refl ..

theorem shadowHit_onlyIn (a : Nat) (p : Option PktId) (s : State) : onlyIn readParts s (shadowHit a p s) := by
  unfold shadowHit
  split
  · exact shadowFails_onlyIn ..
  · exact onlyIn_refl ..

theorem parityError_onlyIn (m unit addr : Nat) (p : Option PktId) (s : State) :
    onlyIn readParts s (parityError m unit addr p s) := by
  unfold parityError
  refine onlyIn_trans (u := raiseEvent _ _ _ _ _ _) ?_ (by simp only; split; exacts [shadowHit_onlyIn .., onlyIn_refl ..])
  refine onlyIn_trans ?_ (onlyIn_mono (raiseEvent_onlyIn ..) (by decide))
  refine onlyIn_trans ?_ (onlyIn_mono (rset_onlyIn ..) (by decide))
  refine onlyIn_trans ?_ (onlyIn_mono (rset64_onlyIn ..) (by decide))
  exact onlyIn_mono (bump_onlyIn ..) (by decide)

theorem linkError_onlyIn (sec : Nat) (p : Option PktId) (s : State) : onlyIn readParts s (linkError sec p s) :=
  onlyIn_trans (u := { s with mem := { s.mem with failed := s.mem.failed.drop sec } }) (onlyIn_mono (mem_onlyIn ..) (by decide))
    (parityError_onlyIn ..)

theorem sealCheck_onlyIn (sec : Nat) (p : Option PktId) (s : State) : onlyIn readParts s (sealCheck sec p s).2 := by
  unfold sealCheck
  simp only
  split
  · exact onlyIn_refl ..
  · split
    · exact linkError_onlyIn ..
    · split
      · exact onlyIn_mono (mem_onlyIn ..) (by decide)
      · refine onlyIn_trans ?_ (onlyIn_mono (raiseEvent_onlyIn ..) (by decide))
        refine onlyIn_trans ?_ (onlyIn_mono (bump_onlyIn ..) (by decide))
        refine onlyIn_trans ?_ (onlyIn_mono (bump_onlyIn ..) (by decide))
        exact onlyIn_mono (mem_onlyIn ..) (by decide)

theorem fillLine_onlyIn (line : Nat) (s : State) : onlyIn [.mem] s (fillLine line s).1 := by
  unfold fillLine
  split
  · simp only
    split <;> exact mem_onlyIn ..
  · exact onlyIn_refl ..

theorem missSector_onlyIn (sec : Nat) (p : Option PktId) (s : State) : onlyIn readParts s (missSector sec p s).2 := by
  unfold missSector
  split
  · exact linkError_onlyIn ..
  · have h := sealCheck_onlyIn sec p s
    split
    · rename_i he
      rw [he] at h
      exact h
    · rename_i y he
      rw [he] at h
      simp only
      split
      · exact onlyIn_trans h (onlyIn_trans (onlyIn_mono (fillLine_onlyIn ..) (by decide)) (onlyIn_mono (poisonEvents_onlyIn ..) (by decide)))
      · exact onlyIn_trans h (parityError_onlyIn 0 (homeSlice (sec / 4)) (32 * sec) p y)

theorem readSector_onlyIn (sec : Nat) (p : Option PktId) (s : State) : onlyIn readParts s (readSector sec p s).2 := by
  unfold readSector
  split
  · split
    · exact onlyIn_mono (mem_onlyIn ..) (by decide)
    · exact parityError_onlyIn 1 (homeSlice (sec / 4)) (32 * sec) p s
  · exact missSector_onlyIn ..

theorem readSectors_onlyIn (p : Option PktId) (n sec : Nat) (s : State) : onlyIn readParts s (readSectors p sec n s).2 := by
  induction n generalizing sec s with
  | zero => exact onlyIn_refl ..
  | succ n ih =>
    unfold readSectors
    have h := readSector_onlyIn sec p s
    split
    · rename_i d s1 h1
      rw [h1] at h
      have k := ih (sec + 1) s1
      split
      · rename_i ds s2 h2
        rw [h2] at k
        exact onlyIn_trans h k
      · exact onlyIn_trans h k
    · exact h

theorem spFetch_onlyIn (r off n : Nat) (p : Option PktId) (s : State) : onlyIn readParts s (spFetch r off n p s).2 := by
  unfold spFetch
  split
  · exact parityError_onlyIn 2 _ _ p s
  · exact onlyIn_refl ..

theorem readDram_onlyIn (a n : Nat) (p : Option PktId) (s : State) : onlyIn readParts s (readDram a n p s).2 := by
  unfold readDram
  split
  · exact onlyIn_refl ..
  · have h := readSectors_onlyIn p ((a + n - 1) / 32 + 1 - a / 32) (a / 32) s
    split
    · rename_i h1
      rw [h1] at h
      exact h
    · exact h

/-- A read of the device's memories changes at most what its errors and the events they raise change. -/
theorem devRead_onlyIn (r a n : Nat) (p : Option PktId) (s : State) : onlyIn readParts s (devRead r a n p s).2 := by
  unfold devRead
  split
  · exact onlyIn_refl ..
  · split
    · exact readDram_onlyIn ..
    · simp only
      split
      · exact spFetch_onlyIn ..
      · exact onlyIn_refl ..
    · exact onlyIn_refl ..

/-! ### Reads after writes -/

@[simp] theorem getThread_setThread (r t : Nat) (k : Thread) (s : State) : getThread r t (setThread r t k s) = k := by
  simp [getThread]

@[simp] theorem getThread_modThread (r t : Nat) (f : Thread → Thread) (s : State) :
    getThread r t (modThread r t f s) = f (getThread r t s) := by
  simp [modThread]

@[simp] theorem getCask_setCask (c : Nat) (k : Cask) (s : State) : getCask c (setCask c k s) = k := by simp [getCask]

@[simp] theorem getCask_modCask (c : Nat) (f : Cask → Cask) (s : State) : getCask c (modCask c f s) = f (getCask c s) := by
  simp [modCask]

@[simp] theorem getRack_setRack (r : Nat) (k : RackSt) (s : State) : getRack r (setRack r k s) = k := by simp [getRack]

@[simp] theorem getRack_modRack (r : Nat) (f : RackSt → RackSt) (s : State) : getRack r (modRack r f s) = f (getRack r s) := by
  simp [modRack]

@[simp] theorem getRing_setRing (n : Nat) (k : Ring) (s : State) : getRing n (setRing n k s) = k := by simp [getRing]

@[simp] theorem getRing_modRing (n : Nat) (f : Ring → Ring) (s : State) : getRing n (modRing n f s) = f (getRing n s) := by
  simp [modRing]

@[simp] theorem rget_rset (n : RegName) (u i : Nat) (v : Word) (s : State) : rget n u i (rset n u i v s) = v := by
  simp [rget, Store.find_put_same]

theorem getThread_congr {s u : State} (h : u.threads = s.threads) (r t : Nat) : getThread r t u = getThread r t s := by
  simp [getThread, h]

theorem getCask_congr {s u : State} (h : u.casks = s.casks) (c : Nat) : getCask c u = getCask c s := by simp [getCask, h]

theorem getRack_congr {s u : State} (h : u.racks = s.racks) (r : Nat) : getRack r u = getRack r s := by simp [getRack, h]

theorem getRing_congr {s u : State} (h : u.rings = s.rings) (n : Nat) : getRing n u = getRing n s := by simp [getRing, h]

theorem rget_congr {s u : State} (h : u.regs = s.regs) (n : RegName) (x i : Nat) : rget n x i u = rget n x i s := by
  simp [rget, h]

theorem otherThreads_setThread (r t : Nat) (k : Thread) (s : State) : otherThreads r t s (setThread r t k s) :=
  fun _ h => Store.find_put_ne _ _ h

theorem otherThreads_congr {r t : Nat} {s u v : State} (h : otherThreads r t s u) (k : v.threads = u.threads) :
    otherThreads r t s v := by
  intro j hj
  rw [k]
  exact h j hj

theorem otherCasks_setCask (c : Nat) (k : Cask) (s : State) : otherCasks c s (setCask c k s) :=
  fun _ h => Store.find_put_ne _ _ h

theorem otherRacks_setRack (r : Nat) (k : RackSt) (s : State) : otherRacks r s (setRack r k s) :=
  fun _ h => Store.find_put_ne _ _ h

theorem otherRings_setRing (n : Nat) (k : Ring) (s : State) : otherRings n s (setRing n k s) :=
  fun _ h => Store.find_put_ne _ _ h

theorem otherRegs_rset (n : RegName) (u i : Nat) (v : Word) (s : State) : otherRegs [regOff n u i] s (rset n u i v s) := by
  intro o h
  exact Store.find_put_ne _ _ (by simpa using h)

/-! ### Issue -/

/-- What issuing leaves for the instruction's effect: the count of issued instructions, the last thread, the instructions fetched. -/
def issued (r : Rack) (t : Tid) (s : State) : State :=
  bump .RP_ISSUED r.val 0 1 (setRack r.val (issuedRack r.val t.val s) s)

theorem issue_of_issues {r : Rack} {t : Tid} {all : Bool} {dst src : List LoadDest} {s : State} (h : issues r t all dst src s)
    (f : State → State) : issue r t all dst src f s = f (issued r t s) := by
  obtain ⟨h1, h2, h4, h3, h5, h6⟩ := h
  simp [issue, h1, h2, h3, h4, h5, h6, issued]

theorem issueWf_of_issues {i : Instr} {r : Rack} {t : Tid} {all : Bool} {dst src : List LoadDest} {s : State} (w : i.wf = true)
    (h : issues r t all dst src s) (f : State → State) : issueWf i r t all dst src f s = f (issued r t s) := by
  simp only [issueWf, w, if_true]
  exact issue_of_issues h f

@[simp] theorem issued_thread (r : Rack) (t : Tid) (s : State) (x y : Nat) :
    getThread x y (issued r t s) = getThread x y s := rfl

theorem issued_onlyIn (r : Rack) (t : Tid) (s : State) : onlyIn [.regs, .racks] s (issued r t s) :=
  onlyIn_trans (onlyIn_mono (setRack_onlyIn ..) (by decide)) (onlyIn_mono (bump_onlyIn ..) (by decide))

/-- An instruction that issues and changes its thread alone. -/
theorem threadOnly_modThread (r : Rack) (t : Tid) (f : Thread → Thread) (s : State) :
    threadOnly r t s (modThread r.val t.val f (issued r t s)) := by
  refine ⟨?_, ?_, ?_, ?_, ?_, ?_⟩
  · exact onlyIn_trans (onlyIn_mono (issued_onlyIn ..) (by decide)) (onlyIn_mono (modThread_onlyIn ..) (by decide))
  · exact fun _ h => Store.find_put_ne _ _ h
  · exact fun _ h => Store.find_put_ne _ _ (by simpa using h)
  · exact rget_rset ..
  · exact fun _ h => Store.find_put_ne _ _ h
  · exact getRack_setRack ..

/-- The shape of most Skovfa instructions: exec answers an issued change of the thread. -/
theorem turns_of_issue {i : Instr} {r : Rack} {t : Tid} {all : Bool} {dst src : List LoadDest} {f g : Thread → Thread} {s : State}
    (hs : issues r t all dst src s) (h : exec i s = .next (issue r t all dst src (modThread r.val t.val g) s))
    (e : g (getThread r.val t.val s) = f (getThread r.val t.val s)) : turns i r t f s := by
  rw [issue_of_issues hs] at h
  exact ⟨_, h, threadOnly_modThread .., by simp [e]⟩

/-- The same of an instruction with reserved operand combinations, where it is well formed. -/
theorem turns_of_issueWf {i : Instr} {r : Rack} {t : Tid} {all : Bool} {dst src : List LoadDest} {f g : Thread → Thread} {s : State}
    (w : i.wf = true) (hs : issues r t all dst src s)
    (h : exec i s = .next (issueWf i r t all dst src (modThread r.val t.val g) s))
    (e : g (getThread r.val t.val s) = f (getThread r.val t.val s)) : turns i r t f s := by
  rw [issueWf_of_issues w hs] at h
  exact ⟨_, h, threadOnly_modThread .., by simp [e]⟩

/-- An instruction that issues and changes its thread alone, with facts of the changed thread. -/
theorem exists_of_issue {i : Instr} {r : Rack} {t : Tid} {all : Bool} {dst src : List LoadDest} {g : Thread → Thread} {s : State}
    {P : Thread → Prop} (hs : issues r t all dst src s) (h : exec i s = .next (issue r t all dst src (modThread r.val t.val g) s))
    (p : P (g (getThread r.val t.val s))) : ∃ u, exec i s = .next u ∧ threadOnly r t s u ∧ P (getThread r.val t.val u) := by
  rw [issue_of_issues hs] at h
  exact ⟨_, h, threadOnly_modThread .., by simpa using p⟩

/-- The same of an instruction with reserved operand combinations. -/
theorem exists_of_issueWf {i : Instr} {r : Rack} {t : Tid} {all : Bool} {dst src : List LoadDest} {g : Thread → Thread} {s : State}
    {P : Thread → Prop} (w : i.wf = true) (hs : issues r t all dst src s)
    (h : exec i s = .next (issueWf i r t all dst src (modThread r.val t.val g) s)) (p : P (g (getThread r.val t.val s))) :
    ∃ u, exec i s = .next u ∧ threadOnly r t s u ∧ P (getThread r.val t.val u) := by
  rw [issueWf_of_issues w hs] at h
  exact ⟨_, h, threadOnly_modThread .., by simpa using p⟩

/-! ### Exceptions and events, once and for all -/

/-- An exception halts its thread with its record, whose other fields stay, and tells of it; nothing else changes (R297 to R299). -/
theorem raiseExc_spec (r t cause fl pc addr : Nat) (insn : Word) (s : State) (h : (getThread r t s).st ≠ .halted) :
    onlyIn (.threads :: eventParts) s (raiseExc r t cause fl pc addr insn s) ∧
      otherThreads r t s (raiseExc r t cause fl pc addr insn s) ∧
      getThread r t (raiseExc r t cause fl pc addr insn s) =
        haltedWith (excRecord r t cause fl pc addr insn) (getThread r t s) := by
  unfold raiseExc
  simp only [if_neg h]
  generalize hx : pktCode 2 _ _ = x
  have h1 : onlyIn (.threads :: eventParts) s x := by
    rw [← hx]
    refine onlyIn_trans ?_ (onlyIn_mono (pktCode_onlyIn ..) (by decide))
    refine onlyIn_trans ?_ (onlyIn_mono (modPktOf_onlyIn ..) (by decide))
    exact onlyIn_mono (modThread_onlyIn ..) (by decide)
  have h2 : x.threads = (modThread r t (fun k => haltedWith (excRecord r t cause fl pc addr insn) k) s).threads := by
    rw [← hx, (pktCode_onlyIn ..).same .threads (by decide), (modPktOf_onlyIn ..).same .threads (by decide)]
    rfl
  have h3 := raiseEvent_onlyIn 0x0602 r (t + 256 * cause) pc (getThread r t s).pkt x
  have h4 := h3.same .threads (by decide)
  refine ⟨onlyIn_trans h1 (onlyIn_mono h3 (by decide)), ?_, ?_⟩
  · intro j hj
    rw [h4, h2]
    exact Store.find_put_ne _ _ hj
  · rw [getThread_congr h4, getThread_congr h2]
    simp

/-- An access that fails, as claims say it, has that cause (Table 8.18). -/
theorem accessCause_of_fails {r a n align cause : Nat} {store : Bool} {s : State} (h : accessFails r a n align store cause s) :
    accessCause r a n align store s = some cause := by
  rcases h with ⟨rfl, h⟩ | ⟨h0, ⟨rfl, h⟩ | ⟨rfl, m, b, h, hb, k⟩⟩
  · simp [accessCause, h]
  · rcases h with h | ⟨b, h, k⟩ | ⟨q, o, h, k⟩ | ⟨m, b, h, k⟩
    · simp [accessCause, h0, h]
    · simp only [accessCause, h0, h, ne_eq, not_true_eq_false, if_false]; rw [if_neg (by omega)]
    · simp [accessCause, h0, h, k]
    · simp [accessCause, h0, h, k]
  · have : ¬ 0x2000000000 < b + n := by omega
    rcases k with k | k <;> simp_all [accessCause, ownMember]

/-- An instruction that issues and raises a precise exception. -/
theorem traps_of_issue {i : Instr} {r : Rack} {t : Tid} {all : Bool} {dst src : List LoadDest} {f : State → State} {cause addr : Nat}
    {s : State} (hs : issues r t all dst src s) (h : exec i s = .next (issue r t all dst src f s))
    (e : f (issued r t s) = trap r.val t.val cause addr (skWord i) (issued r t s)) : traps i r t cause addr s := by
  rw [issue_of_issues hs, e] at h
  have n : (getThread r.val t.val (issued r t s)).st ≠ .halted := by rw [issued_thread, hs.1]; decide
  obtain ⟨h1, h2, h3⟩ := raiseExc_spec r.val t.val cause 0 (getThread r.val t.val (issued r t s)).pc.toNat addr (skWord i) _ n
  refine ⟨_, h, onlyIn_trans (onlyIn_mono (issued_onlyIn ..) (by decide)) (onlyIn_mono h1 (by decide)), ?_, ?_⟩
  · exact fun j hj => (h2 j hj).trans rfl
  · simpa [trap] using h3

theorem otherRegs_refl (offs : List Nat) (s : State) : otherRegs offs s s := fun _ _ => rfl

theorem otherRegs_trans {offs : List Nat} {s u v : State} (h : otherRegs offs s u) (k : otherRegs offs u v) : otherRegs offs s v :=
  fun o ho => (k o ho).trans (h o ho)

theorem otherRegs_mono {a b : List Nat} {s u : State} (h : otherRegs a s u) (k : ∀ o ∈ a, o ∈ b) : otherRegs b s u :=
  fun o ho => h o fun x => ho (k o x)

theorem otherRegs_of_onlyIn {ps : List Part} {offs : List Nat} {s u : State} (h : onlyIn ps s u) (n : Part.regs ∉ ps) :
    otherRegs offs s u := fun o _ => by
  have : u.regs = s.regs := h.same .regs n
  rw [this]

/-- A register that an operation leaves as it was reads as before. -/
theorem rget_of_otherRegs {offs : List Nat} {s u : State} (h : otherRegs offs s u) (n : RegName) (x i : Nat) (k : regOff n x i ∉ offs) :
    rget n x i u = rget n x i s := by
  unfold rget
  rw [h _ k]

theorem otherRegs_foldl {α : Type} {offs : List Nat} (f : State → α → State) (h : ∀ s x, otherRegs offs s (f s x)) (l : List α)
    (s : State) : otherRegs offs s (l.foldl f s) := by
  induction l generalizing s with
  | nil => exact otherRegs_refl _ _
  | cons x l ih => exact otherRegs_trans (h s x) (ih (f s x))

theorem fieldOf_lt (hi lo : Nat) (x : Word) : fieldOf hi lo x < 2 ^ (hi + 1 - lo) := by
  unfold fieldOf bits
  exact Nat.mod_lt _ (by positivity)

theorem notePoison_otherRegs (sec : Nat) (s : State) : otherRegs eventRegs s (notePoison sec s) := by
  unfold notePoison rset64 bump
  simp only
  refine otherRegs_trans (otherRegs_mono (otherRegs_rset _ _ _ _ _) ?_) (otherRegs_trans (otherRegs_mono (otherRegs_rset _ _ _ _ _) ?_)
    (otherRegs_trans (otherRegs_mono (otherRegs_rset _ _ _ _ _) ?_) (otherRegs_mono (otherRegs_rset _ _ _ _ _) ?_))) <;> decide

theorem deliverEvent_otherRegs (cls : Nat) (rec' : List Byte) (s : State) : otherRegs eventRegs s (deliverEvent cls rec' s).1 := by
  have tail : ∀ q, q < 16 → regOff .EQ_TAIL 0 q ∈ eventRegs := by decide
  have lost : ∀ q, q < 16 → regOff .EQ_LOST 0 q ∈ eventRegs := by decide
  have one : ∀ (n : RegName) q v x, regOff n 0 q ∈ eventRegs → otherRegs eventRegs x (rset n 0 q v x) := by
    intro n q v x h
    refine otherRegs_mono (otherRegs_rset _ _ _ _ _) fun o ho => ?_
    simp only [List.mem_singleton] at ho
    subst ho
    exact h
  have hq : fieldOf 3 0 (rget .EV_ROUTE 0 cls s) < 16 := fieldOf_lt ..
  unfold deliverEvent
  simp only
  split
  · exact one _ _ _ _ (lost 0 (by decide))
  · split
    · exact one _ _ _ _ (lost _ hq)
    · generalize hx : rset .EQ_TAIL 0 _ _ (putSector _ _ s).1 = x
      have w : otherRegs eventRegs s x := by
        rw [← hx]
        exact otherRegs_trans (otherRegs_of_onlyIn (putSector_onlyIn ..) (by decide)) (one _ _ _ _ (tail _ hq))
      split
      · exact otherRegs_trans w (otherRegs_of_onlyIn (onlyIn_trans
          (onlyIn_mono (armed_onlyIn (Store.drop (fieldOf 3 0 (rget .EV_ROUTE 0 cls s)) x.armed) x) (by decide))
          (onlyIn_mono (qs := [.armed, .sent, .px]) (raiseVector_onlyIn ..) (by decide))) (by decide))
      · exact w

theorem postEvent_otherRegs (cls : Nat) (rec' : List Byte) (s : State) : otherRegs eventRegs s (postEvent cls rec' s).1 := by
  unfold postEvent
  split
  · exact deliverEvent_otherRegs _ _ _
  · exact otherRegs_refl _ _

theorem poisonAll_otherRegs (n : Nat) (secs : List Nat) (s : State) : otherRegs eventRegs s (poisonAll n secs s) := by
  induction n generalizing secs s with
  | zero => exact otherRegs_refl _ _
  | succ n ih =>
    cases secs with
    | nil => exact otherRegs_refl _ _
    | cons sec rest => exact otherRegs_trans (otherRegs_trans (notePoison_otherRegs sec s) (postEvent_otherRegs _ _ _)) (ih _ _)

/-- Raising an event changes none but its own registers (R376, R378, R391). -/
theorem raiseEvent_otherRegs (code unit aux detail : Nat) (p : Option PktId) (s : State) :
    otherRegs eventRegs s (raiseEvent code unit aux detail p s) := by
  unfold raiseEvent
  simp only
  generalize hx : modPktOf p _ s = x
  have w : otherRegs eventRegs s x := by
    rw [← hx]
    exact otherRegs_of_onlyIn (modPktOf_onlyIn ..) (by decide)
  exact otherRegs_trans w (otherRegs_trans (postEvent_otherRegs _ _ x) (poisonAll_otherRegs _ _ _))

/-- A whole-sector write changes none but the registers of the events it may raise. -/
theorem writeSector_otherRegs (sec : Nat) (data : List Byte) (s : State) : otherRegs eventRegs s (writeSector sec data s) := by
  unfold writeSector
  exact otherRegs_trans (otherRegs_of_onlyIn (putSector_onlyIn ..) (by decide)) (poisonAll_otherRegs _ _ _)

theorem writeDram_otherRegs (a : Nat) (data : List Byte) (s : State) : otherRegs eventRegs s (writeDram a data s) :=
  otherRegs_foldl _ (fun _ _ => writeSector_otherRegs _ _ _) _ _

/-! ### Reads lose at most shadows (R136) -/

theorem shadowsOnly_refl (s : State) : shadowsOnly s s := fun _ => .inl rfl

theorem shadowsOnly_of_casks {s u : State} (h : u.casks = s.casks) : shadowsOnly s u := fun _ => .inl (getCask_congr h _)

theorem shadowsOnly_trans {s u v : State} (h : shadowsOnly s u) (k : shadowsOnly u v) : shadowsOnly s v := by
  intro c
  rcases h c with h | h <;> rcases k c with k | k <;> simp [h, k]

theorem getCask_setCask_ne {c d : Nat} (k : Cask) (s : State) (h : d ≠ c) : getCask d (setCask c k s) = getCask d s := by
  simp only [getCask, setCask, Store.getD, Store.find_put_ne _ _ h]

theorem loseShadow_shadows (c : Nat) (p : Option PktId) (s : State) : shadowsOnly s (loseShadow c p s) := by
  unfold loseShadow
  generalize hx : modCask c _ s = x
  have e : (raiseEvent 0x0305 c 0 0 p x).casks = x.casks := (raiseEvent_onlyIn ..).same .casks (by decide)
  refine shadowsOnly_trans (u := x) ?_ (shadowsOnly_of_casks e)
  intro d
  rw [← hx]
  by_cases h : d = c
  · subst h
    exact .inr (by simp)
  · exact .inl (getCask_setCask_ne _ _ h)

theorem parityError_shadows (m unit addr : Nat) (p : Option PktId) (s : State) : shadowsOnly s (parityError m unit addr p s) := by
  unfold parityError
  simp only
  generalize hx : raiseEvent _ _ _ _ _ _ = x
  have w : shadowsOnly s x := shadowsOnly_of_casks (by
    rw [← hx, (raiseEvent_onlyIn ..).same .casks (by decide)]
    rfl)
  split
  · refine shadowsOnly_trans w ?_
    unfold shadowHit
    split
    · unfold shadowFails
      split
      · exact loseShadow_shadows _ _ _
      · exact shadowsOnly_refl _
    · exact shadowsOnly_refl _
  · exact w

theorem linkError_shadows (sec : Nat) (p : Option PktId) (s : State) : shadowsOnly s (linkError sec p s) :=
  shadowsOnly_trans (shadowsOnly_of_casks (u := { s with mem := { s.mem with failed := s.mem.failed.drop sec } }) rfl)
    (parityError_shadows 0 (homeSlice (sec / 4)) (32 * sec) p _)

theorem sealCheck_shadows (sec : Nat) (p : Option PktId) (s : State) : shadowsOnly s (sealCheck sec p s).2 := by
  unfold sealCheck
  simp only
  split
  · exact shadowsOnly_refl _
  · split
    · exact linkError_shadows _ _ _
    · split
      · exact shadowsOnly_of_casks rfl
      · exact shadowsOnly_of_casks ((raiseEvent_onlyIn ..).same .casks (by decide))

theorem missSector_shadows (sec : Nat) (p : Option PktId) (s : State) : shadowsOnly s (missSector sec p s).2 := by
  unfold missSector
  split
  · exact linkError_shadows _ _ _
  · have h := sealCheck_shadows sec p s
    split
    · rename_i he
      rw [he] at h
      exact h
    · rename_i y he
      rw [he] at h
      simp only
      split
      · refine shadowsOnly_trans h (shadowsOnly_of_casks ?_)
        exact ((poisonEvents_onlyIn (fillLine (sec / 4) y).2 (fillLine (sec / 4) y).1).same .casks (by decide)).trans
          ((fillLine_onlyIn (sec / 4) y).same .casks (by decide))
      · exact shadowsOnly_trans h (parityError_shadows 0 (homeSlice (sec / 4)) (32 * sec) p y)

theorem readSector_shadows (sec : Nat) (p : Option PktId) (s : State) : shadowsOnly s (readSector sec p s).2 := by
  unfold readSector
  split
  · split
    · exact shadowsOnly_of_casks rfl
    · exact parityError_shadows 1 (homeSlice (sec / 4)) (32 * sec) p s
  · exact missSector_shadows _ _ _

theorem readSectors_shadows (p : Option PktId) (n sec : Nat) (s : State) : shadowsOnly s (readSectors p sec n s).2 := by
  induction n generalizing sec s with
  | zero => exact shadowsOnly_refl _
  | succ n ih =>
    unfold readSectors
    have h := readSector_shadows sec p s
    split
    · rename_i d s1 h1
      rw [h1] at h
      have k := ih (sec + 1) s1
      split
      · rename_i ds s2 h2
        rw [h2] at k
        exact shadowsOnly_trans h k
      · exact shadowsOnly_trans h k
    · exact h

theorem readDram_shadows (a n : Nat) (p : Option PktId) (s : State) : shadowsOnly s (readDram a n p s).2 := by
  unfold readDram
  split
  · exact shadowsOnly_refl _
  · have h := readSectors_shadows p ((a + n - 1) / 32 + 1 - a / 32) (a / 32) s
    split
    · rename_i h1
      rw [h1] at h
      exact h
    · exact h

/-- A read of the device's memories changes nothing of a cask but that it may find its shadow lost (R136, R390). -/
theorem devRead_shadows (r a n : Nat) (p : Option PktId) (s : State) : shadowsOnly s (devRead r a n p s).2 := by
  unfold devRead
  split
  · exact shadowsOnly_refl _
  · split
    · exact readDram_shadows _ _ _ _
    · simp only
      split
      · unfold spFetch
        split
        · exact parityError_shadows 2 _ _ p s
        · exact shadowsOnly_refl _
      · exact shadowsOnly_refl _
    · exact shadowsOnly_refl _

end Sys2Proof.Machine
end

