-- ==== Sys2Proof/Laws/Memory.lean ====
section
/-! SUPPORT. Every memory operation keeps the canonical form of the memories, and reset has it. -/

namespace Sys2Proof.Machine

/-! ### The form, field by field -/

/-- The canonical form as a conjunction. -/
theorem Mem.wf_iff (m : Mem) : m.wf = true ↔ Store.wf 0 m.dram = true ∧ Store.wf 0xFFFFFFFF#32 m.parity = true ∧
    Store.risesFrom 0 m.seals = true ∧ Store.risesFrom 0 m.csec = true ∧ Store.risesFrom 0 m.cline = true ∧ Store.wf 0 m.sp = true ∧
    Store.wf 0 m.acc = true ∧ (Store.risesFrom 0 m.spBad = true ∧ Store.risesFrom 0 m.accBad = true ∧
    Store.risesFrom 0 m.failed = true) ∧ ∀ e ∈ m.csec, e.2.data.length = 32 := by
  simp [Mem.wf, and_assoc]

/-- The form depends on these fields alone. -/
theorem Mem.wf_congr {m n : Mem} (h : m.wf = true) (a : n.dram = m.dram) (b : n.parity = m.parity) (c : n.seals = m.seals)
    (d : n.csec = m.csec) (e : n.cline = m.cline) (f : n.sp = m.sp) (g : n.acc = m.acc)
    (i : n.spBad = m.spBad) (j : n.accBad = m.accBad) (k : n.failed = m.failed) : n.wf = true := by
  rw [Mem.wf_iff] at h ⊢
  rw [a, b, c, d, e, f, g, i, j, k]
  exact h

theorem Mem.wf_foldl {α : Type} (f : Mem → α → Mem) (h : ∀ m x, m.wf = true → (f m x).wf = true) (l : List α) (m : Mem)
    (w : m.wf = true) : (l.foldl f m).wf = true := by
  induction l generalizing m with
  | nil => exact w
  | cons x l ih => exact ih _ (h m x w)

/-- A state operation keeps the form if every step of it does. -/
theorem State.wf_foldl {α : Type} (f : State → α → State) (h : ∀ s x, s.mem.wf = true → (f s x).mem.wf = true) (l : List α) (s : State)
    (w : s.mem.wf = true) : (l.foldl f s).mem.wf = true := by
  induction l generalizing s with
  | nil => exact w
  | cons x l ih => exact ih _ (h s x w)

/-- An operation that changes no memory keeps the form. -/
theorem wf_of_onlyIn {ps : List Part} {s u : State} (h : onlyIn ps s u) (n : Part.mem ∉ ps) (w : s.mem.wf = true) :
    u.mem.wf = true := by
  have : u.mem = s.mem := h.same .mem n
  rw [this]
  exact w

/-! ### DRAM and the cache -/

theorem padTo_length (n : Nat) (bs : List Byte) : (padTo n bs).length = n := by
  simp [padTo]
  omega

theorem Store.getN_length {α : Type} (d : α) (k n : Nat) (m : Store α) : (Store.getN d k n m).length = n := by
  induction n generalizing k with
  | zero => rfl
  | succ n ih => simp [Store.getN, ih]

theorem dramPut_wf (sec : Nat) (data : List Byte) (par : Word) (m : Mem) (h : m.wf = true) : (dramPut sec data par m).wf = true := by
  rw [Mem.wf_iff] at h ⊢
  exact ⟨Store.setN_wf _ _ _ _ h.1, Store.setD_wf _ _ _ _ h.2.1, h.2.2⟩

theorem sealDrop_wf (b : Nat) (m : Mem) (h : m.wf = true) : ({ m with seals := m.seals.drop b } : Mem).wf = true := by
  rw [Mem.wf_iff] at h ⊢
  exact ⟨h.1, h.2.1, Store.drop_rises _ _ h.2.2.1, h.2.2.2⟩

theorem csecDrop_wf (sec : Nat) (m : Mem) (h : m.wf = true) : ({ m with csec := m.csec.drop sec } : Mem).wf = true := by
  rw [Mem.wf_iff] at h ⊢
  obtain ⟨a, b, c, d, e, f, g, i, k⟩ := h
  exact ⟨a, b, c, Store.drop_rises _ _ d, e, f, g, i, fun x hx => k x (Store.drop_mem _ hx)⟩

/-- Marks of sectors and tiles that fail, in canonical form. -/
theorem marks_wf (x y z : KeySet) (m : Mem) (hx : Store.risesFrom 0 x = true) (hy : Store.risesFrom 0 y = true)
    (hz : Store.risesFrom 0 z = true) (h : m.wf = true) : ({ m with spBad := x, accBad := y, failed := z } : Mem).wf = true := by
  rw [Mem.wf_iff] at h ⊢
  obtain ⟨a, b, c, d, e, f, g, _, k⟩ := h
  exact ⟨a, b, c, d, e, f, g, ⟨hx, hy, hz⟩, k⟩

theorem Mem.marks_rise {m : Mem} (h : m.wf = true) :
    Store.risesFrom 0 m.spBad = true ∧ Store.risesFrom 0 m.accBad = true ∧ Store.risesFrom 0 m.failed = true :=
  ((Mem.wf_iff m).mp h).2.2.2.2.2.2.2.1

theorem failedDrop_wf (sec : Nat) (m : Mem) (h : m.wf = true) : ({ m with failed := m.failed.drop sec } : Mem).wf = true :=
  marks_wf _ _ _ m (Mem.marks_rise h).1 (Mem.marks_rise h).2.1 (Store.drop_rises _ _ (Mem.marks_rise h).2.2) h

theorem cline_wf (l : Store Nat) (m : Mem) (hl : Store.risesFrom 0 l = true) (h : m.wf = true) :
    ({ m with cline := l } : Mem).wf = true := by
  rw [Mem.wf_iff] at h ⊢
  obtain ⟨a, b, c, d, _, f⟩ := h
  exact ⟨a, b, c, d, hl, f⟩

theorem csecPut_wf (sec : Nat) (c : CSector) (hc : c.data.length = 32) (m : Mem) (h : m.wf = true) :
    ({ m with csec := m.csec.put sec c } : Mem).wf = true := by
  rw [Mem.wf_iff] at h ⊢
  obtain ⟨a, b, x, d, e, f, g, i, k⟩ := h
  refine ⟨a, b, x, Store.put_rises _ _ d (by omega), e, f, g, i, fun y hy => ?_⟩
  rcases Store.put_mem _ hy with rfl | hy
  · exact hc
  · exact k y hy

theorem Mem.cline_rises {m : Mem} (h : m.wf = true) : Store.risesFrom 0 m.cline = true := ((Mem.wf_iff m).mp h).2.2.2.2.1

/-- A line that leaves the cache leaves the memories canonical. -/
theorem evictLine_wf (line : Nat) (m : Mem) (h : m.wf = true) : (evictLine line m).1.wf = true := by
  unfold evictLine
  simp only
  generalize hg : (List.range 4).foldl _ (m, []) = r
  have hr : r.1.wf = true := by
    rw [← hg]
    generalize List.range 4 = l
    suffices ∀ (acc : Mem × List Nat), acc.1.wf = true → (l.foldl (fun (acc : Mem × List Nat) (k : Nat) =>
        match acc.1.csec.find (4 * line + k) with
        | none => acc
        | some c =>
          let m1 := { acc.1 with csec := acc.1.csec.drop (4 * line + k) }
          if c.dirty then
            if c.par = parityOf c.data then (dramPut (4 * line + k) c.data c.par m1, acc.2)
            else (dramPut (4 * line + k) c.data (poisonOf c.data) m1, acc.2 ++ [4 * line + k])
          else (m1, acc.2)) acc).1.wf = true from this (m, []) h
    induction l with
    | nil => exact fun acc w => w
    | cons x l ih =>
      intro acc w
      refine ih _ ?_
      simp only
      split
      · exact w
      · have w1 := csecDrop_wf (4 * line + x) acc.1 w
        split
        · split <;> exact dramPut_wf _ _ _ _ w1
        · exact w1
  exact cline_wf _ _ (Store.drop_rises _ _ (Mem.cline_rises hr)) hr

theorem makeRoom_wf (line : Nat) (m : Mem) (h : m.wf = true) : (makeRoom line m).2.1.wf = true := by
  unfold makeRoom
  split
  · exact h
  · simp only
    split
    · exact h
    · split
      · exact h
      · exact evictLine_wf _ _ h

theorem touchLine_wf (line : Nat) (m : Mem) (h : m.wf = true) : (touchLine line m).wf = true := by
  have := cline_wf (m.cline.put line (m.stamp + 1)) m (Store.put_rises _ _ (Mem.cline_rises h) (by omega)) h
  exact Mem.wf_congr this rfl rfl rfl rfl rfl rfl rfl rfl rfl rfl

theorem cachePut_wf (sec : Nat) (c : CSector) (hc : c.data.length = 32) (m : Mem) (h : m.wf = true) : (cachePut sec c m).wf = true :=
  touchLine_wf _ _ (csecPut_wf sec c hc m h)

/-- A whole-sector write keeps the form. -/
theorem putSector_wf (sec : Nat) (data : List Byte) (s : State) (h : s.mem.wf = true) : (putSector sec data s).1.mem.wf = true := by
  have h0 := failedDrop_wf sec _ (sealDrop_wf (sec / 128) s.mem h)
  have hr := makeRoom_wf (sec / 4) _ h0
  unfold putSector
  simp only
  split
  · split
    · exact cachePut_wf _ _ (padTo_length ..) _ hr
    · exact dramPut_wf _ _ _ _ hr
  · exact dramPut_wf _ _ _ _ h0

theorem Store.find_mem {α : Type} {k : Nat} {v : α} (m : Store α) (h : Store.find k m = some v) : (k, v) ∈ m := by
  induction m with
  | nil => simp [Store.find] at h
  | cons e m ih =>
    unfold Store.find at h
    split at h
    · simp_all
      cases h
      simp
    · split at h
      · simp at h
      · exact List.mem_cons_of_mem _ (ih h)

theorem poisonSector_wf (m : Mem) (sec : Nat) (h : m.wf = true) : (poisonSector m sec).wf = true := by
  unfold poisonSector
  split
  · rename_i c hc
    exact csecPut_wf sec { c with par := poisonOf c.data } (((Mem.wf_iff m).mp h).2.2.2.2.2.2.2.2 _ (Store.find_mem _ hc)) m h
  · exact dramPut_wf _ _ _ _ h

theorem poisonBlock_wf (blk : Nat) (m : Mem) (h : m.wf = true) : (poisonBlock blk m).wf = true :=
  Mem.wf_foldl _ (fun m x w => poisonSector_wf m x w) _ _ h

theorem installIfGood_wf (sec : Nat) (m : Mem) (h : m.wf = true) : (installIfGood sec m).wf = true := by
  unfold installIfGood
  split
  · exact h
  · split
    · exact cachePut_wf _ _ (Store.getN_length ..) _ h
    · exact h

theorem fillLine_wf (line : Nat) (s : State) (h : s.mem.wf = true) : (fillLine line s).1.mem.wf = true := by
  have hr := makeRoom_wf line _ h
  unfold fillLine
  split
  · simp only
    split
    · exact Mem.wf_foldl _ (fun _ _ w => installIfGood_wf _ _ w) _ _ hr
    · exact hr
  · exact h

/-! ### Events and writes -/

theorem deliverEvent_wf (cls : Nat) (rec' : List Byte) (s : State) (h : s.mem.wf = true) : (deliverEvent cls rec' s).1.mem.wf = true := by
  unfold deliverEvent
  simp only
  split
  · exact h
  · split
    · exact h
    · generalize hx : rset .EQ_TAIL 0 _ _ (putSector _ _ s).1 = x
      have w : x.mem.wf = true := by
        rw [← hx]
        exact putSector_wf _ _ _ h
      split
      · exact wf_of_onlyIn (raiseVector_onlyIn ..) (by decide) w
      · exact w

theorem postEvent_wf (cls : Nat) (rec' : List Byte) (s : State) (h : s.mem.wf = true) : (postEvent cls rec' s).1.mem.wf = true := by
  unfold postEvent
  split
  · exact deliverEvent_wf _ _ _ h
  · exact h

theorem poisonAll_wf (n : Nat) (secs : List Nat) (s : State) (h : s.mem.wf = true) : (poisonAll n secs s).mem.wf = true := by
  induction n generalizing secs s with
  | zero => exact h
  | succ n ih =>
    cases secs with
    | nil => exact h
    | cons sec rest => exact ih _ _ (postEvent_wf _ _ _ (wf_of_onlyIn (notePoison_onlyIn sec s) (by decide) h))

theorem poisonEvents_wf (secs : List Nat) (s : State) (h : s.mem.wf = true) : (poisonEvents secs s).mem.wf = true :=
  poisonAll_wf _ _ _ h

/-- Raising an event keeps the form. -/
theorem raiseEvent_wf (code unit aux detail : Nat) (p : Option PktId) (s : State) (h : s.mem.wf = true) :
    (raiseEvent code unit aux detail p s).mem.wf = true := by
  unfold raiseEvent
  refine poisonEvents_wf _ _ (postEvent_wf _ _ _ ?_)
  exact wf_of_onlyIn (modPktOf_onlyIn ..) (by decide) h

theorem writeSector_wf (sec : Nat) (data : List Byte) (s : State) (h : s.mem.wf = true) : (writeSector sec data s).mem.wf = true :=
  poisonEvents_wf _ _ (putSector_wf _ _ _ h)

/-- A write of whole sectors into DRAM keeps the form. -/
theorem writeDram_wf (a : Nat) (data : List Byte) (s : State) (h : s.mem.wf = true) : (writeDram a data s).mem.wf = true :=
  State.wf_foldl _ (fun _ _ w => writeSector_wf _ _ _ w) _ _ h

theorem dramStore_wf (a : Nat) (data : List Byte) (s : State) (h : s.mem.wf = true) : (dramStore a data s).mem.wf = true := by
  unfold dramStore
  split
  · exact writeDram_wf _ _ _ h
  · exact h

theorem spWrite_wf (r off : Nat) (data : List Byte) (s : State) (h : s.mem.wf = true) : (spWrite r off data s).mem.wf = true := by
  rw [Mem.wf_iff] at h
  obtain ⟨a, b, c, d, e, f, g, ⟨i, j⟩, k⟩ := h
  exact (Mem.wf_iff _).mpr ⟨a, b, c, d, e, Store.setN_wf _ _ _ _ f, g, ⟨Store.filter_rises _ _ i, j⟩, k⟩

/-- A write to the device address space keeps the form. -/
theorem devWrite_wf (r a : Nat) (data : List Byte) (s : State) (h : s.mem.wf = true) : (devWrite r a data s).mem.wf = true := by
  unfold devWrite
  split
  · exact h
  · split
    · exact writeDram_wf _ _ _ h
    · split
      · exact spWrite_wf _ _ _ _ h
      · exact h
    · exact h

/-! ### Reads -/

theorem parityError_wf (m unit addr : Nat) (p : Option PktId) (s : State) (h : s.mem.wf = true) :
    (parityError m unit addr p s).mem.wf = true := by
  unfold parityError
  simp only
  have w : ∀ x : State, x.mem.wf = true → (raiseEvent 0x0901 unit m addr p x).mem.wf = true := fun x hx => raiseEvent_wf _ _ _ _ _ _ hx
  have v := w (rset .MC_ERR_SRC 0 0 (BitVec.ofNat 32 (m * 2 ^ 28 + unit)) (rset64 .MC_ERR_ADDR 0 0 addr (bump .MC_PARITY_ERRS 0 0 1 s))) h
  generalize raiseEvent _ _ _ _ _ _ = x at v ⊢
  split
  · unfold shadowHit
    split
    · unfold shadowFails loseShadow
      split
      · exact raiseEvent_wf _ _ _ _ _ _ v
      · exact v
    · exact v
  · exact v

theorem linkError_wf (sec : Nat) (p : Option PktId) (s : State) (h : s.mem.wf = true) : (linkError sec p s).mem.wf = true :=
  parityError_wf 0 (homeSlice (sec / 4)) (32 * sec) p _ (failedDrop_wf sec s.mem h)

theorem sealCheck_wf (sec : Nat) (p : Option PktId) (s : State) (h : s.mem.wf = true) : (sealCheck sec p s).2.mem.wf = true := by
  unfold sealCheck
  simp only
  split
  · exact h
  · split
    · exact linkError_wf _ _ _ h
    · split
      · exact sealDrop_wf _ _ h
      · refine raiseEvent_wf _ _ _ _ _ _ ?_
        have w := poisonBlock_wf (sec / 128) _ (sealDrop_wf (sec / 128) s.mem h)
        generalize poisonBlock (sec / 128) { s.mem with seals := s.mem.seals.drop (sec / 128) } = m at w ⊢
        exact w

theorem missSector_wf (sec : Nat) (p : Option PktId) (s : State) (h : s.mem.wf = true) : (missSector sec p s).2.mem.wf = true := by
  unfold missSector
  split
  · exact linkError_wf _ _ _ h
  · have w := sealCheck_wf sec p s h
    split
    · rename_i he
      rw [he] at w
      exact w
    · rename_i he
      rw [he] at w
      simp only
      split
      · exact poisonEvents_wf _ _ (fillLine_wf _ _ w)
      · exact parityError_wf 0 (homeSlice (sec / 4)) (32 * sec) p _ w

theorem readSector_wf (sec : Nat) (p : Option PktId) (s : State) (h : s.mem.wf = true) : (readSector sec p s).2.mem.wf = true := by
  unfold readSector
  split
  · split
    · exact touchLine_wf _ _ h
    · exact parityError_wf 1 (homeSlice (sec / 4)) (32 * sec) p s h
  · exact missSector_wf _ _ _ h

theorem readSectors_wf (p : Option PktId) (n sec : Nat) (s : State) (h : s.mem.wf = true) :
    (readSectors p sec n s).2.mem.wf = true := by
  induction n generalizing sec s with
  | zero => exact h
  | succ n ih =>
    have h1 := readSector_wf sec p s h
    unfold readSectors
    split
    · rename_i d s1 he
      have h2 : s1.mem.wf = true := by rw [he] at h1; exact h1
      have h3 := ih (sec + 1) s1 h2
      split
      · rename_i ds s2 hf
        rw [hf] at h3
        exact h3
      · exact h3
    · exact h1

/-- A read of DRAM keeps the form. -/
theorem readDram_wf (a n : Nat) (p : Option PktId) (s : State) (h : s.mem.wf = true) : (readDram a n p s).2.mem.wf = true := by
  have h1 := readSectors_wf p ((a + n - 1) / 32 + 1 - a / 32) (a / 32) s h
  unfold readDram
  split
  · exact h
  · split
    · rename_i ds s1 he
      rw [he] at h1
      exact h1
    · exact h1

/-- A read of the device address space keeps the form. -/
theorem devRead_wf (r a n : Nat) (p : Option PktId) (s : State) (h : s.mem.wf = true) : (devRead r a n p s).2.mem.wf = true := by
  unfold devRead
  split
  · exact h
  · split
    · exact readDram_wf _ _ _ _ h
    · simp only
      split
      · unfold spFetch
        split
        · exact parityError_wf 2 _ _ p s h
        · exact h
      · exact h
    · exact h

/-! ### AccMem, slices, seals -/

theorem accAdd_wf (r slot t c : Nat) (v : Int) (s : State) (h : s.mem.wf = true) : (accAdd r slot t c v s).mem.wf = true := by
  rw [Mem.wf_iff] at h
  obtain ⟨a, b, x, d, e, f, g, k⟩ := h
  exact (Mem.wf_iff _).mpr ⟨a, b, x, d, e, f, Store.setD_wf _ _ _ _ g, k⟩

theorem accClear_wf (r slot : Nat) (s : State) (h : s.mem.wf = true) : (accClear r slot s).mem.wf = true := by
  rw [Mem.wf_iff] at h
  obtain ⟨a, b, x, d, e, f, g, ⟨i, j, l⟩, k⟩ := h
  exact (Mem.wf_iff _).mpr ⟨a, b, x, d, e, f, Store.clear_wf _ _ _ _ g, ⟨i, Store.drop_rises _ _ j, l⟩, k⟩

theorem flushSlice_wf (q : Nat) (s : State) (h : s.mem.wf = true) : (flushSlice q s).mem.wf = true :=
  State.wf_foldl _ (fun x l w => poisonEvents_wf (evictLine l x.mem).2 { x with mem := (evictLine l x.mem).1 } (evictLine_wf l x.mem w)) _ _ h

theorem sealBlock_wf (blk : Nat) (data : List Byte) (s : State) (h : s.mem.wf = true) : (sealBlock blk data s).mem.wf = true := by
  unfold sealBlock
  simp only
  generalize hg : (List.range 128).foldl _ s.mem = m
  have w : m.wf = true := by
    rw [← hg]
    exact Mem.wf_foldl _ (fun m k w => dramPut_wf _ _ _ _ (csecDrop_wf (128 * blk + k) m w)) _ _ h
  rw [Mem.wf_iff] at w ⊢
  obtain ⟨a, b, x, d, e, f, g, ⟨i, j, l⟩, k⟩ := w
  exact ⟨a, b, Store.put_rises _ _ x (by omega), d, e, f, g, ⟨i, j, Store.filter_rises _ _ l⟩, k⟩

/-- The memories after reset are canonical: they list nothing. -/
theorem reset_mem_wf : Mem.wf State.reset.mem = true := by decide

end Sys2Proof.Machine
end

