-- ==== Sys2Proof/Laws/Walker.lean ====
section
/-! SUPPORT. What a walker's operations can do, each said once: how a change of a packet or of its walk is read back, what the end of a
walk leaves alone, that reading, coding and every round keep the memories canonical. -/

namespace Sys2Proof.Machine

/-! ### Packets and walks read back -/

theorem findPkt_modPkt (p : PktId) (f : Pkt → Pkt) (s : State) (h : ∀ k, (f k).idx = k.idx) :
    findPkt p (modPkt p f s) = (findPkt p s).map f := by
  unfold findPkt modPkt
  simp only [getRing_modRing]
  generalize (getRing p.ring.val s).pkts = l
  induction l with
  | nil => rfl
  | cons a l ih =>
    simp only [List.map_cons, List.find?_cons]
    by_cases e : (a.idx == p.idx) = true
    · simp [e, h]
    · rw [Bool.not_eq_true] at e
      simp only [e, Bool.false_eq_true, if_false, ih]

theorem walkOf_modWalk (p : PktId) (f : Walk → Walk) (s : State) : walkOf p (modWalk p f s) = (walkOf p s).map f := by
  unfold walkOf modWalk
  rw [findPkt_modPkt _ _ _ (by intro; rfl)]
  cases findPkt p s <;> rfl

theorem walkOf_modStream (p : PktId) (i : Nat) (f : Stream → Stream) (s : State) :
    walkOf p (modStream p i f s) = (walkOf p s).map fun w => { w with streams := modAt i f w.streams } := walkOf_modWalk ..

theorem walkOf_modStrip (p : PktId) (i : Nat) (f : Strip → Strip) (s : State) :
    walkOf p (modStrip p i f s) = (walkOf p s).map fun w => { w with strips := modAt i f w.strips } := walkOf_modWalk ..

theorem walkOf_congr {p : PktId} {s u : State} (h : u.rings = s.rings) : walkOf p u = walkOf p s := by
  simp [walkOf, findPkt, getRing, h]

theorem walkOf_pktFlag (b : Nat) (p : PktId) (s : State) : walkOf p (pktFlag b (some p) s) = walkOf p s := by
  unfold walkOf pktFlag modPktOf
  simp only
  rw [findPkt_modPkt _ _ _ (by intro; rfl)]
  cases findPkt p s <;> rfl

/-- An event that a walker raises leaves its walk, and its packet but for the count of events (R376). -/
theorem findPkt_raiseEvent (code unit aux detail : Nat) (p : PktId) (s : State) :
    findPkt p (raiseEvent code unit aux detail (some p) s) =
      (findPkt p s).map fun k => { k with events := min (k.events + 1) 0xFFFFFFFF } := by
  have h : ∀ v, findPkt p (raiseEvent code unit aux detail (some p) s) = v ↔
      findPkt p (modPktOf (some p) (fun k => { k with events := min (k.events + 1) 0xFFFFFFFF }) s) = v := by
    intro v
    unfold raiseEvent
    generalize modPktOf (some p) _ s = x
    have e := poisonEvents_onlyIn (postEvent (code / 256) (eventRecord code unit aux detail (some p) x) x).2
      (postEvent (code / 256) (eventRecord code unit aux detail (some p) x) x).1
    have g := (onlyIn_trans (postEvent_onlyIn (code / 256) (eventRecord code unit aux detail (some p) x) x) e).same .rings (by decide)
    simp only [Part.same] at g
    simp [findPkt, getRing, g]
  rw [h]
  exact findPkt_modPkt _ _ _ (by intro; rfl)

theorem walkOf_raiseEvent (code unit aux detail : Nat) (p : PktId) (s : State) :
    walkOf p (raiseEvent code unit aux detail (some p) s) = walkOf p s := by
  unfold walkOf
  rw [findPkt_raiseEvent]
  cases findPkt p s <;> rfl

/-! ### The end of a walk -/

theorem Store.find_mapV {α β : Type} (f : Nat → α → β) (k : Nat) (m : Store α) :
    Store.find k (Store.mapV f m) = (Store.find k m).map (f k) := by
  induction m with
  | nil => rfl
  | cons e m ih =>
    obtain ⟨j, v⟩ := e
    have : Store.mapV f ((j, v) :: m) = (j, f j v) :: Store.mapV f m := rfl
    rw [this]
    simp only [Store.find]
    by_cases h : k = j
    · subst h; simp
    · by_cases g : k < j <;> simp [h, g, ih]

/-- The end of walkers changes threads, and the instruction buffers of racks. -/
theorem endWalkers_onlyIn (p : PktId) (s : State) : onlyIn [.threads, .racks] s (endWalkers p s) := by
  unfold endWalkers emptyIbufs
  split
  · exact onlyIn_refl ..
  · constructor; intro p hp; cases p <;> first | rfl | simp at hp

/-- A walker that still works on a rack keeps that rack's threads. -/
theorem endWalkers_thread {p : PktId} {w : Walk} {s : State} {r x : Nat} (h : walkOf p s = some w) (o : w.over r = false) (hx : x < 64) :
    getThread r x (endWalkers p s) = getThread r x s := by
  have hr : (64 * r + x) / 64 = r := by omega
  simp only [endWalkers, emptyIbufs, h, getThread, Store.getD, Store.find_mapV, hr, o, Bool.and_false, Bool.false_eq_true, if_false]
  cases Store.find (64 * r + x) s.threads <;> rfl

/-! ### A round keeps the memories canonical -/

theorem modPktOf_mem (p : Option PktId) (f : Pkt → Pkt) (s : State) : (modPktOf p f s).mem = s.mem := by cases p <;> rfl

theorem ite_wf {c : Prop} [Decidable c] {x y : State} (hx : x.mem.wf = true) (hy : y.mem.wf = true) :
    (if c then x else y).mem.wf = true := by split <;> assumption

theorem raiseExc_wf (r t cause fl pc addr : Nat) (insn : Word) (s : State) (h : s.mem.wf = true) :
    (raiseExc r t cause fl pc addr insn s).mem.wf = true := by
  unfold raiseExc
  simp only
  split
  · rw [modPktOf_mem]; exact h
  · refine raiseEvent_wf _ _ _ _ _ _ ?_
    rw [pktCode, modPktOf_mem, modPktOf_mem]
    exact h

theorem walkTrap_wf (r : Nat) (p : PktId) (cause addr : Nat) (s : State) (h : s.mem.wf = true) :
    (walkTrap r p cause addr s).mem.wf = true := by
  unfold walkTrap
  split
  · exact raiseExc_wf _ _ _ _ _ _ _ _ h
  · exact h

theorem releaseIf_mem (o k : Nat) (s : State) : (releaseIf o k s).mem = s.mem := by
  unfold releaseIf releaseWith
  split
  · split <;> rfl
  · rfl

/-- A signal keeps the form. -/
theorem signal_wf (o : Nat) (v : Int) (p : Option PktId) (s : State) (h : s.mem.wf = true) : (signal o v p s).mem.wf = true := by
  unfold signal
  simp only
  have : ∀ x : State, x.mem.wf = true → (latchWaits ((x.threads.map (·.1)).foldl (fun s k => releaseIf o k s) x)).mem.wf = true := by
    intro x hx
    exact State.wf_foldl (fun s k => releaseIf o k s) (fun s k w => by rw [releaseIf_mem]; exact w) _ _ hx
  refine this _ ?_
  split
  · exact raiseEvent_wf _ _ _ _ _ _ h
  · exact h

theorem walkSignal_wf (o : Nat) (v : Int) (p : PktId) (s : State) (h : s.mem.wf = true) : (walkSignal o v p s).mem.wf = true :=
  wf_of_onlyIn (ringProgress_onlyIn ..) (by decide) (signal_wf _ _ _ _ h)

theorem busOf_mem (r : Rd) (p : Option PktId) (s : State) : (busOf r p s).mem = s.mem := by
  cases r <;> simp only [busOf, pktCode, pktFlag, modPktOf_mem]

theorem fetch_wf (r : Nat) (p : PktId) (a : Nat × Nat) (s : State) (h : s.mem.wf = true) : (fetch r p a s).2.mem.wf = true := by
  have k := devRead_wf r a.1 a.2 (some p) s h
  unfold fetch
  split
  · rename_i e; rw [e] at k; exact k
  · rename_i e; rw [e] at k
    simp only [busOf_mem]
    exact k

theorem gatherAll_wf {α β : Type} (f : α → State → Except Nat β × State) (hf : ∀ a s, s.mem.wf = true → (f a s).2.mem.wf = true) (l : List α)
    (s : State) (h : s.mem.wf = true) : (gatherAll f l s).2.mem.wf = true := by
  induction l generalizing s with
  | nil => exact h
  | cons a l ih =>
    have k := hf a s h
    unfold gatherAll
    split
    · rename_i e; rw [e] at k; exact k
    · rename_i e; rw [e] at k
      have j := ih _ k
      split <;> (rename_i e'; rw [e'] at j; exact j)

theorem gatherTap_wf (r q e : Nat) (table : List Byte) (w : Walk) (p : PktId) (tap : Option Nat) (s : State) (h : s.mem.wf = true) :
    (gatherTap r q e table w p tap s).2.mem.wf = true := by
  unfold gatherTap
  simp only
  split
  · exact h
  · rename_i n
    have k := gatherAll_wf (fetch r p) (fetch_wf r p) (w.pieces r q e n) s h
    split
    · rename_i e'; rw [e'] at k; exact k
    · rename_i e'; rw [e'] at k
      exact State.wf_foldl (sideMissing p) (fun s x w => raiseEvent_wf 0x0402 _ _ _ (some p) s w) _ _ k

theorem gatherToken_wf (r q e : Nat) (table : List Byte) (w : Walk) (p : PktId) (taps : Option (List (Option Nat))) (s : State)
    (h : s.mem.wf = true) : (gatherToken r q e table w p taps s).2.mem.wf = true := by
  unfold gatherToken
  split
  · exact h
  · rename_i ts
    have k := gatherAll_wf (gatherTap r q e table w p) (gatherTap_wf r q e table w p) ts s h
    split <;> (rename_i e'; rw [e'] at k; exact k)

theorem devStore_wf (r a : Nat) (data : List Byte) (p : Option PktId) (s : State) (h : s.mem.wf = true) :
    (devStore r a data p s).mem.wf = true :=
  devWrite_wf _ _ _ _ (by split <;> [exact h; (rw [pktCode, modPktOf_mem]; exact h)])

theorem writeBlock_wf (r q k dst dsts bsn : Nat) (ts : List CodedTok) (p : Option PktId) (s : State) (h : s.mem.wf = true) :
    (writeBlock r q k dst dsts bsn ts p s).mem.wf = true := by
  have hw : ∀ (c : Prop) [Decidable c] (a : Nat) (d : List Byte) (x : State), x.mem.wf = true →
      (if c then devStore r a d p x else x).mem.wf = true := by
    intro c _ a d x hx; split <;> [exact devStore_wf _ _ _ _ _ hx; exact hx]
  unfold writeBlock
  exact hw _ _ _ _ (devStore_wf _ _ _ _ _ (hw _ _ _ _ (devStore_wf _ _ _ _ _ h)))

theorem noteTokens_wf (r : Nat) (p : Option PktId) (ts : List CodedTok) (s : State) (h : s.mem.wf = true) :
    (noteTokens r p ts s).mem.wf = true := by
  have hp : ∀ (c : Prop) [Decidable c] (b : Nat) (x : State), x.mem.wf = true → (if c then pktFlag b p x else x).mem.wf = true := by
    intro c _ b x hx; split <;> [(rw [pktFlag, modPktOf_mem]; exact hx); exact hx]
  have he : ∀ (c : Prop) [Decidable c] (a b d : Nat) (x : State), x.mem.wf = true →
      (if c then raiseEvent a r b d p x else x).mem.wf = true := by
    intro c _ a b d x hx; split <;> [exact raiseEvent_wf _ _ _ _ _ _ hx; exact hx]
  unfold noteTokens
  apply he; apply he; apply he; apply hp; apply hp; apply hp
  exact h

theorem modStrip_mem (p : PktId) (i : Nat) (f : Strip → Strip) (s : State) : (modStrip p i f s).mem = s.mem := rfl

theorem modStream_mem (p : PktId) (i : Nat) (f : Stream → Stream) (s : State) : (modStream p i f s).mem = s.mem := rfl

theorem operandHead_wf (w : Walk) (rack : Nat) (p : PktId) (s : State) (h : s.mem.wf = true) : (operandHead w rack p s).2.mem.wf = true := by
  have hf : ∀ {α : Type} (g : List Byte → α) (a : Nat × Nat),
      (match fetch rack p a s with
        | (.ok d, s) => ((.ok (g d), s) : Except Nat α × State)
        | (.error e, s) => (.error e, s)).2.mem.wf = true := by
    intro α g a
    have k := fetch_wf rack p a s h
    split <;> (rename_i e; rw [e] at k; exact k)
  unfold operandHead
  simp only
  split
  · exact hf (fun d => (byteAt 3 d, [])) _
  · split
    · exact hf (fun d => (0, d)) _
    · exact h

theorem codeBlock_wf (p : PktId) (i : Nat) (w : Walk) (v : Strip) (s : State) (h : s.mem.wf = true) :
    (codeBlock p i w v s).mem.wf = true := by
  unfold codeBlock
  simp only
  have k := operandHead_wf w v.rack p s h
  generalize operandHead w v.rack p s = g at k ⊢
  obtain ⟨x, s1⟩ := g
  cases x with
  | error e => exact walkTrap_wf _ _ _ _ _ k
  | ok hd =>
    obtain ⟨e, table⟩ := hd
    simp only
    generalize hg' : gatherAll _ _ s1 = g'
    have k' : g'.2.mem.wf = true := by rw [← hg']; exact gatherAll_wf _ (gatherToken_wf _ _ _ _ w p) _ _ k
    obtain ⟨y, s2⟩ := g'
    cases y with
    | error e => exact walkTrap_wf _ _ _ _ _ k'
    | ok xs =>
      simp only [modStrip_mem]
      apply noteTokens_wf
      rw [drawFree_mem]
      exact writeBlock_wf _ _ _ _ _ _ _ _ _ k'

theorem storeRow_wf (w : Walk) (rack q f : Nat) (p : PktId) (s : State) (row : (Nat × Nat) × List Byte) (h : s.mem.wf = true) :
    (storeRow w rack q f p s row).mem.wf = true := devStore_wf _ _ _ _ _ h

theorem sendHalo_wf (w : Walk) (f q o : Nat) (rows : List ((Nat × Nat) × List Byte)) (p : PktId) (s : State) (h : s.mem.wf = true) :
    (sendHalo w f q o rows p s).mem.wf = true := by
  unfold sendHalo
  split
  · exact h
  · exact walkSignal_wf _ _ _ _ (State.wf_foldl _ (fun _ _ x => State.wf_foldl _ (fun _ _ y => storeRow_wf _ _ _ _ _ _ _ y) _ _ x) _ _ h)

theorem loadRow_wf (w : Walk) (rack : Nat) (p : PktId) (esc : Nat) (e : Nat × Nat) (s : State) (h : s.mem.wf = true) :
    (loadRow w rack p esc e s).2.mem.wf = true := by
  have k := gatherAll_wf (fetch rack p) (fetch_wf rack p) (w.rowPieces esc e) s h
  unfold loadRow
  split <;> (rename_i e'; rw [e'] at k; exact k)

theorem sendHalos_wf (w : Walk) (v : Strip) (p : PktId) (esc : Nat) (s : State) (h : s.mem.wf = true) :
    (sendHalos w v p esc s).2.mem.wf = true := by
  unfold sendHalos
  simp only
  generalize hg : gatherAll _ _ s = g
  have k : g.2.mem.wf = true := by rw [← hg]; exact gatherAll_wf _ (loadRow_wf w v.rack p _) _ _ h
  obtain ⟨x, s1⟩ := g
  cases x with
  | error e => exact k
  | ok up =>
    simp only
    generalize hg' : gatherAll _ _ s1 = g'
    have k' : g'.2.mem.wf = true := by rw [← hg']; exact gatherAll_wf _ (loadRow_wf w v.rack p _) _ _ k
    obtain ⟨y, s2⟩ := g'
    cases y with
    | error e => exact k'
    | ok down => exact sendHalo_wf _ _ _ _ _ _ _ (sendHalo_wf _ _ _ _ _ _ _ k')

theorem fillRows_wf (p : PktId) (i : Nat) (w : Walk) (v : Strip) (s : State) (h : s.mem.wf = true) : (fillRows p i w v s).mem.wf = true := by
  unfold fillRows
  have h := operandHead_wf w v.rack p s h
  generalize operandHead w v.rack p s = g at h ⊢
  obtain ⟨x, s⟩ := g
  cases x with
  | error e => exact walkTrap_wf _ _ _ _ _ h
  | ok hd =>
  simp only
  have k := sendHalos_wf w v p hd.1 s h
  generalize sendHalos w v p hd.1 s = g at k ⊢
  obtain ⟨x, s1⟩ := g
  cases x with
  | error e => exact walkTrap_wf _ _ _ _ _ k
  | ok u =>
    simp only
    generalize hg' : gatherAll _ _ s1 = g'
    have k' : g'.2.mem.wf = true := by rw [← hg']; exact gatherAll_wf _ (loadRow_wf w v.rack p _) _ _ k
    obtain ⟨y, s2⟩ := g'
    cases y with
    | error e => exact walkTrap_wf _ _ _ _ _ k'
    | ok rows => exact State.wf_foldl (storeRow w v.rack v.repl v.rack p) (fun _ _ y => storeRow_wf _ _ _ _ _ _ _ y) _ _ k'

theorem closeHalo_wf (p : PktId) (i : Nat) (w : Walk) (v : Strip) (s : State) (h : s.mem.wf = true) : (closeHalo p i w v s).mem.wf = true := by
  have hs : ∀ (c : Prop) [Decidable c] o n (x : State), x.mem.wf = true → (if c then x else walkSignal o n p x).mem.wf = true := by
    intro c _ o n x hx; split <;> [exact hx; exact walkSignal_wf _ _ _ _ hx]
  unfold closeHalo
  simp only
  split
  · exact h
  · split
    · rw [modStrip_mem]; exact hs _ _ _ _ (hs _ _ _ _ h)
    · exact h

/-- What a strip does in a round keeps the form. -/
theorem stripStep_wf (p : PktId) (s : State) (i : Nat) (h : s.mem.wf = true) : (stripStep p s i).mem.wf = true := by
  unfold stripStep
  split
  · exact h
  · rename_i w v _
    have a := fillRows_wf p i w v s h
    have b := codeBlock_wf p i w v s h
    have c := closeHalo_wf p i w v s h
    exact ite_wf h (ite_wf a (ite_wf (ite_wf b h) (ite_wf c h)))

theorem acceptStaged_mem (r : Nat) (d : Bool) (k : Nat) (desc : List Byte) (p : Option PktId) (x : Option (List (List Byte))) (s : State) :
    (acceptStaged r d k desc p x s).mem = s.mem := rfl

theorem acceptDrain_mem (r : Nat) (d : Bool) (k : Nat) (desc : List Byte) (p : Option PktId) (s : State) :
    (acceptDrain r d k desc p s).mem = s.mem := rfl

theorem enterOps_mem (r : Nat) (d : Tile) (p : Option PktId) (s : State) : (enterOps r d p s).mem = s.mem := by
  have hf : ∀ {α : Type} (f : State → α → State) (hf : ∀ s x, (f s x).mem = s.mem) (l : List α) (s : State), (l.foldl f s).mem = s.mem := by
    intro α f hf l
    induction l with
    | nil => intro s; rfl
    | cons x l ih => intro s; rw [List.foldl_cons, ih, hf]
  unfold enterOps
  refine hf _ (fun s x => ?_) _ _
  simp only [enterOp]
  exact (hf (fun (s : State) (y : Nat × Nat) => countSlot r (tileRec d y.2) y.1 p s) (fun _ _ => rfl) _ _).trans rfl

theorem of_ite {c : Prop} [Decidable c] {x y : Option State} {u : State} {P : Prop} (k : (if c then x else y) = some u)
    (hx : x = some u → P) (hy : y = some u → P) : P := by
  split at k
  · exact hx k
  · exact hy k

theorem resRowOf_wf (w : Walk) (r ch0 n : Nat) (p : PktId) (tok : Option Nat) (s : State) (h : s.mem.wf = true) :
    (resRowOf w r ch0 n p tok s).2.mem.wf = true := by
  unfold resRowOf
  split
  · exact h
  · rename_i a _ _
    have k := fetch_wf r p a s h
    split <;> (rename_i e'; rw [e'] at k; exact k)

theorem stageRes_wf (w : Walk) (home : Bool) (f : Flight) (p : PktId) (s : State) (h : s.mem.wf = true) :
    (stageRes w home f p s).2.mem.wf = true := by
  unfold stageRes
  split
  · exact h
  · simp only
    generalize hg : gatherAll _ _ s = g
    have k : g.2.mem.wf = true := by rw [← hg]; exact gatherAll_wf _ (fun a s h => resRowOf_wf w _ _ _ p a s h) _ _ h
    obtain ⟨x, s1⟩ := g
    cases x <;> exact k

theorem drainNext_wf (p : PktId) (i k : Nat) (b : Bool) (w : Walk) (f : Flight) (s u : State) (h : s.mem.wf = true)
    (e : drainNext p i k b w f s = some u) : u.mem.wf = true := by
  unfold drainNext at e
  refine of_ite e (fun e => by cases e) fun e => of_ite e (fun e => ?_) fun e => of_ite e (fun e => ?_) fun e => ?_
  · rw [← Option.some.inj e, modStream_mem, acceptDrain_mem]; exact h
  · rw [← Option.some.inj e]
    exact walkTrap_wf _ _ _ _ _ (ite_wf (raiseEvent_wf _ _ _ _ _ _ h) h)
  · have k := stageRes_wf w b f p s h
    generalize stageRes w b f p s = g at k e
    obtain ⟨x, s1⟩ := g
    cases x with
    | error a => rw [← Option.some.inj e]; exact walkTrap_wf _ _ _ _ _ k
    | ok rows => rw [← Option.some.inj e, modStream_mem, acceptStaged_mem]; exact k

/-- What a cell in flight does in a round keeps the form. -/
theorem flightStep_wf (p : PktId) (i : Nat) (w : Walk) (b : Bool) (s u : State) (e : Flight × Nat) (h : s.mem.wf = true)
    (k : flightStep p i w b s e = some u) : u.mem.wf = true := by
  unfold flightStep at k
  refine of_ite k (fun k => ?_) fun k => of_ite k (fun k => ?_) fun k => of_ite k (fun k => ?_) fun k => drainNext_wf _ _ _ _ _ _ _ _ h k
  · unfold feed at k
    refine of_ite k (fun k => ?_) fun k => of_ite k (fun k => ?_) fun k => by cases k
    · rw [← Option.some.inj k]; exact walkTrap_wf _ _ _ _ _ h
    · rw [← Option.some.inj k, modStream_mem, enterOps_mem]; exact h
  · unfold loadPartial at k
    refine of_ite k (fun k => ?_) fun k => by cases k
    rw [← Option.some.inj k, modStream_mem]; exact h
  · unfold giveBack at k
    refine of_ite k (fun k => ?_) fun k => by cases k
    rw [← Option.some.inj k, modStream_mem]
    exact State.wf_foldl _ (fun _ _ x => walkSignal_wf _ _ _ _ x) _ _ h

theorem firstSome_of {α : Type} {f : α → Option State} {l : List α} {u : State} (h : firstSome f l = some u) : ∃ a, f a = some u := by
  induction l with
  | nil => cases h
  | cons a l ih =>
    unfold firstSome at h
    split at h
    · rename_i e; exact ⟨a, e.trans h⟩
    · exact ih h

theorem openFailed_wf (p : PktId) (i : Nat) (w : Walk) (t : Stream) (s : State) (h : s.mem.wf = true) : (openFailed p i w t s).mem.wf = true := by
  unfold openFailed
  split
  · exact h
  · have k : (modStream p i (fun t => { t with redFirst := true }) (pktFlag 1 (some p) s)).mem.wf = true := by
      rw [modStream_mem, pktFlag, modPktOf_mem]; exact h
    exact ite_wf (raiseEvent_wf _ _ _ _ _ _ k) k

theorem openNext_wf (p : PktId) (i : Nat) (w : Walk) (t : Stream) (s : State) (h : s.mem.wf = true) : (openNext p i w t s).mem.wf = true := by
  unfold openNext
  simp only
  split
  · exact h
  · split
    · exact h
    · split
      · exact openFailed_wf _ _ _ _ _ h
      · rw [modStream_mem]
        exact State.wf_foldl _ (fun s k x => by rw [modSlot_mem]; exact x) _ _ h

theorem unwind_wf (p : PktId) (i : Nat) (w : Walk) (t : Stream) (s : State) (h : s.mem.wf = true) : (unwind p i w t s).mem.wf = true := by
  unfold unwind
  split
  · exact h
  · split
    · rw [modStream_mem]
      split <;> [exact h; exact walkSignal_wf _ _ _ _ h]
    · exact h

/-- What a stream does in a round keeps the form. -/
theorem streamStep_wf (p : PktId) (s : State) (i : Nat) (h : s.mem.wf = true) : (streamStep p s i).mem.wf = true := by
  unfold streamStep
  split
  · exact h
  · simp only
    split
    · exact h
    · split
      · rename_i e
        obtain ⟨a, e⟩ := firstSome_of e
        exact flightStep_wf _ _ _ _ _ _ _ h e
      · exact ite_wf (ite_wf (unwind_wf _ _ _ _ _ h) h) (ite_wf (openNext_wf _ _ _ _ _ h) h)

/-- A round of a walker keeps the form. -/
theorem walkRound_wf (p : PktId) (s : State) (h : s.mem.wf = true) : (walkRound p s).mem.wf = true := by
  unfold walkRound
  split
  · exact h
  · exact wf_of_onlyIn (endWalkers_onlyIn ..) (by decide)
      (State.wf_foldl _ (fun s i w => streamStep_wf p s i w) _ _ (State.wf_foldl _ (fun s i w => stripStep_wf p s i w) _ _ h))

end Sys2Proof.Machine
end

