-- ==== Sys2Proof/Tests/Slice0.lean ====
section
/-! SUPPORT. The model's own tests: ill-formed commands that WellFormed refuses, words of Skovfa written out from its tables, results
worked out by hand from the spec, and for every statement states and operands that meet its hypotheses, clause by clause. -/

set_option Elab.async false

namespace Sys2Proof.Tests

open Sys2Proof.Machine

/-! ### Helpers -/

/-- A device whose firmware is ready: all of the boot flow is over. -/
def up : State := { State.reset with
  pm := { Pm.init with fwReady := true, wiped := true, stage := 4 }
  px := { Px.init with bme := true, mse := true, linkUp := true, cfgReady := true } }

/-- A READY thread at address 0x1000. -/
def ready : Thread := { Thread.init with st := .ready, pc := 0x1000 }

/-- The device with thread 0 of rack 0. -/
def having (k : Thread) : State := { up with threads := [(0, k)] }

/-- Words of a record, each with its byte offset and width, over zeros. -/
def record (n : Nat) (fields : List (Nat × Nat × Nat)) : List Byte :=
  Store.getN 0 0 n (fields.foldl (fun m f => Store.setN 0 f.1 (leBytes f.2.1 f.2.2) m) [])

/-- A pair with an answer that meets a test, as a read hypothesis needs it. -/
theorem ok_pair {ε α β : Type} {x : Except ε α × β} {P : α → β → Bool}
    (h : (match x with | (.ok a, b) => P a b | (.error _, _) => false) = true) : ∃ a b, x = (.ok a, b) ∧ P a b = true := by
  match x with
  | (.ok a, b) => exact ⟨a, b, rfl, h⟩
  | (.error _, _) => simp at h

/-! ### WellFormed refuses each ill-formed term -/

theorem test_wf_csrr_number : (Instr.skCsrr 0 0 1 8).wf = false := by decide
theorem test_wf_csrw_not_fflags : (Instr.skCsrw 0 0 1 4).wf = false := by decide
theorem test_wf_branch_predicate : (Instr.skBr 0 0 .pany 8 0).wf = false ∧ (Instr.skBr 0 0 .pnone 31 0).wf = false := by decide
theorem test_wf_sst4_d : (Instr.skSst4 0 0 29 0 0).wf = false := by decide
theorem test_wf_integer_type : ∀ i ∈ [Instr.skVadd 0 0 .fp32 1 2 3 0 false, .skVsub 0 0 .bf16 1 2 3 0 false,
    .skVmul 0 0 .fp32 1 2 3 0 false, .skVmin 0 0 .fp32 1 2 3 0 false, .skVmax 0 0 .fp32 1 2 3 0 false,
    .skVand 0 0 .fp32 1 2 3 0 false, .skVor 0 0 .fp32 1 2 3 0 false, .skVxor 0 0 .fp32 1 2 3 0 false,
    .skVshl 0 0 .fp32 1 2 3 0 false, .skVshr 0 0 .fp32 1 2 3 0 false, .skVsra 0 0 .fp32 1 2 3 0 false,
    .skVadds 0 0 .fp32 1 2 3 0 false, .skVabs 0 0 .bf16 1 2 0 false], i.wf = false := by decide
theorem test_wf_float_type : ∀ i ∈ [Instr.skVfadd 0 0 .int32 1 2 3 0 false, .skVfsub 0 0 .int8 1 2 3 0 false,
    .skVfmul 0 0 .int16 1 2 3 0 false, .skVfma 0 0 .int32 1 2 3 0 false, .skVfmin 0 0 .int32 1 2 3 0 false,
    .skVfmax 0 0 .int32 1 2 3 0 false, .skVfabs 0 0 .int32 1 2 0 false, .skVfrcp 0 0 .int32 1 2 0 false,
    .skVfrsq 0 0 .int32 1 2 0 false, .skVfexp 0 0 .int32 1 2 0 false, .skVftanh 0 0 .int32 1 2 0 false], i.wf = false := by decide
theorem test_wf_fmaw_pair : (Instr.skVfmaw 0 0 3 1 2 0 false).wf = false := by decide
theorem test_wf_vcvt_pair : (Instr.skVcvt 0 0 1 2 .a4 .fp32 0 0 false).wf = false ∧
    (Instr.skVcvt 0 0 1 2 .bf16 .fp32 2 0 false).wf = false := by decide
theorem test_wf_vscl_format : (Instr.skVsclExpand 0 0 1 2 3 .bf16 0 0 false).wf = false ∧
    (Instr.skVsclCode 0 0 1 2 3 .a8 2 0 false).wf = false := by decide
theorem test_wf_tile_field : (Instr.skTset 0 0 0 1 3 1 : Instr).wf = false ∧ (Instr.skTget 0 0 1 0 4 3).wf = false := by decide

/-! ### Skovfa words, bit by bit from Tables 8.4 to 8.17 -/

/-- The five words of Table 8.20. -/
theorem test_word_table_8_20 : skovfaDecode 0 0 0xC4800000#32 = some (.skAccOpen 0 0 4) ∧
    skovfaDecode 0 0 0x40880007#32 = some (.skBr 0 0 .ltz 4 7) ∧ skovfaDecode 0 0 0xF0040016#32 = some (.skTset 0 0 0 4 22 0) ∧
    skovfaDecode 0 0 0xC0000000#32 = some (.skCkMvm 0 0 0) ∧ skovfaDecode 0 0 0xC8052000#32 = some (.skDcDrain 0 0 5 4 false) ∧
    skovfaDecode 0 0 0x00000001#32 = some (.skEnd 0 0) := by decide
theorem test_word_system : skovfaDecode 0 0 (0b000000#6 ++ 9#5 ++ 0#5 ++ 4#5 ++ 0#4 ++ 0x03#7) = some (.skCsrr 0 0 9 4) := by decide
theorem test_word_alu : skovfaDecode 0 0 (0b000001#6 ++ 31#5 ++ 30#5 ++ 29#5 ++ 0#4 ++ 0x0B#7) = some (.skMax 0 0 31 30 29) := by
  decide
theorem test_word_alu_reserved : skovfaDecode 0 0 (0b000001#6 ++ 1#5 ++ 2#5 ++ 3#5 ++ 0#4 ++ 0x0E#7) = none := by decide
theorem test_word_fpu : skovfaDecode 0 0 (0b000010#6 ++ 1#5 ++ 2#5 ++ 3#5 ++ 0#4 ++ 0x06#7) = some (.skFdiv 0 0 1 2 3) := by decide
theorem test_word_immediate : skovfaDecode 0 0 (0b001011#6 ++ 1#5 ++ 2#5 ++ 63#16) = some (.skSrai 0 0 1 2 63) := by decide
theorem test_word_jump : skovfaDecode 0 0 (0b010010#6 ++ 0x3FFFFFE#26) = some (.skJal 0 0 0x3FFFFFE) := by decide
theorem test_word_load : skovfaDecode 0 0 (0b011000#6 ++ 1#5 ++ 2#5 ++ 6#3 ++ 0#3 ++ 0x3FF#10) = some (.skLwu 0 0 1 2 0x3FF) := by
  decide
theorem test_word_vector_store : skovfaDecode 0 0 (0b011010#6 ++ 1#5 ++ 2#5 ++ 2#3 ++ 0#3 ++ 1#10) = some (.skVst 0 0 1 2 2 1) := by
  decide
theorem test_word_vector_float : skovfaDecode 0 0 (0b100001#6 ++ 1#5 ++ 2#5 ++ 3#5 ++ 7#3 ++ 1#1 ++ 3#4 ++ 4#3) =
    some (.skVfma 0 0 .fp32 1 2 3 7 true) := by decide
theorem test_word_vector_move : skovfaDecode 0 0 (0b100010#6 ++ 1#5 ++ 2#5 ++ 3#5 ++ 1#3 ++ 0#1 ++ 3#4 ++ 1#3) =
    some (.skVperm 0 0 .int16 1 2 3 1 false) := by decide
theorem test_word_convert : skovfaDecode 0 0 (0b100011#6 ++ 1#5 ++ 2#5 ++ 5#5 ++ 0#3 ++ 0#1 ++ 0#1 ++ 1#2 ++ 2#4) =
    some (.skVcvt 0 0 1 2 .bf16 .e4m3 1 0 false) := by decide
theorem test_word_scale : skovfaDecode 0 0 (0b100100#6 ++ 1#5 ++ 2#5 ++ 3#5 ++ 0#3 ++ 0#1 ++ 1#1 ++ 1#2 ++ 0#4) =
    some (.skVsclCode 0 0 1 2 3 .a8 1 0 false) := by decide
theorem test_word_sync : skovfaDecode 0 0 (0b110100#6 ++ 3#5 ++ 4#5 ++ 5#5 ++ 0#4 ++ 2#7) = some (.skSyWaitr 0 0 3 4 5) := by decide

/-! ### Witnesses: the queue, the clock -/

theorem witness_StepRunsTheFrontCommand : { up with pending := [.ppsEdge 0] }.pending = .ppsEdge 0 :: [] := by decide
theorem witness_IdleStepIsOneStepClock : State.reset.pending = [] ∧ State.reset.hang.detected = [] ∧
    State.reset.pos.dist < (rget .POS_FRAME_LEN 0 0 State.reset).toNat := by decide

/-! ### Witnesses: Skovfa -/

/-- A READY thread 0 with no load outstanding issues, in any state of a device that is up. -/
theorem issues_of {s : State} (k : Thread) (g : getThread 0 0 s = k := by rfl) (m : s.pm = up.pm := by rfl)
    (h : k.st = .ready := by rfl) (p : fetchable k.pc.toNat up = true := by decide) (l : k.loads = [] := by rfl)
    (w : walks k s = false := by rfl) (o : myTurn 0 0 s = true := by rfl) (u : k.struck = [] := by rfl)
    (all : Bool) (dst src : List LoadDest) : issues 0 0 all dst src s := by
  subst g
  refine ⟨h, ?_, w, ?_, o, ?_⟩
  · simpa [fetchable, usable, m] using p
  · show (getThread 0 0 s).blocked all (dst ++ src) = false
    simp [Thread.blocked, l]
  · show (getThread 0 0 s).spoilt src = none
    simp [Thread.spoilt, u]

theorem witness_issues (all : Bool) (dst src : List LoadDest) : issues 0 0 all dst src (having ready) :=
  issues_of ready (all := all) (dst := dst) (src := src)

theorem witness_ScalarInstructionsWriteTheirResult : issues 0 0 false [.sreg 1] [.sreg 2, .sreg 3] (having ready) ∧
    issues 31 63 false [.sreg 31] [.sreg 30] { up with threads := [(2047, ready)] } :=
  ⟨witness_issues _ _ _, by unfold issues; decide⟩

theorem witness_BranchesAndSystemInstructions : (Instr.skBr 0 0 .pnone 7 0x3FFFF).wf = true ∧
    (∀ all dst src, issues 0 0 all dst src (having ready)) ∧ (sreg (getThread 0 0 (having ready)) 2).toNat % 4 = 0 ∧
    (∀ dst src, issues 0 0 false dst src (having { ready with s := [(2, 6)], pkt := some ⟨7, 3⟩ })) ∧
    (sreg (getThread 0 0 (having { ready with s := [(2, 6)], pkt := some ⟨7, 3⟩ })) 2).toNat % 4 ≠ 0 :=
  ⟨by decide, witness_issues, by decide,
    fun d x => issues_of { ready with s := [(2, 6)], pkt := some ⟨7, 3⟩ } (all := _) (dst := d) (src := x), by decide⟩

theorem witness_ExceptionsHaltTheThread : issues 0 0 false [] [] (having ready) ∧ skovfaDecode 0 0 0xFFFFFFFF#32 = none ∧
    (8 ≤ (8 : Reg).val ∧ (4 : Reg).val ≠ 5 ∧ 28 < (29 : Reg).val) ∧
    (let s := having { ready with pc := 2 }
     (getThread 0 0 s).st = .ready ∧ (getThread 0 0 s).pc.toNat % 4 ≠ 0) ∧
    let s := having { ready with pc := 0x6FFFFFFFD }
    (getThread 0 0 s).st = .ready ∧ usable s < (getThread 0 0 s).pc.toNat + 4 := by
  refine ⟨witness_issues _ _ _, by decide, by decide, by decide, rfl, ?_⟩
  decide +kernel

theorem witness_FloatInstructionsRoundToNearest : (∀ all dst src, issues 0 0 all dst src (having ready)) ∧
    ∀ f ∈ [fp32, bf16, e5m2, e4m3, e2m1], (fround f false 1 1).2 &&& flOF = 0 ∧ (fround f true 3 2).2 &&& flOF = 0 :=
  ⟨witness_issues, by decide +kernel⟩

/-- A load of 8 bytes at the start of the rack's scratchpad. -/
def load : Load := ⟨.sreg 1, 0x2000000000, 8, false, none, 0x1000, 0⟩

/-- A cached DRAM sector with good parity. -/
def cached : CSector := ⟨List.replicate 32 7, parityOf (List.replicate 32 7), false⟩

theorem witness_LoadsBringTheirData : (∀ all dst src, issues 0 0 all dst src (having ready)) ∧
    (∀ n ∈ [1, 2, 4, 8], accessCause 0 (effAddr (getThread 0 0 (having ready)) 2 0 n) n n false (having ready) = none) ∧
    (∀ n ∈ [32, 64, 128], accessCause 0 (effAddr (getThread 0 0 (having ready)) 2 1 32) n 32 false (having ready) = none) ∧
    (let s := having { ready with loads := [load] }
     (getThread 0 0 s).loads[0]? = some load ∧ load.result = none ∧ 0 < load.size ∧ (getThread 0 0 s).st = .ready ∧
       (getThread 0 0 s).wait = none ∧ load.addr = 0x2000000000 + 0 ∧ 0 + load.size ≤ 0x80000 ∧ badSector 0 0 load.size s = none ∧
       let s := { s with mem := { s.mem with spBad := [(0, ())] } }
       badSector 0 0 load.size s = some 0) ∧
    let far : Load := { load with addr := 0x1000000000 + 0x80000 * 255 + 0x7FFF8 }
    let dram : Load := { load with addr := 0x38 }
    let s := { having { ready with loads := [far, dram] } with mem := { Mem.init with csec := [(1, cached)] } }
    (getThread 0 0 s).loads[1]? = some dram ∧ trellisUp 0 255 s = true ∧ trellisUp 255 0 s = true ∧ 0x7FFF8 + far.size ≤ 0x80000 ∧
      badSector 255 0x7FFF8 far.size s = none ∧ dram.addr + dram.size ≤ usable s ∧ dram.addr % 32 + dram.size ≤ 32 ∧
      s.mem.csec.find (dram.addr / 32) = some cached ∧ cached.par = parityOf cached.data :=
  ⟨witness_issues, by decide, by decide, by decide +kernel, by decide +kernel⟩

/-- An address of each kind that raises an exception: its bytes, its alignment, and the cause. -/
theorem witness_LoadsBringTheirData_fails :
    (∀ e ∈ [(3, 4, 4, 2), (0xFFFFFFFF8, 8, 8, 3), (0x1FFFFFFFE0, 64, 32, 3), (0x200007FFE0, 64, 32, 3), (0x100000000000, 8, 8, 4)],
      accessFails 0 e.1 e.2.1 e.2.2.1 false e.2.2.2 (having ready)) ∧
    accessFails 0 0x101FFFFFFFE0 64 32 false 3 (having ready) ∧ accessFails 0 0x100000000000 32 32 true 4 (having ready) := by
  have p : regionOf 0 0x100000000000 (having ready) = .peer 0 0 := by decide
  have e : regionOf 0 0x101FFFFFFFE0 (having ready) = .peer 0 0x1FFFFFFFE0 := by decide
  have o : ownMember (having ready) = 0 := by decide
  refine ⟨?_, .inr ⟨by decide, .inl ⟨rfl, .inr (.inr (.inr ⟨_, _, e, by decide⟩))⟩⟩,
    .inr ⟨by decide, .inr ⟨rfl, _, _, p, by decide, .inr o.symm⟩⟩⟩
  intro x h
  fin_cases h
  · exact .inl ⟨rfl, by decide⟩
  · exact .inr ⟨by decide, .inl ⟨rfl, .inl (by decide +kernel)⟩⟩
  · exact .inr ⟨by decide, .inl ⟨rfl, .inl (by decide +kernel)⟩⟩
  · exact .inr ⟨by decide, .inl ⟨rfl, .inr (.inr (.inl ⟨0, 0x7FFE0, by decide +kernel, by decide +kernel⟩))⟩⟩
  · exact .inr ⟨by decide, .inr ⟨rfl, _, _, p, by decide, .inl rfl⟩⟩

/-- A thread with s1 at an address of its rack's scratchpad. -/
def atPad (a : Nat) : Thread := { ready with s := [(1, BitVec.ofNat 64 (0x2000000000 + a))] }

theorem witness_StoresAndFences : (∀ a b d x, issues 0 0 b d x (having (atPad a))) ∧
    effAddr (getThread 0 0 (having (atPad 0x7FF80))) 1 0 32 = 0x2000000000 + 0x7FF80 ∧ 0x7FF80 % 32 = 0 ∧
    Mem.wf (having (atPad 0x7FF80)).mem = true ∧ 0x7FF80 + vbytes 2 ≤ 0x80000 ∧ 0x7FF80 + 64 ≤ 0x80000 ∧ (28 : Reg).val ≤ 28 ∧
    (let s := having { ready with s := [(1, 0x1000000000 + 0x80000 * 255)] }
     effAddr (getThread 0 0 s) 1 0 32 = 0x1000000000 + 0x80000 * 255 + 0 ∧ trellisUp 0 255 s = true) ∧
    (let s := having { ready with s := [(1, 0x40)] }
     effAddr (getThread 0 0 s) 1 0 32 = 0x40 ∧ 0x40 + 128 ≤ usable s ∧ s.mem.cline.length < 11 ∧
       ∀ j, j < 128 → sliceOn ((0x40 + j) / 128) s = true) ∧
    (∀ w ∈ [Wait.fence, .fenceP 1], let s := having { ready with st := .waitMem, wait := some w }
      (getThread 0 0 s).st = .waitMem ∧ rackStops 0 s = false ∧ (getThread 0 0 s).wait = some w ∧
        peerStoresOut 0 0 s = false) :=
  ⟨fun q a d x => issues_of (atPad q) (p := (by decide : fetchable ready.pc.toNat up = true)) (all := a) (dst := d) (src := x),
    by decide, by decide, by decide, by decide, by decide, by decide,
    by decide +kernel, by decide +kernel, by decide⟩

/-- A store through the window of member 1, whose route goes through an up port with credits. -/
theorem witness_StoresAndFences_peer : let s := { having { ready with s := [(1, 0x110000000040)] } with
      regs := [(regOff .BV_ROUTE 0 1, 0x80000000)]
      bv := { Bv.init with ports := [(0, { Port.init with st := .up, cred0 := 32, cred1 := 32 })] } }
    effAddr (getThread 0 0 s) 1 0 32 = 0x110000000040 ∧ regionOf 0 0x110000000040 s = .peer 1 0x40 ∧ 1 ≠ ownMember s ∧
      answerable 1 s ∧ rflag .BV_CTRL 0 0 8 s = false := by
  unfold answerable; decide +kernel

theorem witness_VectorLanes : VType.int8.isFloat = false ∧ VType.fp32.isFloat = true ∧ (getThread 0 0 (having ready)).wf = true ∧
    ∀ all dst src, issues 0 0 all dst src (having ready) := ⟨by decide, by decide, by decide, witness_issues⟩

theorem witness_VectorDotAndMultiplyAdd : (getThread 0 0 (having ready)).wf = true ∧ VType.bf16.isFloat = true ∧ (2 : Reg).val % 2 = 0 ∧
    ∀ all dst src, issues 0 0 all dst src (having ready) := ⟨by decide, by decide, by decide, witness_issues⟩

theorem witness_VectorMovesAndConversions : (∀ dst src, issues 0 0 false dst src (having ready)) ∧ (getThread 0 0 (having ready)).wf = true ∧
    cvtOk .bf16 .fp32 1 = true ∧ cvtOk .a4 .bf16 3 = true ∧ cvtOk .int32 .int8 3 = true ∧ sclOk .a8 1 = true ∧ sclOk .a4 3 = true ∧
    posFin32 (BitVec.ofNat 32 ((getThread 0 0 (having ready)).f32 1)) = false ∧
    (getThread 0 0 (having ready)).active 0 false 0 = true ∧
    posFin32 (BitVec.ofNat 32 ((getThread 0 0 (having { ready with s := [(1, 0x3F800000)] })).f32 1)) = true :=
  ⟨witness_issues false, by decide⟩

theorem witness_PredicatesAndReductions : (∀ dst src, issues 0 0 false dst src (having ready)) ∧ (getThread 0 0 (having ready)).wf = true ∧
    VType.int16.isFloat = false ∧ VType.bf16.isFloat = true ∧ (1 : Fin 8).val ≠ 0 ∧
    ((List.range VType.int16.lanes).filter fun j => (getThread 0 0 (having ready)).active 0 false j) ≠ [] :=
  ⟨witness_issues false, by decide⟩

/-! ### Witnesses: engine instructions -/

/-- The device with thread 0 and rack 0. -/
def rackWith (k : Thread) (r : RackSt) : State := { up with threads := [(0, k)], racks := [(0, r)] }

/-- Slot n of a rack in a state. -/
def slotOf (st : Nat) : Slot := { Slot.init with st := st }

theorem witness_OpenTakesTheLowestFreeSlot : issues 0 0 true [.sreg 4] [] (rackWith ready { RackSt.init with slots := [(0, slotOf 1)] }) ∧
    (let s := rackWith ready { RackSt.init with slots := [(0, slotOf 1)] }
     (getSlot 0 1 s).st = 0 ∧ ∀ m, m < 1 → (getSlot 0 m s).st ≠ 0) ∧
    let s := rackWith ready { RackSt.init with slots := (List.range 16).map fun n => (n, slotOf 1) }
    issues 0 0 true [.sreg 4] [] s ∧ ∀ n, n < 16 → (getSlot 0 n s).st ≠ 0 :=
  ⟨issues_of ready (all := _) (dst := _) (src := _), by decide, issues_of ready (all := _) (dst := _) (src := _), by decide⟩

/-- A packet of ring 0 with 64 bytes, started. -/
def packet (bytes : List Byte) : Pkt := ⟨0, bytes, .none, false, 0, 0, 0, 0, 0, 0, none, 0, 0, false, none⟩

/-- An ACTIVE ring with 16 entries at DRAM address 0x2000, its status sector at 0x1000. -/
def ring : Ring := { Ring.init with st := .active, ctx := { Ring.init.ctx with base := 0x2000, wb := 0x1000, inflight := 1 } }

/-- Ring 0 with a started packet. -/
def ringWith (x : Pkt) : Ring := { ring with pkts := [x], start := 1, tail := 1 }

theorem witness_TileFieldsAndEngineReads : (62 : Fin 64).val % 2 ^ (1 : Fin 4).val = 0 ∧ (56 : Fin 64).val % 2 ^ (3 : Fin 4).val = 0 ∧
    (getThread 0 0 (having ready)).wf = true ∧ (∀ all dst src, issues 0 0 all dst src (having ready)) ∧
    sreg (getThread 0 0 (having { ready with s := [(2, 15)] })) 2 = BitVec.ofNat 64 15 ∧
    (sreg (getThread 0 0 (having ready)) 2).toNat < 2 ^ 20 ∧
    (let s := { up with threads := [(0, { ready with pkt := some ⟨0, 0⟩ })], rings := [(0, ringWith (packet []))] }
     (getThread 0 0 s).pkt = some ⟨0, 0⟩ ∧ findPkt ⟨0, 0⟩ s = some (packet []) ∧ issues 0 0 true [.sreg 1] [] s) := by
  refine ⟨by decide, by decide, by decide, witness_issues, by decide, by decide, by decide, by decide, ?_⟩
  unfold issues; decide

/-- Quantise requests that wait. -/
def requests (n : Nat) : RackSt := { RackSt.init with qt := List.replicate n ⟨0, [], none, 0, 0⟩ }

theorem witness_QuantiseRequestsAndAccWait : (∀ n all dst src, issues 0 0 all dst src (rackWith (atPad 0x7FFC0) (requests n))) ∧
    (sreg (getThread 0 0 (rackWith (atPad 0x7FFC0) (requests 15))) 1).toNat = 0x2000000000 + 0x7FFC0 ∧ 0x7FFC0 % 32 = 0 ∧
    0x7FFC0 + 64 ≤ 0x80000 ∧ (getRack 0 (rackWith (atPad 0x7FFC0) (requests 15))).qt.length < 16 ∧
    (getRack 0 (rackWith (atPad 0x7FFC0) (requests 16))).qt.length = 16 ∧
    (let s := rackWith { ready with s := [(1, 15)] } RackSt.init
     sreg (getThread 0 0 s) 1 = BitVec.ofNat 64 15 ∧ (getSlot 0 15 s).pend = 0) ∧
    (getSlot 0 15 (rackWith ready { RackSt.init with slots := [(15, { slotOf 1 with pend := 1 })] })).pend ≠ 0 ∧
    let s := rackWith { ready with st := .waitCask, wait := some (.acc 15) } RackSt.init
    (getThread 0 0 s).st = .waitCask ∧ (getThread 0 0 s).wait = some (.acc 15) ∧ rackStops 0 s = false ∧ (getSlot 0 15 s).pend = 0 :=
  ⟨fun n a d x => issues_of (atPad 0x7FFC0) (all := a) (dst := d) (src := x), by decide⟩

/-! ### Witnesses: slots, casks, signals -/

/-- Scratchpad memory that holds bytes from an address on. -/
def padOf (at' : Nat) (bytes : List Byte) : Mem := { Mem.init with sp := Store.setN 0 at' bytes [] }

/-- A rack whose slot 0 is OPEN, with waiting partial loads and drains. -/
def openRack (ldp drains : Nat) : RackSt := { RackSt.init with
  slots := [(0, slotOf 1)]
  ldp := List.replicate ldp ⟨0, 0, none⟩
  drains := List.replicate drains ⟨0, true, 1, [], none, 0, none⟩ }

/-- A drain descriptor of slot 0: one token of 8 channels, FP32, stride 32 (Table 7.7). -/
def drainDesc : List Byte := record 128 [(0, 8, 0x2000000400), (24, 4, 32), (48, 2, 8), (50, 1, 1)]

theorem witness_PartialLoadsDrainsAndDrops :
    (∀ n m all dst src, issues 0 0 all dst src (rackWith ready (openRack n m))) ∧
    (let s := rackWith ready (openRack 3 0)
     (getSlot 0 0 s).st = 1 ∧ sreg (getThread 0 0 s) 1 = BitVec.ofNat 64 0 ∧ (sreg (getThread 0 0 s) 2).toNat % 32 = 0 ∧
       (getRack 0 s).ldp.length < 4 ∧ (getRack 0 s).drains.length < 8) ∧
    (let s := rackWith ready (openRack 4 8)
     4 ≤ (getRack 0 s).ldp.length ∧ 8 ≤ (getRack 0 s).drains.length) ∧
    (∀ m ∈ [7, 8], let s := { rackWith (atPad 0x400) (openRack 0 m) with mem := padOf 0x400 drainDesc }
      (sreg (getThread 0 0 s) 1).toNat = 0x2000000000 + 0x400 ∧ 0x400 % 32 = 0 ∧ 0x400 + 128 ≤ 0x80000 ∧
        byteAt 51 (spRead 0 0x400 128 s) % 16 = 0 ∧ badSector 0 0x400 128 s = none ∧ drainRefused 0 0 (spRead 0 0x400 128 s) s = false) ∧
    (∀ w ∈ [Wait.drop 0, .drain 0 drainDesc 0x2000000400], let s := rackWith { ready with st := .waitDrain, wait := some w } (openRack 0 7)
      (getSlot 0 0 s).st = 1 ∧ (getThread 0 0 s).st = .waitDrain ∧ (getThread 0 0 s).wait = some w ∧ rackStops 0 s = false ∧
        (getRack 0 s).drains.length < 8 ∧ drainRefused 0 0 drainDesc s = false) :=
  ⟨fun n m a d x => issues_of ready (all := a) (dst := d) (src := x), by decide, by decide, by decide +kernel, by decide +kernel⟩

theorem witness_PartialLoadsDrainsAndDrops_issue (m : Nat) (all : Bool) (dst src : List LoadDest) :
    issues 0 0 all dst src { rackWith (atPad 0x400) (openRack 0 m) with mem := padOf 0x400 drainDesc } :=
  issues_of (atPad 0x400) (all := all) (dst := dst) (src := src)

/-- A tile descriptor: cask 0, one token, slot 0, block 0 at the rack's own scratchpad (Table 7.5). -/
def tileBytes : List Byte := record 64 [(0, 8, 0x1000000000), (8, 8, 0x1000001000), (16, 2, 1), (19, 1, 1)]
/-- The same as a tile register. -/
def tileWord : BitVec 512 := BitVec.ofNat 512 (leNat tileBytes)
/-- An operation that waits in a cask. -/
def waitingOp : CaskOp := ⟨7, 0x1000000000, 0x1000001000, 0, 1, 0, 0, 0, 0, false, none, none, []⟩
/-- A cask with operations queued. -/
def queued (n : Nat) : Store Cask := [(0, { Cask.init with queue := List.replicate n waitingOp })]

/-- A tile of casks 0 and 3 in W5, both on slots 0 and 1 (Table 7.5). -/
def wideTile : List Byte := record 64 [(0, 8, 0x1000000000), (8, 8, 0x1000001000), (16, 2, 9), (19, 1, 1), (23, 1, 4), (25, 1, 8)]

theorem witness_CaskOperationsEnterTheirQueue :
    (∀ q ∈ [7, 8], let s := { rackWith { ready with t := [(0, tileWord)] } (openRack 0 0) with casks := queued q }
      let d := leBytes 64 tileWord.toNat
      (getThread 0 0 s).getT 0 = tileWord ∧ tileCasks d = [(0, 0)] ∧ tileW5 d = false ∧ tileRefused 0 d s = false ∧
        mayAccept 0 0 s.now d (getThread 0 0 s).pkt s = decide (q = 7) ∧
        (mvmWaiters 0 s).any (fun u => mayAccept 0 u.1 u.2.1 u.2.2.1 u.2.2.2 s) = false) ∧
    (let s := rackWith ready { RackSt.init with slots := [(0, slotOf 1), (1, slotOf 1)] }
     tileCasks wideTile = [(0, 0), (3, 1)] ∧ tileRefused 0 wideTile s = false ∧ mayAccept 0 0 s.now wideTile none s = true) ∧
    let s := rackWith { ready with st := .waitCask, wait := some (.mvm tileWord) } (openRack 0 0)
    let d := leBytes 64 tileWord.toNat
    (getThread 0 0 s).st = .waitCask ∧ (getThread 0 0 s).wait = some (.mvm tileWord) ∧ rackStops 0 s = false ∧
      tileRefused 0 d s = false ∧ mayAccept 0 0 (getThread 0 0 s).since d (getThread 0 0 s).pkt s = true ∧
      ∀ u ∈ mvmWaiters 0 s, (getThread 0 0 s).since ≤ u.2.1 := by decide +kernel

theorem witness_CaskOperationsEnterTheirQueue_issue (q : Nat) (all : Bool) (dst src : List LoadDest) :
    issues 0 0 all dst src { rackWith { ready with t := [(0, tileWord)] } (openRack 0 0) with casks := queued q } :=
  issues_of { ready with t := [(0, tileWord)] } (all := all) (dst := dst) (src := src)

/-- A device-fed ring with 16 entries at 0x2000 and n packets in it. -/
def fedRing (st : RingSt) (n : Nat) : Ring :=
  { ring with st := st, ctx := { ring.ctx with mode := 1 }, tail := BitVec.ofNat 32 n }

/-- The device with a READY thread and ring 0. -/
def pushing (r : Ring) (k : Thread) : State := { up with threads := [(0, k)], rings := [(0, r)] }

theorem witness_SignalsWaitsAndRingPushes :
    (∀ r all dst src, issues 0 0 all dst src (pushing r ready)) ∧
    (let s := pushing (fedRing .active 0) { ready with s := [(1, 65535), (2, 1)] }
     issues 0 0 true [] [] s ∧ (sreg (getThread 0 0 s) 1).toNat < 2 ^ 20 ∧ Store.wf 0 s.sync = true ∧ (getThread 0 0 s).wait = none ∧
       (sreg (getThread 0 0 s) 3).setWidth 32 ≤ syncGet 65535 s ∧ syncGet 65535 s < (sreg (getThread 0 0 s) 2).setWidth 32) ∧
    (let s := pushing (fedRing .active 15) ready
     let g := getRing 0 s
     sreg (getThread 0 0 s) 1 = BitVec.ofNat 64 (0 : RingId).val ∧ g.takes = true ∧ g.deviceFed = true ∧
       (g.tail - g.head).toNat ≠ 2 ^ g.ctx.log2 ∧ s.mem.cline.length < 12 ∧
       (g.ctx.base + 64 * (g.tail.toNat % 2 ^ g.ctx.log2)) % 64 = 0 ∧
       sliceOn ((g.ctx.base + 64 * (g.tail.toNat % 2 ^ g.ctx.log2)) / 128) s = true ∧ Mem.wf s.mem = true) ∧
    (let g := getRing 0 (pushing (fedRing .active 16) ready)
     g.takes = true ∧ g.deviceFed = true ∧ (g.tail - g.head).toNat = 2 ^ g.ctx.log2) ∧
    (getRing 0 (pushing (fedRing .error 0) ready)).takes = false ∧ (getRing 0 (pushing ring ready)).deviceFed = false ∧
    (let s := pushing (ringWith (packet [])) { ready with pkt := some ⟨0, 0⟩ }
     issues 0 0 true [.sreg 1] [] s ∧ (getThread 0 0 s).pkt = some ⟨0, 0⟩ ∧ findPkt ⟨0, 0⟩ s = some (packet [])) :=
  ⟨fun r a d x => issues_of ready (all := a) (dst := d) (src := x), ⟨issues_of { ready with s := [(1, 65535), (2, 1)] } (all := _) (dst := _) (src := _), by decide⟩, by decide,
    by decide, by decide, by decide, issues_of { ready with pkt := some ⟨0, 0⟩ } (all := _) (dst := _) (src := _), by decide⟩

/-! ### Witnesses: registers, casks, the Crop Ledger -/

/-- The device with a trained link and no firmware. -/
def booted : State := { up with pm := Pm.init }

theorem witness_RegisterAccesses :
    (∀ n ∈ plainRegs, 0 < n.desc.count ∧ hostReaches (regOff n 0 0) up ∧ n.desc.allows (resetWord n) = true ∧
      busyWrite n 0 0 (resetWord n) up = false) ∧
    (2 < 0x4000000 ∧ inMsix 2 = false ∧ 2 % 4 ≠ 0) ∧ inMsix 0x8000 = true ∧ inMsix 0x100FF = true ∧
    RegName.LG_POOL_LIMIT.desc.allows 0xFFFFFFFF = false ∧ up.px.cfgReady = true ∧ up.px.d3 = false ∧
    hostReaches (regOff .CK_SAT_COUNT 0 0) up ∧ hostReaches (regOff .CK_SAT_COUNT 4095 0) up ∧
    0x100000 ≤ 0x3FFFFFC ∧ booted.px.cfgReady = true ∧ booted.px.d3 = false ∧ booted.pm.fwReady = false := by
  unfold hostReaches; decide +kernel

theorem witness_CommitGroupsAndQuiesce :
    (∀ c ∈ plainCommits, hostReaches c.off up ∧ Store.risesFrom 0 up.applies = true ∧ Store.risesFrom 0 up.staged = true ∧
      (∀ r ∈ groupRegs c, r.name.desc.allows (resetWord r.name) = true) ∧ applyPending c up = false ∧
      let s := { up with applies := [(c.off, ⟨false, true⟩)] }
      hostReaches c.off s ∧ Store.risesFrom 0 s.applies = true ∧ applyPending c s = true ∧
        s.applies.find c.off = some ⟨false, true⟩) ∧
    hostReaches (regOff .CK_CTRL 4095 0) up ∧ goingOff (68 + 4095 / 1024) up = false ∧
    hostReaches (regOff .RP_CTRL 255 0) up ∧ goingOff (rackDomain 255) up = false ∧ up.hang.incident = none := by
  unfold hostReaches; decide +kernel

/-- A data block of A8 codes with one block of 512 and a stride of 512 (Table 6.4). -/
def blockHeader : List Byte := record 32 [(8, 4, 512), (12, 4, 512)]

theorem witness_CaskOperationsAdmitAndConvert_start :
    let s := { up with casks := queued 1, mem := padOf 0 blockHeader }
    let k := getCask 0 s
    let h := spRead 0 0 32 s
    k.queue = waitingOp :: [] ∧ mayStart 0 s = true ∧ rflag .CK_CONFIG 0 0 0 s = waitingOp.w5 ∧ waitingOp.infmt < 2 ∧
      (k.racked = true → k.shadowOk = true) ∧ (∀ x ∈ k.running, x.op.op ≠ waitingOp.op) ∧
      waitingOp.data = 0x1000000000 + 0x80000 * (0 / 16) + 0 ∧ byteAt 2 h = waitingOp.infmt ∧
      waitingOp.block < ceilDiv (leAt 8 4 h) 512 ∧
      (∀ t, t < waitingOp.ntok → 0 + 32 + (waitingOp.token0 + t) * leAt 12 4 h + waitingOp.block * 512 + 512 ≤ 0x80000) ∧
      0 + 32 ≤ 0x80000 ∧ s.mem.spBad = [] := by decide +kernel

/-- An operation in execution on one A8 token whose first code is 1. -/
def running : RunOp := ⟨.mvm, waitingOp, [[0x11]], none, none, none, 0, 0, [], false, 0⟩
/-- A slice request of that operation with no part. -/
def sliceReq : SliceReq := ⟨7, 0, 1, 0, false, [], [], 1, none⟩

theorem witness_CaskOperationsAdmitAndConvert_token :
    (let k : Cask := { Cask.init with running := [running], rows := [(0, ⟨5, 100⟩)] }
     let s := { up with casks := [(0, k)] }
     let g := running.used.getD (running.op.govr.getD (gainGroup 0 s))
     s.hang.incident = none ∧ ((getCask 0 s).running.find? fun x => !x.past && decide (x.admitted < x.op.ntok)) = some running ∧
       (getCask 0 s).waiting = [] ∧ (getCask 0 s).posted = none ∧ (getCask 0 s).replays = [] ∧
       ((slicesOf false).flatMap (fun x => sliceReqs k k.ceil g running.op.op running.admitted x
         (sliceLevels false x (nthD [] running.admitted running.codes)))) ≠ []) ∧
    (let s := { up with casks := [(0, { Cask.init with replays := [sliceReq] })] }
     (getCask 0 s).posted = none ∧ (getCask 0 s).replays = sliceReq :: []) ∧
    let b : ChargeBuf := ⟨{ sliceReq with parts := [⟨0, [0], 0⟩] }, [(0, 510)], [], []⟩
    let s := { up with casks := [(0, { Cask.init with running := [running], bufB := some b })] }
    (getCask 0 s).buf = some b ∧ (getCask 0 s).posted = none ∧ (getCask 0 s).replays = [] ∧ (getCask 0 s).waiting = [] ∧
      ((getCask 0 s).running.find? fun x => decide (x.op.op = b.req.op)) = some running ∧ 
      ∀ q ∈ b.req.parts, b.saturated (decide (running.kind = .refRead)) q = [] := by
  decide +kernel

theorem witness_SlicesIntegrateAndTokensAdd :
    (∀ now ∈ [62, 1000], let g : Grant := ⟨62, 30⟩
     let s := { up with casks := [(0, { Cask.init with posted := some ⟨sliceReq, 0, 0, 0, some g⟩ })], now := now }
     s.hang.incident = none ∧ (getCask 0 s).buf = none ∧ (getCask 0 s).posted = some ⟨sliceReq, 0, 0, 0, some g⟩ ∧
       (getCask 0 s).waiting = [] ∧ g.at' ≤ s.now ∧ (getBook 0 (windowAt g.at') s).late s.now = false) ∧
    (let s := { up with ledger := { up.ledger with books := [(31, ⟨9, 5, 0, 62, 30, 0⟩)] }, now := 70 }
     (getBook 0 (windowAt 62) s).late s.now = true ∧ (getBook 0 (windowAt 62) s).at' = 62) ∧
    ∀ sus ∈ [false, true], let o : RunOp := { running with admitted := 1 }
      let s := { up with
        casks := [(0, { Cask.init with running := [o], convs := [⟨7, 0, 1, 0, 0, 0, List.replicate 514 1⟩], suspect := sus })]
        regs := [(regOff .CT_CTRL 0 0, 4)] }
      s.hang.incident = none ∧ Store.wf 0 s.mem.acc = true ∧ (getCask 0 s).running = o :: [] ∧ o.kind = .mvm ∧ o.nextTok < o.op.ntok ∧
        o.nextTok < o.admitted ∧ (getCask 0 s).tokenBusy o.op.op o.nextTok = false ∧ o.nextTok < 16 ∧
        (getCask 0 s).suspect = sus ∧ rflag .CT_CTRL 0 0 2 s = true := by decide +kernel

theorem witness_ArbitrationKeepsTheLimit :
    (∀ limit ∈ [0, 30], let s := { up with
        casks := [(3072, { Cask.init with posted := some ⟨sliceReq, 31, 0, 47, none⟩ })]
        regs := [(regOff .LG_POOL_LIMIT 0 3, BitVec.ofNat 32 limit)]
        now := 48 }
      Store.risesFrom 0 s.casks = true ∧ mayArbitrate 3 s = true ∧ mayArbitrate 3 { s with now := 63 } = true ∧
        (arbitrate 3 s).1.length = min limit 1 ∧ (arbitrate 3 s).2.length = 1 - min limit 1) ∧
    biasOn 3 up = true ∧
    (let b : Book := ⟨9, 9, 0, 0, 30, 0⟩
     b.inflight 2 ≠ 0 ∧ b.late 2 = false ∧ b.late 6 = false ∧ b.late 7 = true ∧ ({ b with granted := 8 } : Book).balanced 2 = false ∧
       ∀ now ∈ [2, 6, 7], let s := { up with ledger := { up.ledger with books := [(127, b)] }, now := now }
         getBook 3 31 s = b ∧ s.now = now) ∧
    (let s := { up with ledger := { up.ledger with vppQueue := [4095], vppHeld := List.range 31 } }
     s.ledger.vppQueue = 4095 :: [] ∧ s.ledger.vppHeld.length < rfield .LG_VPP_LIMIT 0 0 6 0 s ∧ s.ledger.vppHeld.contains 4095 = false ∧
       let s := { s with cellar := { s.cellar with active := [(4095, ⟨0, 0⟩, 0, [])] } }
       (activeEntry 4095 s).isSome = true ∧ (getCask 4095 s).hold = none) ∧
    (let s := { up with ledger := { up.ledger with vppHeld := [4095], vppSent := [(4095, 0)] }, now := 8 }
     vppSentAt 4095 s = some 0 ∧ s.now ≤ 0 + 8 ∧ 0 + 8 < { s with now := 9 }.now) ∧
    vppSentAt 4095 up = none ∧ up.ledger.vppHeld.contains 4095 = false := by decide +kernel

theorem witness_RowTableAndConfigurationCells :
    hostReaches (regOff .LG_ROW_DATA 0 0) up ∧ fieldOf 20 16 (0x101F2C : Word) ≤ 16 ∧ fieldOf 12 0 (0x101F2C : Word) ≤ 7980 ∧
    caskQuiesced (selectedCask up) up = true ∧ Store.wf ⟨0, 0⟩ (getCask (selectedCask up) up).rows = true ∧
    (getCask 4095 { up with casks := [(4095, { Cask.init with saving := true })] }).saving = true := by
  unfold hostReaches; decide +kernel

/-! ### Reads of a DRAM that holds zeros -/

/-- A device that is up with its shared-cache slices off. -/
def dark : State := { up with pm := { up.pm with domainOff := [(64, ()), (65, ()), (66, ()), (67, ()), (74, ())] } }

/-- A state as `dark` for reads: nothing written to DRAM, nothing cached or sealed, the slices off. -/
structure isDark (s : State) : Prop where
  mem : s.mem.csec = [] ∧ s.mem.seals = [] ∧ s.mem.dram = [] ∧ s.mem.parity = [] ∧ s.mem.failed = []
  off : s.pm.domainOff = dark.pm.domainOff

theorem homeSlice_lt (line : Nat) : homeSlice line < 4 := by
  unfold homeSlice bits
  exact Nat.xor_lt_two_pow (n := 2) (Nat.xor_lt_two_pow (n := 2) (Nat.mod_lt _ (by decide)) (Nat.mod_lt _ (by decide)))
    (Nat.mod_lt _ (by decide))

theorem sliceOn_dark {s : State} (h : isDark s) (line : Nat) : sliceOn line s = false := by
  have : ∀ k, k < 4 → KeySet.has (64 + k) dark.pm.domainOff = true := by decide
  simp [sliceOn, domainIsOff, h.off, this _ (homeSlice_lt line)]

theorem readSector_dark {s : State} (h : isDark s) (sec : Nat) (p : Option PktId) :
    readSector sec p s = (.ok (List.replicate 32 0), s) := by
  obtain ⟨h1, h2, h3, h4, h5⟩ := h.mem
  have d : dramData sec s.mem = List.replicate 32 0 := by unfold dramData; rw [h3]; rfl
  have q : dramPar sec s.mem = parityOf (List.replicate 32 0) := by
    unfold dramPar; rw [h4]
    show 0xFFFFFFFF#32 = _
    decide +kernel
  simp [readSector, h1, h5, KeySet.has, Store.find, missSector, sealCheck, h2, d, q, fillLine, sliceOn_dark h, poisonEvents, poisonAll]

theorem readSectors_dark {s : State} (h : isDark s) (p : Option PktId) (n sec : Nat) :
    readSectors p sec n s = (.ok (List.replicate (32 * n) 0), s) := by
  induction n generalizing sec with
  | zero => rfl
  | succ n ih => simp [readSectors, readSector_dark h, ih, Nat.mul_succ, Nat.add_comm, List.replicate_add]

theorem readDram_dark {s : State} (h : isDark s) (a n : Nat) (p : Option PktId) (ha : a % 32 = 0) (hn : n % 32 = 0) :
    readDram a n p s = (.ok (List.replicate n 0), s) := by
  unfold readDram
  by_cases z : n = 0
  · simp [z]
  · have : n ≤ 32 * ((a + n - 1) / 32 + 1 - a / 32) := by omega
    simp [z, readSectors_dark h, ha, Nat.min_eq_left this]

theorem halfWords_zero (bs : List Byte) (h : ∀ b ∈ bs, b = 0) : ∀ w ∈ halfWords bs, w = 0 := by
  fun_induction halfWords bs with
  | case1 a b r ih =>
    intro w hw
    have ha := h a (by simp)
    have hb := h b (by simp)
    subst ha; subst hb
    rcases List.mem_cons.mp hw with e | e
    · subst e; decide
    · exact ih (fun x hx => h x (by simp [hx])) w e
  | case2 => simp

/-! ### Witnesses: the cellarer -/

/-- A racked cask, at rest, with a shadow. -/
def racked : Cask := { Cask.init with racked := true, shadowOk := true, fitted := true }

/-- A device of cask 0 alone. -/
def caskOf (k : Cask) : State := { up with casks := [(0, k)] }

/-- The reference read of a cask, every slice of it converted. -/
def probeRun (kind : OpKind) (n : Nat) : RunOp := ⟨kind, probeOp 9 n false, [], some ⟨false, false, 5⟩, none, none, n, 0, [], false, 0⟩

theorem witness_ReferenceAndDiagnosisReads :
    ((∀ i, (getCask 0 (caskOf racked)).ceil i ≤ 16) ∧ ∀ i, ({ racked with rows := [(511, ⟨16, 7980⟩)] } : Cask).ceil i ≤ 16) ∧
    mayRefRead 0 (caskOf racked) = true ∧ refReqs racked (caskOf racked).nextOp ≠ [] ∧
    (let s := caskOf { racked with running := [probeRun .refRead 1] }
     (refResult (getCask 0 s)).isSome = true ∧ progFits 0 s = false ∧ s.hang.incident = none) ∧
    ((getCask 0 (caskOf racked)).racked = true ∧
      rfield .RK_REF_PERIOD 0 0 19 0 { caskOf racked with now := 2000000000 } * 200000 ≤ 2000000000 - (getCask 0 (caskOf racked)).lastRef) ∧
    ∀ then' ∈ [false, true],
      let s := caskOf { racked with hold := some .diagnosis, levels := [(0, 15)], refA := 49152, refB := -16384, thenTop := then', topDue := true }
      (getCask 0 s).hold = some .diagnosis ∧ (getCask 0 s).quiet = true ∧ diagnosed 0 [] s = [] ∧ diagnosed 0 [(0, 0)] s ≠ [] ∧
        (getCask 0 s).thenTop = then' ∧ (getCask 0 s).topDue = true ∧ (getCask 0 s).shadowOk = true ∧
        rflag .RK_CTRL 0 0 8 s = false ∧ activeEntry 0 s = none := by
  refine ⟨⟨fun i => Nat.zero_le _, fun i => ?_⟩, by decide +kernel, by decide +kernel, by decide +kernel, by decide +kernel, by decide +kernel⟩
  by_cases h : i = 511
  · subst h; decide
  · simp [Cask.ceil, Store.getD, Store.find, h]

/-- Ring 0 with a plan of n entries at 0x8000, none looked at. -/
def planning (n : Nat) : State :=
  { dark with rings := [(0, ringWith { packet [] with work := .plan 0x8000 n 0 })] }

theorem witness_RackingPlans_first :
    let p : PktId := ⟨0, 0⟩
    let x : Pkt := { packet [] with work := .plan 0x8000 1 0 }
    let s := planning 1
    let s1 := modPkt p (fun y => { y with work := .plan 0x8000 1 (0 + 1) }) s
    let e : List Byte := List.replicate 32 0
    let src : List Byte := List.replicate 0x40000 0
    findPkt p s = some x ∧ x.work = .plan 0x8000 1 0 ∧ 0 < 1 ∧ rflag .RK_CTRL 0 0 8 s = false ∧
      entryWaits (leAt 8 2 (peek (0x8000 + 32 * 0) 32 s)) p s = false ∧ readDram (0x8000 + 32 * 0) 32 (some p) s1 = (.ok e, s1) ∧
      entryFormed e s1 = true ∧ shadowFits 0 s1 = true ∧ readDram (leAt 0 8 e) 0x40000 (some p) s1 = (.ok src, s1) ∧
      (∀ w ∈ sourceWeights (decide (byteAt 10 e = 1)) src, w.natAbs ≤ if byteAt 10 e = 1 then 15 else 255) ∧
      (getCask 0 s1).cycles8 < 80000 ∧ activeEntry 0 s = none ∧ domainIsOff (rackDomain (0 / 16)) s = false ∧
      byteAt 11 e % 2 = 0 := by
  have d : isDark (modPkt ⟨0, 0⟩ (fun y => { y with work := .plan 0x8000 1 (0 + 1) }) (planning 1)) := ⟨⟨rfl, rfl, rfl, rfl, rfl⟩, rfl⟩
  refine ⟨by decide +kernel, rfl, by decide, by decide +kernel, by decide +kernel, readDram_dark d _ _ _ rfl rfl, by decide +kernel,
    by decide +kernel, readDram_dark d _ _ _ rfl rfl, ?_, by decide +kernel, rfl, by decide +kernel, rfl⟩
  intro w hw
  have : w = 0 := halfWords_zero _ (fun b hb => (List.mem_replicate.mp hb).2) w hw
  subst this; decide

/-- The plan's first entry with reserved bytes that are not 0. -/
def badPlan : State := { planning 1 with mem := dramPut 0x400 (List.replicate 32 1) (parityOf (List.replicate 32 1)) Mem.init }

theorem witness_RackingPlans_ill_formed :
    let p : PktId := ⟨0, 0⟩
    let s1 := modPkt p (fun y => { y with work := .plan 0x8000 1 (0 + 1) }) badPlan
    entryWaits (leAt 8 2 (peek 0x8000 32 badPlan)) p badPlan = false ∧
    (∃ e s2, readDram 0x8000 32 (some p) s1 = (Rd.ok e, s2) ∧ entryFormed e s2 = false) ∧
    activeEntry (leAt 8 2 (List.replicate 32 1)) badPlan = none := by
  refine ⟨by decide +kernel, ⟨_, _, rfl, ?_⟩, by decide +kernel⟩
  decide +kernel

/-- Cask 0 held for its racking from an entry whose pattern is zeros, with a credit, at a point of its programming. -/
def programming (p : Option Prog) : State :=
  { dark with
    casks := [(0, { Cask.init with hold := some .racking, prog := p })]
    ledger := { dark.ledger with vppHeld := [0] }
    cellar := { dark.cellar with active := [(0, ⟨0, 0⟩, 0x8000, List.replicate 32 0)] } }

/-- Programming whose verify read of a row is out, cell 1,028 (of reference pair 514) below its window. -/
def verifying (kind : ProgKind) (row : Nat) (second : Bool) : Prog :=
  { Prog.start kind with row := row, second := second, cycles := 1, below := [(1028, 0)], reading := true }

theorem witness_RackingPlans_program :
    (∀ p ∈ none :: (([(0, false), (510, true), (511, true)] : List (Nat × Bool)).map fun e => some (verifying .rack e.1 e.2)),
      let s := programming p
      activeEntry 0 s = some (0, ⟨0, 0⟩, 0x8000, List.replicate 32 0) ∧ (getCask 0 s).hold = some .racking ∧ mayProgram 0 s = true ∧
        (getCask 0 s).prog = p) ∧
    (∀ second ∈ [false, true], let p := verifying .rack 0 second
      p.kind = .rack ∧ p.fit = false ∧ p.reading = true ∧ p.above = [] ∧ p.fails = [] ∧ p.second = second ∧
        (p.below.filter fun e => decide (e.1 = 1028)).length = 1 ∧ p.cycles < rfield .RK_LIMITS 0 0 5 0 (programming none)) ∧
    (let level := cellTarget [] (nthD [] 0 (levelRows false (sourceWeights false [])))
     0 < level 1028 ∧ (11849 : Int) < 1000 * level 1028 - 150 ∧ 11849 ≤ 15500 ∧ (1000 * level 1028 - 50 : Int) < 11951 ∧
       level 1029 = 0 ∧ level 1031 ≠ 0) ∧
    let s := { programming (some { Prog.start .rack with fit := true }) with casks :=
      [(0, { Cask.init with hold := some .racking, prog := some { Prog.start .rack with fit := true }, running := [probeRun .refRead 1] })] }
    (activeEntry 0 s).isSome = true ∧ (getCask 0 s).hold = some .racking ∧ progFits 0 s = true ∧
      (refResult (getCask 0 s)).isSome = true ∧ s.hang.incident = none := by
  refine ⟨by decide +kernel, by decide +kernel, by decide +kernel, by decide +kernel⟩

/-- A cask that is held and has a programming credit. -/
def held (h : Hold) : State :=
  { dark with casks := [(0, { racked with hold := some h, failed := [3] })], ledger := { dark.ledger with vppHeld := [0] } }

theorem witness_RemapsAndToppings (h : Hold) : ∃ rows s1 recs s2,
    readShadow (cellarPkt 0 (held h)) 0 (held h) = (some rows, s1) ∧
    readDram (shadowAt 0 s1 + 0x40000) 4096 (cellarPkt 0 s1) s1 = (.ok recs, s2) := by
  have d : isDark (held h) := ⟨⟨rfl, rfl, rfl, rfl, rfl⟩, rfl⟩
  have m : (shadowAt 0 (held h) + 0x40000) % 32 = 0 := by
    show (shadowAt 0 dark + 0x40000) % 32 = 0
    decide +kernel
  refine ⟨shadowLevels (List.replicate 0x40000 0), held h, _, held h, ?_, readDram_dark d _ _ _ m rfl⟩
  unfold readShadow
  rw [readDram_dark d _ _ _ rfl rfl]
  rfl

/-- A held cask at a point of its programming. -/
def heldAt (h : Hold) (p : Option Prog) : State :=
  { held h with casks := [(0, { racked with hold := some h, failed := [3], prog := p })] }

theorem witness_RemapsAndToppings_remap : ∀ h ∈ [Hold.remap, .topRemap],
    let s := heldAt h none
    let k := getCask 0 s
    let base : Plan := ⟨remapWords 0 s, pinWords 0 s, k.retired, k.chkLost⟩
    mayProgram 0 s = true ∧ k.hold = some h ∧ k.prog = none ∧ k.thenTop = false ∧
      ((Prog.start .spare).nextSpare base (Plan.repairAll [] k.failed base)).isSome = true ∧
      let p : Prog := { Prog.start .spare with row := 512, ready := [(0, 3)] }
      p.judge 0 base.remap [] [] = p ∧ 512 ≤ p.row ∧ 512 ≤ (p.prepare base k.failed).row ∧ mayProgram 0 (heldAt h (some p)) = true := by
  decide +kernel

theorem witness_RemapsAndToppings_top :
    (∀ p ∈ none :: [0, 510, 511].map fun row => some (verifying .top row false),
      let s := heldAt .topping p
      mayProgram 0 s = true ∧ (getCask 0 s).hold = some .topping ∧ (getCask 0 s).prog = p) ∧
    (let p := verifying .top 0 false
     p.kind = .top ∧ p.fit = false ∧ p.reading = true ∧ p.above = [] ∧
       (p.below.filter fun e => decide (e.1 = 1028)).length = 1 ∧ p.cycles < rfield .RK_LIMITS 0 0 5 0 (held .topping)) ∧
    (let level := cellTarget (remapWords 0 (held .topping)) (nthD [] 0 (shadowLevels []))
     0 < level 1028 ∧ (11849 : Int) < 1000 * level 1028 - 150) ∧
    ((List.range 532).filter fun p => pairUsed (remapWords 0 (held .topping)) (pinWords 0 (held .topping)) p &&
      ([⟨0, 3, false, 1, false⟩] : List CellFail).any fun f => decide (f.pair = p)) = [3] ∧
    let s := { held .topping with casks := [(0, { racked with
      hold := some .topping, prog := some { Prog.start .top with fit := true }, running := [probeRun .refRead 1] })] }
    (getCask 0 s).hold = some .topping ∧ progFits 0 s = true ∧ (refResult (getCask 0 s)).isSome = true ∧ s.hang.incident = none := by
  decide +kernel

/-! ### Witnesses: correction, tasting, decant, quantiser -/

theorem witness_ShadowBaseTemperatureAndRefold :
    (∀ n ∈ [RegName.RK_SHADOW_HI, .RK_SHADOW_LO, .CT_TASTE_BASE_HI, .CT_TASTE_BASE_LO],
      hostReaches (regOff n 0 0) up ∧ writeOk n 0 0 0 up = true) ∧ Store.risesFrom 0 up.casks = true ∧
    rflag .RK_CTRL 0 0 8 up = false ∧ rflag .RK_CTRL 0 0 8 { up with regs := [(regOff .RK_CTRL 0 0, 0x100)] } = true ∧
    (let s1 := { caskOf racked with cellar := { up.cellar with lastTemps := List.replicate 8 28 } }
     1024 < (quadTemp (0 / 1024) s1 - Store.getD 12800 (4 * 0 + 0 / 1024) up.cellar.foldTemps).natAbs ∧ 0 ∈ racksOf 0 s1 ∧ (getCask 0 s1).racked = true) ∧
    hostReaches (regOff .RS_REFOLD 0 0) up ∧ flagOf 31 (255 : Word) = false ∧
    (let s := { caskOf racked with quant := { Quant.init with refold := [0] } }
     s.quant.batch = [] ∧ rflag .QT_CTRL 0 0 8 s = false ∧ applyPending rsCommit s = false ∧ s.quant.copyDue = false ∧
       0 ∈ (openBatch s).quant.batch ∧ Store.wf one32 s.quant.gainStaged = true ∧ Store.wf 12800 s.cellar.foldTemps = true ∧
       (getCask (16 * 0 + 0) s).racked = true ∧ (getCask (16 * 0 + 0) s).fitted = true) ∧
    { Quant.init with copyDue := true }.copyDue = true := by unfold hostReaches; decide +kernel

/-- Correction work on token 0 of an operation of two tokens. -/
def work : CorrWork := ⟨0, { waitingOp with ntok := 2 }, 0, some [], none, []⟩
/-- A device with that work in rack 0. -/
def correcting : State := { dark with racks := [(0, { RackSt.init with corr := [work] })], casks := [(0, racked)] }

theorem getN_empty {α : Type} (d : α) (n k : Nat) : Store.getN d k n [] = List.replicate n d := by
  induction n generalizing k with
  | zero => rfl
  | succ n ih => rw [Store.getN, ih, List.replicate_succ]; rfl

theorem devRead_correcting (off n : Nat) (h : off + n ≤ 0x80000) (h0 : off < 0x80000) :
    devRead 0 (0x1000000000 + off) n none correcting = (.ok (List.replicate n 0), correcting) := by
  have r : regionOf 0 (0x1000000000 + off) correcting = .sp 0 off := by
    unfold regionOf
    rw [if_neg (by omega), if_pos (by omega)]
    have e1 : (0x1000000000 + off - 0x1000000000) / 0x80000 = 0 := by omega
    have e2 : (0x1000000000 + off - 0x1000000000) % 0x80000 = off := by omega
    rw [e1, e2]
  have t : trellisUp 0 0 correcting = true := by decide +kernel
  have p : spRead 0 off n correcting = List.replicate n 0 := getN_empty 0 n _
  have i : inReach 0 (0x1000000000 + off) n correcting = true := by simp [inReach, r, inWindows, h]
  have l : lastRack 0 off n = 0 := by unfold lastRack; omega
  have b : badSector 0 off n correcting = none := by
    unfold badSector
    exact List.find?_eq_none.mpr fun x _ => Bool.false_ne_true
  simp [devRead, i, r, l, t, spFetch, b, p]

theorem witness_CorrectionAndTasting_token : ∃ i : TokIn,
    (getRack 0 correcting).corr = work :: [] ∧ work.cask / 16 = 0 ∧ work.pins = some [] ∧
      frozenWhere (·.coversRack 0) correcting = false ∧ readTok work correcting = (.ok [], i, correcting) ∧
      useSide 0 work.op work.tok i.scale (fun k => decide (codeAt false i.codes k = escCode false)) i.side correcting =
        (correcting, []) ∧
      escapedRows 0 work.op.pkt [] correcting = (some [], correcting) ∧
      (∃ s4, pinnedCols work [] correcting = (some [], s4) ∧ (getCask 0 s4).suspect = false) ∧ work.dropped.contains work.tok = false ∧
      Store.wf 0 correcting.mem.acc = true ∧ work.tok + 1 < work.op.ntok := by
  have m : ((List.range 512).filter fun i => decide (codeAt false (List.replicate 512 0#8) i = escCode false)) = [] := by decide +kernel
  have g : pinnedGroups work.op.w5 [] = [] := by decide +kernel
  refine ⟨⟨List.replicate 512 0, 0, []⟩, rfl, rfl, rfl, rfl, ?_, ?_, rfl, ?_, rfl, rfl, by decide⟩
  · have a := devRead_correcting 0 32 (by decide) (by decide)
    have b := devRead_correcting 32 512 (by decide) (by decide)
    have c := devRead_correcting 0x1020 8 (by decide) (by decide)
    have e : byteAt 3 (List.replicate 32 0#8) = 0 ∧ leAt 12 4 (List.replicate 32 0#8) = 0 ∧
        leAt 0 4 (List.replicate 8 0#8) = 0 := by
      decide +kernel
    simp only [Nat.add_zero] at a
    simp [-List.reduceReplicate, readTok, work, waitingOp, a, b, c, e]
  · simp [-List.reduceReplicate, useSide, m]
  · have l : pinnedLevels work.cask work.op.pkt (pinnedGroups work.op.w5 []) correcting = (some [], correcting) := by rw [g]; rfl
    refine ⟨_, by simp only [pinnedCols, work] at l ⊢; rw [l], by decide +kernel⟩

theorem witness_CorrectionAndTasting_fill :
    (getCask 0 correcting).shadowOk = true ∧ (∀ b ∈ (getRack 0 correcting).rowBuf, ¬ (b.cask = 0 ∧ b.row = 511)) ∧
    ∃ d, readDram (shadowAt 0 correcting + 512 * 511) 512 work.op.pkt correcting = (.ok d, correcting) := by
  have d : isDark correcting := ⟨⟨rfl, rfl, rfl, rfl, rfl⟩, rfl⟩
  exact ⟨by decide +kernel, by decide +kernel, _, readDram_dark d _ _ _ (by decide +kernel) (by decide)⟩

theorem witness_CorrectionAndTasting_run :
    let s := { caskOf { racked with tasteDue := true } with
      regs := [(regOff .CT_CTRL 0 0, 8)]
      cellar := { Cellar.init with tasteLeft := some 1, owed := [0] } }
    rflag .CT_CTRL 0 0 3 s = true ∧ rflag .CT_CTRL 0 0 8 s = false ∧ s.cellar.tasteLeft ≠ some 0 ∧ tasteNext s = some 0 ∧
      (getCask 0 s).quiet = true ∧ caskStopped 0 s = false ∧ domainIsOff (68 + 0 / 1024) s = false ∧
      domainIsOff (rackDomain (0 / 16)) s = false := by decide +kernel

/-- Cask 0 at the end of a tasting run of n vectors, on a device whose DRAM holds zeros. -/
def tasted (n : Nat) (repeated : Bool) : State :=
  { dark with casks := [(0, { racked with hold := some .tasting, running := [probeRun .taste n], tasteRepeat := repeated })] }

theorem witness_CorrectionAndTasting_over : ∀ n ∈ [1, 4], ∀ again ∈ [false, true],
    tasteOver (getCask 0 (tasted n again)) = some (probeRun .taste n) ∧ (tasted n again).hang.incident = none := by decide +kernel

theorem witness_CorrectionAndTasting_record (n : Nat) (again : Bool) (_ : n ∈ [1, 4]) :
    let s0 := modCask 0 (fun x => { x.endProbe 9 with hold := none }) (tasted n again)
    readDram (tasteAt 0 s0) (4096 * n) none s0 = (.ok (List.replicate (4096 * n) 0), s0) := by
  have d : isDark (modCask 0 (fun x => { x.endProbe 9 with hold := none }) (tasted n again)) := ⟨⟨rfl, rfl, rfl, rfl, rfl⟩, rfl⟩
  exact readDram_dark d _ _ _ (by show tasteAt 0 dark % 32 = 0; decide +kernel) (by omega)

theorem witness_CorrectionAndTasting_results :
    let first := fun cs => tasteFirst false [] 0 one32 cs (List.replicate 4096 0)
    first [] = none ∧ first [⟨9, 0, 1, 0, 0, 5, List.replicate 514 100⟩] ≠ none := by decide +kernel

/-- A rack 0 as given, on a device with no checks enabled. -/
def rackOnly (r : RackSt) : State := { up with racks := [(0, r)], regs := [(regOff .CT_CTRL 0 0, 0)] }

theorem witness_DrainsAndQuantiser_drain :
    (let x : Drain := ⟨1, true, 0, [], none, 0, none⟩
     let s := rackOnly { RackSt.init with drains := [x], slots := [(0, slotOf 2), (1, slotOf 3)] }
     (getRack 0 s).drains.find? (fun x => decide (x.phase = 0)) = some x ∧ (getSlot 0 x.slot s).pend = 0 ∧
       frozenWhere (·.coversRack 0) s = false ∧ resettingWhere (·.coversRack 0) s = false ∧ x.isDrop = true) ∧
    (let x : Drain := ⟨1, false, 0, drainDesc, none, 0, none⟩
     let s := rackOnly { RackSt.init with drains := [x], slots := [(0, slotOf 2)] }
     (getRack 0 s).drains.find? (fun x => decide (x.phase = 0)) = some x ∧ (getSlot 0 x.slot s).pend = 0 ∧ x.isDrop = false ∧
       (getSlot 0 x.slot s).rec' = none ∧ asmRoom 0 x s = true) ∧
    let x : Drain := ⟨1, false, 0, drainDesc, none, 0, none⟩
    let e : SlotRec := ⟨0x2000000000 + 0x7F7E0, 255, 1, 0⟩
    let s := rackOnly { RackSt.init with drains := [x], slots := [(0, { slotOf 2 with rec' := some e, tags := [(0, 0, 0)] })] }
    (getRack 0 s).drains.find? (fun x => decide (x.phase = 0)) = some x ∧ (getSlot 0 x.slot s).pend = 0 ∧ x.isDrop = false ∧
      (getSlot 0 x.slot s).rec' = some e ∧ (getSlot 0 x.slot s).skewed = false ∧ byteAt 52 x.desc < 4 ∧ byteAt 50 x.desc = 1 ∧
      leAt 8 8 x.desc = 0 ∧ chainOf x.desc = [] ∧ leAt 48 2 x.desc * outBytes (byteAt 52 x.desc) % 32 = 0 ∧ leAt 48 2 x.desc ≤ 256 ∧
      leAt 0 8 x.desc = 0x2000000000 + 0x400 ∧ 0x400 % 32 = 0 ∧ 0x400 + 1024 ≤ 0x80000 ∧ 0x7F7E0 + 2080 ≤ 0x80000 ∧
      e.token0 < 256 ∧ Mem.wf s.mem = true ∧ s.mem.accBad.has (16 * 0 + x.slot) = false ∧ s.mem.spBad = [] ∧
      (∀ t ∈ (getSlot 0 x.slot s).tags,
        t = (leAt 0 2 (spRead 0 0x7F7E0 32 s), byteAt 2 (spRead 0 0x7F7E0 32 s), byteAt 3 (spRead 0 0x7F7E0 32 s))) ∧
      rflag .CT_CTRL 0 0 0 s = false ∧ rflag .CT_CTRL 0 0 1 s = false ∧
      leAt 4 4 (spRead 0 (0x7F7E0 + 32 + 8 * e.token0) 8 s) / 64 % 4 = 0 := by decide +kernel

theorem witness_DrainsAndQuantiser_end :
    (let x : Drain := ⟨1, false, 0, drainDesc, none, 1, none⟩
     ∀ y ∈ [x, { x with phase := 3 }], ∀ k ∈ [[], [3]], ∀ n ∈ [0, 8],
       let r : RackSt := { RackSt.init with drains := y :: List.replicate n { x with id := 2, phase := 0 }, toDrop := k }
       (getRack 0 (rackOnly r)).drains.find? (fun x => decide (x.phase = 1) || decide (x.phase = 3)) = some y ∧
         (getRack 0 (rackOnly r)).toDrop = k ∧ ((getRack 0 (rackOnly r)).drains.filter fun z => decide (z.id ≠ y.id)).length = n) ∧
    (∀ st ∈ [3, 4], (getSlot 0 15 (rackOnly { RackSt.init with slots := [(15, slotOf st)] })).st = st) ∧
    (let s := rackOnly { RackSt.init with ldp := [⟨0x2000000000 + 0x7BFA0, 0, none⟩] }
     (getRack 0 s).ldp = ⟨0x2000000000 + 0x7BFA0, 0, none⟩ :: [] ∧ 0x7BFA0 % 32 = 0 ∧ 0x7BFA0 + 16448 ≤ 0x80000 ∧ badSector 0 0x7BFA0 16448 s = none ∧
       Store.wf 0 s.mem.acc = true ∧ (getSlot 0 0 s).rec' = none) ∧
    (let q : QtReq := ⟨0, [], none, 0, 0⟩
     nextQt 0 (rackOnly (requests 1)) = some (0, q) ∧ badSector 0 q.desc 64 (rackOnly (requests 1)) = none ∧
       descBad (spRead 0 q.desc 64 (rackOnly (requests 1))) = true ∧
       let s := rackOnly (requests 1)
       let s := { s with mem := { s.mem with spBad := [(1, ())] } }
       nextQt 0 s = some (0, q) ∧ badSector 0 q.desc 64 s ≠ none) ∧
    (let q : QtReq := ⟨0, List.replicate 64 0, none, 1, 1⟩
     let s := rackOnly { RackSt.init with qt := [q] }
     (getRack 0 s).qt = q :: [] ∧ q.phase = 1 ∧ q.body.length = 64 ∧ Store.wf 0 s.mem.sp = true ∧ Store.wf 0 s.sync = true) ∧
    (let a : QtAsm := ⟨0x1000000000, 0, 0, 0, 1, 1, [1], [(0, 0)], [], none⟩
     (getRack 0 (rackOnly { RackSt.init with asm := [a] })).asm.find? asmReady = some a) := by decide +kernel

/-! ### Witnesses: rings and packets -/

/-- A read that succeeds with an answer that meets a test. -/
theorem rd_ok {x : Rd × State} {P : List Byte → State → Bool}
    (h : (match x with | (.ok b, s) => P b s | _ => false) = true) : ∃ b s1, x = (.ok b, s1) ∧ P b s1 = true := by
  match x with
  | (.ok b, s) => exact ⟨b, s, rfl, h⟩
  | (.bus, _) => simp at h
  | (.badSeal, _) => simp at h

/-- Whole sectors at the start of a DRAM that holds nothing else. -/
def dramOf (sec : Nat) (bytes : List Byte) : Mem :=
  let a := bytes.take 32
  let b := bytes.drop 32
  dramPut (sec + 1) b (parityOf b) (dramPut sec a (parityOf a) Mem.init)

/-- The context of ring 0: array at 0x1000, completions at 0x2000, status at 0x3000, 16 entries, one packet in flight. -/
def context : List Byte := record 64 [(0, 8, 0x1000), (8, 8, 0x2000), (16, 8, 0x3000), (24, 1, 4), (27, 1, 1)]

/-- A device with a ring 0 as given. -/
def ringOf (r : Ring) : State := { dark with rings := [(0, r)] }

theorem witness_RingCommands : hostReaches (regOff .RG_CMD 0 0) dark ∧
    (getRing (selectedRing dark) dark).st = .disabled ∧ goingOff 72 dark = false ∧ dark.pm.libDue = false ∧ dark.pm.lcState ≠ 4 ∧
    rpair .RG_TABLE_LO .RG_TABLE_HI 0 dark + 64 * selectedRing dark + 64 ≤ usable dark ∧
    (let s := { dark with mem := dramOf 0 context }
     ∃ b s1, readDram 0 64 none s = (.ok b, s1) ∧ (ctxOk b s1 && !activeBusy (ctxOf b) s1) = true) ∧
    (∃ b s1, readDram 0 64 none dark = (.ok b, s1) ∧ (!ctxOk b s1) = true) ∧
    (getRing 0 (ringOf ring)).st = .active ∧
    ((getRing 0 (ringOf { ring with st := .stopped })).st = .stopped ∧ activeBusy ring.ctx (ringOf { ring with st := .stopped }) = false) ∧
    (getRing 0 (ringOf { ring with st := .error })).mayReset = true ∧ (getRing 0 (ringOf ring)).st ≠ .disabled := by
  refine ⟨by unfold hostReaches; decide +kernel, by decide +kernel, by decide +kernel, by decide +kernel, by decide +kernel,
    by decide +kernel, rd_ok (by decide +kernel), rd_ok (by decide +kernel), by decide +kernel, by decide +kernel, by decide +kernel, by decide +kernel⟩

/-- Ring 0 with packets waiting. -/
def waiting : Ring := { ring with tail := 3 }

theorem witness_DoorbellsFetchAndStatus : hostReaches 0x2000000 (ringOf waiting) ∧
    (let g := getRing 0 (ringOf waiting)
     fieldOf 31 17 (13 : Word) = 0 ∧ g.deviceFed = false ∧ g.takes = true ∧ (g.tail - g.head).toNat + 13 ≤ 2 ^ g.ctx.log2 ∧
       2 ^ g.ctx.log2 < (g.tail - g.head).toNat + 14 ∧ fieldOf 16 0 (0 : Word) = 0 ∧ fieldOf 31 17 (0x20001 : Word) ≠ 0 ∧
       { g with ctx := { g.ctx with mode := 1 } }.deviceFed = true ∧ { g with st := .error }.takes = false ∧ g.st = .active ∧ g.front = none ∧ g.start ≠ g.tail ∧
       (ringOf waiting).px.d3 = false) ∧
    (∃ s1, readDram 0x2000 64 (some ⟨0, 0⟩) (ringOf waiting) = (.ok (List.replicate 64 0), s1) ∧
      headerOk 0 (List.replicate 64 0) s1 = true) ∧
    (let s := { up with rings := [(0, { ring with wbDue := true })] }
     (getRing 0 s).wbDue = true ∧ upstreamOk s = true ∧ (getRing 0 s).ctx.wb % 32 = 0 ∧ s.mem.cline.length < 12 ∧
       sliceOn ((getRing 0 s).ctx.wb / 128) s = true ∧ Mem.wf s.mem = true) := by
  have d : isDark (ringOf waiting) := ⟨⟨rfl, rfl, rfl, rfl, rfl⟩, rfl⟩
  exact ⟨by unfold hostReaches; decide +kernel, by decide +kernel, ⟨_, readDram_dark d _ _ _ rfl rfl, by decide +kernel⟩, by decide +kernel⟩

/-- A KERNEL packet: one thread on rack 0, as PC 0x8000, with a header signal of 7 to object 5. -/
def kernelPacket : List Byte :=
  record 64 [(0, 2, 1), (2, 1, 0x20), (6, 2, 5), (12, 4, 7), (32, 8, 0x8000), (40, 8, 0), (48, 2, 0), (50, 2, 1), (52, 1, 1)]

theorem witness_PacketsStartRunAndComplete_gate :
    let f : Front := ⟨List.replicate 64 0, true, false, 0, none, 0⟩
    let s := { dark with
      rings := [(0, { ring with ctx := { ring.ctx with mode := 4 }, front := some f })]
      regs := [(regOff .RG_GATE_POOL 0 0, 2)] }
    (getRing 0 s).wantsEntry = true ∧ (getRing 0 s).front = some f ∧ poolEntry s = some 4094 ∧ Store.risesFrom 0 s.rings = true ∧
      Store.wf 0 s.pos.pet = true := by decide +kernel

theorem witness_PacketsStartRunAndComplete_start :
    let f : Front := ⟨kernelPacket, true, false, 0, none, 0⟩
    let s := ringOf { ring with front := some f, tail := 1 }
    (getRing 0 s).front = some f ∧ startable 0 (getRing 0 s) s = true ∧ servedNext 0 s = true := by decide +kernel

theorem witness_PacketsStartRunAndComplete_place :
    let x := { packet kernelPacket with work := .kernel [0] }
    let s := ringOf (ringWith x)
    findPkt ⟨0, 0⟩ s = some x ∧ x.work = .kernel [0] ∧ rackTakes 0 ⟨0, 0⟩ s = true ∧ opThreads x.bytes ≤ freeContexts 0 s := by
  decide +kernel

theorem witness_PacketsStartRunAndComplete_complete :
    let x := { packet kernelPacket with work := .done }
    let s := ringOf (ringWith x)
    findPkt ⟨0, 0⟩ s = some x ∧ pktDone ⟨0, 0⟩ s = true ∧ mayFinish x.bytes s = true ∧ x.codeOut < 2 ∧ sigRemote x.bytes = false ∧
      pktFl 5 x.bytes = true ∧ s.hang.incident = none ∧ Store.wf 0 s.sync = true ∧
      ∀ y ∈ (getRing 0 s).pkts, y.idx = 0 → y = x := by decide +kernel

/-- A packet without a header signal, whose record goes to CMPL. -/
theorem witness_PacketsStartRunAndComplete_record :
    let x := { packet (record 64 [(0, 2, 1)]) with work := .done, exc := some (List.replicate 32 9) }
    let s := { up with rings := [(0, { ringWith x with ctx := { ring.ctx with cmpl := 0x5000 } })] }
    let g := getRing 0 s
    let a := g.ctx.cmpl + 64 * ((0 : Index).toNat % 2 ^ g.ctx.log2)
    findPkt ⟨0, 0⟩ s = some x ∧ pktDone ⟨0, 0⟩ s = true ∧ mayFinish x.bytes s = true ∧ x.codeOut < 2 ∧ pktFl 5 x.bytes = false ∧
      x.bytes.length = 64 ∧ g.ctx.cmpl % 32 = 0 ∧ g.ctx.wb / 32 ≠ a / 32 ∧ g.ctx.wb / 32 ≠ a / 32 + 1 ∧ Mem.wf s.mem = true ∧
      s.mem.cline.length < 10 ∧ sliceOn (a / 128) s = true ∧ sliceOn ((a + 32) / 128) s = true ∧ s.hang.incident = none ∧
      Store.wf 0 s.sync = true ∧ ∀ y ∈ g.pkts, y.idx = 0 → y = x := by decide +kernel

/-! ### Witnesses: operators -/

/-- Everything that the statement of an operator asks of its reads, as one test. -/
def readsFine (o : OperatorRow) (p : PktId) (b : List Byte) (bad : Bool) (s : State) : Bool :=
  match readTensors p (o.tensors b) s with
  | (.ok _, s1) => match (if o.params then readParams (leAt 56 8 b) p s1 else (.ok (leBytes 128 0), s1)) with
    | (.ok par, s2) => (!parFieldsBad o.op par || decide (leAt 56 8 b = 0)) && !parChainBad par &&
      match readTensors p (if o.params then parTensors o.op par else []) s2 with
      | (.ok _, s3) => !o.walks || match readDesc (leAt 40 8 b) 64 p s3 with
        | (.ok h, s4) => match readDesc (leAt 40 8 b) (64 + 16 * leAt 14 2 h) p s4 with
          | (.ok m, s5) => mapBad m s5 == bad
          | _ => false
        | _ => false
      | _ => false
    | _ => false
  | _ => false

theorem reads_of_fine {o : OperatorRow} {p : PktId} {b : List Byte} {bad : Bool} {s : State} (h : readsFine o p b bad s = true) :
    ∃ ts par ts' s1 s2 s3, readTensors p (o.tensors b) s = (.ok ts, s1) ∧
      (if o.params then readParams (leAt 56 8 b) p s1 else (.ok (leBytes 128 0), s1)) = (.ok par, s2) ∧
      (o.params = true → leAt 56 8 b ≠ 0 → parFieldsBad o.op par = false ∧ parChainBad par = false) ∧
      readTensors p (if o.params then parTensors o.op par else []) s2 = (.ok ts', s3) ∧
      (o.walks = true → ∃ h m s4 s5, readDesc (leAt 40 8 b) 64 p s3 = (.ok h, s4) ∧
        readDesc (leAt 40 8 b) (64 + 16 * leAt 14 2 h) p s4 = (.ok m, s5) ∧ mapBad m s5 = bad) := by
  unfold readsFine at h
  split at h
  · rename_i ts s1 e1
    split at h
    · rename_i par s2 e2
      simp only [Bool.and_eq_true, Bool.or_eq_true, decide_eq_true_eq, Bool.not_eq_true'] at h
      obtain ⟨⟨f, c⟩, h⟩ := h
      split at h
      · rename_i ts' s3 e3
        refine ⟨ts, par, ts', s1, s2, s3, e1, e2, fun _ n => ⟨f.resolve_right n, c⟩, e3, fun w => ?_⟩
        simp only [w, Bool.not_true, Bool.false_or] at h
        split at h
        · rename_i d s4 e4
          split at h
          · rename_i m s5 e5
            exact ⟨d, m, s4, s5, e4, e5, by simpa using h⟩
          · simp at h
        · simp at h
      · simp at h
    · simp at h
  · simp at h

/-- A tensor of one number, with a chosen FORMAT. -/
def oneNumber (format : Nat) : List Byte := record 64 [(8, 1, format), (9, 1, 1), (12, 2, 1), (14, 2, 1), (16, 2, 1), (18, 2, 1)]

/-- A packet of an operator whose descriptors stand in the scratchpad of rack 0: tensors at its start, an ATTENTION's parameters at 0x100,
a layer map at a given place. -/
def operatorBody (o : OperatorRow) (map : Nat) : List Byte :=
  record 64 [(0, 2, o.op), (32, 8, 0x1000000000),
    (40, 8, if o.walks then map else if o.op = 0x12 ∨ o.op = 0x13 then 0x1000000000 else 0), (48, 8, 0x1000000000),
    (56, 8, if o.op = 0x13 then 0x1000000100 else 0)]

/-- Descriptors in the scratchpad of rack 0. -/
def descriptors : Mem := { Mem.init with
  sp := Store.setN 0 0x200 (record 64 [(17, 1, 1)])
    (Store.setN 0 0x100 (record 128 [(0, 8, 0x1000000000)]) (Store.setN 0 0 (oneNumber 0) [])) }

/-- Ring 0 with one started packet, and those descriptors. -/
def operating (b : List Byte) : State := { dark with mem := descriptors, rings := [(0, ringWith (packet b))] }

theorem fine_operators : (operatorTable.all fun o => readsFine o ⟨0, 0⟩ (operatorBody o 0x1000000200) false
      (operating (operatorBody o 0x1000000200)) &&
    readsFine o ⟨0, 0⟩ (operatorBody o 0x1000000300) true (operating (operatorBody o 0x1000000300))) = true := by decide +kernel

theorem witness_OperatorsCheckAndPlace_reads (o : OperatorRow) (h : o ∈ operatorTable) (bad : Bool) :
    let b := operatorBody o (if bad then 0x1000000300 else 0x1000000200)
    readsFine o ⟨0, 0⟩ b bad (operating b) = true := by
  have := List.all_eq_true.mp fine_operators o h
  simp only [Bool.and_eq_true] at this
  cases bad
  · exact this.1
  · exact this.2

theorem witness_OperatorsCheckAndPlace_packet : (operatorTable.all fun o =>
    let b := operatorBody o 0x1000000200
    decide ((packet b).work = .none) && decide (pktOp b = o.op) && o.bodyOk b &&
      decide (findPkt ⟨0, 0⟩ (operating b) = some (packet b)) &&
      match readTensors ⟨0, 0⟩ (o.tensors b) (ringOf (ringWith (packet b))) with
      | (.error _, _) => true
      | _ => false) = true := by decide +kernel

/-- A layer of 4 inputs, 256 outputs, one home share of rack 0, its input too wide for the scratchpad (so no band mode) and its output 40 numbers
wide, with its first three cells coded and none opened. -/
def walkWith (conv : Bool) : Walk :=
  let t := record 64 [(8, 1, 0), (9, 1, 4), (12, 2, 4), (14, 2, 40), (16, 2, 1), (18, 2, 1)]
  let tin := record 64 [(8, 1, 0), (9, 1, 4), (12, 2, 4), (14, 2, 65535), (16, 2, 1), (18, 2, 1)]
  ⟨conv, record 64 [(0, 4, 4), (4, 4, 256), (10, 1, 1), (11, 1, 1), (12, 2, 1), (14, 2, 1), (16, 1, 2), (17, 1, 3)] ++
    record 16 [(2, 2, 1), (7, 1, 1)], tin, t, [], record 128 [(8, 1, 1), (9, 1, 1), (10, 1, 1), (11, 1, 1), (12, 1, 1), (13, 1, 1)],
    [⟨0, 0, false, 1, false⟩], [⟨0, true, false, 0, 0, [], none, 0, false, []⟩]⟩

/-- A walker at work on rack 0, whose slots are all in a given state. -/
def walkerAt (op : Nat) (conv : Bool) (st : Nat) : State := { dark with
  threads := [(0, { ready with pkt := some ⟨0, 0⟩ })]
  racks := [(0, { RackSt.init with slots := (List.range 16).map fun n => (n, slotOf st) })]
  rings := [(0, ringWith { packet (record 64 [(0, 2, op)]) with work := .kernel [], walk := some (walkWith conv) })] }

theorem witness_OperatorsCheckAndPlace_walkers : ∀ st ∈ [0, 1], ∀ o ∈ [(0x10, false), (0x11, true)],
    let s := walkerAt o.1 o.2 st
    walking o.1 ⟨0, 0⟩ s = true ∧ (∀ k, k < 16 → (getSlot 0 k s).st = st) ∧
      opensNext ⟨0, 0⟩ (walkWith o.2) ⟨0, 0, false, 1, false⟩ ⟨0, true, false, 0, 0, [], none, 0, false, []⟩ s := by
  unfold opensNext
  decide +kernel

/-- Table 9.3 and the end of a curve of even order, from R322's own words. -/
theorem test_curve_table_9_3 : (walkOrder 16 16).take 16 = [(0, 0), (1, 0), (1, 1), (0, 1), (0, 2), (0, 3), (1, 3), (1, 2), (2, 2), (2, 3),
    (3, 3), (3, 2), (3, 1), (2, 1), (2, 0), (3, 0)] ∧ (walkOrder 16 16).getLast? = some (15, 0) ∧
    (walkOrder 8 8).take 4 = [(0, 0), (0, 1), (1, 1), (1, 0)] := by decide +kernel

/-- The first rows, halos and windows of the worked example of chapter 9: replica 1 of 4, 64 × 250 × 16 BF16, a 3 × 3 kernel, one row of padding
(R326, Tables 9.6 and 9.7). -/
theorem test_bands_of_table_9_7 :
    let w : Walk := ⟨true, record 64 [(0, 4, 144), (11, 1, 4)], record 64 [(8, 1, 5), (12, 2, 16), (14, 2, 250), (16, 2, 64), (18, 2, 1), (20, 4, 32)],
      record 64 [(14, 2, 250), (16, 2, 64), (18, 2, 1)], [],
      record 128 [(8, 1, 3), (9, 1, 3), (10, 1, 1), (11, 1, 1), (12, 1, 1), (13, 1, 1), (14, 1, 1), (16, 1, 1)], [], []⟩
    w.band 1 = (16, 32) ∧ w.ownRows 1 = (16, 32) ∧ w.hUp 1 = 1 ∧ w.hDown 1 = 1 ∧ w.rowBase 1 = 15 ∧ w.rowBytes = 8000 ∧
      (w.cells 1).length = 256 ∧ (w.cells 1).take 4 = [(0, 0, 16), (0, 1, 16), (0, 1, 17), (0, 0, 17)] ∧ w.vtok (0, 15, 16) = 10 := by
  decide +kernel

/-- A started packet of ring 0. -/
def started (b : List Byte) : State := ringOf (ringWith (packet b))

theorem witness_NopKernelCellarerAndEstatePackets_checks :
    (let b : List Byte := record 64 []; let c := record 64 [(40, 1, 1)]
     packetWaits ⟨0, 0⟩ 0 (packet b) (started b) ∧ leAt 32 32 b = 0 ∧ packetWaits ⟨0, 0⟩ 0 (packet c) (started c) ∧ leAt 32 32 c ≠ 0) ∧
    (let c := record 64 [(0, 2, 1)]
     packetWaits ⟨0, 0⟩ 1 (packet kernelPacket) (started kernelPacket) ∧ kernelBad kernelPacket = false ∧
       packetWaits ⟨0, 0⟩ 1 (packet c) (started c) ∧ kernelBad c = true) ∧
    (let b := record 64 [(0, 2, 0x30), (32, 8, 0x8000), (40, 4, 4096)]
     packetWaits ⟨0, 0⟩ 0x30 (packet b) (started b) ∧ leAt 32 8 b % 32 = 0 ∧ 0 < leAt 40 4 b ∧ leAt 40 4 b ≤ 4096 ∧ leAt 44 20 b = 0) ∧
    (let b := record 64 [(0, 2, 0x31), (42, 1, 1)]
     packetWaits ⟨0, 0⟩ 0x31 (packet b) (started b) ∧ byteAt 42 b = 1 ∧ leAt 43 21 b = 0) ∧
    (let b := record 64 [(0, 2, 0x49), (32, 8, 0x1000000000 + 0x7FF80), (40, 4, 0x80), (44, 2, 77)]
     packetWaits ⟨0, 0⟩ 0x49 (packet b) (started b) ∧ estateBad b (started b) = false ∧ ((77 : BitVec 16).toNat = leAt 44 2 b) ∧
       leAt 32 8 b = 0x1000000000 + 0x7FF80 ∧ 0x7FF80 % 0x80000 + 0x80 ≤ 0x80000 ∧ Store.wf 0 (started b).mem.sp = true ∧
       upstreamOk (started b) = true) ∧
    (let b := record 64 [(0, 2, 0x49), (40, 4, 1)]
     packetWaits ⟨0, 0⟩ 0x49 (packet b) (started b) ∧ estateBad b (started b) = true) ∧
    (let x := { packet [] with work := .estateSend 9 }
     let s := { ringOf (ringWith x) with now := 2000000 * 200 }
     findPkt ⟨0, 0⟩ s = some x ∧ upstreamOk s = true ∧ x.started + rfield .RG_ESTATE_TMO 0 0 19 0 s * 200000 ≤ s.now) := by
  unfold packetWaits; decide +kernel

theorem witness_NopKernelCellarerAndEstatePackets_quantize :
    (∀ out ∈ [0, 1], let b := record 64 [(0, 2, 0x18), (32, 8, 0x1000000000), (48, 8, 0x1000000040)]
      let s := { operating b with mem := { Mem.init with sp := Store.setN 0 0x40 (oneNumber out) (Store.setN 0 0 (oneNumber 5) []) } }
      (packetWaits ⟨0, 0⟩ 0x18 (packet b) s ∧ leAt 40 8 b = 0 ∧ leAt 56 8 b = 0) ∧
      (match readTensors ⟨0, 0⟩ [(leAt 32 8 b, true), (leAt 48 8 b, false)] s with
       | (.ok [tin, tout], _) => quantizeBad 0 tin tout == decide (out = 1)
       | _ => false) = true) := by
  unfold packetWaits; decide +kernel

theorem witness_NopKernelCellarerAndEstatePackets_send :
    let b := record 64 [(0, 2, 0x48), (32, 8, 0x1000000000), (40, 4, 64), (48, 8, 0x123456780)]
    (packetWaits ⟨0, 0⟩ 0x48 (packet b) (started b) ∧ estateBad b (started b) = false ∧ upstreamOk (started b) = true) ∧
    ∃ d s1, devRead noRack (leAt 32 8 b) (leAt 40 4 b) (some ⟨0, 0⟩) (started b) = (.ok d, s1) ∧ (d.length == 64) = true := by
  refine ⟨by unfold packetWaits; decide +kernel, rd_ok (by decide +kernel)⟩

/-! ### Witnesses: signals and event queues -/

/-- Member 0 with member 15 present, its way through port 0 trained, with credits; messages in port 1's receive buffers. -/
def arrived (msgs : List BvMsg) (credits : Nat) : State := { up with
  bv := { Bv.init with
    present := 2 ^ 15
    ports := [(0, { Port.init with st := .up, cred0 := credits, cred1 := credits }),
      (1, { Port.init with st := .up, rx0 := [msgs], rx1 := [msgs] })] }
  regs := Store.setN 0 (regOff .BV_ROUTE 0 15) [0x80000000] (Store.setN 0 (regOff .BV_ROUTE 0 3) [0xC0000000] (Store.setN 0 (regOff .BV_MEMBERS 0 0) [0x8001] up.regs)) }

theorem witness_SignalsFromOutside : Store.wf 0 up.sync = true ∧ hostReaches (regOff .SY_SIGNAL 0 0) up ∧
    hostReaches (regOff .SY_SEL 0 0) up ∧ Store.risesFrom 0 up.wraps = true ∧
    (let s := arrived [⟨15, 0, 7, .signal 9 1⟩, ⟨14, 0, 8, .signal 9 1⟩] 32
     hasMsg ⟨1, 0, 0, 7⟩ 15 (.signal 9 1) s = true ∧ (0 : Member).val = ownMember s ∧ memberPresent 15 s = true ∧ s.pending = [] ∧
       answerable 15 s ∧ memberPresent 14 s = false ∧ hasMsg ⟨1, 0, 0, 8⟩ 14 (.signal 9 1) (arrived [⟨14, 0, 8, .signal 9 1⟩] 32) = true) ∧
    ∀ st ∈ [TSt.waitSync, .held], let k : Thread := { ready with st := st, wait := some (.sync 9 7 4 true), since := 0 }
      let s := { having k with now := 2000000 * 200 }
      (getThread 0 0 s).wait = some (.sync 9 7 4 true) ∧
        (getThread 0 0 s).since + rfield .BV_RWAIT_TMO 0 0 19 0 s * 200000 ≤ s.now := by
  unfold hostReaches answerable; decide +kernel

/-- Queue e with 2 to the power of 6 records at 0x4000, with given contents, class 3 routed to it. -/
def queueOf (cfg : Word) (head tail : Word) : State := { up with
  px := { up.px with msixEn := true, msix := [(3, 0)] }
  regs := Store.setN 0 (regOff .EV_ROUTE 0 3) [2 ^ 31 + 15] (Store.setN 0 (regOff .EQ_TAIL 0 15) [tail]
    (Store.setN 0 (regOff .EQ_HEAD 0 15) [head] (Store.setN 0 (regOff .EQ_CFG 0 15) [cfg]
      (Store.setN 0 (regOff .EQ_BASE_LO 0 15) [0x4000] up.regs)))) }

/-- EN, 64 records, vector 0. -/
def eqCfg : Word := 0x80060000

theorem witness_EventQueues_event : 0x0301 / 256 < 16 ∧ 0x0301 < 65536 ∧
    (∀ c ∈ ([0x80060000, 0] : List Nat), let s := queueOf (BitVec.ofNat 32 c) 0xFFFFFFFF 14
     upstreamOk s = true ∧ rget .EV_ROUTE 0 3 s = BitVec.ofNat 32 (2 ^ 31 + 15) ∧ flagOf 31 (rget .EQ_CFG 0 15 s) = decide (c ≠ 0)) ∧
    (let s := { queueOf eqCfg 3 67 with regs := rset .EV_ROUTE 0 5 15 (queueOf eqCfg 3 67) |>.regs }
     (rget .EQ_TAIL 0 15 s - rget .EQ_HEAD 0 15 s).toNat = 2 ^ fieldOf 20 16 (rget .EQ_CFG 0 15 s) ∧ 0x0501 / 256 < 16 ∧
       upstreamOk s = true ∧ flagOf 31 (rget .EV_ROUTE 0 (0x0501 / 256) s) = false) ∧
    let s := queueOf eqCfg 0xFFFFFFFF 14
    let tail := rget .EQ_TAIL 0 15 s
    let a := rpair .EQ_BASE_LO .EQ_BASE_HI 15 s + 32 * (tail.toNat % 2 ^ fieldOf 20 16 (rget .EQ_CFG 0 15 s))
    (tail - rget .EQ_HEAD 0 15 s).toNat ≠ 2 ^ fieldOf 20 16 (rget .EQ_CFG 0 15 s) ∧ a % 32 = 0 ∧ s.mem.cline.length < 12 ∧
      sliceOn (a / 128) s = true ∧ Mem.wf s.mem = true := by decide +kernel

theorem witness_EventQueues_registers :
    let s := queueOf eqCfg 3 67
    let tail := rget .EQ_TAIL 0 15 s
    (hostReaches (regOff .EQ_HEAD 0 15) s ∧ (tail - 3).toNat = 2 ^ fieldOf 20 16 (rget .EQ_CFG 0 15 s)) ∧
    (hostReaches (regOff .EQ_ARM 0 15) s ∧ flagOf 0 (1 : Word) = true ∧ tail ≠ rget .EQ_HEAD 0 15 s ∧ upstreamOk s = true ∧
      vectorOpen (fieldOf 10 0 (rget .EQ_CFG 0 15 s)) s = true ∧ Store.risesFrom 0 s.armed = true) ∧
    (let e := queueOf eqCfg 5 5
     hostReaches (regOff .EQ_ARM 0 15) e ∧ rget .EQ_TAIL 0 15 e = rget .EQ_HEAD 0 15 e) ∧
    (let e := queueOf 0 0 0
     hostReaches (regOff .EQ_CFG 0 15) e ∧ RegName.EQ_CFG.desc.allows eqCfg = true ∧ busyWrite .EQ_CFG 0 15 eqCfg e = false ∧
       rpair .EQ_BASE_LO .EQ_BASE_HI 15 e + 32 * 2 ^ fieldOf 20 16 eqCfg ≤ usable e) ∧
    busyWrite .EQ_CFG 0 15 (setFlag 31 false eqCfg) s = false ∧ flagOf 31 (setFlag 31 false eqCfg) = false := by
  unfold hostReaches; decide +kernel

/-! ### Witnesses: memory -/

/-- A COPY of 32 bytes with a given MODE. -/
def copyPacket (mode : Nat) : List Byte := record 64 [(0, 2, 2), (32, 8, 0x8000), (40, 8, 0x9000), (48, 8, 32), (56, 1, mode)]

/-- What DMA engine 0 does, with that COPY: of its one request, some not issued. -/
def copyOf (mode todo : Nat) : Copy := ⟨⟨0, 0⟩, 0x8000, 0x9000, 32, mode, todo, 0⟩

/-- A device whose DMA engine 0 runs that COPY for packet 0 of ring 0, with tokens out and in return. -/
def copying (mode todo out back : Nat) : State :=
  { up with mem := { Mem.init with dma := [(0, ⟨some (copyOf mode todo), out, back⟩)] }, rings := [(0, ringWith (packet (copyPacket mode)))] }

theorem witness_CopiesMoveTheirData_take :
    (∀ mode ∈ [0, 1, 2], let b := copyPacket mode; let s := { up with rings := [(0, ringWith (packet b))] }
     packetWaits ⟨0, 0⟩ 2 (packet b) s ∧ copyBad b (copyOf mode (ceilDiv (leAt 48 8 b) 128)) s = false ∧
       (getDma (dmaNo 0 0) s).copy = none ∧ rflag .MC_CTRL 0 0 8 s = false ∧ upstreamOk s = true ∧
       inService (·.coversQuad 0) (some ⟨0, 0⟩) { s with hang := { s.hang with oos := [⟨0, 0⟩, ⟨2, 1⟩] } } = true) ∧
    (let s := { up with mem := { Mem.init with dma := [(0, ⟨none, 0, 64⟩)] } }
     (getDma (dmaNo 0 0) s).copy = none ∧ 0 < (getDma (dmaNo 0 0) s).back) ∧
    let b := copyPacket 16; let s := { up with rings := [(0, ringWith (packet b))] }
    packetWaits ⟨0, 0⟩ 2 (packet b) s ∧ copyBad b (copyOf 16 1) s = true := by unfold packetWaits; decide +kernel

theorem witness_CopiesMoveTheirData_end :
    (let s := copying 1 0 1 2; let c := copyOf 1 0
     (getDma (dmaNo 0 0) s).copy = some c ∧ findPkt c.pkt s = some (packet (copyPacket 1)) ∧ upstreamOk s = true ∧ c.srcHost = true ∧
       c.dstHost = false ∧ c.seal' = false ∧ c.len = 32 ∧ c.dst % 32 = 0 ∧ s.mem.cline.length < 12 ∧
       sliceOn (c.dst / 128) s = true ∧ Mem.wf s.mem = true ∧ 0 < (getDma (dmaNo 0 0) s).back ∧ 0 < (getDma (dmaNo 0 0) s).out ∧
       timedOut c { s with now := 10000000 } = true ∧ (List.replicate 32 7#8).length = 32) ∧
    (let d := getDma (dmaNo 0 0) (copying 1 0 0 2)
     d.copy = some (copyOf 1 0) ∧ (copyOf 1 0).todo = 0 ∧ d.out = 0 ∧ 0 < (copyOf 1 0).len ∧ 0 < d.back) ∧
    (let d := getDma (dmaNo 0 0) (copying 0 1 1 0); d.copy = some (copyOf 0 1) ∧ d.back = 0 ∧ 0 < d.out ∧ 0 < (copyOf 0 1).todo) ∧
    let s := copying 2 0 0 0; let c := copyOf 2 0
    (getDma (dmaNo 0 0) s).copy = some c ∧ findPkt c.pkt s = some (packet (copyPacket 2)) ∧ c.srcHost = false ∧ c.dstHost = true ∧
      c.len ≠ 0 ∧ c.todo = 0 ∧ (getDma (dmaNo 0 0) s).out = 0 ∧ (match copyRead c.check c.pkt (c.src / 32) (c.len / 32) true s with
        | (data, none, _) => !data.isEmpty
        | _ => false) = true := by
  constructor
  · decide +kernel
  · refine ⟨by decide +kernel, by decide +kernel, by decide +kernel, by decide +kernel, by decide +kernel, by decide +kernel,
      by decide +kernel, ?_⟩
    decide +kernel

theorem witness_HostAccessesToMemory : up.pm.wiped = true ∧ up.px.d3 = false ∧
    (let off := 255 * 0x80000 + 0x7FFE0; let data : List Byte := List.replicate 32 5#8
     off < 2 ^ 27 ∧ off % 32 = 0 ∧ data.length % 32 = 0 ∧ off + data.length ≤ 2 ^ 27 ∧ off + 31 + 1 ≤ 2 ^ 27 ∧ (off + 1) % 32 ≠ 0 ∧
       badSector (off / 0x80000) (off % 0x80000) data.length up = none ∧ domainIsOff (rackDomain (off / 0x80000)) up = false ∧ Store.wf 0 up.mem.sp = true) ∧
    domainIsOff 72 up = false ∧
    (let off := usable up - 32; let data : List Byte := List.replicate 32 5#8
     off + data.length ≤ 2 ^ up.px.bar4Log2 ∧ off % 32 = 0 ∧ off + 32 ≤ usable up ∧ up.mem.cline.length < 12 ∧
       sliceOn (off / 128) up = true ∧ Mem.wf up.mem = true) ∧
    (1 + (List.replicate 31 5#8).length ≤ 2 ^ up.px.bar4Log2 ∧ 1 % 32 ≠ 0) ∧
    (∃ d s1, readDram 0x8000 32 none up = (.ok d, s1) ∧ (d.length == 32) = true) ∧
    usable up < usable up + (List.replicate 32 5#8).length ∧ usable up + 32 ≤ 2 ^ up.px.bar4Log2 := by
  refine ⟨rfl, rfl, by decide +kernel, by decide +kernel, by decide +kernel, by decide +kernel, rd_ok (by decide +kernel),
    by decide +kernel, by decide +kernel⟩

/-- A device with registers of the memory system written. -/
def mcRegs (r : RegName) (i : Nat) (ws : List Word) : State := { up with regs := Store.setN 0 (regOff r 0 i) ws up.regs }

theorem witness_CacheScrubSealsAndTrellis_cache :
    (let m := { Mem.init with parity := [(0x400, 0)] }
     m.csec.find 0x400 = none ∧ sectorGood 0x400 .clean m = false ∧ sectorGood 0x401 .clean m = true) ∧
    up.mem.csec.find 0x400 = none ∧ 32 * 0x400 + 32 ≤ usable up ∧ up.mem.seals.find (0x400 / 128) = none ∧
      dramPar 0x400 up.mem = parityOf (dramData 0x400 up.mem) ∧ sliceOn (0x400 / 4) up = true ∧ up.mem.cline.length < 12 ∧
      Mem.wf up.mem = true := by decide +kernel

theorem witness_CacheScrubSealsAndTrellis_scrub :
    (let s := { up with regs := Store.setN 0 (regOff .MC_SCRUB_LEN_LO 0 0) [0x1000] up.regs }
     hostReaches (regOff .MC_SCRUB_CTRL 0 0) s ∧ RegName.MC_SCRUB_CTRL.desc.allows (setFlag 31 true 7) = true ∧
       flagOf 30 (7 : Word) = false ∧ s.mem.scrub = none ∧ scrubBase s % 32 = 0 ∧ scrubLen s % 32 = 0 ∧ 32 ≤ scrubLen s ∧
       scrubBase s + scrubLen s ≤ usable s) ∧
    (let s := { up with mem := { Mem.init with scrub := some ⟨0, 64, 0⟩ } }
     hostReaches (regOff .MC_SCRUB_CTRL 0 0) s ∧ s.mem.scrub = some ⟨0, 64, 0⟩) ∧
    ∀ stop ∈ [64, 65], let s := { up with mem := { Mem.init with scrub := some ⟨32, stop, 0⟩ } }
      s.mem.scrub = some ⟨32, stop, 0⟩ ∧ (stop ≤ 32 + 32 ↔ stop = 64) ∧ sectorGood (32 / 32) .clean s.mem = true ∧
        sectorGood (32 / 32) .corrected s.mem = true ∧ s.mem.csec.find (32 / 32) = none ∧ sectorGood (32 / 32) .failed s.mem = false := by
  unfold hostReaches; decide +kernel

theorem witness_CacheScrubSealsAndTrellis_seals :
    (∀ v ∈ [0, 1], let s := { up with regs := [(regOff .MC_CTRL 0 0, BitVec.ofNat 32 v)] }
     hostReaches (regOff .MC_CTRL 0 0) s ∧ goingOff 72 s = false ∧
       writeOk .MC_CTRL 0 0 (setFlag 8 true (rget .MC_CTRL 0 0 s)) s = true ∧ rflag .MC_CTRL 0 0 0 s = decide (v = 1)) ∧
    (∀ v ∈ [0, 0x100, 0x101], let s := { up with regs := [(regOff .MC_CTRL 0 0, BitVec.ofNat 32 v)] }
     goingOff 72 s = false ∧ writeOk .MC_CTRL 0 0 (setFlag 0 false (rget .MC_CTRL 0 0 s)) s = true) ∧
    (let l := getLink 0 up; l.down = false ∧ l.sent.length < 8) ∧
    (∀ n ∈ [1, 7, 8], let l := getLink 1023 { up with mem := { Mem.init with tlink := [(1023, ⟨List.replicate 8 [], n, 15, false⟩)] } }
     l.down = false ∧ (l.got < l.sent.length ↔ n < 8) ∧ l.sent.length = 8 ∧ 0 < l.got ∧ 16 ≤ l.fails + 1) ∧
    (getLink 1023 { up with mem := { Mem.init with tlink := [(1023, ⟨[], 0, 16, true⟩)] } }).down = true := by
  unfold hostReaches; decide +kernel

/-! ### Witnesses: links -/

theorem witness_HostLink :
    (let s := { up with px := { up.px with upstream := [.read 0x1000 64] } }
     (∀ m ∈ s.px.upstream, ∀ c d, m ≠ .event c d) ∧ s.px.d3 = false ∧ s.px.bme = true) ∧
    (let s := { up with px := { up.px with msixEn := true, pba := [(2047, ())] } }
     s.px.d3 = false ∧ s.px.msixEn = true ∧ s.px.fnMask = false ∧ s.px.bme = true ∧ s.px.pba = [(2047, ())]) ∧
    (TlpKind.write = .write ∧ (6 : Fin 64).val ≤ 6 ∧ (0 : Fin 64).val ≤ 6) ∧
    (∀ r : Bool, let s := { up with px := { up.px with cfgReady := r } }
     s.px.perst = false ∧ s.pm.coldHold = false ∧ s.pm.pcieEn = true ∧ s.px.cfgReady = r ∧ s.px.upstream = []) ∧
    (∀ b ∈ [12, 19], let s := { up with px := { up.px with cfg := [(0x108, 0)] } }
     aerMasked b s = false ∧ flagOf s.px.aerFirst s.px.aer = false ∧ flagOf { s.px with aer := 0x1000, aerFirst := 12 }.aerFirst 0x1000 = true ∧
       aerMasked b { s with px := { s.px with cfg := [(0x108, 0xFFFFFFFF)] } } = true) := by
  refine ⟨⟨?_, rfl, rfl⟩, by decide +kernel, by decide +kernel, by decide +kernel, by decide +kernel⟩
  intro m h c d
  simp only [List.mem_singleton] at h
  subst h
  intro e
  cases e

/-- A device with Burivo port 3 as given, and BV_CTRL. -/
def portOf (k : Port) (ctrl : Word) : State := { up with
  bv := { Bv.init with ports := [(3, k)] }
  regs := Store.setN 0 (regOff .BV_CTRL 0 0) [ctrl] up.regs }

theorem witness_BurivoPorts : hostReaches (regOff .BV_CTRL 0 0) (portOf Port.init 0) ∧
    (rflag .BV_CTRL 0 0 3 (portOf Port.init 0) = false ∧
      writeOk .BV_CTRL 0 0 (setFlag 3 true (rget .BV_CTRL 0 0 (portOf Port.init 0))) (portOf Port.init 0) = true ∧
      writeOk .BV_CTRL 0 0 (setFlag 8 true (rget .BV_CTRL 0 0 (portOf Port.init 0))) (portOf Port.init 0) = true) ∧
    (∀ ctrl ∈ [0x8, 0x108], let s := portOf { Port.init with st := .up } (BitVec.ofNat 32 ctrl)
      hostReaches (regOff .BV_CTRL 0 0) s ∧ rflag .BV_CTRL 0 0 3 s = true ∧
        writeOk .BV_CTRL 0 0 (setFlag 3 false (rget .BV_CTRL 0 0 s)) s = true) ∧
    (let m : BvMsg := ⟨15, 0, 7, .signal 9 1⟩
     let flit : Flit := ⟨0, 9, 0, false, .messages [m]⟩
     let k := getPort 3 (portOf { Port.init with st := .up, rxSeq := 9, rx0 := List.replicate 31 [m], buf := [(4, .crs)] } 8)
     let full := getPort 3 (portOf { Port.init with st := .up, rxSeq := 9, rx0 := List.replicate 32 [m] } 8)
     k.st = .up ∧ k.txq = [] ∧ flitFits flit = true ∧ flit.seq = k.rxSeq ∧ (k.rx 0).length < 32 ∧ flitMsgs flit ≠ [] ∧
       ({ flit with seq := 8 } : Flit).seq ≠ k.rxSeq ∧ full.st = .up ∧ 32 ≤ (full.rx 0).length ∧
       flitMsgs { flit with load := .credits 1 2 } = [] ∧ flitFits { flit with load := .credits 1 2, replay := true } = true ∧
       flitFits { flit with load := .messages [⟨15, 0, 7, .store 0x1000000000 (List.replicate 256 0)⟩] } = false) ∧
    (let k := getPort 3 (portOf { Port.init with st := .up, cred0 := 0, cred1 := 31, back1 := 1, txq := [(true, .msix 0 0 0)] } 8)
     k.st = .up ∧ 0 < k.back 1 ∧ k.back 0 = 0 ∧ k.txq = (true, .msix 0 0 0) :: [] ∧
       { k with cred1 := min 32 (k.cred1 + 1) }.maySend true = true) ∧
    (let k := getPort 3 (portOf { Port.init with st := .up, replaying := true, fails := 14 } 8)
     k.st = .up ∧ ¬ (k.replaying = true ∧ 15 ≤ k.fails)) ∧
    (let k := getPort 3 (portOf { Port.init with st := .up, replaying := true, fails := 15 } 8)
     k.st = .up ∧ k.replaying = true ∧ 15 ≤ k.fails) ∧
    (let s := { portOf { Port.init with st := .up } 8 with now := 400 }
     (getPort 3 s).st = .up ∧ (getPort 3 s).lastRx + 400 ≤ s.now) ∧
    (∀ st ∈ [PortSt.down, .training], let s := { portOf { Port.init with st := st } 8 with now := 200000 }
     (getPort 3 s).st = st ∧ rflag .BV_CTRL 0 0 3 s = true ∧ (getPort 3 s).lastTrain + 200000 ≤ s.now) ∧
    ∀ now ∈ [40000, 40001], let s := { portOf { Port.init with st := .training } 8 with now := now }
      (getPort 3 s).st = .training ∧ (s.now ≤ (getPort 3 s).lastTrain + 40000 ↔ now = 40000) := by unfold hostReaches; decide +kernel

/-- A device that knows of member 15. -/
def peerOf (present : Bool) (k : PeerRec) (now : Nat) : State :=
  { up with bv := { Bv.init with peers := [(15, k)], present := if present then 2 ^ 15 else 0, msgs := [⟨4, 15, 0, [], false, none, none⟩] }
            now := now }

theorem witness_PodMembers_messages :
    (∀ load ∈ [PeerLoad.heartbeat 0, .heartbeat 2, .store (0x1000000000 + 0x7FFFFE0) (List.replicate 32 1), .store 1 [], .ack 4 true, .ack 4 false,
        .signal 9 1],
      ∀ via ∈ [(⟨1, 0, 0, 5⟩ : Via), ⟨1, 1, 0, 5⟩, ⟨1, 0, 3, 5⟩, ⟨1, 1, 3, 5⟩],
        hasMsg via 15 load (arrived [⟨15, via.dest, 5, load⟩] 32) = true) ∧
    (let s := arrived [] 32
     (0 : Member).val = ownMember s ∧ (3 : Member).val ≠ ownMember s ∧ routeUp 3 s = true ∧
       (getPort (routePort 3 s) s).maySend true = true ∧ answerable 15 s) ∧
    let s := arrived [] 16
    ((List.range 16).filter fun m => rflag .BV_MEMBERS 0 0 m s && decide (m ≠ ownMember s) && routeUp m s) = [15] ∧
      let j := getPort (routePort 15 s) s; 16 ≤ j.cred0 ∧ 16 ≤ j.cred1 ∧ j.buf.length + 16 ≤ 64 := by
  unfold answerable; decide +kernel

theorem witness_PodMembers :
    (let s := peerOf true ⟨1, 0, 0, true⟩ 400
     memberPresent 15 s = true ∧ (Store.getD PeerRec.init 15 s.bv.peers).last + 400 ≤ s.now ∧ Store.wf 0 s.mem.sp = true ∧
       0x7FFFFE0 % 32 = 0 ∧ 0x7FFFFE0 < 0x8000000 ∧ 0x7FFFFE0 % 0x80000 + (List.replicate 32 1#8).length ≤ 0x80000 ∧
       peerWriteOk 1 [] s = false ∧
       (∀ m ∈ s.bv.msgs, (∀ x ∈ s.bv.msgs, x.id = m.id → x = m) ∧ memberPresent m.dest s = true) ∧ s.bv.msgs ≠ [] ∧
       (Store.getD PeerRec.init 15 s.bv.peers).epoch ≠ 2) ∧
    (let s := peerOf false ⟨1, 0, 20000 - 399, true⟩ 20000
     let k := Store.getD PeerRec.init 15 s.bv.peers
     memberPresent 15 s = false ∧ k.seen = true ∧ s.now < k.last + 400 ∧ k.runStart + 20000 ≤ s.now) := by decide +kernel

/-! ### Witnesses: position clock and front end -/

/-- A device with register words as given, by name and index. -/
def withRegs (l : List (RegName × Nat × Nat)) (s : State) : State := l.foldl (fun s e => rset e.1 0 e.2.1 (BitVec.ofNat 32 e.2.2) s) s

/-- A device with a position clock as given. -/
def clocked (p : Pos) (now : Nat) : State := { up with pos := p, now := now }

theorem witness_PositionCounts :
    (accepted 0 (withRegs [(.POS_CHECK, 0, 0)] up) = true ∧ let s := withRegs [(.POS_CHECK, 0, 25)] up; accepted 100 s = true ∧ accepted 99 s = false) ∧
    (let s := clocked { Pos.init with src := 2, synDebt := -1 } 1
     s.pos.src = 2 ∧ s.pos.synDebt ≠ 0 ∧ s.pos.synLast < s.now) ∧
    (up.pos.src = 0 ∧ (xor (true != up.pos.a) (false != up.pos.b)) = true ∧ true ≠ up.pos.a ∧ true ≠ up.pos.b) ∧
    (let s := withRegs [(.POS_SYN_RATE, 0, 2000000), (.POS_CPR, 0, 0)] (clocked { Pos.init with src := 1 } 200000000)
     s.pos.src = 1 ∧ rateDue s = true ∧ (rget .POS_CPR 0 0 s).toNat = 0) ∧
    (let s := clocked { Pos.init with src := 2 } 0
     hostReaches (regOff .POS_SYN_STEP 0 0) s ∧ s.pos.src = 2 ∧ -2048 ≤ signedOf 16 (0xF800 : Word).toNat ∧
       signedOf 16 (0xF800 : Word).toNat ≤ 2047 ∧ -2048 ≤ signedOf 16 (0x7FF : Word).toNat ∧ signedOf 16 (0x7FF : Word).toNat ≤ 2047) ∧
    (let s := withRegs [(.POS_CPR, 0, 4096)] up
     s.pos.src = 0 ∧ (rget .POS_CPR 0 0 s).toNat ≠ 0) := by unfold hostReaches; decide +kernel

theorem witness_PositionWindowsAndTable :
    (let s := clocked { Pos.init with ppsOk := true } 300000000
     s.pos.ppsOk = true ∧ s.pos.pps + 300000000 ≤ s.now) ∧
    up.pos.winStart + 20000 ≤ (clocked Pos.init 20000).now ∧
    (let s := clocked Pos.init 400000001
     s.pos.idle = false ∧ s.pos.lastCount + rfield .POS_STILL 0 0 15 0 s * 200000 < s.now) ∧
    hostReaches (regOff .POS_COUNT 0 0) up ∧ hostReaches (regOff .POS_PPS 0 0) up ∧
    (let s := withRegs [(.PET_SEL, 0, 4094), (.RG_GATE_POOL, 0, 1)] up
     let w := petStaged 0 s + 2 ^ 32 * petStaged 1 s + 2 ^ 64 * petStaged 2 s + 2 ^ 96 * (0x01050000 : Word).toNat
     hostReaches (regOff .PET_W 0 3) s ∧ rfield .PET_SEL 0 0 11 0 s + rfield .RG_GATE_POOL 0 0 11 0 s < 4096 ∧
       petAllowed w = true ∧ Store.wf 0 s.pos.pet = true) ∧
    ∀ pitch ∈ [0, 25], let w := 2 ^ 120 + 2 ^ 112 * 5 + 2 ^ 64 * pitch
      let s := { petPut 4095 w up with now := 255 }
      petSeen 4095 s = w ∧ bitAt 120 w = true ∧ petHolds w s = true ∧ petTurn 4095 s = true ∧ petNew 4095 s = false ∧
        bits 115 112 w = 5 ∧ Store.wf 0 s.pos.pet = true ∧ bits 95 64 w = pitch ∧ bits 117 116 w = 0 ∧
        posUm s + bits 95 64 w < 2 ^ 63 := by unfold hostReaches; decide +kernel

/-- Entries of each kind that fire, and one that an install of the same step clock replaced. -/
theorem witness_PositionWindowsAndTable_kinds :
    (∀ kind ∈ [0, 1, 2], let w := 2 ^ 120 + 2 ^ 116 * kind + 2 ^ 64 * 25
      let s := petPut 0 w up
      petSeen 0 s = w ∧ petHolds w s = true ∧ petTurn 0 s = true ∧ bits 117 116 w = kind ∧ bits 95 64 w ≠ 0) ∧
    let s := { up with pos := { up.pos with petOld := [(0, 0, 2 ^ 120)] } }
    petSeen 0 s = 2 ^ 120 ∧ petNew 0 s = true ∧ petHolds (2 ^ 120) s = true ∧ petTurn 0 s = true := by decide +kernel

/-- A front end with its ADCs on, three regular and four injected slots, triggers as given. -/
def feOf (reg inj : Nat) (fe : Fe) (now : Nat) : State :=
  withRegs [(.FE_ADC_CTRL, 0, 0x80040300), (.FE_REG_TRIG, 0, reg), (.FE_INJ_TRIG, 0, inj)] { up with fe := fe, now := now }

theorem witness_AdcSequences_trigger :
    (let s := feOf 0x20000000 0x80000000 Fe.init 200000
     feOn s = true ∧ s.now % (rget .FE_TIMER 0 0 s).toNat = 0 ∧ s.fe.timerAt ≠ some s.now ∧ trigSrc false s = 1 ∧
       trigSrc (!false) s ≠ 1 ∧ hostReaches (regOff .FE_SW_TRIG 0 0) s ∧
       (∀ inj, calHoldsAdc s = false ∧ rflag .FE_ADC_CTRL 0 0 31 s = true ∧ seqLen inj s ≠ 0 ∧ (getSeq inj s).st = 0) ∧
       trigSrc true s = 4) ∧
    (let s := feOf 0x80000000 0x20000000 { Fe.init with reg := { Seq.init with st := 2 } } 200000
     trigSrc true s = 1 ∧ trigSrc (!true) s ≠ 1 ∧ trigSrc false s = 4 ∧ calHoldsAdc s = false ∧ s.fe.reg.st ≠ 0) := by
  unfold hostReaches; decide +kernel

theorem witness_AdcSequences_pass :
    (∀ inj, let q := { Seq.init with st := 1 }
      let s := feOf 0 0 (if inj then { Fe.init with inj := q } else { Fe.init with reg := q }) 1000000
      (getSeq inj s).st = 1 ∧ firstSample inj s ≤ s.now ∧ (inj = false → s.fe.inj.st ≠ 2 ∧ (s.fe.inj.st = 1 → firstSample false s ≤ delayEnd true s)) ∧ calHoldsAdc s = false) ∧
    (∀ inj, let q := { Seq.init with st := 2 }
      let s := feOf 0 0 (if inj then { Fe.init with inj := q } else { Fe.init with reg := q }) 1000000
      passOver inj s = true) ∧
    (let s := withRegs [(.FE_BUF_WR, 0, 63), (.FE_BUF_RD, 0, 0xFFFFFFFF)] (feOf 0 0 { Fe.init with reg := { Seq.init with st := 2 } } 1000000)
     passOver false s = true ∧ (rget .FE_BUF_WR 0 0 s - rget .FE_BUF_RD 0 0 s).toNat = 2 ^ rfield .FE_BUF_CFG 0 0 4 0 s) ∧
    (∀ inj, let s := feOf 0x60FF0000 0x40010000 Fe.init (255 * 200000)
      rflag .FE_ADC_CTRL 0 0 31 s = true ∧ (trigSrc inj s = 2 ∨ trigSrc inj s = 3) ∧ s.pos.idle = false ∧
        rfield (trigReg inj) 0 0 23 16 s ≠ 0 ∧ (getSeq inj s).lastTrig + rfield (trigReg inj) 0 0 23 16 s * 200000 ≤ s.now) ∧
    (let s := feOf 0 0 { Fe.init with settled := false, refSince := some 0 } 40000
     s.fe.refSince = some 0 ∧ s.fe.settled = false ∧ 0 + settleClocks (rfield .FE_ADC_CTRL 0 0 1 0 s) ≤ s.now) ∧
    (∀ e ∈ [(none, 0), (some 0, 200000)], let s := feOf 0 0 { Fe.init with refinAt := e.1 } e.2
      feOn s = true ∧ ∀ t ∈ s.fe.refinAt.toList, t + 200000 ≤ s.now) := by decide +kernel

/-- DAC channel 7 in a mode, its default loaded or not. -/
def dacOf (mode : Nat) (ok : Bool) : State :=
  withRegs [(.FE_DAC_CTRL, 7, mode), (.FE_DAC_INC, 7, 0x100000), (.FE_DAC_WAVE, 7, 0x7FFF8000)]
    { up with fe := { Fe.init with dacs := [(7, { Dac.init with defaultOk := ok })] } }

theorem witness_DacsAndTriggerOutputs_dac :
    (∀ m ∈ [0, 1, 2], ∀ ok : Bool, let s := dacOf m ok
      feOn s = true ∧ s.now % 200 = 0 ∧ s.fe.updateAt ≠ some s.now ∧ (getDac 7 s).fault = false ∧ (getDac 7 s).clearPhase = false ∧
        dacMode 7 s = m ∧ (getDac 7 s).defaultOk = ok ∧ s.applies.find (regOff .FE_DAC_COMMIT 0 7) = none) ∧
    (let s := withRegs [(.FE_DAC_CTRL, 7, 0x5), (.FE_DAC_SUP, 7, 0xFFFF0000)] { up with now := 65535 * 200000 }
     rfield .FE_DAC_SUP 0 7 31 16 s ≠ 0 ∧ dacMode 7 s ≠ 0 ∧ rfield .FE_DAC_CTRL 0 7 5 2 s ≠ 0 ∧ (getDac 7 s).fault = false ∧
       calHoldsAdc s = false ∧ (getDac 7 s).lastCompare + rfield .FE_DAC_SUP 0 7 31 16 s * 200000 ≤ s.now) ∧
    hostReaches (regOff .FE_DAC_STATUS 0 7) up ∧ hostReaches (regOff .FE_TBL_DATA 0 0) up ∧ tblQuiesced up = true ∧
    Store.wf 0 up.fe.tbl = true := by unfold hostReaches; decide +kernel

theorem witness_DacsAndTriggerOutputs_trigger :
    (∀ b ∈ [0, 5], let s := withRegs [(.FE_PWM_CFG, 15, 1), (.FE_PWM_A, 15, 1000), (.FE_PWM_B, 15, b)] { up with now := 1000 }
      trigMode 15 s = 1 ∧ (getTrig 15 s).periodStart + max 1 (rget .FE_PWM_A 0 15 s).toNat ≤ s.now ∧
        s.applies.find (regOff .FE_PWM_COMMIT 0 15) = none ∧ rget .FE_PWM_B 0 15 s = BitVec.ofNat 32 b) ∧
    (let s := withRegs [(.FE_PWM_CFG, 15, 1)] { up with fe := { Fe.init with trigs := [(15, { Trig.init with active := true, pulseEnd := 5 })] }, now := 5 }
     trigMode 15 s ≤ 1 ∧ (getTrig 15 s).active = true ∧ (getTrig 15 s).pulseEnd ≤ s.now) ∧
    (let s := withRegs [(.FE_PWM_CFG, 15, 2)] { up with fe := { Fe.init with trigs := [(15, { Trig.init with active := true, pulseEnd := 5 })] }, now := 5 }
     ¬ trigMode 15 s ≤ 1 ∧ s.applies.find (regOff .FE_PWM_COMMIT 0 15) = none ∧ (getTrig 15 s).active = true ∧
       (getTrig 15 s).pulseEnd ≤ s.now) := by decide +kernel

/-! ### Witnesses: calibration -/

/-- A device with a calibration procedure. -/
def calibrating (r : CalRun) : State := { up with cal := { Cal.init with run := some r } }

/-- Measurements that agree, and a good read-back. -/
def measured : CalMeasure := ⟨[], [], 2500000, 2500000, [], [], [], true, []⟩

theorem witness_CalibrationProcedures_start : hostReaches (regOff .CAL_CTRL 0 0) up ∧
    (∀ e ∈ [(1, 0), (2, 35), (4, 4095), (5, 0)], let v : Word := BitVec.ofNat 32 (2 ^ 31 + 65536 * e.2 + e.1)
      flagOf 31 v = true ∧ fieldOf 3 0 v = e.1 ∧ writeOk .CAL_CTRL 0 0 v up = true ∧ calBusy up = false ∧
        up.cal.pendingSlot = none ∧ calValid e.1 (fieldOf 27 16 v) up = true) ∧
    (let s := { up with cal := { Cal.init with zero := some (35, []) } }
     let v : Word := BitVec.ofNat 32 (2 ^ 31 + 65536 * 35 + 3)
     flagOf 31 v = true ∧ fieldOf 3 0 v = 3 ∧ writeOk .CAL_CTRL 0 0 v s = true ∧ calBusy s = false ∧ s.cal.pendingSlot = none ∧
       calValid 3 (fieldOf 27 16 v) s = true) := by unfold hostReaches; decide +kernel

/-- A procedure, with its casks held or not. -/
def calRun (scope target : Nat) (holding : Bool) : CalRun := ⟨scope, target, 2048000, 2048000, 0, holding, 0, false, none⟩

theorem witness_CalibrationProcedures_run :
    (let r := calRun 4 4095 false
     (calibrating r).cal.run = some r ∧ r.holding = false ∧
       ∀ j, j < 16 → (getCask (16 * (r.target / 16) + j) (calibrating r)).hold = none) ∧
    (let r := calRun 5 0 false
     let s := { calibrating r with casks := [(7, { Cask.init with hold := some .cal })] }
     s.cal.run = some r ∧ r.holding = false ∧ ∀ e ∈ s.casks, e.2.hold = none ∨ e.2.hold = some .cal) ∧
    (∀ e ∈ [(1, 0), (2, 35), (3, 35)], let r := calRun e.1 e.2 true
      (calibrating r).cal.run = some r ∧ r.aborted = false ∧ r.scope ≤ 3 ∧ calResult r measured (calibrating r) = 0 ∧ r.holding = true ∧
        measured.readback = true) ∧
    (let r := { calRun 1 0 true with aborted := true }
     (calibrating r).cal.run = some r ∧ r.aborted = true ∧ ∀ c ∈ calReads r (calibrating r), (getCask c (calibrating r)).probe .refRead = none) ∧
    (let r := { calRun 4 4095 true with sourceUv := 1000000 }
     (calibrating r).cal.run = some r ∧ r.holding = true ∧ r.aborted = false ∧ refcalBad r = true ∧
       calResult r measured (calibrating r) ≠ 0) := by decide +kernel

/-- Cask 4095 held for its calibration, its reference read of a state. -/
def calibratingCask (r : CalRun) (running : List RunOp) : State :=
  { calibrating r with casks := [(4095, { racked with hold := some .cal, running := running })] }

theorem witness_CalibrationProcedures_reads :
    (∀ e ∈ [(4, 4095), (5, 0)], let r := calRun e.1 e.2 true
      let s := calibratingCask r []
      r.aborted = false ∧ r.holding = true ∧ refcalBad r = false ∧ r.trimmed = none ∧ calReads r s = [4095] ∧
        readsDone [4095] s = false ∧ (getCask 4095 s).quiet = true) ∧
    (let r := calRun 4 4095 true
     let s := calibratingCask r [probeRun .refRead 1]
     let read := calReadAll [4095] s
     s.cal.run = some r ∧ calReads r s = [4095] ∧ readsDone [4095] s = true ∧ calResult r measured read.2 = 0 ∧
       (getCask 4095 read.2).quiet = true ∧ calResult r { measured with casks := [⟨4095, [(100, 101)], (3, 5)⟩] } read.2 = 0 ∧
       let r := { r with trimmed := some (measured, []) }
       let s := calibratingCask r [probeRun .refRead 1]
       s.cal.run = some r ∧ readsDone (calReads r s) s = true ∧ calResult r measured (calReadAll (calReads r s) s).2 = 0 ∧
         measured.readback = true) ∧
    (let r := calRun 5 0 true
     calReads r (calibrating r) = [] ∧ readsDone [] (calibrating r) = true) := by decide +kernel

/-! ### Witnesses: hangs -/

/-- A packet in flight on ring 0 whose thread waits in rack 255. -/
def stalled (now : Nat) : State := { up with
  rings := [(0, ringWith (packet kernelPacket))]
  threads := [(255 * 64 + 63, { ready with st := .waitSync, pkt := some ⟨0, 0⟩ })]
  now := now }

theorem witness_HangsOpenIncidents :
    (let s := stalled (10 * 200000)
     let k := getThread 255 63 s
     rflag .HG_CTRL 0 0 0 s = true ∧ k.st = .waitSync ∧
       budgetAt 0 k.since (rfield .HG_THREAD_BUDGET 0 0 15 0 s) s * 200000 ≤ elapsed 0 k.since 0 s) ∧
    (let s := stalled (100 * 200000)
     let r := getRing 0 s
     rflag .HG_CTRL 0 0 1 s = true ∧ ringCounts 0 r s = true ∧
       budgetAt 1 r.progress (rfield .HG_RING_BUDGET 0 0 19 0 s) s * 200000 ≤ elapsed 1 r.progress r.paused s ∧ s.hang.incident = none ∧
       stalledEngines (flying 0 r) s ≠ []) ∧
    (let s := { up with casks := [(0, { Cask.init with running := [running] })], now := 50 * 200 }
     let k := getCask 0 s
     rflag .HG_CTRL 0 0 2 s = true ∧ caskCounts 0 k s = true ∧ s.hang.incident = none ∧
       budgetAt 2 k.progress (rfield .HG_CASK_BUDGET 0 0 15 0 s) s * 200 ≤ elapsed 2 k.progress k.paused s) := by decide +kernel

/-- An incident on rack 255 in a phase. -/
def incident (phase : Nat) (dumped : Bool) : Incident := ⟨[⟨1, 255⟩], false, phase, [⟨0, 0⟩], [⟨0, 0⟩], none, 0, 0, dumped, 0, 0, 0, 0⟩

/-- That stalled device in the incident, with the dump mode. -/
def recovering (i : Incident) (mode : Nat) : State :=
  withRegs [(.HG_CTRL, 0, 0x507 + 16 * mode)] { stalled (255 * 200000) with hang := { Hang.init with incident := some i } }

/-- Two incidents found in one step clock, the second on an engine of the first. -/
theorem witness_HangsOpenIncidents_begin :
    let i := incident 1 false
    let k := { incident 1 false with engines := [⟨0, 4095⟩], fromCask := true }
    let s := { stalled 5 with hang := { Hang.init with detected := [i, k] } }
    s.pending = [] ∧ s.hang.incident = none ∧ s.hang.detected = i :: [k] ∧ s.pos.dist < (rget .POS_FRAME_LEN 0 0 s).toNat ∧
      (∀ e ∈ k.engines, ∃ f ∈ i.engines, e.inside f = true) ∧ ⟨0, 0⟩ ∈ allFlying s ∧ ⟨0, 0⟩ ∈ i.suspects := by decide +kernel

theorem witness_IncidentsRunTheirCourse :
    (let s := recovering (incident 1 false) 2
     s.hang.incident = some (incident 1 false) ∧ wantsDump s = true ∧
       (incident 1 false).frozenAt + rfield .HG_DUMP_CFG 0 0 23 16 s * 200000 ≤ s.now) ∧
    (let s := recovering (incident 1 false) 0
     s.hang.incident = some (incident 1 false) ∧ wantsDump s = false ∧ (∀ e ∈ (incident 1 false).engines, e.domain ≤ 2)) ∧
    (let s := recovering (incident 3 true) 0
     s.hang.incident = some (incident 3 true) ∧ (incident 3 true).waiting = ⟨0, 0⟩ :: [] ∧ (incident 3 true).replaying = none ∧
       s.hang.resets = [] ∧ ⟨0, 0⟩ ∈ allFlying s) := by decide +kernel

/-- A device with an engine in reset since step clock 0. -/
def resetting (e : Engine) (now : Nat) : State := { up with hang := { Hang.init with resets := [(e, false, 0)] }, now := now }

theorem witness_ResetsEscalateAndTheHostResets :
    (let s := resetting ⟨0, 4095⟩ 0
     s.hang.resets ≠ [] ∧ (∃ x ∈ s.hang.resets, x.1.coversCask (4095 : CaskId).val = true) ∧ (getCask 4095 s).racked = false ∧
       (getCask 4095 s).incomplete = false) ∧
    (∀ e ∈ [((⟨0, 4095⟩ : Engine), 800), (⟨1, 255⟩, 4000), (⟨2, 3⟩, 30000)], let s := resetting e.1 e.2
      warmOverdue s = false ∧ s.hang.resets.find? (fun x => resetOverdue x s) = some (e.1, false, 0) ∧ s.hang.flush = []) ∧
    (let s := resetting ⟨2, 3⟩ 20001
     let s := { s with hang := { s.hang with flush := [3] } }
     s.hang.resets.find? (fun x => resetOverdue x s) = some (⟨2, 3⟩, false, 0) ∧ s.hang.resets ≠ [] ∧ s.hang.flush ≠ [] ∧
       Mem.wf s.mem = true ∧ ∀ e ∈ s.mem.csec, e.2.par = parityOf e.2.data) ∧
    warmOverdue { State.reset with pm := { Pm.init with warm := true }, now := 410000 + 200000 * 253 } = true ∧
    (let s := stalled 0
     let v : Word := BitVec.ofNat 32 (2 ^ 31 + 65536 + 255)
     let e : Engine := ⟨fieldOf 18 16 v, fieldOf 11 0 v⟩
     hostReaches (regOff .HG_RESET 0 0) s ∧ flagOf 31 v = true ∧ e.domain ≤ 2 ∧ unitOk e.domain e.unit = true ∧
       inRecovery e s = false ∧ findPkt ⟨0, 0⟩ s = some (packet kernelPacket) ∧ (packet kernelPacket).complete = false ∧
       engineHas e ⟨0, 0⟩ s = true ∧ e.coversCask (4095 : CaskId).val = true) ∧
    (hostReaches (regOff .HG_RESUME 0 0) up ∧ flagOf 31 (0xC0000000 : Word) = true ∧ flagOf 30 (0xC0000000 : Word) = true ∧
      flagOf 31 (0x80020003 : Word) = true ∧ fieldOf 18 16 (0x80020003 : Word) ≤ 2 ∧
      unitOk (fieldOf 18 16 (0x80020003 : Word)) (fieldOf 11 0 (0x80020003 : Word)) = true) := by unfold hostReaches; decide +kernel

/-! ### Witnesses: resets, supplies, power domains -/

theorem witness_DeviceResetsWipe : up.px.linkUp = true ∧ hostReaches (regOff .HG_RESET 0 0) up ∧
    (∀ v ∈ [0x80030000, 0x80040000], flagOf 31 (BitVec.ofNat 32 v) = true ∧
      (fieldOf 18 16 (BitVec.ofNat 32 v) = 3 ∨ fieldOf 18 16 (BitVec.ofNat 32 v) = 4)) ∧
    { up with pm := { up.pm with rails := false } }.pm.rails = false ∧ Rail.vddio ≠ Rail.vpp := by unfold hostReaches; decide +kernel

theorem witness_ResetsOfTheClockOfRecord :
    (let s := recovering (incident 1 false) 0
     s.hang.incident = some (incident 1 false) ∧ ∀ e ∈ (incident 1 false).engines, e.domain ≤ 2) ∧
    (let s := resetting ⟨1, 255⟩ 4000
     warmOverdue s = false ∧ s.hang.resets.find? (fun x => resetOverdue x s) = some (⟨1, 255⟩, false, 0)) ∧
    (flagOf 31 (0x80020003 : Word) = true ∧ fieldOf 18 16 (0x80020003 : Word) ≤ 2) ∧
    (let s := clocked { Pos.init with count := 0xFFFFFFFFFFFF } 0
     accepted 1000 s = true ∧ s.pos.src = 0 ∧ (xor (true != s.pos.a) (false != s.pos.b)) = true) := by decide +kernel

theorem witness_SuppliesAndPins :
    (linkRate 8 5 = true ∧ linkRate 1 1 = true) ∧ (up.px.perst = false ∧ up.pm.pcieEn = true ∧ up.pm.coldHold = false ∧ up.pm.rails = true) ∧
    (let s := { up with pm := { up.pm with coldHold := true } }
     s.pm.rails = true ∧ s.pm.coldHold = true ∧ s.pm.testEn = false ∧ s.pm.thermTrip = false) ∧
    { up with pm := { up.pm with testEn := true } }.pm.testEn = true ∧ up.pm.vppOk = true ∧
    (∀ fw : Bool, let s := { up with pm := { up.pm with vppOk := false, fwReady := fw }, casks := [(0, { Cask.init with inReset := true, incomplete := true })] }
     s.pm.vppOk = false ∧ s.pm.rails = true ∧ s.pm.eraseDue = none ∧ s.pm.fwReady = fw ∧ (getCask 0 s).inReset = true ∧
       (getCask 0 s).incomplete = true) ∧
    (∃ t ∈ [(100 : Int)], (100 : Int) ≤ t) ∧ (∀ t ∈ [(94 : Int)], t < 100 - 5) ∧
    ((∀ t ∈ [(95 : Int)], t < 100) ∧ ∃ t ∈ [(95 : Int)], (100 : Int) - 5 ≤ t) := by decide +kernel

/-- A device with a set of domains off and others going off or on. -/
def domains (off goingOff' goingOn : KeySet) : State :=
  { up with pm := { up.pm with domainOff := off, goingOff := goingOff', goingOn := goingOn } }

theorem witness_PowerDomainsSwitch_ask :
    (hostReaches (regOff .PM_ON 0 (67 / 32)) up ∧ switched 67 = true ∧ domainIsOff 67 up = false ∧ goingOff 67 up = false ∧
      mayTurnOff 67 up = true ∧ mayTurnOff 71 up = true ∧ mayTurnOff 72 up = false ∧ switched 72 = true ∧ switched 73 = false) ∧
    (let s := domains [(79, ())] [] []
     hostReaches (regOff .PM_ON 0 (79 / 32)) s ∧ switched 79 = true ∧ domainIsOff 79 s = true ∧ goingOff 79 s = false) ∧
    (let s := domains [] [(79, ())] []
     hostReaches (regOff .PM_ON 0 (79 / 32)) s ∧ goingOff 79 s = true) ∧
    (let s := domains [(71, ())] [] [(71, ())]
     let s := { s with casks := [(4095, racked)] }
     s.pm.goingOn.has 71 = true ∧ 4095 / 1024 = 71 - 68 ∧ (getCask 4095 s).racked = true ∧ (getCask 4095 s).hold = none) := by unfold hostReaches; decide +kernel

theorem witness_PowerDomainsSwitch_on (n : Nat) (h : n ∈ [0, 64, 71, 72, 79]) :
    let s := domains [(n, ())] [] [(n, ())]
    s.pm.goingOn.has n = true ∧ Store.risesFrom 0 s.pm.domainOff = true ∧ nthD none 7 s.pm.dacDefaults = some 0 := by
  have : ∀ n ∈ [0, 64, 71, 72, 79], let s := domains [(n, ())] [] [(n, ())]
    s.pm.goingOn.has n = true ∧ Store.risesFrom 0 s.pm.domainOff = true ∧ nthD none 7 s.pm.dacDefaults = some 0 := by decide +kernel
  exact this n h

/-! ### Witnesses: boot, life cycle, attestation, journal -/

/-- SHA-384 of the empty message (FIPS 180-4's own example set). -/
theorem test_sha384_empty : leAt 0 8 (sha384 []) = 0x3896ac51a760b038 := by decide +kernel

/-- An LMS public key of typecodes 6 and 4, its other bytes zero (LMS_SHA256_M32_H10, LMOTS_SHA256_N32_W8). -/
def lmsKey : List Byte := [0, 0, 0, 6, 0, 0, 0, 4] ++ List.replicate 48 0
/-- A signature of those typecodes. -/
def lmsSig : List Byte := [0, 0, 0, 0, 0, 0, 0, 4] ++ List.replicate (32 * 35) 0 ++ [0, 0, 0, 6] ++ List.replicate 2412 0

/-- A firmware image of a payload of 32 zeros. -/
def image : List Byte :=
  ([0x43, 0x46, 0x57, 0x49] : List Nat).map (BitVec.ofNat 8) ++ leBytes 8 0 ++ leBytes 4 32 ++ sha384 (List.replicate 32 0) ++
    List.replicate 320 0 ++ lmsKey ++ List.replicate (160 - 56) 0 ++ lmsSig ++ List.replicate 8 0 ++ List.replicate 32 0

/-- A part with the key hash of that image's keys, at the start of its boot flow. -/
def booting (stage : Nat) (bootSrc : Bool) : State := { up with
  pm := { up.pm with
    fwReady := false
    stage := stage
    bootSrc := bootSrc
    keyHash := [sha384 (List.replicate 128 0 ++ lmsKey ++ List.replicate 8 0), [], [], []] } }

theorem imgCheck_image (p : Pm) (hk : p.keyHash = (booting 0 true).pm.keyHash) (hr : p.revoked = 0) (hn : p.svnMin = 0)
    (e : Config.ecdsaOk (imgField 256 97 image) (sha384 (imgField 0 256 image)) (imgField 448 96 image) = true)
    (l : Config.lmsOk (imgField 384 56 image) (imgField 0 256 image) (imgField 544 3552 image) = true) : imgCheck image p = 0 := by
  have a : imgField 0 4 image = ([0x43, 0x46, 0x57, 0x49] : List Nat).map (BitVec.ofNat 8) ∧ imgLength image = 32 ∧ byteAt 9 image = 0 := by
    decide +kernel
  have k : sha384 (imgField 256 192 image) = nthD [] 0 (booting 0 true).pm.keyHash := by decide +kernel
  have d : imgField 16 48 image = sha384 (imgPayload image) := by decide +kernel
  have y : lmsTypes image = true := by decide +kernel
  unfold imgCheck
  rw [a.2.1, a.2.2, hk, hr, hn, y]
  simp only [a.1, ← k, e, l, ← d]
  have b : bitAt 0 0 = false := by decide
  simp [b]

/-- That part at a place of its boot flow. -/
def bootingAt (stage step : Nat) (f : Pm → Pm) : State :=
  { booting stage true with pm := f { (booting stage true).pm with bootStep := step } }

theorem witness_BootTakesAVerifiedImage :
    (∀ src : Bool, let s := booting 0 src
      mayBoot s = true ∧ s.pm.stage = 0 ∧ s.pm.bootSrc = src ∧ s.pm.lost = 0 ∧ s.pm.waiting.length ≤ 64 ∧ s.pm.nextSeq + 64 < 2 ^ 32) ∧
    (let s := bootingAt 2 0 id
     mayBoot s = true ∧ s.pm.stage = 2 ∧ s.pm.bootImg ≠ 2 ∧ copyCheck none s.pm ≠ 0 ∧ copyCheck (some []) s.pm ≠ 0) ∧
    (let s := bootingAt 2 0 fun p => { p with bootImg := 2 }
     mayBoot s = true ∧ s.pm.stage = 2 ∧ s.pm.bootImg = 2 ∧ imgCheck (hostImage s) s.pm ≠ 0) ∧
    (∀ e ∈ [(none, true), (none, false), (some (1, 2), true), (some (1, 2), false)],
      let s := bootingAt 3 7 fun p => { p with eraseDue := e.1, vppOk := e.2 }
      mayBoot s = true ∧ s.pm.stage = 3 ∧ s.pm.bootStep = 7 ∧ s.pm.eraseDue = e.1 ∧ s.pm.vppOk = e.2 ∧ s.pm.nextSeq < 2 ^ 32) ∧
    (∀ vpp : Bool, let s := { bootingAt 3 8 (fun p => { p with vppOk := vpp }) with casks := [(0, { racked with incomplete := true })] }
      mayBoot s = true ∧ s.pm.stage = 3 ∧ s.pm.bootStep = 8 ∧ (∃ x ∈ s.casks, x.2.incomplete = true) ∧ s.pm.vppOk = vpp) ∧
    (∀ e ∈ [([], false), ([probeRun .refRead 1], true)],
      let s := { bootingAt 3 9 id with casks := [(0, { racked with running := e.1 })] }
      mayBoot s = true ∧ s.pm.stage = 3 ∧ s.pm.bootStep = 9 ∧ readsDone (rackedCasks s) s = e.2) ∧
    (∀ stage ∈ [1, 2], let s := bootingAt stage 0 id
      mayBoot s = true ∧ s.pm.stage = stage ∧ hostReaches (regOff .BOOT_CMD 0 0) s) := by unfold hostReaches; decide +kernel

theorem witness_BootTakesAVerifiedImage_image
    (e : Config.ecdsaOk (imgField 256 97 image) (sha384 (imgField 0 256 image)) (imgField 448 96 image) = true)
    (l : Config.lmsOk (imgField 384 56 image) (imgField 0 256 image) (imgField 544 3552 image) = true) :
    imgCheck image (booting 0 true).pm = 0 := imgCheck_image _ rfl rfl rfl e l

theorem witness_LibraryBaseMoves :
    (hostReaches (regOff .LIB_BASE_LO 0 0) up ∧ rangeOk .LIB_BASE_LO 0x4000000 = true ∧
      libBase up / 2 ^ 32 * 2 ^ 32 + (0x4000000 : Word).toNat ≠ libBase up ∧ allDisabled up = true) ∧
    (hostReaches (regOff .LIB_BASE_HI 0 0) up ∧ rangeOk .LIB_BASE_HI 1 = true ∧
      libBase up % 2 ^ 32 + 2 ^ 32 * (1 : Word).toNat ≠ libBase up) ∧
    allDisabled (ringOf ring) = false := by unfold hostReaches; decide +kernel

theorem witness_MinimumSvnOnlyRises : hostReaches (regOff .LC_SVN 0 0) up ∧ fieldOf 31 16 (0x53560000 : Word) = 0x5356 ∧
    { up with pm := { up.pm with svn := 255, svnMin := 254 } }.pm.svnMin < { up with pm := { up.pm with svn := 255 } }.pm.svn ∧
    up.pm.svn ≤ up.pm.svnMin ∧ fieldOf 31 16 (0x4C430000 : Word) ≠ 0x5356 ∧ (∃ u, step up = .next u ∧ up.pm.svnMin ≤ u.pm.svnMin) :=
  ⟨by unfold hostReaches; decide +kernel, by decide, by decide, by decide, by decide, _, rfl, by decide +kernel⟩

theorem witness_LifeCycleAndColdErase : hostReaches (regOff .LC_REQ 0 0) up ∧ hostReaches (regOff .LC_ERASE 0 0) up ∧
    (∀ e ∈ [(0, 1), (1, 2), (2, 3), (3, 2), (3, 4)], lcAllowed e.1 e.2 { up.pm with lcState := e.1 } = true ∧
      fieldOf 31 16 (BitVec.ofNat 32 (0x4C430000 + e.2)) = 0x4C43 ∧ fieldOf 3 0 (BitVec.ofNat 32 (0x4C430000 + e.2)) = e.2) ∧
    lcAllowed 1 3 up.pm = false ∧ fieldOf 31 16 (0x43450001 : Word) ≠ 0x4C43 ∧ fieldOf 31 16 (0x4C430001 : Word) ≠ 0x4345 ∧
    { up.pm with vppOk := false }.vppOk = false ∧ up.pm.eraseDue = none ∧ up.pm.vppOk = true ∧ fieldOf 31 16 (0x43450000 : Word) = 0x4345 ∧
    allDisabled up = true ∧ (∀ e ∈ up.casks, e.2.hold = none) ∧ allDisabled (ringOf ring) = false := by
  unfold hostReaches; decide +kernel

/-- Cask 0 held for a cold erase, its credit asked for or held. -/
theorem witness_LifeCycleAndColdErase_credit :
    (let s := { caskOf { racked with hold := some .erase } with ledger := { up.ledger with vppQueue := [0] } }
     (getCask 0 s).hold = some .erase ∧ vppSentAt 0 s = none ∧ s.ledger.vppQueue = 0 :: [] ∧
       s.ledger.vppHeld.length < rfield .LG_VPP_LIMIT 0 0 6 0 s ∧ 0 ∉ s.ledger.vppHeld ∧ s.pm.vppOk = true) ∧
    let s := { caskOf { racked with hold := some .erase } with ledger := { up.ledger with vppHeld := [0] }, pm := { up.pm with vppOk := false } }
    (getCask 0 s).hold = some .erase ∧ vppSentAt 0 s = none ∧ 0 ∈ s.ledger.vppHeld ∧ s.pm.vppOk = false ∧ s.pm.rails = true ∧
      s.pm.fwReady = true ∧ s.pm.eraseDue = none ∧ (getCask 0 s).inReset = false := by decide +kernel

theorem witness_AttestationUsesLeaves : hostReaches (regOff .AT_CMD 0 0) up ∧ up.pm.atRun = none ∧ attestBuf up + 4096 ≤ usable up ∧
    up.pm.leaf < 1048576 ∧ 1048576 ≤ { up.pm with leaf := 1048576 }.leaf ∧
    { up with pm := { up.pm with atRun := some (true, []) } }.pm.atRun = some (true, []) := by unfold hostReaches; decide +kernel

/-- A journal entry of no register. -/
def entry : JEntry := ⟨6, 0, 0, 0, 0, 0, 0, 0, 0, 0, 0⟩

theorem witness_JournalEntriesAreKeptAndSelected :
    (let s := { up with pm := { up.pm with waiting := [entry], nextSeq := 4096 } }
     s.pm.waiting = entry :: [] ∧ s.pm.nextSeq < 2 ^ 32 ∧ s.pm.lost = 0) ∧
    (∀ n ∈ [63, 64], let rest := List.replicate n entry
      let s := { up with pm := { up.pm with waiting := entry :: rest, lost := 3 } }
      s.pm.waiting = entry :: rest ∧ 0 < s.pm.lost ∧ (rest.length < 64 ↔ n = 63) ∧ ∀ w ∈ rest, w.kind ≠ 9) ∧ hostReaches (regOff .JR_SEL 0 0) up ∧
    (let s := { up with pm := { up.pm with journal := [(0, journalBytes 4096 entry)] } }
     journalHeld (4096 : Word).toNat s = some (journalBytes 4096 entry) ∧ journalHeld (0 : Word).toNat s = none) := by
  unfold hostReaches; decide +kernel

theorem witness_SkovfaWordsDecodeToTheirInstruction : issuerOf (.skVfma 255 63 .bf16 31 30 29 7 true) = some (255, 63) ∧
    (Instr.skVfma 255 63 .bf16 31 30 29 7 true).wf = true := by decide

theorem witness_StepsKeepMemoryCanonical : Mem.wf State.reset.mem = true ∧ ∃ u, step State.reset = .next u :=
  ⟨by decide, _, rfl⟩

end Sys2Proof.Tests
end

section
/-! SUPPORT. Register accesses, commit groups and the host link: the statements of the scope chapter, with the laws they rest on. -/

namespace Sys2Proof.Machine

/-! ### Fields of a word -/

theorem testBit_fieldOf (hi lo : Nat) (w : Word) (i : Nat) :
    (fieldOf hi lo w).testBit i = (decide (i < hi + 1 - lo) && w.toNat.testBit (lo + i)) := by
  simp only [fieldOf, bits, Nat.testBit_mod_two_pow, Nat.testBit_div_two_pow, Nat.add_comm]

/-- A word is its bits above a field, the field and its bits below. -/
theorem toNat_eq_runs (hi lo : Nat) (w : Word) :
    w.toNat = 2 ^ lo * (2 ^ (hi + 1 - lo) * (w.toNat / 2 ^ lo / 2 ^ (hi + 1 - lo)) + bits hi lo w.toNat) + w.toNat % 2 ^ lo := by
  rw [bits, Nat.div_add_mod, Nat.div_add_mod]

/-- The same of a word with the field replaced. -/
theorem toNat_setField {hi lo : Nat} (v : Nat) (w : Word) (h : lo ≤ hi) (h32 : hi < 32) :
    (setField hi lo v w).toNat =
      2 ^ lo * (2 ^ (hi + 1 - lo) * (w.toNat / 2 ^ lo / 2 ^ (hi + 1 - lo)) + v % 2 ^ (hi + 1 - lo)) + w.toNat % 2 ^ lo := by
  have hv : v % 2 ^ (hi + 1 - lo) < 2 ^ (hi + 1 - lo) := Nat.mod_lt _ (by positivity)
  have hl : w.toNat % 2 ^ lo < 2 ^ lo := Nat.mod_lt _ (by positivity)
  have hw := toNat_eq_runs hi lo w
  have hp : 2 ^ lo * 2 ^ (hi + 1 - lo) * 2 ^ (31 - hi) = 2 ^ 32 := by
    rw [← pow_add, ← pow_add]; congr 1; omega
  have hA : w.toNat / 2 ^ lo / 2 ^ (hi + 1 - lo) < 2 ^ (31 - hi) := by
    rw [Nat.div_div_eq_div_mul, Nat.div_lt_iff_lt_mul (by positivity), mul_comm, hp]
    exact w.isLt
  have e : setField hi lo v w = BitVec.ofNat 32
      (2 ^ lo * (2 ^ (hi + 1 - lo) * (w.toNat / 2 ^ lo / 2 ^ (hi + 1 - lo)) + v % 2 ^ (hi + 1 - lo)) + w.toNat % 2 ^ lo) := by
    unfold setField
    congr 1
    generalize w.toNat / 2 ^ lo / 2 ^ (hi + 1 - lo) = a at *
    generalize v % 2 ^ (hi + 1 - lo) = x at *
    generalize bits hi lo w.toNat = b at *
    generalize w.toNat % 2 ^ lo = c at *
    rw [hw, mul_comm b, mul_comm x, mul_add, mul_add]
    omega
  rw [e, BitVec.toNat_ofNat, Nat.mod_eq_of_lt]
  generalize w.toNat / 2 ^ lo / 2 ^ (hi + 1 - lo) = a at *
  rw [← hp]
  calc _ < 2 ^ lo * (2 ^ (hi + 1 - lo) * a + v % 2 ^ (hi + 1 - lo)) + 2 ^ lo := by omega
    _ = 2 ^ lo * (2 ^ (hi + 1 - lo) * a + v % 2 ^ (hi + 1 - lo) + 1) := by ring
    _ ≤ 2 ^ lo * (2 ^ (hi + 1 - lo) * (a + 1)) := by gcongr; rw [mul_add]; omega
    _ ≤ 2 ^ lo * (2 ^ (hi + 1 - lo) * 2 ^ (31 - hi)) := by gcongr; omega
    _ = _ := by ring

/-- A word with a field replaced has the value's bits in the field and its own bits elsewhere. -/
theorem testBit_setField {hi lo : Nat} (v : Nat) (w : Word) (h : lo ≤ hi) (h32 : hi < 32) (i : Nat) :
    (setField hi lo v w).toNat.testBit i = if lo ≤ i ∧ i ≤ hi then v.testBit (i - lo) else w.toNat.testBit i := by
  rw [toNat_setField v w h h32, Nat.testBit_two_pow_mul_add _ (Nat.mod_lt _ (by positivity)),
    Nat.testBit_two_pow_mul_add _ (Nat.mod_lt _ (by positivity))]
  simp only [Nat.testBit_mod_two_pow, Nat.testBit_div_two_pow]
  rcases lt_or_ge i lo with below | above
  · simp [below, Nat.not_le.mpr below]
  · rcases lt_or_ge hi i with past | inside
    · rw [if_neg (by omega), if_neg (by omega), if_neg (by omega)]
      congr 1
      omega
    · rw [if_neg (by omega), if_pos (by omega), if_pos ⟨above, inside⟩, decide_eq_true (by omega), Bool.true_and]

/-- A field that was replaced reads as the value, cut to its width. -/
theorem fieldOf_setField_same {hi lo : Nat} (v : Nat) (w : Word) (h : lo ≤ hi) (h32 : hi < 32) :
    fieldOf hi lo (setField hi lo v w) = v % 2 ^ (hi + 1 - lo) := by
  refine Nat.eq_of_testBit_eq fun i => ?_
  rw [testBit_fieldOf, testBit_setField v w h h32, Nat.testBit_mod_two_pow]
  by_cases hi' : i < hi + 1 - lo
  · rw [if_pos (by omega), Nat.add_sub_cancel_left]
  · simp [hi']

/-- A field reads as before when a field apart from it is replaced. -/
theorem fieldOf_setField_apart {hi lo a b : Nat} (v : Nat) (w : Word) (h : lo ≤ hi) (h32 : hi < 32) (d : a < lo ∨ hi < b) :
    fieldOf a b (setField hi lo v w) = fieldOf a b w := by
  refine Nat.eq_of_testBit_eq fun i => ?_
  rw [testBit_fieldOf, testBit_fieldOf, testBit_setField v w h h32]
  by_cases hi' : i < a + 1 - b
  · rw [if_neg (by omega)]
  · simp [hi']

theorem fieldOf_fieldOf_mod (hi lo : Nat) (w : Word) : fieldOf hi lo w % 2 ^ (hi + 1 - lo) = fieldOf hi lo w :=
  Nat.mod_eq_of_lt (fieldOf_lt hi lo w)

theorem flagOf_eq_field (b : Nat) (w : Word) : flagOf b w = decide (fieldOf b b w = 1) := by
  have e : b + 1 - b = 1 := by omega
  simp [flagOf, bitAt, fieldOf, bits, e, beq_eq_decide]

@[simp] theorem flagOf_setFlag_same {b : Nat} (v : Bool) (w : Word) (h : b < 32) : flagOf b (setFlag b v w) = v := by
  have e : b + 1 - b = 1 := by omega
  rw [flagOf_eq_field, setFlag, fieldOf_setField_same _ _ le_rfl h, e]
  cases v <;> rfl

theorem flagOf_setFlag_ne {a b : Nat} (v : Bool) (w : Word) (h : b < 32) (d : a ≠ b) : flagOf a (setFlag b v w) = flagOf a w := by
  rw [flagOf_eq_field, setFlag, fieldOf_setField_apart _ _ le_rfl h (by omega), ← flagOf_eq_field]

/-! ### The fields of a register -/

/-- Two fields share no bit. -/
def RegField.Apart (f g : RegField) : Prop := g.hi < f.lo ∨ f.hi < g.lo

/-- The fields of every register lie inside its word (the register tables of all chapters). -/
theorem fields_fit (n : RegName) : ∀ f ∈ n.desc.fields, f.lo ≤ f.hi ∧ f.hi < 32 := by
  cases n <;> decide

/-- No two fields of a register share a bit. -/
theorem fields_apart (n : RegName) : n.desc.fields.Pairwise RegField.Apart := by
  unfold RegField.Apart
  cases n <;> decide

/-- A word changed field by field, where a change of one field is seen in no other: each field is what its own change makes of it. -/
theorem fieldOf_foldl {fs : List RegField} (step : Word → RegField → Word)
    (alone : ∀ w, ∀ g ∈ fs, ∀ f, g.Apart f → fieldOf f.hi f.lo (step w g) = fieldOf f.hi f.lo w)
    (ap : fs.Pairwise RegField.Apart) {f : RegField} (hf : f ∈ fs) {x : Nat} (old : Word)
    (own : ∀ w, fieldOf f.hi f.lo w = fieldOf f.hi f.lo old → fieldOf f.hi f.lo (step w f) = x) :
    fieldOf f.hi f.lo (fs.foldl step old) = x := by
  have later : ∀ gs : List RegField, (∀ g ∈ gs, g ∈ fs ∧ g.Apart f) → ∀ w,
      fieldOf f.hi f.lo (gs.foldl step w) = fieldOf f.hi f.lo w := by
    intro gs
    induction gs with
    | nil => exact fun _ _ => rfl
    | cons g gs ih =>
      intro h w
      obtain ⟨hg, hgs⟩ := List.forall_mem_cons.mp h
      exact (ih hgs _).trans (alone w g hg.1 f hg.2)
  obtain ⟨as, bs, rfl⟩ := List.append_of_mem hf
  obtain ⟨-, hb, hab⟩ := List.pairwise_append.mp ap
  have before : ∀ g ∈ as, g ∈ as ++ f :: bs ∧ g.Apart f := fun g hg => ⟨by simp [hg], hab g hg f (by simp)⟩
  have after : ∀ g ∈ bs, g ∈ as ++ f :: bs ∧ g.Apart f := fun g hg =>
    ⟨by simp [hg], (List.rel_of_pairwise_cons hb hg).symm⟩
  rw [List.foldl_append, List.foldl_cons, later bs after, own _ (later as before old)]

theorem write_apart {f g : RegField} (keep : Bool) (v w : Word) (fit : g.lo ≤ g.hi ∧ g.hi < 32) (d : g.Apart f) :
    fieldOf f.hi f.lo (g.write keep v w) = fieldOf f.hi f.lo w := by
  unfold RegField.write
  split
  · split
    · rfl
    · exact fieldOf_setField_apart _ _ fit.1 fit.2 d
  · exact fieldOf_setField_apart _ _ fit.1 fit.2 d
  · rfl

/-- A field of an RW register that may be written takes its bits of the word written (Table 0.4). -/
theorem write_rw {f : RegField} {keep : Bool} (v w : Word) (fit : f.lo ≤ f.hi ∧ f.hi < 32) (h : f.acc = .rw)
    (k : (keep && f.quiesced) = false) : fieldOf f.hi f.lo (f.write keep v w) = fieldOf f.hi f.lo v := by
  simp only [RegField.write, h, k, Bool.false_eq_true, if_false]
  rw [fieldOf_setField_same _ _ fit.1 fit.2, fieldOf_fieldOf_mod]

/-- A field that is neither RW nor W1C keeps its bits when its register is written (Table 0.4). -/
theorem write_other {f : RegField} (keep : Bool) (v w : Word) (h : f.acc ≠ .rw) (h' : f.acc ≠ .w1c) : f.write keep v w = w := by
  unfold RegField.write
  split
  · exact absurd ‹_› h
  · exact absurd ‹_› h'
  · rfl

/-! ### Register accesses that reach their register -/

theorem reaches_of_hostReaches {off : Nat} {s : State} (h : hostReaches off s) : reaches off s = true := by
  obtain ⟨-, hc, hd, hf, -⟩ := h
  simp [reaches, hc, hd, hf]

theorem inBar0_of_hostReaches {off : Nat} {s : State} (h : hostReaches off s) : inBar0 off s = true := by
  obtain ⟨hb, -, hd, -, -⟩ := h
  simp [inBar0, hb, hd]

/-- A write that reaches its register is carried out (R425, R534). -/
theorem regWrite_of_hostReaches {off : Nat} {s : State} (h : hostReaches off s) (src : Source) (f : State → State) :
    regWrite src off f s = f s := by
  obtain ⟨-, -, -, -, hd⟩ := id h
  simp [regWrite, reaches_of_hostReaches h, hd]

/-- A read that reaches its register is answered with the word it brings (R425, R534). -/
theorem regRead_of_hostReaches {off : Nat} {s : State} (h : hostReaches off s) (f : State → Word × State) :
    regRead off f s = respond (.regData (f s).1) (f s).2 := by
  obtain ⟨-, -, -, -, hd⟩ := id h
  simp [regRead, reaches_of_hostReaches h, hd]

/-- A register of no switched domain is reached where one of the same side of the device control region is (R425, R534). -/
theorem hostReaches_of_regDomain {a b : Nat} {s : State} (h : hostReaches a s) (hb : b < 0x4000000) (ha : 0x100000 ≤ a)
    (d : regDomain b = none) : hostReaches b s := by
  obtain ⟨-, hc, hd, hf, -⟩ := h
  exact ⟨hb, hc, hd, .inl (hf.resolve_right (by omega)), by simp [offDomain, d]⟩

/-- A 32-bit write that reaches its register, outside the MSI-X structures and the doorbells, is the write of that register. -/
theorem registerWrite_word {off : Nat} {r : RegRef} {s : State} (h : hostReaches off s) (hr : regAt off = some r) (h4 : off % 4 = 0)
    (hm : inMsix off = false) (hd : off < 0x2000000) (src : Source) (v : Word) :
    exec (.registerWrite src off 4 (v.setWidth 64)) s = .next (regEffect src r v s) := by
  have m : ¬ (0x8000 ≤ off ∧ off < 0x10000) := by
    simp only [inMsix, Bool.and_eq_false_imp, decide_eq_true_eq, decide_eq_false_iff_not] at hm
    omega
  have hv : BitVec.ofNat 32 (v.setWidth 64 : DWord).toNat = v := by
    rw [BitVec.ofNat_toNat, BitVec.setWidth_setWidth_of_le v (by decide), BitVec.setWidth_eq]
  show execRegisterWrite src off 4 (v.setWidth 64) s = _
  simp only [execRegisterWrite, hv]
  simp [inBar0_of_hostReaches h, reaches_of_hostReaches h, accessOk, h4, regWrite_of_hostReaches h, writeWord,
    m, Nat.not_le.mpr hd, hr]

theorem readWord_reg {off : Nat} {r : RegRef} {s : State} (hr : regAt off = some r) (hm : inMsix off = false) (hd : off < 0x2000000) :
    readWord off s = readReg r s := by
  simp only [inMsix, Bool.and_eq_false_imp, decide_eq_true_eq, decide_eq_false_iff_not] at hm
  unfold readWord
  rw [if_neg (by omega), if_neg (by omega), if_neg (by omega), hr]

/-- A 32-bit read that reaches its register is answered with what the read of that register brings. -/
theorem registerRead_word {off : Nat} {r : RegRef} {s : State} (h : hostReaches off s) (hr : regAt off = some r) (h4 : off % 4 = 0)
    (hm : inMsix off = false) (hd : off < 0x2000000) :
    exec (.registerRead off 4) s = .next (respond (.regData (readReg r s).1) (readReg r s).2) := by
  show execRegisterRead off 4 s = _
  simp [execRegisterRead, inBar0_of_hostReaches h, reaches_of_hostReaches h, accessOk, h4, regRead_of_hostReaches h,
    readWord_reg hr hm hd]

/-! ### Events of rejected writes -/

theorem cfgEvent_onlyIn (b : CfgBlock) (unit off : Nat) (s : State) : onlyIn eventParts s (cfgEvent b unit off s) := by
  cases b with
  | none => exact onlyIn_refl ..
  | _ => exact raiseEvent_onlyIn ..

theorem cfgEvent_otherRegs (b : CfgBlock) (unit off : Nat) (s : State) : otherRegs eventRegs s (cfgEvent b unit off s) := by
  cases b with
  | none => exact otherRegs_refl _ _
  | _ => exact raiseEvent_otherRegs _ _ _ _ _ _

/-! ### What is stored by a write -/

/-- A write of allowed values that no busy block holds back stores its word field by field (R1, R6, R564). -/
theorem storeWrite_ok {n : RegName} {u i : Nat} {v : Word} {s : State} (a : n.desc.allows v = true) (b : busyWrite n u i v s = false) :
    storeWrite n u i v s = rset n u i (n.desc.fields.foldl (RegField.write false v) (rget n u i s)) s := by
  simp [storeWrite, rangeOk, a, b]

/-- A write of a value out of range is discarded with its block's event (R564). -/
theorem storeWrite_bad {n : RegName} {u i : Nat} {v : Word} {s : State} (a : n.desc.allows v = false) :
    storeWrite n u i v s = cfgEvent n.desc.block u (regOff n u i) s := by
  simp [storeWrite, rangeOk, a, rejectWrite]

/-- The fields of a register with no W1C field, once a word is written to it: RW fields have the word's bits, the others their own
(Table 0.4). -/
theorem fieldOf_written (n : RegName) (v old : Word) (w1c : ∀ f ∈ n.desc.fields, f.acc ≠ .w1c) {f : RegField}
    (hf : f ∈ n.desc.fields) :
    fieldOf f.hi f.lo (n.desc.fields.foldl (RegField.write false v) old) =
      if f.acc = .rw then fieldOf f.hi f.lo v else fieldOf f.hi f.lo old := by
  refine fieldOf_foldl _ (fun w g hg f d => write_apart false v w (fields_fit n g hg) d) (fields_apart n) hf old fun w hw => ?_
  split
  · exact write_rw v w (fields_fit n f hf) ‹_› rfl
  · rw [write_other false v w ‹_› (w1c f hf), hw]

/-! ### Where registers lie -/

/-- A device register whose writes only store lies where the table says, on a word's boundary of the device's part of BAR0 outside the
MSI-X structures, and no event changes it. -/
theorem plainRegs_place : ∀ n ∈ plainRegs, ∀ i < n.desc.count, regAt (regOff n 0 i) = some ⟨n, 0, i⟩ ∧ regOff n 0 i % 4 = 0 ∧
    inMsix (regOff n 0 i) = false ∧ regOff n 0 i < 0x2000000 ∧ regOff n 0 i ∉ eventRegs := by decide +kernel

/-- The fields of those registers are RW. -/
theorem plainRegs_rw : ∀ n ∈ plainRegs, ∀ f ∈ n.desc.fields, f.acc = .rw := by decide

/-- A write to one of them stores its fields, and has no other effect. -/
theorem regEffect_plain {n : RegName} (hn : n ∈ plainRegs) (src : Source) (i : Nat) (v : Word) (s : State) :
    regEffect src ⟨n, 0, i⟩ v s = storeWrite n 0 i v s := by
  simp only [plainRegs, List.mem_cons, List.not_mem_nil, or_false] at hn
  rcases hn with rfl | rfl | rfl | rfl | rfl | rfl | rfl | rfl | rfl <;> rfl

/-- A read of one of them returns its stored word and has no effect. -/
theorem readReg_plain {n : RegName} (hn : n ∈ plainRegs) (i : Nat) (s : State) :
    readReg ⟨n, 0, i⟩ s = (rget n 0 i s &&& fieldMask n fun f => decide (f.acc ≠ .wo), s) := by
  simp only [plainRegs, List.mem_cons, List.not_mem_nil, or_false] at hn
  rcases hn with rfl | rfl | rfl | rfl | rfl | rfl | rfl | rfl | rfl <;> rfl

theorem regOff_ckSatCount (c : Nat) : regOff .CK_SAT_COUNT c 0 = 0x1000000 + c / 16 * 0x10000 + (0x8000 + c % 16 * 0x400 + 0x20) := by
  show 0x1000000 + c / 16 * 0x10000 + 0x8000 + c % 16 * 0x400 + 0x20 + 0 * 0x0 = _
  omega

/-- CK_SAT_COUNT of a cask lies at offset 0x20 of the cask's region (Table 2.12). -/
theorem regAt_ckSatCount (c : CaskId) : regAt (regOff .CK_SAT_COUNT c.val 0) = some ⟨.CK_SAT_COUNT, c.val, 0⟩ := by
  have table : ∀ u, regFind 0x20 u caskRegs = some ⟨.CK_SAT_COUNT, u, 0⟩ := fun _ => rfl
  rw [regOff_ckSatCount]
  generalize hoff : 0x1000000 + c.val / 16 * 0x10000 + (0x8000 + c.val % 16 * 0x400 + 0x20) = off
  have inCask : ((off - 0x1000000) % 0x10000 - 0x8000) % 0x400 = 0x20 := by omega
  have cask : 16 * ((off - 0x1000000) / 0x10000) + ((off - 0x1000000) % 0x10000 - 0x8000) / 0x400 = c.val := by omega
  unfold regAt
  rw [if_pos (by simp; omega), if_neg (by omega), if_pos (by omega), inCask, cask, table]

/-! ### Accesses that are no register access -/

theorem inBar0_of_d0 {off : Nat} {s : State} (hb : off < 0x4000000) (hd : s.px.d3 = false) : inBar0 off s = true := by
  simp [inBar0, hb, hd]

/-- An access of the wrong width or alignment outside the MSI-X structures is none (R4, R5). -/
theorem accessOk_false {off size : Nat} (hm : inMsix off = false) (h : size ≠ 4 ∨ off % 4 ≠ 0) : accessOk off size = false := by
  simp only [accessOk, hm, Bool.and_false, Bool.or_false, Bool.and_eq_false_imp, decide_eq_true_eq, decide_eq_false_iff_not]
  omega

/-- A read of the wrong width or alignment is answered with an abort; where it reaches its block it raises EV_REG_ACCESS (R5, R425). -/
theorem registerRead_misshaped {off size : Nat} {s : State} (hd : s.px.d3 = false) (hb : off < 0x4000000) (hm : inMsix off = false)
    (h : size ≠ 4 ∨ off % 4 ≠ 0) :
    exec (.registerRead off size) s = .next (respond .abort (if reaches off s then regAccess off s else s)) := by
  show execRegisterRead off size s = _
  unfold execRegisterRead
  cases reaches off s <;> simp [inBar0_of_d0 hb hd, accessOk_false hm h, hm]

/-- A host write of the wrong width or alignment stores nothing; where it reaches its block it raises EV_REG_ACCESS (R5, R425). -/
theorem registerWrite_misshaped {off size : Nat} {s : State} (v : DWord) (hd : s.px.d3 = false) (hb : off < 0x4000000)
    (hm : inMsix off = false) (h : size ≠ 4 ∨ off % 4 ≠ 0) :
    exec (.registerWrite .host off size v) s = .next (if reaches off s then regAccess off s else s) := by
  show execRegisterWrite .host off size v s = _
  unfold execRegisterWrite
  cases reaches off s <;> simp [inBar0_of_d0 hb hd, accessOk_false hm h, hm]

theorem regAccess_onlyIn (off : Nat) (s : State) : onlyIn eventParts s (regAccess off s) := raiseEvent_onlyIn ..

/-- What an access of the wrong shape may leave of its event. -/
theorem misshaped_onlyIn (off : Nat) (s : State) : onlyIn eventParts s (if reaches off s then regAccess off s else s) := by
  split
  · exact regAccess_onlyIn ..
  · exact onlyIn_refl ..

/-- Before firmware is ready a read outside the device control region is answered with an abort (R425). -/
theorem registerRead_beforeFirmware {off : Nat} {s : State} (size : Nat) (hd : s.px.d3 = false) (hb : off < 0x4000000)
    (hc : 0x100000 ≤ off) (hf : s.pm.fwReady = false) : exec (.registerRead off size) s = .next (respond .abort s) := by
  show execRegisterRead off size s = _
  simp [execRegisterRead, inBar0_of_d0 hb hd, reaches, hf, Nat.not_lt.mpr hc]

/-! ### Reads in the MSI-X structures -/

/-- The MSI-X structures lie in the device control region, in no switched domain (R419, R425). -/
theorem hostReaches_msix {off : Nat} {s : State} (hc : s.px.cfgReady = true) (hd : s.px.d3 = false) (hm : inMsix off = true) :
    hostReaches off s := by
  simp only [inMsix, Bool.and_eq_true, decide_eq_true_eq] at hm
  have d : regDomain off = none := by
    unfold regDomain
    rw [if_neg (by simp; omega), if_neg (by simp; omega), if_neg (by simp; omega)]
  exact ⟨by omega, hc, hd, .inr (by omega), by simp [offDomain, d]⟩

/-- A read of a word of the MSI-X structures has no effect (R419). -/
theorem readWord_msix {off : Nat} (hm : inMsix off = true) (s : State) : (readWord off s).2 = s := by
  simp only [inMsix, Bool.and_eq_true, decide_eq_true_eq] at hm
  unfold readWord
  split
  · rfl
  · rw [if_pos (by omega)]

theorem drawFree_onlyIn (s : State) : onlyIn [.free] s (drawFree s) := by
  constructor
  intro p hp
  cases p with
  | free => exact absurd (List.mem_singleton.mpr rfl) hp
  | _ => rfl

/-- A host read in the MSI-X structures is answered with data, one word or two (R418, R419). -/
theorem registerRead_msix {off : Nat} {s : State} (size : Nat) (hc : s.px.cfgReady = true) (hd : s.px.d3 = false)
    (hm : inMsix off = true) : ∃ u ms, exec (.registerRead off size) s = .next u ∧ onlyIn [.sent, .free] s u ∧
      u.sent = s.sent ++ ms ∧ ∀ m ∈ ms, ∃ w, m = .regData w := by
  have hr := hostReaches_msix hc hd hm
  have word : ∀ o x, inMsix o = true → x.px = s.px → regRead o (readWord o) x = respond (.regData (readWord o x).1) x := by
    intro o x ho hx
    rw [regRead_of_hostReaches (hostReaches_msix (hx ▸ hc) (hx ▸ hd) ho), readWord_msix ho]
  show ∃ u ms, execRegisterRead off size s = .next u ∧ _
  simp only [execRegisterRead, inBar0_of_hostReaches hr, reaches_of_hostReaches hr, hm, Bool.not_true, Bool.false_eq_true, if_false,
    if_true, word off s hm rfl]
  cases ha : accessOk off size with
  | false =>
    refine ⟨_, _, rfl, ?_, rfl, by simp⟩
    exact onlyIn_trans (onlyIn_mono (drawFree_onlyIn s) (by decide)) (onlyIn_mono (respond_onlyIn ..) (by decide))
  | true =>
    by_cases h8 : size = 8
    · have hm' : inMsix (off + 4) = true := by
        simp only [inMsix, accessOk, h8, Bool.and_eq_true, Bool.or_eq_true, decide_eq_true_eq] at hm ha ⊢
        omega
      simp only [Bool.not_true, Bool.false_eq_true, if_false, h8, if_true, word (off + 4) (respond _ s) hm' rfl]
      refine ⟨_, [_, _], rfl, ?_, by simp; exact ⟨rfl, rfl⟩, ?_⟩
      · exact onlyIn_mono (onlyIn_trans (respond_onlyIn ..) (respond_onlyIn ..)) (by decide)
      · simp
    · simp only [Bool.not_true, Bool.false_eq_true, if_false, h8]
      exact ⟨_, _, rfl, onlyIn_mono (respond_onlyIn ..) (by decide), rfl, by simp⟩

/-! ### Writes and reads of plain registers -/

section plain
variable {n : RegName} {i : Nat} {s : State}

/-- A write of an allowed value that no busy block holds back gives each RW field its bits of the word (R1, R2). -/
theorem registerWrite_plain (hn : n ∈ plainRegs) (hi : i < n.desc.count) (h : hostReaches (regOff n 0 i) s) (v : Word) (src : Source)
    (ha : n.desc.allows v = true) (hb : busyWrite n 0 i v s = false) :
    ∃ u, exec (.registerWrite src (regOff n 0 i) 4 (v.setWidth 64)) s = .next u ∧ onlyIn [.regs] s u ∧
      otherRegs [regOff n 0 i] s u ∧ ∀ f ∈ n.desc.fields, fieldOf f.hi f.lo (rget n 0 i u) =
        if f.acc = .rw then fieldOf f.hi f.lo v else fieldOf f.hi f.lo (rget n 0 i s) := by
  obtain ⟨hat, h4, hm, hd, -⟩ := plainRegs_place n hn i hi
  refine ⟨_, registerWrite_word h hat h4 hm hd src v, ?_⟩
  rw [regEffect_plain hn, storeWrite_ok ha hb]
  refine ⟨rset_onlyIn .., otherRegs_rset _ _ _ _ s, fun f hf => ?_⟩
  rw [rget_rset]
  refine fieldOf_written n v _ (fun g hg => ?_) hf
  rw [plainRegs_rw n hn g hg]
  decide

/-- A write of a value out of range is discarded whole (R564). -/
theorem registerWrite_plain_outOfRange (hn : n ∈ plainRegs) (hi : i < n.desc.count) (h : hostReaches (regOff n 0 i) s) (v : Word)
    (src : Source) (ha : n.desc.allows v = false) :
    ∃ u, exec (.registerWrite src (regOff n 0 i) 4 (v.setWidth 64)) s = .next u ∧ onlyIn eventParts s u ∧
      rget n 0 i u = rget n 0 i s := by
  obtain ⟨hat, h4, hm, hd, hev⟩ := plainRegs_place n hn i hi
  refine ⟨_, registerWrite_word h hat h4 hm hd src v, ?_⟩
  rw [regEffect_plain hn, storeWrite_bad ha]
  exact ⟨cfgEvent_onlyIn .., rget_of_otherRegs (cfgEvent_otherRegs _ _ _ s) n 0 i hev⟩

theorem registerRead_plain (hn : n ∈ plainRegs) (hi : i < n.desc.count) (h : hostReaches (regOff n 0 i) s) :
    ∃ u, exec (.registerRead (regOff n 0 i) 4) s = .next u ∧ onlyIn [.sent] s u ∧
      u.sent = s.sent ++ [.regData (rget n 0 i s &&& fieldMask n fun f => decide (f.acc ≠ .wo))] := by
  obtain ⟨hat, h4, hm, hd, -⟩ := plainRegs_place n hn i hi
  refine ⟨_, registerRead_word h hat h4 hm hd, ?_⟩
  rw [readReg_plain hn]
  exact ⟨respond_onlyIn .., rfl⟩

end plain

/-! ### Counters that clear on reads -/

/-- A read of CK_SAT_COUNT brings its value and leaves 0 (R1). -/
theorem readReg_ckSatCount (u : Nat) (s : State) :
    readReg ⟨.CK_SAT_COUNT, u, 0⟩ s = (rget .CK_SAT_COUNT u 0 s, rset .CK_SAT_COUNT u 0 0 s) := by
  have mask : (fieldMask .CK_SAT_COUNT fun f => decide (f.acc ≠ .wo)) = BitVec.allOnes 32 := by decide
  have zero : setField 31 0 0 (rget .CK_SAT_COUNT u 0 s) = 0 := by
    apply BitVec.eq_of_toNat_eq
    rw [toNat_setField _ _ (by decide) (by decide)]
    have := (rget .CK_SAT_COUNT u 0 s).isLt
    simp [Nat.div_eq_of_lt this, Nat.mod_one]
  show (rget .CK_SAT_COUNT u 0 s &&& fieldMask .CK_SAT_COUNT fun f => decide (f.acc ≠ .wo),
    rset .CK_SAT_COUNT u 0 (setField 31 0 0 (rget .CK_SAT_COUNT u 0 s)) s) = _
  rw [mask, zero, BitVec.and_allOnes]

theorem readClear_ckSatCount (c : CaskId) {s : State} (h : hostReaches (regOff .CK_SAT_COUNT c.val 0) s) :
    ∃ u, exec (.readClear (regOff .CK_SAT_COUNT c.val 0)) s = .next u ∧ onlyIn [.sent, .regs] s u ∧
      otherRegs [regOff .CK_SAT_COUNT c.val 0] s u ∧ rget .CK_SAT_COUNT c.val 0 u = 0 ∧
      u.sent = s.sent ++ [.regData (rget .CK_SAT_COUNT c.val 0 s)] := by
  have hat := regAt_ckSatCount c
  have low : 0x1000000 ≤ regOff .CK_SAT_COUNT c.val 0 ∧ regOff .CK_SAT_COUNT c.val 0 < 0x2000000 := by
    rw [regOff_ckSatCount]
    omega
  have hm : inMsix (regOff .CK_SAT_COUNT c.val 0) = false := by
    simp only [inMsix, Bool.and_eq_false_imp, decide_eq_true_eq, decide_eq_false_iff_not]
    omega
  have run : exec (.readClear (regOff .CK_SAT_COUNT c.val 0)) s =
      .next (respond (.regData (rget .CK_SAT_COUNT c.val 0 s)) (rset .CK_SAT_COUNT c.val 0 0 s)) := by
    show execReadClear (regOff .CK_SAT_COUNT c.val 0) s = _
    have rc : (RegName.CK_SAT_COUNT.desc.fields.any fun f => decide (f.acc = .rc)) = true := by decide
    simp only [execReadClear, hat, rc, inBar0_of_hostReaches h, Bool.and_self, if_true, regRead_of_hostReaches h,
      readWord_reg hat hm low.2, readReg_ckSatCount]
  refine ⟨_, run, ?_, otherRegs_rset _ _ _ _ s, rget_rset .., rfl⟩
  exact onlyIn_trans (onlyIn_mono (rset_onlyIn ..) (by decide)) (onlyIn_mono (respond_onlyIn ..) (by decide))

/-- Settles O19: a plain register is stored field by field and read back, CK_SAT_COUNT clears, and the other accesses are told apart by
their shape, the MSI-X structures and the readiness of firmware. -/
theorem registerAccesses : Obligations.RegisterAccesses := by
  unfold Obligations.RegisterAccesses
  refine ⟨fun n hn i v s hi h => ⟨registerWrite_plain hn hi h v, registerWrite_plain_outOfRange hn hi h v, registerRead_plain hn hi h⟩,
    fun s hc hd => ⟨fun c h => readClear_ckSatCount c h, fun off size hb hm hz => ⟨?_, fun v => ?_⟩, fun off size hm => ?_,
      fun off hb hlow _ hf => ?_⟩⟩
  · refine ⟨_, registerRead_misshaped hd hb hm hz, ?_, by simp⟩
    exact onlyIn_trans (misshaped_onlyIn off s) (onlyIn_mono (respond_onlyIn ..) (by decide))
  · exact ⟨_, registerWrite_misshaped v hd hb hm hz, misshaped_onlyIn off s⟩
  · obtain ⟨u, ms, hu, ho, hs, hms⟩ := registerRead_msix size hc hd hm
    refine ⟨u, hu, ho, fun m hmem e => ?_⟩
    rw [hs, List.drop_left] at hmem
    obtain ⟨w, hw⟩ := hms m hmem
    exact absurd (hw.symm.trans e) (by simp)
  · exact ⟨_, registerRead_beforeFirmware 4 hd hb hlow hf, respond_onlyIn .., rfl⟩

/-! ### What an event leaves of the PCI Express function -/

/-- Of the PCI Express function only the pending vectors and the requests that wait may differ. -/
def PxQueuesOnly (s u : State) : Prop := u.px = { s.px with pba := u.px.pba, upstream := u.px.upstream }

theorem pxQueuesOnly_of_px {s u : State} (h : u.px = s.px) : PxQueuesOnly s u := by
  rw [PxQueuesOnly, h]

theorem pxQueuesOnly_trans {s u v : State} (h : PxQueuesOnly s u) (k : PxQueuesOnly u v) : PxQueuesOnly s v := by
  unfold PxQueuesOnly at *
  rw [k, h]

theorem sendUp_px (m : HostMsg) (s : State) : PxQueuesOnly s (sendUp m s) := by
  unfold sendUp
  split <;> rfl

theorem raiseVector_px (v : Nat) (s : State) : PxQueuesOnly s (raiseVector v s) := by
  unfold raiseVector
  split
  · exact sendUp_px _ s
  · rfl

theorem deliverEvent_px (cls : Nat) (rec' : List Byte) (s : State) : PxQueuesOnly s (deliverEvent cls rec' s).1 := by
  unfold deliverEvent
  simp only
  split
  · rfl
  · split
    · rfl
    · generalize hx : rset .EQ_TAIL 0 _ _ (putSector _ _ s).1 = x
      have stored : x.px = s.px := by
        rw [← hx]
        exact (putSector_onlyIn _ _ s).same .px (by decide)
      split
      · exact pxQueuesOnly_trans (pxQueuesOnly_of_px stored) (raiseVector_px _ { x with armed := _ })
      · exact pxQueuesOnly_of_px stored

theorem postEvent_px (cls : Nat) (rec' : List Byte) (s : State) : PxQueuesOnly s (postEvent cls rec' s).1 := by
  unfold postEvent
  split
  · exact deliverEvent_px _ _ s
  · rfl

theorem poisonAll_px (n : Nat) (secs : List Nat) (s : State) : PxQueuesOnly s (poisonAll n secs s) := by
  induction n generalizing secs s with
  | zero => rfl
  | succ n ih =>
    cases secs with
    | nil => rfl
    | cons sec rest => exact pxQueuesOnly_trans (postEvent_px _ _ (notePoison sec s)) (ih _ _)

/-- An event leaves of the PCI Express function all but its pending vectors and waiting requests as they were (R375 to R379, R421). -/
theorem raiseEvent_px (code unit aux detail : Nat) (p : Option PktId) (s : State) :
    PxQueuesOnly s (raiseEvent code unit aux detail p s) := by
  have packet : ∀ f, PxQueuesOnly s (modPktOf p f s) := fun f =>
    pxQueuesOnly_of_px ((modPktOf_onlyIn p f s).same .px (by decide))
  exact pxQueuesOnly_trans (packet _) (pxQueuesOnly_trans (postEvent_px _ _ _) (poisonAll_px _ _ _))

/-! ### Requests that waited -/

theorem issueUp_eq_respond {m : HostMsg} (h : ∀ c d, m ≠ .event c d) (s : State) : issueUp m s = respond m s := by
  cases m with
  | event c d => exact absurd rfl (h c d)
  | _ => rfl

/-- Waiting requests that are no events are sent in their order (R421, R422). -/
theorem foldl_issueUp {ms : List HostMsg} (h : ∀ m ∈ ms, ∀ c d, m ≠ .event c d) (s : State) :
    ms.foldl (fun s m => issueUp m s) s = { s with sent := s.sent ++ ms } := by
  induction ms generalizing s with
  | nil => simp
  | cons m ms ih =>
    obtain ⟨hm, hms⟩ := List.forall_mem_cons.mp h
    rw [List.foldl_cons, issueUp_eq_respond hm, ih hms]
    simp [respond]

theorem flushUp_of_noEvents {s : State} (ok : upstreamOk s = true) (h : ∀ m ∈ s.px.upstream, ∀ c d, m ≠ .event c d) :
    flushUp s = { s with px := { s.px with upstream := [] }, sent := s.sent ++ s.px.upstream } := by
  unfold flushUp
  rw [if_pos ok, foldl_issueUp h]

theorem flushUp_of_none {s : State} (h : s.px.upstream = []) : flushUp s = s := by
  unfold flushUp
  split
  · rw [h]
    show { s with px := { s.px with upstream := [] } } = s
    rw [← h]
  · rfl

/-! ### MSI-X -/

/-- Raising the pending vectors that are open changes the pending vectors, the requests that wait and what is sent (R379, R419). -/
theorem sendPending_frame (s : State) : onlyIn [.px, .sent] s (sendPending s) ∧ PxQueuesOnly s (sendPending s) := by
  unfold sendPending
  generalize s.px.pba.map (·.1) = vs
  induction vs generalizing s with
  | nil => exact ⟨onlyIn_refl .., rfl⟩
  | cons v vs ih =>
    rw [List.foldl_cons]
    split
    · obtain ⟨ho, hp⟩ := ih (sendUp (vectorMsg v s) { s with px := { s.px with pba := Store.drop v s.px.pba } })
      have hx := px_onlyIn { s.px with pba := Store.drop v s.px.pba } s
      exact ⟨onlyIn_trans (onlyIn_trans (onlyIn_mono hx (by decide)) (onlyIn_mono (sendUp_onlyIn ..) (by decide))) ho,
        pxQueuesOnly_trans (pxQueuesOnly_trans (u := { s with px := { s.px with pba := Store.drop v s.px.pba } }) rfl
          (sendUp_px _ _)) hp⟩
    · exact ih s

theorem msixWord_congr {s u : State} (h : u.px.msix = s.px.msix) (v w : Nat) : msixWord v w u = msixWord v w s := by
  simp [msixWord, h]

/-- One pending vector that may be sent goes out, and none is left pending (R379, R419). -/
theorem sendPending_one {v : Nat} {s : State} (h : s.px.pba = [(v, ())]) (o : vectorOpen v s = true) (ok : upstreamOk s = true) :
    sendPending s = { s with px := { s.px with pba := [] }, sent := s.sent ++ [vectorMsg v s] } := by
  have ok' : upstreamOk { s with px := { s.px with pba := [] } } = true := ok
  simp [sendPending, h, o, sendUp, ok', Store.drop]

/-! ### Power states and Bus Master Enable -/

theorem pxSent_onlyIn (p : Px) (ms : List HostMsg) (s : State) : onlyIn [.px, .sent] s { s with px := p, sent := ms } :=
  onlyIn_trans (u := { s with px := p }) (onlyIn_mono (px_onlyIn p s) (by decide)) (onlyIn_mono (sent_onlyIn ms _) (by decide))

/-- Setting Bus Master Enable in D0 issues the requests that wait (R421). -/
theorem busMasterEnable_issues {s : State} (h : ∀ m ∈ s.px.upstream, ∀ c d, m ≠ .event c d) (d0 : s.px.d3 = false) :
    ∃ u, exec .busMasterEnable s = .next u ∧ onlyIn [.px, .sent] s u ∧ u.px = { s.px with bme := true, upstream := [] } ∧
      u.sent = s.sent ++ s.px.upstream := by
  have ok : upstreamOk { s with px := { s.px with bme := true } } = true := by simp [upstreamOk, d0]
  have run : exec .busMasterEnable s = .next (flushUp { s with px := { s.px with bme := true } }) := rfl
  rw [flushUp_of_noEvents ok h] at run
  exact ⟨_, run, pxSent_onlyIn _ _ s, rfl, rfl⟩

/-- The return to D0 with Bus Master Enable set issues the requests that wait (R422). -/
theorem d0Return_issues {s : State} (h : ∀ m ∈ s.px.upstream, ∀ c d, m ≠ .event c d) (bm : s.px.bme = true) :
    ∃ u, exec .d0Return s = .next u ∧ onlyIn [.px, .sent] s u ∧ u.px = { s.px with d3 := false, upstream := [] } ∧
      u.sent = s.sent ++ s.px.upstream := by
  have ok : upstreamOk { s with px := { s.px with d3 := false } } = true := by simp [upstreamOk, bm]
  have run : exec .d0Return s = .next (flushUp { s with px := { s.px with d3 := false } }) := rfl
  rw [flushUp_of_noEvents ok h] at run
  exact ⟨_, run, pxSent_onlyIn _ _ s, rfl, rfl⟩

/-! ### Unmasking a vector -/

/-- The state in which the mask bit of a vector is cleared and no pending vector has been raised yet (R419). -/
def unmasked (v : Nat) (s : State) : State :=
  { s with px := { s.px with msix := s.px.msix.put (4 * v + 3) (setFlag 0 false (msixWord v 3 s)) } }

theorem msixUnmask_d0 (v : Fin 2048) {s : State} (d0 : s.px.d3 = false) :
    exec (.msixUnmask v) s = .next (sendPending (unmasked v.val s)) := by
  show execMsixUnmask v s = _
  simp [execMsixUnmask, d0, msixWrite, unmasked]

theorem msixWord_unmasked_mask (v : Nat) (s : State) : msixWord v 3 (unmasked v s) = setFlag 0 false (msixWord v 3 s) := by
  simp [msixWord, unmasked, Store.find_put_same]

theorem vectorMsg_unmasked (v : Nat) (s : State) : vectorMsg v (unmasked v s) = vectorMsg v s := by
  have word : ∀ w, w < 3 → msixWord v w (unmasked v s) = msixWord v w s := fun w hw => by
    simp only [msixWord, unmasked]
    rw [Store.find_put_ne _ _ (by omega)]
  simp only [vectorMsg, word 0 (by decide), word 1 (by decide), word 2 (by decide)]

/-- Unmasking a vector clears its mask bit and changes the host link alone; its pending message goes out where messages may (R379, R419). -/
theorem msixUnmask_sends (v : Fin 2048) {s : State} (d0 : s.px.d3 = false) :
    ∃ u, exec (.msixUnmask v) s = .next u ∧ onlyIn [.px, .sent] s u ∧
      msixWord v.val 3 u = setFlag 0 false (msixWord v.val 3 s) ∧
      (s.px.msixEn = true → s.px.fnMask = false → s.px.bme = true → s.px.pba = [(v.val, ())] →
        u.px.pba = [] ∧ u.sent = s.sent ++ [vectorMsg v.val s]) := by
  obtain ⟨ho, hp⟩ := sendPending_frame (unmasked v.val s)
  have table : (sendPending (unmasked v.val s)).px.msix = (unmasked v.val s).px.msix := by rw [hp]
  refine ⟨_, msixUnmask_d0 v d0, onlyIn_trans (onlyIn_mono (px_onlyIn _ s) (by decide)) ho, ?_, fun en fm bm pend => ?_⟩
  · rw [msixWord_congr table, msixWord_unmasked_mask]
  · have isOpen : vectorOpen v.val (unmasked v.val s) = true := by
      simp only [vectorOpen, msixWord_unmasked_mask]
      simp [unmasked, en, fm]
    have ok : upstreamOk (unmasked v.val s) = true := by simp [upstreamOk, unmasked, bm, d0]
    rw [sendPending_one (s := unmasked v.val s) pend isOpen ok, vectorMsg_unmasked]
    exact ⟨rfl, rfl⟩

/-! ### Configuration requests -/

section config
variable {s : State} (perst : s.px.perst = false) (hold : s.pm.coldHold = false) (en : s.pm.pcieEn = true)
include perst hold en

/-- Until configuration space is ready a request is answered with a retry (R424). -/
theorem configRequest_retried (off : Nat) (w : Option Word) (nr : s.px.cfgReady = false) :
    exec (.configRequest off w) s = .next { s with sent := s.sent ++ [.crs] } := by
  show execConfigRequest off w s = _
  simp [execConfigRequest, perst, hold, en, nr, respond]

theorem configRequest_read (off : Nat) (rdy : s.px.cfgReady = true) :
    exec (.configRequest off none) s = .next (respond (.cfgData (cfgGet (off % 4096 / 4 * 4) s)) s) := by
  show execConfigRequest off none s = _
  simp [execConfigRequest, perst, hold, en, rdy]

/-- A write that starts no Function Level Reset is made (R412, R423). -/
theorem configRequest_write {off : Nat} (v : Word) (rdy : s.px.cfgReady = true) (reg : cfgReg (off % 4096 / 4 * 4) ≠ .devCtl) :
    exec (.configRequest off (some v)) s = .next (cfgPut (off % 4096 / 4 * 4) v s) := by
  show execConfigRequest off (some v) s = _
  simp [execConfigRequest, perst, hold, en, rdy, reg]

end config

/-- Word 0 of configuration space names the vendor and the device (Table 12.1). -/
theorem cfgGet_ids (s : State) : cfgGet 0 s = 0x40961FB7#32 := rfl

/-- A write of the command word with no request waiting sets Memory Space Enable and Bus Master Enable (R421). -/
theorem cfgPut_command (v : Word) {s : State} (idle : s.px.upstream = []) :
    cfgPut 4 v s = { s with px := { s.px with cfg := s.px.cfg.put 4 v, mse := flagOf 1 v, bme := flagOf 2 v } } := by
  show flushUp { s with px := { s.px with cfg := s.px.cfg.put 4 v, mse := flagOf 1 v, bme := flagOf 2 v } } = _
  exact flushUp_of_none idle

/-- The command word shows Memory Space Enable and Bus Master Enable (R421). -/
theorem cfgGet_command (s : State) : flagOf 1 (cfgGet 4 s) = s.px.mse ∧ flagOf 2 (cfgGet 4 s) = s.px.bme := by
  have word : cfgGet 4 s = setFlag 20 true (setFlag 1 s.px.mse (setFlag 2 s.px.bme ((s.px.cfg.find 4).getD (Config.cfgWord 4)))) := rfl
  rw [word]
  constructor
  · rw [flagOf_setFlag_ne _ _ (by decide) (by decide), flagOf_setFlag_same _ _ (by decide)]
  · rw [flagOf_setFlag_ne _ _ (by decide) (by decide), flagOf_setFlag_ne _ _ (by decide) (by decide),
      flagOf_setFlag_same _ _ (by decide)]

/-! ### Faulty TLPs -/

/-- Whether an error of a bit of the status word heads the log: it is not masked, and no first error is still to be cleared (R420). -/
def headsErrorLog (b : Nat) (s : State) : Prop := aerMasked b s = false ∧ flagOf s.px.aerFirst s.px.aer = false

theorem aerLog_of_headsErrorLog {b : Nat} {s : State} (h : headsErrorLog b s) (hdr : BitVec 128) :
    aerLog b hdr s = { s with px := { s.px with
      aer := s.px.aer ||| BitVec.ofNat 32 (2 ^ b)
      aerFirst := b
      aerHdr := hdr } } := by
  obtain ⟨hm, hf⟩ := h
  simp [aerLog, hm, hf]

theorem aerLog_of_not_headsErrorLog {b : Nat} {s : State} (h : ¬ headsErrorLog b s) (hdr : BitVec 128) :
    aerLog b hdr s = { s with px := { s.px with aer := s.px.aer ||| BitVec.ofNat 32 (2 ^ b) } } := by
  have kept : (aerMasked b s || flagOf s.px.aerFirst s.px.aer) = true := by
    by_contra n
    simp only [Bool.not_eq_true, Bool.or_eq_false_iff] at n
    exact h n
  simp [aerLog, kept]

/-- A faulty TLP that is no completion is discarded, logged by its kind of fault (R420). -/
theorem poisonedTlp_logged {k : TlpKind} (hk : k = .write ∨ k = .request) (ecrc : Bool) (s : State) :
    ∃ hdr, exec (.poisonedTlp k ecrc) s = .next (badTlp 0 hdr ecrc s) := by
  rcases hk with rfl | rfl <;> exact ⟨_, rfl⟩

/-- An ECRC failure is counted and logged, and reported with an event (R420). -/
theorem ecrcFail_spec (aux : Nat) (hdr : BitVec 128) (s : State) :
    onlyIn eventParts s (ecrcFail aux hdr s) ∧ rget .PX_ECRC_ERRS 0 0 (ecrcFail aux hdr s) = rget .PX_ECRC_ERRS 0 0 s + 1 ∧
      PxQueuesOnly (aerLog 19 hdr s) (ecrcFail aux hdr s) := by
  have logged : onlyIn eventParts s (aerLog 19 hdr s) := onlyIn_mono (px_onlyIn ..) (by decide)
  have counted := bump_onlyIn .PX_ECRC_ERRS 0 0 1 (aerLog 19 hdr s)
  refine ⟨onlyIn_trans logged (onlyIn_trans (onlyIn_mono counted (by decide)) (raiseEvent_onlyIn ..)), ?_, ?_⟩
  · exact (rget_of_otherRegs (raiseEvent_otherRegs _ _ _ _ _ _) .PX_ECRC_ERRS 0 0 (by decide)).trans (rget_rset ..)
  · exact raiseEvent_px 0x0A06 0 aux 0 none (bump .PX_ECRC_ERRS 0 0 1 (aerLog 19 hdr s))

/-- What an ECRC failure leaves of the error log: its status bit, and its header where it heads the log (R420). -/
theorem ecrcFail_log (aux : Nat) (hdr : BitVec 128) (s : State) :
    let u := ecrcFail aux hdr s
    u.px.aer = s.px.aer ||| 0x80000#32 ∧ (headsErrorLog 19 s → u.px.aerFirst = 19) ∧
      (¬ headsErrorLog 19 s → u.px.aerFirst = s.px.aerFirst ∧ u.px.aerHdr = s.px.aerHdr) := by
  obtain ⟨-, -, hp⟩ := ecrcFail_spec aux hdr s
  simp only
  rw [hp]
  refine ⟨rfl, fun h => ?_, fun h => ?_⟩
  · rw [aerLog_of_headsErrorLog h]
  · rw [aerLog_of_not_headsErrorLog h]
    exact ⟨rfl, rfl⟩

/-- Settles O39: the waiting requests go out in order, a pending vector when it is unmasked, and configuration space and the error log
answer as their words say. -/
theorem hostLink : Obligations.HostLink := by
  unfold Obligations.HostLink
  intro s
  refine ⟨rfl, rfl, fun hu => ⟨busMasterEnable_issues hu, d0Return_issues hu⟩, fun v d0 => msixUnmask_sends v d0,
    fun perst hold en off => ⟨fun nr w => configRequest_retried perst hold en off w nr, fun rdy => ?_, fun rdy v idle => ?_⟩,
    fun k hk rdy => ?_, fun k hk => ?_⟩
  · refine ⟨_, _, configRequest_read perst hold en off rdy, respond_onlyIn .., rfl, fun h4 => ?_, fun h4 => ?_⟩
    · rw [show off % 4096 / 4 * 4 = 0 by omega, cfgGet_ids]
    · rw [show off % 4096 / 4 * 4 = 4 by omega]
      exact cfgGet_command s
  · have run := configRequest_write perst hold en (off := 4) v rdy (by decide)
    rw [cfgPut_command v idle] at run
    exact ⟨_, run, px_onlyIn _ s, rfl, rfl⟩
  · show execResizableBarWrite k s = _
    simp [execResizableBarWrite, rdy, resizeBar4, hk]
  · simp only
    obtain ⟨hdr, hecrc⟩ := poisonedTlp_logged hk true s
    obtain ⟨hdr', hpois⟩ := poisonedTlp_logged hk false s
    obtain ⟨ho, hc, -⟩ := ecrcFail_spec 0 hdr s
    refine ⟨⟨_, hecrc, ho, hc, ecrcFail_log 0 hdr s⟩, fun h => ⟨hdr', ?_⟩, fun h => ?_⟩
    · rw [hpois]
      exact congrArg Host.Outcome.next (aerLog_of_headsErrorLog h hdr')
    · rw [hpois]
      exact congrArg Host.Outcome.next (aerLog_of_not_headsErrorLog h hdr')

/-! ### Fields of registers -/

theorem rfield_rput_same (n : RegName) (u i v : Nat) {hi lo : Nat} (s : State) (h : lo ≤ hi) (h32 : hi < 32) :
    rfield n u i hi lo (rput n u i hi lo v s) = v % 2 ^ (hi + 1 - lo) := by
  rw [rfield, rput, rget_rset, fieldOf_setField_same _ _ h h32]

theorem rflag_rput_same (n : RegName) (u i v : Nat) {b : Nat} (s : State) (h : b < 32) :
    rflag n u i b (rput n u i b b v s) = decide (v % 2 = 1) := by
  have e : b + 1 - b = 1 := by omega
  have f := rfield_rput_same n u i v s le_rfl h
  rw [rfield, e, pow_one] at f
  rw [rflag, flagOf_eq_field, f]

/-- A host write of a register that it reaches is carried out (R425, R534). -/
theorem hostWrite_of_hostReaches {n : RegName} {u i : Nat} {s : State} (h : hostReaches (regOff n u i) s) (f : State → State) :
    hostWrite n u i f s = f s := regWrite_of_hostReaches h .host f

theorem otherRegs_rput (n : RegName) (u i hi lo v : Nat) (s : State) : otherRegs [regOff n u i] s (rput n u i hi lo v s) :=
  otherRegs_rset _ _ _ _ s

/-! ### Quiesce and resume -/

/-- QUIESCE of a cask is set (R78). -/
theorem ckQuiesce_sets (c : CaskId) {s : State} (h : hostReaches (regOff .CK_CTRL c.val 0) s) :
    ∃ u, exec (.ckQuiesce c) s = .next u ∧ onlyIn [.regs] s u ∧ otherRegs [regOff .CK_CTRL c.val 0] s u ∧
      rflag .CK_CTRL c.val 0 0 u = true := by
  have run : exec (.ckQuiesce c) s = .next (hostWrite .CK_CTRL c.val 0 (ckQuiesce c.val) s) := rfl
  rw [hostWrite_of_hostReaches h] at run
  exact ⟨_, run, rput_onlyIn .., otherRegs_rput _ _ _ _ _ _ s, rflag_rput_same _ _ _ _ s (by decide)⟩

/-- QUIESCE of a cask is cleared where no bias domain is on its way off (R78, R532). -/
theorem ckResume_clears (c : CaskId) {s : State} (h : hostReaches (regOff .CK_CTRL c.val 0) s)
    (on : goingOff (68 + c.val / 1024) s = false) :
    ∃ u, exec (.ckResume c) s = .next u ∧ onlyIn [.regs, .casks] s u ∧ otherRegs [regOff .CK_CTRL c.val 0] s u ∧
      otherCasks c.val s u ∧ rflag .CK_CTRL c.val 0 0 u = false := by
  have run : exec (.ckResume c) s = .next (hostWrite .CK_CTRL c.val 0 (ckResume c.val) s) := rfl
  have eff : ckResume c.val s = rput .CK_CTRL c.val 0 0 0 0 s := by simp [ckResume, on]
  rw [hostWrite_of_hostReaches h, eff] at run
  exact ⟨_, run, onlyIn_mono (rput_onlyIn ..) (by decide), otherRegs_rput _ _ _ _ _ _ s, fun _ _ => rfl,
    rflag_rput_same _ _ _ _ s (by decide)⟩

theorem modThreads_onlyIn (r : Nat) (f : Thread → Thread) (s : State) : onlyIn [.threads] s (modThreads r f s) := by
  constructor
  intro p hp
  cases p with
  | threads => exact absurd (List.mem_singleton.mpr rfl) hp
  | _ => rfl

/-- A thread after a change of every thread of a rack, one that leaves a free thread free. -/
theorem getThread_modThreads {f : Thread → Thread} (free : f Thread.init = Thread.init) (r x : Nat) {t : Nat} (ht : t < 64) (s : State) :
    getThread x t (modThreads r f s) = if x = r then f (getThread x t s) else getThread x t s := by
  have rack : (64 * x + t) / 64 = x := by omega
  simp only [getThread, modThreads, Store.getD, Store.find_mapV, rack]
  cases Store.find (64 * x + t) s.threads with
  | none => simp [free]
  | some k => simp

/-- The same where the change is that of the threads in one state. -/
theorem getThread_modThreads_state {st : TSt} (busy : st ≠ .free) (f : Thread → Thread) (r x : Nat) {t : Nat} (ht : t < 64) (s : State) :
    getThread x t (modThreads r (fun k => if k.st = st then f k else k) s) =
      if x = r ∧ (getThread x t s).st = st then f (getThread x t s) else getThread x t s := by
  rw [getThread_modThreads (f := fun k => if k.st = st then f k else k) (if_neg busy.symm) r x ht, ite_and]

/-- QUIESCE of a rack is set, and its READY threads are HELD (R262). -/
theorem rpQuiesce_holds (r : Rack) {s : State} (h : hostReaches (regOff .RP_CTRL r.val 0) s) :
    ∃ u, exec (.rpQuiesce r) s = .next u ∧ onlyIn [.regs, .threads] s u ∧ rflag .RP_CTRL r.val 0 0 u = true ∧
      ∀ x t, t < 64 → getThread x t u = if x = r.val ∧ (getThread x t s).st = .ready then
        { getThread x t s with st := .held } else getThread x t s := by
  have run : exec (.rpQuiesce r) s = .next (hostWrite .RP_CTRL r.val 0 (rpQuiesce r.val) s) := rfl
  rw [hostWrite_of_hostReaches h] at run
  refine ⟨_, run, ?_, rflag_rput_same _ _ _ _ s (by decide), fun x t ht => ?_⟩
  · exact onlyIn_trans (onlyIn_mono (rput_onlyIn ..) (by decide)) (onlyIn_mono (modThreads_onlyIn ..) (by decide))
  · exact getThread_modThreads_state (by decide) _ r.val x ht (rput .RP_CTRL r.val 0 0 0 1 s)

/-- With no incident no thread is frozen (R513). -/
theorem frozenThread_of_noIncident {s : State} (h : s.hang.incident = none) (r : Nat) (k : Thread) : frozenThread r k s = false := by
  simp [frozenThread, frozenWhere, h]

/-- QUIESCE of a rack is cleared where its group is not on its way off, and its HELD threads go on (R262, R532). -/
theorem rpResume_releases (r : Rack) {s : State} (h : hostReaches (regOff .RP_CTRL r.val 0) s)
    (on : goingOff (rackDomain r.val) s = false) (quiet : s.hang.incident = none) :
    ∃ u, exec (.rpResume r) s = .next u ∧ onlyIn [.regs, .threads] s u ∧ rflag .RP_CTRL r.val 0 0 u = false ∧
      ∀ x t, t < 64 → getThread x t u = if x = r.val ∧ (getThread x t s).st = .held then
        { getThread x t s with st := unheldState (getThread x t s) } else getThread x t s := by
  have run : exec (.rpResume r) s = .next (hostWrite .RP_CTRL r.val 0 (rpResume r.val) s) := rfl
  have eff : rpResume r.val s = modThreads r.val (fun k => if k.st = .held then { k with st := unheldState k } else k)
      (rput .RP_CTRL r.val 0 0 0 0 s) := by
    simp [rpResume, on, frozenThread_of_noIncident (s := rput .RP_CTRL r.val 0 0 0 0 s) quiet]
  rw [hostWrite_of_hostReaches h, eff] at run
  refine ⟨_, run, ?_, rflag_rput_same _ _ _ _ s (by decide), fun x t ht => ?_⟩
  · exact onlyIn_trans (onlyIn_mono (rput_onlyIn ..) (by decide)) (onlyIn_mono (modThreads_onlyIn ..) (by decide))
  · exact getThread_modThreads_state (by decide) _ r.val x ht (rput .RP_CTRL r.val 0 0 0 0 s)

/-! ### Tables without several entries -/

theorem Store.find_drop_none {α : Type} {a k : Nat} (j : Nat) {m : Store α} (w : Store.risesFrom a m = true) (h : Store.find k m = none) :
    Store.find k (Store.drop j m) = none := by
  by_cases e : k = j
  · subst e
    exact Store.find_drop_same k m w
  · rw [Store.find_drop_ne m w e, h]

/-- A table from which the entries of a list were taken lists none of them. -/
theorem Store.find_foldl_drop {α β : Type} (key : β → Nat) {l : List β} {m : Store α} (w : Store.risesFrom 0 m = true) {x : β}
    (h : x ∈ l ∨ Store.find (key x) m = none) : Store.find (key x) (l.foldl (fun m y => m.drop (key y)) m) = none := by
  induction l generalizing m with
  | nil => exact h.resolve_left (List.not_mem_nil)
  | cons y l ih =>
    refine ih (Store.drop_rises (key y) m w) ?_
    rcases h with h | h
    · rcases List.mem_cons.mp h with rfl | h
      · exact .inr (Store.find_drop_same _ m w)
      · exact .inl h
    · exact .inr (Store.find_drop_none _ w h)

/-! ### The plain commit groups -/

/-- The COMMIT registers whose apply only puts staged words in force lie where their tables say, and no event changes them. -/
theorem plainCommits_place : ∀ c ∈ plainCommits, regAt c.off = some c ∧ c.name.desc.commit = true ∧ 0x100000 ≤ c.off ∧
    c.off ∉ eventRegs ∧ ((groupRegs c).map RegRef.off).Nodup := by decide +kernel

/-- So do the registers of their groups, each of CW fields, in no switched domain. -/
theorem groupRegs_place : ∀ c ∈ plainCommits, ∀ r ∈ groupRegs c, regAt r.off = some r ∧ groupOf r = some c ∧ r.off < 0x4000000 ∧
    regDomain r.off = none ∧ r.off ≠ c.off ∧ r.off ∉ eventRegs ∧ r.name ≠ .CK_GAIN ∧ ∀ f ∈ r.name.desc.fields, f.acc = .cw := by
  decide +kernel

section plain
variable {c : RegRef} (hc : c ∈ plainCommits)
include hc

theorem hostReaches_groupReg {r : RegRef} (hr : r ∈ groupRegs c) {s : State} (h : hostReaches c.off s) : hostReaches r.off s := by
  obtain ⟨-, -, hlow, -, -⟩ := plainCommits_place c hc
  obtain ⟨-, -, hb, hd, -⟩ := groupRegs_place c hc r hr
  exact hostReaches_of_regDomain h hb hlow hd

theorem plainCommit_cases : c = ⟨.RK_POLICY_COMMIT, 0, 0⟩ ∨ c = ⟨.CT_CHECK_COMMIT, 0, 0⟩ := by
  simpa [plainCommits] using hc

theorem groupReg_cases {r : RegRef} (hr : r ∈ groupRegs c) :
    r = ⟨.RK_POLICY, 0, 0⟩ ∨ r = ⟨.RK_RANGE, 0, 0⟩ ∨ r = ⟨.CT_CHK_TOL, 0, 0⟩ ∨ r = ⟨.CT_TASTE_TOL, 0, 0⟩ := by
  rcases plainCommit_cases hc with rfl | rfl
  · exact (List.mem_pair.mp hr).imp_right .inl
  · exact .inr (.inr (List.mem_pair.mp hr))

/-- A write of allowed values to a register of a plain group is staged, or meets a pending apply with BUSY_ERR (R8, R11). -/
theorem stageWrite_plain {r : RegRef} (hr : r ∈ groupRegs c) (src : Source) {v : Word} (a : r.name.desc.allows v = true) (s : State) :
    stageWrite src r v s = if applyPending c s then setBusyErr c s else { s with staged := s.staged.put r.off (stagedAfter r v s) } := by
  obtain ⟨-, hg, -⟩ := groupRegs_place c hc r hr
  obtain ⟨ho, ht, hn⟩ : remapOwned src r s = false ∧ trigRangeBad r v s = false ∧ r.name ≠ .CK_GAIN := by
    rcases groupReg_cases hc hr with rfl | rfl | rfl | rfl <;> simp [remapOwned, trigRangeBad]
  simp [stageWrite, stageWrite.rangeOk', hg, ho, ht, hn, a]

/-- The owner of a plain group is its writer (R142, R224). -/
theorem commitOwned_plain (src : Source) (s : State) : commitOwned src c s = false := by
  rcases plainCommit_cases hc with rfl | rfl <;> simp [commitOwned, remapOwned]

/-- Giving up the staged words of a plain group gives up nothing else. -/
theorem dropStaged_plain (s : State) :
    dropStaged c s = endApply c { s with staged := (groupRegs c).foldl (fun m r => m.drop r.off) s.staged } := by
  rcases plainCommit_cases hc with rfl | rfl <;> rfl

theorem opBoundary_plain (s : State) : opBoundary c s = true := by
  rcases plainCommit_cases hc with rfl | rfl <;> rfl

theorem applyAt_plain (host : Bool) (s : State) : applyAt c host s = applyGroup c host s := by
  rcases plainCommit_cases hc with rfl | rfl <;> rfl

end plain

/-- The staged word of a register of CW fields has every field of the word written (R8). -/
theorem fieldOf_stagedAfter {r : RegRef} (cw : ∀ f ∈ r.name.desc.fields, f.acc = .cw) (hn : r.name ≠ .CK_GAIN) (v : Word) (s : State)
    {f : RegField} (hf : f ∈ r.name.desc.fields) : fieldOf f.hi f.lo (stagedAfter r v s) = fieldOf f.hi f.lo v := by
  simp only [stagedAfter, hn, decide_false, Bool.false_and, Bool.false_eq_true, if_false]
  refine fieldOf_foldl _ (fun w g hg f d => ?_) (fields_apart r.name) hf _ fun w _ => ?_
  · obtain ⟨h, h32⟩ := fields_fit r.name g hg
    rw [if_pos (cw g hg), fieldOf_setField_apart _ _ h h32 d]
  · obtain ⟨h, h32⟩ := fields_fit r.name f hf
    rw [if_pos (cw f hf), fieldOf_setField_same _ _ h h32, fieldOf_fieldOf_mod]

theorem staged_onlyIn (m : Store Word) (s : State) : onlyIn [.staged] s { s with staged := m } := by
  constructor
  intro p hp
  cases p with
  | staged => exact absurd (List.mem_singleton.mpr rfl) hp
  | _ => rfl

theorem applies_onlyIn (m : Store Apply) (s : State) : onlyIn [.applies] s { s with applies := m } := by
  constructor
  intro p hp
  cases p with
  | applies => exact absurd (List.mem_singleton.mpr rfl) hp
  | _ => rfl

theorem pm_onlyIn (m : Pm) (s : State) : onlyIn [.pm] s { s with pm := m } := by
  constructor
  intro p hp
  cases p with
  | pm => exact absurd (List.mem_singleton.mpr rfl) hp
  | _ => rfl

/-! ### The change journal -/

/-- A journal entry changes the power and life-cycle state, and where it is lost the parts of its event (R548). -/
theorem journal_onlyIn (kind source unit reg gen : Nat) (old new : Word) (s : State) :
    onlyIn (.pm :: eventParts) s (journal kind source unit reg gen old new s) := by
  unfold journal
  simp only
  split
  · exact onlyIn_mono (pm_onlyIn _ s) (by decide)
  · split
    · exact onlyIn_mono (pm_onlyIn _ s) (by decide)
    · exact onlyIn_trans (onlyIn_mono (pm_onlyIn _ s) (by decide)) (onlyIn_mono (raiseEvent_onlyIn ..) (by decide))

theorem journal_otherRegs (kind source unit reg gen : Nat) (old new : Word) (s : State) :
    otherRegs eventRegs s (journal kind source unit reg gen old new s) := by
  unfold journal
  simp only
  split
  · exact otherRegs_refl _ s
  · split
    · exact otherRegs_refl _ s
    · exact raiseEvent_otherRegs _ _ _ _ _ { s with pm := { s.pm with lost := s.pm.lost + 1 } }

/-! ### Staged words put in force -/

/-- The words f gives a list of registers, stored one after another. -/
def rsetAll (f : RegRef → Word) (rs : List RegRef) (s : State) : State := rs.foldl (fun t r => rset r.name r.unit r.idx (f r) t) s

theorem rsetAll_onlyIn (f : RegRef → Word) (rs : List RegRef) (s : State) : onlyIn [.regs] s (rsetAll f rs s) :=
  onlyIn_foldl _ (fun _ _ => rset_onlyIn ..) rs s

theorem rsetAll_otherRegs (f : RegRef → Word) (rs : List RegRef) (s : State) : otherRegs (rs.map RegRef.off) s (rsetAll f rs s) := by
  induction rs generalizing s with
  | nil => exact otherRegs_refl _ s
  | cons r rs ih =>
    have first : otherRegs ((r :: rs).map RegRef.off) s (rset r.name r.unit r.idx (f r) s) :=
      otherRegs_mono (otherRegs_rset _ _ _ _ s) (by simp [RegRef.off])
    exact otherRegs_trans first (otherRegs_mono (ih _) fun _ => List.mem_cons_of_mem _)

/-- Each of the registers, at offsets of their own, then holds its word. -/
theorem rget_rsetAll (f : RegRef → Word) {rs : List RegRef} (nd : (rs.map RegRef.off).Nodup) {r : RegRef} (hr : r ∈ rs) (s : State) :
    rget r.name r.unit r.idx (rsetAll f rs s) = f r := by
  induction rs generalizing s with
  | nil => exact absurd hr List.not_mem_nil
  | cons q rs ih =>
    rw [List.map_cons, List.nodup_cons] at nd
    rcases List.mem_cons.mp hr with rfl | hr
    · exact (rget_of_otherRegs (rsetAll_otherRegs f rs _) _ _ _ nd.1).trans (rget_rset ..)
    · exact ih nd.2 hr _

theorem endApply_notPending (c : RegRef) {s : State} (w : Store.risesFrom 0 s.applies = true) : applyPending c (endApply c s) = false := by
  simp only [applyPending, endApply, Store.find_drop_same c.off s.applies w, Option.isSome_none]

section plain
variable {c : RegRef} (hc : c ∈ plainCommits) {s : State}
include hc

theorem dropStaged_plain_onlyIn : onlyIn [.applies, .staged] s (dropStaged c s) := by
  rw [dropStaged_plain hc]
  exact onlyIn_trans (onlyIn_mono (staged_onlyIn _ s) (by decide)) (onlyIn_mono (applies_onlyIn _ _) (by decide))

theorem dropStaged_plain_notPending (w : Store.risesFrom 0 s.applies = true) : applyPending c (dropStaged c s) = false := by
  rw [dropStaged_plain hc]
  exact endApply_notPending c w

/-- Every staged value given up, the value in force is what is staged (R11). -/
theorem stagedWord_dropStaged {r : RegRef} (hr : r ∈ groupRegs c) (w : Store.risesFrom 0 s.staged = true) :
    stagedWord r (dropStaged c s) = rget r.name r.unit r.idx s := by
  rw [dropStaged_plain hc]
  simp only [stagedWord, endApply, Store.find_foldl_drop RegRef.off w (.inl hr), Option.getD_none]
  rfl

/-- What an apply of a plain group does but for its journal entry: its words are in force and GEN is one higher. -/
def groupApplied (c : RegRef) (s : State) : State := bumpGen c (applyWords c s)

omit hc in
/-- An apply is those words and GEN, and at most a journal entry more (R9, R14). -/
theorem applyGroup_groupApplied (c : RegRef) (host : Bool) (s : State) :
    onlyIn (.pm :: eventParts) (groupApplied c s) (applyGroup c host s) ∧
      otherRegs eventRegs (groupApplied c s) (applyGroup c host s) := by
  unfold applyGroup
  simp only
  split
  · split
    · exact ⟨journal_onlyIn .., journal_otherRegs _ _ _ _ _ _ _ _⟩
    · exact ⟨onlyIn_refl .., otherRegs_refl _ _⟩
  · exact ⟨onlyIn_refl .., otherRegs_refl _ _⟩

theorem groupApplied_onlyIn : onlyIn [.staged, .applies, .regs] s (groupApplied c s) := by
  have words := rsetAll_onlyIn (fun r => stagedWord r s) (groupRegs c) s
  have dropped := dropStaged_plain_onlyIn hc (s := rsetAll (fun r => stagedWord r s) (groupRegs c) s)
  exact onlyIn_trans (onlyIn_mono words (by decide)) (onlyIn_trans (onlyIn_mono dropped (by decide))
    (onlyIn_mono (rput_onlyIn ..) (by decide)))

theorem groupApplied_notPending (w : Store.risesFrom 0 s.applies = true) : applyPending c (groupApplied c s) = false := by
  have kept : (rsetAll (fun r => stagedWord r s) (groupRegs c) s).applies = s.applies :=
    (rsetAll_onlyIn (fun r => stagedWord r s) (groupRegs c) s).same .applies (by decide)
  exact dropStaged_plain_notPending hc (s := rsetAll (fun r => stagedWord r s) (groupRegs c) s) (by rw [kept, w])

theorem applyWords_regs : (applyWords c s).regs = (rsetAll (fun r => stagedWord r s) (groupRegs c) s).regs :=
  (dropStaged_plain_onlyIn hc).same .regs (by decide)

/-- An apply puts every staged word of its group in force (R9). -/
theorem rget_groupApplied {r : RegRef} (hr : r ∈ groupRegs c) : rget r.name r.unit r.idx (groupApplied c s) = stagedWord r s := by
  obtain ⟨-, -, -, -, nd⟩ := plainCommits_place c hc
  obtain ⟨-, -, -, -, hne, -⟩ := groupRegs_place c hc r hr
  have gen : rget r.name r.unit r.idx (groupApplied c s) = rget r.name r.unit r.idx (applyWords c s) :=
    rget_of_otherRegs (otherRegs_rput _ _ _ _ _ _ _) _ _ _ (List.mem_singleton.not.mpr hne)
  rw [gen, rget_congr (applyWords_regs hc), rget_rsetAll _ nd hr]

/-- An apply counts GEN up modulo 65,536 (R9, R10). -/
theorem gen_groupApplied : rfield c.name c.unit c.idx 15 0 (groupApplied c s) = (rfield c.name c.unit c.idx 15 0 s + 1) % 65536 := by
  have out : c.off ∉ (groupRegs c).map RegRef.off := fun h => by
    obtain ⟨r, hr, e⟩ := List.mem_map.mp h
    obtain ⟨-, -, -, -, hne, -⟩ := groupRegs_place c hc r hr
    exact hne e
  have before : rget c.name c.unit c.idx (applyWords c s) = rget c.name c.unit c.idx s :=
    (rget_congr (applyWords_regs hc) _ _ _).trans (rget_of_otherRegs (rsetAll_otherRegs _ _ s) _ _ _ out)
  rw [groupApplied, bumpGen, rfield_rput_same _ _ _ _ _ (by decide) (by decide), rfield, before]
  exact Nat.mod_mod _ _

end plain

/-! ### Rows of the commit groups -/

section plain
variable {c : RegRef} (hc : c ∈ plainCommits) {s : State} (h : hostReaches c.off s)
include hc h

/-- A write of a register of a plain group (R8, R11). -/
theorem cwStageWrite_plain {r : RegRef} (hr : r ∈ groupRegs c) (src : Source) {v : Word} (a : r.name.desc.allows v = true) :
    exec (.cwStageWrite src r.off v) s = .next (if applyPending c s then setBusyErr c s else
      { s with staged := s.staged.put r.off (stagedAfter r v s) }) := by
  obtain ⟨hat, hg, -⟩ := groupRegs_place c hc r hr
  show execCwStageWrite src r.off v s = _
  simp only [execCwStageWrite, hat, hg, Option.isSome_some, if_true, regWrite_of_hostReaches (hostReaches_groupReg hc hr h),
    stageWrite_plain hc hr src a]

/-- An ACTION written to the COMMIT register of a plain group (Table 0.5). -/
theorem commitRow_plain (src : Source) (act : Nat) : commitRow src c.off act s = commitAction src c act s := by
  obtain ⟨hat, hcommit, -⟩ := plainCommits_place c hc
  simp only [commitRow, hat, hcommit, if_true, regWrite_of_hostReaches h]

/-- A write is staged with every field of its word; the value in force stays (R8). -/
theorem cwStageWrite_stages {r : RegRef} (hr : r ∈ groupRegs c) (src : Source) {v : Word} (a : r.name.desc.allows v = true)
    (np : applyPending c s = false) :
    ∃ u, exec (.cwStageWrite src r.off v) s = .next u ∧ onlyIn [.staged] s u ∧
      ∀ f ∈ r.name.desc.fields, fieldOf f.hi f.lo (stagedWord r u) = fieldOf f.hi f.lo v := by
  obtain ⟨-, -, -, -, -, -, hn, cw⟩ := groupRegs_place c hc r hr
  have run := cwStageWrite_plain hc h hr src a
  rw [np] at run
  refine ⟨_, run, staged_onlyIn _ s, fun f hf => ?_⟩
  rw [← fieldOf_stagedAfter cw hn v s hf]
  simp [stagedWord, Store.find_put_same]

/-- A write while an apply waits is discarded with BUSY_ERR (R11). -/
theorem cwStageWrite_busy {r : RegRef} (hr : r ∈ groupRegs c) (src : Source) {v : Word} (a : r.name.desc.allows v = true)
    (pd : applyPending c s = true) :
    ∃ u, exec (.cwStageWrite src r.off v) s = .next u ∧ onlyIn [.regs] s u ∧ otherRegs [c.off] s u ∧
      rflag c.name c.unit c.idx 30 u = true := by
  have run := cwStageWrite_plain hc h hr src a
  rw [pd] at run
  exact ⟨_, run, rput_onlyIn .., otherRegs_rput _ _ _ _ _ _ s, rflag_rput_same _ _ _ _ s (by decide)⟩

omit h in
/-- An ACTION that asks for an apply waits for its boundary: an operation's with 1, a frame's with 2 (R12). -/
theorem commitAction_waits (src : Source) {act : Nat} (ask : act = 1 ∨ act = 2) (np : applyPending c s = false) :
    commitAction src c act s = { s with applies := s.applies.put c.off ⟨decide (act = 2), decide (src = .host)⟩ } := by
  rcases ask with rfl | rfl <;> simp [commitAction, commitOwned_plain hc, np]

theorem commitApplyOperation_waits (src : Source) (np : applyPending c s = false) :
    ∃ u, exec (.commitApplyOperation src c.off) s = .next u ∧ onlyIn [.applies] s u ∧
      u.applies.find c.off = some ⟨false, decide (src = .host)⟩ := by
  have run : exec (.commitApplyOperation src c.off) s = .next (commitRow src c.off 1 s) := rfl
  rw [commitRow_plain hc h, commitAction_waits hc src (.inl rfl) np] at run
  exact ⟨_, run, applies_onlyIn _ s, Store.find_put_same ..⟩

theorem commitApplyFrame_waits (src : Source) (np : applyPending c s = false) :
    ∃ u, exec (.commitApplyFrame src c.off) s = .next u ∧ onlyIn [.applies] s u ∧
      u.applies.find c.off = some ⟨true, decide (src = .host)⟩ := by
  have run : exec (.commitApplyFrame src c.off) s = .next (commitRow src c.off 2 s) := rfl
  rw [commitRow_plain hc h, commitAction_waits hc src (.inr rfl) np] at run
  exact ⟨_, run, applies_onlyIn _ s, Store.find_put_same ..⟩

/-- A discard gives up what is staged, and the apply that waits (R11). -/
theorem commitDiscard_drops (src : Source) (wa : Store.risesFrom 0 s.applies = true) (ws : Store.risesFrom 0 s.staged = true) :
    ∃ u, exec (.commitDiscard src c.off) s = .next u ∧ onlyIn [.applies, .staged] s u ∧ applyPending c u = false ∧
      ∀ r ∈ groupRegs c, stagedWord r u = rget r.name r.unit r.idx s := by
  have run : exec (.commitDiscard src c.off) s = .next (commitRow src c.off 3 s) := rfl
  have drop : commitAction src c 3 s = dropStaged c s := by simp [commitAction, commitOwned_plain hc]
  rw [commitRow_plain hc h, drop] at run
  exact ⟨_, run, dropStaged_plain_onlyIn hc, dropStaged_plain_notPending hc wa, fun r hr => stagedWord_dropStaged hc hr ws⟩

/-- The apply of a waiting ACTION puts every staged word in force at once, and counts GEN up (R9, R10, R12). -/
theorem groupApply_applies (wa : Store.risesFrom 0 s.applies = true) {host : Bool} (due : s.applies.find c.off = some ⟨false, host⟩) :
    ∃ u, exec (.groupApply c.off) s = .next u ∧ onlyIn (.staged :: .applies :: .pm :: eventParts) s u ∧
      applyPending c u = false ∧ (∀ r ∈ groupRegs c, rget r.name r.unit r.idx u = stagedWord r s) ∧
      rfield c.name c.unit c.idx 15 0 u = (rfield c.name c.unit c.idx 15 0 s + 1) % 65536 := by
  obtain ⟨hat, hcommit, -, hev, -⟩ := plainCommits_place c hc
  obtain ⟨-, -, -, -, hon⟩ := h
  have run : exec (.groupApply c.off) s = .next (applyGroup c host s) := by
    show execGroupApply c.off s = _
    simp [execGroupApply, hat, hcommit, opBoundary_plain hc, hon, applyDue, due, applyAt_plain hc]
  obtain ⟨journaled, others⟩ := applyGroup_groupApplied c host s
  refine ⟨_, run, ?_, ?_, fun r hr => ?_, ?_⟩
  · exact onlyIn_trans (onlyIn_mono (groupApplied_onlyIn hc) (by decide)) (onlyIn_mono journaled (by decide))
  · have kept : (applyGroup c host s).applies = (groupApplied c s).applies := journaled.same .applies (by decide)
    rw [applyPending, kept]
    exact groupApplied_notPending hc wa
  · obtain ⟨-, -, -, -, -, hout, -⟩ := groupRegs_place c hc r hr
    rw [rget_of_otherRegs others _ _ _ hout, rget_groupApplied hc hr]
  · rw [rfield, rget_of_otherRegs others _ _ _ hev]
    exact gen_groupApplied hc

end plain

/-- Settles O20: each row of a plain commit group, then quiesce and resume of casks and racks. -/
theorem commitGroupsAndQuiesce : Obligations.CommitGroupsAndQuiesce := by
  unfold Obligations.CommitGroupsAndQuiesce
  refine ⟨fun c hc s h wa ws => ⟨fun r hr v a => ⟨fun src np => ?_, fun src pd => ?_⟩, fun src np => ⟨?_, ?_⟩, fun src => ?_,
    fun host due => ?_⟩, fun s => ⟨fun c h => ⟨ckQuiesce_sets c h, ckResume_clears c h⟩, fun r h => ⟨rpQuiesce_holds r h,
      rpResume_releases r h⟩⟩⟩
  · exact cwStageWrite_stages hc h hr src a np
  · exact cwStageWrite_busy hc h hr src a pd
  · exact commitApplyOperation_waits hc h src np
  · exact commitApplyFrame_waits hc h src np
  · exact commitDiscard_drops hc h src wa ws
  · exact groupApply_applies hc h wa due

end Sys2Proof.Machine
end

section
/-! SUPPORT. Rules about one cask: what a change of it leaves of the others, its registers, and the request it posts next. -/

namespace Sys2Proof.Machine

/-! ### One cask changes, the others stay -/

theorem getCask_of_otherCasks {c : Nat} {s u : State} (h : otherCasks c s u) {d : Nat} (n : d ≠ c) : getCask d u = getCask d s := by
  simp only [getCask, Store.getD, h d n]

theorem otherCasks_modCask (c : Nat) (f : Cask → Cask) (s : State) : otherCasks c s (modCask c f s) := otherCasks_setCask _ _ s

theorem otherCasks_of_casks {c : Nat} {s u : State} (h : u.casks = s.casks) : otherCasks c s u := fun _ _ => by rw [h]

theorem otherCasks_of_onlyIn {c : Nat} {ps : List Part} {s u : State} (h : onlyIn ps s u) (n : Part.casks ∉ ps) : otherCasks c s u :=
  otherCasks_of_casks (h.same .casks n)

theorem otherCasks_trans {c : Nat} {s u v : State} (h : otherCasks c s u) (k : otherCasks c u v) : otherCasks c s v :=
  fun d n => (k d n).trans (h d n)

theorem Store.put_put {α : Type} (k : Nat) (v w : α) (m : Store α) : Store.put k v (Store.put k w m) = Store.put k v m := by
  induction m with
  | nil => simp [Store.put]
  | cons e m ih =>
    obtain ⟨j, x⟩ := e
    rcases Nat.lt_trichotomy k j with h | h | h
    · simp [Store.put, h]
    · simp [Store.put, h]
    · simp [Store.put, ih, Nat.lt_asymm h, Nat.ne_of_gt h]

@[simp] theorem setCask_setCask (c : Nat) (k l : Cask) (s : State) : setCask c k (setCask c l s) = setCask c k s := by
  simp only [setCask, Store.put_put]

@[simp] theorem modCask_setCask (c : Nat) (f : Cask → Cask) (k : Cask) (s : State) : modCask c f (setCask c k s) = setCask c (f k) s := by
  simp only [modCask, getCask_setCask, setCask_setCask]

@[simp] theorem modCask_modCask (c : Nat) (f g : Cask → Cask) (s : State) :
    modCask c f (modCask c g s) = modCask c (fun k => f (g k)) s := modCask_setCask ..

theorem getCask_modCask_ne {c d : Nat} (f : Cask → Cask) (s : State) (h : d ≠ c) : getCask d (modCask c f s) = getCask d s :=
  getCask_setCask_ne _ s h

theorem Cask.quiet_iff (k : Cask) : k.quiet = true ↔ k.running = [] ∧ k.waiting = [] ∧ k.posted = none ∧ k.replays = [] ∧
    k.bufA = none ∧ k.bufB = none ∧ k.convs = [] := by
  simp [Cask.quiet, and_assoc]

/-- With no incident no engine is frozen (R513). -/
theorem frozenWhere_of_noIncident {s : State} (h : s.hang.incident = none) (p : Engine → Bool) : frozenWhere p s = false := by
  simp [frozenWhere, h]

/-! ### Registers of a cask -/

theorem regOff_cask {n : RegName} {b : Nat} (h : n.desc.base = .cask b) (c i : Nat) :
    regOff n c i = 0x1000000 + c / 16 * 0x10000 + 0x8000 + c % 16 * 0x400 + b + i * n.desc.stride := by
  simp only [regOff, h]

theorem rget_rset_ne {n m : RegName} {c d i j : Nat} (v : Word) (s : State) (h : regOff n c i ≠ regOff m d j) :
    rget n c i (rset m d j v s) = rget n c i s :=
  rget_of_otherRegs (otherRegs_rset m d j v s) n c i (by simpa using h)

/-- No event changes a register of a cask (R376, R378, R391). -/
theorem caskReg_not_eventReg {n : RegName} {b : Nat} (h : n.desc.base = .cask b) (c i : Nat) : regOff n c i ∉ eventRegs := by
  have low : ∀ o ∈ eventRegs, o < 0x1000000 := by decide
  intro m
  have := low _ m
  rw [regOff_cask h] at this
  omega

/-! ### The next request of a cask -/

/-- The cask with a request posted now, those behind it waiting (R98, R105). -/
def Cask.posting (home now : Nat) (q : SliceReq) (rest : List SliceReq) (k : Cask) : Cask :=
  { k with posted := some ⟨q, home, 0, now, none⟩, waiting := rest }

/-- A cask with nothing posted and no replay posts the first request that waits (R74, R98). -/
theorem postNext_posts {c : Nat} {s : State} {q : SliceReq} {rest : List SliceReq} (free : (getCask c s).posted = none)
    (noReplay : (getCask c s).replays = []) (wait : (getCask c s).waiting = q :: rest) :
    postNext c s = setCask c ((getCask c s).posting (homeWindow c s) s.now q rest) s := by
  unfold postNext
  simp only
  split
  · next hq =>
    rw [wait] at hq
    cases hq
    exact modCask_setCask ..
  · next h => exact absurd wait (h q rest free noReplay)

/-- A cask with nothing that waits posts nothing. -/
theorem postNext_nothing {c : Nat} {s : State} (wait : (getCask c s).waiting = []) : postNext c s = s := by
  unfold postNext
  simp only
  split
  · next h => cases wait.symm.trans h
  · rfl

end Sys2Proof.Machine
end

section
/-! SUPPORT. The row table through its window and the configuration cells (R80, R81, R113, R114). -/

namespace Sys2Proof.Machine

/-! ### The row table -/

/-- The cask and row that LG_ROW_SEL selects for the host (R114). -/
theorem rowNamed_host (s : State) : rowNamed .host s / 512 = selectedCask s ∧ rowNamed .host s % 512 = rfield .LG_ROW_SEL 0 0 8 0 s := by
  have row : rfield .LG_ROW_SEL 0 0 8 0 s < 512 := fieldOf_lt 8 0 _
  have e : rowNamed .host s = 512 * selectedCask s + rfield .LG_ROW_SEL 0 0 8 0 s := rfl
  omega

theorem nextRowSel_onlyIn (s : State) : onlyIn [.regs] s (nextRowSel s) := by
  unfold nextRowSel
  split
  · exact rput_onlyIn ..
  · exact onlyIn_refl ..

/-- The selection moves one row on when LG_ROW_SEL asks for it (R114). -/
theorem rfield_nextRowSel (s : State) : rfield .LG_ROW_SEL 0 0 20 0 (nextRowSel s) =
    if rflag .LG_ROW_SEL 0 0 31 s then (rfield .LG_ROW_SEL 0 0 20 0 s + 1) % 2 ^ 21 else rfield .LG_ROW_SEL 0 0 20 0 s := by
  unfold nextRowSel
  split
  · exact rfield_rput_same _ _ _ _ s (by decide) (by decide)
  · rfl

theorem rowEnt_congr {s u : State} (h : u.casks = s.casks) (c i : Nat) : rowEnt c i u = rowEnt c i s := by
  rw [rowEnt, getCask_congr h, rowEnt]

/-- The row table entry of a word written to LG_ROW_DATA (Table 3.12). -/
def rowOfWord (v : Word) : RowEnt := ⟨fieldOf 20 16 v, fieldOf 12 0 v⟩

/-- The selected row's entry replaced (R113, R114). -/
def rowWritten (v : Word) (s : State) : State :=
  modCask (selectedCask s) (fun k => { k with rows := Store.setD ⟨0, 0⟩ (rfield .LG_ROW_SEL 0 0 8 0 s) (rowOfWord v) k.rows }) s

/-- The host's write stores the entry, is journaled, and moves the selection on (R113, R114, R546). -/
theorem writeRow_host {v : Word} {s : State} (hc : fieldOf 20 16 v ≤ 16) (hs : fieldOf 12 0 v ≤ 7980)
    (q : caskQuiesced (selectedCask s) s = true) :
    ∃ old new, writeRow .host v s =
      nextRowSel (journal 2 0 (selectedCask s) (regOff .LG_ROW_DATA 0 0) 0 old new (rowWritten v s)) := by
  obtain ⟨cask, row⟩ := rowNamed_host s
  unfold writeRow
  simp only [cask, row, q]
  rw [if_neg (by omega)]
  simp only [Bool.not_true, Bool.false_and, Bool.false_eq_true, if_false, if_true]
  exact ⟨_, _, rfl⟩

theorem rowEnt_rowWritten (v : Word) {s : State} (wf : Store.wf ⟨0, 0⟩ (getCask (selectedCask s) s).rows = true) :
    rowEnt (selectedCask s) (rfield .LG_ROW_SEL 0 0 8 0 s) (rowWritten v s) = rowOfWord v ∧
      ∀ j, j ≠ rfield .LG_ROW_SEL 0 0 8 0 s → rowEnt (selectedCask s) j (rowWritten v s) = rowEnt (selectedCask s) j s := by
  simp only [rowEnt, rowWritten, getCask_modCask]
  exact ⟨Store.getD_setD_same _ _ _ _ wf, fun j n => Store.getD_setD_ne _ _ _ wf n⟩

theorem lgRowDataAccess_write {s : State} (h : hostReaches (regOff .LG_ROW_DATA 0 0) s) {v : Word} (hc : fieldOf 20 16 v ≤ 16)
    (hs : fieldOf 12 0 v ≤ 7980) (q : caskQuiesced (selectedCask s) s = true)
    (wf : Store.wf ⟨0, 0⟩ (getCask (selectedCask s) s).rows = true) :
    ∃ u, exec (.lgRowDataAccess (some v)) s = .next u ∧ onlyIn (.casks :: .pm :: eventParts) s u ∧ otherCasks (selectedCask s) s u ∧
      rowEnt (selectedCask s) (rfield .LG_ROW_SEL 0 0 8 0 s) u = rowOfWord v ∧
      (∀ j, j ≠ rfield .LG_ROW_SEL 0 0 8 0 s → rowEnt (selectedCask s) j u = rowEnt (selectedCask s) j s) ∧
      rfield .LG_ROW_SEL 0 0 20 0 u = if rflag .LG_ROW_SEL 0 0 31 s then (rfield .LG_ROW_SEL 0 0 20 0 s + 1) % 2 ^ 21
        else rfield .LG_ROW_SEL 0 0 20 0 s := by
  have run : exec (.lgRowDataAccess (some v)) s = .next (hostWrite .LG_ROW_DATA 0 0 (writeRow .host v) s) := rfl
  obtain ⟨old, new, e⟩ := writeRow_host hc hs q
  rw [hostWrite_of_hostReaches h, e] at run
  have first : onlyIn [.casks] s (rowWritten v s) := modCask_onlyIn _ _ s
  have noted := journal_onlyIn 2 0 (selectedCask s) (regOff .LG_ROW_DATA 0 0) 0 old new (rowWritten v s)
  have others := journal_otherRegs 2 0 (selectedCask s) (regOff .LG_ROW_DATA 0 0) 0 old new (rowWritten v s)
  generalize journal 2 0 (selectedCask s) (regOff .LG_ROW_DATA 0 0) 0 old new (rowWritten v s) = x at *
  have casks : (nextRowSel x).casks = (rowWritten v s).casks :=
    ((nextRowSel_onlyIn x).same .casks (by decide)).trans (noted.same .casks (by decide))
  have sel : rget .LG_ROW_SEL 0 0 x = rget .LG_ROW_SEL 0 0 s := rget_of_otherRegs others _ _ _ (by decide)
  obtain ⟨same, ne⟩ := rowEnt_rowWritten v wf
  refine ⟨_, run, ?_, ?_, ?_, fun j n => ?_, ?_⟩
  · exact onlyIn_trans (onlyIn_mono first (by decide)) (onlyIn_trans (onlyIn_mono noted (by decide))
      (onlyIn_mono (nextRowSel_onlyIn x) (by decide)))
  · exact otherCasks_trans (otherCasks_modCask _ _ s) (otherCasks_of_casks casks)
  · rw [rowEnt_congr casks, same]
  · rw [rowEnt_congr casks, ne j n]
  · rw [rfield_nextRowSel, rflag, rfield, sel]
    rfl

/-- A read brings the selected entry and moves the selection on (R114). -/
theorem lgRowDataAccess_read {s : State} (h : hostReaches (regOff .LG_ROW_DATA 0 0) s) :
    exec (.lgRowDataAccess none) s =
      .next (respond (.regData (rowWord (rowEnt (selectedCask s) (rfield .LG_ROW_SEL 0 0 8 0 s) s))) (nextRowSel s)) := by
  show execLgRowDataAccess none s = _
  simp only [execLgRowDataAccess, regRead_of_hostReaches h]

/-- Settles O24: the host's write and read of the selected row, and the save of the configuration cells. -/
theorem rowTableAndConfigurationCells : Obligations.RowTableAndConfigurationCells := by
  unfold Obligations.RowTableAndConfigurationCells
  refine fun s => ⟨fun h => ⟨fun v hc hs q wf => lgRowDataAccess_write h hc hs q wf, ?_⟩, fun c saving => ?_⟩
  · refine ⟨_, lgRowDataAccess_read h, ?_, ?_, rfield_nextRowSel s⟩
    · exact onlyIn_trans (onlyIn_mono (nextRowSel_onlyIn s) (by decide)) (onlyIn_mono (respond_onlyIn ..) (by decide))
    · rw [respond_sent, (nextRowSel_onlyIn s).same .sent (by decide)]
      rfl
  · have run : exec (.configCellSave c) s =
        .next (setCask c.val { getCask c.val s with cells := cellsNow c.val s, saving := false } s) := by
      show execConfigCellSave c s = _
      simp only [execConfigCellSave, saving, if_true]
      rfl
    exact ⟨_, run, setCask_onlyIn .., otherCasks_setCask _ _ s, getCask_setCask ..⟩

end Sys2Proof.Machine
end

section
/-! SUPPORT. Reference reads and diagnosis reads of a cask (R79, R94, R137, R144, R145, R176, R181). -/

namespace Sys2Proof.Machine

/-! ### The request of a reference read -/

/-- The ceilings of a reference read: none below 12 (R94). -/
def Cask.refCeil (k : Cask) (i : Nat) : Nat := max (k.ceil i) 12

/-- The rows of a segment (R50). -/
def segmentRows (g : Nat) : List Nat := (List.range 64).map (64 * g + ·)

theorem refLevel_eq {g i : Nat} (hg : g < 8) (hi : i ∈ segmentRows g) : nthD 0 i refLevels = 8 := by
  obtain ⟨j, hj, rfl⟩ := List.mem_map.mp hi
  rw [List.mem_range] at hj
  have : 0 < 512 - (64 * g + j) := by omega
  rw [nthD, refLevels, List.drop_replicate]
  obtain ⟨n, hn⟩ := Nat.exists_eq_succ_of_ne_zero this.ne'
  rw [hn]
  rfl

section refRead
variable (k : Cask) {g : Nat} (hg : g < 8)
include hg

/-- A reference read admits every row of every segment (R94). -/
theorem admittedRows_ref : admittedRows k.refCeil refLevels g = segmentRows g := by
  refine List.filter_eq_self.mpr fun i hi => ?_
  have ceil : k.refCeil i ≠ 0 := by unfold Cask.refCeil; omega
  simp [refLevel_eq hg hi, ceil]

theorem boundOf_ref : boundOf k.refCeil refLevels (segmentRows g) = ((segmentRows g).map fun i => 8 * k.refCeil i).sum := by
  refine congrArg List.sum (List.map_congr_left fun i hi => ?_)
  rw [refLevel_eq hg hi]
  rfl

/-- The bound of a whole segment lies between those of ceilings 12 and 16 (R89, R94). -/
theorem boundOf_ref_between (h : ∀ i, k.ceil i ≤ 16) :
    6144 ≤ boundOf k.refCeil refLevels (segmentRows g) ∧ boundOf k.refCeil refLevels (segmentRows g) ≤ 8192 := by
  have len : ((segmentRows g).map fun i => 8 * k.refCeil i).length = 64 := by simp [segmentRows]
  rw [boundOf_ref k hg]
  constructor
  · have := List.card_nsmul_le_sum ((segmentRows g).map fun i => 8 * k.refCeil i) 96 fun x hx => by
      obtain ⟨i, -, rfl⟩ := List.mem_map.mp hx
      simp only [Cask.refCeil]
      omega
    simpa [len] using this
  · have := List.sum_le_card_nsmul ((segmentRows g).map fun i => 8 * k.refCeil i) 128 fun x hx => by
      obtain ⟨i, -, rfl⟩ := List.mem_map.mp hx
      have := h i
      simp only [Cask.refCeil]
      omega
    simpa [len] using this

end refRead

/-- A bound that only the two coarsest gains hold is given gain code 4 or 5 (R90). -/
theorem gainFor_coarse {b : Nat} (low : 6144 ≤ b) (high : b ≤ 8192) : gainFor 5 b = 4 ∨ gainFor 5 b = 5 := by
  have range : List.range (5 + 1) = [0, 1, 2, 3, 4, 5] := rfl
  have fine : ∀ g ∈ [0, 1, 2, 3], ¬ b ≤ capacity g := by
    intro g hg
    fin_cases hg <;> simp only [capacity] <;> omega
  have coarse : b ≤ capacity 5 := by simp only [capacity]; omega
  unfold gainFor
  by_cases c : b ≤ capacity 4
  · left
    simp [range, c, fine]
  · right
    simp [range, c, fine, coarse]

/-- The part that a reference read drives of a segment: all its rows (R94). -/
def refPart (k : Cask) (g : Nat) : SegPart := ⟨g, segmentRows g, gainFor 5 (boundOf k.refCeil refLevels (segmentRows g))⟩

/-- A reference read drives each segment whole (R91, R94). -/
theorem segmentParts_ref {k : Cask} (h : ∀ i, k.ceil i ≤ 16) {g : Nat} (hg : g < 8) :
    segmentParts k.refCeil refLevels refPolicy g = [refPart k g] := by
  have rows : (segmentRows g).isEmpty = false := by simp [segmentRows]
  have fits : boundOf k.refCeil refLevels (segmentRows g) ≤ capacity 5 := by
    have := (boundOf_ref_between k hg h).2
    simp only [capacity]
    omega
  simp [segmentParts, admittedRows_ref k hg, rows, refPolicy, fits, refPart]

theorem slicePartition_ref {k : Cask} (h : ∀ i, k.ceil i ≤ 16) :
    slicePartition k.refCeil refLevels refPolicy = (List.range 8).map fun g => [refPart k g] :=
  List.map_congr_left fun _ hg => segmentParts_ref h (List.mem_range.mp hg)

/-- The one request of a reference read, of every segment whole (R79, R94). -/
def refReq (k : Cask) (id : Nat) : SliceReq :=
  ⟨id, 0, 0, 0, false, refLevels, (List.range 8).map (refPart k), costOf k refLevels ((List.range 8).map (refPart k)), none⟩

theorem refReqs_eq {k : Cask} (h : ∀ i, k.ceil i ≤ 16) (id : Nat) : refReqs k id = [refReq k id] := by
  have steps : subSteps ((List.range 8).map fun g => [refPart k g]) = 1 := by
    simp only [subSteps, List.map_map]
    rfl
  have parts : ((List.range 8).map fun g => [refPart k g]).filterMap (fun q => q[0]?) = (List.range 8).map (refPart k) := rfl
  show sliceReqs k k.refCeil refPolicy id 0 0 refLevels = _
  simp only [sliceReqs, slicePartition_ref h, steps, List.range_one, List.map_cons, List.map_nil, parts]
  rfl

theorem refPart_gain (k : Cask) (g : Nat) : (refPart k g).gain = gainFor 5 (boundOf k.refCeil refLevels (segmentRows g)) := by
  rw [refPart]

theorem refReqs_whole {k : Cask} (h : ∀ i, k.ceil i ≤ 16) (id : Nat) :
    ∃ q, refReqs k id = [q] ∧ q.levels = List.replicate 512 8 ∧ q.parts.length = 8 ∧
      ∀ x ∈ q.parts, x.rows.length = 64 ∧ (x.gain = 4 ∨ x.gain = 5) := by
  refine ⟨refReq k id, refReqs_eq h id, by rw [refReq, refLevels], List.length_map .., fun x hx => ?_⟩
  obtain ⟨g, hg, rfl⟩ := List.mem_map.mp hx
  obtain ⟨low, high⟩ := boundOf_ref_between k (List.mem_range.mp hg) h
  rw [refPart_gain]
  exact ⟨by simp [refPart, segmentRows], gainFor_coarse low high⟩

/-! ### A reference read begins -/

theorem refResult_of_quiet {k : Cask} (h : k.quiet = true) : refResult k = none := by
  obtain ⟨running, -⟩ := k.quiet_iff.mp h
  simp [refResult, Cask.probe, running]

theorem quiet_of_mayRefRead {c : Nat} {s : State} (h : mayRefRead c s = true) : (getCask c s).quiet = true := by
  simp only [mayRefRead, Bool.and_eq_true] at h
  obtain ⟨⟨⟨⟨⟨⟨-, quiet⟩, -⟩, -⟩, -⟩, -⟩, -⟩ := h
  exact quiet

/-- The read of the cellarer's that a reference read makes on a cask (R79). -/
def refRun (id : Nat) : RunOp := ⟨.refRead, probeOp id 1 false, [], some refPolicy, none, none, 1, 0, [], false, 0⟩

/-- A reference read of a quiet cask posts its request as any is posted (R79, R98). -/
theorem startRef_posts {c : Nat} {s : State} (quiet : (getCask c s).quiet = true) {q : SliceReq} {rest : List SliceReq}
    (reqs : refReqs (getCask c s) s.nextOp = q :: rest) :
    startRef c s = setCask c (Cask.posting (homeWindow c s) s.now q rest { getCask c s with running := [refRun s.nextOp] })
      { s with nextOp := s.nextOp + 1 } := by
  obtain ⟨running, waiting, posted, replays, -⟩ := (getCask c s).quiet_iff.mp quiet
  unfold startRef
  simp only [running, waiting, List.nil_append]
  rw [postNext_posts (q := q) (rest := rest) (by simp [posted]) (by simp [replays]) (by simp [reqs])]
  simp only [getCask_setCask, setCask_setCask, Cask.posting]
  rfl

theorem nextOp_onlyIn (n : Nat) (s : State) : onlyIn [.opNames] s { s with nextOp := n } := by
  constructor
  intro p hp
  cases p with
  | opNames => exact absurd (List.mem_singleton.mpr rfl) hp
  | _ => rfl

theorem referenceRead_begins (c : CaskId) {s : State} (may : mayRefRead c.val s = true) {q : SliceReq} {rest : List SliceReq}
    (reqs : refReqs (getCask c.val s) s.nextOp = q :: rest) :
    exec (.referenceRead c) s = .next (setCask c.val
      (Cask.posting (homeWindow c.val s) s.now q rest { getCask c.val s with running := [refRun s.nextOp] })
      { s with nextOp := s.nextOp + 1 }) := by
  have quiet := quiet_of_mayRefRead may
  rw [← startRef_posts quiet reqs]
  show execReferenceRead c s = _
  simp only [execReferenceRead, refResult_of_quiet quiet, may, if_true]

/-! ### What a new fit calls for -/

/-- The evaluation of a cask's new fit changes marks alone: of that cask its range, suspect and due marks, of another whether its topping
is due; beside them it raises events (R148, R149, R155). -/
structure MarksOnly (c : Nat) (s u : State) : Prop where
  frame : onlyIn (.casks :: eventParts) s u
  regs : otherRegs eventRegs s u
  own : getCask c u = { getCask c s with
    outOfRange := (getCask c u).outOfRange
    suspect := (getCask c u).suspect
    diagDue := (getCask c u).diagDue
    topDue := (getCask c u).topDue }
  others : ∀ x, x ≠ c → getCask x u = { getCask x s with topDue := (getCask x u).topDue }

theorem marksOnly_of_casks {c : Nat} {s u : State} (frame : onlyIn (.casks :: eventParts) s u) (regs : otherRegs eventRegs s u)
    (casks : u.casks = s.casks) : MarksOnly c s u where
  frame := frame
  regs := regs
  own := by rw [getCask_congr casks]
  others x _ := by rw [getCask_congr casks]

theorem marksOnly_refl (c : Nat) (s : State) : MarksOnly c s s :=
  marksOnly_of_casks (onlyIn_refl ..) (otherRegs_refl _ s) rfl

theorem marksOnly_trans {c : Nat} {s u v : State} (h : MarksOnly c s u) (k : MarksOnly c u v) : MarksOnly c s v where
  frame := onlyIn_trans h.frame k.frame
  regs := otherRegs_trans h.regs k.regs
  own := by rw [k.own, h.own]
  others x n := by rw [k.others x n, h.others x n]

theorem marksOnly_foldl {α : Type} {c : Nat} (f : State → α → State) (h : ∀ s x, MarksOnly c s (f s x)) (l : List α) (s : State) :
    MarksOnly c s (l.foldl f s) :=
  List.foldlRecOn l f (marksOnly_refl c s) fun u hu x _ => marksOnly_trans hu (h u x)

theorem marksOnly_raiseEvent (c code unit aux detail : Nat) (p : Option PktId) (s : State) :
    MarksOnly c s (raiseEvent code unit aux detail p s) :=
  marksOnly_of_casks (onlyIn_mono (raiseEvent_onlyIn ..) (by decide)) (raiseEvent_otherRegs _ _ _ _ _ s)
    ((raiseEvent_onlyIn ..).same .casks (by decide))

theorem modCask_otherRegs (offs : List Nat) (c : Nat) (f : Cask → Cask) (s : State) : otherRegs offs s (modCask c f s) :=
  fun _ _ => rfl

/-- A change of the cask's own marks. -/
theorem marksOnly_modCask {c : Nat} {f : Cask → Cask} (marks : ∀ k, f k = { k with
      outOfRange := (f k).outOfRange
      suspect := (f k).suspect
      diagDue := (f k).diagDue
      topDue := (f k).topDue }) (s : State) : MarksOnly c s (modCask c f s) where
  frame := onlyIn_mono (modCask_onlyIn ..) (by decide)
  regs := modCask_otherRegs _ c f s
  own := by rw [getCask_modCask]; exact marks _
  others x n := by rw [getCask_modCask_ne f s n]

theorem dueByFit_marks (c x : Nat) (s : State) : MarksOnly c s (dueByFit x s) := by
  by_cases e : x = c
  · subst e
    exact marksOnly_modCask (fun k => by split <;> rfl) s
  · refine ⟨onlyIn_mono (modCask_onlyIn ..) (by decide), modCask_otherRegs _ x _ s, ?_, fun y _ => ?_⟩
    · rw [dueByFit, getCask_modCask_ne _ s (Ne.symm e)]
    · by_cases d : y = x
      · subst d
        rw [dueByFit, getCask_modCask]
        split <;> rfl
      · rw [dueByFit, getCask_modCask_ne _ s d]

theorem dueTopping_marks (c x : Nat) (s : State) : MarksOnly c s (dueTopping x s) := by
  unfold dueTopping
  split
  · exact marksOnly_refl c s
  · exact dueByFit_marks c x s

theorem setSuspect_marks (c : Nat) (s : State) : MarksOnly c s (setSuspect c s) := marksOnly_modCask (fun _ => rfl) s

theorem marksOnly_ite {c : Nat} {p : Prop} [Decidable p] {s u : State} (h : MarksOnly c s u) : MarksOnly c s (if p then u else s) := by
  split
  · exact h
  · exact marksOnly_refl c s

/-- The cask found out of its range, with its event (R148). -/
theorem outOfRange_marks (c unit aux detail : Nat) (p : Option PktId) (s : State) :
    MarksOnly c s (raiseEvent 0x0303 unit aux detail p (modCask c (fun k => { k with outOfRange := true }) s)) :=
  marksOnly_trans (marksOnly_modCask (fun _ => rfl) s) (marksOnly_raiseEvent ..)

theorem evaluate_marks (c : Nat) (s : State) : MarksOnly c s (evaluate c s) := by
  unfold evaluate
  refine marksOnly_trans (marksOnly_ite (outOfRange_marks ..)) (marksOnly_trans (marksOnly_ite (setSuspect_marks ..))
    (marksOnly_trans (marksOnly_ite (dueByFit_marks ..)) (marksOnly_foldl _ (fun u e => ?_) _ _)))
  split
  · split
    · exact dueByFit_marks ..
    · exact dueTopping_marks ..
  · exact marksOnly_refl ..

/-! ### A reference read ends -/

/-- Of a cask, what a reference read records of its sums (R79, R145). -/
def Cask.refit (a b temp : Int) (now : Nat) (k : Cask) : Cask :=
  { k with refA := a, refB := b, tFit := temp, fitted := true, refMissed := 0, foundEmpty := false, lastRef := now }

/-- The cask released from the reset or the hold that waited for its reference read (R79, R134, R533). -/
def Cask.releaseRef (k : Cask) : Cask :=
  { k with inReset := false, hold := if decide (k.hold = some .refRead) || decide (k.hold = some .domain) then none else k.hold }

theorem recordRef_eq (c : Nat) (a b : Int) (s : State) :
    recordRef c a b s = modCask c (Cask.refit a b (quadTemp (c / 1024) s) s.now) (refRegs c a b s) := rfl

theorem rget_refRegs (c : Nat) (a b : Int) (s : State) : rget .CK_REF_A c 0 (refRegs c a b s) = BitVec.ofInt 32 a ∧
    rget .CK_REF_B c 0 (refRegs c a b s) = BitVec.ofInt 32 b ∧
    rget .CK_REF_SEQ c 0 (refRegs c a b s) = rget .CK_REF_SEQ c 0 s + 1 := by
  have hA := regOff_cask (n := .CK_REF_A) rfl c 0
  have hB := regOff_cask (n := .CK_REF_B) rfl c 0
  have hS := regOff_cask (n := .CK_REF_SEQ) rfl c 0
  have AB : regOff .CK_REF_A c 0 ≠ regOff .CK_REF_B c 0 := by omega
  have AS : regOff .CK_REF_A c 0 ≠ regOff .CK_REF_SEQ c 0 := by omega
  have BS : regOff .CK_REF_B c 0 ≠ regOff .CK_REF_SEQ c 0 := by omega
  simp only [refRegs, bump, wrapInc]
  refine ⟨?_, ?_, ?_⟩
  · rw [rget_rset_ne _ _ AS, rget_rset_ne _ _ AB, rget_rset]
  · rw [rget_rset_ne _ _ BS, rget_rset]
  · rw [rget_rset, rget_rset_ne _ _ BS.symm, rget_rset_ne _ _ AS.symm]
    rfl

/-- What follows the record: the refold asked for and the evaluation, where the cask is racked (R147 to R149). -/
theorem refRead_marks (c : Nat) (a b : Int) (s : State) :
    ∃ t, onlyIn [.quant] (recordRef c a b s) t ∧ MarksOnly c t (refRead c a b s) := by
  unfold refRead
  simp only
  split
  · refine ⟨_, ?_, evaluate_marks ..⟩
    constructor
    intro p hp
    cases p with
    | quant => exact absurd (List.mem_singleton.mpr rfl) hp
    | _ => rfl
  · exact ⟨_, onlyIn_refl .., marksOnly_refl ..⟩

theorem refRegs_onlyIn (c : Nat) (a b : Int) (s : State) : onlyIn [.regs] s (refRegs c a b s) :=
  onlyIn_trans (rset_onlyIn ..) (onlyIn_trans (rset_onlyIn ..) (bump_onlyIn ..))

theorem recordRef_onlyIn (c : Nat) (a b : Int) (s : State) : onlyIn [.casks, .regs] s (recordRef c a b s) := by
  rw [recordRef_eq]
  exact onlyIn_trans (onlyIn_mono (refRegs_onlyIn ..) (by decide)) (onlyIn_mono (modCask_onlyIn ..) (by decide))

/-- The state in which the reference read of a cask leaves the evaluation of its sums. -/
def refDone (c id : Nat) (a b : Int) (s : State) : State := refRead c a b (modCask c (fun k => k.endProbe id) s)

theorem endRef_eq (c id : Nat) (a b : Int) (s : State) : endRef c id a b s = modCask c Cask.releaseRef (refDone c id a b s) := rfl

theorem refDone_frame (c id : Nat) (a b : Int) (s : State) : onlyIn (.casks :: .quant :: eventParts) s (refDone c id a b s) := by
  obtain ⟨t, asked, marks⟩ := refRead_marks c a b (modCask c (fun k => k.endProbe id) s)
  exact onlyIn_trans (onlyIn_mono (modCask_onlyIn _ _ s) (by decide)) (onlyIn_trans (onlyIn_mono (recordRef_onlyIn ..) (by decide))
    (onlyIn_trans (onlyIn_mono asked (by decide)) (onlyIn_mono marks.frame (by decide))))

/-- A register of a cask reads after the read as its sums left it. -/
theorem rget_refDone {n : RegName} {off : Nat} (h : n.desc.base = .cask off) (c d i id : Nat) (a b : Int) (s : State) :
    rget n d i (refDone c id a b s) = rget n d i (refRegs c a b s) := by
  obtain ⟨t, asked, marks⟩ := refRead_marks c a b (modCask c (fun k => k.endProbe id) s)
  rw [refDone, rget_of_otherRegs marks.regs _ _ _ (caskReg_not_eventReg h d i), rget_congr (asked.same .regs (by decide))]
  rfl

/-- The cask as the read leaves it: its sums and its fit recorded, the read gone, and of the rest only marks changed (R145). -/
theorem getCask_refDone (c id : Nat) (a b : Int) (s : State) : getCask c (refDone c id a b s) =
    { Cask.refit a b (quadTemp (c / 1024) s) s.now ((getCask c s).endProbe id) with
      outOfRange := (getCask c (refDone c id a b s)).outOfRange
      suspect := (getCask c (refDone c id a b s)).suspect
      diagDue := (getCask c (refDone c id a b s)).diagDue
      topDue := (getCask c (refDone c id a b s)).topDue } := by
  obtain ⟨t, asked, marks⟩ := refRead_marks c a b (modCask c (fun k => k.endProbe id) s)
  have recorded : getCask c t = Cask.refit a b (quadTemp (c / 1024) s) s.now ((getCask c s).endProbe id) := by
    have probe : getCask c (refRegs c a b (modCask c (fun k => k.endProbe id) s)) = (getCask c s).endProbe id :=
      getCask_modCask c (fun k => k.endProbe id) s
    rw [getCask_congr (asked.same .casks (by decide)), recordRef_eq, getCask_modCask, probe]
    rfl
  rw [← recorded]
  exact marks.own

theorem getCask_refDone_ne {c x : Nat} (n : x ≠ c) (id : Nat) (a b : Int) (s : State) : getCask x (refDone c id a b s) =
    { getCask x s with topDue := (getCask x (refDone c id a b s)).topDue } := by
  obtain ⟨t, asked, marks⟩ := refRead_marks c a b (modCask c (fun k => k.endProbe id) s)
  have kept : getCask x t = getCask x s := by
    rw [getCask_congr (asked.same .casks (by decide)), recordRef_eq, getCask_modCask_ne _ _ n,
      getCask_congr ((refRegs_onlyIn ..).same .casks (by decide)), getCask_modCask_ne _ _ n]
  rw [← kept]
  exact marks.others x n

/-- A reference read that is over is recorded, fitted and evaluated, and ends a reset (R79, R144, R145). -/
theorem referenceRead_ends (c : CaskId) {s : State} {id : Nat} {a b : Int} (ended : refResult (getCask c.val s) = some (id, a, b))
    (kept : refKept c.val s = false) (noInc : s.hang.incident = none) :
    exec (.referenceRead c) s = .next (modCask c.val Cask.releaseRef (refDone c.val id a b s)) := by
  rw [← endRef_eq]
  show execReferenceRead c s = _
  simp [execReferenceRead, ended, kept, frozenWhere_of_noIncident noInc]

theorem endRef_records {c id : Nat} {a b : Int} {s u : State} (hu : u = modCask c Cask.releaseRef (refDone c id a b s)) :
    onlyIn (.casks :: .quant :: eventParts) s u ∧
      rget .CK_REF_A c 0 u = BitVec.ofInt 32 a ∧ rget .CK_REF_B c 0 u = BitVec.ofInt 32 b ∧
      rget .CK_REF_SEQ c 0 u = rget .CK_REF_SEQ c 0 s + 1 ∧ (getCask c u).refA = a ∧ (getCask c u).refB = b ∧
      (getCask c u).fitted = true ∧ (getCask c u).tFit = quadTemp (c / 1024) s ∧
      (getCask c u).inReset = false ∧ (getCask c u).lastRef = s.now ∧
      ∀ x, x ≠ c → getCask x u = { getCask x s with topDue := (getCask x u).topDue } := by
  have regs : u.regs = (refDone c id a b s).regs := by rw [hu]; rfl
  have cask : getCask c u = (getCask c (refDone c id a b s)).releaseRef := by rw [hu, getCask_modCask]
  have others : ∀ x, x ≠ c → getCask x u = getCask x (refDone c id a b s) := fun x n => by rw [hu, getCask_modCask_ne _ _ n]
  obtain ⟨hA, hB, hS⟩ := rget_refRegs c a b s
  have fit := getCask_refDone c id a b s
  refine ⟨?_, ?_, ?_, ?_, ?_, ?_, ?_, ?_, ?_, ?_, fun x n => ?_⟩
  · rw [hu]
    exact onlyIn_trans (refDone_frame ..) (onlyIn_mono (modCask_onlyIn ..) (by decide))
  · rw [rget_congr regs, rget_refDone rfl, hA]
  · rw [rget_congr regs, rget_refDone rfl, hB]
  · rw [rget_congr regs, rget_refDone rfl, hS]
  · rw [cask, fit]; rfl
  · rw [cask, fit]; rfl
  · rw [cask, fit]; rfl
  · rw [cask, fit]; rfl
  · rw [cask]; rfl
  · rw [cask, fit]; rfl
  · rw [others x n]
    exact getCask_refDone_ne n id a b s

/-! ### The period of the reference reads -/

/-- A period that passes is counted, unless the cask was found empty at an operation boundary in it (R144). -/
theorem refPeriodExpiry_counts (c : CaskId) {s : State} (racked : (getCask c.val s).racked = true)
    (due : rfield .RK_REF_PERIOD 0 0 19 0 s * 200000 ≤ s.now - (getCask c.val s).lastRef) :
    exec (.refPeriodExpiry c) s = .next (setCask c.val { getCask c.val s with
      refMissed := if (getCask c.val s).foundEmpty || (getCask c.val s).standsEmpty then 0 else (getCask c.val s).refMissed + 1
      foundEmpty := false
      lastRef := s.now } s) := by
  have counted : ((getCask c.val s).racked &&
      decide (rfield .RK_REF_PERIOD 0 0 19 0 s * 200000 ≤ s.now - (getCask c.val s).lastRef)) = true := by
    rw [racked, decide_eq_true due, Bool.and_self]
  exact congrArg Host.Outcome.next (if_pos counted)

/-! ### Diagnosis -/

/-- A cask that asks for a VPP credit waits for one or holds one; casks stay as they were (R109). -/
theorem vppAsk_spec (c : Nat) (s : State) : onlyIn [.ledger] s (vppAsk c s) ∧
    (c ∈ (vppAsk c s).ledger.vppQueue ∨ c ∈ (vppAsk c s).ledger.vppHeld) := by
  unfold vppAsk
  simp only
  split
  · next h =>
    refine ⟨onlyIn_refl .., ?_⟩
    simp only [Bool.or_eq_true, Bool.and_eq_true, List.contains_iff_mem] at h
    exact h.imp id And.left
  · refine ⟨?_, .inl (by simp)⟩
    constructor
    intro p hp
    cases p with
    | ledger => exact absurd (List.mem_singleton.mpr rfl) hp
    | _ => rfl

/-- A cask changed that then asks for a credit. -/
theorem vppAsk_setCask (c : Nat) (k : Cask) (s : State) : onlyIn [.casks, .ledger] s (vppAsk c (setCask c k s)) ∧
    otherCasks c s (vppAsk c (setCask c k s)) ∧ getCask c (vppAsk c (setCask c k s)) = k ∧
    (c ∈ (vppAsk c (setCask c k s)).ledger.vppQueue ∨ c ∈ (vppAsk c (setCask c k s)).ledger.vppHeld) := by
  obtain ⟨frame, asks⟩ := vppAsk_spec c (setCask c k s)
  refine ⟨?_, ?_, ?_, asks⟩
  · exact onlyIn_trans (onlyIn_mono (setCask_onlyIn ..) (by decide)) (onlyIn_mono frame (by decide))
  · exact otherCasks_trans (otherCasks_setCask c k s) (otherCasks_of_onlyIn frame (by decide))
  · rw [getCask_congr (frame.same .casks (by decide)), getCask_setCask]

/-- The cask once its diagnosis read is made (R176). -/
def Cask.afterDiagnosis (k : Cask) : Cask := { k with diagDue := false }

/-- The cask released from its repair, owed a tasting run (R141, R176). -/
def Cask.repaired (k : Cask) : Cask := { k with hold := none, thenTop := false, failed := [], prog := none, tasteDue := true }

/-- The cask whose topping follows its repair (R181). -/
def Cask.repairedToTop (k : Cask) : Cask :=
  { k with hold := some .topping, topDue := false, thenTop := false, failed := [], prog := none, tasteDue := true }

/-- The end of a repair with no topping to follow releases the cask (R141, R176). -/
theorem afterRepair_releases (c : Nat) {k : Cask} (s : State) (alone : k.thenTop = false) :
    afterRepair c (setCask c k s) = setCask c k.repaired s := by
  unfold afterRepair
  simp only [getCask_setCask]
  rw [if_neg (by simp [alone])]
  exact modCask_setCask ..

/-- A topping that was due at the same boundary follows (R181). -/
theorem afterRepair_tops {c : Nat} {k : Cask} {s : State} (top : k.thenTop = true) (due : k.topDue = true) (shadow : k.shadowOk = true)
    (run : rflag .RK_CTRL 0 0 8 s = false) (idle : activeEntry c s = none) :
    afterRepair c (setCask c k s) = vppAsk c (setCask c k.repairedToTop s) := by
  have run' : rflag .RK_CTRL 0 0 8 (setCask c k s) = false := run
  have idle' : activeEntry c (setCask c k s) = none := idle
  unfold afterRepair
  simp only [getCask_setCask]
  rw [if_pos (by simp [top, due, shadow, run', idle'])]
  exact congrArg (vppAsk c) (modCask_setCask ..)

section diagnosis
variable (c : CaskId) {s : State} (reads : List (Nat × Int)) (hold : (getCask c.val s).hold = some .diagnosis)
  (quiet : (getCask c.val s).quiet = true)
include hold quiet

/-- A diagnosis that finds no failed pair is over (R137, R176). -/
theorem diagnosisRead_passes (sound : diagnosed c.val reads s = []) :
    exec (.diagnosisRead c reads) s = .next (afterRepair c.val (setCask c.val (getCask c.val s).afterDiagnosis s)) := by
  show execDiagnosisRead c reads s = _
  unfold execDiagnosisRead
  simp only
  rw [if_pos (by simp [hold, quiet]), sound]
  rfl

/-- One that finds failed pairs calls for their remap, which needs a credit (R137). -/
theorem diagnosisRead_fails (fails : diagnosed c.val reads s ≠ []) (run : rflag .RK_CTRL 0 0 8 s = false) :
    exec (.diagnosisRead c reads) s = .next (vppAsk c.val (setCask c.val
      { getCask c.val s with hold := some .remap, diagDue := false, failed := diagnosed c.val reads s } s)) := by
  show execDiagnosisRead c reads s = _
  unfold execDiagnosisRead
  simp only
  rw [if_pos (by simp [hold, quiet]), if_neg (by simpa using fails), if_neg (by simp [run])]
  rfl

end diagnosis

/-- Settles O25: the reference read's request, its start and its end, the count of its periods, and the three ends of a diagnosis. -/
theorem referenceAndDiagnosisReads : Obligations.ReferenceAndDiagnosisReads := by
  unfold Obligations.ReferenceAndDiagnosisReads
  refine fun c s => ⟨fun id ceil => refReqs_whole ceil id, fun may q rest reqs => ?_, fun id a b ended kept noInc => ?_,
    fun racked due => ?_, fun reads hold quiet => ⟨fun sound alone => ?_, fun sound top due shadow run idle => ?_,
      fun fails run => ?_⟩⟩
  · refine ⟨_, referenceRead_begins c may reqs, ?_, otherCasks_setCask c.val _ { s with nextOp := s.nextOp + 1 }, getCask_setCask ..⟩
    exact onlyIn_trans (onlyIn_mono (nextOp_onlyIn _ s) (by decide)) (onlyIn_mono (setCask_onlyIn ..) (by decide))
  · exact ⟨_, referenceRead_ends c ended kept noInc, endRef_records rfl⟩
  · exact ⟨_, refPeriodExpiry_counts c racked due, setCask_onlyIn .., otherCasks_setCask _ _ s, getCask_setCask ..⟩
  · have passes := diagnosisRead_passes c reads hold quiet sound
    rw [afterRepair_releases c.val (k := (getCask c.val s).afterDiagnosis) s alone] at passes
    exact ⟨_, passes, setCask_onlyIn .., otherCasks_setCask _ _ s, getCask_setCask ..⟩
  · have passes := diagnosisRead_passes c reads hold quiet sound
    rw [afterRepair_tops (k := (getCask c.val s).afterDiagnosis) top due shadow run idle] at passes
    obtain ⟨frame, others, cask, asks⟩ := vppAsk_setCask c.val (getCask c.val s).afterDiagnosis.repairedToTop s
    exact ⟨_, passes, frame, others, congrArg Cask.hold cask, asks⟩
  · obtain ⟨frame, others, cask, asks⟩ := vppAsk_setCask c.val
      { getCask c.val s with hold := some .remap, diagDue := false, failed := diagnosed c.val reads s } s
    exact ⟨_, diagnosisRead_fails c reads hold quiet fails run, frame, others, cask, asks⟩

end Sys2Proof.Machine
end

section
/-! SUPPORT. How an operation of a cask starts, is admitted, replayed and converted (R60 to R66, R74, R90, R98, R248). -/

namespace Sys2Proof.Machine

/-! ### A rack reads its own scratchpad -/

/-- An address of a rack's scratchpad in the device address space (R234). -/
def spAddr (r off : Nat) : Nat := 0x1000000000 + 0x80000 * r + off

theorem regionOf_spAddr {r off : Nat} (hr : r < 256) (ho : off < 0x80000) (q : Nat) (s : State) :
    regionOf q (spAddr r off) s = .sp r off := by
  have above : ¬ spAddr r off < 0x1000000000 := by unfold spAddr; omega
  have below : spAddr r off < 0x1000000000 + 256 * 0x80000 := by unfold spAddr; omega
  have rack : (spAddr r off - 0x1000000000) / 0x80000 = r := by unfold spAddr; omega
  have offset : (spAddr r off - 0x1000000000) % 0x80000 = off := by unfold spAddr; omega
  rw [regionOf, if_neg above, if_pos below, rack, offset]

/-- A rack reaches itself over no link (R28). -/
theorem trellisUp_self (r : Nat) (s : State) : trellisUp r r s = true := by
  have noLink : trellisWay r r = [] := by simp [trellisWay, wayLinks]
  simp [trellisUp, noLink]

theorem badSector_none {r off n : Nat} {s : State} (hn : 0 < n) (h : off + n ≤ 0x80000)
    (good : ∀ x, x / 0x4000 = r → s.mem.spBad.has x = false) : badSector r off n s = none := by
  refine List.find?_eq_none.mpr fun k hk => ?_
  obtain ⟨j, hj, rfl⟩ := List.mem_map.mp hk
  rw [List.mem_range] at hj
  have rack : (0x4000 * r + (off / 32 + j)) / 0x4000 = r := by omega
  simp [good _ rack]

/-- A rack's read of its own scratchpad, no sector of which fails, brings the bytes and changes nothing (R234, R389). -/
theorem devRead_own {r off n : Nat} {s : State} (hr : r < 256) (hn : 0 < n) (h : off + n ≤ 0x80000)
    (good : ∀ x, x / 0x4000 = r → s.mem.spBad.has x = false) (p : Option PktId) :
    devRead r (spAddr r off) n p s = (.ok (spRead r off n s), s) := by
  have region := regionOf_spAddr hr (show off < 0x80000 by omega) r s
  have reach : inReach r (spAddr r off) n s = true := by simp [inReach, region, inWindows, h]
  have last : lastRack r off n = r := by unfold lastRack; omega
  simp [devRead, region, reach, last, trellisUp_self, spFetch, badSector_none hn h good]

/-- So do the reads of the tokens of an operation (R248). -/
theorem readToks_own {r n : Nat} {s : State} (hr : r < 256) (hn : 0 < n)
    (good : ∀ x, x / 0x4000 = r → s.mem.spBad.has x = false) (p : Option PktId) {offs : List Nat}
    (h : ∀ o ∈ offs, o + n ≤ 0x80000) :
    readToks r n p (offs.map (spAddr r)) s = (.ok [], offs.map fun o => spRead r o n s, s) := by
  induction offs with
  | nil => rfl
  | cons o offs ih =>
    rw [List.forall_mem_cons] at h
    simp only [List.map_cons, readToks, devRead_own hr hn h.1 good, ih h.2]

/-! ### Slots of a rack -/

theorem otherRacks_refl (r : Nat) (s : State) : otherRacks r s s := fun _ _ => rfl

theorem otherRacks_trans {r : Nat} {s u v : State} (h : otherRacks r s u) (k : otherRacks r u v) : otherRacks r s v :=
  fun d n => (k d n).trans (h d n)

theorem otherRacks_of_racks {r : Nat} {s u : State} (h : u.racks = s.racks) : otherRacks r s u := fun _ _ => by rw [h]

theorem otherRacks_of_onlyIn {r : Nat} {ps : List Part} {s u : State} (h : onlyIn ps s u) (n : Part.racks ∉ ps) : otherRacks r s u :=
  otherRacks_of_racks (h.same .racks n)

theorem otherRacks_foldl {α : Type} {r : Nat} (f : State → α → State) (h : ∀ s x, otherRacks r s (f s x)) (l : List α)
    (s : State) : otherRacks r s (l.foldl f s) :=
  List.foldlRecOn l f (otherRacks_refl r s) fun u hu x _ => otherRacks_trans hu (h u x)

theorem otherRacks_modSlot (r k : Nat) (f : Slot → Slot) (s : State) : otherRacks r s (modSlot r k f s) := otherRacks_setRack _ _ s

/-- Slots of a rack changed one after another leave everything but that rack as it was. -/
theorem modSlots_frame (r : Nat) (f : Slot → Slot) (ks : List Nat) (s : State) :
    onlyIn [.racks] s (ks.foldl (fun s x => modSlot r x f s) s) ∧ otherRacks r s (ks.foldl (fun s x => modSlot r x f s) s) :=
  ⟨onlyIn_foldl _ (fun _ _ => modSlot_onlyIn ..) _ _, otherRacks_foldl _ (fun s x => otherRacks_modSlot r x f s) _ _⟩

/-! ### An operation starts -/

/-- An operation in execution with the codes of its tokens and none admitted (R65). -/
def startedRun (o : CaskOp) (codes : List (List Byte)) : RunOp := ⟨.mvm, o, codes, none, none, none, 0, 0, [], false, 0⟩

/-- A cask whose oldest operation has left its queue for execution; where none was in progress its counter starts at 0 (R65, R505). -/
def Cask.starting (now : Nat) (o : CaskOp) (rest : List CaskOp) (codes : List (List Byte)) (k : Cask) : Cask :=
  { (if k.quiet then k.restart now else k) with queue := rest, running := k.running ++ [startedRun o codes] }

/-- The data block of an operation lies in its rack's own scratchpad: its header, every token's codes, no sector failing (R248). -/
structure OwnBlock (c : Nat) (o : CaskOp) (off : Nat) (s : State) : Prop where
  addr : o.data = spAddr (c / 16) off
  fits : off + 32 ≤ 0x80000
  format : byteAt 2 (spRead (c / 16) off 32 s) = o.infmt
  block : o.block < ceilDiv (leAt 8 4 (spRead (c / 16) off 32 s)) 512
  tokens : ∀ t, t < o.ntok → off + 32 + (o.token0 + t) * leAt 12 4 (spRead (c / 16) off 32 s) +
    o.block * (if o.infmt = 1 then 256 else 512) + (if o.infmt = 1 then 256 else 512) ≤ 0x80000
  good : ∀ x, x / 0x4000 = c / 16 → s.mem.spBad.has x = false

/-- The codes of the operation's tokens in that block (Table 6.5). -/
def blockCodes (c : Nat) (o : CaskOp) (off : Nat) (s : State) : List (List Byte) :=
  (List.range o.ntok).map fun t => spRead (c / 16)
    (off + 32 + (o.token0 + t) * leAt 12 4 (spRead (c / 16) off 32 s) + o.block * (if o.infmt = 1 then 256 else 512))
    (if o.infmt = 1 then 256 else 512) s

/-- The started operation among those in execution takes its codes. -/
def Cask.takeCodes (o : CaskOp) (codes : List (List Byte)) (k : Cask) : Cask :=
  { k with running := k.running.map fun x => if x.op.op = o.op then { x with codes := codes } else x }

section start
variable {c : CaskId} {o : CaskOp} {off : Nat} {s : State} (b : OwnBlock c.val o off s)
include b

theorem devRead_header : devRead (c.val / 16) o.data 32 o.pkt s = (.ok (spRead (c.val / 16) off 32 s), s) := by
  have hr : c.val / 16 < 256 := by omega
  rw [b.addr, devRead_own hr (by decide) b.fits b.good]

theorem readToks_block :
    readToks (c.val / 16) (if o.infmt = 1 then 256 else 512) o.pkt
        ((List.range o.ntok).map (codesAddr o (leAt 12 4 (spRead (c.val / 16) off 32 s)))) s =
      (.ok [], blockCodes c.val o off s, s) := by
  have hr : c.val / 16 < 256 := by omega
  have hn : 0 < if o.infmt = 1 then 256 else 512 := by split <;> decide
  have fit := b.tokens
  generalize hoffs : (fun t => off + 32 + (o.token0 + t) * leAt 12 4 (spRead (c.val / 16) off 32 s) +
    o.block * (if o.infmt = 1 then 256 else 512)) = offs at *
  have addr : codesAddr o (leAt 12 4 (spRead (c.val / 16) off 32 s)) = fun t => spAddr (c.val / 16) (offs t) := by
    funext t
    rw [← hoffs, codesAddr, b.addr]
    simp only [spAddr]
    omega
  have own := readToks_own (offs := (List.range o.ntok).map offs) hr hn b.good o.pkt fun x hx => by
    obtain ⟨t, ht, rfl⟩ := List.mem_map.mp hx
    rw [← hoffs]
    exact fit t (List.mem_range.mp ht)
  rw [List.map_map, List.map_map] at own
  rw [addr]
  refine own.trans ?_
  rw [blockCodes, ← hoffs]
  rfl

/-- The operation's codes are read and its slots take the block's tags (R217, R248). -/
theorem startWith_reads : ∃ t, startWith c.val o (spRead (c.val / 16) off 32 s) s =
      modCask c.val (Cask.takeCodes o (blockCodes c.val o off s)) t ∧
    onlyIn [.racks] s t ∧ otherRacks (c.val / 16) s t := by
  have header : ¬ (byteAt 2 (spRead (c.val / 16) off 32 s) ≠ o.infmt ∨
      ceilDiv (leAt 8 4 (spRead (c.val / 16) off 32 s)) 512 ≤ o.block) := by
    have format := b.format
    have block := b.block
    omega
  unfold startWith
  rw [if_neg header, readToks_block b]
  obtain ⟨frame, others⟩ := modSlots_frame (c.val / 16) (fun k =>
    if k.tags.contains (leAt 0 2 (spRead (c.val / 16) off 32 s), byteAt 2 (spRead (c.val / 16) off 32 s),
      byteAt 3 (spRead (c.val / 16) off 32 s)) then k
    else { k with tags := k.tags ++ [(leAt 0 2 (spRead (c.val / 16) off 32 s), byteAt 2 (spRead (c.val / 16) off 32 s),
      byteAt 3 (spRead (c.val / 16) off 32 s))] }) o.slots s
  exact ⟨_, rfl, frame, others⟩

end start

/-- The codes go to the operation that started; the others keep theirs. -/
theorem starting_takeCodes {k : Cask} {o : CaskOp} (fresh : ∀ x ∈ k.running, x.op.op ≠ o.op) (now : Nat) (rest : List CaskOp)
    (codes : List (List Byte)) : (k.starting now o rest []).takeCodes o codes = k.starting now o rest codes := by
  have old : (k.running.map fun x => if x.op.op = o.op then { x with codes := codes } else x) = k.running :=
    (List.map_congr_left fun x hx => if_neg (fresh x hx)).trans (List.map_id _)
  have taken : ((k.starting now o rest []).running.map fun x => if x.op.op = o.op then { x with codes := codes } else x) =
      k.running ++ [startedRun o codes] := by
    show ((k.running ++ [startedRun o []]).map _) = _
    rw [List.map_append, old]
    simp [startedRun]
  rw [Cask.takeCodes, taken]
  rfl

theorem starting_racked (now : Nat) (o : CaskOp) (rest : List CaskOp) (codes : List (List Byte)) (k : Cask) :
    (k.starting now o rest codes).racked = k.racked ∧ (k.starting now o rest codes).shadowOk = k.shadowOk := by
  simp only [Cask.starting]
  split <;> exact ⟨rfl, rfl⟩

/-- An operation whose mode, format and shadow are right goes on with its data block (R53, R143, R248). -/
theorem startOp_reads {c : CaskId} {o : CaskOp} {rest : List CaskOp} {off : Nat} {s : State}
    (mode : rflag .CK_CONFIG c.val 0 0 s = o.w5) (format : o.infmt < 2)
    (shadow : (getCask c.val s).racked = true → (getCask c.val s).shadowOk = true) (b : OwnBlock c.val o off s) :
    startOp c.val o rest s = startWith c.val o (spRead (c.val / 16) off 32 s)
      (setCask c.val ((getCask c.val s).starting s.now o rest []) s) := by
  have ok : (rflag .CK_CONFIG c.val 0 0 s != o.w5 || decide (2 ≤ o.infmt)) = false := by
    have narrow : ¬ 2 ≤ o.infmt := by omega
    simp [mode, narrow]
  have whole : ((getCask c.val s).racked && !(getCask c.val s).shadowOk) = false := by
    cases r : (getCask c.val s).racked with
    | false => rfl
    | true => simp [shadow r]
  unfold startOp
  simp only
  generalize hx : modCask c.val _ s = x
  have begun : setCask c.val ((getCask c.val s).starting s.now o rest []) s = x := hx
  have mode' : rflag .CK_CONFIG c.val 0 0 x = rflag .CK_CONFIG c.val 0 0 s := by rw [← begun]; rfl
  have cask : getCask c.val x = (getCask c.val s).starting s.now o rest [] := by rw [← begun, getCask_setCask]
  have header : devRead (c.val / 16) o.data 32 o.pkt x = (.ok (spRead (c.val / 16) off 32 s), x) := by
    rw [← begun]
    exact devRead_header ⟨b.addr, b.fits, b.format, b.block, b.tokens, b.good⟩
  obtain ⟨racked, kept⟩ := starting_racked s.now o rest [] (getCask c.val s)
  rw [mode', ok, cask, racked, kept, whole, header, begun]
  simp only [Bool.false_eq_true, if_false]

/-- The oldest operation of a cask that may start it starts, where its mode and its data block are right (R65, R143, R243, R248, R505). -/
theorem caskOpStart_starts {c : CaskId} {o : CaskOp} {rest : List CaskOp} {off : Nat} {s : State}
    (oldest : (getCask c.val s).queue = o :: rest) (may : mayStart c.val s = true) (mode : rflag .CK_CONFIG c.val 0 0 s = o.w5)
    (format : o.infmt < 2) (shadow : (getCask c.val s).racked = true → (getCask c.val s).shadowOk = true)
    (fresh : ∀ x ∈ (getCask c.val s).running, x.op.op ≠ o.op) (b : OwnBlock c.val o off s) :
    ∃ u, exec (.caskOpStart c) s = .next u ∧ onlyIn [.casks, .racks] s u ∧ otherCasks c.val s u ∧ otherRacks (c.val / 16) s u ∧
      getCask c.val u = (getCask c.val s).starting s.now o rest (blockCodes c.val o off s) := by
  have run : exec (.caskOpStart c) s = .next (startOp c.val o rest s) := by
    show execCaskOpStart c s = _
    simp only [execCaskOpStart, oldest, may, if_true]
  have begun := setCask_onlyIn c.val ((getCask c.val s).starting s.now o rest []) s
  have b0 : OwnBlock c.val o off (setCask c.val ((getCask c.val s).starting s.now o rest []) s) :=
    ⟨b.addr, b.fits, b.format, b.block, b.tokens, b.good⟩
  obtain ⟨t, reads, frame, racks⟩ := startWith_reads b0
  have cask : getCask c.val t = (getCask c.val s).starting s.now o rest [] := by
    rw [getCask_congr (frame.same .casks (by decide)), getCask_setCask]
  rw [startOp_reads mode format shadow b] at run
  refine ⟨_, run.trans (congrArg Host.Outcome.next reads), ?_, ?_, ?_, ?_⟩
  · exact onlyIn_trans (onlyIn_mono begun (by decide)) (onlyIn_trans (onlyIn_mono frame (by decide))
      (onlyIn_mono (modCask_onlyIn ..) (by decide)))
  · exact otherCasks_trans (otherCasks_setCask _ _ s) (otherCasks_trans (otherCasks_of_onlyIn frame (by decide))
      (otherCasks_modCask _ _ t))
  · exact otherRacks_trans (otherRacks_of_onlyIn begun (by decide)) (otherRacks_trans racks
      (otherRacks_of_onlyIn (modCask_onlyIn ..) (by decide)))
  · rw [getCask_modCask, cask]
    exact starting_takeCodes fresh ..

theorem onlyIn_ite {p : Prop} [Decidable p] {ps : List Part} {s u : State} (h : onlyIn ps s u) : onlyIn ps s (if p then u else s) := by
  split
  · exact h
  · exact onlyIn_refl ..

/-! ### Operations that have made their last add leave -/

/-- What the completion of operations of a cask may change: the packets they belong to, their slots' pending counts, and of the cask
itself its operation counter (R66, R244, R504, R505). -/
structure CompletesOnly (c : Nat) (s u : State) : Prop where
  frame : onlyIn [.casks, .racks, .rings] s u
  casks : otherCasks c s u
  racks : otherRacks (c / 16) s u
  own : getCask c u = { getCask c s with progress := (getCask c u).progress, paused := (getCask c u).paused }

theorem completesOnly_of_casks {c : Nat} {s u : State} (frame : onlyIn [.racks, .rings] s u) (racks : otherRacks (c / 16) s u) :
    CompletesOnly c s u where
  frame := onlyIn_mono frame (by decide)
  casks := otherCasks_of_onlyIn frame (by decide)
  racks := racks
  own := by rw [getCask_congr (frame.same .casks (by decide))]

theorem completesOnly_refl (c : Nat) (s : State) : CompletesOnly c s s :=
  completesOnly_of_casks (onlyIn_refl ..) (otherRacks_refl _ s)

theorem completesOnly_trans {c : Nat} {s u v : State} (h : CompletesOnly c s u) (k : CompletesOnly c u v) : CompletesOnly c s v where
  frame := onlyIn_trans h.frame k.frame
  casks := otherCasks_trans h.casks k.casks
  racks := otherRacks_trans h.racks k.racks
  own := by rw [k.own, h.own]

theorem completesOnly_foldl {α : Type} {c : Nat} (f : State → α → State) (h : ∀ s x, CompletesOnly c s (f s x)) (l : List α)
    (s : State) : CompletesOnly c s (l.foldl f s) :=
  List.foldlRecOn l f (completesOnly_refl c s) fun u hu x _ => completesOnly_trans hu (h u x)

theorem restart_completes (c now : Nat) (s : State) : CompletesOnly c s (modCask c (fun k => k.restart now) s) where
  frame := onlyIn_mono (modCask_onlyIn ..) (by decide)
  casks := otherCasks_modCask _ _ s
  racks := otherRacks_of_onlyIn (modCask_onlyIn ..) (by decide)
  own := by rw [getCask_modCask]; rfl

/-- What changes packets alone. -/
theorem completesOnly_of_rings {c : Nat} {s u : State} (h : onlyIn [.rings] s u) : CompletesOnly c s u :=
  completesOnly_of_casks (onlyIn_mono h (by decide)) (otherRacks_of_onlyIn h (by decide))

theorem completesOnly_modSlot (c x : Nat) (f : Slot → Slot) (s : State) : CompletesOnly c s (modSlot (c / 16) x f s) :=
  completesOnly_of_casks (onlyIn_mono (modSlot_onlyIn ..) (by decide)) (otherRacks_modSlot _ x f s)

/-- The completion of an operation (R167, R244, R504, R505). -/
theorem finishOp_completes (c : Nat) (o : CaskOp) (s : State) : CompletesOnly c s (finishOp c o s) := by
  unfold finishOp
  simp only
  split
  · exact completesOnly_refl c s
  · refine completesOnly_trans ?_ (completesOnly_of_rings (ringProgress_onlyIn ..))
    refine completesOnly_trans ?_ (completesOnly_foldl _ (fun u x => completesOnly_modSlot c x _ u) _ _)
    refine completesOnly_trans ?_ (restart_completes c s.now _)
    split
    · exact completesOnly_of_rings (pktFlag_onlyIn ..)
    · exact completesOnly_refl c s

/-- The cask without the operations that have made their last add (R66). -/
def Cask.settled (k : Cask) : Cask := { k with running := k.running.filter fun o => !o.over' }

/-- Operations that have made their last add leave the cask and complete (R66). -/
theorem settle_completes (c : Nat) (s : State) : CompletesOnly c (setCask c (getCask c s).settled s) (settle c s) :=
  completesOnly_foldl _ (fun (u : State) (o : RunOp) => finishOp_completes c o.op u) _ _

theorem settle_frame (c : Nat) (s : State) : onlyIn [.casks, .racks, .rings] s (settle c s) :=
  onlyIn_trans (onlyIn_mono (setCask_onlyIn ..) (by decide)) (settle_completes c s).frame

theorem settle_otherCasks (c : Nat) (s : State) : otherCasks c s (settle c s) :=
  otherCasks_trans (otherCasks_setCask _ _ s) (settle_completes c s).casks

theorem settle_otherRacks (c : Nat) (s : State) : otherRacks (c / 16) s (settle c s) :=
  otherRacks_trans (otherRacks_of_onlyIn (setCask_onlyIn ..) (by decide)) (settle_completes c s).racks

theorem getCask_settle (c : Nat) (s : State) : getCask c (settle c s) = { (getCask c s).settled with
    progress := (getCask c (settle c s)).progress, paused := (getCask c (settle c s)).paused } := by
  have own := (settle_completes c s).own
  rwa [getCask_setCask] at own

/-! ### A token is admitted -/

/-- The requests of the next token of an operation: one for each sub-step of each slice (R59, R92). -/
def RunOp.nextReqs (k : Cask) (g : Gain) (o : RunOp) : List SliceReq :=
  (slicesOf (decide (o.op.infmt = 1))).flatMap fun x => sliceReqs k k.ceil g o.op.op o.admitted x
    (sliceLevels (decide (o.op.infmt = 1)) x (nthD [] o.admitted o.codes))

/-- The gain policy an operation runs on: what its first admitted token took, its own override, or the cask's (R71). -/
def runGain (c : Nat) (o : RunOp) (s : State) : Gain := o.used.getD (o.op.govr.getD (gainGroup c s))

/-- The cask with a token of an operation admitted: the operation replaced, its requests behind those that wait (R90). -/
def Cask.admitting (o o1 : RunOp) (reqs : List SliceReq) (k : Cask) : Cask :=
  { k with running := k.running.map (fun x => if x.op.op = o.op.op then o1 else x), waiting := k.waiting ++ reqs }

/-- The operation one token further, split into a number of sub-steps (R71, R92). -/
def RunOp.admitOne (g : Gain) (subs : Nat) (o : RunOp) : RunOp :=
  { o with admitted := o.admitted + 1, used := some g, splitMax := max o.splitMax subs }

/-- Admission of a token that has requests admits its operation one token further under its gain; beside the cask it changes counters, flags
and what an event does (R64, R71, R90, R92). -/
theorem admitToken_admits {c : Nat} {o : RunOp} {s : State} (more : o.nextReqs (getCask c s) (runGain c o s) ≠ []) :
    ∃ subs, onlyIn eventParts (setCask c ((getCask c s).admitting o (o.admitOne (runGain c o s) subs)
      (o.nextReqs (getCask c s) (runGain c o s))) s) (admitToken c o s) := by
  have flat : ∀ (f : Nat → List Int) (g : Nat → List Int → List SliceReq) (l : List Nat),
      ((l.map fun x => (x, f x)).map fun x => g x.1 x.2).flatten = l.flatMap fun x => g x (f x) := fun f g l => by
    rw [List.map_map, List.flatMap_def]
    rfl
  have reqs : _ = o.nextReqs (getCask c s) (runGain c o s) := flat
    (fun x => sliceLevels (decide (o.op.infmt = 1)) x (nthD [] o.admitted o.codes))
    (fun x l => sliceReqs (getCask c s) (getCask c s).ceil (runGain c o s) o.op.op o.admitted x l) (slicesOf (decide (o.op.infmt = 1)))
  have pending : (o.nextReqs (getCask c s) (runGain c o s)).isEmpty = false := by simpa using more
  unfold admitToken
  simp only
  rw [show (o.used.getD (o.op.govr.getD (gainGroup c s))) = runGain c o s from rfl, reqs, pending]
  simp only [Bool.false_eq_true, if_false]
  generalize (List.map subSteps _).foldl max 0 = subs
  generalize hx : setCask c _ s = x
  have admits : setCask c ((getCask c s).admitting o (o.admitOne (runGain c o s) subs)
    (o.nextReqs (getCask c s) (runGain c o s))) s = x := hx
  refine ⟨subs, ?_⟩
  rw [admits]
  refine onlyIn_trans ?_ (onlyIn_ite (raiseEvent_onlyIn ..))
  refine onlyIn_trans ?_ (onlyIn_ite (onlyIn_mono (pktFlag_onlyIn ..) (by decide)))
  exact onlyIn_trans (onlyIn_mono (bump_onlyIn ..) (by decide)) (onlyIn_mono (bump_onlyIn ..) (by decide))

/-- The requests of a token are its operation's, and no replays (R92). -/
theorem sliceReqs_mem {k : Cask} {ceil : Nat → Nat} {p : Gain} {op tok slice : Nat} {levels : List Int} {q : SliceReq}
    (h : q ∈ sliceReqs k ceil p op tok slice levels) : q.op = op ∧ q.replay = false := by
  simp only [sliceReqs, List.mem_map] at h
  obtain ⟨t, -, rfl⟩ := h
  exact ⟨rfl, rfl⟩

theorem nextReqs_mem {k : Cask} {g : Gain} {o : RunOp} {q : SliceReq} (h : q ∈ o.nextReqs k g) : q.op = o.op.op ∧ q.replay = false := by
  obtain ⟨x, -, hq⟩ := List.mem_flatMap.mp h
  exact sliceReqs_mem hq

/-- An operation whose original slice is posted is before its boundary (R66). -/
theorem noteBoundary_of_posted {c id : Nat} {s : State} {p : Posted} (posted : (getCask c s).posted = some p) (op : p.req.op = id)
    (original : p.req.replay = false) : noteBoundary c id s = s := by
  have busy : (getCask c s).integrating id = true := by simp [Cask.integrating, posted, op, original]
  simp [noteBoundary, busy]

section admission
variable {c : CaskId} {o : RunOp} {q : SliceReq} {rest : List SliceReq} {s : State}
  (oldest : (getCask c.val s).running.find? (fun x => !x.past && decide (x.admitted < x.op.ntok)) = some o)
  (idle : (getCask c.val s).waiting = []) (free : (getCask c.val s).posted = none) (noReplay : (getCask c.val s).replays = [])
  (reqs : o.nextReqs (getCask c.val s) (runGain c.val o s) = q :: rest)
include idle free noReplay reqs

/-- The admitted token's first request is posted with age 0 and the cask's home window, the others wait (R74, R98, R105). -/
theorem postNext_admitToken : ∃ subs, onlyIn (.casks :: eventParts) s (postNext c.val (admitToken c.val o s)) ∧
    otherCasks c.val s (postNext c.val (admitToken c.val o s)) ∧
    getCask c.val (postNext c.val (admitToken c.val o s)) = Cask.posting (homeWindow c.val s) s.now q rest
      ((getCask c.val s).admitting o (o.admitOne (runGain c.val o s) subs) (q :: rest)) := by
  obtain ⟨subs, tail⟩ := admitToken_admits (c := c.val) (o := o) (s := s) (by rw [reqs]; exact List.cons_ne_nil _ _)
  rw [reqs] at tail
  have cask : getCask c.val (admitToken c.val o s) =
      (getCask c.val s).admitting o (o.admitOne (runGain c.val o s) subs) (q :: rest) := by
    rw [getCask_congr (tail.same .casks (by decide)), getCask_setCask]
  have home : homeWindow c.val (admitToken c.val o s) = homeWindow c.val s := by
    rw [homeWindow, tail.same .ledger (by decide)]
    rfl
  have now : (admitToken c.val o s).now = s.now := tail.same .clock (by decide)
  have posts := postNext_posts (c := c.val) (s := admitToken c.val o s) (q := q) (rest := rest) (by rw [cask]; exact free)
    (by rw [cask]; exact noReplay) (by rw [cask, Cask.admitting, idle]; rfl)
  rw [home, now, cask] at posts
  refine ⟨subs, ?_, ?_, ?_⟩
  · rw [posts]
    exact onlyIn_trans (onlyIn_mono (setCask_onlyIn ..) (by decide)) (onlyIn_trans (onlyIn_mono tail (by decide))
      (onlyIn_mono (setCask_onlyIn ..) (by decide)))
  · rw [posts]
    exact otherCasks_trans (otherCasks_setCask _ _ s) (otherCasks_trans (otherCasks_of_onlyIn tail (by decide))
      (otherCasks_setCask _ _ (admitToken c.val o s)))
  · rw [posts, getCask_setCask]

include oldest

/-- ADMISSION of a token that has requests (R71, R89 to R98). -/
theorem admission_posts (noInc : s.hang.incident = none) :
    ∃ u, exec (.admission c) s = .next u ∧ onlyIn (.casks :: .racks :: eventParts) s u ∧ otherCasks c.val s u ∧
      (getCask c.val u).posted = some ⟨q, homeWindow c.val s, 0, s.now, none⟩ ∧ (getCask c.val u).waiting = rest ∧
      ∃ x ∈ (getCask c.val u).running, x.op = o.op ∧ x.admitted = o.admitted + 1 ∧ x.used = some (runGain c.val o s) := by
  obtain ⟨subs, frame, others, cask⟩ := postNext_admitToken idle free noReplay reqs
  obtain ⟨op, original⟩ := nextReqs_mem (q := q) (by rw [reqs]; exact List.mem_cons_self ..)
  have stays := noteBoundary_of_posted (c := c.val) (id := o.op.op) (s := postNext c.val (admitToken c.val o s)) (by rw [cask]; rfl)
    op original
  have run : exec (.admission c) s = .next (settle c.val (postNext c.val (admitToken c.val o s))) := by
    rw [← stays]
    show execAdmission c s = _
    unfold execAdmission
    simp only [oldest]
    rw [if_pos (by simp [idle, frozenWhere_of_noIncident noInc]), stays]
  have own := getCask_settle c.val (postNext c.val (admitToken c.val o s))
  rw [cask] at own
  have member : o ∈ (getCask c.val s).running := List.mem_of_find?_eq_some oldest
  have before : o.past = false := by
    have := List.find?_some oldest
    simp only [Bool.and_eq_true, Bool.not_eq_true'] at this
    exact this.1
  have stay : (o.admitOne (runGain c.val o s) subs).over' = false := by simp [RunOp.over', RunOp.admitOne, before]
  refine ⟨_, run, ?_, ?_, ?_, ?_, o.admitOne (runGain c.val o s) subs, ?_, rfl, rfl, rfl⟩
  · exact onlyIn_trans (onlyIn_mono frame (by decide)) (onlyIn_mono (settle_frame ..) (by decide))
  · exact otherCasks_trans others (settle_otherCasks c.val _)
  · rw [own]; rfl
  · rw [own]; rfl
  · rw [own]
    exact List.mem_filter.mpr ⟨List.mem_map.mpr ⟨o, member, if_pos rfl⟩, by rw [stay]; rfl⟩

end admission

/-! ### A replay is posted -/

/-- REPLAY_POST: the oldest replay is posted as any request is, and counted as a sub-step (R74, R95). -/
theorem replayPost_posts {c : CaskId} {q : SliceReq} {rest : List SliceReq} {s : State} (noInc : s.hang.incident = none)
    (free : (getCask c.val s).posted = none) (oldest : (getCask c.val s).replays = q :: rest) :
    exec (.replayPost c) s = .next (bump .LG_SUBSTEPS 0 (c.val / 1024) 1 (setCask c.val
      { getCask c.val s with posted := some ⟨q, homeWindow c.val s, 0, s.now, none⟩, replays := rest } s)) := by
  show execReplayPost c s = _
  unfold execReplayPost
  simp only
  split
  · next hq =>
    rw [oldest] at hq
    cases hq
    rw [if_neg (by simp [frozenWhere_of_noIncident noInc]), post, modCask_setCask]
    rfl
  · next h => exact absurd oldest (h q rest free)

/-! ### The buffer of the previous integrating step is converted -/

/-- A part none of whose conversions saturates adds its codes to those of the cask (R61). -/
theorem convertPart_codes {c : Nat} {o : RunOp} {b : ChargeBuf} {q : SegPart} (acc : State × List SegPart)
    (inRange : b.saturated (decide (o.kind = .refRead)) q = []) :
    convertPart c o b acc q = (modCask c (fun k => { k with convs := k.convs ++ [b.convPart q] }) acc.1, acc.2) := by
  simp only [convertPart, inRange, List.foldl_nil, List.isEmpty_nil, Bool.not_true, Bool.false_and, Bool.false_eq_true, if_false]

theorem convertParts_codes {c : Nat} {o : RunOp} {b : ChargeBuf} {ps : List SegPart}
    (inRange : ∀ q ∈ ps, b.saturated (decide (o.kind = .refRead)) q = []) (k : Cask) (s : State) :
    ps.foldl (convertPart c o b) (setCask c k s, []) = (setCask c { k with convs := k.convs ++ ps.map b.convPart } s, []) := by
  induction ps generalizing k with
  | nil => simp
  | cons q ps ih =>
    rw [List.forall_mem_cons] at inRange
    rw [List.foldl_cons, convertPart_codes _ inRange.1, modCask_setCask, ih inRange.2]
    simp

theorem Cask.clearBuf_posted (k : Cask) : k.clearBuf.posted = k.posted ∧ k.clearBuf.replays = k.replays ∧
    k.clearBuf.waiting = k.waiting ∧ k.clearBuf.convs = k.convs := by
  unfold Cask.clearBuf
  split <;> exact ⟨rfl, rfl, rfl, rfl⟩

/-- The buffer is converted, without saturation to its codes, and then reset (R60, R61, R63). -/
theorem convertBuf_codes {c : Nat} {s : State} {b : ChargeBuf} {o : RunOp} (full : (getCask c s).buf = some b)
    (whose : (getCask c s).running.find? (fun x => decide (x.op.op = b.req.op)) = some o)
    (inRange : ∀ q ∈ b.req.parts, b.saturated (decide (o.kind = .refRead)) q = []) :
    convertBuf c s = setCask c { (getCask c s).clearBuf with convs := (getCask c s).convs ++ b.req.parts.map b.convPart } s := by
  obtain ⟨-, -, -, convs⟩ := (getCask c s).clearBuf_posted
  simp only [convertBuf, full, whose]
  rw [convertParts_codes inRange, ← convs]
  rfl

theorem integrateGranted_nothing {c : Nat} {s : State} (dev : Store Int) (free : (getCask c s).posted = none) :
    integrateGranted c dev s = s := by
  simp only [integrateGranted, free]

theorem sliceStep_converts {c : CaskId} {b : ChargeBuf} {o : RunOp} {s : State} (noInc : s.hang.incident = none)
    (full : (getCask c.val s).buf = some b) (free : (getCask c.val s).posted = none) (wait : (getCask c.val s).waiting = [])
    (whose : (getCask c.val s).running.find? (fun x => decide (x.op.op = b.req.op)) = some o)
    (inRange : ∀ q ∈ b.req.parts, b.saturated (decide (o.kind = .refRead)) q = []) :
    exec (.sliceStep c []) s = .next (setCask c.val
      { (getCask c.val s).clearBuf with convs := (getCask c.val s).convs ++ b.req.parts.map b.convPart } s) := by
  obtain ⟨posted, -, waiting, -⟩ := (getCask c.val s).clearBuf_posted
  show execSliceStep c [] s = _
  unfold execSliceStep
  rw [if_neg (by simp [frozenWhere_of_noIncident noInc])]
  simp only
  rw [convertBuf_codes full whose inRange, integrateGranted_nothing _ (by rw [getCask_setCask]; exact posted.trans free),
    postNext_nothing (by rw [getCask_setCask]; exact waiting.trans wait)]

/-- Settles O21: the start of an operation, then its admission, a replay and a conversion. -/
theorem caskOperationsAdmitAndConvert : Obligations.CaskOperationsAdmitAndConvert := by
  unfold Obligations.CaskOperationsAdmitAndConvert
  refine ⟨fun c o rest off s => ?_, fun c s noInc => ⟨fun o q rest oldest idle free noReplay => ?_, fun q rest free oldest => ?_,
    fun b o full free _ wait whose inRange => ?_⟩⟩
  · intro k h n oldest may mode format shadow fresh addr fmt block tokens fits good
    exact caskOpStart_starts oldest may mode format shadow fresh ⟨addr, fits, fmt, block, tokens, good⟩
  · intro a4 g reqs
    exact admission_posts oldest idle free noReplay reqs noInc
  · exact ⟨_, replayPost_posts noInc free oldest, onlyIn_trans (onlyIn_mono (setCask_onlyIn ..) (by decide))
      (onlyIn_mono (bump_onlyIn ..) (by decide)), otherCasks_setCask _ _ s, otherRegs_rset _ _ _ _ (setCask c.val _ s),
      getCask_setCask c.val _ s⟩
  · exact ⟨_, sliceStep_converts noInc full free wait whose inRange, setCask_onlyIn .., otherCasks_setCask _ _ s, getCask_setCask ..⟩

end Sys2Proof.Machine
end

section
/-! SUPPORT. Granted slices that integrate and tokens that are added (R60, R63, R67, R69, R103, R175, R239). -/

namespace Sys2Proof.Machine

/-! ### The books of a window -/

theorem getBook_modBook (q w : Nat) (f : Book → Book) (s : State) : getBook q w (modBook q w f s) = f (getBook q w s) :=
  Store.getD_put_same ..

theorem getBook_modBook_ne {q w x y : Nat} (f : Book → Book) (s : State) (h : 32 * x + y ≠ 32 * q + w) :
    getBook x y (modBook q w f s) = getBook x y s := Store.getD_put_ne _ _ _ h

theorem getBook_congr {s u : State} (h : u.ledger = s.ledger) (q w : Nat) : getBook q w u = getBook q w s := by
  rw [getBook, h, getBook]

theorem modBook_onlyIn (q w : Nat) (f : Book → Book) (s : State) : onlyIn [.ledger] s (modBook q w f s) := by
  constructor
  intro p hp
  cases p with
  | ledger => exact absurd (List.mem_singleton.mpr rfl) hp
  | _ => rfl

/-- The books of a window once a cask has taken its credits (R103). -/
def Book.taking (g : Grant) (cost : Nat) (b : Book) : Book :=
  { b.opened g with granted := (b.opened g).granted + cost, out := b.out + cost }

/-- Credits are taken from books that hold no late credit of an earlier slice step (R103, R106). -/
theorem takeCredits_takes {q : Nat} {g : Grant} {s : State}
    (inTime : (getBook q (windowAt g.at') s).late s.now = false ∨ (getBook q (windowAt g.at') s).at' = g.at') (cost : Nat) :
    takeCredits q g cost s = modBook q (windowAt g.at') (Book.taking g cost) s := by
  have noAudit : ((getBook q (windowAt g.at') s).late s.now && decide ((getBook q (windowAt g.at') s).at' ≠ g.at')) = false := by
    rcases inTime with h | h <;> simp [h]
  have out : ∀ b : Book, (b.opened g).out = b.out := fun b => by
    unfold Book.opened
    split <;> rfl
  unfold takeCredits
  simp only [noAudit, Bool.false_eq_true, if_false, out]
  rfl

/-! ### Pin sets and boundaries of the operations in execution -/

/-- Of a cask only its operations in execution and whether it was found empty may change; beside it only racks. -/
structure RunsOnly (c : Nat) (s u : State) : Prop where
  frame : onlyIn [.casks, .racks] s u
  casks : otherCasks c s u
  own : getCask c u = { getCask c s with running := (getCask c u).running, foundEmpty := (getCask c u).foundEmpty }

theorem runsOnly_refl (c : Nat) (s : State) : RunsOnly c s s := ⟨onlyIn_refl .., fun _ _ => rfl, rfl⟩

theorem runsOnly_trans {c : Nat} {s u v : State} (h : RunsOnly c s u) (k : RunsOnly c u v) : RunsOnly c s v where
  frame := onlyIn_trans h.frame k.frame
  casks := otherCasks_trans h.casks k.casks
  own := by rw [k.own, h.own]

theorem runsOnly_modCask {c : Nat} {f : Cask → Cask}
    (runs : ∀ k, f k = { k with running := (f k).running, foundEmpty := (f k).foundEmpty }) (s : State) : RunsOnly c s (modCask c f s) where
  frame := onlyIn_mono (modCask_onlyIn ..) (by decide)
  casks := otherCasks_modCask _ _ s
  own := by rw [getCask_modCask]; exact runs _

theorem runsOnly_modRack (c r : Nat) (f : RackSt → RackSt) (s : State) : RunsOnly c s (modRack r f s) :=
  ⟨onlyIn_mono (modRack_onlyIn ..) (by decide), otherCasks_of_casks rfl, rfl⟩

theorem fixPins_runs (c id : Nat) (pin : List Word) (s : State) : RunsOnly c s (fixPins c id pin s) :=
  by
  unfold fixPins
  exact runsOnly_trans (runsOnly_modCask (fun _ => rfl) s) (runsOnly_modRack ..)

theorem noteBoundary_runs (c id : Nat) (s : State) : RunsOnly c s (noteBoundary c id s) := by
  unfold noteBoundary
  simp only
  split
  · exact runsOnly_trans (fixPins_runs c id _ s) (runsOnly_modCask (fun _ => rfl) _)
  · exact runsOnly_refl c s

/-! ### A granted slice integrates -/

theorem convertBuf_empty {c : Nat} {s : State} (empty : (getCask c s).buf = none) : convertBuf c s = s := by
  simp only [convertBuf, empty]

theorem Cask.fill_buf (k : Cask) (b : ChargeBuf) : (k.fill b).buf = some b := by
  unfold Cask.fill
  split <;> rfl

/-- The CK_REMAP and CK_PIN words under which a request integrates: a replay's own, or those in force (R74, R82). -/
def mapOf (c : Nat) (q : SliceReq) (s : State) : List Word × List Word := q.map.getD (remapWords c s, pinWords c s)

/-- The fit of R172, fixed by the first slice of an operation. -/
def RunOp.fixFit (id : Nat) (fit : Word × Word) (o : RunOp) : RunOp :=
  if o.op.op = id && o.fit.isNone then { o with fit := some fit } else o

/-- The cask with the charge of its granted request in its buffer (R60, R63). -/
def Cask.integrated (now : Nat) (q : SliceReq) (b : ChargeBuf) (k : Cask) : Cask :=
  { k.fill b with posted := none, running := k.running.map (RunOp.fixFit q.op (k.fitG, k.fitO)), progress := now, paused := 0 }

/-- The state in which the charge is integrated and its step counted (R63). -/
def sliceHeld (c : Nat) (q : SliceReq) (dev : Store Int) (s : State) : State :=
  bump .CK_STEP_COUNT c 0 1 (setCask c
    ((getCask c s).integrated s.now q (integrate (getCask c s) q (mapOf c q s).1 (mapOf c q s).2 dev)) s)

/-- That state with the slice's credits taken (R103). -/
def sliceTaken (c : Nat) (q : SliceReq) (g : Grant) (dev : Store Int) (s : State) : State :=
  modBook (c / 1024) (windowAt g.at') (Book.taking g q.cost) (sliceHeld c q dev s)

/-- A granted request integrates once its window has begun; what follows touches its operation alone (R63, R143). -/
theorem integrateGranted_takes {c : Nat} {q : SliceReq} {st age t : Nat} {g : Grant} {dev : Store Int} {s : State}
    (posted : (getCask c s).posted = some ⟨q, st, age, t, some g⟩) (begun : g.at' ≤ s.now)
    (inTime : (getBook (c / 1024) (windowAt g.at') s).late s.now = false ∨ (getBook (c / 1024) (windowAt g.at') s).at' = g.at') :
    RunsOnly c (sliceTaken c q g dev s) (integrateGranted c dev s) := by
  unfold integrateGranted
  simp only [posted]
  rw [if_neg (by omega)]
  generalize hx : takeCredits (c / 1024) g q.cost _ = x
  have taken : sliceTaken c q g dev s = x := (takeCredits_takes (s := sliceHeld c q dev s) inTime q.cost).symm.trans hx
  rw [taken]
  refine runsOnly_trans ?_ (noteBoundary_runs ..)
  split
  · exact runsOnly_refl c x
  · exact fixPins_runs ..

theorem sliceTaken_frame (c : Nat) (q : SliceReq) (g : Grant) (dev : Store Int) (s : State) :
    onlyIn [.casks, .regs, .ledger] s (sliceTaken c q g dev s) :=
  onlyIn_trans (u := sliceHeld c q dev s)
    (onlyIn_trans (onlyIn_mono (setCask_onlyIn ..) (by decide)) (onlyIn_mono (bump_onlyIn ..) (by decide)))
    (onlyIn_mono (modBook_onlyIn ..) (by decide))

theorem getCask_sliceTaken (c : Nat) (q : SliceReq) (g : Grant) (dev : Store Int) (s : State) : getCask c (sliceTaken c q g dev s) =
    (getCask c s).integrated s.now q (integrate (getCask c s) q (mapOf c q s).1 (mapOf c q s).2 dev) :=
  getCask_setCask c _ s

theorem Cask.integrated_buf (now : Nat) (q : SliceReq) (b : ChargeBuf) (k : Cask) : (k.integrated now q b).buf = some b :=
  (show (k.integrated now q b).buf = (k.fill b).buf from rfl).trans (k.fill_buf b)

theorem Cask.integrated_waiting (now : Nat) (q : SliceReq) (b : ChargeBuf) (k : Cask) : (k.integrated now q b).waiting = k.waiting := by
  simp only [Cask.integrated, Cask.fill]
  split <;> rfl

/-- The deviations that come with a slice step, as a table (log entry 5). -/
def deviations (dev : List (Nat × Int)) : Store Int := dev.foldl (fun m e => Store.put e.1 e.2 m) []

/-- SLICE_STEP of a cask with a granted request, its previous buffer converted before (R60, R63, R103). -/
theorem sliceStep_integrates (c : CaskId) (dev : List (Nat × Int)) {q : SliceReq} {st age t : Nat} {g : Grant} {s : State}
    (noInc : s.hang.incident = none) (empty : (getCask c.val s).buf = none)
    (posted : (getCask c.val s).posted = some ⟨q, st, age, t, some g⟩) (wait : (getCask c.val s).waiting = []) (begun : g.at' ≤ s.now)
    (inTime : (getBook (c.val / 1024) (windowAt g.at') s).late s.now = false ∨
      (getBook (c.val / 1024) (windowAt g.at') s).at' = g.at') :
    ∃ u, exec (.sliceStep c dev) s = .next u ∧
      RunsOnly c.val (sliceTaken c.val q g (deviations dev) s) u := by
  have runs := integrateGranted_takes (dev := deviations dev) posted begun inTime
  have nothing : (getCask c.val (integrateGranted c.val (deviations dev) s)).waiting = [] := by
    rw [runs.own, getCask_sliceTaken]
    exact (Cask.integrated_waiting s.now q _ _).trans wait
  refine ⟨_, ?_, runs⟩
  show execSliceStep c dev s = _
  unfold execSliceStep
  rw [if_neg (by simp [frozenWhere_of_noIncident noInc])]
  simp only
  rw [convertBuf_empty empty]
  exact congrArg Host.Outcome.next (postNext_nothing nothing)

/-- What that step leaves: the charge held, the step counted, the credits in the window's books (R63, R103). -/
theorem sliceTaken_effect {c : Nat} {q : SliceReq} {g : Grant} {dev : Store Int} {s u : State}
    (runs : RunsOnly c (sliceTaken c q g dev s) u) :
    onlyIn [.casks, .regs, .ledger, .racks] s u ∧ otherCasks c s u ∧ (getCask c u).posted = none ∧
      (getCask c u).buf = some (integrate (getCask c s) q (mapOf c q s).1 (mapOf c q s).2 dev) ∧
      rget .CK_STEP_COUNT c 0 u = rget .CK_STEP_COUNT c 0 s + 1 ∧
      getBook (c / 1024) (windowAt g.at') u = Book.taking g q.cost (getBook (c / 1024) (windowAt g.at') s) ∧
      ∀ x y, 32 * x + y ≠ 32 * (c / 1024) + windowAt g.at' → getBook x y u = getBook x y s := by
  have ledger := runs.frame.same .ledger (by decide)
  refine ⟨?_, ?_, ?_, ?_, ?_, ?_, fun x y n => ?_⟩
  · exact onlyIn_trans (onlyIn_mono (sliceTaken_frame ..) (by decide)) (onlyIn_mono runs.frame (by decide))
  · exact otherCasks_trans (u := sliceTaken c q g dev s) (otherCasks_setCask c _ s) runs.casks
  · rw [runs.own, getCask_sliceTaken]
    rfl
  · rw [runs.own, getCask_sliceTaken]
    exact Cask.integrated_buf s.now q _ _
  · rw [rget_congr (runs.frame.same .regs (by decide))]
    exact rget_rset ..
  · rw [getBook_congr ledger, sliceTaken, getBook_modBook]
    rfl
  · rw [getBook_congr ledger, sliceTaken, getBook_modBook_ne _ _ n]
    rfl

/-! ### An event leaves AccMem and the scratchpads as they were -/

/-- Of the memories only DRAM and the shared cache may differ. -/
def DramOnly (m n : Mem) : Prop := n.acc = m.acc ∧ n.accBad = m.accBad ∧ n.sp = m.sp ∧ n.spBad = m.spBad

theorem dramOnly_refl (m : Mem) : DramOnly m m := ⟨rfl, rfl, rfl, rfl⟩

theorem dramOnly_trans {m n l : Mem} (h : DramOnly m n) (k : DramOnly n l) : DramOnly m l := by
  obtain ⟨acc, accBad, sp, spBad⟩ := h
  obtain ⟨acc', accBad', sp', spBad'⟩ := k
  exact ⟨acc'.trans acc, accBad'.trans accBad, sp'.trans sp, spBad'.trans spBad⟩

theorem dramOnly_of_onlyIn {ps : List Part} {s u : State} (h : onlyIn ps s u) (n : Part.mem ∉ ps) : DramOnly s.mem u.mem := by
  rw [h.same .mem n]
  exact dramOnly_refl _

theorem dramOnly_foldl {α β : Type} (f : Mem × β → α → Mem × β) (h : ∀ a x, DramOnly a.1 (f a x).1) (l : List α)
    (a : Mem × β) : DramOnly a.1 (l.foldl f a).1 :=
  List.foldlRecOn (motive := fun b => DramOnly a.1 b.1) l f (dramOnly_refl a.1) fun b hb x _ => dramOnly_trans hb (h b x)

theorem evictLine_dramOnly (line : Nat) (m : Mem) : DramOnly m (evictLine line m).1 := by
  unfold evictLine
  refine dramOnly_foldl _ (fun a k => ?_) (List.range 4) (m, [])
  simp only
  split
  · exact dramOnly_refl _
  · split
    · split <;> exact dramOnly_refl a.1
    · exact dramOnly_refl a.1

theorem makeRoom_dramOnly (line : Nat) (m : Mem) : DramOnly m (makeRoom line m).2.1 := by
  unfold makeRoom
  split
  · exact dramOnly_refl m
  · simp only
    split
    · exact dramOnly_refl m
    · split
      · exact dramOnly_refl m
      · exact evictLine_dramOnly ..

theorem putSector_dramOnly (sec : Nat) (data : List Byte) (s : State) : DramOnly s.mem (putSector sec data s).1.mem := by
  have room := makeRoom_dramOnly (sec / 4) { s.mem with seals := s.mem.seals.drop (sec / 128), failed := s.mem.failed.drop sec }
  unfold putSector
  simp only
  split
  · split <;> exact room
  · exact dramOnly_refl s.mem

theorem deliverEvent_dramOnly (cls : Nat) (rec' : List Byte) (s : State) : DramOnly s.mem (deliverEvent cls rec' s).1.mem := by
  unfold deliverEvent
  simp only
  split
  · exact dramOnly_refl s.mem
  · split
    · exact dramOnly_refl s.mem
    · generalize hx : rset .EQ_TAIL 0 _ _ (putSector _ _ s).1 = x
      have put : DramOnly s.mem x.mem := by
        rw [← hx]
        exact putSector_dramOnly ..
      split
      · exact dramOnly_trans put (dramOnly_of_onlyIn
          (s := { x with armed := Store.drop (fieldOf 3 0 (rget .EV_ROUTE 0 cls s)) x.armed }) (raiseVector_onlyIn ..) (by decide))
      · exact put

theorem postEvent_dramOnly (cls : Nat) (rec' : List Byte) (s : State) : DramOnly s.mem (postEvent cls rec' s).1.mem := by
  unfold postEvent
  split
  · exact deliverEvent_dramOnly ..
  · exact dramOnly_refl s.mem

theorem poisonAll_dramOnly (n : Nat) (secs : List Nat) (s : State) : DramOnly s.mem (poisonAll n secs s).mem := by
  induction n generalizing secs s with
  | zero => exact dramOnly_refl s.mem
  | succ n ih =>
    cases secs with
    | nil => exact dramOnly_refl s.mem
    | cons sec rest => exact dramOnly_trans (postEvent_dramOnly _ _ (notePoison sec s)) (ih _ _)

/-- Raising an event writes its record to DRAM, and changes no other memory (R234, R237, R376). -/
theorem raiseEvent_dramOnly (code unit aux detail : Nat) (p : Option PktId) (s : State) :
    DramOnly s.mem (raiseEvent code unit aux detail p s).mem := by
  have packet : ∀ f, DramOnly s.mem (modPktOf p f s).mem := fun f => dramOnly_of_onlyIn (modPktOf_onlyIn p f s) (by decide)
  exact dramOnly_trans (packet _) (dramOnly_trans (postEvent_dramOnly _ _ _) (poisonAll_dramOnly _ _ _))

/-! ### Adds into AccMem -/

/-- An element of AccMem by its key. -/
def accAt (a : Nat) (s : State) : BitVec 36 := Store.getD 0 a s.mem.acc

/-- AccMem is in canonical form. -/
def AccWf (s : State) : Prop := Store.wf 0 s.mem.acc = true

/-- The key of a logical column of an operation's token: its slot and channel (R67). -/
def columnKey (c : Nat) (o : CaskOp) (tok j : Nat) : Nat := accKey (c / 16) (o.slot + j / 256) tok (j % 256)

theorem columnKey_ne {c : Nat} {o : CaskOp} {tok i j : Nat} (h : i ≠ j) : columnKey c o tok i ≠ columnKey c o tok j := by
  unfold columnKey accKey
  omega

/-- What a token adds to a logical column: nothing to a pinned one (R67). -/
def columnAdd (o : CaskOp) (pin : List Word) (cs : List Conv) (j : Nat) : BitVec 36 :=
  if pinnedColumn o.w5 pin j then 0 else BitVec.ofInt 36 (columnSum o.w5 cs j)

/-- One logical column of a token added. -/
def addColumn (c : Nat) (o : CaskOp) (pin : List Word) (tok : Nat) (cs : List Conv) (s : State) (j : Nat) : State :=
  if pinnedColumn o.w5 pin j then s else accAdd (c / 16) (o.slot + j / 256) tok (j % 256) (columnSum o.w5 cs j) s

section columns
variable (c : Nat) (o : CaskOp) (pin : List Word) (tok : Nat) (cs : List Conv)

/-- The add of one column is exact modulo 2³⁶, and no other element changes (R67, R239). -/
theorem accAt_addColumn {s : State} (wf : AccWf s) (j : Nat) : AccWf (addColumn c o pin tok cs s j) ∧
    accAt (columnKey c o tok j) (addColumn c o pin tok cs s j) = accAt (columnKey c o tok j) s + columnAdd o pin cs j ∧
    ∀ a, a ≠ columnKey c o tok j → accAt a (addColumn c o pin tok cs s j) = accAt a s := by
  unfold addColumn columnAdd
  split
  · exact ⟨wf, (add_zero _).symm, fun _ _ => rfl⟩
  · exact ⟨Store.setD_wf _ _ _ _ wf, Store.getD_setD_same _ _ _ _ wf, fun a n => Store.getD_setD_ne _ _ _ wf n⟩

/-- So are the adds of columns, each of which occurs once. -/
theorem accAt_foldl_addColumn {js : List Nat} (nd : js.Nodup) {s : State} (wf : AccWf s) :
    (∀ j ∈ js, accAt (columnKey c o tok j) (js.foldl (addColumn c o pin tok cs) s) =
      accAt (columnKey c o tok j) s + columnAdd o pin cs j) ∧
    ∀ a, (∀ j ∈ js, a ≠ columnKey c o tok j) → accAt a (js.foldl (addColumn c o pin tok cs) s) = accAt a s := by
  induction js generalizing s with
  | nil => exact ⟨fun _ h => absurd h List.not_mem_nil, fun _ _ => rfl⟩
  | cons i js ih =>
    obtain ⟨out, nd⟩ := List.nodup_cons.mp nd
    obtain ⟨wf', same, ne⟩ := accAt_addColumn c o pin tok cs wf i
    obtain ⟨added, kept⟩ := ih nd wf'
    refine ⟨fun j hj => ?_, fun a n => ?_⟩
    · rcases List.mem_cons.mp hj with rfl | hj
      · exact (kept _ fun i hi => columnKey_ne fun e => absurd hi (e ▸ out)).trans same
      · have apart : columnKey c o tok j ≠ columnKey c o tok i := columnKey_ne fun e => absurd hj (e ▸ out)
        rw [List.foldl_cons, added j hj, ne _ apart]
    · rw [List.forall_mem_cons] at n
      exact (kept a n.2).trans (ne a n.1)

theorem addColumn_onlyIn (s : State) (j : Nat) : onlyIn [.mem] s (addColumn c o pin tok cs s j) := by
  unfold addColumn
  split
  · exact onlyIn_refl ..
  · exact mem_onlyIn ..

theorem addColumns_onlyIn (s : State) : onlyIn [.mem] s (addColumns c o pin tok cs s) :=
  onlyIn_foldl _ (addColumn_onlyIn c o pin tok cs) _ _

theorem accAt_addColumns {s : State} (wf : AccWf s) :
    (∀ j, j < columns o.w5 → accAt (columnKey c o tok j) (addColumns c o pin tok cs s) =
      accAt (columnKey c o tok j) s + columnAdd o pin cs j) ∧
    ∀ a, (∀ j, j < columns o.w5 → a ≠ columnKey c o tok j) → accAt a (addColumns c o pin tok cs s) = accAt a s := by
  obtain ⟨added, kept⟩ := accAt_foldl_addColumn c o pin tok cs (js := List.range (columns o.w5)) List.nodup_range wf
  exact ⟨fun j hj => added j (List.mem_range.mpr hj), fun a n => kept a fun j hj => n j (List.mem_range.mp hj)⟩

end columns

/-! ### A finished token -/

/-- Whether a conversion is one of a token of an operation. -/
def Conv.ofToken (id tok : Nat) (x : Conv) : Bool := decide (x.op = id) && decide (x.tok = tok)

/-- The cask past a token of an operation: its conversions gone, the token counted (R66). -/
def Cask.tokenDone (id tok : Nat) (k : Cask) : Cask :=
  { k with
    convs := k.convs.filter fun x => !x.ofToken id tok
    running := k.running.map fun x => if x.op.op = id then { x with added := tok + 1 } else x }

/-- A token of the oldest operation of a cask that is admitted, converted and still to add (R66, R67). -/
structure TokenReady (c : Nat) (o : RunOp) (rest : List RunOp) (s : State) : Prop where
  oldest : (getCask c s).running = o :: rest
  kind : o.kind = .mvm
  left : o.nextTok < o.op.ntok
  admitted : o.nextTok < o.admitted
  converted : (getCask c s).tokenBusy o.op.op o.nextTok = false
  noInc : s.hang.incident = none

/-- What becomes of a token's adds: an error, a drop, or the adds (R67, R69, R175). -/
def tokenAdded (c : Nat) (fault : Bool) (o : RunOp) (s : State) : State :=
  if fault then residueError c o.op o.nextTok s
  else if dropsAdds c s then dropToken c o.op o.nextTok s
  else modCask c (fun k => k.restart s.now)
    (addToken c o o.nextTok ((getCask c s).convs.filter (Conv.ofToken o.op.op o.nextTok)) s)

theorem tokenAdd_adds {c : CaskId} {o : RunOp} {rest : List RunOp} {s : State} (ready : TokenReady c.val o rest s) (fault : Bool) :
    exec (.tokenAdd c fault) s = .next (settle c.val
      (modCask c.val (Cask.tokenDone o.op.op o.nextTok) (tokenAdded c.val fault o s))) := by
  obtain ⟨oldest, kind, left, admitted, converted, noInc⟩ := ready
  have mvm : (getCask c.val s).running.filter (fun o => decide (o.kind = .mvm)) =
      o :: rest.filter (fun o => decide (o.kind = .mvm)) := by
    rw [oldest, List.filter_cons_of_pos (by simp [kind])]
  have due : (decide (o.op.ntok ≤ o.nextTok) || decide (o.admitted ≤ o.nextTok) || (getCask c.val s).tokenBusy o.op.op o.nextTok ||
      frozenWhere (·.coversCask c.val) s) = false := by
    rw [decide_eq_false (by omega), decide_eq_false (by omega), converted, frozenWhere_of_noIncident noInc]
    rfl
  show execTokenAdd c fault s = _
  unfold execTokenAdd
  simp only [mvm]
  rw [due]
  rfl

/-- The rest of a token's step, once its adds are made or given up: its conversions are gone, and every other cask, AccMem and the registers
are as the adds left them (R66). -/
theorem tokenDone_leaves (c id tok : Nat) (s : State) :
    onlyIn [.casks, .racks, .rings] s (settle c (modCask c (Cask.tokenDone id tok) s)) ∧
      otherCasks c s (settle c (modCask c (Cask.tokenDone id tok) s)) ∧
      otherRacks (c / 16) s (settle c (modCask c (Cask.tokenDone id tok) s)) ∧
      (getCask c (settle c (modCask c (Cask.tokenDone id tok) s))).convs = (getCask c s).convs.filter fun x => !x.ofToken id tok := by
  have done := modCask_onlyIn c (Cask.tokenDone id tok) s
  refine ⟨?_, ?_, ?_, ?_⟩
  · exact onlyIn_trans (onlyIn_mono done (by decide)) (settle_frame ..)
  · exact otherCasks_trans (otherCasks_modCask _ _ s) (settle_otherCasks c _)
  · exact otherRacks_trans (otherRacks_of_onlyIn done (by decide)) (settle_otherRacks c _)
  · rw [getCask_settle, getCask_modCask]
    rfl

/-- The adds of a token go into AccMem, its checksum terms to its rack (R67, R171). -/
theorem addToken_frame (c : Nat) (o : RunOp) (tok : Nat) (cs : List Conv) (s : State) :
    onlyIn [.mem, .racks] s (addToken c o tok cs s) ∧ otherRacks (c / 16) s (addToken c o tok cs s) ∧
      (addToken c o tok cs s).mem = (addColumns c o.op (o.pins.getD []) tok cs s).mem := by
  have adds := addColumns_onlyIn c o.op (o.pins.getD []) tok cs s
  refine ⟨?_, ?_, rfl⟩
  · unfold addToken modChk
    exact onlyIn_trans (onlyIn_mono adds (by decide)) (onlyIn_mono (modRack_onlyIn ..) (by decide))
  · exact otherRacks_trans (otherRacks_of_onlyIn adds (by decide))
      (otherRacks_setRack _ _ (addColumns c o.op (o.pins.getD []) tok cs s))

theorem dropToken_onlyIn (c : Nat) (o : CaskOp) (tok : Nat) (s : State) : onlyIn [.racks, .rings] s (dropToken c o tok s) :=
  onlyIn_trans (onlyIn_mono (modRack_onlyIn ..) (by decide)) (onlyIn_mono (pktFlag_onlyIn ..) (by decide))

/-- A residue error adds nothing; it sets RESIDUE_ERR and raises its event (R69). -/
theorem residueError_effect (c : Nat) (o : CaskOp) (tok : Nat) (s : State) :
    onlyIn eventParts s (residueError c o tok s) ∧ (residueError c o tok s).mem.acc = s.mem.acc ∧
      rflag .CK_STATUS c 0 22 (residueError c o tok s) = true := by
  unfold residueError
  have set := rput_onlyIn .CK_STATUS c 0 22 22 1 s
  have flag := pktFlag_onlyIn 25 o.pkt (rput .CK_STATUS c 0 22 22 1 s)
  refine ⟨?_, ?_, ?_⟩
  · exact onlyIn_trans (onlyIn_mono set (by decide)) (onlyIn_trans (onlyIn_mono flag (by decide)) (raiseEvent_onlyIn ..))
  · obtain ⟨acc, -⟩ := raiseEvent_dramOnly 0x0103 c (o.slot + 16 * tok) 0 o.pkt (pktFlag 25 o.pkt (rput .CK_STATUS c 0 22 22 1 s))
    rw [acc, flag.same .mem (by decide)]
    rfl
  · rw [rflag, rget_of_otherRegs (raiseEvent_otherRegs _ _ _ _ _ _) _ _ _ (caskReg_not_eventReg rfl c 0),
      rget_congr (flag.same .regs (by decide))]
    exact rflag_rput_same _ _ _ _ s (by decide)

section token
variable {c : CaskId} {o : RunOp} {rest : List RunOp} {s : State} (ready : TokenReady c.val o rest s)
include ready

/-- A finished token's unpinned columns are added, and its conversions leave (R66, R67, R239). -/
theorem tokenAdd_stores (wf : AccWf s) (takes : dropsAdds c.val s = false) :
    ∃ u, exec (.tokenAdd c false) s = .next u ∧ otherCasks c.val s u ∧ otherRacks (c.val / 16) s u ∧
      (∀ j, j < columns o.op.w5 → accAt (columnKey c.val o.op o.nextTok j) u = accAt (columnKey c.val o.op o.nextTok j) s +
        columnAdd o.op (o.pins.getD []) ((getCask c.val s).convs.filter (Conv.ofToken o.op.op o.nextTok)) j) ∧
      (∀ a, (∀ j, j < columns o.op.w5 → a ≠ columnKey c.val o.op o.nextTok j) → accAt a u = accAt a s) ∧
      (getCask c.val u).convs = (getCask c.val s).convs.filter fun x => !x.ofToken o.op.op o.nextTok := by
  have run := tokenAdd_adds ready false
  have added : tokenAdded c.val false o s = modCask c.val (fun k => k.restart s.now)
      (addToken c.val o o.nextTok ((getCask c.val s).convs.filter (Conv.ofToken o.op.op o.nextTok)) s) := by
    simp [tokenAdded, takes]
  obtain ⟨frame, racks, mem⟩ := addToken_frame c.val o o.nextTok ((getCask c.val s).convs.filter (Conv.ofToken o.op.op o.nextTok)) s
  obtain ⟨stored, kept⟩ := accAt_addColumns c.val o.op (o.pins.getD []) o.nextTok
    ((getCask c.val s).convs.filter (Conv.ofToken o.op.op o.nextTok)) wf
  rw [added] at run
  generalize addToken c.val o o.nextTok ((getCask c.val s).convs.filter (Conv.ofToken o.op.op o.nextTok)) s = x at *
  obtain ⟨tail, others, racks', convs⟩ := tokenDone_leaves c.val o.op.op o.nextTok (modCask c.val (fun k => k.restart s.now) x)
  have acc : ∀ a, accAt a (settle c.val (modCask c.val (Cask.tokenDone o.op.op o.nextTok)
      (modCask c.val (fun k => k.restart s.now) x))) = accAt a (addColumns c.val o.op (o.pins.getD []) o.nextTok
        ((getCask c.val s).convs.filter (Conv.ofToken o.op.op o.nextTok)) s) := fun a => by
    rw [accAt, tail.same .mem (by decide), accAt, ← mem]
    rfl
  refine ⟨_, run, ?_, ?_, fun j hj => ?_, fun a n => ?_, ?_⟩
  · exact otherCasks_trans (otherCasks_of_onlyIn frame (by decide)) (otherCasks_trans (otherCasks_modCask _ _ x) others)
  · exact otherRacks_trans racks (otherRacks_trans (otherRacks_of_onlyIn (modCask_onlyIn ..) (by decide)) racks')
  · rw [acc, stored j hj]
  · rw [acc, kept a n]
  · rw [convs, getCask_modCask]
    show (getCask c.val x).convs.filter _ = _
    rw [getCask_congr (frame.same .casks (by decide))]

/-- A suspect cask's token is dropped where SUSPECT_DROP says so (R175). -/
theorem tokenAdd_drops (drops : dropsAdds c.val s = true) :
    ∃ u, exec (.tokenAdd c false) s = .next u ∧ otherCasks c.val s u ∧ u.mem = s.mem := by
  have run := tokenAdd_adds ready false
  have dropped : tokenAdded c.val false o s = dropToken c.val o.op o.nextTok s := by simp [tokenAdded, drops]
  have frame := dropToken_onlyIn c.val o.op o.nextTok s
  obtain ⟨tail, others, -⟩ := tokenDone_leaves c.val o.op.op o.nextTok (dropToken c.val o.op o.nextTok s)
  rw [dropped] at run
  exact ⟨_, run, otherCasks_trans (otherCasks_of_onlyIn frame (by decide)) others,
    (tail.same .mem (by decide)).trans (frame.same .mem (by decide))⟩

/-- A residue fault adds nothing (R69). -/
theorem tokenAdd_faults : ∃ u, exec (.tokenAdd c true) s = .next u ∧ otherCasks c.val s u ∧ u.mem.acc = s.mem.acc ∧
    rflag .CK_STATUS c.val 0 22 u = true := by
  have run : exec (.tokenAdd c true) s = .next (settle c.val
      (modCask c.val (Cask.tokenDone o.op.op o.nextTok) (residueError c.val o.op o.nextTok s))) := tokenAdd_adds ready true
  obtain ⟨frame, acc, flag⟩ := residueError_effect c.val o.op o.nextTok s
  obtain ⟨tail, others, -⟩ := tokenDone_leaves c.val o.op.op o.nextTok (residueError c.val o.op o.nextTok s)
  refine ⟨_, run, otherCasks_trans (otherCasks_of_onlyIn frame (by decide)) others, ?_, ?_⟩
  · rw [tail.same .mem (by decide), acc]
  · rw [rflag, rget_congr (tail.same .regs (by decide))]
    exact flag

end token

/-- Settles O22: a granted slice integrates; a finished token is added, dropped or found faulty. -/
theorem slicesIntegrateAndTokensAdd : Obligations.SlicesIntegrateAndTokensAdd := by
  unfold Obligations.SlicesIntegrateAndTokensAdd
  constructor
  · intro c dev q st age t g s noInc k b empty posted wait begun inTime
    obtain ⟨u, run, runs⟩ := sliceStep_integrates c dev noInc empty posted wait begun inTime
    exact ⟨u, run, sliceTaken_effect runs⟩
  · intro c o rest s noInc wf k t cs oldest kind left admitted converted _
    have ready : TokenReady c.val o rest s := ⟨oldest, kind, left, admitted, converted, noInc⟩
    refine ⟨fun takes => tokenAdd_stores ready wf ?_, fun suspect drops => tokenAdd_drops ready ?_, tokenAdd_faults ready⟩
    · exact Bool.and_eq_false_iff.mpr takes
    · exact Bool.and_eq_true_iff.mpr ⟨suspect, drops⟩

end Sys2Proof.Machine
end

section
/-! SUPPORT. Credit arbitration and the credits of the integration windows and of VPP (R98, R100, R103, R106, R108, R109). -/

namespace Sys2Proof.Machine

theorem ledger_onlyIn (m : Ledger) (s : State) : onlyIn [.ledger] s { s with ledger := m } := by
  constructor
  intro p hp
  cases p with
  | ledger => exact absurd (List.mem_singleton.mpr rfl) hp
  | _ => rfl

/-! ### Entries of a table with rising keys -/

theorem Store.le_of_mem {α : Type} {a : Nat} {m : Store α} (w : Store.risesFrom a m = true) {e : Nat × α} (h : e ∈ m) : a ≤ e.1 := by
  induction m generalizing a with
  | nil => exact absurd h List.not_mem_nil
  | cons x m ih =>
    simp only [Store.risesFrom, Bool.and_eq_true, decide_eq_true_eq] at w
    rcases List.mem_cons.mp h with rfl | h
    · exact w.1
    · have := ih w.2 h
      omega

/-- An entry that the table lists is what its key holds. -/
theorem Store.find_of_mem {α : Type} {a : Nat} {m : Store α} (w : Store.risesFrom a m = true) {e : Nat × α} (h : e ∈ m) :
    Store.find e.1 m = some e.2 := by
  induction m generalizing a with
  | nil => exact absurd h List.not_mem_nil
  | cons x m ih =>
    simp only [Store.risesFrom, Bool.and_eq_true, decide_eq_true_eq] at w
    rcases List.mem_cons.mp h with rfl | h
    · simp [Store.find]
    · have later := Store.le_of_mem w.2 h
      rw [Store.find, if_neg (by omega), if_neg (by omega), ih w.2 h]

theorem Store.keys_nodup {α : Type} {a : Nat} {m : Store α} (w : Store.risesFrom a m = true) : (m.map Prod.fst).Nodup := by
  induction m generalizing a with
  | nil => exact List.nodup_nil
  | cons x m ih =>
    simp only [Store.risesFrom, Bool.and_eq_true, decide_eq_true_eq] at w
    refine List.nodup_cons.mpr ⟨fun h => ?_, ih w.2⟩
    obtain ⟨e, he, same⟩ := List.mem_map.mp h
    have := Store.le_of_mem w.2 he
    omega

/-! ### Casks changed one after another -/

section folds
variable {α : Type} (key : α → Nat) {f : State → α → State} (others : ∀ s x, otherCasks (key x) s (f s x))
include others

/-- A cask that none of the changes is about stays as it was. -/
theorem getCask_foldl_out {c : Nat} {l : List α} (out : c ∉ l.map key) (s : State) : getCask c (l.foldl f s) = getCask c s := by
  induction l generalizing s with
  | nil => rfl
  | cons x l ih =>
    rw [List.map_cons, List.mem_cons, not_or] at out
    exact (ih out.2 _).trans (getCask_of_otherCasks (others s x) out.1)

/-- A cask that one of the changes is about is changed by that one alone. -/
theorem getCask_foldl_own {g : State → α → Cask → Cask} (own : ∀ s x, getCask (key x) (f s x) = g s x (getCask (key x) s))
    (same : ∀ s y x, g (f s y) x = g s x) {l : List α} (nd : (l.map key).Nodup) {x : α} (hx : x ∈ l) (s : State) :
    getCask (key x) (l.foldl f s) = g s x (getCask (key x) s) := by
  induction l generalizing s with
  | nil => exact absurd hx List.not_mem_nil
  | cons y l ih =>
    obtain ⟨out, nd⟩ := List.nodup_cons.mp nd
    rcases List.mem_cons.mp hx with rfl | hx
    · exact (getCask_foldl_out key others out _).trans (own s x)
    · have apart : key x ≠ key y := fun e => out (e ▸ List.mem_map_of_mem hx)
      rw [List.foldl_cons, ih nd hx, same, getCask_of_otherCasks (others s y) apart]

end folds

/-! ### The requests of an arbitration -/

theorem insertBid_perm (a : Bid) (l : List Bid) : (insertBid a l).Perm (a :: l) := by
  induction l with
  | nil => exact .refl _
  | cons b l ih =>
    unfold insertBid
    split
    · exact .refl _
    · exact (ih.cons b).trans (.swap a b l)

theorem insertBids_perm (l : List Bid) : (l.foldr insertBid []).Perm l := by
  induction l with
  | nil => exact .refl _
  | cons a l ih => exact (insertBid_perm a _).trans (ih.cons a)

/-- The request of a cask's entry that an arbitration of a quadrant considers (R100). -/
def bidOf (q : Nat) (s : State) (e : Nat × Cask) : Option Bid :=
  if e.1 / 1024 = q then
    match e.2.posted with
    | some ⟨r, st, age, t, none⟩ => if t ≤ s.now / 64 * 64 + 47 then some ⟨e.1, r.cost, st, age⟩ else none
    | _ => none
  else none

theorem bidsOf_eq (q : Nat) (s : State) : bidsOf q s = (s.casks.filterMap (bidOf q s)).foldr insertBid [] := rfl

/-- It is the request that the cask has posted, by step clock 47 and not granted (R98, R100). -/
theorem bidOf_posted {q : Nat} {s : State} {e : Nat × Cask} {b : Bid} (h : bidOf q s e = some b) :
    b.cask = e.1 ∧ ∃ p, e.2.posted = some p ∧ p.start = b.start ∧ p.since ≤ s.now / 64 * 64 + 47 := by
  unfold bidOf at h
  split at h
  · split at h
    · next posted =>
      split at h
      · cases h
        exact ⟨rfl, _, posted, rfl, by assumption⟩
      · cases h
    · cases h
  · cases h

/-- A request that an arbitration considers is one that its cask has posted by step clock 47 (R98, R100). -/
theorem posted_of_bid {q : Nat} {s : State} (rises : Store.risesFrom 0 s.casks = true) {b : Bid} (h : b ∈ bidsOf q s) :
    ∃ p, (getCask b.cask s).posted = some p ∧ p.start = b.start ∧ p.since ≤ s.now / 64 * 64 + 47 := by
  rw [bidsOf_eq, (insertBids_perm _).mem_iff, List.mem_filterMap] at h
  obtain ⟨e, he, bid⟩ := h
  obtain ⟨cask, posted⟩ := bidOf_posted bid
  have entry : getCask b.cask s = e.2 := by
    rw [cask, getCask, Store.getD, Store.find_of_mem rises he, Option.getD_some]
  rwa [entry]

/-- Values picked from entries that keep their key come from distinct keys as the entries do. -/
theorem filterMap_keys_sublist {α β : Type} {f : Nat × α → Option β} {key : β → Nat} (keeps : ∀ e b, f e = some b → key b = e.1)
    (l : Store α) : ((l.filterMap f).map key).Sublist (l.map Prod.fst) := by
  induction l with
  | nil => exact .slnil
  | cons e l ih =>
    cases h : f e with
    | none =>
      rw [List.filterMap_cons_none h]
      exact ih.cons _
    | some b =>
      rw [List.filterMap_cons_some h, List.map_cons, List.map_cons, keeps e b h]
      exact ih.cons_cons _

/-- No cask has two requests in an arbitration (R98). -/
theorem bids_nodup (q : Nat) {s : State} (rises : Store.risesFrom 0 s.casks = true) : ((bidsOf q s).map Bid.cask).Nodup := by
  rw [bidsOf_eq, ((insertBids_perm _).map Bid.cask).nodup_iff]
  exact (Store.keys_nodup rises).sublist (filterMap_keys_sublist (fun e b h => (bidOf_posted h).1) s.casks)

/-! ### The windows filled -/

/-- A window takes no more than its free credits (R100). -/
theorem fillWindow_cost (w free : Nat) (bs : List Bid) : ((fillWindow w free bs).1.map Bid.cost).sum ≤ free := by
  induction bs generalizing free with
  | nil => exact Nat.zero_le _
  | cons b bs ih =>
    unfold fillWindow
    split
    · next fits =>
      have := ih (free - b.cost)
      simp only [List.map_cons, List.sum_cons]
      omega
    · exact ih free

theorem fillWindow_perm (w free : Nat) (bs : List Bid) : ((fillWindow w free bs).1 ++ (fillWindow w free bs).2).Perm bs := by
  induction bs generalizing free with
  | nil => exact .refl _
  | cons b bs ih =>
    unfold fillWindow
    split
    · exact (ih _).cons b
    · exact List.perm_middle.trans ((ih free).cons b)

/-- A window takes requests that start in it or before it (R98). -/
theorem fillWindow_start {w free : Nat} {bs : List Bid} {b : Bid} (h : b ∈ (fillWindow w free bs).1) : b.start ≤ w := by
  induction bs generalizing free with
  | nil => exact absurd h List.not_mem_nil
  | cons x bs ih =>
    unfold fillWindow at h
    split at h
    · next fits =>
      rcases List.mem_cons.mp h with rfl | h
      · exact fits.1
      · exact ih h
    · exact ih h

/-- The requests placed and those left are those that were there. -/
theorem fillWindows_perm (limit w n : Nat) (bs : List Bid) :
    ((fillWindows limit w n bs).1.map Prod.fst ++ (fillWindows limit w n bs).2).Perm bs := by
  induction n generalizing w bs with
  | zero => exact .refl _
  | succ n ih =>
    have first : ((fillWindow w limit bs).1.map (·, w)).map Prod.fst = (fillWindow w limit bs).1 :=
      List.map_map.trans (List.map_id _)
    simp only [fillWindows, List.map_append, first, List.append_assoc]
    exact ((ih (w + 1) _).append_left _).trans (fillWindow_perm w limit bs)

/-- A request is placed in one of the windows filled, at its start window or after it (R98, R100). -/
theorem fillWindows_window {limit w n : Nat} {bs : List Bid} {g : Bid × Nat} (h : g ∈ (fillWindows limit w n bs).1) :
    g.1.start ≤ g.2 ∧ w ≤ g.2 ∧ g.2 < w + n := by
  induction n generalizing w bs with
  | zero => exact absurd h List.not_mem_nil
  | succ n ih =>
    rcases List.mem_append.mp h with h | h
    · obtain ⟨b, hb, rfl⟩ := List.mem_map.mp h
      exact ⟨fillWindow_start hb, le_rfl, by omega⟩
    · obtain ⟨start, low, high⟩ := ih h
      exact ⟨start, by omega, by omega⟩

theorem windowTotal_append (a b : List (Bid × Nat)) (w : Nat) : windowTotal (a ++ b) w = windowTotal a w + windowTotal b w := by
  simp [windowTotal]

theorem windowTotal_other {l : List (Bid × Nat)} {w : Nat} (h : ∀ g ∈ l, g.2 ≠ w) : windowTotal l w = 0 := by
  have none : l.filter (fun g => decide (g.2 = w)) = [] := List.filter_eq_nil_iff.mpr fun g hg => by simpa using h g hg
  rw [windowTotal, none]
  rfl

theorem windowTotal_own (l : List Bid) (w : Nat) : windowTotal (l.map (·, w)) w = (l.map Bid.cost).sum := by
  have all : (l.map (·, w)).filter (fun g => decide (g.2 = w)) = l.map (·, w) := List.filter_eq_self.mpr fun g hg => by
    obtain ⟨b, -, rfl⟩ := List.mem_map.mp hg
    simp
  rw [windowTotal, all, List.map_map]
  rfl

/-- No window is given more credits than the limit (R100, R103). -/
theorem windowTotal_fillWindows (limit w n : Nat) (bs : List Bid) (x : Nat) : windowTotal (fillWindows limit w n bs).1 x ≤ limit := by
  induction n generalizing w bs with
  | zero => exact Nat.zero_le _
  | succ n ih =>
    simp only [fillWindows, windowTotal_append]
    by_cases e : w = x
    · subst e
      have later : windowTotal (fillWindows limit (w + 1) n (fillWindow w limit bs).2).1 w = 0 := windowTotal_other fun g hg => by
        obtain ⟨-, low, -⟩ := fillWindows_window hg
        omega
      rw [windowTotal_own, later, Nat.add_zero]
      exact fillWindow_cost w limit bs
    · have before : windowTotal ((fillWindow w limit bs).1.map (·, w)) x = 0 := windowTotal_other fun g hg => by
        obtain ⟨b, -, rfl⟩ := List.mem_map.mp hg
        exact e
      rw [before, Nat.zero_add]
      exact ih (w + 1) _

/-! ### An arbitration -/

/-- A posted request granted. -/
def Posted.granted (g : Grant) (p : Posted) : Posted := { p with grant := some g }

/-- A posted request deferred: one slice step older, from window 0 on (R98). -/
def Posted.deferred (p : Posted) : Posted := { p with age := min (p.age + 1) 1023, start := 0 }

/-- A cask with its posted request changed. -/
def Cask.repost (f : Posted → Posted) (k : Cask) : Cask := { k with posted := k.posted.map f }

theorem grantBid_frame (q : Nat) (s : State) (g : Bid × Nat) :
    onlyIn [.casks] s (grantBid q s g) ∧ otherCasks g.1.cask s (grantBid q s g) := by
  unfold grantBid
  exact ⟨modCask_onlyIn .., otherCasks_modCask _ _ s⟩

theorem deferBid_frame (s : State) (b : Bid) : onlyIn [.casks] s (deferBid s b) ∧ otherCasks b.cask s (deferBid s b) := by
  unfold deferBid
  exact ⟨modCask_onlyIn .., otherCasks_modCask _ _ s⟩

theorem getCask_grantBid (q : Nat) (s : State) (g : Bid × Nat) :
    getCask g.1.cask (grantBid q s g) = (getCask g.1.cask s).repost (Posted.granted (grantOf q g.2 s)) := getCask_modCask ..

theorem getCask_deferBid (s : State) (b : Bid) : getCask b.cask (deferBid s b) = (getCask b.cask s).repost Posted.deferred :=
  getCask_modCask ..

/-- The casks once the placement of a quadrant's requests is told to them (R98, R100). -/
def arbitrated (q : Nat) (s : State) : State := (arbitrate q s).2.foldl deferBid ((arbitrate q s).1.foldl (grantBid q) s)

theorem arbitrated_onlyIn (q : Nat) (s : State) : onlyIn [.casks] s (arbitrated q s) :=
  onlyIn_trans (onlyIn_foldl _ (fun s g => (grantBid_frame q s g).1) _ s) (onlyIn_foldl _ (fun s b => (deferBid_frame s b).1) _ _)

section arbitration
variable {q : Nat} {s : State} (rises : Store.risesFrom 0 s.casks = true)
include rises

theorem placement_nodup : ((arbitrate q s).1.map (·.1.cask) ++ (arbitrate q s).2.map Bid.cask).Nodup := by
  have perm := (fillWindows_perm (rfield .LG_POOL_LIMIT 0 q 8 0 s) 0 32 (bidsOf q s)).map Bid.cask
  rw [List.map_append, List.map_map] at perm
  exact perm.nodup_iff.mpr (bids_nodup q rises)

theorem arbitrated_granted {g : Bid × Nat} (hg : g ∈ (arbitrate q s).1) :
    getCask g.1.cask (arbitrated q s) = (getCask g.1.cask s).repost (Posted.granted (grantOf q g.2 s)) := by
  obtain ⟨grants, -, apart⟩ := List.nodup_append.mp (placement_nodup (q := q) rises)
  have out : g.1.cask ∉ (arbitrate q s).2.map Bid.cask := fun h => apart _ (List.mem_map_of_mem hg) _ h rfl
  rw [arbitrated, getCask_foldl_out Bid.cask (fun s b => (deferBid_frame s b).2) out]
  exact getCask_foldl_own (·.1.cask) (f := grantBid q) (fun s g => (grantBid_frame q s g).2)
    (g := fun s g => Cask.repost (Posted.granted (grantOf q g.2 s))) (getCask_grantBid q) (fun _ _ _ => rfl) grants hg s

theorem arbitrated_deferred {b : Bid} (hb : b ∈ (arbitrate q s).2) :
    getCask b.cask (arbitrated q s) = (getCask b.cask s).repost Posted.deferred := by
  obtain ⟨-, defers, apart⟩ := List.nodup_append.mp (placement_nodup (q := q) rises)
  have out : b.cask ∉ (arbitrate q s).1.map (·.1.cask) := fun h => apart _ h _ (List.mem_map_of_mem hb) rfl
  rw [arbitrated, getCask_foldl_own Bid.cask (fun s b => (deferBid_frame s b).2) getCask_deferBid (fun _ _ _ => rfl) defers hb]
  exact congrArg _ (getCask_foldl_out (·.1.cask) (fun s g => (grantBid_frame q s g).2) out s)

end arbitration

theorem mem_bidsOf_of_granted {q : Nat} {s : State} {g : Bid × Nat} (hg : g ∈ (arbitrate q s).1) : g.1 ∈ bidsOf q s :=
  (fillWindows_perm _ 0 32 (bidsOf q s)).subset (List.mem_append_left _ (List.mem_map_of_mem hg))

theorem mem_bidsOf_of_deferred {q : Nat} {s : State} {b : Bid} (hb : b ∈ (arbitrate q s).2) : b ∈ bidsOf q s :=
  (fillWindows_perm _ 0 32 (bidsOf q s)).subset (List.mem_append_right _ hb)

/-- The state in which an arbitration has told its placement to the casks, before it counts it. -/
def placed (q : Nat) (s : State) : State :=
  arbitrated q { s with ledger := { s.ledger with arbitrated := s.ledger.arbitrated.put q (s.now / 64 + 1) } }

/-- The counters and the peak of an arbitration that grants some requests, slides some of those and defers others (Tables 3.17, 3.18). -/
def countPlacement (q grants slides defers peak : Nat) (s : State) : State :=
  let s := bump .LG_DEFERS 0 q defers (bump .LG_SLIDES 0 q slides (bump .LG_GRANTS 0 q grants s))
  rput .LG_PEAK 0 q 8 0 (max peak (rfield .LG_PEAK 0 q 8 0 s)) s

theorem creditArbitration_places (q : Quad) {s : State} (may : mayArbitrate q.val s = true) : ∃ slides peak,
    exec (.creditArbitration q) s = .next (countPlacement q.val (arbitrate q.val s).1.length slides (arbitrate q.val s).2.length peak
      (placed q.val s)) := by
  refine ⟨((arbitrate q.val s).1.filter fun g => decide (g.1.start < g.2)).length,
    maxOf ((List.range 32).map (windowTotal (arbitrate q.val s).1)), ?_⟩
  show execCreditArbitration q s = _
  unfold execCreditArbitration
  rw [may]
  rfl

theorem countPlacement_onlyIn (q grants slides defers peak : Nat) (s : State) :
    onlyIn [.regs] s (countPlacement q grants slides defers peak s) :=
  onlyIn_trans (onlyIn_trans (bump_onlyIn ..) (onlyIn_trans (bump_onlyIn ..) (bump_onlyIn ..))) (rput_onlyIn ..)

/-- The counters of an arbitration are apart from each other. -/
theorem placementRegs_apart : ∀ q : Quad, [regOff .LG_GRANTS 0 q.val, regOff .LG_SLIDES 0 q.val, regOff .LG_DEFERS 0 q.val,
    regOff .LG_PEAK 0 q.val].Nodup := by decide

theorem countPlacement_counts (q : Quad) (grants slides defers peak : Nat) (s : State) :
    rget .LG_GRANTS 0 q.val (countPlacement q.val grants slides defers peak s) = rget .LG_GRANTS 0 q.val s + BitVec.ofNat 32 grants ∧
    rget .LG_DEFERS 0 q.val (countPlacement q.val grants slides defers peak s) = rget .LG_DEFERS 0 q.val s + BitVec.ofNat 32 defers := by
  have apart := placementRegs_apart q
  simp only [List.nodup_cons, List.mem_cons, not_or, List.not_mem_nil, not_false_eq_true, and_true] at apart
  obtain ⟨⟨gs, gd, gp⟩, ⟨sd, -⟩, dp, -⟩ := apart
  simp only [countPlacement, rput, bump, wrapInc]
  constructor
  · rw [rget_rset_ne _ _ gp, rget_rset_ne _ _ gd, rget_rset_ne _ _ gs, rget_rset]
  · rw [rget_rset_ne _ _ dp, rget_rset, rget_rset_ne _ _ (Ne.symm sd), rget_rset_ne _ _ (Ne.symm gd)]

/-- CREDIT_ARBITRATION: the placement told to the casks and counted (R98, R100, Tables 3.17, 3.18). -/
theorem creditArbitration_grants (q : Quad) {s : State} (rises : Store.risesFrom 0 s.casks = true) (may : mayArbitrate q.val s = true) :
    ∃ u, exec (.creditArbitration q) s = .next u ∧ onlyIn [.casks, .ledger, .regs] s u ∧
      (∀ g ∈ (arbitrate q.val s).1, ∃ p, (getCask g.1.cask s).posted = some p ∧ p.start ≤ g.2 ∧ g.2 < 32 ∧
        p.since ≤ s.now / 64 * 64 + 47 ∧ (getCask g.1.cask u).posted = some (p.granted (grantOf q.val g.2 s))) ∧
      (∀ b ∈ (arbitrate q.val s).2, ∃ p, (getCask b.cask s).posted = some p ∧ (getCask b.cask u).posted = some p.deferred) ∧
      rget .LG_GRANTS 0 q.val u = rget .LG_GRANTS 0 q.val s + BitVec.ofNat 32 (arbitrate q.val s).1.length ∧
      rget .LG_DEFERS 0 q.val u = rget .LG_DEFERS 0 q.val s + BitVec.ofNat 32 (arbitrate q.val s).2.length := by
  obtain ⟨slides, peak, run⟩ := creditArbitration_places q may
  have told : onlyIn [.casks, .ledger] s (placed q.val s) :=
    onlyIn_trans (onlyIn_mono (ledger_onlyIn _ s) (by decide)) (onlyIn_mono (arbitrated_onlyIn ..) (by decide))
  have counted := countPlacement_onlyIn q.val (arbitrate q.val s).1.length slides (arbitrate q.val s).2.length peak (placed q.val s)
  obtain ⟨grants, defers⟩ := countPlacement_counts q (arbitrate q.val s).1.length slides (arbitrate q.val s).2.length peak (placed q.val s)
  refine ⟨_, run, ?_, fun g hg => ?_, fun b hb => ?_, ?_, ?_⟩
  · exact onlyIn_trans (onlyIn_mono told (by decide)) (onlyIn_mono counted (by decide))
  · obtain ⟨p, posted, start, since⟩ := posted_of_bid rises (mem_bidsOf_of_granted hg)
    obtain ⟨window, -, last⟩ := fillWindows_window hg
    refine ⟨p, posted, by omega, by omega, since, ?_⟩
    rw [getCask_congr (counted.same .casks (by decide))]
    have granted := congrArg Cask.posted (arbitrated_granted (q := q.val)
      (s := { s with ledger := { s.ledger with arbitrated := s.ledger.arbitrated.put q.val (s.now / 64 + 1) } }) rises hg)
    exact granted.trans (congrArg (Option.map _) posted)
  · obtain ⟨p, posted, -⟩ := posted_of_bid rises (mem_bidsOf_of_deferred hb)
    refine ⟨p, posted, ?_⟩
    rw [getCask_congr (counted.same .casks (by decide))]
    have deferred := congrArg Cask.posted (arbitrated_deferred (q := q.val)
      (s := { s with ledger := { s.ledger with arbitrated := s.ledger.arbitrated.put q.val (s.now / 64 + 1) } }) rises hb)
    exact deferred.trans (congrArg (Option.map _) posted)
  · rw [grants, rget_congr (told.same .regs (by decide))]
  · rw [defers, rget_congr (told.same .regs (by decide))]

/-! ### Returns and audits of a window's credits -/

/-- The books of a window with every outstanding credit written off as if it had returned; arrived: the return is here (R106). -/
def Book.writtenOff (arrived : Bool) (b : Book) : Book :=
  { b with
    granted := b.returned + b.out
    returned := b.returned + b.out
    out := 0
    limit := max b.limit (b.returned + b.out)
    lost := if arrived then b.lost else b.lost + b.out }

theorem poolStatus_not_eventReg : ∀ q : Quad, regOff .LG_POOL_STATUS 0 q.val ∉ eventRegs := by decide

/-- An audit writes off the window's credits, sets the pool's error bit and raises its event (R106). -/
theorem auditWindow_effect (arrived : Bool) (q : Quad) (w : Nat) (s : State) :
    onlyIn (.ledger :: eventParts) s (auditWindow arrived q.val w s) ∧
      getBook q.val w (auditWindow arrived q.val w s) = (getBook q.val w s).writtenOff arrived ∧
      (∀ x y, 32 * x + y ≠ 32 * q.val + w → getBook x y (auditWindow arrived q.val w s) = getBook x y s) ∧
      rflag .LG_POOL_STATUS 0 q.val 31 (auditWindow arrived q.val w s) = true := by
  have books := modBook_onlyIn q.val w (Book.writtenOff arrived) s
  have flag := rput_onlyIn .LG_POOL_STATUS 0 q.val 31 31 1 (modBook q.val w (Book.writtenOff arrived) s)
  have event := raiseEvent_onlyIn 0x0202 q.val 0 ((getBook q.val w s).out % 512 + 2 ^ 16 * w) none
    (rput .LG_POOL_STATUS 0 q.val 31 31 1 (modBook q.val w (Book.writtenOff arrived) s))
  have others := raiseEvent_otherRegs 0x0202 q.val 0 ((getBook q.val w s).out % 512 + 2 ^ 16 * w) none
    (rput .LG_POOL_STATUS 0 q.val 31 31 1 (modBook q.val w (Book.writtenOff arrived) s))
  have ledger : (auditWindow arrived q.val w s).ledger = (modBook q.val w (Book.writtenOff arrived) s).ledger :=
    (event.same .ledger (by decide)).trans (flag.same .ledger (by decide))
  refine ⟨?_, ?_, fun x y n => ?_, ?_⟩
  · exact onlyIn_trans (onlyIn_mono books (by decide)) (onlyIn_trans (onlyIn_mono flag (by decide)) (onlyIn_mono event (by decide)))
  · rw [getBook_congr ledger, getBook_modBook]
  · rw [getBook_congr ledger, getBook_modBook_ne _ _ n]
  · have bit : rget .LG_POOL_STATUS 0 q.val (auditWindow arrived q.val w s) = _ :=
      rget_of_otherRegs others _ _ _ (poolStatus_not_eventReg q)
    rw [rflag, bit]
    exact rflag_rput_same _ _ _ _ _ (by decide)

/-- A return in time adds what was in flight to the returned credits (R103). -/
theorem creditReturn_inTime (q : Quad) (w : Fin 32) {s : State} (on : biasOn q.val s = true)
    (sent : (getBook q.val w.val s).inflight s.now ≠ 0) (inTime : (getBook q.val w.val s).late s.now = false) :
    exec (.creditReturn q w) s = .next (modBook q.val w.val (fun b => { b with returned := b.returned + b.out, out := 0 }) s) := by
  show execCreditReturn q w s = _
  simp only [execCreditReturn, on, inTime, and_true, ne_eq, if_pos sent]
  rfl

/-- A late return has the window audited (R106). -/
theorem creditReturn_late (q : Quad) (w : Fin 32) {s : State} (on : biasOn q.val s = true)
    (late : (getBook q.val w.val s).late s.now = true) : exec (.creditReturn q w) s = .next (auditWindow true q.val w.val s) := by
  have out : (getBook q.val w.val s).out ≠ 0 := by
    simp only [Book.late, Bool.and_eq_true, decide_eq_true_eq] at late
    omega
  show execCreditReturn q w s = _
  simp [execCreditReturn, on, late, out]

/-- The arbiter's check of a window's books finds them late or out of balance (R106). -/
theorem creditAudit_audits (q : Quad) (w : Fin 32) {s : State} (on : biasOn q.val s = true)
    (fault : (getBook q.val w.val s).late s.now = true ∨ (getBook q.val w.val s).balanced s.now = false) :
    exec (.creditAudit q w) s = .next (auditWindow false q.val w.val s) := by
  have check : (biasOn q.val s && ((getBook q.val w.val s).late s.now || !(getBook q.val w.val s).balanced s.now)) = true := by
    rcases fault with h | h <;> simp [on, h]
  show execCreditAudit q w s = _
  simp only [execCreditAudit, check, if_true]

/-! ### VPP credits -/

/-- The ledger with the cask that waited longest holding a credit (R109). -/
def Ledger.granting (c : Nat) (rest : List Nat) (l : Ledger) : Ledger := { l with vppQueue := rest, vppHeld := l.vppHeld ++ [c] }

theorem vppGrant_takes {c : Nat} {rest : List Nat} {s : State} (longest : s.ledger.vppQueue = c :: rest)
    (free : s.ledger.vppHeld.length < rfield .LG_VPP_LIMIT 0 0 6 0 s) (new : s.ledger.vppHeld.contains c = false) :
    exec .vppGrant s = .next (coldEraseOne c (holdForRacking c { s with ledger := s.ledger.granting c rest })) := by
  show execVppGrant s = _
  simp only [execVppGrant, longest, free, new, decide_true, Bool.not_false, Bool.and_self, if_true]
  rfl

/-- A cask that is not held for a cold erase is not erased. -/
theorem coldEraseOne_other {c : Nat} {s : State} (h : (getCask c s).hold ≠ some .erase) : coldEraseOne c s = s :=
  if_neg fun ⟨erase, _⟩ => h erase

/-- A cask that is held keeps its hold. -/
theorem holdForRacking_held {c : Nat} {s : State} (h : (getCask c s).hold ≠ none) : holdForRacking c s = s := by
  have held : (getCask c s).hold.isNone = false := by rwa [Option.isNone_eq_false_iff, Option.isSome_iff_ne_none]
  simp [holdForRacking, held]

/-- A hold for racking is of the cask alone, and none for a cold erase (R120, R122). -/
theorem holdForRacking_frame (c : Nat) (s : State) : onlyIn [.casks] s (holdForRacking c s) ∧ otherCasks c s (holdForRacking c s) ∧
    ((getCask c s).hold ≠ some .erase → (getCask c (holdForRacking c s)).hold ≠ some .erase) := by
  unfold holdForRacking
  split
  · refine ⟨modCask_onlyIn .., otherCasks_modCask _ _ s, fun _ => ?_⟩
    rw [getCask_modCask]
    exact nofun
  · exact ⟨onlyIn_refl .., fun _ _ => rfl, id⟩

/-- A free cask with an active entry and a credit is held for its racking (R122, R133). -/
theorem holdForRacking_holds {c : Nat} {s : State} (active : (activeEntry c s).isSome = true) (held : s.ledger.vppHeld.contains c = true)
    (free : (getCask c s).hold = none) :
    holdForRacking c s = modCask c (fun k => { k with hold := some .racking, incomplete := true }) s := by
  have any : (s.cellar.active.any fun e => decide (e.1 = c)) = true := by rwa [activeEntry, List.find?_isSome, ← List.any_eq_true] at active
  rw [holdForRacking, any, held, free]
  rfl

/-- A grant to a cask that is not held for a cold erase (R108, R109, R122). -/
theorem vppGrant_grants {c : Nat} {rest : List Nat} {s : State} (longest : s.ledger.vppQueue = c :: rest)
    (free : s.ledger.vppHeld.length < rfield .LG_VPP_LIMIT 0 0 6 0 s) (new : s.ledger.vppHeld.contains c = false)
    (noErase : (getCask c s).hold ≠ some .erase) :
    ∃ u, exec .vppGrant s = .next u ∧ onlyIn [.ledger, .casks] s u ∧ otherCasks c s u ∧ u.ledger = s.ledger.granting c rest ∧
      ((activeEntry c s).isSome = true → (getCask c s).hold = none →
        (getCask c u).hold = some .racking ∧ (getCask c u).incomplete = true) := by
  have run := vppGrant_takes longest free new
  obtain ⟨frame, others, keeps⟩ := holdForRacking_frame c { s with ledger := s.ledger.granting c rest }
  rw [coldEraseOne_other (keeps noErase)] at run
  refine ⟨_, run, ?_, others, frame.same .ledger (by decide), fun active none => ?_⟩
  · exact onlyIn_trans (onlyIn_mono (ledger_onlyIn (s.ledger.granting c rest) s) (by decide)) (onlyIn_mono frame (by decide))
  · rw [holdForRacking_holds (s := { s with ledger := s.ledger.granting c rest }) active (by simp [Ledger.granting]) none, getCask_modCask]
    exact ⟨rfl, rfl⟩

/-- An audit of the VPP pool sets its error bit and raises its event (R109). -/
theorem vppAudit_effect (off : Nat) (s : State) :
    onlyIn eventParts s (vppAudit off s) ∧ rflag .LG_VPP_STATUS 0 0 31 (vppAudit off s) = true := by
  have bit : rget .LG_VPP_STATUS 0 0 (vppAudit off s) = rget .LG_VPP_STATUS 0 0 (rput .LG_VPP_STATUS 0 0 31 31 1 s) :=
    rget_of_otherRegs (raiseEvent_otherRegs _ _ _ _ _ _) _ _ _ (by decide)
  refine ⟨onlyIn_trans (onlyIn_mono (rput_onlyIn ..) (by decide)) (raiseEvent_onlyIn ..), ?_⟩
  rw [rflag, bit]
  exact rflag_rput_same _ _ _ _ s (by decide)

/-- A cask whose credit is back has none on its way. -/
theorem vppSentAt_vppBack (c : Nat) (s : State) : vppSentAt c (vppBack c s) = none := by
  rw [vppSentAt, Option.map_eq_none_iff, List.find?_eq_none]
  intro e he
  simpa using (List.mem_filter.mp he).2

/-- A credit that is back leaves the queue as it was and none on its way (R109). -/
theorem vppBack_effect (c : Nat) (s : State) : onlyIn [.ledger] s (vppBack c s) ∧
    (vppBack c s).ledger.vppQueue = s.ledger.vppQueue ∧ (vppBack c s).ledger.vppHeld = s.ledger.vppHeld.filter (· ≠ c) ∧
    vppSentAt c (vppBack c s) = none :=
  ⟨ledger_onlyIn _ s, rfl, rfl, vppSentAt_vppBack c s⟩

/-- A late credit written off is no longer held; its return is still to come (R109). -/
theorem vppWriteOff_effect (c : Nat) (s : State) : onlyIn [.ledger] s (vppWriteOff c s) ∧
    (vppWriteOff c s).ledger.vppHeld = s.ledger.vppHeld.filter (· ≠ c) ∧ (vppWriteOff c s).ledger.vppLost = s.ledger.vppLost ++ [c] :=
  ⟨onlyIn_trans (ledger_onlyIn _ s) (ledger_onlyIn _ (vppBack c s)), rfl, rfl⟩

section vppCredit
variable (c : CaskId) {s : State} {t : Nat} (sent : vppSentAt c.val s = some t)
include sent

theorem vppCreditReturn_inTime (inTime : s.now ≤ t + 8) : exec (.vppCreditReturn c) s = .next (vppBack c.val s) := by
  show execVppCreditReturn c s = _
  simp only [execVppCreditReturn, sent]
  rw [if_neg (by omega)]

theorem vppCreditReturn_late (late : t + 8 < s.now) : exec (.vppCreditReturn c) s = .next (vppAudit 1 (vppBack c.val s)) := by
  show execVppCreditReturn c s = _
  simp only [execVppCreditReturn, sent]
  rw [if_pos late]

theorem vppCreditAudit_late (late : t + 8 < s.now) : exec (.vppCreditAudit c) s = .next (vppAudit 1 (vppWriteOff c.val s)) := by
  show execVppCreditAudit c s = _
  simp only [execVppCreditAudit, sent]
  rw [if_pos late]

end vppCredit

/-- A return from a cask that holds no credit is audited (R109). -/
theorem vppCreditAudit_mismatched (c : CaskId) {s : State} (sent : vppSentAt c.val s = none)
    (held : s.ledger.vppHeld.contains c.val = false) : exec (.vppCreditAudit c) s = .next (vppAudit 0 s) := by
  show execVppCreditAudit c s = _
  simp only [execVppCreditAudit, sent, held, Bool.false_eq_true, if_false]

/-- An audit that follows a change of the ledger. -/
theorem vppAudit_of_ledger (off : Nat) {s x : State} (h : onlyIn [.ledger] s x) : onlyIn (.ledger :: eventParts) s (vppAudit off x) ∧
    (vppAudit off x).ledger = x.ledger ∧ rflag .LG_VPP_STATUS 0 0 31 (vppAudit off x) = true := by
  obtain ⟨frame, flag⟩ := vppAudit_effect off x
  exact ⟨onlyIn_trans (onlyIn_mono h (by decide)) (onlyIn_mono frame (by decide)), frame.same .ledger (by decide), flag⟩

/-- Settles O23: an arbitration; then, in every state, the returns and audits of a window's credits and of VPP credits. -/
theorem arbitrationKeepsTheLimit : Obligations.ArbitrationKeepsTheLimit := by
  unfold Obligations.ArbitrationKeepsTheLimit
  refine ⟨fun q s rises may => ⟨fun w => windowTotal_fillWindows .., creditArbitration_grants q rises may⟩,
    fun s => ⟨fun q w on => ⟨fun sent inTime => ?_, fun late => ?_, fun fault => ?_⟩, fun c rest longest free new noErase => ?_,
      fun c t sent => ⟨fun inTime => ?_, fun late => ⟨?_, ?_⟩⟩, fun c sent held => ?_⟩⟩
  · exact ⟨_, creditReturn_inTime q w on sent inTime, modBook_onlyIn .., getBook_modBook .., fun x y n => getBook_modBook_ne _ _ n⟩
  · obtain ⟨frame, book, -, flag⟩ := auditWindow_effect true q w.val s
    exact ⟨_, creditReturn_late q w on late, frame, by rw [book]; rfl, by rw [book]; rfl, by rw [book]; rfl, flag⟩
  · exact ⟨_, creditAudit_audits q w on fault, auditWindow_effect false q w.val s⟩
  · exact vppGrant_grants longest free new noErase
  · exact ⟨_, vppCreditReturn_inTime c sent inTime, vppBack_effect c.val s⟩
  · obtain ⟨frame, -, held, -⟩ := vppBack_effect c.val s
    obtain ⟨audited, ledger, flag⟩ := vppAudit_of_ledger 1 frame
    exact ⟨_, vppCreditReturn_late c sent late, audited, by rw [ledger, held], flag⟩
  · obtain ⟨frame, held, lost⟩ := vppWriteOff_effect c.val s
    obtain ⟨audited, ledger, flag⟩ := vppAudit_of_ledger 1 frame
    exact ⟨_, vppCreditAudit_late c sent late, audited, by rw [ledger, held], by rw [ledger, lost], flag⟩
  · exact ⟨_, vppCreditAudit_mismatched c sent held, vppAudit_effect 0 s⟩

end Sys2Proof.Machine
end

section
/-! SUPPORT. Erasure of casks: the life-cycle transitions and the cold erase (R108, R109, R530, R542, R543). -/

namespace Sys2Proof.Machine

/-! ### The remap group of a cask -/

/-- The COMMIT register of a cask's remap group (Table 0.5). -/
def remapCommit (c : Nat) : RegRef := ⟨.CK_REMAP_COMMIT, c, 0⟩

/-- Giving up the staged words of a remap group gives up nothing else (R141). -/
theorem dropStaged_remap (c : Nat) (s : State) : onlyIn [.staged, .applies] s (dropStaged (remapCommit c) s) := by
  have only : dropStaged (remapCommit c) s = endApply (remapCommit c)
      { s with staged := (groupRegs (remapCommit c)).foldl (fun m r => m.drop r.off) s.staged } := rfl
  rw [only]
  exact onlyIn_trans (onlyIn_mono (staged_onlyIn _ s) (by decide)) (onlyIn_mono (applies_onlyIn _ _) (by decide))

/-- Entry and pin word k of a remap group set. -/
def setMapWord (c : Nat) (remap pin : List Word) (s : State) (k : Nat) : State :=
  rset .CK_PIN c k (nthD 0 k pin) (rset .CK_REMAP c k (nthD 0 k remap) s)

theorem setMap_eq (c : Nat) (remap pin : List Word) (s : State) :
    setMap c remap pin s = (List.range 16).foldl (setMapWord c remap pin) (dropStaged (remapCommit c) s) := rfl

theorem setMap_onlyIn (c : Nat) (remap pin : List Word) (s : State) : onlyIn [.regs, .staged, .applies] s (setMap c remap pin s) := by
  rw [setMap_eq]
  refine onlyIn_trans (onlyIn_mono (dropStaged_remap c s) (by decide)) (onlyIn_foldl _ (fun s k => ?_) _ _)
  exact onlyIn_mono (onlyIn_trans (rset_onlyIn ..) (rset_onlyIn ..)) (by decide)

/-! ### A cask is erased -/

/-- What the erasure of a cask may change. -/
def eraseParts : List Part := [.casks, .regs, .staged, .applies, .racks]

/-- An erasure changes its own cask alone, which is then erased (R80, R86, R139). -/
theorem eraseCask_spec (c : Nat) (s : State) : onlyIn eraseParts s (eraseCask c s) ∧ otherCasks c s (eraseCask c s) ∧
    ∃ gen, getCask c (eraseCask c s) = (getCask c s).erased gen := by
  have map := setMap_onlyIn c [] [] s
  have config := rset_onlyIn .CK_CONFIG c 0 (resetWord .CK_CONFIG) (setMap c [] [] s)
  unfold eraseCask dropResid
  simp only
  generalize rset .CK_CONFIG c 0 (resetWord .CK_CONFIG) (setMap c [] [] s) = x at *
  have before : onlyIn [.regs, .staged, .applies] s x := onlyIn_trans map (onlyIn_mono config (by decide))
  have cask := modCask_onlyIn c (Cask.erased (rfield .CK_REMAP_COMMIT c 0 15 0 x)) x
  have rack : ∀ f y, onlyIn [.racks] y (modRack (c / 16) f y) := modRack_onlyIn (c / 16)
  refine ⟨?_, ?_, rfield .CK_REMAP_COMMIT c 0 15 0 x, ?_⟩
  · exact onlyIn_trans (onlyIn_mono before (by decide)) (onlyIn_trans (onlyIn_mono cask (by decide))
      (onlyIn_mono (rack ..) (by decide)))
  · exact otherCasks_trans (otherCasks_of_onlyIn before (by decide)) (otherCasks_trans (otherCasks_modCask c _ x)
      (otherCasks_of_onlyIn (rack ..) (by decide)))
  · rw [getCask_congr ((rack ..).same .casks (by decide)), getCask_modCask, getCask_congr (before.same .casks (by decide))]

/-! ### Changes made one after another -/

/-- What one of the changes brings about, where those before it keep what it needs and those after it keep what it brought. -/
theorem foldl_reaches {α : Type} {f : State → α → State} {I P : State → Prop} {x : α} (keeps : ∀ s y, y ≠ x → I s → I (f s y))
    (reaches : ∀ s, I s → P (f s x)) (stays : ∀ s y, P s → P (f s y)) {l : List α} (hx : x ∈ l) {s : State} (start : I s) :
    P (l.foldl f s) := by
  induction l generalizing s with
  | nil => exact absurd hx List.not_mem_nil
  | cons y l ih =>
    by_cases e : y = x
    · subst e
      exact List.foldlRecOn l f (reaches s start) fun u hu z _ => stays u z hu
    · exact ih ((List.mem_cons.mp hx).resolve_left (Ne.symm e)) (keeps s y e start)

/-! ### Every cask is erased -/

theorem Store.find_of_not_mem {α : Type} {k : Nat} {m : Store α} (h : k ∉ m.map Prod.fst) : Store.find k m = none := by
  induction m with
  | nil => rfl
  | cons e m ih =>
    rw [List.map_cons, List.mem_cons, not_or] at h
    rw [Store.find, if_neg h.1]
    split
    · rfl
    · exact ih h.2

/-- A cask that the store does not list is erased already (log entry 135). -/
theorem getCask_of_not_mem {c : Nat} {s : State} (h : c ∉ s.casks.map Prod.fst) : getCask c s = Cask.init := by
  rw [getCask, Store.getD, Store.find_of_not_mem h, Option.getD_none]

theorem eraseCask_unracked {c : Nat} {s : State} (d : Nat) (h : (getCask c s).racked = false) :
    (getCask c (eraseCask d s)).racked = false := by
  obtain ⟨-, others, gen, erased⟩ := eraseCask_spec d s
  by_cases e : c = d
  · rw [e, erased]
    rfl
  · rw [getCask_of_otherCasks others e, h]

/-- With every cask erased none is racked (R542). -/
theorem eraseCasks_unracked (c : Nat) (s : State) : (getCask c (eraseCasks s)).racked = false := by
  show (getCask c ((s.casks.map Prod.fst).foldl (fun s c => eraseCask c s) s)).racked = false
  by_cases h : c ∈ s.casks.map Prod.fst
  · refine foldl_reaches (I := fun _ => True) (P := fun u => (getCask c u).racked = false) (fun _ _ _ _ => trivial) (fun s _ => ?_)
      (fun _ d => eraseCask_unracked d) h trivial
    obtain ⟨-, -, gen, erased⟩ := eraseCask_spec c s
    rw [erased]
    rfl
  · exact List.foldlRecOn (motive := fun u => (getCask c u).racked = false) _ _ (by rw [getCask_of_not_mem h]; rfl)
      fun u hu d _ => eraseCask_unracked d hu

theorem cellar_onlyIn (m : Cellar) (s : State) : onlyIn [.cellar] s { s with cellar := m } := by
  constructor
  intro p hp
  cases p with
  | cellar => exact absurd (List.mem_singleton.mpr rfl) hp
  | _ => rfl

theorem eraseCasks_onlyIn (s : State) : onlyIn (.cellar :: eraseParts) s (eraseCasks s) :=
  onlyIn_trans (onlyIn_mono (onlyIn_foldl _ (fun s c => (eraseCask_spec c s).1) _ s) (by decide))
    (onlyIn_mono (cellar_onlyIn _ _) (by decide))

/-! ### Life cycle -/

/-- The erasures of a transition: every cask, and of the fuses and NVM nothing of the life cycle (Table 16.8, R542). -/
theorem lcErase_spec (a b : Nat) (s : State) : (lcErase a b s).casks = (eraseCasks s).casks ∧ (lcErase a b s).pending = s.pending ∧
    (lcErase a b s).pm.lcState = s.pm.lcState ∧ (lcErase a b s).pm.serviceLeft = s.pm.serviceLeft ∧
    (lcErase a b s).pm.eraseDue = none := by
  have erased := eraseCasks_onlyIn s
  have pm : (eraseCasks s).pm = s.pm := erased.same .pm (by decide)
  have pending : (eraseCasks s).pending = s.pending := erased.same .queue (by decide)
  rw [← pm, ← pending]
  unfold lcErase
  generalize eraseCasks s = x
  simp only
  refine ⟨?_, ?_, ?_, ?_, trivial⟩ <;> split_ifs <;> rfl

/-- A device reset leaves what casks hold, and the life cycle (R407, R535). -/
theorem deviceReset_racked (power conf : Bool) (cause c : Nat) (s : State) :
    (getCask c (deviceReset power conf cause s)).racked = (getCask c s).racked := by
  show ((Store.find c (s.casks.mapV fun _ k => k.afterReset)).getD Cask.init).racked = _
  rw [Store.find_mapV, getCask, Store.getD]
  cases Store.find c s.casks <;> rfl

/-- The state in which a transition has programmed its fuses and owes its erasures (R542, steps 1 to 3). -/
def lcFused (v : Word) (s : State) : State :=
  let a := s.pm.lcState
  let b := fieldOf 3 0 v
  let x := storeEntry s (entryNow 5 2 (regOff .LC_REQ 0 0) (BitVec.ofNat 32 a) (BitVec.ofNat 32 b) s)
  { x with pm := { lcFuse a b x.pm with eraseDue := some (a, b) } }

theorem lcFused_onlyIn (v : Word) (s : State) : onlyIn [.pm] s (lcFused v s) :=
  onlyIn_trans (u := storeEntry s _) (pm_onlyIn _ s) (pm_onlyIn _ _)

section lifeCycle
variable {v : Word} {s : State} (reach : hostReaches (regOff .LC_REQ 0 0) s)
include reach

theorem lifeCycleTransition_reaches : exec (.lifeCycleTransition v) s = .next (lcRequest v s) := by
  show execLifeCycleTransition v s = _
  rw [execLifeCycleTransition, hostWrite_of_hostReaches reach]

/-- A request that Table 16.8 has, with its key, programs the fuses (R542). -/
theorem lifeCycleTransition_fuses (key : fieldOf 31 16 v = 0x4C43) (allowed : lcAllowed s.pm.lcState (fieldOf 3 0 v) s.pm = true)
    (idle : s.pm.eraseDue = none) : exec (.lifeCycleTransition v) s = .next (lcFinish (lcFused v s)) := by
  rw [lifeCycleTransition_reaches reach, lcRequest]
  simp only [key, allowed, idle]
  rfl

/-- Any other request raises its event (R542). -/
theorem lifeCycleTransition_refused (other : fieldOf 31 16 v ≠ 0x4C43 ∨ lcAllowed s.pm.lcState (fieldOf 3 0 v) s.pm = false) :
    exec (.lifeCycleTransition v) s = .next (raiseEvent 0x0E05 0 0 v.toNat none s) := by
  rw [lifeCycleTransition_reaches reach, lcRequest]
  simp only
  rw [if_pos]
  rcases other with h | h
  · exact .inl h
  · exact .inr (.inl (by rw [h]; rfl))

end lifeCycle

theorem lcFinish_none {s : State} (idle : s.pm.eraseDue = none) : lcFinish s = s := by
  rw [lcFinish, idle]

/-- With VPP down the erasures wait (R530, R542). -/
theorem lcFinish_waits {s : State} (down : s.pm.vppOk = false) : lcFinish s = s := by
  unfold lcFinish
  split
  · exact if_neg (by simp [down])
  · rfl

/-- With VPP up every cask is erased, and a cold reset follows (R542). -/
theorem lcFinish_erases {s : State} {a b : Nat} (due : s.pm.eraseDue = some (a, b)) (up : s.pm.vppOk = true) :
    lcFinish s = deviceReset false false 8 (lcErase a b s) := by
  rw [lcFinish, due]
  exact if_pos up

/-! ### Cold erase -/

/-- A journal entry changes of the power and life-cycle state only what waits for NVM and what was lost (R548). -/
theorem journal_pm (kind source unit reg gen : Nat) (old new : Word) (s : State) :
    (journal kind source unit reg gen old new s).pm = { s.pm with
      waiting := (journal kind source unit reg gen old new s).pm.waiting
      lost := (journal kind source unit reg gen old new s).pm.lost } := by
  unfold journal
  simp only
  split
  · rfl
  · split
    · rfl
    · rw [(raiseEvent_onlyIn ..).same .pm (by decide)]

/-- Where there is space, an entry of its kind waits (R548). -/
theorem journal_waits (kind source unit reg gen : Nat) (old new : Word) {s : State} (space : s.pm.waiting.length < 64) :
    ∃ e ∈ (journal kind source unit reg gen old new s).pm.waiting, e.kind = kind := by
  unfold journal
  simp only
  split
  · next h =>
    obtain ⟨w, hw, same⟩ := List.any_eq_true.mp h
    refine ⟨_, List.mem_map_of_mem hw, ?_⟩
    rw [if_pos same]
  · exact ⟨_, List.mem_append_right _ (List.mem_singleton.mpr rfl), rfl⟩

/-- A cask that asks for a credit takes no other out of the queue, and none its credit (R109). -/
theorem vppAsk_keeps {c : Nat} (d : Nat) {s : State} (h : c ∈ s.ledger.vppQueue ∨ c ∈ s.ledger.vppHeld) :
    c ∈ (vppAsk d s).ledger.vppQueue ∨ c ∈ (vppAsk d s).ledger.vppHeld := by
  unfold vppAsk
  simp only
  split
  · exact h
  · exact h.imp_left (List.mem_append_left _)

/-- A cask held for a cold erase, and in the queue for its credit or holding it (R108, R543). -/
def AsksErase (c : Nat) (u : State) : Prop := (c ∈ u.ledger.vppQueue ∨ c ∈ u.ledger.vppHeld) ∧ (getCask c u).hold = some .erase

theorem coldEraseAsk_spec (d : Nat) (s : State) : onlyIn [.casks, .ledger] s (coldEraseAsk s d) ∧ otherCasks d s (coldEraseAsk s d) ∧
    getCask d (coldEraseAsk s d) = { getCask d s with hold := some .erase } ∧ AsksErase d (coldEraseAsk s d) := by
  obtain ⟨frame, others, cask, asks⟩ := vppAsk_setCask d { getCask d s with hold := some .erase } s
  exact ⟨frame, others, cask, asks, congrArg Cask.hold cask⟩

theorem coldEraseAsk_keeps {c : Nat} (d : Nat) {s : State} (h : AsksErase c s) : AsksErase c (coldEraseAsk s d) := by
  obtain ⟨-, others, -, asks⟩ := coldEraseAsk_spec d s
  by_cases e : c = d
  · rwa [e]
  · obtain ⟨credit, hold⟩ := h
    exact ⟨vppAsk_keeps d (s := modCask d _ s) credit, by rw [getCask_of_otherCasks others e, hold]⟩

/-- Of every cask only its hold changes. -/
theorem coldEraseAsk_hold (c d : Nat) (s : State) :
    getCask c (coldEraseAsk s d) = { getCask c s with hold := (getCask c (coldEraseAsk s d)).hold } := by
  obtain ⟨-, others, own, -⟩ := coldEraseAsk_spec d s
  by_cases e : c = d
  · rw [e, own]
  · rw [getCask_of_otherCasks others e]

/-- Every listed cask is held for the erase and asks for its credit (R108, R543). -/
theorem coldEraseAsks_spec (l : List Nat) (s : State) : onlyIn [.casks, .ledger] s (l.foldl coldEraseAsk s) ∧
    ∀ c ∈ l, (c ∈ (l.foldl coldEraseAsk s).ledger.vppQueue ∨ c ∈ (l.foldl coldEraseAsk s).ledger.vppHeld) ∧
      getCask c (l.foldl coldEraseAsk s) = { getCask c s with hold := some .erase } := by
  refine ⟨onlyIn_foldl _ (fun s d => (coldEraseAsk_spec d s).1) l s, fun c hc => ?_⟩
  have asks : AsksErase c (l.foldl coldEraseAsk s) := foldl_reaches (I := fun _ => True) (fun _ _ _ _ => trivial)
    (fun s _ => (coldEraseAsk_spec c s).2.2.2) (fun _ d => coldEraseAsk_keeps d) hc trivial
  have rest : getCask c (l.foldl coldEraseAsk s) = { getCask c s with hold := (getCask c (l.foldl coldEraseAsk s)).hold } :=
    List.foldlRecOn (motive := fun u => getCask c u = { getCask c s with hold := (getCask c u).hold }) l coldEraseAsk rfl
      fun u hu d _ => by rw [coldEraseAsk_hold c d u, hu]
  obtain ⟨credit, hold⟩ := asks
  exact ⟨credit, by rw [rest, hold]⟩

section coldErase
variable {v : Word} {s : State} (reach : hostReaches (regOff .LC_ERASE 0 0) s)
include reach

theorem coldErase_reaches : exec (.coldErase v) s = .next (coldEraseWrite v s) := by
  show execColdErase v s = _
  rw [execColdErase, hostWrite_of_hostReaches reach]

/-- With its key and nothing enabled or held every listed cask asks for its erase, and the journal says so (R108, R543, R546). -/
theorem coldErase_asks (key : fieldOf 31 16 v = 0x4345) (disabled : allDisabled s = true) (free : ∀ e ∈ s.casks, e.2.hold = none) :
    exec (.coldErase v) s = .next ((s.casks.map Prod.fst).foldl coldEraseAsk (journal 8 1 0 (regOff .LC_ERASE 0 0) 0 0 0 s)) := by
  have none : holding s = false := List.any_eq_false.mpr fun e he => by simp [free e he]
  rw [coldErase_reaches reach, coldEraseWrite]
  simp only [key, disabled, none]
  rfl

/-- While something is enabled it is refused as busy (R543). -/
theorem coldErase_busy (key : fieldOf 31 16 v = 0x4345) (enabled : allDisabled s = false) :
    exec (.coldErase v) s = .next (writeBusy (regOff .LC_ERASE 0 0) s) := by
  rw [coldErase_reaches reach, coldEraseWrite]
  simp only [key, enabled]
  rfl

/-- Another KEY is refused (log entry 128). -/
theorem coldErase_badKey (key : fieldOf 31 16 v ≠ 0x4345) : exec (.coldErase v) s = .next (rejectWrite .LC_ERASE 0 0 s) := by
  rw [coldErase_reaches reach, coldEraseWrite, if_pos key]

end coldErase

/-! ### The credit of a programming goes back -/

theorem vppSentAt_none {c : Nat} {s : State} : vppSentAt c s = none ↔ (s.ledger.vppSent.any fun e => decide (e.1 = c)) = false := by
  rw [vppSentAt, Option.map_eq_none_iff, List.find?_eq_none, List.any_eq_false]

/-- A held credit is sent back once (R109). -/
theorem vppSend_sends {c : Nat} {s : State} (held : s.ledger.vppHeld.contains c = true) (unsent : vppSentAt c s = none) :
    vppSend c s = { s with ledger := { s.ledger with vppSent := s.ledger.vppSent ++ [(c, s.now)] } } := by
  rw [vppSend, held, vppSentAt_none.mp unsent]
  rfl

theorem vppSend_spec (c : Nat) (s : State) : onlyIn [.ledger] s (vppSend c s) ∧
    (vppSend c s).ledger.vppHeld = s.ledger.vppHeld ∧ (vppSend c s).ledger.vppQueue = s.ledger.vppQueue ∧
    ∀ d, d ≠ c → vppSentAt d (vppSend c s) = vppSentAt d s := by
  unfold vppSend
  split
  · refine ⟨ledger_onlyIn _ s, rfl, rfl, fun d n => ?_⟩
    simp [vppSentAt, List.find?_append, Ne.symm n]
  · exact ⟨onlyIn_refl .., rfl, rfl, fun _ _ => rfl⟩

theorem vppSentAt_vppSend {c : Nat} {s : State} (held : s.ledger.vppHeld.contains c = true) (unsent : vppSentAt c s = none) :
    vppSentAt c (vppSend c s) = some s.now := by
  have before : s.ledger.vppSent.find? (fun e => decide (e.1 = c)) = none := Option.map_eq_none_iff.mp unsent
  rw [vppSend_sends held unsent]
  simp [vppSentAt, List.find?_append, before]

theorem vppSentAt_congr {s u : State} (h : u.ledger = s.ledger) (c : Nat) : vppSentAt c u = vppSentAt c s := by
  rw [vppSentAt, h, vppSentAt]

/-! ### A cask of a cold erase is erased -/

/-- A cask that waits for its cold erase with its credit, after so many eighths of a program cycle (R109, R543). -/
structure AwaitsErase (c cycles : Nat) (u : State) : Prop where
  hold : (getCask c u).hold = some .erase
  held : u.ledger.vppHeld.contains c = true
  unsent : vppSentAt c u = none
  vpp : u.pm.vppOk = true
  cycles : (getCask c u).cycles8 = cycles

/-- A cask erased by a cold erase, its credit on its way back, its program cycles as they were (R109, R155, R543). -/
structure ErasedCold (c cycles : Nat) (u : State) : Prop where
  hold : (getCask c u).hold = none
  unracked : (getCask c u).racked = false
  cycles : (getCask c u).cycles8 = cycles
  sent : ∃ t, vppSentAt c u = some t

/-- A cask erased and released, its credit sent back: all of a cold erase but the device digest (R109, R543). -/
def coldErased (c : Nat) (s : State) : State :=
  modCask c (fun k => { k with hold := none, inReset := k.inReset && resettingWhere (·.coversCask c) s }) (vppSend c (eraseCask c s))

/-- A cask that waits with its credit while VPP is up is erased (R109, R530). -/
theorem coldEraseOne_erases {c cycles : Nat} {s : State} (h : AwaitsErase c cycles s) :
    onlyIn [.cellar] (coldErased c s) (coldEraseOne c s) := by
  obtain ⟨hold, held, unsent, vpp, -⟩ := h
  unfold coldEraseOne coldErased
  rw [if_pos ⟨hold, held, by rw [unsent]; rfl, vpp⟩]
  generalize modCask c _ (vppSend c (eraseCask c s)) = x
  simp only
  split
  · exact onlyIn_refl ..
  · exact cellar_onlyIn _ x

theorem coldEraseOne_cases (c : Nat) (s : State) :
    coldEraseOne c s = s ∨ onlyIn [.cellar] (coldErased c s) (coldEraseOne c s) := by
  by_cases h : (getCask c s).hold = some .erase ∧ s.ledger.vppHeld.contains c ∧ (vppSentAt c s).isNone ∧ s.pm.vppOk
  · obtain ⟨hold, held, unsent, vpp⟩ := h
    exact .inr (coldEraseOne_erases ⟨hold, held, Option.isNone_iff_eq_none.mp unsent, vpp, rfl⟩)
  · exact .inl (if_neg h)

/-- What the cold erase of a cask may change. -/
def coldEraseParts : List Part := .ledger :: .cellar :: eraseParts

theorem coldErased_frame (c : Nat) (s : State) : onlyIn coldEraseParts s (coldErased c s) ∧ otherCasks c s (coldErased c s) ∧
    (coldErased c s).ledger = (vppSend c (eraseCask c s)).ledger := by
  obtain ⟨erased, others, -⟩ := eraseCask_spec c s
  obtain ⟨sends, -⟩ := vppSend_spec c (eraseCask c s)
  unfold coldErased
  refine ⟨?_, ?_, rfl⟩
  · exact onlyIn_trans (onlyIn_mono erased (by decide)) (onlyIn_trans (onlyIn_mono sends (by decide))
      (onlyIn_mono (modCask_onlyIn ..) (by decide)))
  · exact otherCasks_trans others (otherCasks_trans (otherCasks_of_onlyIn sends (by decide)) (otherCasks_modCask _ _ _))

/-- The cold erase of a cask leaves the other casks, the queue, and which casks hold credits; no other cask's credit is sent back. -/
theorem coldEraseOne_spec (c : Nat) (s : State) : onlyIn coldEraseParts s (coldEraseOne c s) ∧ otherCasks c s (coldEraseOne c s) ∧
    (coldEraseOne c s).ledger.vppHeld = s.ledger.vppHeld ∧ (coldEraseOne c s).ledger.vppQueue = s.ledger.vppQueue ∧
    ∀ d, d ≠ c → vppSentAt d (coldEraseOne c s) = vppSentAt d s := by
  rcases coldEraseOne_cases c s with e | digest
  · rw [e]
    exact ⟨onlyIn_refl .., fun _ _ => rfl, rfl, rfl, fun _ _ => rfl⟩
  · obtain ⟨frame, others, ledger⟩ := coldErased_frame c s
    obtain ⟨-, held, queue, sent⟩ := vppSend_spec c (eraseCask c s)
    have before : (eraseCask c s).ledger = s.ledger := (eraseCask_spec c s).1.same .ledger (by decide)
    have after : (coldEraseOne c s).ledger = (vppSend c (eraseCask c s)).ledger := (digest.same .ledger (by decide)).trans ledger
    refine ⟨?_, ?_, ?_, ?_, fun d n => ?_⟩
    · exact onlyIn_trans frame (onlyIn_mono digest (by decide))
    · exact otherCasks_trans others (otherCasks_of_onlyIn digest (by decide))
    · rw [after, held, before]
    · rw [after, queue, before]
    · rw [vppSentAt_congr after, sent d n, vppSentAt_congr before]

/-- Once a cask that waits for its cold erase comes to its turn it is erased (R543). -/
theorem erasedCold_of_awaits {c cycles : Nat} {s : State} (h : AwaitsErase c cycles s) : ErasedCold c cycles (coldEraseOne c s) := by
  have digest := coldEraseOne_erases h
  obtain ⟨-, held, unsent, -, count⟩ := h
  obtain ⟨frame, -, gen, erased⟩ := eraseCask_spec c s
  obtain ⟨sends, -⟩ := vppSend_spec c (eraseCask c s)
  have before : (eraseCask c s).ledger = s.ledger := frame.same .ledger (by decide)
  have cask : getCask c (vppSend c (eraseCask c s)) = (getCask c s).erased gen := by
    rw [getCask_congr (sends.same .casks (by decide)), erased]
  have own : getCask c (coldEraseOne c s) = getCask c (coldErased c s) := getCask_congr (digest.same .casks (by decide)) c
  have sent : vppSentAt c (coldEraseOne c s) = some (eraseCask c s).now := by
    rw [vppSentAt_congr (digest.same .ledger (by decide)), vppSentAt_congr (coldErased_frame c s).2.2]
    exact vppSentAt_vppSend (by rw [before, held]) (by rw [vppSentAt_congr before, unsent])
  rw [coldErased, getCask_modCask, cask] at own
  exact ⟨by rw [own], by rw [own]; rfl, by rw [own]; exact count, _, sent⟩

/-- A cask erased stays so through the cold erases that follow. -/
theorem ErasedCold.stays {c cycles : Nat} {s : State} (h : ErasedCold c cycles s) (d : Nat) : ErasedCold c cycles (coldEraseOne d s) := by
  obtain ⟨-, others, -, -, sent⟩ := coldEraseOne_spec d s
  by_cases e : c = d
  · subst e
    rwa [coldEraseOne_other (by rw [h.hold]; exact nofun)]
  · have own := getCask_of_otherCasks others e
    exact ⟨by rw [own, h.hold], by rw [own, h.unracked], by rw [own, h.cycles], by rw [sent c e]; exact h.sent⟩

/-- A cask that waits stays so through the cold erases of others. -/
theorem AwaitsErase.stays {c cycles : Nat} {s : State} (h : AwaitsErase c cycles s) {d : Nat} (n : c ≠ d) :
    AwaitsErase c cycles (coldEraseOne d s) := by
  obtain ⟨frame, others, held, -, sent⟩ := coldEraseOne_spec d s
  have own := getCask_of_otherCasks others n
  exact ⟨by rw [own, h.hold], by rw [held, h.held], by rw [sent c n, h.unsent], by rw [frame.same .pm (by decide), h.vpp],
    by rw [own, h.cycles]⟩

/-- With its credit granted, a cask of a cold erase is erased (R108, R109, R543). -/
theorem vppGrant_erases {c : Nat} {rest : List Nat} {s : State} (longest : s.ledger.vppQueue = c :: rest)
    (free : s.ledger.vppHeld.length < rfield .LG_VPP_LIMIT 0 0 6 0 s) (new : s.ledger.vppHeld.contains c = false)
    (hold : (getCask c s).hold = some .erase) (unsent : vppSentAt c s = none) (vpp : s.pm.vppOk = true) :
    ∃ u, exec .vppGrant s = .next u ∧ ErasedCold c (getCask c s).cycles8 u ∧ u.ledger.vppQueue = rest := by
  have run := vppGrant_takes longest free new
  rw [holdForRacking_held (s := { s with ledger := s.ledger.granting c rest }) (hold ▸ nofun : (getCask c s).hold ≠ none)] at run
  obtain ⟨-, -, -, queue, -⟩ := coldEraseOne_spec c { s with ledger := s.ledger.granting c rest }
  exact ⟨_, run, erasedCold_of_awaits ⟨hold, by simp [Ledger.granting], unsent, vpp, rfl⟩, queue⟩

/-! ### VPP is back -/

/-- The state with VPP up again and its event raised (R530). -/
def vppUp (s : State) : State :=
  let x := { s with pm := { s.pm with vppOk := true, rowsCut := 0 } }
  if x.pm.coldHold then x else raiseEvent 0x0E01 0 0 s.pm.rowsCut none x

theorem vppUp_spec (s : State) : onlyIn (.pm :: eventParts) s (vppUp s) ∧
    (vppUp s).pm = { s.pm with vppOk := true, rowsCut := 0 } := by
  unfold vppUp
  simp only
  have up := pm_onlyIn { s.pm with vppOk := true, rowsCut := 0 } s
  split
  · exact ⟨onlyIn_mono up (by decide), rfl⟩
  · have event := raiseEvent_onlyIn 0x0E01 0 0 s.pm.rowsCut none { s with pm := { s.pm with vppOk := true, rowsCut := 0 } }
    exact ⟨onlyIn_trans (onlyIn_mono up (by decide)) (onlyIn_mono event (by decide)), event.same .pm (by decide)⟩

/-- Every listed cask whose erase waited in its reset erased (R134, R530). -/
def eraseWaitings (s : State) : State := (s.casks.map Prod.fst).foldl eraseWaiting s

/-- Every cask of a cold erase that holds its credit erased (R543). -/
def coldErases (s : State) : State := s.ledger.vppHeld.foldl (fun s c => coldEraseOne c s) s

theorem vppRestored_runs {s : State} (down : s.pm.vppOk = false) (rails : s.pm.rails = true) (ready : s.pm.fwReady = true) :
    exec .vppRestored s = .next (lcFinish (coldErases (eraseWaitings (vppUp s)))) := by
  have ready' : (vppUp s).pm.fwReady = true := by rw [(vppUp_spec s).2]; exact ready
  show execVppRestored s = _
  unfold execVppRestored
  rw [if_neg (by simp [down, rails])]
  show Host.Outcome.next (if !(vppUp s).pm.fwReady then vppUp s else _) = _
  rw [ready']
  rfl

/-- A cask whose erase waited in its reset is erased and leaves reset; no other cask changes, and one out of reset neither (R134, R530). -/
theorem eraseWaiting_spec (d : Nat) (s : State) : onlyIn (.cellar :: eraseParts) s (eraseWaiting s d) ∧
    otherCasks d s (eraseWaiting s d) ∧ ((getCask d s).inReset = false → eraseWaiting s d = s) := by
  have erases : onlyIn (.cellar :: eraseParts) s (eraseIncomplete d s) ∧ otherCasks d s (eraseIncomplete d s) := by
    obtain ⟨frame, others, -⟩ := eraseCask_spec d s
    unfold eraseIncomplete newDigest
    split
    · exact ⟨onlyIn_trans (onlyIn_mono frame (by decide)) (onlyIn_mono (cellar_onlyIn _ _) (by decide)),
        otherCasks_trans others (otherCasks_of_casks rfl)⟩
    · exact ⟨onlyIn_refl .., fun _ _ => rfl⟩
  have leaves : ∀ x, onlyIn (.cellar :: eraseParts) x (leaveReset x d) ∧ otherCasks d x (leaveReset x d) := fun x => by
    unfold leaveReset
    simp only
    split
    · exact ⟨onlyIn_refl .., fun _ _ => rfl⟩
    · exact ⟨onlyIn_mono (modCask_onlyIn ..) (by decide), otherCasks_modCask _ _ x⟩
  refine ⟨?_, ?_, fun out => if_neg (by simp [out])⟩ <;> unfold eraseWaiting <;> split
  · exact onlyIn_trans erases.1 (leaves _).1
  · exact onlyIn_refl ..
  · exact otherCasks_trans erases.2 (leaves _).2
  · exact fun _ _ => rfl

/-- A cask out of reset is not among those whose erase waited. -/
theorem eraseWaitings_keep {c : Nat} {s : State} (out : (getCask c s).inReset = false) :
    onlyIn (.cellar :: eraseParts) s (eraseWaitings s) ∧ getCask c (eraseWaitings s) = getCask c s := by
  unfold eraseWaitings
  refine ⟨onlyIn_foldl _ (fun s d => (eraseWaiting_spec d s).1) _ s, ?_⟩
  refine List.foldlRecOn (motive := fun u => getCask c u = getCask c s) _ eraseWaiting rfl fun u hu d _ => ?_
  obtain ⟨-, others, stays⟩ := eraseWaiting_spec d u
  by_cases e : c = d
  · rw [← e] at stays ⊢
    rw [stays (by rw [hu, out]), hu]
  · rw [getCask_of_otherCasks others e, hu]

/-- A cask of a cold erase that holds its credit is erased once VPP is back (R530, R543). -/
theorem vppRestored_erases {c : Nat} {s : State} (hold : (getCask c s).hold = some .erase) (held : c ∈ s.ledger.vppHeld)
    (unsent : vppSentAt c s = none) (down : s.pm.vppOk = false) (rails : s.pm.rails = true) (ready : s.pm.fwReady = true)
    (idle : s.pm.eraseDue = none) (out : (getCask c s).inReset = false) :
    ∃ u, exec .vppRestored s = .next u ∧ ErasedCold c (getCask c s).cycles8 u := by
  obtain ⟨up, pm⟩ := vppUp_spec s
  have cask : getCask c (vppUp s) = getCask c s := getCask_congr (up.same .casks (by decide)) c
  obtain ⟨frame, own⟩ := eraseWaitings_keep (c := c) (s := vppUp s) (by rw [cask, out])
  have run := vppRestored_runs down rails ready
  generalize eraseWaitings (vppUp s) = x at *
  have ledger : x.ledger = s.ledger := (frame.same .ledger (by decide)).trans (up.same .ledger (by decide))
  have pm' : x.pm = { s.pm with vppOk := true, rowsCut := 0 } := (frame.same .pm (by decide)).trans pm
  have erases : onlyIn coldEraseParts x (coldErases x) := onlyIn_foldl _ (fun s d => (coldEraseOne_spec d s).1) x.ledger.vppHeld x
  have due : (coldErases x).pm.eraseDue = none := by
    rw [erases.same .pm (by decide), pm']
    exact idle
  refine ⟨_, run.trans (congrArg Host.Outcome.next (lcFinish_none due)), ?_⟩
  refine foldl_reaches (I := AwaitsErase c (getCask c s).cycles8) (fun s d n h => h.stays (Ne.symm n)) (fun s h => erasedCold_of_awaits h)
    (fun s d h => h.stays d) (by rwa [ledger]) ⟨?_, ?_, ?_, ?_, ?_⟩
  · rw [own, cask, hold]
  · rw [ledger]
    exact List.contains_iff_mem.mpr held
  · rw [vppSentAt_congr ledger, unsent]
  · rw [pm']
  · rw [own, cask]

/-- Settles O53: a life-cycle request, a cold erase, and the erasure of one cask when its credit is granted and when VPP is back. -/
theorem lifeCycleAndColdErase : Obligations.LifeCycleAndColdErase := by
  unfold Obligations.LifeCycleAndColdErase
  refine fun v s => ⟨fun reach => ⟨fun key allowed idle => ⟨fun up => ?_, fun down => ?_⟩, fun other => ?_⟩,
    fun reach => ⟨fun key disabled free => ?_, fun key enabled => ?_, fun key => ?_⟩,
    fun c hold unsent => ⟨fun rest longest free new vpp => ?_, fun held down rails ready idle out => ?_⟩⟩
  · have run := lifeCycleTransition_fuses reach key allowed idle
    have due : (lcFused v s).pm.eraseDue = some (s.pm.lcState, fieldOf 3 0 v) := rfl
    rw [lcFinish_erases due up] at run
    obtain ⟨casks, pending, state, service, done⟩ := lcErase_spec s.pm.lcState (fieldOf 3 0 v) (lcFused v s)
    refine ⟨_, run, state, done, rfl, rfl, pending, service, fun c => ?_⟩
    rw [deviceReset_racked, getCask_congr casks, eraseCasks_unracked]
  · have run := lifeCycleTransition_fuses reach key allowed idle
    have waits : (lcFused v s).pm.vppOk = false := down
    rw [lcFinish_waits waits] at run
    exact ⟨_, run, lcFused_onlyIn v s, rfl, rfl⟩
  · exact ⟨_, lifeCycleTransition_refused reach other, raiseEvent_onlyIn ..⟩
  · have noted := journal_onlyIn 8 1 0 (regOff .LC_ERASE 0 0) 0 0 0 s
    have life := journal_pm 8 1 0 (regOff .LC_ERASE 0 0) 0 0 0 s
    obtain ⟨frame, asks⟩ := coldEraseAsks_spec (s.casks.map Prod.fst) (journal 8 1 0 (regOff .LC_ERASE 0 0) 0 0 0 s)
    have pm := frame.same .pm (by decide)
    refine ⟨_, coldErase_asks reach key disabled free, ?_, ?_, fun space => ?_, fun c hc => ?_⟩
    · exact onlyIn_trans (onlyIn_mono noted (by decide)) (onlyIn_mono frame (by decide))
    · rw [pm, life]
    · rw [pm]
      exact journal_waits 8 1 0 (regOff .LC_ERASE 0 0) 0 0 0 space
    · rw [← getCask_congr (noted.same .casks (by decide))]
      exact asks c hc
  · exact ⟨_, coldErase_busy reach key enabled, raiseEvent_onlyIn ..⟩
  · exact ⟨_, coldErase_badKey reach key, cfgEvent_onlyIn ..⟩
  · obtain ⟨u, run, erased, queue⟩ := vppGrant_erases longest free (by simpa using new) hold unsent vpp
    exact ⟨u, run, ⟨erased.hold, erased.unracked, erased.cycles, erased.sent⟩, queue⟩
  · obtain ⟨u, run, erased⟩ := vppRestored_erases hold held unsent down rails ready idle out
    exact ⟨u, run, erased.hold, erased.unracked, erased.cycles, erased.sent⟩

end Sys2Proof.Machine
end

section
/-! SUPPORT. What the cellarer's accesses to DRAM leave of a cask, and the cycles of a programming that it posts (R110, R124, R136). -/

namespace Sys2Proof.Machine

/-! ### Events and accesses to DRAM -/

/-- Nothing differs but what an event may change, and of the registers none but its own (R376, R378, R391). -/
structure EventOnly (s u : State) : Prop where
  frame : onlyIn eventParts s u
  regs : otherRegs eventRegs s u

theorem eventOnly_refl (s : State) : EventOnly s s := ⟨onlyIn_refl .., otherRegs_refl _ s⟩

theorem eventOnly_trans {s u v : State} (h : EventOnly s u) (k : EventOnly u v) : EventOnly s v :=
  ⟨onlyIn_trans h.frame k.frame, otherRegs_trans h.regs k.regs⟩

theorem eventOnly_foldl {α : Type} (f : State → α → State) (h : ∀ s x, EventOnly s (f s x)) (l : List α) (s : State) :
    EventOnly s (l.foldl f s) :=
  ⟨onlyIn_foldl f (fun s x => (h s x).frame) l s, otherRegs_foldl f (fun s x => (h s x).regs) l s⟩

theorem eventOnly_raiseEvent (code unit aux detail : Nat) (p : Option PktId) (s : State) :
    EventOnly s (raiseEvent code unit aux detail p s) := ⟨raiseEvent_onlyIn .., raiseEvent_otherRegs _ _ _ _ _ _⟩

theorem eventOnly_cfgEvent (b : CfgBlock) (unit off : Nat) (s : State) : EventOnly s (cfgEvent b unit off s) :=
  ⟨cfgEvent_onlyIn .., cfgEvent_otherRegs _ _ _ _⟩

theorem eventOnly_ite {p : Prop} [Decidable p] {s u : State} (h : EventOnly s u) : EventOnly s (if p then u else s) := by
  split
  · exact h
  · exact eventOnly_refl s

theorem eventOnly_mem {s u : State} (h : onlyIn [.mem] s u) : EventOnly s u :=
  ⟨onlyIn_mono h (by decide), otherRegs_of_onlyIn h (by decide)⟩

theorem eventOnly_poisonEvents (secs : List Nat) (s : State) : EventOnly s (poisonEvents secs s) :=
  ⟨onlyIn_mono (poisonEvents_onlyIn ..) (by decide), poisonAll_otherRegs _ _ _⟩

/-- Whole sectors written to DRAM (R389, R391). -/
theorem eventOnly_dramStore (a : Nat) (data : List Byte) (s : State) : EventOnly s (dramStore a data s) := by
  unfold dramStore
  split
  · exact ⟨onlyIn_mono (writeDram_onlyIn ..) (by decide), writeDram_otherRegs _ _ _⟩
  · exact eventOnly_refl s

theorem EventOnly.getCask {s u : State} (h : EventOnly s u) (c : Nat) : getCask c u = getCask c s :=
  getCask_congr (h.frame.same .casks (by decide)) c

/-- A seal that holds is taken off, and nothing else changes (R398). -/
theorem sealCheck_holds {sec : Nat} {p : Option PktId} {s u : State} (h : sealCheck sec p s = (none, u)) : EventOnly s u := by
  unfold sealCheck at h
  simp only at h
  split at h
  · cases h
    exact eventOnly_refl s
  · split at h
    · cases h
    · split at h
      · cases h
        exact eventOnly_mem (mem_onlyIn ..)
      · cases h

/-- A sector that is read without error changes only what the fill of its line may (R387, R388). -/
theorem missSector_reads {sec : Nat} {p : Option PktId} {s u : State} {d : List Byte} (h : missSector sec p s = (.ok d, u)) :
    EventOnly s u := by
  unfold missSector at h
  split at h
  · cases h
  · split at h
    · next e x ck =>
      cases h
      unfold sealCheck at ck
      simp only at ck
      split at ck
      · cases ck
      · split at ck
        · cases ck
        · split at ck <;> cases ck
    · next x ck =>
      simp only at h
      split at h
      · cases h
        exact eventOnly_trans (sealCheck_holds ck) (eventOnly_trans (eventOnly_mem (fillLine_onlyIn ..)) (eventOnly_poisonEvents _ _))
      · cases h

theorem readSector_reads {sec : Nat} {p : Option PktId} {s u : State} {d : List Byte} (h : readSector sec p s = (.ok d, u)) :
    EventOnly s u := by
  unfold readSector at h
  split at h
  · split at h
    · cases h
      exact eventOnly_mem (mem_onlyIn ..)
    · cases h
  · exact missSector_reads h

theorem readSectors_reads {p : Option PktId} {n sec : Nat} {s u : State} {ds : List Byte} (h : readSectors p sec n s = (.ok ds, u)) :
    EventOnly s u := by
  induction n generalizing sec s ds with
  | zero =>
    cases h
    exact eventOnly_refl _
  | succ n ih =>
    unfold readSectors at h
    split at h
    · next h1 =>
      split at h
      · next h2 =>
        cases h
        exact eventOnly_trans (readSector_reads h1) (ih h2)
      · next no => exact absurd h (no _ _)
    · next no => exact absurd h (no _ _)

/-- A read of DRAM that brings its bytes loses no shadow (R136, R390). -/
theorem readDram_reads {a n : Nat} {p : Option PktId} {s u : State} {bs : List Byte} (h : readDram a n p s = (.ok bs, u)) :
    EventOnly s u := by
  unfold readDram at h
  split at h
  · cases h
    exact eventOnly_refl s
  · split at h
    · next h1 =>
      cases h
      exact readSectors_reads h1
    · next no => exact absurd h (no _ _)

/-- A shadow that is read keeps every cask as it was (R128, R136). -/
theorem readShadow_reads {p : Option PktId} {c : Nat} {s u : State} {rows : LevelRows} (h : readShadow p c s = (some rows, u)) :
    EventOnly s u := by
  unfold readShadow at h
  split at h
  · cases h
  · split at h
    · next h1 =>
      cases h
      exact readDram_reads h1
    · cases h

/-! ### What such a change leaves of a cask's configuration -/

theorem remapWords_congr {s u : State} {c : Nat} (h : ∀ k, rget .CK_REMAP c k u = rget .CK_REMAP c k s) :
    remapWords c u = remapWords c s := List.map_congr_left fun k _ => h k

theorem pinWords_congr {s u : State} {c : Nat} (h : ∀ k, rget .CK_PIN c k u = rget .CK_PIN c k s) :
    pinWords c u = pinWords c s := List.map_congr_left fun k _ => h k

section eventOnly
variable {s u : State} (h : EventOnly s u)
include h

/-- A register of a cask. -/
theorem EventOnly.caskReg {n : RegName} {b : Nat} (cask : n.desc.base = .cask b) (c i : Nat) : rget n c i u = rget n c i s :=
  rget_of_otherRegs h.regs n c i (caskReg_not_eventReg cask c i)

theorem EventOnly.remap (c : Nat) : remapWords c u = remapWords c s := remapWords_congr fun k => h.caskReg rfl c k

theorem EventOnly.pin (c : Nat) : pinWords c u = pinWords c s := pinWords_congr fun k => h.caskReg rfl c k

theorem EventOnly.plan (c : Nat) : planNow c u = planNow c s := by rw [planNow, h.remap, h.pin, h.getCask, planNow]

theorem EventOnly.maxPulses : maxPulses u = maxPulses s := by
  have limits : rget .RK_LIMITS 0 0 u = rget .RK_LIMITS 0 0 s := rget_of_otherRegs h.regs _ _ _ (by decide)
  rw [Machine.maxPulses, rfield, limits]
  rfl

theorem EventOnly.home (c : Nat) : homeWindow c u = homeWindow c s := by
  rw [homeWindow, h.frame.same .ledger (by decide), homeWindow]

end eventOnly

/-! ### A verify read is posted -/

/-- The cask with a programming in progress and the verify read of its row posted (R110). -/
def Cask.verifying (home now : Nat) (p : Prog) (k : Cask) : Cask :=
  { k with prog := some p, posted := some ⟨verifyReq p.row, home, 0, now, none⟩ }

theorem progPulse_eq (c : Nat) (remap : List Word) (rows : LevelRows) (p : Prog) (s : State) : progPulse c remap rows p s =
    modCask c (Cask.verifying (homeWindow c s) s.now (p.opened (p.targets remap rows))) s := by
  unfold progPulse post
  exact modCask_modCask ..

/-- A pulse, or a topping's first look at a row, posts the row's verify read and changes nothing else (R110, R124, R152). -/
theorem progPulse_posts {c : Nat} {remap : List Word} {rows : LevelRows} {p : Prog} {s x : State} (read : EventOnly s x) :
    onlyIn (.casks :: eventParts) s (progPulse c remap rows p x) ∧ otherCasks c s (progPulse c remap rows p x) ∧
      getCask c (progPulse c remap rows p x) =
        (getCask c s).verifying (homeWindow c s) s.now (p.opened (p.targets remap rows)) := by
  rw [progPulse_eq]
  refine ⟨?_, ?_, ?_⟩
  · exact onlyIn_trans (onlyIn_mono read.frame (by decide)) (onlyIn_mono (modCask_onlyIn ..) (by decide))
  · exact otherCasks_trans (otherCasks_of_onlyIn read.frame (by decide)) (otherCasks_modCask _ _ x)
  · rw [getCask_modCask, read.getCask, read.home, read.frame.same .clock (by decide)]

/-! ### Who may be pulsed -/

/-- A cask that may be pulsed holds a credit that it has not sent back, with nothing in progress (R109, R110). -/
theorem credit_of_mayProgram {c : Nat} {s : State} (may : mayProgram c s = true) :
    s.ledger.vppHeld.contains c = true ∧ vppSentAt c s = none := by
  simp only [mayProgram, Bool.and_eq_true, Bool.not_eq_true'] at may
  obtain ⟨⟨⟨⟨⟨held, unsent⟩, -⟩, -⟩, -⟩, -⟩ := may
  exact ⟨held, vppSentAt_none.mpr unsent⟩

end Sys2Proof.Machine
end

section
/-! SUPPORT. Remaps: the spares that a plan needs prepared, then its entries and pins in force (R138 to R141). -/

namespace Sys2Proof.Machine

/-! ### The spares that a plan needs -/

/-- Programming of spares with none begun. -/
def Prog.noSpare : Prog := { Prog.start .spare with row := 512 }

/-- Programming of a spare at its first row, of no spare before it. -/
def Prog.firstSpare (x : Nat × Nat) : Prog := { Prog.start .spare with spare := some x }

/-- With no spare prepared yet the first that the plan needs is begun (R139, R141). -/
theorem prepare_first {base : Plan} {pairs : List Nat} {x : Nat × Nat}
    (needs : (Prog.start .spare).nextSpare base (Plan.repairAll [] pairs base) = some x) :
    Prog.noSpare.prepare base pairs = Prog.firstSpare x := by
  have next : Prog.noSpare.rowsDone.nextSpare base (Plan.repairAll Prog.noSpare.rowsDone.badSpares pairs base) = some x := needs
  unfold Prog.prepare
  simp only [next]
  rfl

/-- What a cycle of a remap goes on with: the row in progress, or the next spare (R141). -/
def Prog.remapNext (max : Nat) (base : Plan) (rows : LevelRows) (reads : List (Nat × Int)) (failed : List Nat) (p : Prog) : Prog :=
  if (p.judge max base.remap rows reads).row < 512 then p.judge max base.remap rows reads
  else (p.judge max base.remap rows reads).prepare base failed

theorem remapCycle_pulses {c : Nat} {rows : LevelRows} {reads : List (Nat × Int)} {p : Prog} {s : State}
    (h : (p.remapNext (maxPulses s) (planNow c s) rows reads (getCask c s).failed).row < 512) : remapCycle c rows reads p s =
      progPulse c (planNow c s).remap rows (p.remapNext (maxPulses s) (planNow c s) rows reads (getCask c s).failed) s :=
  if_pos h

theorem remapCycle_remaps {c : Nat} {rows : LevelRows} {reads : List (Nat × Int)} {p : Prog} {s u : State} {recs : List Byte}
    (h : 512 ≤ (p.remapNext (maxPulses s) (planNow c s) rows reads (getCask c s).failed).row)
    (records : readDram (shadowAt c s + 0x40000) 4096 (cellarPkt c s) s = (.ok recs, u)) : remapCycle c rows reads p s =
      endRemap c (applyRemap c (p.remapNext (maxPulses s) (planNow c s) rows reads (getCask c s).failed) rows recs u) := by
  refine (if_neg (Nat.not_lt.mpr h)).trans ?_
  simp only [records]
  rfl

section remap
variable {c : CaskId} {s x : State} {rows : LevelRows} (may : mayProgram c.val s = true)
  (hold : (getCask c.val s).hold = some .remap ∨ (getCask c.val s).hold = some .topRemap)
  (read : readShadow (cellarPkt c.val s) c.val s = (some rows, x)) (reads : List (Nat × Int))
include may hold read

/-- REMAP_PIN of a held cask whose shadow is read (R141). -/
theorem remapPin_cycle :
    exec (.remapPin c reads) s = .next (remapCycle c.val rows reads ((getCask c.val s).prog.getD Prog.noSpare) x) := by
  have held : (decide ((getCask c.val s).hold = some .remap) || decide ((getCask c.val s).hold = some .topRemap)) = true := by
    simpa using hold
  show execRemapPin c reads s = _
  unfold execRemapPin
  simp only [held, may, Bool.and_self, if_true, read]
  rfl

/-- The first pulse of a remap is the first spare's, on its first row (R139, R141). -/
theorem remapPin_begins (fresh : (getCask c.val s).prog = none) {y : Nat × Nat}
    (needs : (Prog.start .spare).nextSpare (planNow c.val s) (Plan.repairAll [] (getCask c.val s).failed (planNow c.val s)) = some y) :
    exec (.remapPin c reads) s = .next (progPulse c.val (planNow c.val s).remap rows (Prog.firstSpare y) x) := by
  have quiet := readShadow_reads read
  have next : Prog.noSpare.remapNext (maxPulses x) (planNow c.val x) rows reads (getCask c.val x).failed = Prog.firstSpare y := by
    rw [quiet.plan, quiet.getCask, ← prepare_first needs]
    rfl
  have first : (Prog.firstSpare y).row < 512 := Nat.zero_lt_succ _
  rw [remapPin_cycle may hold read, fresh, Option.getD_none, remapCycle_pulses (next ▸ first), next, quiet.plan]

/-- Once every spare of the plan is ready the remap is made (R141). -/
theorem remapPin_remaps {p : Prog}
    (judged : p = ((getCask c.val s).prog.getD Prog.noSpare).judge (maxPulses s) (planNow c.val s).remap rows reads)
    (done : 512 ≤ p.row) (ready : 512 ≤ (p.prepare (planNow c.val s) (getCask c.val s).failed).row) {recs : List Byte} {y : State}
    (records : readDram (shadowAt c.val x + 0x40000) 4096 (cellarPkt c.val x) x = (.ok recs, y)) :
    exec (.remapPin c reads) s =
      .next (endRemap c.val (applyRemap c.val (p.prepare (planNow c.val s) (getCask c.val s).failed) rows recs y)) := by
  have quiet := readShadow_reads read
  have next : ((getCask c.val s).prog.getD Prog.noSpare).remapNext (maxPulses x) (planNow c.val x) rows reads (getCask c.val x).failed =
      p.prepare (planNow c.val s) (getCask c.val s).failed := by
    rw [quiet.plan, quiet.getCask, quiet.maxPulses, Prog.remapNext, ← judged, if_neg (Nat.not_lt.mpr done)]
  rw [remapPin_cycle may hold read, remapCycle_remaps (by rw [next]; exact ready) records, next]

end remap

/-! ### The registers of a remap group -/

theorem otherRegs_setMapWord (c : Nat) (remap pin : List Word) (s : State) (k : Nat) :
    otherRegs [regOff .CK_REMAP c k, regOff .CK_PIN c k] s (setMapWord c remap pin s k) :=
  otherRegs_trans (otherRegs_mono (otherRegs_rset _ _ _ _ s) (by simp)) (otherRegs_mono (otherRegs_rset _ _ _ _ _) (by simp))

/-- The words of a remap group lie apart. -/
theorem remapRegs_apart (c : Nat) {i j : Nat} (hi : i < 16) (hj : j < 16) : regOff .CK_REMAP c i ≠ regOff .CK_PIN c j ∧
    (i ≠ j → regOff .CK_REMAP c i ≠ regOff .CK_REMAP c j ∧ regOff .CK_PIN c i ≠ regOff .CK_PIN c j) := by
  have remap : ∀ k, regOff .CK_REMAP c k = _ := regOff_cask (n := .CK_REMAP) rfl c
  have pin : ∀ k, regOff .CK_PIN c k = _ := regOff_cask (n := .CK_PIN) rfl c
  have strides : RegName.CK_REMAP.desc.stride = 4 ∧ RegName.CK_PIN.desc.stride = 4 := ⟨rfl, rfl⟩
  rw [remap, remap, pin, pin, strides.1, strides.2]
  omega

/-- Entry and pin word i of a group are those of a plan. -/
def MapWordSet (c : Nat) (remap pin : List Word) (i : Nat) (u : State) : Prop :=
  rget .CK_REMAP c i u = nthD 0 i remap ∧ rget .CK_PIN c i u = nthD 0 i pin

theorem setMapWord_own (c : Nat) (remap pin : List Word) {i : Nat} (hi : i < 16) (s : State) :
    MapWordSet c remap pin i (setMapWord c remap pin s i) := by
  obtain ⟨apart, -⟩ := remapRegs_apart c hi hi
  unfold MapWordSet setMapWord
  exact ⟨by rw [rget_rset_ne _ _ apart, rget_rset], rget_rset ..⟩

/-- Once set, a word of the group stays while the others are set. -/
theorem setMapWord_keeps (c : Nat) (remap pin : List Word) {i k : Nat} (hi : i < 16) (hk : k < 16) {s : State}
    (h : MapWordSet c remap pin i s) : MapWordSet c remap pin i (setMapWord c remap pin s k) := by
  by_cases e : i = k
  · exact e ▸ setMapWord_own c remap pin hi s
  · obtain ⟨apart, own⟩ := remapRegs_apart c hi hk
    obtain ⟨apart', -⟩ := remapRegs_apart c hk hi
    have others := otherRegs_setMapWord c remap pin s k
    unfold MapWordSet
    rw [rget_of_otherRegs others _ _ _ (by simp [apart, (own e).1]), rget_of_otherRegs others _ _ _ (by simp [apart'.symm, (own e).2])]
    exact h

/-- A remap group set by the cellarer holds its entries and pins (R141). -/
theorem setMap_sets (c : Nat) (remap pin : List Word) {i : Nat} (hi : i < 16) (s : State) :
    MapWordSet c remap pin i (setMap c remap pin s) := by
  have mem : i ∈ List.range 16 := List.mem_range.mpr hi
  obtain ⟨before, after, split⟩ := List.append_of_mem mem
  have later : ∀ k ∈ after, k < 16 := fun k hk => List.mem_range.mp (split ▸ by simp [hk])
  rw [setMap_eq, split, List.foldl_append, List.foldl_cons]
  exact List.foldlRecOn (motive := MapWordSet c remap pin i) after _ (setMapWord_own c remap pin hi _)
    fun u hu k hk => setMapWord_keeps c remap pin hi (later k hk) hu

/-- The checks of a remap group raise events and set REMAP_CONFLICT (R83). -/
theorem remapChecks_spec (c : Nat) (s : State) : onlyIn eventParts s (remapChecks c s) ∧
    otherRegs (regOff .CK_STATUS c 0 :: eventRegs) s (remapChecks c s) := by
  have entries : EventOnly s ((List.range 16).foldl (fun t k =>
      if flagOf 31 (nthD 0 k (remapWords c s)) && decide (514 ≤ fieldOf 9 0 (nthD 0 k (remapWords c s))) then
        cfgEvent .ck c (regOff .CK_REMAP c k) t else t) s) :=
    eventOnly_foldl _ (fun t k => eventOnly_ite (eventOnly_cfgEvent ..)) _ s
  unfold remapChecks
  simp only
  split
  · exact ⟨onlyIn_trans entries.frame (onlyIn_mono (rput_onlyIn ..) (by decide)),
      otherRegs_trans (otherRegs_mono entries.regs fun _ => List.mem_cons_of_mem _) (otherRegs_mono (otherRegs_rput _ _ _ _ _ _ _) (by simp))⟩
  · exact ⟨entries.frame, otherRegs_mono entries.regs fun _ => List.mem_cons_of_mem _⟩

/-- The registers that follow a remap group's words into force: its GEN, its cask's status, and those of events (R9, R83). -/
def remapNotes (c : Nat) : List Nat := regOff .CK_REMAP_COMMIT c 0 :: regOff .CK_STATUS c 0 :: eventRegs

theorem mapWord_not_noted (c : Nat) {i : Nat} (hi : i < 16) : regOff .CK_REMAP c i ∉ remapNotes c ∧ regOff .CK_PIN c i ∉ remapNotes c := by
  have remap := regOff_cask (n := .CK_REMAP) rfl c i
  have pin := regOff_cask (n := .CK_PIN) rfl c i
  have gen := regOff_cask (n := .CK_REMAP_COMMIT) rfl c 0
  have status := regOff_cask (n := .CK_STATUS) rfl c 0
  have strides : RegName.CK_REMAP.desc.stride = 4 ∧ RegName.CK_PIN.desc.stride = 4 := ⟨rfl, rfl⟩
  rw [strides.1] at remap
  rw [strides.2] at pin
  simp only [remapNotes, List.mem_cons, not_or]
  exact ⟨⟨by omega, by omega, caskReg_not_eventReg rfl c i⟩, by omega, by omega, caskReg_not_eventReg rfl c i⟩

/-! ### A remap takes effect -/

/-- What a remap may change while it takes effect (R141). -/
def remapParts : List Part := .casks :: .racks :: .staged :: .applies :: eventParts

/-- The state in which a remap's row table and remap group are in force (R83, R141). -/
def remapInForce (c : Nat) (plan : Plan) (rows : LevelRows) (ents : List RowEnt) (s : State) : State :=
  remapChecks c (bumpGen (remapCommit c) (setMap c plan.remap plan.pin
    (modCask c (fun k => { k with rows := Store.setN ⟨0, 0⟩ 0 ents [] }) (putResid c plan.pin rows s))))

theorem remapInForce_spec (c : Nat) (plan : Plan) (rows : LevelRows) (ents : List RowEnt) (s : State) :
    onlyIn remapParts s (remapInForce c plan rows ents s) ∧ otherCasks c s (remapInForce c plan rows ents s) ∧
      getCask c (remapInForce c plan rows ents s) = { getCask c s with rows := Store.setN ⟨0, 0⟩ 0 ents [] } ∧
      ∀ i, i < 16 → MapWordSet c plan.remap plan.pin i (remapInForce c plan rows ents s) := by
  have resid : onlyIn [.racks] s (putResid c plan.pin rows s) := modRack_onlyIn ..
  unfold remapInForce
  generalize putResid c plan.pin rows s = a at *
  have table := modCask_onlyIn c (fun k => { k with rows := Store.setN ⟨0, 0⟩ 0 ents [] }) a
  have own := getCask_modCask c (fun k => { k with rows := Store.setN ⟨0, 0⟩ 0 ents [] }) a
  have others := otherCasks_modCask c (fun k => { k with rows := Store.setN ⟨0, 0⟩ 0 ents [] }) a
  generalize modCask c (fun k => { k with rows := Store.setN ⟨0, 0⟩ 0 ents [] }) a = b at *
  have map := setMap_onlyIn c plan.remap plan.pin b
  have words : ∀ i, i < 16 → MapWordSet c plan.remap plan.pin i (setMap c plan.remap plan.pin b) := fun i hi => setMap_sets c _ _ hi b
  generalize setMap c plan.remap plan.pin b = d at *
  have gen : onlyIn [.regs] d (bumpGen (remapCommit c) d) := rput_onlyIn ..
  have genReg : otherRegs [(remapCommit c).off] d (bumpGen (remapCommit c) d) := otherRegs_rput _ _ _ _ _ _ d
  generalize bumpGen (remapCommit c) d = e at *
  obtain ⟨checks, checkRegs⟩ := remapChecks_spec c e
  have casks : (remapChecks c e).casks = b.casks :=
    (checks.same .casks (by decide)).trans ((gen.same .casks (by decide)).trans (map.same .casks (by decide)))
  have noted : otherRegs (remapNotes c) d (remapChecks c e) :=
    otherRegs_trans (otherRegs_mono genReg fun o ho => List.mem_cons.mpr (.inl (List.mem_singleton.mp ho)))
      (otherRegs_mono checkRegs fun _ => List.mem_cons_of_mem _)
  refine ⟨?_, ?_, ?_, fun i hi => ?_⟩
  · exact onlyIn_trans (onlyIn_mono resid (by decide)) (onlyIn_trans (onlyIn_mono table (by decide)) (onlyIn_trans
      (onlyIn_mono map (by decide)) (onlyIn_trans (onlyIn_mono gen (by decide)) (onlyIn_mono checks (by decide)))))
  · exact otherCasks_trans (otherCasks_of_onlyIn resid (by decide)) (otherCasks_trans others (otherCasks_of_casks casks))
  · rw [getCask_congr casks, own, getCask_congr (resid.same .casks (by decide))]
  · obtain ⟨remap, pin⟩ := mapWord_not_noted c hi
    unfold MapWordSet
    rw [rget_of_otherRegs noted _ _ _ remap, rget_of_otherRegs noted _ _ _ pin]
    exact words i hi

/-- A part of a cask's shadow written, its rows dropped from the row buffer (R128, R168). -/
theorem dropRows_dramStore (c a : Nat) (data : List Byte) (s : State) : onlyIn (.racks :: eventParts) s (dropRows c (dramStore a data s)) ∧
    otherRegs eventRegs s (dropRows c (dramStore a data s)) := by
  have written := eventOnly_dramStore a data s
  have drops : onlyIn [.racks] (dramStore a data s) (dropRows c (dramStore a data s)) := modRack_onlyIn ..
  exact ⟨onlyIn_trans (onlyIn_mono written.frame (by decide)) (onlyIn_mono drops (by decide)),
    otherRegs_trans written.regs (otherRegs_of_onlyIn drops (by decide))⟩

/-- The state in which a remap's shadow and cells are written (R128 to R130, R141). -/
def remapStored (c : Nat) (w5 : Bool) (plan : Plan) (rows : LevelRows) (ents : List RowEnt) (pulses : Nat → Nat) (s : State) : State :=
  saveCells c (modCask c (fun k => { k with
    levels := programmed plan.remap rows
    retired := plan.retired
    chkLost := plan.chkLost }) (putRecords c rows ents pulses (putEntries c w5 plan.remap plan.pin rows s)))

theorem remapStored_spec (c : Nat) (w5 : Bool) (plan : Plan) (rows : LevelRows) (ents : List RowEnt) (pulses : Nat → Nat) (s : State) :
    onlyIn remapParts s (remapStored c w5 plan rows ents pulses s) ∧ otherCasks c s (remapStored c w5 plan rows ents pulses s) ∧
      otherRegs eventRegs s (remapStored c w5 plan rows ents pulses s) ∧
      getCask c (remapStored c w5 plan rows ents pulses s) = { getCask c s with
        levels := programmed plan.remap rows
        retired := plan.retired
        chkLost := plan.chkLost
        cells := (getCask c (remapStored c w5 plan rows ents pulses s)).cells
        saving := false } := by
  obtain ⟨entries, entryRegs⟩ : onlyIn (.racks :: eventParts) s (putEntries c w5 plan.remap plan.pin rows s) ∧
    otherRegs eventRegs s (putEntries c w5 plan.remap plan.pin rows s) := dropRows_dramStore ..
  unfold remapStored saveCells
  generalize putEntries c w5 plan.remap plan.pin rows s = a at *
  obtain ⟨records, recordRegs⟩ : onlyIn (.racks :: eventParts) a (putRecords c rows ents pulses a) ∧
    otherRegs eventRegs a (putRecords c rows ents pulses a) := dropRows_dramStore ..
  generalize putRecords c rows ents pulses a = b at *
  have written : onlyIn (.racks :: eventParts) s b := onlyIn_trans entries records
  simp only [modCask_modCask]
  refine ⟨?_, ?_, ?_, ?_⟩
  · exact onlyIn_trans (onlyIn_mono written (by decide)) (onlyIn_mono (modCask_onlyIn ..) (by decide))
  · exact otherCasks_trans (otherCasks_of_onlyIn written (by decide)) (otherCasks_modCask _ _ b)
  · exact otherRegs_trans (otherRegs_trans entryRegs recordRegs) (otherRegs_of_onlyIn (modCask_onlyIn ..) (by decide))
  · rw [getCask_modCask, getCask_congr (written.same .casks (by decide))]

/-- The events of a remap: a checksum pair left without service, and each column newly pinned (R140). -/
def remapEvents (c : Nat) (w5 lost : Bool) (base plan : Plan) (s : State) : State :=
  let s := if plan.chkLost && !lost then raiseEvent 0x0302 c 0 0 (cellarPkt c s) s else s
  ((pinnedColumns w5 plan.pin).filter fun j => !pinnedColumn w5 base.pin j).foldl
    (fun s j => raiseEvent 0x0301 c 0 j (cellarPkt c s) s) s

theorem eventOnly_remapEvents (c : Nat) (w5 lost : Bool) (base plan : Plan) (s : State) :
    EventOnly s (remapEvents c w5 lost base plan s) :=
  eventOnly_trans (eventOnly_ite (eventOnly_raiseEvent ..)) (eventOnly_foldl _ (fun _ _ => eventOnly_raiseEvent ..) _ _)

/-- The row table of a remap (R141). -/
def remapRows (c : Nat) (base plan : Plan) (rows : LevelRows) (s : State) : List RowEnt :=
  ((rowTable base.remap base.pin [] rows).zip (rowTable plan.remap plan.pin [] rows)).zipIdx.map fun e =>
    remapEntry (rowEnt c e.2 s) e.1.1 e.1.2

/-- What a cask's failed pairs come to, once these spares were prepared (R138 to R140). -/
def remapPlan (c : Nat) (p : Prog) (s : State) : Plan := Plan.repairAll p.badSpares (getCask c s).failed (planNow c s)

theorem applyRemap_eq (c : Nat) (p : Prog) (rows : LevelRows) (recs : List Byte) (s : State) : applyRemap c p rows recs s =
    remapEvents c (caskW5 c s) (getCask c s).chkLost (planNow c s) (remapPlan c p s)
      (remapStored c (caskW5 c s) (remapPlan c p s) rows (remapRows c (planNow c s) (remapPlan c p s) rows s) (recordPulses recs)
        (remapInForce c (remapPlan c p s) rows (remapRows c (planNow c s) (remapPlan c p s) rows s) s)) := rfl

/-- A remap in force: its words in the group's registers, its levels in the cells; no other cask is touched (R141). -/
structure Remapped (c : Nat) (plan : Plan) (rows : LevelRows) (s u : State) : Prop where
  frame : onlyIn remapParts s u
  casks : otherCasks c s u
  words : ∀ i, i < 16 → MapWordSet c plan.remap plan.pin i u
  own : ∃ table cells, getCask c u = { getCask c s with
    rows := table
    levels := programmed plan.remap rows
    retired := plan.retired
    chkLost := plan.chkLost
    cells := cells
    saving := false }

theorem MapWordSet.after {c i : Nat} {remap pin : List Word} {s u : State} (h : MapWordSet c remap pin i s)
    (others : otherRegs eventRegs s u) : MapWordSet c remap pin i u := by
  unfold MapWordSet
  rw [rget_of_otherRegs others _ _ _ (caskReg_not_eventReg rfl c i), rget_of_otherRegs others _ _ _ (caskReg_not_eventReg rfl c i)]
  exact h

theorem applyRemap_remaps (c : Nat) (p : Prog) (rows : LevelRows) (recs : List Byte) (s : State) :
    Remapped c (remapPlan c p s) rows s (applyRemap c p rows recs s) := by
  rw [applyRemap_eq]
  generalize remapPlan c p s = plan
  generalize remapRows c (planNow c s) plan rows s = ents
  obtain ⟨frame, others, own, words⟩ := remapInForce_spec c plan rows ents s
  generalize remapInForce c plan rows ents s = a at *
  obtain ⟨frame', others', regs, own'⟩ := remapStored_spec c (caskW5 c s) plan rows ents (recordPulses recs) a
  generalize remapStored c (caskW5 c s) plan rows ents (recordPulses recs) a = b at *
  have events := eventOnly_remapEvents c (caskW5 c s) (getCask c s).chkLost (planNow c s) plan b
  refine ⟨?_, ?_, fun i hi => ((words i hi).after regs).after events.regs, (getCask c a).rows, (getCask c b).cells, ?_⟩
  · exact onlyIn_trans frame (onlyIn_trans frame' (onlyIn_mono events.frame (by decide)))
  · exact otherCasks_trans others (otherCasks_trans others' (otherCasks_of_onlyIn events.frame (by decide)))
  · rw [events.getCask]
    refine own'.trans ?_
    generalize (getCask c b).cells = cells
    rw [own]

/-! ### A remap ends -/

/-- The cask when its remap is over: it waits for the boundary of its topping, or is released (R141, R153). -/
def Cask.remapped (k : Cask) : Cask :=
  if k.hold = some .topRemap then { k with failed := [], prog := none, hold := some .topWait, tasteDue := true } else k.repaired

/-- The end of a remap sends the credit back, and no topping that was due follows it (R109, R141, R153). -/
theorem endRemap_releases {c : Nat} {s : State} (alone : (getCask c s).thenTop = false ∨ (getCask c s).hold = some .topRemap) :
    endRemap c s = modCask c Cask.remapped (vppSend c s) := by
  obtain ⟨sends, -⟩ := vppSend_spec c s
  have cask : getCask c (vppSend c s) = getCask c s := getCask_congr (sends.same .casks (by decide)) c
  unfold endRemap
  simp only [cask]
  split
  · next top => rw [modCask, modCask, cask, Cask.remapped, if_pos top]
  · next other =>
    have single : (getCask c (vppSend c s)).thenTop = false := by
      rw [cask]
      exact alone.resolve_right other
    unfold afterRepair
    simp only
    rw [if_neg (by simp [single]), modCask, modCask, cask, Cask.remapped, if_neg other]
    rfl

end Sys2Proof.Machine
end

section
/-! SUPPORT. Toppings: each row read first and pulsed where a cell is below its window, then the reference read and its fit (R151 to R155). -/

namespace Sys2Proof.Machine

/-! ### One row of a topping -/

/-- The row of a topping that is being read, none of whose cells was found above its window (R152). -/
structure ToppingRow (p : Prog) : Prop where
  kind : p.kind = .top
  reading : p.reading = true
  above : p.above = []

/-- A topping past its row (R125, R152). -/
def Prog.rowPassed (p : Prog) : Prog := { p.fresh with row := p.row + 1, second := false, pulses := p.pulses ++ [p.cycles] }

/-- One value for each entry that meets a condition. -/
theorem filterMap_const {α β : Type} (q : α → Bool) (b : β) (l : List α) :
    (l.filterMap fun e => if q e then some b else none) = List.replicate (l.filter q).length b := by
  induction l with
  | nil => rfl
  | cons e l ih => cases h : q e <;> simp [h, ih, List.replicate_succ]

section row
variable {p : Prog} (h : ToppingRow p) (max : Nat) (remap : List Word) (rows : LevelRows)
include h

/-- A row whose cells all read inside their windows is passed (R124, R125). -/
theorem ToppingRow.judge_passes : p.judge max remap rows [] = p.rowPassed := by
  obtain ⟨kind, reading, above⟩ := h
  have low : p.below.filterMap (fun _ => (none : Option (Nat × Int))) = [] := List.filterMap_eq_nil_iff.mpr fun _ _ => rfl
  simp [Prog.judge, reading, Prog.verify, low, Prog.next, above, kind, Prog.outside, Prog.rowPassed, Prog.fresh]

/-- A cell below its window calls for one more pulse, while cycles are left (R123, R124). -/
theorem ToppingRow.judge_pulses {x : Nat} {v : Int} (one : (p.below.filter fun e => decide (e.1 = x)).length = 1) (inRow : x < 1064)
    (conducts : 0 < cellTarget remap (nthD [] p.row rows) x) (below : v < 1000 * cellTarget remap (nthD [] p.row rows) x - 150)
    (left : p.cycles < max) : p.judge max remap rows [(x, v)] = { p with cycles := p.cycles + 1, below := [(x, v)] } := by
  obtain ⟨kind, reading, above⟩ := h
  have targets : p.targets remap rows = cellTarget remap (nthD [] p.row rows) := by simp [Prog.targets, kind]
  have cells : p.cells = List.range 1064 := by simp [Prog.cells, kind]
  have low : belowWindow (cellTarget remap (nthD [] p.row rows) x) v = true := by
    simp only [belowWindow, Bool.and_eq_true, decide_eq_true_eq]
    omega
  have notHigh : aboveWindow (cellTarget remap (nthD [] p.row rows) x) v = false := by
    simp only [aboveWindow, if_neg (Nat.ne_of_gt conducts), decide_eq_false_iff_not]
    omega
  have still : (p.below.filterMap fun e => if decide (e.1 = x) then some (x, v) else none) = [(x, v)] := by
    rw [filterMap_const, one]
    rfl
  have verified : p.verify (cellTarget remap (nthD [] p.row rows)) [(x, v)] = { p with below := [(x, v)] } := by
    simp only [Prog.verify, cells, above]
    simpa [inRow, notHigh, low, eq_comm (a := x)] using still
  rw [Prog.judge, if_pos reading, targets, verified, Prog.next, if_pos (by simp [left])]

end row

end Sys2Proof.Machine
end

section
/-! SUPPORT. The cycles of a topping, the end of its rows and its fit (R151 to R155), and the statement on remaps and toppings. -/

namespace Sys2Proof.Machine

/-! ### The cycles of a topping -/

theorem progFits_of_none {c : Nat} {s : State} (h : (getCask c s).prog = none) : progFits c s = false := by simp only [progFits, h]

theorem progFits_of_some {c : Nat} {s : State} {p : Prog} (h : (getCask c s).prog = some p) : progFits c s = p.fit := by
  simp only [progFits, h]

theorem topCycle_pulses {c : Nat} {rows : LevelRows} {reads : List (Nat × Int)} {p : Prog} {s : State}
    (h : (p.judge (maxPulses s) (remapWords c s) rows reads).row < 512) : topCycle c rows reads p s =
      progPulse c (remapWords c s) rows (p.judge (maxPulses s) (remapWords c s) rows reads) s := if_pos h

theorem topCycle_ends {c : Nat} {rows : LevelRows} {reads : List (Nat × Int)} {p : Prog} {s : State}
    (h : 512 ≤ (p.judge (maxPulses s) (remapWords c s) rows reads).row) : topCycle c rows reads p s =
      endTopRows c rows (p.judge (maxPulses s) (remapWords c s) rows reads) s := if_neg (Nat.not_lt.mpr h)

section topping
variable {c : CaskId} {s x : State} {rows : LevelRows} (may : mayProgram c.val s = true)
  (hold : (getCask c.val s).hold = some .topping) (read : readShadow (cellarPkt c.val s) c.val s = (some rows, x))
  (reads : List (Nat × Int))
include may hold read

/-- TOPPING of a held cask whose shadow is read, its rows not all done (R152). -/
theorem topping_cycle (unfitted : progFits c.val s = false) :
    exec (.topping c reads) s = .next (topCycle c.val rows reads ((getCask c.val s).prog.getD (Prog.start .top)) x) := by
  show execTopping c reads s = _
  unfold execTopping
  simp [hold, unfitted, may, read]

/-- A topping begins with a verify read of its first row (R152). -/
theorem topping_begins (fresh : (getCask c.val s).prog = none) :
    exec (.topping c reads) s = .next (progPulse c.val (remapWords c.val s) rows (Prog.start .top) x) := by
  have first : ((Prog.start .top).judge (maxPulses x) (remapWords c.val x) rows reads).row < 512 := Nat.zero_lt_succ _
  rw [topping_cycle may hold read reads (progFits_of_none fresh), fresh, Option.getD_none]
  exact congrArg Host.Outcome.next ((topCycle_pulses first).trans (by rw [(readShadow_reads read).remap]; rfl))

variable {p q : Prog} (prog : (getCask c.val s).prog = some p) (unfitted : p.fit = false)
  (judged : p.judge (maxPulses s) (remapWords c.val s) rows reads = q)
include prog unfitted judged

/-- While rows are left a topping goes on with its row or the next (R152). -/
theorem topping_continues (left : q.row < 512) :
    exec (.topping c reads) s = .next (progPulse c.val (remapWords c.val s) rows q x) := by
  have quiet := readShadow_reads read
  have same : p.judge (maxPulses x) (remapWords c.val x) rows reads = q := by rw [quiet.maxPulses, quiet.remap, judged]
  rw [topping_cycle may hold read reads ((progFits_of_some prog).trans unfitted), prog, Option.getD_some,
    topCycle_pulses (by rw [same]; exact left), same, quiet.remap]

/-- Past the last row a topping ends its rows (R152, R153). -/
theorem topping_endsRows (done : 512 ≤ q.row) : exec (.topping c reads) s = .next (endTopRows c.val rows q x) := by
  have quiet := readShadow_reads read
  have same : p.judge (maxPulses x) (remapWords c.val x) rows reads = q := by rw [quiet.maxPulses, quiet.remap, judged]
  rw [topping_cycle may hold read reads ((progFits_of_some prog).trans unfitted), prog, Option.getD_some,
    topCycle_ends (by rw [same]; exact done), same]

end topping

/-! ### The end of a topping's rows -/

theorem shadowFails_shadows (c : Nat) (p : Option PktId) (s : State) : shadowsOnly s (shadowFails c p s) := by
  unfold shadowFails
  split
  · exact loseShadow_shadows _ _ _
  · exact shadowsOnly_refl _

theorem putRecords_onlyIn (c : Nat) (rows : LevelRows) (ents : List RowEnt) (pulses : Nat → Nat) (s : State) :
    onlyIn (.racks :: eventParts) s (putRecords c rows ents pulses s) := (dropRows_dramStore ..).1

/-- The row records of a topping written, or its shadow found lost (R128, R136). The definition is unfolded as a function: applied
to a state, it has the kernel run the read of 4,096 bytes. -/
theorem topRecords_spec (c : Nat) (rows : LevelRows) (p : Prog) (s : State) :
    onlyIn (.racks :: readParts) s (topRecords c rows p s) ∧ shadowsOnly s (topRecords c rows p s) := by
  have frame := readDram_onlyIn (shadowAt c s + 0x40000) 4096 (cellarPkt c s) s
  have shadows := readDram_shadows (shadowAt c s + 0x40000) 4096 (cellarPkt c s) s
  generalize records : topRecords = f
  delta topRecords at records
  subst records
  simp only
  generalize readDram (shadowAt c s + 0x40000) 4096 (cellarPkt c s) s = read at *
  obtain ⟨result, u⟩ := read
  have lost : onlyIn (.racks :: readParts) s (shadowFails c (cellarPkt c s) u) ∧ shadowsOnly s (shadowFails c (cellarPkt c s) u) :=
    ⟨onlyIn_trans (onlyIn_mono frame (by decide)) (onlyIn_mono (shadowFails_onlyIn ..) (by decide)),
      shadowsOnly_trans shadows (shadowFails_shadows _ _ _)⟩
  cases result with
  | ok recs =>
    exact ⟨onlyIn_trans (onlyIn_mono frame (by decide)) (onlyIn_mono (putRecords_onlyIn ..) (by decide)),
      shadowsOnly_trans shadows (shadowsOnly_of_casks ((putRecords_onlyIn ..).same .casks (by decide)))⟩
  | bus => exact lost
  | badSeal => exact lost

/-- Program cycles are counted on their cask, with an event where that passes 9,000 cycles (R155). -/
theorem addCycles_spec (c n : Nat) (s : State) : onlyIn (.casks :: eventParts) s (addCycles c n s) ∧
    getCask c (addCycles c n s) = { getCask c s with cycles8 := (getCask c s).cycles8 + n } := by
  have counts := modCask_onlyIn c (fun k => { k with cycles8 := k.cycles8 + n }) s
  unfold addCycles
  simp only
  split
  · have event := raiseEvent_onlyIn 0x0304 c 0 ((getCask c s).cycles8 + n)
      (cellarPkt c (modCask c (fun k => { k with cycles8 := k.cycles8 + n }) s)) (modCask c (fun k => { k with cycles8 := k.cycles8 + n }) s)
    refine ⟨onlyIn_trans (onlyIn_mono counts (by decide)) (onlyIn_mono event (by decide)), ?_⟩
    rw [getCask_congr (event.same .casks (by decide)), getCask_modCask]
  · exact ⟨onlyIn_mono counts (by decide), getCask_modCask ..⟩

theorem postNext_spec (c : Nat) (s : State) : onlyIn [.casks] s (postNext c s) ∧
    getCask c (postNext c s) = { getCask c s with posted := (getCask c (postNext c s)).posted, waiting := (getCask c (postNext c s)).waiting } := by
  unfold postNext
  simp only
  split
  · unfold post
    rw [modCask_setCask, getCask_setCask]
    exact ⟨setCask_onlyIn .., rfl⟩
  · exact ⟨onlyIn_refl .., rfl⟩

/-- A reference read that follows other work of the cellarer's runs on the cask (R79). -/
theorem startRef_spec (c : Nat) (s : State) : onlyIn [.casks, .opNames] s (startRef c s) ∧
    getCask c (startRef c s) = { getCask c s with
      running := (getCask c s).running ++ [refRun s.nextOp]
      posted := (getCask c (startRef c s)).posted
      waiting := (getCask c (startRef c s)).waiting } := by
  have named := nextOp_onlyIn (s.nextOp + 1) s
  unfold startRef
  simp only
  generalize hk : ({ getCask c s with running := _, waiting := _ } : Cask) = k
  obtain ⟨posts, own⟩ := postNext_spec c (setCask c k { s with nextOp := s.nextOp + 1 })
  rw [getCask_setCask] at own
  refine ⟨onlyIn_trans (onlyIn_mono named (by decide)) (onlyIn_trans (onlyIn_mono (setCask_onlyIn ..) (by decide))
    (onlyIn_mono posts (by decide))), ?_⟩
  rw [own, ← hk]
  rfl

/-- The used pairs that failed in a topping (R153). -/
def toppingFails (c : Nat) (p : Prog) (s : State) : List Nat :=
  (List.range 532).filter fun q => pairUsed (remapWords c s) (pinWords c s) q && p.fails.any fun f => decide (f.pair = q)

/-- The credit goes back where no pair failed (R153). -/
def sendUnlessFailed (c : Nat) (bad : List Nat) (s : State) : State := if bad.isEmpty then vppSend c s else s

theorem sendUnlessFailed_spec {c : Nat} (bad : List Nat) {s : State} (held : s.ledger.vppHeld.contains c = true)
    (unsent : vppSentAt c s = none) : onlyIn [.ledger] s (sendUnlessFailed c bad s) ∧
      vppSentAt c (sendUnlessFailed c bad s) = if bad = [] then some s.now else none := by
  unfold sendUnlessFailed
  cases bad with
  | nil => exact ⟨(vppSend_spec c s).1, vppSentAt_vppSend held unsent⟩
  | cons q bad => exact ⟨onlyIn_refl .., unsent⟩

/-- The cask past the rows of its topping, its reference read still to come (R152, R153). -/
def Cask.rowsTopped (bad : List Nat) (p : Prog) (k : Cask) : Cask := { k with failed := bad, prog := some { p with fit := true } }

theorem endTopRows_eq (c : Nat) (rows : LevelRows) (p : Prog) (s : State) : endTopRows c rows p s =
    startRef c (modCask c (Cask.rowsTopped (toppingFails c p s) p)
      (sendUnlessFailed c (toppingFails c p s) (addCycles c 1 (topRecords c rows p s)))) := rfl

/-- What the end of a topping's rows may change (R152, R153, R155). -/
def topRowsParts : List Part := .opNames :: .ledger :: .racks :: readParts

/-- The end of a topping's rows: an eighth of a cycle counted, the pairs that failed noted, the reference read started (R152, R153, R155). -/
theorem endTopRows_spec {c : Nat} (rows : LevelRows) (p : Prog) {s : State} (held : s.ledger.vppHeld.contains c = true)
    (unsent : vppSentAt c s = none) : onlyIn topRowsParts s (endTopRows c rows p s) ∧
      vppSentAt c (endTopRows c rows p s) = (if toppingFails c p s = [] then some s.now else none) ∧
      ∃ id, getCask c (endTopRows c rows p s) = { (getCask c s).rowsTopped (toppingFails c p s) p with
        cycles8 := (getCask c s).cycles8 + 1
        shadowOk := (getCask c (endTopRows c rows p s)).shadowOk
        running := (getCask c s).running ++ [refRun id]
        posted := (getCask c (endTopRows c rows p s)).posted
        waiting := (getCask c (endTopRows c rows p s)).waiting } := by
  rw [endTopRows_eq]
  generalize toppingFails c p s = bad
  obtain ⟨records, shadows⟩ := topRecords_spec c rows p s
  obtain ⟨counts, counted⟩ := addCycles_spec c 1 (topRecords c rows p s)
  generalize topRecords c rows p s = a at *
  generalize addCycles c 1 a = b at *
  have ledger : b.ledger = s.ledger := (counts.same .ledger (by decide)).trans (records.same .ledger (by decide))
  have now : b.now = s.now := (counts.same .clock (by decide)).trans (records.same .clock (by decide))
  obtain ⟨sends, sent⟩ := sendUnlessFailed_spec bad (s := b) (by rw [ledger, held]) (by rw [vppSentAt_congr ledger, unsent])
  generalize sendUnlessFailed c bad b = d at *
  have noted := modCask_onlyIn c (Cask.rowsTopped bad p) d
  have own := getCask_modCask c (Cask.rowsTopped bad p) d
  generalize modCask c (Cask.rowsTopped bad p) d = e at *
  obtain ⟨starts, started⟩ := startRef_spec c e
  refine ⟨?_, ?_, e.nextOp, ?_⟩
  · exact onlyIn_trans (onlyIn_mono records (by decide)) (onlyIn_trans (onlyIn_mono counts (by decide)) (onlyIn_trans
      (onlyIn_mono sends (by decide)) (onlyIn_trans (onlyIn_mono noted (by decide)) (onlyIn_mono starts (by decide)))))
  · rw [vppSentAt_congr ((starts.same .ledger (by decide)).trans (noted.same .ledger (by decide))), sent, now]
  · rw [started, own, getCask_congr (sends.same .casks (by decide)), counted]
    rcases shadows c with e | e <;> rw [e] <;> rfl

/-! ### The fit of a topping -/

theorem peek_congr {s u : State} (h : u.mem = s.mem) (a n : Nat) : peek a n u = peek a n s := by
  simp only [peek, peekByte, h]

/-- The racks that a cask's fit enters are read from memory and from the base of the groups (R147, R162, R221). -/
theorem racksOf_congr {s u : State} (mem : u.mem = s.mem) (lo : rget .RS_GROUPS_LO 0 0 u = rget .RS_GROUPS_LO 0 0 s)
    (hi : rget .RS_GROUPS_HI 0 0 u = rget .RS_GROUPS_HI 0 0 s) (c : Nat) : racksOf c u = racksOf c s := by
  have base : ∀ r g, groupAddr r g u = groupAddr r g s := fun r g => by simp only [groupAddr, rpair, lo, hi]
  simp only [racksOf, groupsNow, base, peek_congr mem]

theorem mem_askRefold {r : Nat} {rs : List Nat} (h : r ∈ rs) (s : State) : r ∈ (askRefold rs s).quant.refold := by
  show r ∈ s.quant.refold ++ rs.filter _
  by_cases e : r ∈ s.quant.refold
  · exact List.mem_append_left _ e
  · exact List.mem_append_right _ (List.mem_filter.mpr ⟨h, by simpa using e⟩)

theorem quant_onlyIn (m : Quant) (s : State) : onlyIn [.quant] s { s with quant := m } := by
  constructor
  intro p hp
  cases p with
  | quant => exact absurd (List.mem_singleton.mpr rfl) hp
  | _ => rfl

/-- The sums of a reference read leave the base of the channel groups (R79). -/
theorem refRegs_groups (c : Nat) (a b : Int) (s : State) :
    rget .RS_GROUPS_LO 0 0 (refRegs c a b s) = rget .RS_GROUPS_LO 0 0 s ∧ rget .RS_GROUPS_HI 0 0 (refRegs c a b s) = rget .RS_GROUPS_HI 0 0 s := by
  have hA := regOff_cask (n := .CK_REF_A) rfl c 0
  have hB := regOff_cask (n := .CK_REF_B) rfl c 0
  have hS := regOff_cask (n := .CK_REF_SEQ) rfl c 0
  have lo : regOff .RS_GROUPS_LO 0 0 < 0x1000000 := by decide
  have hi : regOff .RS_GROUPS_HI 0 0 < 0x1000000 := by decide
  simp only [refRegs, bump]
  constructor <;> rw [rget_rset_ne _ _ (by omega), rget_rset_ne _ _ (by omega), rget_rset_ne _ _ (by omega)]

/-- The cask whose topping's reference read is over, its fit from before kept for folds (R153). -/
def Cask.topRead (id : Nat) (k : Cask) : Cask := { k.endProbe id with prog := none, fitWas := some (k.refA, k.refB, k.tFit) }

/-- The latest fit taken as g0 and o0 (R145). -/
def Cask.zeroed (k : Cask) : Cask := { k with refA0 := k.refA, refB0 := k.refB }

/-- The cask once its topping's fit is its new zero (R145, R153). -/
def Cask.topFit (id : Nat) (a b temp : Int) (now : Nat) (k : Cask) : Cask := (Cask.refit a b temp now (k.topRead id)).zeroed

theorem Cask.topFit_fits (id : Nat) (a b temp : Int) (now : Nat) (k : Cask) :
    (k.topFit id a b temp now).refA = a ∧ (k.topFit id a b temp now).refB = b ∧
      (k.topFit id a b temp now).refA0 = a ∧ (k.topFit id a b temp now).refB0 = b ∧
      (k.topFit id a b temp now).levels = k.levels ∧ (k.topFit id a b temp now).prog = none := by
  simp only [Cask.topFit, Cask.zeroed, Cask.refit, Cask.topRead, Cask.endProbe, and_self]

/-- The state in which a topping's fit is recorded and taken as the new zero (R145, R153). -/
def topFitted (c id : Nat) (a b : Int) (s : State) : State := recordZero c (recordRef c a b (modCask c (Cask.topRead id) s))

theorem topFitted_eq (c id : Nat) (a b : Int) (s : State) : topFitted c id a b s =
    modCask c Cask.zeroed (recordRef c a b (modCask c (Cask.topRead id) s)) := rfl

theorem topFitted_spec (c id : Nat) (a b : Int) (s : State) : onlyIn [.casks, .regs] s (topFitted c id a b s) ∧
    (∃ temp now, getCask c (topFitted c id a b s) = (getCask c s).topFit id a b temp now) ∧
    racksOf c (topFitted c id a b s) = racksOf c s := by
  rw [topFitted_eq, recordRef_eq]
  have read := modCask_onlyIn c (Cask.topRead id) s
  have own := getCask_modCask c (Cask.topRead id) s
  generalize modCask c (Cask.topRead id) s = x at *
  have sums := refRegs_onlyIn c a b x
  obtain ⟨lo, hi⟩ := refRegs_groups c a b x
  generalize quadTemp (c / 1024) x = temp
  generalize refRegs c a b x = y at *
  rw [modCask_modCask]
  have marks := modCask_onlyIn c (fun k => Cask.zeroed (Cask.refit a b temp x.now k)) y
  have marked := getCask_modCask c (fun k => Cask.zeroed (Cask.refit a b temp x.now k)) y
  generalize modCask c (fun k => Cask.zeroed (Cask.refit a b temp x.now k)) y = z at *
  have group : ∀ n r g, rget n r g x = rget n r g s := rget_congr (read.same .regs (by decide))
  have same : ∀ n r g, rget n r g z = rget n r g y := rget_congr (marks.same .regs (by decide))
  refine ⟨?_, ⟨temp, x.now, ?_⟩, racksOf_congr ?_ (by rw [same, lo, group]) (by rw [same, hi, group]) c⟩
  · exact onlyIn_trans (onlyIn_mono read (by decide)) (onlyIn_trans (onlyIn_mono sums (by decide)) (onlyIn_mono marks (by decide)))
  · rw [marked, getCask_congr (sums.same .casks (by decide)), own, Cask.topFit]
  · rw [marks.same .mem (by decide), sums.same .mem (by decide), read.same .mem (by decide)]

/-- Where a topped cask waits: for the boundary of its refold, or for a remap of the pairs that failed (R153). -/
def Cask.topWaits (k : Cask) : Hold := if k.failed.isEmpty then .topWait else .topRemap

theorem endTopped_eq (c id : Nat) (a b : Int) (s : State) : endTopped c id a b s =
    modCask c (fun k => { k with hold := some (getCask c s).topWaits }) (evaluate c (askRefold (racksOf c (topFitted c id a b s))
      (modCask c (fun k => { k with outOfRange := false }) (topFitted c id a b s)))) := by
  unfold endTopped topFitted Cask.topWaits
  rfl

/-- A topping ends with its fit as the new zero; its refold is asked for, and the cask waits (R145, R147, R153). -/
theorem endTopped_spec (c id : Nat) (a b : Int) (s : State) : onlyIn (.casks :: .quant :: eventParts) s (endTopped c id a b s) ∧
    (getCask c (endTopped c id a b s)).refA = a ∧ (getCask c (endTopped c id a b s)).refB = b ∧
    (getCask c (endTopped c id a b s)).refA0 = a ∧ (getCask c (endTopped c id a b s)).refB0 = b ∧
    (getCask c (endTopped c id a b s)).levels = (getCask c s).levels ∧ (getCask c (endTopped c id a b s)).prog = none ∧
    (getCask c (endTopped c id a b s)).hold = some (getCask c s).topWaits ∧
    ∀ r ∈ racksOf c s, r ∈ (endTopped c id a b s).quant.refold := by
  rw [endTopped_eq]
  obtain ⟨frame, ⟨temp, now, own⟩, racks⟩ := topFitted_spec c id a b s
  rw [racks]
  generalize topFitted c id a b s = x at *
  have ranged := modCask_onlyIn c (fun k => { k with outOfRange := false }) x
  have rangedOwn := getCask_modCask c (fun k => { k with outOfRange := false }) x
  generalize modCask c (fun k => { k with outOfRange := false }) x = y at *
  have asks : onlyIn [.quant] y (askRefold (racksOf c s) y) := quant_onlyIn _ y
  have asked : ∀ r ∈ racksOf c s, r ∈ (askRefold (racksOf c s) y).quant.refold := fun r hr => mem_askRefold hr y
  generalize askRefold (racksOf c s) y = z at *
  have marks := evaluate_marks c z
  have before : (getCask c z).refA = a ∧ (getCask c z).refB = b ∧ (getCask c z).refA0 = a ∧ (getCask c z).refB0 = b ∧
      (getCask c z).levels = (getCask c s).levels ∧ (getCask c z).prog = none := by
    rw [getCask_congr (asks.same .casks (by decide)), rangedOwn, own]
    exact Cask.topFit_fits id a b temp now (getCask c s)
  obtain ⟨refA, refB, refA0, refB0, levels, prog⟩ := before
  have held := modCask_onlyIn c (fun k => { k with hold := some (getCask c s).topWaits }) (evaluate c z)
  rw [getCask_modCask, marks.own]
  refine ⟨?_, refA, refB, refA0, refB0, levels, prog, rfl, fun r hr => ?_⟩
  · exact onlyIn_trans (onlyIn_mono frame (by decide)) (onlyIn_trans (onlyIn_mono ranged (by decide)) (onlyIn_trans
      (onlyIn_mono asks (by decide)) (onlyIn_trans (onlyIn_mono marks.frame (by decide)) (onlyIn_mono held (by decide)))))
  · rw [held.same .quant (by decide), marks.frame.same .quant (by decide)]
    exact asked r hr

/-- TOPPING of a cask whose reference read is over (R153). -/
theorem topping_ends (c : CaskId) {id : Nat} {a b : Int} (reads : List (Nat × Int)) {s : State}
    (hold : (getCask c.val s).hold = some .topping) (fits : progFits c.val s = true) (ended : refResult (getCask c.val s) = some (id, a, b))
    (noInc : s.hang.incident = none) : exec (.topping c reads) s = .next (endTopped c.val id a b s) := by
  show execTopping c reads s = _
  simp [execTopping, hold, fits, ended, frozenWhere_of_noIncident noInc]

end Sys2Proof.Machine
end

section
/-! SUPPORT. The statement on remaps and toppings, clause by clause (R110, R138 to R141, R151 to R155). -/

namespace Sys2Proof.Machine

/-! ### A verify read asked for -/

/-- The cask asks for the verify read of a row, in state s's step clock (R98, R110). -/
def verifyAsked (c : Nat) (s u : State) (row : Nat) : Prop :=
  (getCask c u).posted = some ⟨verifyReq row, homeWindow c s, 0, s.now, none⟩

/-- A cycle that posts the verify read of its row leaves the state so. -/
structure CyclePosted (c : Nat) (p : Prog) (s u : State) : Prop where
  frame : onlyIn (.casks :: eventParts) s u
  others : otherCasks c s u
  asked : verifyAsked c s u p.row
  prog : (getCask c u).prog = some p

theorem CyclePosted.asksRow {c row : Nat} {p : Prog} {s u : State} (h : CyclePosted c p s u) (here : p.row = row) :
    verifyAsked c s u row := here ▸ h.asked

theorem progPulse_posted {c : Nat} {remap : List Word} {rows : LevelRows} (p : Prog) {s x : State} (read : EventOnly s x) :
    CyclePosted c (p.opened (p.targets remap rows)) s (progPulse c remap rows p x) := by
  obtain ⟨frame, others, own⟩ := progPulse_posts (c := c) (remap := remap) (rows := rows) (p := p) read
  exact ⟨frame, others, by rw [verifyAsked, own]; rfl, by rw [own]; rfl⟩

/-! ### Remaps -/

section remap
variable {c : CaskId} {s x : State} {rows : LevelRows} (may : mayProgram c.val s = true)
  (hold : (getCask c.val s).hold = some .remap ∨ (getCask c.val s).hold = some .topRemap)
  (read : readShadow (cellarPkt c.val s) c.val s = (some rows, x)) (reads : List (Nat × Int))
include may hold read

theorem remapPin_posts (fresh : (getCask c.val s).prog = none) {y : Nat × Nat}
    (needs : (Prog.start .spare).nextSpare (planNow c.val s) (Plan.repairAll [] (getCask c.val s).failed (planNow c.val s)) = some y) :
    ∃ u p, exec (.remapPin c reads) s = .next u ∧ CyclePosted c.val p s u ∧ p.spare = some y ∧ p.row = 0 ∧ p.cycles = 1 :=
  ⟨_, _, remapPin_begins may hold read reads fresh needs, progPulse_posted _ (readShadow_reads read), rfl, rfl, rfl⟩

end remap

theorem Cask.remapped_own (k : Cask) : k.remapped.retired = k.retired ∧ k.remapped.levels = k.levels ∧ k.remapped.failed = [] ∧
    k.remapped.prog = none ∧ k.remapped.tasteDue = true ∧ k.remapped.hold = if k.hold = some .topRemap then some .topWait else none := by
  unfold Cask.remapped
  split
  · exact ⟨rfl, rfl, rfl, rfl, rfl, rfl⟩
  · exact ⟨rfl, rfl, rfl, rfl, rfl, rfl⟩

/-- The end of a remap that no topping follows (R109, R141, R153). -/
theorem endRemap_spec {c : Nat} {s : State} (alone : (getCask c s).thenTop = false ∨ (getCask c s).hold = some .topRemap)
    (held : s.ledger.vppHeld.contains c = true) (unsent : vppSentAt c s = none) :
    onlyIn [.casks, .ledger] s (endRemap c s) ∧ otherCasks c s (endRemap c s) ∧ otherRegs eventRegs s (endRemap c s) ∧
      getCask c (endRemap c s) = (getCask c s).remapped ∧ vppSentAt c (endRemap c s) = some s.now := by
  rw [endRemap_releases alone]
  obtain ⟨sends, -⟩ := vppSend_spec c s
  have sent := vppSentAt_vppSend held unsent
  generalize vppSend c s = x at *
  have ends := modCask_onlyIn c Cask.remapped x
  have own := getCask_modCask c Cask.remapped x
  have others := otherCasks_modCask c Cask.remapped x
  generalize modCask c Cask.remapped x = u at *
  have frame : onlyIn [.casks, .ledger] s u := onlyIn_trans (onlyIn_mono sends (by decide)) (onlyIn_mono ends (by decide))
  refine ⟨frame, otherCasks_trans (otherCasks_of_onlyIn sends (by decide)) others, otherRegs_of_onlyIn frame (by decide), ?_, ?_⟩
  · rw [own, getCask_congr (sends.same .casks (by decide))]
  · rw [vppSentAt_congr (ends.same .ledger (by decide)), sent]

/-- What a remap leaves: its plan in force, the credit on its way back, the cask waiting for its topping's boundary or released. -/
structure RemapDone (c : Nat) (plan : Plan) (rows : LevelRows) (s u : State) : Prop where
  frame : onlyIn (.casks :: .racks :: .ledger :: .staged :: .applies :: eventParts) s u
  others : otherCasks c s u
  words : ∀ i, i < 16 → MapWordSet c plan.remap plan.pin i u
  sent : vppSentAt c u = some s.now
  own : (getCask c u).retired = plan.retired ∧ (getCask c u).levels = programmed plan.remap rows ∧
    (getCask c u).failed = [] ∧ (getCask c u).prog = none ∧ (getCask c u).tasteDue = true ∧
    (getCask c u).hold = if (getCask c s).hold = some .topRemap then some .topWait else none

/-- A plan put in force on a held cask whose shadow was read is a remap done (R138 to R141). -/
theorem remap_done {c : Nat} {s x : State} (may : mayProgram c s = true) (read : EventOnly s x)
    (alone : (getCask c s).thenTop = false ∨ (getCask c s).hold = some .topRemap) (p : Prog) (rows : LevelRows) (recs : List Byte) :
    RemapDone c (remapPlan c p s) rows s (endRemap c (applyRemap c p rows recs x)) := by
  obtain ⟨held, unsent⟩ := credit_of_mayProgram may
  have plan : remapPlan c p x = remapPlan c p s := by rw [remapPlan, read.getCask, read.plan, remapPlan]
  have applied := applyRemap_remaps c p rows recs x
  rw [plan] at applied
  generalize remapPlan c p s = plan at *
  generalize applyRemap c p rows recs x = y at *
  have ledger : y.ledger = s.ledger := (applied.frame.same .ledger (by decide)).trans (read.frame.same .ledger (by decide))
  have now : y.now = s.now := (applied.frame.same .clock (by decide)).trans (read.frame.same .clock (by decide))
  obtain ⟨table, cells, own⟩ := applied.own
  rw [read.getCask] at own
  have hold : (getCask c y).hold = (getCask c s).hold ∧ (getCask c y).thenTop = (getCask c s).thenTop := by
    rw [own]
    exact ⟨rfl, rfl⟩
  obtain ⟨frame, others, regs, ended, sent⟩ := endRemap_spec (c := c) (s := y) (by rw [hold.1, hold.2]; exact alone)
    (by rw [ledger, held]) (by rw [vppSentAt_congr ledger, unsent])
  obtain ⟨retired, levels, failed, prog, taste, waits⟩ := (getCask c y).remapped_own
  refine ⟨?_, ?_, fun i hi => (applied.words i hi).after regs, by rw [sent, now], ?_⟩
  · exact onlyIn_trans (onlyIn_mono read.frame (by decide)) (onlyIn_trans (onlyIn_mono applied.frame (by decide)) (onlyIn_mono frame (by decide)))
  · exact otherCasks_trans (otherCasks_of_onlyIn read.frame (by decide)) (otherCasks_trans applied.casks others)
  · rw [ended, retired, levels, failed, prog, taste, waits, hold.1, own]
    exact ⟨rfl, rfl, rfl, rfl, rfl, rfl⟩

/-! ### Toppings -/

/-- What the last row of a topping leaves: an eighth of a cycle counted, the pairs that failed noted, the fit's read running. -/
structure RowsTopped (c : Nat) (bad : List Nat) (s u : State) : Prop where
  frame : onlyIn (.opNames :: .ledger :: .racks :: .casks :: eventParts) s u
  own : (getCask c u).cycles8 = (getCask c s).cycles8 + 1 ∧ (getCask c u).failed = bad ∧ (getCask c u).hold = some .topping ∧
    (getCask c u).levels = (getCask c s).levels
  reads : ((getCask c u).probe .refRead).isSome = true
  fits : progFits c u = true
  sent : vppSentAt c u = if bad = [] then some s.now else none

theorem probe_append_refRun {k : Cask} {runs : List RunOp} (id : Nat) (h : k.running = runs ++ [refRun id]) :
    (k.probe .refRead).isSome = true := by
  rw [Cask.probe, h, List.find?_isSome]
  exact ⟨refRun id, by simp, rfl⟩

/-- A row that is passed fails no pair. -/
theorem toppingFails_rowPassed (c : Nat) (p : Prog) (s : State) : toppingFails c p.rowPassed s = toppingFails c p s := by
  unfold toppingFails
  rfl

theorem endTopRows_topped {c : Nat} {s x : State} (may : mayProgram c s = true) (hold : (getCask c s).hold = some .topping)
    (read : EventOnly s x) (rows : LevelRows) (p : Prog) : RowsTopped c (toppingFails c p s) s (endTopRows c rows p x) := by
  obtain ⟨held, unsent⟩ := credit_of_mayProgram may
  have ledger := read.frame.same .ledger (by decide)
  have bad : toppingFails c p x = toppingFails c p s := by rw [toppingFails, read.remap, read.pin, toppingFails]
  obtain ⟨frame, sent, id, own⟩ := endTopRows_spec (c := c) (s := x) rows p (by rw [ledger, held]) (by rw [vppSentAt_congr ledger, unsent])
  rw [bad] at sent own
  rw [read.getCask] at own
  generalize toppingFails c p s = pairs at *
  generalize endTopRows c rows p x = u at *
  refine ⟨?_, ?_, probe_append_refRun id (by rw [own]), ?_, by rw [sent, read.frame.same .clock (by decide)]⟩
  · exact onlyIn_trans (onlyIn_mono read.frame (by decide)) (onlyIn_mono frame (by decide))
  · rw [own]
    exact ⟨rfl, rfl, hold, rfl⟩
  · exact progFits_of_some (p := { p with fit := true }) (by rw [own]; rfl)

section topping
variable {c : CaskId} {s x : State} {rows : LevelRows} (may : mayProgram c.val s = true)
  (hold : (getCask c.val s).hold = some .topping) (read : readShadow (cellarPkt c.val s) c.val s = (some rows, x))
include may hold read

theorem topping_posts (reads : List (Nat × Int)) (fresh : (getCask c.val s).prog = none) :
    ∃ u p, exec (.topping c reads) s = .next u ∧ CyclePosted c.val p s u ∧ p.kind = .top ∧ p.row = 0 ∧ p.cycles = 0 :=
  ⟨_, _, topping_begins may hold read reads fresh, progPulse_posted _ (readShadow_reads read), rfl, rfl, rfl⟩

variable {p : Prog} (prog : (getCask c.val s).prog = some p) (row : ToppingRow p) (unfitted : p.fit = false)
include prog row unfitted

/-- A row whose cells all read inside their windows gives way to the next, whose cells are read before any pulse (R152). -/
theorem topping_nextRow (left : p.row < 511) :
    ∃ u p', exec (.topping c []) s = .next u ∧ CyclePosted c.val p' s u ∧
      p'.row = p.row + 1 ∧ p'.cycles = 0 ∧ p'.fails = p.fails ∧ p'.pulses = p.pulses ++ [p.cycles] := by
  have judged := row.judge_passes (maxPulses s) (remapWords c.val s) rows
  have kind := row.kind
  refine ⟨_, _, topping_continues may hold read [] prog unfitted judged (Nat.succ_lt_succ left),
    progPulse_posted _ (readShadow_reads read), ?_⟩
  simp [Prog.opened, Prog.rowPassed, Prog.fresh, kind]

/-- A row with a cell below its window takes one more pulse while cycles are left (R123, R124, R152). -/
theorem topping_pulsesRow {i : Nat} {v : Int} (one : (p.below.filter fun e => decide (e.1 = i)).length = 1) (inRow : i < 1064)
    (conducts : 0 < cellTarget (remapWords c.val s) (nthD [] p.row rows) i)
    (below : v < 1000 * cellTarget (remapWords c.val s) (nthD [] p.row rows) i - 150)
    (left : p.cycles < maxPulses s) (inCask : p.row < 512) : ∃ u, exec (.topping c [(i, v)]) s = .next u ∧
      CyclePosted c.val { p with cycles := p.cycles + 1, below := [(i, v)] } s u := by
  have judged := row.judge_pulses (maxPulses s) (remapWords c.val s) rows one inRow conducts below left
  have posted := progPulse_posted (c := c.val) (remap := remapWords c.val s) (rows := rows)
    { p with cycles := p.cycles + 1, below := [(i, v)] } (readShadow_reads read)
  rw [Prog.opened, if_pos row.reading] at posted
  exact ⟨_, topping_continues may hold read _ prog unfitted judged inCask, posted⟩

/-- Past its last row a topping counts its cycles and starts its reference read (R152, R153, R155). -/
theorem topping_lastRow (last : p.row = 511) :
    ∃ u, exec (.topping c []) s = .next u ∧ RowsTopped c.val (toppingFails c.val p s) s u := by
  have judged := row.judge_passes (maxPulses s) (remapWords c.val s) rows
  have done : 512 ≤ p.rowPassed.row := by
    show 512 ≤ p.row + 1
    omega
  rw [← toppingFails_rowPassed]
  exact ⟨_, topping_endsRows may hold read [] prog unfitted judged done, endTopRows_topped may hold (readShadow_reads read) rows _⟩

end topping

/-! ### The statement -/

/-- Settles O27: a remap or topping posts one row's verify read at a time; past the last it puts its plan in force or takes its fit. -/
theorem remapsAndToppings : Obligations.RemapsAndToppings := by
  unfold Obligations.RemapsAndToppings
  refine fun c s => ⟨fun may rows x read reads => ⟨fun hold => ⟨fun fresh y needs => ?_, ?_⟩, fun hold => ⟨fun fresh => ?_, ?_⟩⟩, ?_⟩
  · obtain ⟨u, p, run, posted, spare, row, cycles⟩ := remapPin_posts may hold read reads fresh needs
    exact ⟨u, run, posted.frame, posted.others, posted.asksRow row, p, posted.prog, spare, row, cycles⟩
  · intro p recs z judged done ready records alone
    have reached := eventOnly_trans (readShadow_reads read) (readDram_reads records)
    have ends := remap_done may reached alone (p.prepare (planNow c.val s) (getCask c.val s).failed) rows recs
    obtain ⟨retired, levels, failed, prog, taste, waits⟩ := ends.own
    exact ⟨_, remapPin_remaps may hold read reads judged done ready records, ends.frame, ends.others, ends.words,
      retired, levels, failed, prog, taste, ends.sent, waits⟩
  · obtain ⟨u, p, run, posted, kind, row, cycles⟩ := topping_posts may hold read reads fresh
    exact ⟨u, run, posted.frame, posted.others, posted.asksRow row, p, posted.prog, kind, row, cycles⟩
  · intro p prog kind unfitted reading above
    have row : ToppingRow p := ⟨kind, reading, above⟩
    refine ⟨fun left => ⟨?_, ?_⟩, ?_⟩
    · rintro rfl
      obtain ⟨u, p', run, posted, next, cycles, fails, pulses⟩ := topping_nextRow may hold read prog row unfitted left
      exact ⟨u, run, posted.frame, posted.others, posted.asksRow next, p', posted.prog, next, cycles, fails, pulses⟩
    · rintro i v rfl one inRow conducts below cycles
      obtain ⟨u, run, posted⟩ :=
        topping_pulsesRow may hold read prog row unfitted one inRow conducts below cycles (Nat.lt_succ_of_lt left)
      exact ⟨u, run, posted.frame, posted.others, posted.asked, posted.prog⟩
    · rintro last rfl
      obtain ⟨u, run, topped⟩ := topping_lastRow may hold read prog row unfitted last
      obtain ⟨cycles, failed, held, levels⟩ := topped.own
      exact ⟨u, run, topped.frame, cycles, failed, held, levels, topped.reads, topped.fits, topped.sent⟩
  · intro id a b reads hold fits ended noInc
    obtain ⟨frame, refA, refB, refA0, refB0, levels, prog, waits, refolds⟩ := endTopped_spec c.val id a b s
    refine ⟨_, topping_ends c reads hold fits ended noInc, frame, refA, refB, refA0, refB0, levels, prog, ?_, refolds⟩
    rw [waits, Cask.topWaits, apply_ite some]
    simp only [List.isEmpty_iff]

end Sys2Proof.Machine
end

section
/-! SUPPORT. Shadows dropped and rebuilt, and the bases that the host writes (R128, R135, R136, R185). -/

namespace Sys2Proof.Machine

/-! ### Frames and listed casks -/

/-- Of two changes, one after the other, each has its parts. -/
theorem onlyIn.andThen {ps qs : List Part} {s u v : State} (h : onlyIn ps s u) (k : onlyIn qs u v) : onlyIn (ps ++ qs) s v :=
  onlyIn_trans (onlyIn_mono h fun _ => List.mem_append_left _) (onlyIn_mono k fun _ => List.mem_append_right _)

/-- The racked casks are those that the store lists as racked. -/
theorem racked_iff_listed {s : State} (rises : Store.risesFrom 0 s.casks = true) (c : Nat) :
    (getCask c s).racked = true ↔ ∃ e ∈ s.casks, e.1 = c ∧ e.2.racked = true := by
  constructor
  · intro racked
    unfold getCask Store.getD at racked
    cases listed : Store.find c s.casks with
    | none => rw [listed] at racked; cases racked
    | some k =>
      rw [listed] at racked
      exact ⟨(c, k), Store.find_mem _ listed, rfl, racked⟩
  · rintro ⟨e, he, rfl, racked⟩
    rw [getCask, Store.getD, Store.find_of_mem rises he]
    exact racked

/-! ### A shadow is rebuilt -/

/-- What a rebuild may change: its own cask, the row buffer of its rack, memory, with the events of both. -/
structure RebuildOnly (c : Nat) (s u : State) : Prop where
  frame : onlyIn (.casks :: .racks :: .free :: eventParts) s u
  regs : otherRegs eventRegs s u
  others : otherCasks c s u

theorem rebuildOnly_refl (c : Nat) (s : State) : RebuildOnly c s s := ⟨onlyIn_refl .., otherRegs_refl _ s, fun _ _ => rfl⟩

theorem rebuildOnly_trans {c : Nat} {s u v : State} (h : RebuildOnly c s u) (k : RebuildOnly c u v) : RebuildOnly c s v where
  frame := onlyIn_trans h.frame k.frame
  regs := otherRegs_trans h.regs k.regs
  others := otherCasks_trans h.others k.others

theorem rebuildOnly_of_event {c : Nat} {s u : State} (h : EventOnly s u) : RebuildOnly c s u where
  frame := onlyIn_mono h.frame (by decide)
  regs := h.regs
  others := otherCasks_of_onlyIn h.frame (by decide)

theorem rebuildOnly_modCask (c : Nat) (f : Cask → Cask) (s : State) : RebuildOnly c s (modCask c f s) where
  frame := onlyIn_mono (modCask_onlyIn ..) (by decide)
  regs := otherRegs_of_onlyIn (modCask_onlyIn ..) (by decide)
  others := otherCasks_modCask c f s

theorem rebuildOnly_of_frame {c : Nat} {ps : List Part} {s u : State} (h : onlyIn ps s u)
    (allowed : ∀ p ∈ ps, p ∈ ([.racks, .free] : List Part)) : RebuildOnly c s u :=
  have within := onlyIn_mono h allowed
  ⟨onlyIn_mono within (by decide), otherRegs_of_onlyIn within (by decide), otherCasks_of_onlyIn within (by decide)⟩

theorem rebuildOnly_dropRows (c d a : Nat) (data : List Byte) (s : State) : RebuildOnly c s (dropRows d (dramStore a data s)) :=
  rebuildOnly_trans (rebuildOnly_of_event (eventOnly_dramStore a data s)) (rebuildOnly_of_frame (modRack_onlyIn ..) (by decide))

theorem free_onlyIn (n : Nat) (s : State) : onlyIn [.free] s { s with freeCtr := n } := by
  constructor
  intro p hp
  cases p with
  | free => exact absurd (List.mem_singleton.mpr rfl) hp
  | _ => rfl

/-- A shadow written anew with everything beside it (R121, R128). -/
theorem restoreShadow_only (c : Nat) (w5 : Bool) (rows : LevelRows) (s : State) : RebuildOnly c s (restoreShadow c w5 rows s) := by
  unfold restoreShadow putRecords putEntries putTaste
  exact rebuildOnly_trans (rebuildOnly_dropRows c c _ _ s) (rebuildOnly_trans (rebuildOnly_dropRows c c _ _ _)
    (rebuildOnly_trans (rebuildOnly_of_frame (free_onlyIn _ _) (by decide)) (rebuildOnly_trans (rebuildOnly_of_frame (modRack_onlyIn ..) (by decide))
      (rebuildOnly_trans (rebuildOnly_of_event (eventOnly_dramStore ..)) (rebuildOnly_modCask c _ _)))))

theorem loseShadow_only (c : Nat) (p : Option PktId) (s : State) : RebuildOnly c s (loseShadow c p s) :=
  rebuildOnly_trans (rebuildOnly_modCask c _ s) (rebuildOnly_of_event (eventOnly_raiseEvent ..))

/-- A rebuild changes its own cask alone, whether it makes the shadow or loses it (R135, R136). -/
theorem rebuildCask_only (c : Nat) (reads : List (Nat × Int)) (s : State) : RebuildOnly c s (rebuildCask c reads s) := by
  unfold rebuildCask
  simp only
  split
  · exact loseShadow_only c none s
  · split
    · exact restoreShadow_only c _ _ s
    · exact loseShadow_only c none s

/-- Every rebuild that is owed made: none is owed any longer, and no cask that none is owed to changes (R135). -/
theorem rebuildAll_spec (s : State) : onlyIn (.cellar :: .casks :: .racks :: .free :: eventParts) s (rebuildAll s) ∧
    otherRegs eventRegs s (rebuildAll s) ∧ (rebuildAll s).cellar = { s.cellar with rebuild := [] } ∧
    ∀ c, c ∉ s.cellar.rebuild.map Prod.fst → getCask c (rebuildAll s) = getCask c s := by
  unfold rebuildAll
  have begun := cellar_onlyIn { s.cellar with rebuild := [] } s
  generalize hx : ({ s with cellar := { s.cellar with rebuild := [] } } : State) = x at *
  have none : x.cellar = { s.cellar with rebuild := [] } := by rw [← hx]
  have each := fun s e => rebuildCask_only (Prod.fst e) (Prod.snd e) s
  have frame := onlyIn_foldl (fun s e => rebuildCask (Prod.fst e) (Prod.snd e) s) (fun s e => (each s e).frame) s.cellar.rebuild x
  refine ⟨onlyIn_mono (begun.andThen frame) (by decide), ?_, ?_, fun c hc => ?_⟩
  · exact otherRegs_trans (otherRegs_of_onlyIn begun (by decide)) (otherRegs_foldl _ (fun s e => (each s e).regs) _ x)
  · rw [frame.same .cellar (by decide), none]
  · rw [getCask_foldl_out Prod.fst (fun s e => (each s e).others) hc, getCask_congr (begun.same .casks (by decide))]

/-! ### Shadows are dropped -/

/-- A store whose every value is mapped reads as its values did, mapped. -/
theorem Store.getD_mapV {α β : Type} (f : Nat → α → β) (k : Nat) (m : Store α) (d : α) :
    Store.getD (f k d) k (Store.mapV f m) = f k (Store.getD d k m) := by
  rw [Store.getD, Store.find_mapV, Store.getD]
  cases Store.find k m <;> rfl

/-- Every shadow dropped, and a rebuild owed to each racked cask (R128). -/
theorem dropShadows_spec (reads : Nat → List (Nat × Int)) (s : State) : onlyIn [.casks, .cellar] s (dropShadows reads s) ∧
    (∀ c, getCask c (dropShadows reads s) = { getCask c s with shadowOk := false }) ∧
    ∀ c, (∃ e ∈ (dropShadows reads s).cellar.rebuild, e.1 = c) ↔ ∃ e ∈ s.casks, e.1 = c ∧ e.2.racked = true := by
  refine ⟨⟨fun p hp => ?_⟩, fun c => ?_, fun c => ?_⟩
  · cases p with
    | casks | cellar => simp at hp
    | _ => rfl
  · have mapped := Store.getD_mapV (fun (_ : Nat) (k : Cask) => { k with shadowOk := false }) c s.casks Cask.init
    exact mapped
  · show (∃ e ∈ (s.casks.filter fun e => e.2.racked).map fun e => (e.1, reads e.1), e.1 = c) ↔ _
    simp only [List.mem_map, List.mem_filter]
    constructor
    · rintro ⟨-, ⟨e, ⟨he, racked⟩, rfl⟩, rfl⟩
      exact ⟨e, he, rfl, racked⟩
    · rintro ⟨e, he, rfl, racked⟩
      exact ⟨_, ⟨e, ⟨he, racked⟩, rfl⟩, rfl⟩

/-! ### The base registers -/

/-- The registers that hold the bases of the shadow region and of the tasting records (Tables 4.12, 5.9). -/
def baseRegs : List RegName := [.RK_SHADOW_HI, .RK_SHADOW_LO, .CT_TASTE_BASE_HI, .CT_TASTE_BASE_LO]

theorem baseRegs_fields : ∀ n ∈ baseRegs, ∀ f ∈ n.desc.fields, f.acc ≠ .w1c := by decide

theorem baseRegs_place : ∀ n ∈ baseRegs, regOff n 0 0 ∉ eventRegs ∧ regOff n 0 0 ≠ regOff .RK_CTRL 0 0 ∧
    regOff n 0 0 ≠ regOff .MC_PARITY_ERRS 0 0 ∧ regOff n 0 0 ≠ regOff .MC_SEAL_FAILS 0 0 := by decide

/-- A word written to a register field by field. -/
def wordStored (n : RegName) (v : Word) (s : State) : State :=
  rset n 0 0 (n.desc.fields.foldl (RegField.write false v) (rget n 0 0 s)) s

/-- A write that takes effect in full stores its word and no more (R1, R6). -/
theorem storeWrite_stores {n : RegName} {v : Word} {s : State} (ok : writeOk n 0 0 v s = true) : storeWrite n 0 0 v s = wordStored n v s := by
  simp only [writeOk, Bool.and_eq_true, Bool.not_eq_true'] at ok
  exact storeWrite_ok ok.1 ok.2

/-- The RW fields of a register hold those of the word written. -/
def HoldsFields (n : RegName) (v : Word) (u : State) : Prop :=
  ∀ f ∈ n.desc.fields, f.acc = .rw → fieldOf f.hi f.lo (rget n 0 0 u) = fieldOf f.hi f.lo v

theorem wordStored_holds {n : RegName} (hn : n ∈ baseRegs) (v : Word) (s : State) : HoldsFields n v (wordStored n v s) := fun f hf rw => by
  rw [wordStored, rget_rset, fieldOf_written n v _ (baseRegs_fields n hn) hf, if_pos rw]

theorem HoldsFields.after {n : RegName} {v : Word} {s u : State} {offs : List Nat} (h : HoldsFields n v s) (others : otherRegs offs s u)
    (apart : regOff n 0 0 ∉ offs) : HoldsFields n v u := fun f hf rw => by
  rw [rget_of_otherRegs others n 0 0 apart, h f hf rw]

end Sys2Proof.Machine
end

section
/-! SUPPORT. What reading the memories leaves of the registers, and the records of tasting computed again (R136, R185, R390). -/

namespace Sys2Proof.Machine

/-! ### Reads, whether or not they bring their bytes -/

/-- The registers that reading a memory may change: those of an event, and the counts of the errors that it finds (R390, R396). -/
def readRegs : List Nat := regOff .MC_PARITY_ERRS 0 0 :: regOff .MC_SEAL_FAILS 0 0 :: eventRegs

theorem otherRegs_of_event {s u : State} (h : otherRegs eventRegs s u) : otherRegs readRegs s u :=
  otherRegs_mono h fun _ ho => List.mem_cons_of_mem _ (List.mem_cons_of_mem _ ho)

theorem loseShadow_regs (c : Nat) (p : Option PktId) (s : State) : otherRegs eventRegs s (loseShadow c p s) :=
  otherRegs_trans (modCask_otherRegs _ _ _ _) (raiseEvent_otherRegs _ _ _ _ _ _)

theorem shadowFails_regs (c : Nat) (p : Option PktId) (s : State) : otherRegs eventRegs s (shadowFails c p s) := by
  unfold shadowFails
  split
  · exact loseShadow_regs _ _ _
  · exact otherRegs_refl _ _

theorem shadowHit_regs (a : Nat) (p : Option PktId) (s : State) : otherRegs eventRegs s (shadowHit a p s) := by
  unfold shadowHit
  split
  · exact shadowFails_regs _ _ _
  · exact otherRegs_refl _ _

/-- One register set, of those that a read may change. -/
theorem rset_readRegs {n : RegName} {u i : Nat} (listed : regOff n u i ∈ readRegs) (v : Word) (s : State) :
    otherRegs readRegs s (rset n u i v s) := otherRegs_mono (otherRegs_rset _ _ _ _ _) fun _ ho => List.mem_singleton.mp ho ▸ listed

theorem parityError_regs (m unit addr : Nat) (p : Option PktId) (s : State) : otherRegs readRegs s (parityError m unit addr p s) := by
  unfold parityError
  refine otherRegs_trans (u := raiseEvent _ _ _ _ _ _) ?_ (by
    simp only
    split
    exacts [otherRegs_of_event (shadowHit_regs _ _ _), otherRegs_refl _ _])
  refine otherRegs_trans ?_ (otherRegs_of_event (raiseEvent_otherRegs _ _ _ _ _ _))
  refine otherRegs_trans ?_ (rset_readRegs (n := .MC_ERR_SRC) (u := 0) (i := 0) (by decide) _ _)
  refine otherRegs_trans (u := bump .MC_PARITY_ERRS 0 0 1 s) (rset_readRegs (n := .MC_PARITY_ERRS) (u := 0) (i := 0) (by decide) _ _) ?_
  exact otherRegs_trans (rset_readRegs (n := .MC_ERR_ADDR) (u := 0) (i := 0) (by decide) _ _)
    (rset_readRegs (n := .MC_ERR_ADDR) (u := 0) (i := 1) (by decide) _ _)

theorem linkError_regs (sec : Nat) (p : Option PktId) (s : State) : otherRegs readRegs s (linkError sec p s) :=
  otherRegs_trans (u := { s with mem := { s.mem with failed := s.mem.failed.drop sec } }) (fun _ _ => rfl) (parityError_regs _ _ _ _ _)

theorem sealCheck_regs (sec : Nat) (p : Option PktId) (s : State) : otherRegs readRegs s (sealCheck sec p s).2 := by
  unfold sealCheck
  simp only
  split
  · exact otherRegs_refl _ _
  · split
    · exact linkError_regs _ _ _
    · split
      · exact fun _ _ => rfl
      · refine otherRegs_trans ?_ (otherRegs_of_event (raiseEvent_otherRegs _ _ _ _ _ _))
        refine otherRegs_trans ?_ (rset_readRegs (n := .MC_SEAL_FAILS) (u := 0) (i := 0) (by decide) _ _)
        refine otherRegs_trans ?_ (rset_readRegs (n := .MC_POISONS) (u := 0) (i := 0) (by decide) _ _)
        exact otherRegs_of_onlyIn (mem_onlyIn ..) (by decide)

theorem missSector_regs (sec : Nat) (p : Option PktId) (s : State) : otherRegs readRegs s (missSector sec p s).2 := by
  unfold missSector
  split
  · exact linkError_regs _ _ _
  · have checked := sealCheck_regs sec p s
    split
    · next he => rwa [he] at checked
    · next u he =>
      rw [he] at checked
      simp only
      split
      · exact otherRegs_trans checked (otherRegs_trans (otherRegs_of_onlyIn (fillLine_onlyIn ..) (by decide))
          (otherRegs_of_event (poisonAll_otherRegs _ _ _)))
      · exact otherRegs_trans checked (parityError_regs _ _ _ _ _)

theorem readSector_regs (sec : Nat) (p : Option PktId) (s : State) : otherRegs readRegs s (readSector sec p s).2 := by
  unfold readSector
  split
  · split
    · exact otherRegs_of_onlyIn (mem_onlyIn ..) (by decide)
    · exact parityError_regs _ _ _ _ _
  · exact missSector_regs _ _ _

theorem readSectors_regs (p : Option PktId) (n sec : Nat) (s : State) : otherRegs readRegs s (readSectors p sec n s).2 := by
  induction n generalizing sec s with
  | zero => exact otherRegs_refl _ _
  | succ n ih =>
    unfold readSectors
    have first := readSector_regs sec p s
    split
    · next s1 h1 =>
      rw [h1] at first
      have rest := ih (sec + 1) s1
      split
      · next h2 =>
        rw [h2] at rest
        exact otherRegs_trans first rest
      · exact otherRegs_trans first rest
    · exact first

/-- What a read of memory may change: what its errors and their events do, and the shadow of a cask, which it may find lost. -/
structure ReadOnly (s u : State) : Prop where
  frame : onlyIn readParts s u
  regs : otherRegs readRegs s u
  shadows : shadowsOnly s u

theorem readOnly_refl (s : State) : ReadOnly s s := ⟨onlyIn_refl .., otherRegs_refl _ s, shadowsOnly_refl s⟩

theorem readOnly_trans {s u v : State} (h : ReadOnly s u) (k : ReadOnly u v) : ReadOnly s v :=
  ⟨onlyIn_trans h.frame k.frame, otherRegs_trans h.regs k.regs, shadowsOnly_trans h.shadows k.shadows⟩

theorem readOnly_of_event {s u : State} (h : EventOnly s u) : ReadOnly s u :=
  ⟨onlyIn_mono h.frame (by decide), otherRegs_of_event h.regs, shadowsOnly_of_casks (h.frame.same .casks (by decide))⟩

theorem readDram_only (a n : Nat) (p : Option PktId) (s : State) : ReadOnly s (readDram a n p s).2 := by
  refine ⟨readDram_onlyIn .., ?_, readDram_shadows _ _ _ _⟩
  unfold readDram
  split
  · exact otherRegs_refl _ _
  · have read := readSectors_regs p ((a + n - 1) / 32 + 1 - a / 32) (a / 32) s
    split
    · next h1 => rwa [h1] at read
    · exact read

theorem readShadow_only (p : Option PktId) (c : Nat) (s : State) : ReadOnly s (readShadow p c s).2 := by
  unfold readShadow
  have read := readDram_only (shadowAt c s) 0x40000 p s
  split
  · exact readOnly_refl s
  · split
    · next h1 => rwa [h1] at read
    · next s1 _ h1 =>
      rw [h1] at read
      exact readOnly_trans read ⟨shadowFails_onlyIn .., otherRegs_of_event (shadowFails_regs _ _ _), shadowFails_shadows _ _ _⟩

/-- A fold of changes that reads make is such a change. -/
theorem readOnly_foldl {α : Type} (f : State → α → State) (h : ∀ s x, ReadOnly s (f s x)) (l : List α) (s : State) :
    ReadOnly s (l.foldl f s) :=
  List.foldlRecOn l f (readOnly_refl s) fun u hu x _ => readOnly_trans hu (h u x)

/-! ### The records of tasting (R185) -/

/-- Every record of tasting computed again changes no register but those of the reads (R185). -/
theorem retaste_only (s : State) : ReadOnly s (retaste s) := by
  refine readOnly_foldl _ (fun s c => ?_) _ s
  have read := readShadow_only none c s
  split
  · next h =>
    rw [h] at read
    exact readOnly_trans read (readOnly_of_event (eventOnly_dramStore ..))
  · next h => rwa [h] at read

end Sys2Proof.Machine
end

section
/-! SUPPORT. The bases that the host writes, temperature samples and the asking for refolds (R128, R147, R185, R222 to R225). -/

namespace Sys2Proof.Machine

/-! ### The bases -/

theorem wordStored_onlyIn (n : RegName) (v : Word) (s : State) : onlyIn [.regs] s (wordStored n v s) := rset_onlyIn ..

theorem wordStored_otherRegs (n : RegName) (v : Word) (s : State) : otherRegs [regOff n 0 0] s (wordStored n v s) := otherRegs_rset _ _ _ _ s

/-- A base that is stored leaves RK_CTRL.QUIESCE. -/
theorem quiesce_wordStored {n : RegName} (hn : n ∈ baseRegs) (v : Word) (s : State) :
    rflag .RK_CTRL 0 0 8 (wordStored n v s) = rflag .RK_CTRL 0 0 8 s := by
  unfold rflag
  rw [rget_of_otherRegs (wordStored_otherRegs n v s) .RK_CTRL 0 0 fun h => (baseRegs_place n hn).2.1 (List.mem_singleton.mp h).symm]

/-- What the cells of a cask read, of the reads of all. -/
def ownReads (reads : List (Nat × Nat × Int)) (c : Nat) : List (Nat × Int) := reads.filterMap fun e => if e.1 = c then some e.2 else none

/-- A base of the shadow region that takes effect is stored, every shadow dropped, and what is due rebuilt (R128). -/
theorem shadowBaseSet_eq {hi : Bool} {v : Word} {s : State} {n : RegName} (named : n = if hi then RegName.RK_SHADOW_HI else .RK_SHADOW_LO)
    (reads : List (Nat × Nat × Int)) (ok : writeOk n 0 0 v s = true) :
    shadowBaseSet hi v reads s =
      rebuildDue (dropShadows (ownReads reads) (wordStored n v s)) := by
  unfold shadowBaseSet
  simp only [← named, ok, if_true, storeWrite_stores ok]
  rfl

/-- A cask that is not racked and whose shadow is dropped gets no shadow by the rebuilds that are due (R128, R135). -/
theorem rebuildAll_dropped {reads : Nat → List (Nat × Int)} {s : State} (rises : Store.risesFrom 0 s.casks = true) {c : Nat}
    (unracked : (getCask c s).racked = false) : (getCask c (rebuildAll (dropShadows reads s))).shadowOk = false := by
  obtain ⟨-, dropped, owed⟩ := dropShadows_spec reads s
  obtain ⟨-, -, -, rest⟩ := rebuildAll_spec (dropShadows reads s)
  rw [rest c fun listed => ?_, dropped]
  obtain ⟨e, he, rfl⟩ := List.mem_map.mp listed
  rw [(racked_iff_listed rises e.1).mpr ((owed e.1).mp ⟨e, he, rfl⟩)] at unracked
  cases unracked

/-! ### Refolds asked for -/

/-- The racks asked for are those before and those added (R224). -/
theorem mem_askRefold_iff (r : Nat) (rs : List Nat) (s : State) : r ∈ (askRefold rs s).quant.refold ↔ r ∈ s.quant.refold ∨ r ∈ rs := by
  show r ∈ s.quant.refold ++ rs.filter (fun r => !s.quant.refold.contains r) ↔ _
  by_cases e : r ∈ s.quant.refold <;> simp [e]

theorem askRefold_onlyIn (rs : List Nat) (s : State) : onlyIn [.quant] s (askRefold rs s) := quant_onlyIn _ s

/-- What a write of the host to RS_REFOLD asks for (R223). -/
theorem refoldSet_host (v : Word) (s : State) : onlyIn (.quant :: .pm :: eventParts) s (refoldSet .host v s) ∧
    ∀ r, r ∈ (refoldSet .host v s).quant.refold ↔ r ∈ s.quant.refold ∨ r ∈ if flagOf 31 v then List.range 256 else [fieldOf 7 0 v] := by
  have noted := journal_onlyIn 2 0 0 (regOff .RS_REFOLD 0 0) 0 0 v s
  refine ⟨onlyIn_mono (noted.andThen (askRefold_onlyIn _ _)) (by decide), fun r => ?_⟩
  rw [← show (journal 2 0 0 (regOff .RS_REFOLD 0 0) 0 0 v s).quant = s.quant from noted.same .quant (by decide)]
  exact mem_askRefold_iff r _ _

/-- The state with the temperatures of a sample. -/
def sampled (temps : List Int) (s : State) : State := { s with cellar := { s.cellar with lastTemps := temps } }

/-- The racks that a sample has refolded (R147). -/
def movedRacks (s : State) : List Nat :=
  (s.casks.filter fun e => e.2.racked).flatMap fun e => (racksOf e.1 s).filter fun r => tempMoved r (e.1 / 1024) s

theorem racksOf_lt {c r : Nat} {s : State} (h : r ∈ racksOf c s) : r < 256 := List.mem_range.mp (List.mem_filter.mp h).1

theorem mem_movedRacks {s : State} (rises : Store.risesFrom 0 s.casks = true) (r : Nat) : r ∈ movedRacks s ↔
    ∃ c, (getCask c s).racked = true ∧ r ∈ racksOf c s ∧ tempMoved r (c / 1024) s = true := by
  simp only [movedRacks, List.mem_flatMap, List.mem_filter]
  constructor
  · rintro ⟨e, ⟨he, racked⟩, named, moved⟩
    exact ⟨e.1, (racked_iff_listed rises e.1).mpr ⟨e, he, rfl, racked⟩, named, moved⟩
  · rintro ⟨c, racked, named, moved⟩
    obtain ⟨e, he, rfl, listed⟩ := (racked_iff_listed rises c).mp racked
    exact ⟨e, ⟨he, listed⟩, named, moved⟩

/-- A sample asks for the racks whose temperature moved, and for no more (R147). -/
theorem tempSample_asks (temps : List Int) (s : State) (rises : Store.risesFrom 0 s.casks = true) :
    ∃ u, exec (.tempSample temps) s = .next u ∧ onlyIn [.cellar, .quant] s u ∧ u.cellar = (sampled temps s).cellar ∧
      ∀ r, r ∈ u.quant.refold ↔ r ∈ s.quant.refold ∨ r ∈ movedRacks (sampled temps s) := by
  have stored : onlyIn [.cellar] s (sampled temps s) := cellar_onlyIn _ s
  have within : ∀ r, r ∈ (List.range 256).filter (movedRacks (sampled temps s)).contains ↔ r ∈ movedRacks (sampled temps s) := fun r => by
    simp only [List.mem_filter, List.mem_range, List.contains_iff_mem, and_iff_right_iff_imp]
    intro moved
    obtain ⟨c, -, named, -⟩ := (mem_movedRacks (s := sampled temps s) rises r).mp moved
    exact racksOf_lt named
  refine ⟨if (movedRacks (sampled temps s)).isEmpty then sampled temps s else
    askRefold ((List.range 256).filter (movedRacks (sampled temps s)).contains) (sampled temps s), rfl, ?_⟩
  split
  · next none => exact ⟨onlyIn_mono stored (by decide), rfl, fun r => by
      rw [List.isEmpty_iff.mp none]
      exact (or_iff_left List.not_mem_nil).symm⟩
  · refine ⟨stored.andThen (askRefold_onlyIn _ _), rfl, fun r => ?_⟩
    rw [mem_askRefold_iff, within]
    exact Iff.rfl

/-- The next batch of refolds opens where none is in progress and nothing holds it back (R224, R225). -/
theorem openBatch_opens {s : State} (none : s.quant.batch = []) (quiet : rflag .QT_CTRL 0 0 8 s = false)
    (still : applyPending rsCommit s = false) (copied : s.quant.copyDue = false) :
    openBatch s = { s with quant := { s.quant with
      batch := nextBatch s
      forRack := !s.quant.rackFold.isEmpty
      rackFold := []
      refold := if !s.quant.rackFold.isEmpty then s.quant.refold else [] } } := by
  simp [openBatch, none, quiet, still, copied]

end Sys2Proof.Machine
end

section
/-! SUPPORT. A rack's groups and match gains folded into the staged bank (R146, R162, R222, R223). -/

namespace Sys2Proof.Machine

/-! ### What a fold reads -/

theorem quadTemp_congr {s u : State} (cal : u.cal = s.cal) (cellar : u.cellar = s.cellar) (q : Nat) : quadTemp q u = quadTemp q s := by
  unfold quadTemp vintage
  rw [cal, cellar]

/-- The fold of a cask does not depend on whether its shadow is good (R146). -/
theorem gFold_congr {s u : State} (casks : shadowsOnly s u) (cal : u.cal = s.cal) (cellar : u.cellar = s.cellar) (free : u.freeCtr = s.freeCtr)
    (early : Bool) (c : Nat) : gFold early c u = gFold early c s := by
  have beta : quadBeta (c / 1024) u = quadBeta (c / 1024) s := by
    unfold quadBeta vintage
    rw [cal]
  unfold gFold
  simp only [quadTemp_congr cal cellar, beta, free]
  rcases casks c with same | lost
  · rw [same]
  · rw [lost]
    cases early with
    | false => rfl
    | true => cases fit : (getCask c s).fitWas <;> simp [Cask.foldView, fit, Cask.gainSum, Cask.offsetSum]

theorem readShadows_only (cs : List Nat) (s : State) : ReadOnly s (readShadows cs s).2 := by
  induction cs generalizing s with
  | nil => exact readOnly_refl s
  | cons c cs ih =>
    unfold readShadows
    have first := readShadow_only none c s
    split
    · next h => rwa [h] at first
    · next rows s1 h =>
      rw [h] at first
      have rest := ih s1
      split
      · next h2 =>
        rw [h2] at rest
        exact readOnly_trans first rest
      · exact readOnly_trans first rest

/-! ### The groups of a rack -/

/-- What folding groups may change: staged entries of the rescale table, and what its reads may. -/
structure GroupsOnly (s u : State) : Prop where
  frame : onlyIn (.quant :: readParts) s u
  shadows : shadowsOnly s u
  entries : u.quant = { s.quant with crtStaged := u.quant.crtStaged }

theorem groupsOnly_refl (s : State) : GroupsOnly s s := ⟨onlyIn_refl .., shadowsOnly_refl s, rfl⟩

theorem groupsOnly_trans {s u v : State} (h : GroupsOnly s u) (k : GroupsOnly u v) : GroupsOnly s v :=
  ⟨onlyIn_trans h.frame k.frame, shadowsOnly_trans h.shadows k.shadows, by rw [k.entries, h.entries]⟩

theorem groupsOnly_of_read {s u : State} (h : ReadOnly s u) : GroupsOnly s u :=
  ⟨onlyIn_mono h.frame (by decide), h.shadows, by rw [h.frame.same .quant (by decide)]⟩

theorem groupsOnly_stage (m : Store Word) (s : State) : GroupsOnly s { s with quant := { s.quant with crtStaged := m } } :=
  ⟨onlyIn_mono (quant_onlyIn _ s) (by decide), shadowsOnly_of_casks rfl, rfl⟩

theorem foldGroup_only (early : Bool) (r : Nat) (s : State) (g : Nat) : GroupsOnly s (foldGroup early r s g) := by
  have bad : ∀ a u, GroupsOnly u (groupBad r a u) := fun _ u => groupsOnly_of_read (readOnly_of_event (eventOnly_raiseEvent ..))
  have record := readDram_only (groupAddr r g s) 256 none s
  unfold foldGroup
  simp only
  split
  · next bs s1 h1 =>
    rw [h1] at record
    have base := readDram_only (rpair .RS_BASE_LO .RS_BASE_HI 0 s1 + 4 * crtKey r g 0) 1024 none s1
    split
    · exact groupsOnly_trans (groupsOnly_of_read record) (bad _ _)
    · split
      · exact groupsOnly_of_read record
      · split
        · next bb s2 h2 =>
          rw [h2] at base
          have shadows := readShadows_only ((contribs bs).map (·.1)) s2
          split
          · next h3 =>
            rw [h3] at shadows
            exact groupsOnly_trans (groupsOnly_of_read (readOnly_trans record (readOnly_trans base shadows))) (groupsOnly_stage _ _)
          · next h3 =>
            rw [h3] at shadows
            exact groupsOnly_of_read (readOnly_trans record (readOnly_trans base shadows))
        · next h2 =>
          rw [h2] at base
          exact groupsOnly_of_read (readOnly_trans record base)
  · next h1 =>
    rw [h1] at record
    exact groupsOnly_trans (groupsOnly_of_read record) (bad _ _)

theorem foldGroups_only (early : Bool) (r : Nat) (gs : List Nat) (s : State) : GroupsOnly s (gs.foldl (foldGroup early r) s) :=
  List.foldlRecOn gs _ (groupsOnly_refl s) fun u hu g _ => groupsOnly_trans hu (foldGroup_only early r u g)

/-! ### The match gains of a rack -/

/-- What staging match gains may change: the staged gains, which stay in canonical form. -/
structure GainsOnly (s u : State) : Prop where
  frame : onlyIn [.quant] s u
  gains : u.quant = { s.quant with gainStaged := u.quant.gainStaged }
  canonical : Store.wf one32 s.quant.gainStaged = true → Store.wf one32 u.quant.gainStaged = true

theorem gainsOnly_refl (s : State) : GainsOnly s s := ⟨onlyIn_refl .., rfl, id⟩

theorem gainsOnly_trans {s u v : State} (h : GainsOnly s u) (k : GainsOnly u v) : GainsOnly s v :=
  ⟨onlyIn_trans h.frame k.frame, by rw [k.gains, h.gains], k.canonical ∘ h.canonical⟩

theorem foldGain_only (early : Bool) (r : Nat) (s : State) (k : Nat) : GainsOnly s (foldGain early r s k) := by
  unfold foldGain
  simp only
  split
  · exact ⟨quant_onlyIn _ s, rfl, Store.setD_wf one32 _ _ _⟩
  · exact gainsOnly_refl s

theorem foldGains_only (early : Bool) (r : Nat) (ks : List Nat) (s : State) : GainsOnly s (ks.foldl (foldGain early r) s) :=
  List.foldlRecOn ks _ (gainsOnly_refl s) fun u hu k _ => gainsOnly_trans hu (foldGain_only early r u k)

/-- The staged gain of a cask after the step of a cask of its rack. -/
theorem getD_foldGain {early : Bool} {r j k : Nat} {s : State} (canonical : Store.wf one32 s.quant.gainStaged = true) :
    Store.getD one32 (16 * r + k) (foldGain early r s j).quant.gainStaged =
      if j = k ∧ (getCask (16 * r + k) s).racked = true ∧ (getCask (16 * r + k) s).fitted = true then gFold early (16 * r + k) s
      else Store.getD one32 (16 * r + k) s.quant.gainStaged := by
  unfold foldGain
  simp only
  by_cases e : j = k
  · subst e
    simp only [true_and, Bool.and_eq_true]
    split
    · exact Store.getD_setD_same one32 _ _ _ canonical
    · rfl
  · rw [if_neg (c := j = k ∧ _) fun h => e h.1]
    split
    · exact Store.getD_setD_ne one32 _ _ canonical fun h => e (by omega)
    · rfl

/-- Every cask of the rack with a fit has its fold staged (R162). -/
theorem getD_foldGains {early : Bool} {r k : Nat} {s : State} (canonical : Store.wf one32 s.quant.gainStaged = true) (hk : k < 16)
    (racked : (getCask (16 * r + k) s).racked = true) (fitted : (getCask (16 * r + k) s).fitted = true) :
    Store.getD one32 (16 * r + k) ((List.range 16).foldl (foldGain early r) s).quant.gainStaged = gFold early (16 * r + k) s := by
  have same : ∀ u, GainsOnly s u → getCask (16 * r + k) u = getCask (16 * r + k) s ∧ gFold early (16 * r + k) u = gFold early (16 * r + k) s :=
    fun u hu => ⟨getCask_congr (hu.frame.same .casks (by decide)) _,
      gFold_congr (shadowsOnly_of_casks (hu.frame.same .casks (by decide))) (hu.frame.same .cal (by decide)) (hu.frame.same .cellar (by decide))
        (hu.frame.same .free (by decide)) early _⟩
  have step : ∀ u j, GainsOnly s u → Store.getD one32 (16 * r + k) (foldGain early r u j).quant.gainStaged =
      if j = k then gFold early (16 * r + k) s else Store.getD one32 (16 * r + k) u.quant.gainStaged := fun u j hu => by
    obtain ⟨cask, fold⟩ := same u hu
    rw [getD_foldGain (hu.canonical canonical), cask, fold]
    simp only [racked, fitted, and_true]
  refine (foldl_reaches (I := GainsOnly s) (P := fun u => GainsOnly s u ∧
    Store.getD one32 (16 * r + k) u.quant.gainStaged = gFold early (16 * r + k) s) (x := k)
    (fun u j _ hu => gainsOnly_trans hu (foldGain_only early r u j)) (fun u hu => ⟨gainsOnly_trans hu (foldGain_only early r u k), ?_⟩)
    (fun u j hu => ⟨gainsOnly_trans hu.1 (foldGain_only early r u j), ?_⟩) (List.mem_range.mpr hk) (gainsOnly_refl s)).2
  · rw [step u k hu, if_pos rfl]
  · rw [step u j hu.1, hu.2, ite_self]

/-! ### A rack -/

/-- The temperatures of the quadrants noted for a rack that is folded with them (R147). -/
def noteTemps (r : Nat) (s : State) : State := { s with cellar := { s.cellar with
  foldTemps := (List.range 4).foldl (fun m q => Store.setD 12800 (4 * r + q) (quadTemp q s) m) s.cellar.foldTemps } }

theorem noteTemps_cellar (r : Nat) (s : State) : (noteTemps r s).cellar =
    { s.cellar with foldTemps := Store.setN 12800 (4 * r) ((List.range 4).map (quadTemp · s)) s.cellar.foldTemps } := rfl

theorem noteTemps_onlyIn (r : Nat) (s : State) : onlyIn [.cellar] s (noteTemps r s) := cellar_onlyIn _ s

theorem foldRack_eq (early : Bool) (r : Nat) (s : State) : foldRack early r s =
    noteTemps r (drawFree ((List.range 16).foldl (foldGain early r) ((List.range 32).foldl (foldGroup early r) s))) := rfl

/-- What folding a rack does: its groups' entries and its casks' gains staged, and the temperatures noted (R146, R162, R222, R223). -/
structure RackFolded (early : Bool) (r : Nat) (s u : State) : Prop where
  frame : onlyIn (.quant :: .casks :: .free :: .cellar :: eventParts) s u
  shadows : shadowsOnly s u
  staged : u.quant = { s.quant with crtStaged := u.quant.crtStaged, gainStaged := u.quant.gainStaged }
  temps : u.cellar = { s.cellar with foldTemps := Store.setN 12800 (4 * r) ((List.range 4).map (quadTemp · s)) s.cellar.foldTemps }
  gains : Store.wf one32 s.quant.gainStaged = true → ∀ k, k < 16 → (getCask (16 * r + k) s).racked = true →
    (getCask (16 * r + k) s).fitted = true → Store.getD one32 (16 * r + k) u.quant.gainStaged = gFold early (16 * r + k) s

theorem racked_of_shadowsOnly {s u : State} (h : shadowsOnly s u) (c : Nat) : (getCask c u).racked = (getCask c s).racked := by
  rcases h c with same | lost
  · rw [same]
  · rw [lost]

theorem fitted_of_shadowsOnly {s u : State} (h : shadowsOnly s u) (c : Nat) : (getCask c u).fitted = (getCask c s).fitted := by
  rcases h c with same | lost
  · rw [same]
  · rw [lost]

/-- Groups folded, then gains staged, then the temperatures noted. -/
theorem rackFolded_of {early : Bool} {r : Nat} {s u v : State} (groups : GroupsOnly s u) (gains : GainsOnly u v)
    (staged : Store.wf one32 u.quant.gainStaged = true → ∀ k, k < 16 → (getCask (16 * r + k) u).racked = true →
      (getCask (16 * r + k) u).fitted = true → Store.getD one32 (16 * r + k) v.quant.gainStaged = gFold early (16 * r + k) u) :
    RackFolded early r s (noteTemps r (drawFree v)) := by
  have both := groups.frame.andThen gains.frame
  have noted := (drawFree_onlyIn v).andThen (noteTemps_onlyIn r (drawFree v))
  have cellar : v.cellar = s.cellar := both.same .cellar (by decide)
  refine ⟨onlyIn_mono (both.andThen noted) (by decide),
    shadowsOnly_trans groups.shadows (shadowsOnly_of_casks ((gains.frame.andThen noted).same .casks (by decide))), ?_, ?_,
    fun canonical k hk racked fitted => ?_⟩
  · show v.quant = { s.quant with crtStaged := v.quant.crtStaged, gainStaged := v.quant.gainStaged }
    rw [gains.gains, groups.entries]
  · have quads : (quadTemp · (drawFree v)) = (quadTemp · s) := funext (quadTemp_congr (both.same .cal (by decide)) cellar)
    rw [noteTemps_cellar, quads, show (drawFree v).cellar = s.cellar from cellar]
  · have fold := gFold_congr groups.shadows (groups.frame.same .cal (by decide)) (groups.frame.same .cellar (by decide))
      (groups.frame.same .free (by decide)) early (16 * r + k)
    rw [← fold]
    refine staged ?_ k hk ?_ ?_
    · rw [groups.entries]
      exact canonical
    · rw [racked_of_shadowsOnly groups.shadows, racked]
    · rw [fitted_of_shadowsOnly groups.shadows, fitted]

theorem foldRack_spec (early : Bool) (r : Nat) (s : State) : RackFolded early r s (foldRack early r s) := by
  rw [foldRack_eq]
  exact rackFolded_of (foldGroups_only early r _ s) (foldGains_only early r _ _) fun canonical _ => getD_foldGains canonical

end Sys2Proof.Machine
end

section
/-! SUPPORT. The batch of refolds, and what a host's write to a base or a temperature sample does (R128, R147, R185, R222 to R226). -/

namespace Sys2Proof.Machine

theorem openBatch_onlyIn (s : State) : onlyIn [.quant] s (openBatch s) ∧ (openBatch s).quant =
    { s.quant with
      batch := (openBatch s).quant.batch
      forRack := (openBatch s).quant.forRack
      rackFold := (openBatch s).quant.rackFold
      refold := (openBatch s).quant.refold } := by
  unfold openBatch
  split
  · exact ⟨onlyIn_refl .., rfl⟩
  · exact ⟨quant_onlyIn _ s, rfl⟩

/-- A rack taken out of its batch once it is folded. -/
def batchTaken (r : Nat) (s : State) : State :=
  { s with quant := { s.quant with batch := s.quant.batch.filter (· ≠ r), folded := s.quant.folded ++ [r] } }

/-- The apply of the rescale group asked for, where it is not pending: with the last rack of the batch (R224). -/
theorem requestRs_asks (racking : Bool) (s : State) : onlyIn [.applies] s (requestRs racking s) ∧ applyPending rsCommit (requestRs racking s) = true := by
  unfold requestRs
  split
  · next pending => exact ⟨onlyIn_refl .., pending⟩
  · refine ⟨applies_onlyIn _ s, ?_⟩
    show (Store.find rsCommit.off (Store.put rsCommit.off _ s.applies)).isSome = true
    rw [Store.find_put_same]
    rfl

/-- A rack that is folded leaves its batch; with the last one the apply is asked for (R224). -/
def batchStep (r : Nat) (s : State) : State :=
  if (batchTaken r s).quant.batch.isEmpty then requestRs (batchTaken r s).quant.forRack (batchTaken r s) else batchTaken r s

theorem foldBatch_eq (r : Nat) (s : State) : foldBatch r s = batchStep r (foldRack s.quant.forRack r s) := rfl

theorem batchStep_spec (r : Nat) (s : State) (still : applyPending rsCommit s = false) : onlyIn [.quant, .applies] s (batchStep r s) ∧
    (batchStep r s).quant = (batchTaken r s).quant ∧ (applyPending rsCommit (batchStep r s) = true ↔ (batchStep r s).quant.batch = []) := by
  have taken : onlyIn [.quant] s (batchTaken r s) := quant_onlyIn _ s
  obtain ⟨asked, pending⟩ := requestRs_asks (batchTaken r s).quant.forRack (batchTaken r s)
  have quant : (requestRs (batchTaken r s).quant.forRack (batchTaken r s)).quant = (batchTaken r s).quant := asked.same .quant (by decide)
  unfold batchStep
  split
  · next last =>
    refine ⟨taken.andThen asked, quant, fun _ => ?_, fun _ => pending⟩
    rw [quant]
    exact List.isEmpty_iff.mp last
  · next more =>
    refine ⟨onlyIn_mono taken (by decide), rfl, fun h => ?_, fun h => absurd (List.isEmpty_iff.mpr h) more⟩
    have none : applyPending rsCommit (batchTaken r s) = false := still
    rw [none] at h
    cases h

/-- REFOLD of a rack of the batch that is open, or that opens now (R222 to R224). -/
theorem refold_spec (r : Rack) {s : State} (listed : r.val ∈ (openBatch s).quant.batch) (still : applyPending rsCommit s = false) :
    ∃ u v, exec (.refold r) s = .next u ∧ RackFolded (openBatch s).quant.forRack r.val (openBatch s) v ∧ onlyIn [.quant, .applies] v u ∧
      u.quant = (batchTaken r.val v).quant ∧ (applyPending rsCommit u = true ↔ u.quant.batch = []) := by
  have folded := foldRack_spec (openBatch s).quant.forRack r.val (openBatch s)
  have before : applyPending rsCommit (foldRack (openBatch s).quant.forRack r.val (openBatch s)) = false := by
    rw [show applyPending rsCommit _ = applyPending rsCommit s from congrArg (fun m : Store Apply => (m.find rsCommit.off).isSome)
      (((openBatch_onlyIn s).1.andThen folded.frame).same .applies (by decide)), still]
  refine ⟨_, _, ?_, folded, batchStep_spec r.val _ before⟩
  show execRefold r s = _
  rw [execRefold, if_pos (List.contains_iff_mem.mpr listed), foldBatch_eq]

end Sys2Proof.Machine
end

section
/-! SUPPORT. The statement on the shadow region's base, the tasting base, temperatures and refolds (R128, R147, R162, R185, R222 to R226). -/

namespace Sys2Proof.Machine

section base
variable {hi : Bool} {v : Word} {s : State} {n : RegName} (named : n = if hi then RegName.RK_SHADOW_HI else .RK_SHADOW_LO)
  (hn : n ∈ baseRegs) (reads : List (Nat × Nat × Int)) (ok : writeOk n 0 0 v s = true) (rises : Store.risesFrom 0 s.casks = true)
include named hn ok

/-- A new base of the shadow region is stored and every shadow dropped; RK_CTRL.QUIESCE holds back what is then owed (R128, Table 4.10). -/
theorem shadowBaseSet_drops : ∃ own : Nat → List (Nat × Int), shadowBaseSet hi v reads s =
    if rflag .RK_CTRL 0 0 8 s then dropShadows own (wordStored n v s) else rebuildAll (dropShadows own (wordStored n v s)) := by
  refine ⟨ownReads reads, (shadowBaseSet_eq named reads ok).trans ?_⟩
  obtain ⟨frame, -, -⟩ := dropShadows_spec (ownReads reads) (wordStored n v s)
  have quiesce : rflag .RK_CTRL 0 0 8 (dropShadows (ownReads reads) (wordStored n v s)) = rflag .RK_CTRL 0 0 8 (wordStored n v s) :=
    congrArg (flagOf 8) (rget_congr (frame.same .regs (by decide)) .RK_CTRL 0 0)
  rw [rebuildDue, quiesce, quiesce_wordStored hn]

include rises

theorem shadowBase_quiesced (quiesced : rflag .RK_CTRL 0 0 8 s = true) : onlyIn [.regs, .casks, .cellar] s (shadowBaseSet hi v reads s) ∧
    otherRegs [regOff n 0 0] s (shadowBaseSet hi v reads s) ∧ HoldsFields n v (shadowBaseSet hi v reads s) ∧
    ∀ c, getCask c (shadowBaseSet hi v reads s) = { getCask c s with shadowOk := false } ∧
      ((∃ e ∈ (shadowBaseSet hi v reads s).cellar.rebuild, e.1 = c) ↔ (getCask c s).racked = true) := by
  obtain ⟨own, set⟩ := shadowBaseSet_drops named hn reads ok
  obtain ⟨frame, dropped, owed⟩ := dropShadows_spec own (wordStored n v s)
  have regs : ∀ offs, otherRegs offs (wordStored n v s) (dropShadows own (wordStored n v s)) := fun _ => otherRegs_of_onlyIn frame (by decide)
  rw [set, if_pos quiesced]
  exact ⟨(wordStored_onlyIn n v s).andThen frame, otherRegs_trans (wordStored_otherRegs n v s) (regs _),
    (wordStored_holds hn v s).after (regs []) List.not_mem_nil, fun c => ⟨dropped c, (owed c).trans (racked_iff_listed rises c).symm⟩⟩

theorem shadowBase_rebuilt (running : rflag .RK_CTRL 0 0 8 s = false) : (shadowBaseSet hi v reads s).cellar.rebuild = [] ∧
    HoldsFields n v (shadowBaseSet hi v reads s) ∧ ∀ c, (getCask c s).racked = false → (getCask c (shadowBaseSet hi v reads s)).shadowOk = false := by
  obtain ⟨own, set⟩ := shadowBaseSet_drops named hn reads ok
  obtain ⟨frame, -, -⟩ := dropShadows_spec own (wordStored n v s)
  obtain ⟨-, regs, paid, -⟩ := rebuildAll_spec (dropShadows own (wordStored n v s))
  rw [set, if_neg (by rw [running]; decide)]
  refine ⟨by rw [paid], ?_, fun c unracked => rebuildAll_dropped (s := wordStored n v s) rises unracked⟩
  exact (wordStored_holds hn v s).after (otherRegs_trans (otherRegs_of_onlyIn frame (by decide)) regs) (baseRegs_place n hn).1

end base

/-- The base of the tasting records is stored, and every record computed again (R185). -/
theorem tasteBaseSet_spec {hi : Bool} {v : Word} {s : State} {n : RegName} (named : n = if hi then RegName.CT_TASTE_BASE_HI else .CT_TASTE_BASE_LO)
    (hn : n ∈ baseRegs) (ok : writeOk n 0 0 v s = true) :
    onlyIn (.casks :: eventParts) s (tasteBaseSet hi v s) ∧ HoldsFields n v (tasteBaseSet hi v s) := by
  have set : tasteBaseSet hi v s = retaste (wordStored n v s) := by
    unfold tasteBaseSet
    simp only [← named, ok, if_true, storeWrite_stores ok]
  have again := retaste_only (wordStored n v s)
  obtain ⟨noEvent, -, noParity, noSeal⟩ := baseRegs_place n hn
  rw [set]
  refine ⟨onlyIn_mono ((wordStored_onlyIn n v s).andThen again.frame) (by decide), (wordStored_holds hn v s).after again.regs ?_⟩
  simp only [readRegs, List.mem_cons, not_or]
  exact ⟨noParity, noSeal, noEvent⟩

theorem tempMoved_iff (r q : Nat) (s : State) :
    tempMoved r q s = true ↔ 1024 < (quadTemp q s - Store.getD 12800 (4 * r + q) s.cellar.foldTemps).natAbs := decide_eq_true_iff

/-- A rack refolded: its casks' match gains staged, the temperatures noted, and with the last rack the apply asked for (R222 to R225). -/
theorem refold_outcome (r : Rack) {s : State} (listed : r.val ∈ (openBatch s).quant.batch) (still : applyPending rsCommit s = false)
    (gains : Store.wf one32 s.quant.gainStaged = true) (temps : Store.wf 12800 s.cellar.foldTemps = true) :
    ∃ u, exec (.refold r) s = .next u ∧ onlyIn (.quant :: .casks :: .applies :: .free :: .cellar :: eventParts) s u ∧
      shadowsOnly s u ∧ u.quant.batch = (openBatch s).quant.batch.filter (· ≠ r.val) ∧
      u.quant.refold = (openBatch s).quant.refold ∧ u.quant.gain = s.quant.gain ∧ u.quant.crt = s.quant.crt ∧
      (applyPending rsCommit u = true ↔ u.quant.batch = []) ∧
      (∀ q, q < 4 → Store.getD 12800 (4 * r.val + q) u.cellar.foldTemps = quadTemp q s) ∧
      ∀ k, k < 16 → (getCask (16 * r.val + k) s).racked = true → (getCask (16 * r.val + k) s).fitted = true →
        Store.getD one32 (16 * r.val + k) u.quant.gainStaged = gFold (openBatch s).quant.forRack (16 * r.val + k) s := by
  obtain ⟨u, w, run, folded, late, quant, asked⟩ := refold_spec r listed still
  obtain ⟨opened, batch⟩ := openBatch_onlyIn s
  have casks : shadowsOnly s (openBatch s) := shadowsOnly_of_casks (opened.same .casks (by decide))
  have cellar : (openBatch s).cellar = s.cellar := opened.same .cellar (by decide)
  have cal : (openBatch s).cal = s.cal := opened.same .cal (by decide)
  have staged : (openBatch s).quant.gainStaged = s.quant.gainStaged := by rw [batch]
  refine ⟨u, run, onlyIn_mono (opened.andThen (folded.frame.andThen late)) (by decide),
    shadowsOnly_trans casks (shadowsOnly_trans folded.shadows (shadowsOnly_of_casks (late.same .casks (by decide)))), ?_, ?_, ?_, ?_, asked,
    fun q hq => ?_, fun k hk racked fitted => ?_⟩
  · rw [quant, batchTaken, folded.staged]
  · rw [quant, batchTaken, folded.staged]
  · rw [quant, batchTaken, folded.staged, batch]
  · rw [quant, batchTaken, folded.staged, batch]
  · rw [show u.cellar = w.cellar from late.same .cellar (by decide), folded.temps, cellar]
    show Store.getD 12800 _ (Store.setN 12800 _ _ _) = _
    rw [Store.getD_setN_in 12800 _ q _ _ temps (by simpa using hq), List.getD_eq_getElem _ _ (by simpa using hq), List.getElem_map,
      List.getElem_range, quadTemp_congr cal cellar]
  · rw [quant]
    show Store.getD one32 _ w.quant.gainStaged = _
    rw [folded.gains (by rw [staged]; exact gains) k hk (by rw [racked_of_shadowsOnly casks, racked]) (by rw [fitted_of_shadowsOnly casks, fitted])]
    exact gFold_congr casks cal cellar (opened.same .free (by decide)) _ _

/-- Settles O28: one part for each command, from what dropping, rebuilding, reading and folding leave unchanged. -/
theorem shadowBaseTemperatureAndRefold : Obligations.ShadowBaseTemperatureAndRefold := by
  unfold Obligations.ShadowBaseTemperatureAndRefold
  refine fun s => ⟨fun hi v reads => ?_, fun hi v => ?_, fun temps => ?_, fun reaches => ⟨fun v one => ?_, ?_⟩, fun none quiet still copied => ?_,
    fun r listed still gains temps => refold_outcome r listed still gains temps, fun due => ?_⟩
  · intro n reaches ok rises
    have run : exec (.shadowBaseWrite hi v reads) s = .next (shadowBaseSet hi v reads s) :=
      congrArg Host.Outcome.next (hostWrite_of_hostReaches reaches _)
    have hn : n ∈ baseRegs := by cases hi <;> decide
    exact ⟨fun quiesced => ⟨_, run, shadowBase_quiesced rfl hn reads ok rises quiesced⟩,
      fun running => ⟨_, run, shadowBase_rebuilt rfl hn reads ok rises running⟩⟩
  · intro n reaches ok
    exact ⟨_, congrArg Host.Outcome.next (hostWrite_of_hostReaches reaches _), tasteBaseSet_spec rfl (by cases hi <;> decide) ok⟩
  · intro s1 rises
    obtain ⟨u, run, frame, cellar, asked⟩ := tempSample_asks temps s rises
    refine ⟨u, run, frame, cellar, fun r => (asked r).trans (or_congr_right ?_)⟩
    simp only [mem_movedRacks (s := sampled temps s) rises, tempMoved_iff]
    exact Iff.rfl
  · obtain ⟨frame, asked⟩ := refoldSet_host v s
    refine ⟨_, ?_, frame, fun r => (asked r).trans ?_⟩
    · show execRsRefoldRack v s = _
      rw [execRsRefoldRack, one, if_neg Bool.false_ne_true, hostWrite_of_hostReaches reaches]
    · rw [one, if_neg Bool.false_ne_true, List.mem_singleton]
  · obtain ⟨frame, asked⟩ := refoldSet_host 0x80000000#32 s
    refine ⟨_, congrArg Host.Outcome.next (hostWrite_of_hostReaches reaches _), frame, fun r => (asked r).trans ?_⟩
    rw [if_pos (by decide), List.mem_range]
  · rw [openBatch_opens none quiet still copied]
    cases waits : s.quant.rackFold <;> simp [nextBatch, waits]
  · refine ⟨_, ?_, quant_onlyIn _ s, rfl⟩
    show execBankCopy s = _
    rw [execBankCopy, if_pos due]

end Sys2Proof.Machine
end

section
/-! SUPPORT. Journal entries in NVM, and the parts of the boot flow up to a verified image (R536 to R539, R546 to R549). -/

namespace Sys2Proof.Machine

/-! ### Entries in NVM -/

theorem leNat_leBytes (n x : Nat) : leNat (leBytes n x) = x % 256 ^ n := by
  induction n generalizing x with
  | zero => simp [leBytes, leNat, Nat.mod_one]
  | succ n ih => exact (congrArg (x % 256 + 256 * ·) (ih (x / 256))).trans (by rw [Nat.pow_succ', Nat.mod_mul (x := x) (a := 256)])

/-- An entry bears its SEQ (Table 16.11). -/
theorem leAt_journalBytes (seq : Nat) (e : JEntry) : leAt 0 4 (journalBytes seq e) = seq % 2 ^ 32 := leNat_leBytes 4 seq

/-- The journal holds a SEQ as what lies in its place says (R549). -/
theorem journalHeld_storeEntry (seq : Nat) (e : JEntry) (s : State) : journalHeld seq (storeEntry s e) =
    if seq % 4096 = s.pm.nextSeq % 4096 then (some (journalBytes s.pm.nextSeq e)).filter fun b => decide (leAt 0 4 b = seq)
    else journalHeld seq s := by
  unfold journalHeld storeEntry
  simp only
  split
  · next same => rw [same, Store.find_put_same]
  · next other => rw [Store.find_put_ne _ _ other]

/-- The entry written last is held (R547, R549). -/
theorem journalHeld_stored {s : State} (small : s.pm.nextSeq < 2 ^ 32) (e : JEntry) :
    journalHeld s.pm.nextSeq (storeEntry s e) = some (journalBytes s.pm.nextSeq e) := by
  rw [journalHeld_storeEntry, if_pos rfl, Option.filter_some, if_pos]
  rw [decide_eq_true_iff, leAt_journalBytes, Nat.mod_eq_of_lt small]

/-- Entries written to NVM change nothing but the journal. -/
theorem storeEntries_pm (es : List JEntry) (s : State) : onlyIn [.pm] s (es.foldl storeEntry s) ∧ (es.foldl storeEntry s).pm = { s.pm with
    journal := (es.foldl storeEntry s).pm.journal
    nextSeq := s.pm.nextSeq + es.length } := by
  induction es generalizing s with
  | nil => exact ⟨onlyIn_refl .., rfl⟩
  | cons e es ih =>
    obtain ⟨frame, pm⟩ := ih (storeEntry s e)
    refine ⟨onlyIn_trans (pm_onlyIn _ s) frame, ?_⟩
    rw [List.foldl_cons, pm, List.length_cons]
    simp [storeEntry, Nat.add_assoc, Nat.add_comm 1]

/-- An entry stays until 4,096 have followed it (R547). -/
theorem journalHeld_later {seq : Nat} (es : List JEntry) {s : State} (older : seq < s.pm.nextSeq)
    (recent : s.pm.nextSeq + es.length ≤ seq + 4096) : journalHeld seq (es.foldl storeEntry s) = journalHeld seq s := by
  induction es generalizing s with
  | nil => rfl
  | cons e es ih =>
    simp only [List.length_cons] at recent
    have next : (storeEntry s e).pm.nextSeq = s.pm.nextSeq + 1 := rfl
    rw [List.foldl_cons, ih (by omega) (by omega), journalHeld_storeEntry, if_neg (by omega)]

/-- Of up to 64 entries written each is held (R547). -/
theorem journalHeld_entries {es : List JEntry} {k : Nat} {e : JEntry} (entry : es[k]? = some e) {s : State} (few : es.length ≤ 64)
    (small : s.pm.nextSeq + 64 < 2 ^ 32) : journalHeld (s.pm.nextSeq + k) (es.foldl storeEntry s) = some (journalBytes (s.pm.nextSeq + k) e) := by
  obtain ⟨len, here⟩ := List.getElem?_eq_some_iff.mp entry
  obtain ⟨-, pm⟩ := storeEntries_pm (es.take k) s
  have seq : ((es.take k).foldl storeEntry s).pm.nextSeq = s.pm.nextSeq + k := by
    rw [pm, List.length_take, Nat.min_eq_left len.le]
  have split : es = es.take k ++ e :: es.drop (k + 1) := by
    rw [← here, List.cons_getElem_drop_succ, List.take_append_drop]
  rw [congrArg (fun l => journalHeld (s.pm.nextSeq + k) (l.foldl storeEntry s)) split, List.foldl_append, List.foldl_cons]
  generalize (es.take k).foldl storeEntry s = x at seq
  have next : (storeEntry x e).pm.nextSeq = s.pm.nextSeq + k + 1 := congrArg (· + 1) seq
  rw [← seq, journalHeld_later _ (by omega) (by rw [List.length_drop]; omega), journalHeld_stored (by omega)]

/-! ### The wipe -/

/-- The entry that reports lost entries changes what waits and what was lost, where nothing waits (R548). -/
theorem reportLost_pm {s : State} (empty : s.pm.waiting = []) : onlyIn [.pm] s (reportLost s) ∧
    (reportLost s).pm = { s.pm with waiting := (reportLost s).pm.waiting, lost := (reportLost s).pm.lost } ∧
    (s.pm.lost = 0 → reportLost s = s) := by
  unfold reportLost
  split
  · next lost =>
    refine ⟨?_, ?_, fun none => by omega⟩ <;> simp only [journal, empty, List.any_nil, List.length_nil, Bool.false_eq_true, if_false,
      show (0 : Nat) < 64 by decide, if_true]
    exact onlyIn_trans (pm_onlyIn _ s) (pm_onlyIn _ _)
  · exact ⟨onlyIn_refl .., rfl, fun _ => rfl⟩

/-- The state in which the entries that waited are in NVM and the memories are wiped. -/
def wipedState (s : State) : State :=
  let x := s.pm.waiting.foldl storeEntry { s with pm := { s.pm with waiting := [] } }
  { x with pm := { x.pm with wiped := true } }

theorem bootWipe_eq (s : State) : bootWipe s = { reportLost (wipedState s) with
    pm := { (reportLost (wipedState s)).pm with stage := if (reportLost (wipedState s)).pm.bootSrc then 2 else 1 } } := rfl

theorem wipedState_pm (s : State) : onlyIn [.pm] s (wipedState s) ∧ (wipedState s).pm = { s.pm with
    waiting := []
    wiped := true
    journal := (s.pm.waiting.foldl storeEntry { s with pm := { s.pm with waiting := [] } }).pm.journal
    nextSeq := s.pm.nextSeq + s.pm.waiting.length } := by
  obtain ⟨frame, pm⟩ := storeEntries_pm s.pm.waiting { s with pm := { s.pm with waiting := [] } }
  exact ⟨onlyIn_trans (pm_onlyIn _ s) (onlyIn_trans frame (pm_onlyIn _ _)), by rw [wipedState, pm]⟩

/-- The entries that waited are in the journal, the memories wiped, and the boot goes on to the flash or to the host (R536, R539). -/
theorem bootWipe_spec (s : State) : onlyIn [.pm] s (bootWipe s) ∧ (bootWipe s).pm.wiped = true ∧ (bootWipe s).pm.fwReady = s.pm.fwReady ∧
    (bootWipe s).pm.stage = (if s.pm.bootSrc then 2 else 1) ∧ (s.pm.lost = 0 → (bootWipe s).pm.waiting = []) ∧
    ∀ k e, s.pm.waiting[k]? = some e → s.pm.waiting.length ≤ 64 → s.pm.nextSeq + 64 < 2 ^ 32 →
      journalHeld (s.pm.nextSeq + k) (bootWipe s) = some (journalBytes (s.pm.nextSeq + k) e) := by
  obtain ⟨wipe, pm⟩ := wipedState_pm s
  obtain ⟨report, kept, nothing⟩ := reportLost_pm (s := wipedState s) (by rw [pm])
  rw [bootWipe_eq]
  refine ⟨onlyIn_trans wipe (onlyIn_trans report (pm_onlyIn _ _)), ?_, ?_, ?_, fun none => ?_, fun k e entry few small => ?_⟩
  · show (reportLost (wipedState s)).pm.wiped = true
    rw [kept, pm]
  · show (reportLost (wipedState s)).pm.fwReady = s.pm.fwReady
    rw [kept, pm]
  · show (if (reportLost (wipedState s)).pm.bootSrc then 2 else 1) = if s.pm.bootSrc then 2 else 1
    rw [kept, pm]
  · show (reportLost (wipedState s)).pm.waiting = []
    rw [nothing (by rw [pm]; exact none), pm]
  · show ((reportLost (wipedState s)).pm.journal.find _).filter _ = _
    rw [kept, pm]
    exact journalHeld_entries entry (s := { s with pm := { s.pm with waiting := [] } }) few small

/-! ### A verified image -/

theorem cal_onlyIn (m : Cal) (s : State) : onlyIn [.cal] s { s with cal := m } := by
  constructor
  intro p hp
  cases p with
  | cal => exact absurd (List.mem_singleton.mpr rfl) hp
  | _ => rfl

theorem modDac_onlyIn (n : Nat) (f : Dac → Dac) (s : State) : onlyIn [.fe] s (modDac n f s) := by
  constructor
  intro p hp
  cases p with
  | fe => exact absurd (List.mem_singleton.mpr rfl) hp
  | _ => rfl

/-- Of two changes that a condition chooses between, either has its parts. -/
theorem onlyIn_either {p : Prop} [Decidable p] {ps : List Part} {s u v : State} (h : onlyIn ps s u) (k : onlyIn ps s v) :
    onlyIn ps s (if p then u else v) := by
  split
  · exact h
  · exact k

theorem loadVintage_onlyIn (s : State) : onlyIn (.cal :: eventParts) s (loadVintage s) := by
  have loaded := fun k => onlyIn_mono (cal_onlyIn { s.cal with inForce := k } s) (show ∀ p ∈ [.cal], p ∈ Part.cal :: eventParts by decide)
  have bad : ∀ aux v x, onlyIn (.cal :: eventParts) s x → onlyIn (.cal :: eventParts) s (raiseEvent 0x0C04 0 aux v none x) :=
    fun _ _ _ h => onlyIn_trans h (onlyIn_mono (raiseEvent_onlyIn ..) (by decide))
  unfold loadVintage
  exact onlyIn_either (bad _ _ _ (loaded _)) (onlyIn_either (bad _ _ _ (loaded _)) (onlyIn_either (bad _ _ _ (loaded _)) (loaded _)))

theorem loadDefault_onlyIn (n : Nat) (s : State) : onlyIn (.fe :: eventParts) s (loadDefault n s) := by
  unfold loadDefault
  split
  · exact onlyIn_mono (modDac_onlyIn ..) (by decide)
  · exact onlyIn_mono ((modDac_onlyIn ..).andThen (raiseEvent_onlyIn ..)) (by decide)

/-- The state in which firmware starts from an image (R434, R536). -/
def bootStarted (img : Nat) (b : List Byte) (s : State) : State :=
  { s with
    bv := { s.bv with epoch := s.bv.epoch + 1 }
    pm := { s.pm with
      stage := 3
      bootStep := 7
      bootImg := img
      svn := byteAt 8 b
      key3 := decide (byteAt 9 b = 3)
      imgDigest := imgField 16 48 b
      kernels := (Config.libKernels (imgPayload b)).take (2 ^ 26) } }

theorem bootFirmware_eq (img : Nat) (b : List Byte) (s : State) :
    bootFirmware img b s = (List.range 8).foldl (fun s n => loadDefault n s) (loadVintage (bootStarted img b s)) := rfl

/-- Firmware that has started loads the vintage and the DAC defaults (R470, R500). -/
theorem bootFirmware_onlyIn (img : Nat) (b : List Byte) (s : State) :
    onlyIn (.cal :: .fe :: eventParts) (bootStarted img b s) (bootFirmware img b s) := by
  rw [bootFirmware_eq]
  exact onlyIn_mono ((loadVintage_onlyIn _).andThen (onlyIn_foldl _ (fun s n => loadDefault_onlyIn n s) _ _)) (by decide)

/-- What a boot from an image has set once firmware starts from it. -/
structure Started (img : Nat) (b : List Byte) (s u : State) : Prop where
  pm : u.pm = (bootStarted img b s).pm
  epoch : u.bv.epoch = s.bv.epoch + 1
  pending : u.pending = s.pending

theorem bootFirmware_starts (img : Nat) (b : List Byte) (s : State) : Started img b s (bootFirmware img b s) where
  pm := (bootFirmware_onlyIn img b s).same .pm (by decide)
  epoch := congrArg Bv.epoch ((bootFirmware_onlyIn img b s).same .bv (by decide))
  pending := (bootFirmware_onlyIn img b s).same .queue (by decide)

/-- A state with the error of the first image noted (R539). -/
def errNoted (err : Nat) (s : State) : State := { s with pm := { s.pm with err0 := err } }

/-- What the ROM does with the image that the host has written (R539). -/
theorem bootVerify_host {s : State} (host : s.pm.bootImg = 2) (copy0 copy1 : Option (List Byte)) : bootVerify copy0 copy1 s =
    if imgCheck (hostImage s) s.pm = 0 then bootFirmware 2 (hostImage s) (errNoted (imgCheck (hostImage s) s.pm) s)
    else { s with pm := { s.pm with stage := 1, err0 := imgCheck (hostImage s) s.pm } } := by
  unfold bootVerify
  simp only [host, if_true]
  rfl

/-- What it does with the copies in flash (R538, R539). -/
theorem bootVerify_flash {s : State} (flash : s.pm.bootImg ≠ 2) (copy0 copy1 : Option (List Byte)) : bootVerify copy0 copy1 s =
    if copyCheck copy0 s.pm = 0 then bootFirmware 0 (copy0.getD []) s
    else if copyCheck copy1 s.pm = 0 then bootFirmware 1 (copy1.getD []) (errNoted (copyCheck copy0 s.pm) s)
    else { s with pm := { s.pm with stage := 1, err0 := copyCheck copy0 s.pm, err1 := copyCheck copy1 s.pm } } := if_neg flash

end Sys2Proof.Machine
end

section
/-! SUPPORT. The parts of the boot flow once firmware runs: the erasure that is due, the casks reconciled, FW_READY (R134, R536, R542). -/

namespace Sys2Proof.Machine

/-! ### An erasure that is due, and the boot entry -/

/-- The boot entry written, with which the flow goes on to the casks (Table 16.10, R536). -/
def bootRecorded (s : State) : State := storeEntry { s with pm := { s.pm with bootStep := 8 } } (bootEntry s)

theorem bootErase_waits {s : State} (due : s.pm.eraseDue ≠ none) (down : s.pm.vppOk = false) : bootErase s = s := by
  have waits : (s.pm.eraseDue.isSome && !s.pm.vppOk) = true := by
    rw [Option.isSome_iff_ne_none.mpr due, down]
    rfl
  rw [bootErase, if_pos waits]

theorem bootErase_idle {s : State} (idle : s.pm.eraseDue = none) : bootErase s = bootRecorded s := by
  rw [bootErase, if_neg (by simp [idle])]
  show bootRecorded (match s.pm.eraseDue with | some (a, c) => lcErase a c s | none => s) = _
  rw [idle]

theorem bootErase_erases {s : State} {a b : Nat} (due : s.pm.eraseDue = some (a, b)) (up : s.pm.vppOk = true) :
    bootErase s = bootRecorded (lcErase a b s) := by
  rw [bootErase, if_neg (by simp [up])]
  show bootRecorded (match s.pm.eraseDue with | some (a, c) => lcErase a c s | none => s) = _
  rw [due]

/-- The erasures of a transition leave the SEQ of the next journal entry, and how the device was powered down. -/
theorem lcErase_journal (a b : Nat) (s : State) : (lcErase a b s).pm.nextSeq = s.pm.nextSeq ∧ (lcErase a b s).pm.cleanBoot = s.pm.cleanBoot := by
  have pm : (eraseCasks s).pm = s.pm := (eraseCasks_onlyIn s).same .pm (by decide)
  rw [← pm]
  unfold lcErase
  generalize eraseCasks s = x
  simp only
  refine ⟨?_, ?_⟩ <;> split_ifs <;> rfl

/-- The boot entry is held (R547). -/
theorem bootRecorded_entry {s : State} (small : s.pm.nextSeq < 2 ^ 32) : ∃ e : JEntry, e.kind = 6 ∧
    e.old = BitVec.ofNat 32 s.pm.cleanBoot.toNat ∧ journalHeld s.pm.nextSeq (bootRecorded s) = some (journalBytes s.pm.nextSeq e) :=
  ⟨bootEntry s, rfl, rfl, journalHeld_stored (s := { s with pm := { s.pm with bootStep := 8 } }) small _⟩

/-! ### Casks reconciled -/

theorem newDigest_onlyIn (s : State) : onlyIn [.cellar] s (newDigest s) := cellar_onlyIn _ s

theorem eraseIncomplete_spec (c : Nat) (s : State) : onlyIn (.cellar :: eraseParts) s (eraseIncomplete c s) ∧
    otherCasks c s (eraseIncomplete c s) ∧
    (s.pm.vppOk = true ∨ (getCask c s).incomplete = false → (getCask c (eraseIncomplete c s)).incomplete = false) := by
  obtain ⟨frame, others, gen, erased⟩ := eraseCask_spec c s
  have digest := newDigest_onlyIn (eraseCask c s)
  unfold eraseIncomplete
  split
  · refine ⟨onlyIn_mono (frame.andThen digest) (by decide), otherCasks_trans others (otherCasks_of_onlyIn digest (by decide)), fun _ => ?_⟩
    rw [getCask_congr (digest.same .casks (by decide)), erased]
    rfl
  · next stays =>
    refine ⟨onlyIn_refl .., fun _ _ => rfl, fun h => ?_⟩
    rcases h with up | complete
    · simpa [up] using stays
    · exact complete

/-- A cask whose configuration registers are reloaded from its cells keeps what it holds (R80, R81). -/
theorem reloadCells_spec (c : Nat) (s : State) : onlyIn (.casks :: .staged :: .applies :: eventParts) s (reloadCells c s) ∧
    otherCasks c s (reloadCells c s) ∧ getCask c (reloadCells c s) = { getCask c s with saving := false } := by
  unfold reloadCells
  simp only
  generalize hx : rput .CK_REMAP_COMMIT c 0 15 0 _ _ = x
  have regs : onlyIn [.regs, .staged, .applies] s x := by
    rw [← hx]
    exact onlyIn_mono (((setMap_onlyIn ..).andThen (rset_onlyIn ..)).andThen (rput_onlyIn ..)) (by decide)
  obtain ⟨checked, -⟩ := remapChecks_spec c (modCask c (fun k => { k with saving := false }) x)
  refine ⟨onlyIn_mono ((regs.andThen (modCask_onlyIn ..)).andThen checked) (by decide), ?_, ?_⟩
  · exact otherCasks_trans (otherCasks_of_onlyIn regs (by decide))
      (otherCasks_trans (otherCasks_modCask _ _ _) (otherCasks_of_onlyIn checked (by decide)))
  · rw [getCask_congr (checked.same .casks (by decide)), getCask_modCask, getCask_congr (regs.same .casks (by decide))]

theorem postNext_others (c : Nat) (s : State) : otherCasks c s (postNext c s) := by
  unfold postNext
  simp only
  split
  · exact otherCasks_trans (otherCasks_setCask c _ s) (otherCasks_modCask c _ _)
  · exact fun _ _ => rfl

theorem startRef_others (c : Nat) (s : State) : otherCasks c s (startRef c s) :=
  otherCasks_trans (otherCasks_of_onlyIn (nextOp_onlyIn (s.nextOp + 1) s) (by decide))
    (otherCasks_trans (otherCasks_setCask c _ _) (postNext_others c _))

/-- A cask that is reconciled is complete, and has its reference read under way where it is racked (R134). -/
def Reconciled (c : Nat) (u : State) : Prop := (getCask c u).incomplete = false ∧ ((getCask c u).racked = true → (getCask c u).running ≠ [])

/-- A cask is reconciled, where it is complete or can be erased; no other cask changes (R134, R530). -/
theorem reconcile_spec (c : Nat) (s : State) : (reconcile s c).pm = s.pm ∧ otherCasks c s (reconcile s c) ∧
    (s.pm.vppOk = true ∨ (getCask c s).incomplete = false → Reconciled c (reconcile s c)) := by
  obtain ⟨erases, others, complete⟩ := eraseIncomplete_spec c s
  obtain ⟨reloads, rest, own⟩ := reloadCells_spec c (eraseIncomplete c s)
  obtain ⟨starts, run⟩ := startRef_spec c (reloadCells c (eraseIncomplete c s))
  have both := erases.andThen reloads
  have kept := otherCasks_trans others rest
  unfold reconcile
  simp only
  split
  · next racked =>
    refine ⟨(both.andThen starts).same .pm (by decide), otherCasks_trans kept (startRef_others c _), fun h => ⟨?_, fun _ => ?_⟩⟩
    · rw [run, own]
      exact complete h
    · rw [run]
      exact List.append_ne_nil_of_right_ne_nil _ (List.cons_ne_nil _ _)
  · next unracked =>
    refine ⟨both.same .pm (by decide), kept, fun h => ⟨?_, fun racked => absurd racked unracked⟩⟩
    rw [own]
    exact complete h

/-- Every cask is reconciled (R134). -/
theorem reconciles_spec {s : State} (may : s.pm.vppOk = true ∨ ∀ c, (getCask c s).incomplete = false) :
    ((s.casks.map Prod.fst).foldl reconcile s).pm = s.pm ∧ ∀ c, Reconciled c ((s.casks.map Prod.fst).foldl reconcile s) := by
  refine ⟨List.foldlRecOn (motive := fun u => u.pm = s.pm) _ reconcile rfl fun u hu c _ => (reconcile_spec c u).1.trans hu, fun c => ?_⟩
  by_cases listed : c ∈ s.casks.map Prod.fst
  · refine foldl_reaches (I := fun u => u.pm.vppOk = true ∨ (getCask c u).incomplete = false) (fun u d other h => ?_)
      (fun u h => (reconcile_spec c u).2.2 h) (fun u d h => ?_) listed (may.imp_right (· c))
    · obtain ⟨pm, others, -⟩ := reconcile_spec d u
      rwa [pm, getCask_of_otherCasks others (Ne.symm other)]
    · obtain ⟨-, others, own⟩ := reconcile_spec d u
      by_cases same : c = d
      · subst same
        exact own (.inr h.1)
      · unfold Reconciled
        rwa [getCask_of_otherCasks others same]
  · have same := getCask_foldl_out (f := reconcile) id (fun u d => (reconcile_spec d u).2.1) (l := s.casks.map Prod.fst) (c := c)
      (by simpa using listed) s
    unfold Reconciled
    rw [same, getCask_of_not_mem listed]
    exact ⟨rfl, nofun⟩

theorem bootReconcile_waits {s : State} (due : ∃ x ∈ s.casks, x.2.incomplete = true) (down : s.pm.vppOk = false) : bootReconcile s = s := by
  have waits : ((s.casks.any fun e => e.2.incomplete) && !s.pm.vppOk) = true := by
    rw [List.any_eq_true.mpr due, down]
    rfl
  rw [bootReconcile, if_pos waits]

theorem complete_of_listed {s : State} (h : ∀ x ∈ s.casks, x.2.incomplete = false) (c : Nat) : (getCask c s).incomplete = false := by
  unfold getCask Store.getD
  cases listed : Store.find c s.casks with
  | none => rfl
  | some k => exact h _ (Store.find_mem _ listed)

theorem bootReconcile_spec {s : State} (may : (∀ x ∈ s.casks, x.2.incomplete = false) ∨ s.pm.vppOk = true) :
    (bootReconcile s).pm.bootStep = 9 ∧ ∀ c, Reconciled c (bootReconcile s) := by
  have goes : ¬ ((s.casks.any fun e => e.2.incomplete) && !s.pm.vppOk) = true := by
    rcases may with complete | up
    · simp [List.any_eq_false.mpr fun x hx => Bool.eq_false_iff.mp (complete x hx)]
    · simp [up]
  obtain ⟨pm, all⟩ := reconciles_spec (s := { s with pm := { s.pm with bootStep := 9 } }) (may.symm.imp_right complete_of_listed)
  rw [bootReconcile, if_neg goes]
  exact ⟨congrArg Pm.bootStep pm, all⟩

/-! ### FW_READY -/

/-- A reference read of the flow recorded. -/
theorem reconciled_onlyIn (s : State) (c : Nat) : onlyIn (.casks :: .quant :: eventParts) s (reconciled s c) := by
  unfold reconciled
  split
  · exact refDone_frame ..
  · exact onlyIn_refl ..

/-- What the last part of the flow may change besides the power state. -/
def bootCaskParts : List Part := .casks :: .quant :: .cellar :: .racks :: .free :: eventParts

theorem bootCasks_onlyIn (reads : List CaskReads) (s : State) : onlyIn bootCaskParts s (bootCasks reads s) := by
  unfold bootCasks
  simp only
  obtain ⟨dropped, -⟩ := dropShadows_spec (fun c => (readsFor reads c).cells) s
  obtain ⟨rebuilt, -⟩ := rebuildAll_spec (dropShadows (fun c => (readsFor reads c).cells) s)
  exact onlyIn_mono ((dropped.andThen rebuilt).andThen (eventOnly_dramStore ..).frame) (by decide)

/-- FW_READY is 1, with an event where the boot was not from copy 0 (R536, R539). -/
theorem bootReady_spec (s : State) : (bootReady s).pm = { s.pm with fwReady := true, stage := 4, bootStep := 0 } ∧
    onlyIn (.pm :: eventParts) s (bootReady s) := by
  have ready := pm_onlyIn { s.pm with fwReady := true, stage := 4, bootStep := 0 } s
  unfold bootReady
  simp only
  split
  · exact ⟨(raiseEvent_onlyIn ..).same .pm (by decide), onlyIn_mono (ready.andThen (raiseEvent_onlyIn ..)) (by decide)⟩
  · exact ⟨rfl, onlyIn_mono ready (by decide)⟩

/-- With the reference reads converted firmware is ready (R134, R135, R536). -/
theorem bootFinish_spec {s : State} (reads : List CaskReads) (done : readsDone (rackedCasks s) s = true) :
    (bootFinish reads s).pm = { s.pm with fwReady := true, stage := 4, bootStep := 0 } ∧ (bootFinish reads s).bv = s.bv ∧
      (bootFinish reads s).pending = s.pending := by
  have recorded := onlyIn_foldl reconciled reconciled_onlyIn (rackedCasks s) s
  have finish : bootFinish reads s = bootReady (bootCasks reads ((rackedCasks s).foldl reconciled s)) := if_pos done
  have before := recorded.andThen (bootCasks_onlyIn reads _)
  obtain ⟨pm, ready⟩ := bootReady_spec (bootCasks reads ((rackedCasks s).foldl reconciled s))
  rw [finish, pm, before.same .pm (by decide)]
  exact ⟨rfl, (before.andThen ready).same .bv (by decide), (before.andThen ready).same .queue (by decide)⟩

end Sys2Proof.Machine
end

section
/-! SUPPORT. The statement on the boot flow, the host's GO and the library region, clause by clause (R134, R536 to R540). -/

namespace Sys2Proof.Machine

section flow
variable {s : State} (may : mayBoot s = true) (copy0 copy1 : Option (List Byte)) (reads : List CaskReads)
include may

theorem notReady_of_mayBoot : s.pm.fwReady = false := by
  simp only [mayBoot, Bool.and_eq_true, Bool.not_eq_true'] at may
  exact may.2

theorem bootFlow_wipes (stage : s.pm.stage = 0) : exec (.bootFlow copy0 copy1 reads) s = .next (bootWipe s) := by
  show execBootFlow copy0 copy1 reads s = _
  rw [execBootFlow, may, stage]
  rfl

theorem bootFlow_verifies (stage : s.pm.stage = 2) : exec (.bootFlow copy0 copy1 reads) s = .next (bootVerify copy0 copy1 s) := by
  show execBootFlow copy0 copy1 reads s = _
  rw [execBootFlow, may, stage]
  rfl

section firmware
variable (stage : s.pm.stage = 3)
include stage

theorem bootFlow_erases (step : s.pm.bootStep = 7) : exec (.bootFlow copy0 copy1 reads) s = .next (bootErase s) := by
  show execBootFlow copy0 copy1 reads s = _
  rw [execBootFlow, may, stage, step]
  rfl

theorem bootFlow_reconciles (step : s.pm.bootStep = 8) : exec (.bootFlow copy0 copy1 reads) s = .next (bootReconcile s) := by
  show execBootFlow copy0 copy1 reads s = _
  rw [execBootFlow, may, stage, step]
  rfl

theorem bootFlow_finishes (step : s.pm.bootStep = 9) : exec (.bootFlow copy0 copy1 reads) s = .next (bootFinish reads s) := by
  show execBootFlow copy0 copy1 reads s = _
  rw [execBootFlow, may, stage, step]
  rfl

end firmware

end flow

/-- Firmware of an image is up, with the image's SVN and digest, and not yet ready (R434, R536). -/
def FirmwareUp (img : Nat) (b : List Byte) (s u : State) : Prop :=
  u.pm.fwReady = false ∧ u.pm.stage = 3 ∧ u.pm.bootStep = 7 ∧ u.pm.bootImg = img ∧ u.pm.svn = byteAt 8 b ∧
    u.pm.imgDigest = imgField 16 48 b ∧ u.bv.epoch = s.bv.epoch + 1 ∧ u.pending = s.pending

theorem firmwareUp_of_started {img : Nat} {b : List Byte} {s u : State} (h : Started img b s u) (notReady : s.pm.fwReady = false) :
    FirmwareUp img b s u := by
  rw [FirmwareUp, h.pm]
  exact ⟨notReady, rfl, rfl, rfl, rfl, rfl, h.epoch, h.pending⟩

/-- The error that was noted stays as firmware starts. -/
theorem bootFirmware_errNoted (img : Nat) (b : List Byte) (err : Nat) {s : State} (notReady : s.pm.fwReady = false) :
    FirmwareUp img b s (bootFirmware img b (errNoted err s)) ∧ (bootFirmware img b (errNoted err s)).pm.err0 = err := by
  have starts := bootFirmware_starts img b (errNoted err s)
  have up : FirmwareUp img b (errNoted err s) _ := firmwareUp_of_started starts notReady
  exact ⟨up, congrArg Pm.err0 starts.pm⟩

/-- GO has the ROM check the host's image while it waits for one (R539). -/
theorem bootGo_spec {s : State} (may : mayBoot s = true) : bootGo 0x80000000#32 s =
    if s.pm.stage = 1 then { s with pm := { s.pm with stage := 2, bootImg := 2 } } else s := by
  have go : flagOf 31 0x80000000#32 = true := by decide
  unfold bootGo
  by_cases waits : s.pm.stage = 1 <;> simp [go, may, waits]

section library
variable {hi : Bool} {v : Word} {s : State} (allowed : rangeOk (if hi then RegName.LIB_BASE_HI else .LIB_BASE_LO) v = true)
  (moved : (if hi then libBase s % 2 ^ 32 + 2 ^ 32 * v.toNat else libBase s / 2 ^ 32 * 2 ^ 32 + v.toNat) ≠ libBase s)
include allowed moved

/-- The library region moves while every ring is disabled (R540). -/
theorem libBaseSet_moves (disabled : allDisabled s = true) : libBaseSet hi v s = { s with pm := { s.pm with
    libBase := some (if hi then libBase s % 2 ^ 32 + 2 ^ 32 * v.toNat else libBase s / 2 ^ 32 * 2 ^ 32 + v.toNat)
    libDue := true } } := by
  simp only [libBaseSet, allowed, disabled, if_neg moved]
  rfl

theorem libBaseSet_busy (enabled : allDisabled s = false) :
    libBaseSet hi v s = writeBusy (regOff (if hi then .LIB_BASE_HI else .LIB_BASE_LO) 0 0) s := by
  simp only [libBaseSet, allowed, enabled, if_neg moved]
  rfl

end library

/-- Settles O51: one part for each part of the boot flow, then the host's GO and the library region. -/
theorem bootTakesAVerifiedImage : Obligations.BootTakesAVerifiedImage := by
  unfold Obligations.BootTakesAVerifiedImage
  refine ⟨fun s copy0 copy1 reads may => have notReady := notReady_of_mayBoot may; ⟨fun stage => ?_, fun stage host => ?_, fun stage flash => ?_, fun stage step => ?_,
    fun stage step => ?_, fun stage step => ?_, fun reaches => ?_⟩, fun hi v s reaches allowed moved => ?_⟩
  · obtain ⟨frame, wiped, ready, next, empty, held⟩ := bootWipe_spec s
    exact ⟨_, bootFlow_wipes may copy0 copy1 reads stage, frame, wiped, ready.trans notReady, next, empty, held⟩
  · have run := bootFlow_verifies may copy0 copy1 reads stage
    rw [bootVerify_host host] at run
    refine ⟨fun good => ?_, fun bad => ?_⟩
    · rw [if_pos good] at run
      exact ⟨_, run, (bootFirmware_errNoted 2 (hostImage s) (imgCheck (hostImage s) s.pm) notReady).1⟩
    · rwa [if_neg bad] at run
  · have run := bootFlow_verifies may copy0 copy1 reads stage
    rw [bootVerify_flash flash] at run
    refine ⟨fun b copy good => ?_, fun b bad0 copy good => ?_, fun bad0 bad1 => ?_⟩
    · subst copy
      rw [if_pos (show copyCheck (some b) s.pm = 0 from good), Option.getD_some] at run
      exact ⟨_, run, firmwareUp_of_started (bootFirmware_starts 0 b s) notReady⟩
    · subst copy
      rw [if_neg bad0, if_pos (show copyCheck (some b) s.pm = 0 from good), Option.getD_some] at run
      exact ⟨_, run, bootFirmware_errNoted 1 b (copyCheck copy0 s.pm) notReady⟩
    · rwa [if_neg bad0, if_neg bad1] at run
  · have run := bootFlow_erases may copy0 copy1 reads stage step
    refine ⟨fun due down => by rw [run, bootErase_waits due down], fun goes => ?_⟩
    cases due : s.pm.eraseDue with
    | none =>
      rw [bootErase_idle due] at run
      exact ⟨_, run, rfl, due, fun owed => absurd rfl owed, bootRecorded_entry⟩
    | some ab =>
      obtain ⟨a, b⟩ := ab
      obtain ⟨casks, -, -, -, done⟩ := lcErase_spec a b s
      obtain ⟨seq, clean⟩ := lcErase_journal a b s
      rw [bootErase_erases due (goes.resolve_left (by rw [due]; exact nofun))] at run
      refine ⟨_, run, rfl, done, fun _ c => ?_, fun small => ?_⟩
      · rw [getCask_congr (s := eraseCasks s) (u := bootRecorded (lcErase a b s)) casks, eraseCasks_unracked]
      · rw [← seq, ← clean]
        exact bootRecorded_entry (by rw [seq]; exact small)
  · have run := bootFlow_reconciles may copy0 copy1 reads stage step
    exact ⟨fun due down => by rw [run, bootReconcile_waits due down], fun goes => ⟨_, run, bootReconcile_spec goes⟩⟩
  · have run := bootFlow_finishes may copy0 copy1 reads stage step
    refine ⟨fun waits => ?_, fun done => ?_⟩
    · rw [run, bootFinish]
      simp only [waits, Bool.false_eq_true, if_false]
    · obtain ⟨pm, bv, pending⟩ := bootFinish_spec reads done
      exact ⟨_, run, by rw [pm], by rw [pm], by rw [pm], by rw [bv], pending⟩
  · have run : exec .bootCmdGo s = .next (bootGo 0x80000000#32 s) := congrArg Host.Outcome.next (hostWrite_of_hostReaches reaches _)
    rw [run, bootGo_spec may]
    exact ⟨fun waits => by rw [if_pos waits], fun other => by rw [if_neg other]⟩
  · have run : exec (.libBaseWrite hi v) s = .next (libBaseSet hi v s) := congrArg Host.Outcome.next (hostWrite_of_hostReaches reaches _)
    refine ⟨fun disabled => ⟨_, run, ?_⟩, fun enabled => ⟨_, run, ?_⟩⟩
    · rw [libBaseSet_moves allowed moved disabled]
      exact ⟨pm_onlyIn _ s, rfl, rfl⟩
    · rw [libBaseSet_busy allowed moved enabled]
      exact raiseEvent_onlyIn ..

end Sys2Proof.Machine
end

section
/-! SUPPORT. The rows of a racking: a verify read judged, and the pulse or the attempt that it calls for (R123 to R126). -/

namespace Sys2Proof.Machine

/-! ### Cells of a row under no remap -/

/-- An empty remap group names no pair, as no group at all. -/
theorem nthD_replicate_zero (n k : Nat) : nthD 0 k (List.replicate n (0 : Word)) = 0 := by
  rw [nthD, List.drop_replicate]
  cases n - k <;> rfl

theorem pairLevel_empty (row : List Int) : pairLevel (List.replicate 16 0) row = pairLevel [] row := by
  funext p
  have none : nthD 0 (p - 516) ([] : List Word) = 0 := by simp [nthD]
  rw [pairLevel, pairLevel, nthD_replicate_zero, none]

theorem cellTarget_empty (row : List Int) : cellTarget (List.replicate 16 0) row = cellTarget [] row := by
  funext x
  rw [cellTarget, pairLevel_empty, cellTarget]

/-! ### One row of a racking -/

/-- The row of a racking that is being read, none of whose cells was found above its window (R124). -/
structure RackRow (p : Prog) : Prop where
  kind : p.kind = .rack
  reading : p.reading = true
  above : p.above = []

/-- A racking's targets are those of its pattern (R122). -/
theorem rack_targets {p : Prog} (kind : p.kind = .rack) (rows : LevelRows) :
    p.targets Plan.empty.remap rows = cellTarget [] (nthD [] p.row rows) := by
  have racks : p.kind ≠ .spare := by rw [kind]; exact nofun
  rw [Prog.targets, if_neg racks]
  exact cellTarget_empty _

/-- A racking reaches every cell of a row (R124). -/
theorem rack_cells {p : Prog} (kind : p.kind = .rack) : p.cells = List.range 1064 := by simp [Prog.cells, kind]

/-- A row of a racking in its second attempt (R125). -/
def Prog.again (p : Prog) : Prog := { p.fresh with second := true }

section row
variable {p : Prog} (h : RackRow p) (max : Nat) (rows : LevelRows)
include h

/-- A row whose cells all read inside their windows is passed (R124, R125). -/
theorem RackRow.judge_passes : p.judge max Plan.empty.remap rows [] = p.rowPassed := by
  obtain ⟨kind, reading, above⟩ := h
  have low : p.below.filterMap (fun _ => (none : Option (Nat × Int))) = [] := List.filterMap_eq_nil_iff.mpr fun _ _ => rfl
  simp [Prog.judge, reading, Prog.verify, low, Prog.next, above, Prog.outside, Prog.rowPassed, Prog.fresh]

variable {x : Nat} {v : Int} (inRow : x < 1064)
include inRow

/-- A cell below its window calls for one more pulse, while cycles are left (R123, R124). -/
theorem RackRow.judge_pulses (one : (p.below.filter fun e => decide (e.1 = x)).length = 1)
    (conducts : 0 < cellTarget [] (nthD [] p.row rows) x) (below : v < 1000 * cellTarget [] (nthD [] p.row rows) x - 150)
    (left : p.cycles < max) :
    p.judge max Plan.empty.remap rows [(x, v)] = { p with cycles := p.cycles + 1, below := [(x, v)] } := by
  have low : belowWindow (cellTarget [] (nthD [] p.row rows) x) v = true := by
    simp only [belowWindow, Bool.and_eq_true, decide_eq_true_eq]
    omega
  have notHigh : aboveWindow (cellTarget [] (nthD [] p.row rows) x) v = false := by
    simp only [aboveWindow, if_neg (Nat.ne_of_gt conducts), decide_eq_false_iff_not]
    omega
  have still : (p.below.filterMap fun e => if decide (e.1 = x) then some (x, v) else none) = [(x, v)] := by
    rw [filterMap_const, one]
    rfl
  have verified : p.verify (cellTarget [] (nthD [] p.row rows)) [(x, v)] = { p with below := [(x, v)] } := by
    simp only [Prog.verify, rack_cells h.kind, h.above]
    simpa [inRow, notHigh, low, eq_comm (a := x)] using still
  rw [Prog.judge, if_pos h.reading, rack_targets h.kind, verified, Prog.next, if_pos (by simp [left])]

/-- A cell above its window calls for the row's second attempt (R123, R125). -/
theorem RackRow.judge_again (first : p.second = false)
    (high : aboveWindow (cellTarget [] (nthD [] p.row rows) x) v = true) : p.judge max Plan.empty.remap rows [(x, v)] = p.again := by
  have notLow : belowWindow (cellTarget [] (nthD [] p.row rows) x) v = false := by
    simp only [belowWindow, Bool.and_eq_false_iff, decide_eq_false_iff_not]
    unfold aboveWindow at high
    split at high <;> simp only [decide_eq_true_eq] at high <;> omega
  have none : p.below.filterMap (fun _ => (none : Option (Nat × Int))) = [] := List.filterMap_eq_nil_iff.mpr fun _ _ => rfl
  have verified : p.verify (cellTarget [] (nthD [] p.row rows)) [(x, v)] = { p with below := [], above := [(x, v)] } := by
    simp only [Prog.verify, rack_cells h.kind, h.above]
    simp [inRow, notLow, high, none]
  rw [Prog.judge, if_pos h.reading, rack_targets h.kind, verified]
  simp [Prog.next, h.kind, first, Prog.again, Prog.fresh]

/-- A cell above level 15.5 in the second attempt over-conducts, and none else does (R126). -/
theorem RackRow.overConducts_iff : p.overConducts [(x, v)] = true ↔ p.second = true ∧ 15500 < v := by
  simp [Prog.overConducts, h.kind, h.reading, rack_cells h.kind, inRow]

end row

/-! ### A cycle of a racking -/

theorem rackingCycle_pulses {c : Nat} {w5 : Bool} {rows : LevelRows} {reads : List (Nat × Int)} {p q : Prog} {s : State}
    (judged : p.judge (maxPulses s) Plan.empty.remap rows reads = q) (left : q.row < 512) :
    rackingCycle c w5 rows reads p s = progPulse c Plan.empty.remap rows q s := by
  simp only [rackingCycle, judged, left, if_true]

section program
variable {c : CaskId} {s : State} {y at' : Nat} {q : PktId} {e : List Byte} (active : activeEntry c.val s = some (y, q, at', e))
  (hold : (getCask c.val s).hold = some .racking) (may : mayProgram c.val s = true) (reads : List (Nat × Int))
include active hold may

/-- CASK_PROGRAM of a held cask whose entry is in progress and whose rows are not all done (R122). -/
theorem caskProgram_programs (unfitted : progFits c.val s = false) :
    exec (.caskProgram c reads) s = .next (programCask c.val e reads s) := by
  show execCaskProgram c reads s = _
  simp [execCaskProgram, active, hold, unfitted, may]

variable {p : Prog} (prog : (getCask c.val s).prog = some p) (unfitted : p.fit = false)
include prog unfitted

/-- One more cycle of a racking that no cell ends (R122 to R125). -/
theorem caskProgram_cycle (inside : p.overConducts reads = false) : exec (.caskProgram c reads) s =
    .next (rackingCycle c.val (decide (byteAt 10 e = 1))
      (levelRows (decide (byteAt 10 e = 1)) (sourceWeights (decide (byteAt 10 e = 1)) (e.drop 32))) reads p s) := by
  rw [caskProgram_programs active hold may reads ((progFits_of_some prog).trans unfitted)]
  simp [programCask, prog, inside]

/-- A cell that over-conducts ends it (R126). -/
theorem caskProgram_ends (conducts : p.overConducts reads = true) : exec (.caskProgram c reads) s = .next (endErased c.val 5 s) := by
  rw [caskProgram_programs active hold may reads ((progFits_of_some prog).trans unfitted)]
  simp [programCask, prog, conducts]

end program

end Sys2Proof.Machine
end

section
/-! SUPPORT. How a racking begins, and how a plan entry ends (R122, R124, R126, R130). -/

namespace Sys2Proof.Machine

/-! ### A pulse -/

/-- A pulse posts the verify read of its row and changes nothing but its cask (R110, R124). -/
theorem progPulse_verifies (c : Nat) (remap : List Word) (rows : LevelRows) (p : Prog) (s : State) :
    onlyIn [.casks] s (progPulse c remap rows p s) ∧ otherCasks c s (progPulse c remap rows p s) ∧
      getCask c (progPulse c remap rows p s) =
        (getCask c s).verifying (homeWindow c s) s.now (p.opened (p.targets remap rows)) := by
  rw [progPulse_eq]
  exact ⟨modCask_onlyIn .., otherCasks_modCask _ _ s, getCask_modCask ..⟩

/-! ### The device digest -/

theorem newDigestRacked_spec (s : State) : onlyIn (.cellar :: .pm :: eventParts) s (newDigestRacked s) ∧
    otherRegs eventRegs s (newDigestRacked s) ∧
    (newDigestRacked s).cellar = { s.cellar with digest := (newDigestRacked s).cellar.digest } := by
  have digest := newDigest_onlyIn s
  have own : (newDigest s).cellar = { s.cellar with digest := (newDigest s).cellar.digest } := rfl
  have regs := otherRegs_of_onlyIn (offs := eventRegs) digest (by decide)
  unfold newDigestRacked
  generalize newDigest s = x at *
  simp only
  split
  · exact ⟨onlyIn_mono digest (by decide), regs, own⟩
  · generalize digestWord x.cellar.digest = new
    generalize digestWord s.cellar.digest = old
    have noted := journal_onlyIn 4 1 0 (regOff .RK_DIGEST 0 0) 0 old new x
    have notedRegs := journal_otherRegs 4 1 0 (regOff .RK_DIGEST 0 0) 0 old new x
    have same : (journal 4 1 0 (regOff .RK_DIGEST 0 0) 0 old new x).cellar = x.cellar := noted.same .cellar (by decide)
    exact ⟨onlyIn_mono (digest.andThen noted) (by decide), otherRegs_trans regs notedRegs, by rw [same, own]⟩

/-! ### The start of a racking -/

theorem rings_onlyIn (m : Store Ring) (s : State) : onlyIn [.rings] s { s with rings := m } := by
  constructor
  intro p hp
  cases p with
  | rings => exact absurd (List.mem_singleton.mpr rfl) hp
  | _ => rfl

theorem topUpOver_onlyIn (c : Nat) (s : State) : onlyIn [.rings] s (topUpOver c s) := rings_onlyIn _ s

/-- What racking may change (R122 to R132). -/
def rackParts : List Part := .casks :: .racks :: .quant :: .ledger :: .cellar :: .pm :: .staged :: .applies :: eventParts

/-- The cask is held and erased, incomplete until its refold takes effect (R122, R124, R132). -/
theorem startRacking_spec (c : Nat) (s : State) : onlyIn rackParts s (startRacking c s) ∧ otherCasks c s (startRacking c s) ∧
    (startRacking c s).cellar = { s.cellar with digest := (startRacking c s).cellar.digest } ∧
    (startRacking c s).ledger = s.ledger ∧
    ∃ gen, getCask c (startRacking c s) = { (getCask c s).erased gen with hold := some .racking, incomplete := true } := by
  obtain ⟨erases, others, gen, erased⟩ := eraseCask_spec c s
  unfold startRacking
  generalize eraseCask c s = x at *
  have holds := modCask_onlyIn c (fun k => { k with hold := some .racking, incomplete := true }) x
  have own := getCask_modCask c (fun k => { k with hold := some .racking, incomplete := true }) x
  have rest := otherCasks_modCask c (fun k => { k with hold := some .racking, incomplete := true }) x
  generalize modCask c (fun k => { k with hold := some .racking, incomplete := true }) x = y at *
  have tops := topUpOver_onlyIn c y
  generalize topUpOver c y = z at *
  have before := (erases.andThen holds).andThen tops
  obtain ⟨digest, -, cellar⟩ := newDigestRacked_spec z
  generalize newDigestRacked z = u at *
  refine ⟨onlyIn_mono (before.andThen digest) (by decide), ?_, ?_, (before.andThen digest).same .ledger (by decide), gen, ?_⟩
  · exact otherCasks_trans others (otherCasks_trans rest (otherCasks_of_onlyIn (tops.andThen digest) (by decide)))
  · rw [cellar, before.same .cellar (by decide)]
  · rw [getCask_congr ((tops.andThen digest).same .casks (by decide)), own, erased]

/-! ### A plan entry ends -/

theorem planDone_onlyIn (p : PktId) (s : State) : onlyIn [.rings] s (planDone p s) := modPkt_onlyIn ..

/-- The entries in progress once one of a cask has ended. -/
def Cellar.without (c : Nat) (p : PktId) (m : Cellar) : Cellar :=
  { m with active := m.active.filter fun x => decide (x.1 ≠ c ∨ x.2.1 ≠ p) }

/-- An entry that ends is rewritten with its result, its packet told, and no longer in progress (R117, R358). -/
theorem endEntry_spec (c status a : Nat) (p : PktId) (e : List Byte) (s : State) :
    onlyIn (.cellar :: eventParts) s (endEntry c status a p e s) ∧ (endEntry c status a p e s).cellar = s.cellar.without c p := by
  have written := (eventOnly_dramStore a (patchAt 16 (leBytes 4 (entryResult c status s)) (e.take 32)) s).frame
  unfold endEntry
  simp only
  generalize dramStore a (patchAt 16 (leBytes 4 (entryResult c status s)) (e.take 32)) s = x at *
  have flagged : onlyIn eventParts x (if 2 ≤ status then pktFlag 29 (some p) x else x) := by
    split
    · exact onlyIn_mono (pktFlag_onlyIn ..) (by decide)
    · exact onlyIn_refl ..
  generalize (if 2 ≤ status then pktFlag 29 (some p) x else x) = y at *
  have before := written.andThen flagged
  have ended := cellar_onlyIn (y.cellar.without c p) y
  have told : onlyIn [.rings] _ (planDone p (ringProgress (some p) { y with cellar := y.cellar.without c p })) :=
    onlyIn_mono ((ringProgress_onlyIn ..).andThen (planDone_onlyIn ..)) (by decide)
  refine ⟨onlyIn_mono (before.andThen (ended.andThen told)) (by decide), ?_⟩
  exact (told.same .cellar (by decide)).trans (congrArg (Cellar.without c p) (before.same .cellar (by decide)))

theorem activeEntry_congr {s u : State} (h : u.cellar.active = s.cellar.active) (c : Nat) : activeEntry c u = activeEntry c s := by
  rw [activeEntry, h, activeEntry]

/-- A racking that ends with its cask erased: a cycle counted, the credit sent back, its entry over (R109, R126, R155). -/
theorem endErased_spec {c status y at' : Nat} {q : PktId} {e : List Byte} {s : State} (active : activeEntry c s = some (y, q, at', e)) :
    onlyIn rackParts s (endErased c status s) ∧ (endErased c status s).cellar.active = (s.cellar.without c q).active ∧
      ∃ gen, getCask c (endErased c status s) =
        { (getCask c s).erased gen with hold := none, prog := none, cycles8 := (getCask c s).cycles8 + 8 } := by
  obtain ⟨erases, -, gen, erased⟩ := eraseCask_spec c s
  unfold endErased
  generalize eraseCask c s = a at *
  obtain ⟨digest, -, cellar⟩ := newDigestRacked_spec a
  generalize newDigestRacked a = b at *
  obtain ⟨counts, counted⟩ := addCycles_spec c 8 b
  generalize addCycles c 8 b = d at *
  obtain ⟨sends, -⟩ := vppSend_spec c d
  generalize vppSend c d = x at *
  have late := counts.andThen sends
  have actives : x.cellar.active = s.cellar.active := by
    rw [late.same .cellar (by decide), cellar, erases.same .cellar (by decide)]
  have released := modCask_onlyIn c (fun k => { k with hold := none, prog := none }) x
  have own := getCask_modCask c (fun k => { k with hold := none, prog := none }) x
  rw [endRacking, activeEntry_congr actives, active]
  simp only
  generalize modCask c (fun k => { k with hold := none, prog := none }) x = z at *
  obtain ⟨ends, without⟩ := endEntry_spec c status at' q e z
  refine ⟨onlyIn_mono (((erases.andThen digest).andThen late).andThen (released.andThen ends)) (by decide), ?_, gen, ?_⟩
  · rw [without, released.same .cellar (by decide), Cellar.without, actives, Cellar.without]
  · rw [getCask_congr (ends.same .casks (by decide)), own, getCask_congr (sends.same .casks (by decide)), counted,
      getCask_congr (digest.same .casks (by decide)), erased]
    rfl

end Sys2Proof.Machine
end

section
/-! SUPPORT. The end of a racking's rows: its cells, shadow, row table and digests written, its reference read started (R127 to R132, R145). -/

namespace Sys2Proof.Machine

/-! ### The cells -/

/-- A cask's CK_CONFIG lies apart from its remap group and from what follows that into force. -/
theorem config_apart (c : Nat) : (∀ i, i < 16 → regOff .CK_CONFIG c 0 ≠ regOff .CK_REMAP c i ∧ regOff .CK_CONFIG c 0 ≠ regOff .CK_PIN c i) ∧
    regOff .CK_CONFIG c 0 ∉ remapNotes c := by
  have config : regOff .CK_CONFIG c 0 = _ := regOff_cask (n := .CK_CONFIG) rfl c 0
  have remap : ∀ k, regOff .CK_REMAP c k = _ := regOff_cask (n := .CK_REMAP) rfl c
  have pin : ∀ k, regOff .CK_PIN c k = _ := regOff_cask (n := .CK_PIN) rfl c
  have gen := regOff_cask (n := .CK_REMAP_COMMIT) rfl c 0
  have status := regOff_cask (n := .CK_STATUS) rfl c 0
  have strides : RegName.CK_REMAP.desc.stride = 4 ∧ RegName.CK_PIN.desc.stride = 4 := ⟨rfl, rfl⟩
  refine ⟨fun i hi => ?_, ?_⟩
  · rw [remap, pin, strides.1, strides.2]
    omega
  · simp only [remapNotes, List.mem_cons, not_or]
    exact ⟨by omega, by omega, caskReg_not_eventReg rfl c 0⟩

theorem setMap_config (c : Nat) (remap pin : List Word) (s : State) :
    rget .CK_CONFIG c 0 (setMap c remap pin s) = rget .CK_CONFIG c 0 s := by
  have dropped : rget .CK_CONFIG c 0 (dropStaged (remapCommit c) s) = rget .CK_CONFIG c 0 s :=
    rget_congr ((dropStaged_remap c s).same .regs (by decide)) ..
  rw [setMap_eq, ← dropped]
  refine List.foldlRecOn (motive := fun u => rget .CK_CONFIG c 0 u = rget .CK_CONFIG c 0 (dropStaged (remapCommit c) s)) _ _ rfl fun u hu k hk => ?_
  obtain ⟨remap', pin'⟩ := (config_apart c).1 k (List.mem_range.mp hk)
  rw [rget_of_otherRegs (otherRegs_setMapWord c remap pin u k) .CK_CONFIG c 0 (by simp [remap', pin']), hu]

/-- The remap group of a racking in force over the mode of its pattern (R83, R131). -/
def rackGroup (c : Nat) (w5 : Bool) (plan : Plan) (s : State) : State :=
  remapChecks c (bumpGen (remapCommit c) (setMap c plan.remap plan.pin (rset .CK_CONFIG c 0 (setFlag 0 w5 (resetWord .CK_CONFIG)) s)))

theorem rackGroup_spec (c : Nat) (w5 : Bool) (plan : Plan) (s : State) : onlyIn (.staged :: .applies :: eventParts) s (rackGroup c w5 plan s) ∧
    rget .CK_CONFIG c 0 (rackGroup c w5 plan s) = setFlag 0 w5 (resetWord .CK_CONFIG) ∧
    ∀ i, i < 16 → MapWordSet c plan.remap plan.pin i (rackGroup c w5 plan s) := by
  have mode := rget_rset .CK_CONFIG c 0 (setFlag 0 w5 (resetWord .CK_CONFIG)) s
  have sets := rset_onlyIn .CK_CONFIG c 0 (setFlag 0 w5 (resetWord .CK_CONFIG)) s
  unfold rackGroup
  generalize rset .CK_CONFIG c 0 (setFlag 0 w5 (resetWord .CK_CONFIG)) s = a at *
  have map := setMap_onlyIn c plan.remap plan.pin a
  have words := fun i hi => setMap_sets c plan.remap plan.pin (i := i) hi a
  have config := setMap_config c plan.remap plan.pin a
  generalize setMap c plan.remap plan.pin a = b at *
  have gen : onlyIn [.regs] b (bumpGen (remapCommit c) b) := rput_onlyIn ..
  have genReg : otherRegs [(remapCommit c).off] b (bumpGen (remapCommit c) b) := otherRegs_rput _ _ _ _ _ _ b
  generalize bumpGen (remapCommit c) b = d at *
  obtain ⟨checks, checkRegs⟩ := remapChecks_spec c d
  have noted : otherRegs (remapNotes c) b (remapChecks c d) :=
    otherRegs_trans (otherRegs_mono genReg fun o ho => List.mem_cons.mpr (.inl (List.mem_singleton.mp ho)))
      (otherRegs_mono checkRegs fun _ => List.mem_cons_of_mem _)
  refine ⟨onlyIn_mono ((sets.andThen map).andThen (gen.andThen checks)) (by decide), ?_, fun i hi => ?_⟩
  · rw [rget_of_otherRegs noted _ _ _ (config_apart c).2, config, mode]
  · obtain ⟨remap, pin⟩ := mapWord_not_noted c hi
    unfold MapWordSet
    rw [rget_of_otherRegs noted _ _ _ remap, rget_of_otherRegs noted _ _ _ pin]
    exact words i hi

/-- The cask once its cells hold a pattern (R127, R131, R146). -/
def Cask.programmedWith (w5 : Bool) (rows : LevelRows) (ents : List RowEnt) (plan : Plan) (k : Cask) : Cask :=
  let weights := (rows.flatMap id).filter fun l => decide (l ≠ 0)
  { k with
    racked := true
    chkLost := plan.chkLost
    retired := plan.retired
    digest := caskDigest w5 rows
    rows := Store.setN ⟨0, 0⟩ 0 ents []
    levels := programmed plan.remap rows
    lSum := (weights.map Int.natAbs).sum
    lCnt := weights.length
    shadowOk := true }

theorem rackCells_eq (c : Nat) (w5 : Bool) (rows : LevelRows) (ents : List RowEnt) (plan : Plan) (s : State) :
    rackCells c w5 rows ents plan s = saveCells c (modCask c (Cask.programmedWith w5 rows ents plan) (rackGroup c w5 plan s)) := rfl

theorem rackCells_spec (c : Nat) (w5 : Bool) (rows : LevelRows) (ents : List RowEnt) (plan : Plan) (s : State) :
    onlyIn (.casks :: .staged :: .applies :: eventParts) s (rackCells c w5 rows ents plan s) ∧ otherCasks c s (rackCells c w5 rows ents plan s) ∧
    rget .CK_CONFIG c 0 (rackCells c w5 rows ents plan s) = setFlag 0 w5 (resetWord .CK_CONFIG) ∧
    (∀ i, i < 16 → MapWordSet c plan.remap plan.pin i (rackCells c w5 rows ents plan s)) ∧
    ∃ cells, getCask c (rackCells c w5 rows ents plan s) =
      { (getCask c s).programmedWith w5 rows ents plan with cells := cells, saving := false } := by
  obtain ⟨frame, mode, words⟩ := rackGroup_spec c w5 plan s
  rw [rackCells_eq]
  generalize rackGroup c w5 plan s = x at *
  unfold saveCells
  generalize cellsNow c (modCask c (Cask.programmedWith w5 rows ents plan) x) = cells
  simp only [modCask_modCask]
  refine ⟨onlyIn_mono (frame.andThen (modCask_onlyIn ..)) (by decide), ?_, mode, words, cells, ?_⟩
  · exact otherCasks_trans (otherCasks_of_onlyIn frame (by decide)) (otherCasks_modCask _ _ x)
  · rw [getCask_modCask, getCask_congr (frame.same .casks (by decide))]

/-! ### The shadow and the tables -/

/-- Shadow, row records, residual table and tasting records of a racking written, its match gain at 1.0 (R128 to R130, R162, R170, R178). -/
def rackTables (c : Nat) (w5 : Bool) (rows : LevelRows) (ents : List RowEnt) (pulses : Nat → Nat) (plan : Plan) (s : State) : State :=
  unitGain c (putTaste c w5 rows (putResid c plan.pin rows (putRecords c rows ents pulses (putEntries c w5 plan.remap plan.pin rows s))))

theorem rackTables_spec (c : Nat) (w5 : Bool) (rows : LevelRows) (ents : List RowEnt) (pulses : Nat → Nat) (plan : Plan) (s : State) :
    onlyIn (.racks :: .quant :: eventParts) s (rackTables c w5 rows ents pulses plan s) ∧
    otherRegs eventRegs s (rackTables c w5 rows ents pulses plan s) := by
  obtain ⟨entries, entryRegs⟩ : onlyIn (.racks :: eventParts) s (putEntries c w5 plan.remap plan.pin rows s) ∧
    otherRegs eventRegs s (putEntries c w5 plan.remap plan.pin rows s) := dropRows_dramStore ..
  unfold rackTables
  generalize putEntries c w5 plan.remap plan.pin rows s = a at *
  obtain ⟨records, recordRegs⟩ : onlyIn (.racks :: eventParts) a (putRecords c rows ents pulses a) ∧
    otherRegs eventRegs a (putRecords c rows ents pulses a) := dropRows_dramStore ..
  generalize putRecords c rows ents pulses a = b at *
  have resid : onlyIn [.racks] b (putResid c plan.pin rows b) := modRack_onlyIn ..
  generalize putResid c plan.pin rows b = d at *
  have taste : EventOnly d (putTaste c w5 rows d) := eventOnly_dramStore ..
  generalize putTaste c w5 rows d = e at *
  have gain : onlyIn [.quant] e (unitGain c e) := quant_onlyIn _ e
  refine ⟨onlyIn_mono (((entries.andThen records).andThen resid).andThen (taste.frame.andThen gain)) (by decide), ?_⟩
  exact otherRegs_trans (otherRegs_trans (otherRegs_trans entryRegs recordRegs) (otherRegs_of_onlyIn resid (by decide)))
    (otherRegs_trans taste.regs (otherRegs_of_onlyIn gain (by decide)))

/-! ### The cycle is counted and the reference read started -/

theorem addCycles_others (c n : Nat) (s : State) : otherCasks c s (addCycles c n s) ∧ otherRegs eventRegs s (addCycles c n s) := by
  have others := otherCasks_modCask c (fun k => { k with cycles8 := k.cycles8 + n }) s
  have regs := otherRegs_of_onlyIn (offs := eventRegs) (modCask_onlyIn c (fun k => { k with cycles8 := k.cycles8 + n }) s) (by decide)
  unfold addCycles
  simp only
  split
  · exact ⟨otherCasks_trans others (otherCasks_of_onlyIn (raiseEvent_onlyIn ..) (by decide)), otherRegs_trans regs (raiseEvent_otherRegs _ _ _ _ _ _)⟩
  · exact ⟨others, regs⟩

/-- The last of a racking's rows: the digest, a program cycle, the credit's return and the reference read (R109, R132, R145, R155). -/
def rackReads (c : Nat) (p : Prog) (s : State) : State :=
  startRef c (modCask c (fun k => { k with prog := some { p with fit := true } }) (vppSend c (addCycles c 8 (newDigestRacked s))))

theorem rackReads_spec {c : Nat} (p : Prog) {s : State} (held : s.ledger.vppHeld.contains c = true) (unsent : vppSentAt c s = none) :
    onlyIn (.opNames :: .casks :: .ledger :: .cellar :: .pm :: eventParts) s (rackReads c p s) ∧ otherCasks c s (rackReads c p s) ∧
    otherRegs eventRegs s (rackReads c p s) ∧ (rackReads c p s).cellar.active = s.cellar.active ∧
    vppSentAt c (rackReads c p s) = some s.now ∧
    ∃ id, getCask c (rackReads c p s) = { getCask c s with
      cycles8 := (getCask c s).cycles8 + 8
      prog := some { p with fit := true }
      running := (getCask c s).running ++ [refRun id]
      posted := (getCask c (rackReads c p s)).posted
      waiting := (getCask c (rackReads c p s)).waiting } := by
  obtain ⟨digest, digestRegs, cellar⟩ := newDigestRacked_spec s
  unfold rackReads
  generalize newDigestRacked s = a at *
  obtain ⟨counts, counted⟩ := addCycles_spec c 8 a
  obtain ⟨countOthers, countRegs⟩ := addCycles_others c 8 a
  generalize addCycles c 8 a = b at *
  have before := digest.andThen counts
  have ledger : b.ledger = s.ledger := before.same .ledger (by decide)
  have sent := vppSentAt_vppSend (c := c) (s := b) (by rw [ledger, held]) (by rw [vppSentAt_congr ledger, unsent])
  obtain ⟨sends, -⟩ := vppSend_spec c b
  generalize vppSend c b = d at *
  have noted := modCask_onlyIn c (fun k => { k with prog := some { p with fit := true } }) d
  have own := getCask_modCask c (fun k => { k with prog := some { p with fit := true } }) d
  have notedOthers := otherCasks_modCask c (fun k => { k with prog := some { p with fit := true } }) d
  generalize modCask c (fun k => { k with prog := some { p with fit := true } }) d = e at *
  obtain ⟨starts, started⟩ := startRef_spec c e
  have startOthers := startRef_others c e
  have late := (sends.andThen noted).andThen starts
  refine ⟨onlyIn_mono (before.andThen late) (by decide), ?_, ?_, ?_, ?_, e.nextOp, ?_⟩
  · exact otherCasks_trans (otherCasks_of_onlyIn digest (by decide)) (otherCasks_trans countOthers
      (otherCasks_trans (otherCasks_of_onlyIn sends (by decide)) (otherCasks_trans notedOthers startOthers)))
  · exact otherRegs_trans digestRegs (otherRegs_trans countRegs (otherRegs_of_onlyIn late (by decide)))
  · rw [late.same .cellar (by decide), counts.same .cellar (by decide), cellar]
  · rw [vppSentAt_congr ((noted.andThen starts).same .ledger (by decide)), sent, before.same .clock (by decide)]
  · rw [started, own, getCask_congr (sends.same .casks (by decide)), counted, getCask_congr (digest.same .casks (by decide))]

theorem endRows_eq (c : Nat) (w5 : Bool) (rows : LevelRows) (plan : Plan) (p : Prog) (s : State) (kept : plan.chkLost = false) :
    endRows c w5 rows plan p s = rackReads c p (rackTables c w5 rows (rowTable plan.remap plan.pin p.fails rows) p.pulsesOf plan
      (rackCells c w5 rows (rowTable plan.remap plan.pin p.fails rows) plan s)) := by
  unfold endRows
  simp only [kept, Bool.false_eq_true, if_false]
  rfl

/-! ### A racking without failures -/

/-- Where no pair failed a racking needs no spare and no pin (R138, R139). -/
theorem repairAll_none (plan : Plan) : Plan.repairAll [] [] plan = plan := by
  have none : (List.range 532).filter ([] : List Nat).contains = [] := List.filter_eq_nil_iff.mpr fun _ _ => nofun
  simp only [Plan.repairAll, none, List.filter_nil, List.append_nil, List.foldl_nil]

theorem pinnedColumns_empty (w5 : Bool) : pinnedColumns w5 Plan.empty.pin = [] := by
  have unpinned : ∀ q, pinnedPair Plan.empty.pin q = false := fun q => by
    have zero : nthD 0 (q / 32) Plan.empty.pin = 0 := nthD_replicate_zero 16 _
    rw [pinnedPair, zero]
    simp [flagOf, bitAt]
  refine List.filter_eq_nil_iff.mpr fun j _ => ?_
  cases w5 <;> simp [pinnedColumn, unpinned]

section last
variable {p : Prog} (kind : p.kind = .rack) (clean : p.fails = [])
include clean

theorem repaired_clean : Plan.repairAll p.badSpares p.failedPairs Plan.empty = Plan.empty := by
  rw [Prog.badSpares, Prog.failedPairs, clean]
  exact repairAll_none Plan.empty

include kind

theorem prepare_clean : p.prepare Plan.empty p.failedPairs = p := by
  have rows : p.rowsDone = p := by simp [Prog.rowsDone, kind]
  have none : p.nextSpare Plan.empty Plan.empty = none := by
    refine List.findSome?_eq_none_iff.mpr fun k _ => ?_
    have zero : nthD 0 k Plan.empty.remap = 0 := nthD_replicate_zero 16 k
    rw [zero]
    rfl
  unfold Prog.prepare
  simp only [rows, repaired_clean clean, none]

/-- Past its last row a racking whose rows are all inside their windows is programmed (R127). -/
theorem rackingCycle_ends {c : Nat} {w5 : Bool} {rows : LevelRows} {reads : List (Nat × Int)} {r : Prog} {s : State}
    (judged : r.judge (maxPulses s) Plan.empty.remap rows reads = p) (done : 512 ≤ p.row) :
    rackingCycle c w5 rows reads r s = endRows c w5 rows Plan.empty p s := by
  have past : ¬ p.row < 512 := Nat.not_lt.mpr done
  simp only [rackingCycle, judged, past, if_false, prepare_clean kind clean, rackPlanned, repaired_clean clean, pinnedColumns_empty,
    List.length_nil, Nat.not_lt_zero]

end last

end Sys2Proof.Machine
end

section
/-! SUPPORT. What a racking leaves once its rows are programmed, and once its reference read is over (R127 to R132, R145, R224). -/

namespace Sys2Proof.Machine

/-! ### The row table -/

theorem piecesOf_length {α : Type} (n k : Nat) (l : List α) : (piecesOf n k l).length = k := by
  induction k generalizing l with
  | zero => rfl
  | succ k ih => rw [piecesOf, List.length_cons, ih]

theorem nthD_eq_getElem {α : Type} {d : α} {k : Nat} {l : List α} (h : k < l.length) : nthD d k l = l[k] := by
  rw [nthD, List.drop_eq_getElem_cons h, List.headD_cons]

/-- The row table that a racking stores holds each row's entry (R127). -/
theorem rowTable_stored {remap pin : List Word} {fails : List CellFail} {rows : LevelRows} {i : Nat} (hi : i < rows.length) :
    Store.getD ⟨0, 0⟩ i (Store.setN ⟨0, 0⟩ 0 (rowTable remap pin fails rows) []) = rowEntry remap pin fails i (nthD [] i rows) := by
  have len : i < (rowTable remap pin fails rows).length := by simpa [rowTable] using hi
  have read := Store.getD_setN_in (⟨0, 0⟩ : RowEnt) 0 i (rowTable remap pin fails rows) [] rfl len
  rw [Nat.zero_add] at read
  rw [read, List.getD_eq_getElem _ _ len, nthD_eq_getElem hi]
  simp [rowTable]

/-! ### The rows are programmed -/

/-- What the last row of a racking leaves: the cask racked with its pattern, its reference read running (R127 to R132, R145). -/
structure RowsRacked (c : Nat) (w5 : Bool) (rows : LevelRows) (s u : State) : Prop where
  frame : onlyIn (.opNames :: rackParts) s u
  others : otherCasks c s u
  own : (getCask c u).racked = true ∧ (getCask c u).incomplete = (getCask c s).incomplete ∧ (getCask c u).shadowOk = true ∧
    (getCask c u).digest = caskDigest w5 rows ∧ (getCask c u).levels = programmed (List.replicate 16 0) rows ∧
    (getCask c u).cycles8 = (getCask c s).cycles8 + 8 ∧ (getCask c u).hold = (getCask c s).hold
  mode : rflag .CK_CONFIG c 0 0 u = w5
  words : ∀ i, i < 16 → rget .CK_REMAP c i u = 0 ∧ rget .CK_PIN c i u = 0
  table : ∀ i, i < rows.length → rowEnt c i u = rowEntry (List.replicate 16 0) (List.replicate 16 0) [] i (nthD [] i rows)
  sent : vppSentAt c u = some s.now
  reads : ((getCask c u).probe .refRead).isSome = true
  fits : progFits c u = true
  active : u.cellar.active = s.cellar.active

theorem modeFlag (w5 : Bool) : flagOf 0 (setFlag 0 w5 (resetWord .CK_CONFIG)) = w5 := by cases w5 <;> decide

theorem endRows_racks {c : Nat} {s : State} (may : mayProgram c s = true) (w5 : Bool) (rows : LevelRows) {p : Prog} (clean : p.fails = []) :
    RowsRacked c w5 rows s (endRows c w5 rows Plan.empty p s) := by
  obtain ⟨held, unsent⟩ := credit_of_mayProgram may
  rw [endRows_eq _ _ _ _ _ _ rfl, clean]
  generalize hents : rowTable Plan.empty.remap Plan.empty.pin [] rows = ents
  obtain ⟨frame, others, mode, words, cells, own⟩ := rackCells_spec c w5 rows ents Plan.empty s
  generalize rackCells c w5 rows ents Plan.empty s = a at *
  obtain ⟨tables, tableRegs⟩ := rackTables_spec c w5 rows ents p.pulsesOf Plan.empty a
  generalize rackTables c w5 rows ents p.pulsesOf Plan.empty a = b at *
  have both := frame.andThen tables
  have ledger : b.ledger = s.ledger := both.same .ledger (by decide)
  obtain ⟨reads, readOthers, readRegs, active, sent, id, started⟩ :=
    rackReads_spec (c := c) p (s := b) (by rw [ledger, held]) (by rw [vppSentAt_congr ledger, unsent])
  generalize rackReads c p b = u at *
  have regs := otherRegs_trans tableRegs readRegs
  rw [getCask_congr (tables.same .casks (by decide)), own] at started
  refine ⟨onlyIn_mono (both.andThen reads) (by decide), ?_, ?_, ?_, fun i hi => ?_, fun i hi => ?_, ?_, ?_, ?_, ?_⟩
  · exact otherCasks_trans others (otherCasks_trans (otherCasks_of_onlyIn tables (by decide)) readOthers)
  · rw [started]
    exact ⟨rfl, rfl, rfl, rfl, rfl, rfl, rfl⟩
  · rw [rflag, rget_of_otherRegs regs _ _ _ (caskReg_not_eventReg rfl c 0), mode, modeFlag]
  · obtain ⟨remap, pin⟩ := (words i hi).after regs
    rw [remap, pin]
    exact ⟨nthD_replicate_zero 16 i, nthD_replicate_zero 16 i⟩
  · rw [rowEnt, started]
    show Store.getD ⟨0, 0⟩ i (Store.setN ⟨0, 0⟩ 0 ents []) = _
    rw [← hents]
    exact rowTable_stored hi
  · rw [sent, both.same .clock (by decide)]
  · exact probe_append_refRun id (by rw [started])
  · exact progFits_of_some (p := { p with fit := true }) (by rw [started])
  · rw [active, both.same .cellar (by decide)]

/-! ### The fit of a racking -/

/-- The cask whose racking's reference read is over. -/
def Cask.rackRead (id : Nat) (k : Cask) : Cask := { k.endProbe id with prog := none }

/-- The cask once its racking's fit is its zero (R145). -/
def Cask.rackFit (id : Nat) (a b temp : Int) (now : Nat) (k : Cask) : Cask := (Cask.refit a b temp now (k.rackRead id)).zeroed

theorem Cask.rackFit_fits (id : Nat) (a b temp : Int) (now : Nat) (k : Cask) :
    (k.rackFit id a b temp now).refA = a ∧ (k.rackFit id a b temp now).refB = b ∧
      (k.rackFit id a b temp now).refA0 = a ∧ (k.rackFit id a b temp now).refB0 = b ∧ (k.rackFit id a b temp now).fitted = true ∧
      (k.rackFit id a b temp now).prog = none ∧ (k.rackFit id a b temp now).hold = k.hold ∧
      (k.rackFit id a b temp now).incomplete = k.incomplete := by
  simp only [Cask.rackFit, Cask.zeroed, Cask.refit, Cask.rackRead, Cask.endProbe, and_self]

/-- The state in which a racking's fit is recorded and taken as the zero (R145). -/
def rackFitted (c id : Nat) (a b : Int) (s : State) : State := recordZero c (recordRef c a b (modCask c (Cask.rackRead id) s))

theorem rackFitted_eq (c id : Nat) (a b : Int) (s : State) : rackFitted c id a b s =
    modCask c Cask.zeroed (recordRef c a b (modCask c (Cask.rackRead id) s)) := rfl

theorem rackFitted_spec (c id : Nat) (a b : Int) (s : State) : onlyIn [.casks, .regs] s (rackFitted c id a b s) ∧
    (∃ temp now, getCask c (rackFitted c id a b s) = (getCask c s).rackFit id a b temp now) ∧
    racksOf c (rackFitted c id a b s) = racksOf c s := by
  rw [rackFitted_eq, recordRef_eq]
  have read := modCask_onlyIn c (Cask.rackRead id) s
  have own := getCask_modCask c (Cask.rackRead id) s
  generalize modCask c (Cask.rackRead id) s = x at *
  have sums := refRegs_onlyIn c a b x
  obtain ⟨lo, hi⟩ := refRegs_groups c a b x
  generalize quadTemp (c / 1024) x = temp
  generalize refRegs c a b x = y at *
  rw [modCask_modCask]
  have marks := modCask_onlyIn c (fun k => Cask.zeroed (Cask.refit a b temp x.now k)) y
  have marked := getCask_modCask c (fun k => Cask.zeroed (Cask.refit a b temp x.now k)) y
  generalize modCask c (fun k => Cask.zeroed (Cask.refit a b temp x.now k)) y = z at *
  have group : ∀ n r g, rget n r g x = rget n r g s := rget_congr (read.same .regs (by decide))
  have same : ∀ n r g, rget n r g z = rget n r g y := rget_congr (marks.same .regs (by decide))
  have all := (read.andThen sums).andThen marks
  refine ⟨onlyIn_mono all (by decide), ⟨temp, x.now, ?_⟩, racksOf_congr (all.same .mem (by decide)) (by rw [same, lo, group])
    (by rw [same, hi, group]) c⟩
  rw [marked, getCask_congr (sums.same .casks (by decide)), own, Cask.rackFit]

theorem mem_askRackFold {r : Nat} {rs : List Nat} (h : r ∈ rs) (s : State) : r ∈ (askRackFold rs s).quant.rackFold := by
  show r ∈ s.quant.rackFold ++ rs.filter _
  by_cases e : r ∈ s.quant.rackFold
  · exact List.mem_append_left _ e
  · exact List.mem_append_right _ (List.mem_filter.mpr ⟨h, by simpa using e⟩)

/-- The cask joins those whose racking waits for its refold (R224). -/
def waitForFold (c : Nat) (s : State) : State := { s with quant := { s.quant with rackWait := s.quant.rackWait ++ [c] } }

theorem waitForFold_quant (c : Nat) (s : State) : (waitForFold c s).quant = { s.quant with rackWait := s.quant.rackWait ++ [c] } := rfl

theorem endRacked_eq (c id : Nat) (a b : Int) (s : State) : endRacked c id a b s =
    waitForFold c (evaluate c (askRackFold (racksOf c (rackFitted c id a b s)) (rackFitted c id a b s))) := by
  unfold endRacked rackFitted waitForFold
  rfl

/-- A racking's fit is its zero; the refold of its racks is asked for, and the cask stays held for it (R130, R145, R224). -/
theorem endRacked_spec (c id : Nat) (a b : Int) (s : State) : onlyIn (.casks :: .quant :: eventParts) s (endRacked c id a b s) ∧
    ((getCask c (endRacked c id a b s)).refA = a ∧ (getCask c (endRacked c id a b s)).refB = b ∧
      (getCask c (endRacked c id a b s)).refA0 = a ∧ (getCask c (endRacked c id a b s)).refB0 = b ∧
      (getCask c (endRacked c id a b s)).fitted = true ∧ (getCask c (endRacked c id a b s)).prog = none ∧
      (getCask c (endRacked c id a b s)).hold = (getCask c s).hold ∧
      (getCask c (endRacked c id a b s)).incomplete = (getCask c s).incomplete) ∧
    (endRacked c id a b s).quant.rackWait = s.quant.rackWait ++ [c] ∧
    ∀ r ∈ racksOf c s, r ∈ (endRacked c id a b s).quant.rackFold := by
  rw [endRacked_eq]
  obtain ⟨frame, ⟨temp, now, own⟩, racks⟩ := rackFitted_spec c id a b s
  rw [racks]
  generalize rackFitted c id a b s = x at *
  have asks : onlyIn [.quant] x (askRackFold (racksOf c s) x) := quant_onlyIn _ x
  have asked : ∀ r ∈ racksOf c s, r ∈ (askRackFold (racksOf c s) x).quant.rackFold := fun r hr => mem_askRackFold hr x
  have waits : (askRackFold (racksOf c s) x).quant.rackWait = x.quant.rackWait := rfl
  generalize askRackFold (racksOf c s) x = z at *
  have marks := evaluate_marks c z
  have quant : (evaluate c z).quant = z.quant := marks.frame.same .quant (by decide)
  have joins : onlyIn [.quant] (evaluate c z) (waitForFold c (evaluate c z)) := quant_onlyIn _ _
  refine ⟨onlyIn_mono ((frame.andThen asks).andThen (marks.frame.andThen joins)) (by decide), ?_, ?_, fun r hr => ?_⟩
  · rw [getCask_congr (joins.same .casks (by decide)), marks.own, getCask_congr (asks.same .casks (by decide)), own]
    exact Cask.rackFit_fits id a b temp now (getCask c s)
  · rw [waitForFold_quant, quant, waits, frame.same .quant (by decide)]
  · rw [waitForFold_quant, quant]
    exact asked r hr

/-- CASK_PROGRAM of a racking whose reference read is over (R145). -/
theorem caskProgram_fits {c : CaskId} {id : Nat} {a b : Int} {s : State} (active : (activeEntry c.val s).isSome = true)
    (hold : (getCask c.val s).hold = some .racking) (fits : progFits c.val s = true)
    (ended : refResult (getCask c.val s) = some (id, a, b)) (noInc : s.hang.incident = none) (reads : List (Nat × Int)) :
    exec (.caskProgram c reads) s = .next (endRacked c.val id a b s) := by
  obtain ⟨⟨y, q, at', e⟩, entry⟩ := Option.isSome_iff_exists.mp active
  show execCaskProgram c reads s = _
  simp [execCaskProgram, entry, hold, fits, ended, frozenWhere_of_noIncident noInc]

end Sys2Proof.Machine
end

section
/-! SUPPORT. Packets through the cellarer's work: what changes them, and what reading the memories leaves of them (R117, R358, R376). -/

namespace Sys2Proof.Machine

/-! ### Packets that keep a property -/

/-- Every ring's packets are mapped one by one, each keeping its place and a property that it had. -/
def PktsKept (Q : Pkt → Prop) (s u : State) : Prop :=
  ∀ n, ∃ g : Pkt → Pkt, (∀ k, (g k).idx = k.idx) ∧ (∀ k, Q k → Q (g k)) ∧ (getRing n u).pkts = (getRing n s).pkts.map g

/-- The packet of an identity is there and has a property. -/
def PktHas (p : PktId) (Q : Pkt → Prop) (s : State) : Prop := ∃ y, findPkt p s = some y ∧ Q y

theorem PktHas.kept {p : PktId} {Q : Pkt → Prop} {s u : State} (h : PktHas p Q s) (kept : PktsKept Q s u) : PktHas p Q u := by
  obtain ⟨y, found, has⟩ := h
  obtain ⟨g, idx, keeps, pkts⟩ := kept p.ring.val
  refine ⟨g y, ?_, keeps y has⟩
  have place : (fun k => k.idx == p.idx) ∘ g = fun k => k.idx == p.idx := funext fun k => by simp [idx]
  rw [findPkt, pkts, List.find?_map, place]
  exact congrArg (Option.map g) found

section kept
variable {Q : Pkt → Prop}

theorem pktsKept_of_rings {s u : State} (h : u.rings = s.rings) : PktsKept Q s u := fun n =>
  ⟨id, fun _ => rfl, fun _ => id, by rw [getRing_congr h, List.map_id]⟩

theorem pktsKept_refl (s : State) : PktsKept Q s s := pktsKept_of_rings rfl

theorem pktsKept_trans {s u v : State} (h : PktsKept Q s u) (k : PktsKept Q u v) : PktsKept Q s v := fun n => by
  obtain ⟨f, idx, keeps, pkts⟩ := h n
  obtain ⟨g, idx', keeps', pkts'⟩ := k n
  exact ⟨g ∘ f, fun x => (idx' _).trans (idx x), fun x hx => keeps' _ (keeps x hx), by rw [pkts', pkts, List.map_map]⟩

theorem pktsKept_of_onlyIn {ps : List Part} {s u : State} (h : onlyIn ps s u) (apart : Part.rings ∉ ps) : PktsKept Q s u :=
  pktsKept_of_rings (h.same .rings apart)

theorem pktsKept_foldl {α : Type} (f : State → α → State) (h : ∀ s x, PktsKept Q s (f s x)) (l : List α) (s : State) :
    PktsKept Q s (l.foldl f s) :=
  List.foldlRecOn l f (pktsKept_refl s) fun u hu x _ => pktsKept_trans hu (h u x)

theorem getRing_modRing_ne {m n : Nat} (f : Ring → Ring) (s : State) (h : m ≠ n) : getRing m (modRing n f s) = getRing m s := by
  simp only [getRing, modRing, setRing, Store.getD, Store.find_put_ne _ _ h]

/-- A change of a ring that maps its packets. -/
theorem pktsKept_modRing (n : Nat) {f : Ring → Ring} {g : Pkt → Pkt} (maps : ∀ r, (f r).pkts = r.pkts.map g) (idx : ∀ k, (g k).idx = k.idx)
    (keeps : ∀ k, Q k → Q (g k)) (s : State) : PktsKept Q s (modRing n f s) := fun m => by
  by_cases e : m = n
  · exact ⟨g, idx, keeps, by rw [e, getRing_modRing, maps]⟩
  · exact ⟨id, fun _ => rfl, fun _ => id, by rw [getRing_modRing_ne f s e, List.map_id]⟩

theorem pktsKept_modPkt (p : PktId) {f : Pkt → Pkt} (idx : ∀ k, (f k).idx = k.idx) (keeps : ∀ k, Q k → Q (f k)) (s : State) :
    PktsKept Q s (modPkt p f s) :=
  pktsKept_modRing (g := fun k => if k.idx == p.idx then f k else k) p.ring.val (fun _ => rfl)
    (fun k => by split <;> simp [idx]) (fun k hk => by split <;> simp [keeps, hk]) s

theorem pktsKept_modPktOf (p : Option PktId) {f : Pkt → Pkt} (idx : ∀ k, (f k).idx = k.idx) (keeps : ∀ k, Q k → Q (f k)) (s : State) :
    PktsKept Q s (modPktOf p f s) := by
  cases p with
  | none => exact pktsKept_refl s
  | some p => exact pktsKept_modPkt p idx keeps s

theorem pktsKept_ringProgress (p : Option PktId) (s : State) : PktsKept Q s (ringProgress p s) := by
  cases p with
  | none => exact pktsKept_refl s
  | some p =>
    exact pktsKept_modRing (f := fun r => { r with progress := s.now, paused := 0 }) (g := id) _ (fun r => (List.map_id r.pkts).symm)
        (fun _ => rfl) (fun _ => id) s

/-- The record of an event posted, with the events of the sectors that it evicts (R376, R391). -/
theorem postedEvent_onlyIn (cls : Nat) (rec' : List Byte) (s : State) :
    onlyIn [.regs, .mem, .armed, .sent, .px] s (poisonEvents (postEvent cls rec' s).2 (postEvent cls rec' s).1) :=
  onlyIn_trans (postEvent_onlyIn ..) (poisonEvents_onlyIn ..)

/-- An event of a packet is counted on it, and leaves the rest of every packet (R376). -/
theorem pktsKept_raiseEvent (counts : ∀ k n, Q k → Q { k with events := n }) (code unit aux detail : Nat) (p : Option PktId) (s : State) :
    PktsKept Q s (raiseEvent code unit aux detail p s) := by
  have counted := pktsKept_modPktOf (Q := Q) (f := fun k => { k with events := min (k.events + 1) 0xFFFFFFFF }) p (fun _ => rfl)
    (fun k => counts k _) s
  unfold raiseEvent
  exact pktsKept_trans counted (pktsKept_of_onlyIn (postedEvent_onlyIn ..) (by decide))

theorem pktsKept_pktFlag (flags : ∀ k n, Q k → Q { k with flags := n }) (b : Nat) (p : Option PktId) (s : State) :
    PktsKept Q s (pktFlag b p s) :=
  pktsKept_modPktOf (f := fun k => { k with flags := k.flags ||| 2 ^ b }) p (fun _ => rfl) (fun k => flags k _) s

/-- What a topping's end makes of the work of a packet (R153). -/
def Pkt.toppedUp (c : Nat) (p : Pkt) : Pkt :=
  match p.work with
  | .topUp cs => { p with work := topUpWork (cs.filter (· ≠ c)) }
  | _ => p

theorem Pkt.toppedUp_idx (c : Nat) (p : Pkt) : (p.toppedUp c).idx = p.idx := by
  unfold Pkt.toppedUp
  split <;> rfl

theorem Pkt.toppedUp_other {c : Nat} {p : Pkt} (other : ∀ cs, p.work ≠ .topUp cs) : p.toppedUp c = p := by
  unfold Pkt.toppedUp
  split
  · next cs h => exact absurd h (other cs)
  · rfl

theorem getRing_topUpOver (c n : Nat) (s : State) :
    getRing n (topUpOver c s) = { getRing n s with pkts := (getRing n s).pkts.map (Pkt.toppedUp c) } := by
  have mapped := Store.getD_mapV (fun (_ : Nat) (r : Ring) => { r with pkts := r.pkts.map (Pkt.toppedUp c) }) n s.rings Ring.init
  exact mapped

/-- A topping's end leaves every packet whose work is not to top up (R153). -/
theorem pktsKept_topUpOver (others : ∀ k cs, Q k → k.work ≠ .topUp cs) (c : Nat) (s : State) : PktsKept Q s (topUpOver c s) := fun n =>
  ⟨Pkt.toppedUp c, Pkt.toppedUp_idx c, fun k hk => by rwa [Pkt.toppedUp_other (others k · hk)], by rw [getRing_topUpOver]⟩

end kept

/-! ### Reads that bring their bytes -/

/-- What a read that brings its bytes may change: the cache, and what the events of its evictions do (R387, R391). -/
def fetchParts : List Part := [.regs, .mem, .armed, .sent, .px]

theorem sealCheck_fetches {sec : Nat} {p : Option PktId} {s u : State} (h : sealCheck sec p s = (none, u)) : onlyIn [.mem] s u := by
  unfold sealCheck at h
  simp only at h
  split at h
  · cases h
    exact onlyIn_refl ..
  · split at h
    · cases h
    · split at h
      · cases h
        exact mem_onlyIn ..
      · cases h

/-- A seal that does not hold brings no bytes (R396). -/
theorem sealCheck_not_ok {sec : Nat} {p : Option PktId} {s u : State} {d : List Byte} : sealCheck sec p s ≠ (some (.ok d), u) := by
  unfold sealCheck
  simp only
  split
  · exact nofun
  · split
    · exact nofun
    · split <;> exact nofun

theorem missSector_fetches {sec : Nat} {p : Option PktId} {s u : State} {d : List Byte} (h : missSector sec p s = (.ok d, u)) :
    onlyIn fetchParts s u := by
  unfold missSector at h
  split at h
  · cases h
  · split at h
    · next checked =>
      cases h
      exact absurd checked sealCheck_not_ok
    · next checked =>
      simp only at h
      split at h
      · cases h
        exact onlyIn_mono ((sealCheck_fetches checked).andThen ((fillLine_onlyIn ..).andThen (poisonEvents_onlyIn ..))) (by decide)
      · cases h

theorem readSector_fetches {sec : Nat} {p : Option PktId} {s u : State} {d : List Byte} (h : readSector sec p s = (.ok d, u)) :
    onlyIn fetchParts s u := by
  unfold readSector at h
  split at h
  · split at h
    · cases h
      exact onlyIn_mono (mem_onlyIn ..) (by decide)
    · cases h
  · exact missSector_fetches h

theorem readSectors_fetches {p : Option PktId} {n sec : Nat} {s u : State} {ds : List Byte} (h : readSectors p sec n s = (.ok ds, u)) :
    onlyIn fetchParts s u := by
  induction n generalizing sec s ds with
  | zero =>
    cases h
    exact onlyIn_refl ..
  | succ n ih =>
    unfold readSectors at h
    split at h
    · next h1 =>
      split at h
      · next h2 =>
        cases h
        exact onlyIn_trans (readSector_fetches h1) (ih h2)
      · next no => exact absurd h (no _ _)
    · next no => exact absurd h (no _ _)

/-- A read of DRAM that brings its bytes leaves every packet (R376, R390). -/
theorem readDram_fetches {a n : Nat} {p : Option PktId} {s u : State} {bs : List Byte} (h : readDram a n p s = (.ok bs, u)) :
    onlyIn fetchParts s u := by
  unfold readDram at h
  split at h
  · cases h
    exact onlyIn_refl ..
  · split at h
    · next h1 =>
      cases h
      exact readSectors_fetches h1
    · next no => exact absurd h (no _ _)

theorem dramStore_fetches (a : Nat) (data : List Byte) (s : State) : onlyIn fetchParts s (dramStore a data s) := by
  unfold dramStore
  split
  · exact onlyIn_mono (writeDram_onlyIn ..) (by decide)
  · exact onlyIn_refl ..

end Sys2Proof.Machine
end

section
/-! SUPPORT. A plan entry: its checks, and how it joins the rackings in progress or completes (R117 to R122, R154). -/

namespace Sys2Proof.Machine

/-! ### A topping that is called off -/

theorem cancelTopping_spec (c : Nat) (s : State) : onlyIn [.casks, .ledger, .rings] s (cancelTopping c s) ∧
    otherCasks c s (cancelTopping c s) ∧
    ∀ Q : Pkt → Prop, (∀ k cs, Q k → k.work ≠ .topUp cs) → PktsKept Q s (cancelTopping c s) := by
  have returns : onlyIn [.ledger] s (if (getCask c s).topping then vppSend c s else s) := onlyIn_ite (vppSend_spec c s).1
  unfold cancelTopping
  simp only
  generalize (if (getCask c s).topping then vppSend c s else s) = x at *
  have leaves : onlyIn [.ledger] x
      (if (getCask c s).topping then { x with ledger := { x.ledger with vppQueue := x.ledger.vppQueue.filter (· ≠ c) } } else x) :=
    onlyIn_ite (ledger_onlyIn _ x)
  generalize (if (getCask c s).topping then { x with ledger := { x.ledger with vppQueue := x.ledger.vppQueue.filter (· ≠ c) } } else x) = y at *
  have before := returns.andThen leaves
  split
  · refine ⟨onlyIn_mono (before.andThen ((modCask_onlyIn ..).andThen (topUpOver_onlyIn ..))) (by decide), ?_, fun Q others => ?_⟩
    · exact otherCasks_trans (otherCasks_of_onlyIn before (by decide))
        (otherCasks_trans (otherCasks_modCask _ _ y) (otherCasks_of_onlyIn (topUpOver_onlyIn ..) (by decide)))
    · exact pktsKept_trans (pktsKept_of_onlyIn (before.andThen (modCask_onlyIn ..)) (by decide)) (pktsKept_topUpOver others c _)
  · exact ⟨onlyIn_mono before (by decide), otherCasks_of_onlyIn before (by decide), fun Q _ => pktsKept_of_onlyIn before (by decide)⟩

/-! ### A racking starts -/

/-- An entry whose checks pass in the queue for its credit, in progress (R109, R119, R154). -/
def rackStarted (c a : Nat) (p : PktId) (e src : List Byte) (s : State) : State :=
  let x := vppAsk c (cancelTopping c s)
  { x with cellar := { x.cellar with active := x.cellar.active ++ [(c, p, a, e ++ src)] } }

theorem rackStarted_spec (c a : Nat) (p : PktId) (e src : List Byte) (s : State) :
    onlyIn [.casks, .ledger, .rings, .cellar] s (rackStarted c a p e src s) ∧ otherCasks c s (rackStarted c a p e src s) ∧
    (rackStarted c a p e src s).cellar = { s.cellar with active := s.cellar.active ++ [(c, p, a, e ++ src)] } ∧
    (c ∈ (rackStarted c a p e src s).ledger.vppQueue ∨ c ∈ (rackStarted c a p e src s).ledger.vppHeld) ∧
    ∀ Q : Pkt → Prop, (∀ k cs, Q k → k.work ≠ .topUp cs) → PktsKept Q s (rackStarted c a p e src s) := by
  obtain ⟨cancels, others, kept⟩ := cancelTopping_spec c s
  unfold rackStarted
  generalize cancelTopping c s = x at *
  obtain ⟨asks, queued⟩ := vppAsk_spec c x
  generalize vppAsk c x = y at *
  have before := cancels.andThen asks
  have joins := cellar_onlyIn { y.cellar with active := y.cellar.active ++ [(c, p, a, e ++ src)] } y
  refine ⟨onlyIn_mono (before.andThen joins) (by decide), ?_, ?_, queued, fun Q apart => ?_⟩
  · exact otherCasks_trans others (otherCasks_of_onlyIn (asks.andThen joins) (by decide))
  · show { y.cellar with active := y.cellar.active ++ [(c, p, a, e ++ src)] } = _
    rw [before.same .cellar (by decide)]
  · exact pktsKept_trans (kept Q apart) (pktsKept_of_onlyIn (asks.andThen joins) (by decide))

/-- A source block within its limits, of a cask with cycles left that no entry works on, starts its racking (R119). -/
theorem rackSource_starts {c a : Nat} {p : PktId} {e src : List Byte} {s : State}
    (limit : ∀ w ∈ sourceWeights (decide (byteAt 10 e = 1)) src, w.natAbs ≤ if byteAt 10 e = 1 then 15 else 255)
    (fresh : (getCask c s).cycles8 < 80000) (free : activeEntry c s = none) (on : domainIsOff (rackDomain (c / 16)) s = false)
    (always : byteAt 11 e % 2 = 0) : rackSource c a p e src s = rackStarted c a p e src s := by
  have within : ((sourceWeights (decide (byteAt 10 e = 1)) src).any fun w =>
      decide (weightLimit (decide (byteAt 10 e = 1)) < w.natAbs)) = false := by
    refine List.any_eq_false.mpr fun w hw => ?_
    have := limit w hw
    simpa [weightLimit] using this
  have flag : bitAt 0 (byteAt 11 e) = false := by simp [bitAt, always]
  have left : ¬ 80000 ≤ (getCask c s).cycles8 := Nat.not_le.mpr fresh
  unfold rackSource
  simp only [within, left, free, on, flag, Bool.false_eq_true, if_false, Option.isSome_none, Bool.or_self, Bool.false_and]
  rfl

/-! ### The commands of a plan -/

section entry
variable {n : RingId} {i : Index} {a cnt k : Nat} {x : Pkt} {s : State} (found : findPkt ⟨n, i⟩ s = some x) (plan : x.work = .plan a cnt k)
  (more : k < cnt) (running : rflag .RK_CTRL 0 0 8 s = false) (goes : entryWaits (leAt 8 2 (peek (a + 32 * k) 32 s)) ⟨n, i⟩ s = false)

/-- The plan with its next entry taken up (R117). -/
def planAdvanced (p : PktId) (a cnt k : Nat) (s : State) : State := modPkt p (fun y => { y with work := .plan a cnt (k + 1) }) s

include found plan more running goes

theorem rackEntry_checks {e : List Byte} {u : State} (read : readDram (a + 32 * k) 32 (some ⟨n, i⟩) (planAdvanced ⟨n, i⟩ a cnt k s) = (.ok e, u)) :
    exec (.rackEntry n i k) s = .next (rackChecks (a + 32 * k) ⟨n, i⟩ e u) := by
  show execRackEntry n i k s = _
  unfold execRackEntry
  simp only [found, Option.map_some, plan]
  have stays : ¬ (k ≠ k ∨ cnt ≤ k ∨ rflag .RK_CTRL 0 0 8 s = true ∨ entryWaits (leAt 8 2 (peek (a + 32 * k) 32 s)) ⟨n, i⟩ s = true) := by
    simp [Nat.not_le.mpr more, running, goes]
  rw [if_neg stays]
  unfold planAdvanced at read
  simp only [read]

end entry

/-! ### The work of a plan -/

theorem pktHas_work_iff {p : PktId} {w : OpWork} {s : State} :
    PktHas p (fun y => y.work = w) s ↔ (findPkt p s).map Pkt.work = some w := by
  rw [Option.map_eq_some_iff]
  rfl

theorem planAdvanced_onlyIn (p : PktId) (a cnt k : Nat) (s : State) : onlyIn [.rings] s (planAdvanced p a cnt k s) := modPkt_onlyIn ..

/-- The plan goes on to its next entry (R117). -/
theorem planAdvanced_work {p : PktId} {x : Pkt} {s : State} (found : findPkt p s = some x) (a cnt k : Nat) :
    PktHas p (fun y => y.work = .plan a cnt (k + 1)) (planAdvanced p a cnt k s) :=
  ⟨{ x with work := .plan a cnt (k + 1) }, by
    rw [planAdvanced, findPkt_modPkt p (fun y => { y with work := .plan a cnt (k + 1) }) s fun _ => rfl, found]
    rfl, rfl⟩

/-- What a plan's work becomes when one of its entries completes (R117). -/
def planLeft (p : PktId) (a cnt next : Nat) (m : Cellar) : OpWork :=
  if cnt ≤ next ∧ ∀ y ∈ m.active, y.2.1 ≠ p then .done else .plan a cnt next

/-- What the end of an entry makes of a packet: a plan whose every entry has completed is done (R117). -/
def Pkt.planned (p : PktId) (m : Cellar) (k : Pkt) : Pkt :=
  match k.work with
  | .plan _ n next => if decide (n ≤ next) && !(m.active.any fun e => decide (e.2.1 = p)) then { k with work := .done } else k
  | _ => k

theorem planDone_eq (p : PktId) (s : State) : planDone p s = modPkt p (Pkt.planned p s.cellar) s := rfl

theorem Pkt.planned_idx (p : PktId) (m : Cellar) (k : Pkt) : (k.planned p m).idx = k.idx := by
  unfold Pkt.planned
  split
  · split <;> rfl
  · rfl

theorem Pkt.planned_work {p : PktId} {m : Cellar} {k : Pkt} {a cnt next : Nat} (work : k.work = .plan a cnt next) :
    (k.planned p m).work = planLeft p a cnt next m := by
  have ended : (decide (cnt ≤ next) && !(m.active.any fun e => decide (e.2.1 = p))) = true ↔ cnt ≤ next ∧ ∀ y ∈ m.active, y.2.1 ≠ p := by
    rw [Bool.and_eq_true, Bool.not_eq_true', List.any_eq_false, decide_eq_true_iff]
    simp only [decide_eq_true_eq, ne_eq]
  simp only [Pkt.planned, work, planLeft, ended]
  split
  · rfl
  · exact work

theorem planDone_work {p : PktId} {a cnt next : Nat} {s : State} (has : PktHas p (fun y => y.work = .plan a cnt next) s) :
    (findPkt p (planDone p s)).map Pkt.work = some (planLeft p a cnt next s.cellar) := by
  obtain ⟨y, found, work⟩ := has
  rw [planDone_eq, findPkt_modPkt _ _ _ (Pkt.planned_idx p s.cellar), found, Option.map_some, Option.map_some, Pkt.planned_work work]

/-- The state in which an entry that completes is no longer in progress, its packet told but not yet its plan (R117, R358, R504). -/
def entryTold (c status a : Nat) (p : PktId) (e : List Byte) (s : State) : State :=
  let s := dramStore a (patchAt 16 (leBytes 4 (entryResult c status s)) (e.take 32)) s
  let s := if 2 ≤ status then pktFlag 29 (some p) s else s
  ringProgress (some p) { s with cellar := s.cellar.without c p }

theorem endEntry_eq (c status a : Nat) (p : PktId) (e : List Byte) (s : State) :
    endEntry c status a p e s = planDone p (entryTold c status a p e s) := rfl

theorem entryTold_spec (c status a : Nat) (p : PktId) (e : List Byte) (s : State) :
    (entryTold c status a p e s).cellar = s.cellar.without c p ∧
    ∀ Q : Pkt → Prop, (∀ k n, Q k → Q { k with flags := n }) → PktsKept Q s (entryTold c status a p e s) := by
  have written := dramStore_fetches a (patchAt 16 (leBytes 4 (entryResult c status s)) (e.take 32)) s
  unfold entryTold
  simp only
  generalize dramStore a (patchAt 16 (leBytes 4 (entryResult c status s)) (e.take 32)) s = x at *
  have flagged : onlyIn [.rings] x (if 2 ≤ status then pktFlag 29 (some p) x else x) := onlyIn_ite (pktFlag_onlyIn ..)
  have flagKept : ∀ Q : Pkt → Prop, (∀ k n, Q k → Q { k with flags := n }) →
      PktsKept Q x (if 2 ≤ status then pktFlag 29 (some p) x else x) := fun Q flags => by
    split
    · exact pktsKept_pktFlag flags _ _ x
    · exact pktsKept_refl x
  generalize (if 2 ≤ status then pktFlag 29 (some p) x else x) = y at *
  have ended := cellar_onlyIn (y.cellar.without c p) y
  have told := ringProgress_onlyIn (some p) { y with cellar := y.cellar.without c p }
  refine ⟨?_, fun Q flags => ?_⟩
  · exact (told.same .cellar (by decide)).trans (congrArg (Cellar.without c p) ((written.andThen flagged).same .cellar (by decide)))
  · exact pktsKept_trans (pktsKept_of_onlyIn written (by decide)) (pktsKept_trans (flagKept Q flags)
      (pktsKept_trans (pktsKept_of_onlyIn ended (by decide)) (pktsKept_ringProgress (some p) _)))

theorem Cellar.without_idle {c : Nat} {p : PktId} {s : State} (idle : activeEntry c s = none) : s.cellar.without c p = s.cellar := by
  have all : s.cellar.active.filter (fun x => decide (x.1 ≠ c ∨ x.2.1 ≠ p)) = s.cellar.active := by
    refine List.filter_eq_self.mpr fun x hx => decide_eq_true (.inl fun e => ?_)
    exact List.find?_eq_none.mp idle x hx (by simp [e])
  rw [Cellar.without, all]

/-! ### What becomes of an entry -/

section outcome
variable {n : RingId} {i : Index} {a cnt k : Nat} {x : Pkt} {s : State} (found : findPkt ⟨n, i⟩ s = some x) {e : List Byte} {u : State}
  (read : readDram (a + 32 * k) 32 (some ⟨n, i⟩) (planAdvanced ⟨n, i⟩ a cnt k s) = (.ok e, u))
include found read

/-- What reading an entry leaves: nothing changed but its plan's place and what the read's events do (R117). -/
theorem entryRead_spec : onlyIn eventParts s u ∧ PktHas ⟨n, i⟩ (fun y => y.work = .plan a cnt (k + 1)) u := by
  have fetched := readDram_fetches read
  refine ⟨onlyIn_mono ((planAdvanced_onlyIn ..).andThen fetched) (by decide), ?_⟩
  exact (planAdvanced_work found a cnt k).kept (pktsKept_of_onlyIn fetched (by decide))

/-- An ill-formed entry completes with status 8 (R119, R120). -/
theorem rackChecks_illFormed (bad : entryFormed e u = false) (idle : activeEntry (leAt 8 2 e) s = none) :
    onlyIn (.cellar :: eventParts) s (rackChecks (a + 32 * k) ⟨n, i⟩ e u) ∧ (rackChecks (a + 32 * k) ⟨n, i⟩ e u).cellar = s.cellar ∧
      (findPkt ⟨n, i⟩ (rackChecks (a + 32 * k) ⟨n, i⟩ e u)).map Pkt.work = some (planLeft ⟨n, i⟩ a cnt (k + 1) s.cellar) := by
  obtain ⟨before, plan⟩ := entryRead_spec found read
  have cellar : u.cellar = s.cellar := before.same .cellar (by decide)
  have ends : rackChecks (a + 32 * k) ⟨n, i⟩ e u = endEntry (leAt 8 2 e) 8 (a + 32 * k) ⟨n, i⟩ e u := by simp [rackChecks, bad]
  have gone : u.cellar.without (leAt 8 2 e) ⟨n, i⟩ = s.cellar := by rw [cellar, Cellar.without_idle idle]
  obtain ⟨frame, ended⟩ := endEntry_spec (leAt 8 2 e) 8 (a + 32 * k) ⟨n, i⟩ e u
  obtain ⟨told, kept⟩ := entryTold_spec (leAt 8 2 e) 8 (a + 32 * k) ⟨n, i⟩ e u
  rw [ends]
  refine ⟨onlyIn_mono (before.andThen frame) (by decide), ended.trans gone, ?_⟩
  rw [endEntry_eq, planDone_work (plan.kept (kept _ fun _ _ => id)), told, gone]

/-- An entry that passes its checks joins the rackings in progress (R119 to R122, R154). -/
theorem rackChecks_starts {src : List Byte} {w : State} (formed : entryFormed e u = true) (fits : shadowFits (leAt 8 2 e) u = true)
    (source : readDram (leAt 0 8 e) 0x40000 (some ⟨n, i⟩) u = (.ok src, w))
    (limit : ∀ v ∈ sourceWeights (decide (byteAt 10 e = 1)) src, v.natAbs ≤ if byteAt 10 e = 1 then 15 else 255)
    (fresh : (getCask (leAt 8 2 e) s).cycles8 < 80000) (idle : activeEntry (leAt 8 2 e) s = none)
    (on : domainIsOff (rackDomain (leAt 8 2 e / 16)) s = false) (always : byteAt 11 e % 2 = 0) :
    onlyIn (.casks :: .ledger :: .cellar :: eventParts) s (rackChecks (a + 32 * k) ⟨n, i⟩ e u) ∧
      otherCasks (leAt 8 2 e) s (rackChecks (a + 32 * k) ⟨n, i⟩ e u) ∧
      (rackChecks (a + 32 * k) ⟨n, i⟩ e u).cellar =
        { s.cellar with active := s.cellar.active ++ [(leAt 8 2 e, ⟨n, i⟩, a + 32 * k, e ++ src)] } ∧
      (leAt 8 2 e ∈ (rackChecks (a + 32 * k) ⟨n, i⟩ e u).ledger.vppQueue ∨ leAt 8 2 e ∈ (rackChecks (a + 32 * k) ⟨n, i⟩ e u).ledger.vppHeld) ∧
      (findPkt ⟨n, i⟩ (rackChecks (a + 32 * k) ⟨n, i⟩ e u)).map Pkt.work = some (.plan a cnt (k + 1)) := by
  obtain ⟨before, plan⟩ := entryRead_spec found read
  have fetched := readDram_fetches source
  have both : onlyIn eventParts s w := onlyIn_mono (before.andThen fetched) (by decide)
  have cellar : w.cellar = s.cellar := both.same .cellar (by decide)
  have off : domainIsOff (rackDomain (leAt 8 2 e / 16)) w = false := by
    rw [domainIsOff, both.same .pm (by decide)]
    exact on
  have starts : rackChecks (a + 32 * k) ⟨n, i⟩ e u = rackStarted (leAt 8 2 e) (a + 32 * k) ⟨n, i⟩ e src w := by
    simp only [rackChecks, formed, fits, source, Bool.not_true, Bool.false_eq_true, if_false]
    exact rackSource_starts limit (by rw [getCask_congr (both.same .casks (by decide))]; exact fresh)
      (by rw [activeEntry_congr (congrArg Cellar.active cellar)]; exact idle) off always
  obtain ⟨frame, others, joined, queued, kept⟩ := rackStarted_spec (leAt 8 2 e) (a + 32 * k) ⟨n, i⟩ e src w
  rw [starts]
  refine ⟨onlyIn_mono (both.andThen frame) (by decide), otherCasks_trans (otherCasks_of_onlyIn both (by decide)) others, by rw [joined, cellar],
    queued, pktHas_work_iff.mp ((plan.kept (pktsKept_of_onlyIn fetched (by decide))).kept (kept _ fun y cs work top => ?_))⟩
  rw [work] at top
  cases top

end outcome

end Sys2Proof.Machine
end

section
/-! SUPPORT. The statement on racking, clause by clause (R110, R117 to R127, R131, R132, R145, R155). -/

namespace Sys2Proof.Machine

/-! ### Cycles of a racking -/

/-- The levels that a plan entry with its source has its cask programmed to (R119). -/
def entryRows (e : List Byte) : LevelRows := levelRows (decide (byteAt 10 e = 1)) (sourceWeights (decide (byteAt 10 e = 1)) (e.drop 32))

theorem entryRows_length (e : List Byte) : (entryRows e).length = 512 := piecesOf_length ..

/-- The first pulse of a row reaches every cell that is to conduct (R124). -/
theorem opened_below {p : Prog} (fresh : p.reading = false) (target : Nat → Nat) :
    (p.opened target).below.map (·.1) = p.cells.filter fun x => decide (0 < target x) := by
  simp only [Prog.opened, fresh, Bool.false_eq_true, if_false, List.map_map, Function.comp_def, List.map_id']

theorem aboveWindow_iff (level : Nat) (v : Int) :
    aboveWindow level v = true ↔ if level = 0 then 10 < v else (1000 * level - 50 : Int) < v := by
  unfold aboveWindow
  split <;> exact decide_eq_true_iff

/-- A cycle that leaves its cask with a verify read posted, and nothing else changed. -/
structure RackPosted (c : Nat) (p : Prog) (s u : State) : Prop where
  frame : onlyIn [.casks] s u
  others : otherCasks c s u
  own : getCask c u = (getCask c s).verifying (homeWindow c s) s.now p

section program
variable {c : CaskId} {s : State} {y at' : Nat} {q : PktId} {e : List Byte} (active : activeEntry c.val s = some (y, q, at', e))
  (hold : (getCask c.val s).hold = some .racking) (may : mayProgram c.val s = true)
include active hold may

/-- What the first cycle of a racking leaves: the cask erased and incomplete, the first row pulsed wherever it is to conduct. -/
structure RackBegun (c : Nat) (rows : LevelRows) (s u : State) : Prop where
  frame : onlyIn rackParts s u
  others : otherCasks c s u
  own : (getCask c u).hold = some .racking ∧ (getCask c u).racked = false ∧ (getCask c u).incomplete = true ∧ (getCask c u).levels = [] ∧
    (getCask c u).posted = some ⟨verifyReq 0, homeWindow c s, 0, s.now, none⟩
  first : ∃ p, (getCask c u).prog = some p ∧ p.kind = .rack ∧ p.row = 0 ∧ p.cycles = 1 ∧ p.second = false ∧
    p.below.map (·.1) = (List.range 1064).filter fun x => decide (0 < cellTarget [] (nthD [] 0 rows) x)
  active : u.cellar.active = s.cellar.active

theorem caskProgram_begins (fresh : (getCask c.val s).prog = none) (reads : List (Nat × Int)) :
    ∃ u, exec (.caskProgram c reads) s = .next u ∧ RackBegun c.val (entryRows e) s u := by
  have run : exec (.caskProgram c reads) s =
      .next (progPulse c.val Plan.empty.remap (entryRows e) (Prog.start .rack) (startRacking c.val s)) := by
    rw [caskProgram_programs active hold may reads (progFits_of_none fresh)]
    simp only [programCask, fresh]
    exact congrArg Host.Outcome.next (rackingCycle_pulses rfl (Nat.zero_lt_succ _))
  obtain ⟨starts, others, cellar, ledger, gen, own⟩ := startRacking_spec c.val s
  obtain ⟨pulses, rest, posted⟩ := progPulse_verifies c.val Plan.empty.remap (entryRows e) (Prog.start .rack) (startRacking c.val s)
  have home : homeWindow c.val (startRacking c.val s) = homeWindow c.val s := by rw [homeWindow, ledger, homeWindow]
  rw [home, starts.same .clock (by decide), own] at posted
  refine ⟨_, run, onlyIn_mono (starts.andThen pulses) (by decide), otherCasks_trans others rest, ?_, ⟨_, by rw [posted]; rfl, rfl, rfl, rfl, rfl, ?_⟩, ?_⟩
  · rw [posted]
    exact ⟨rfl, rfl, rfl, rfl, rfl⟩
  · rw [opened_below rfl, rack_targets rfl, rack_cells rfl]
    rfl
  · rw [pulses.same .cellar (by decide), cellar]

variable {p : Prog} (prog : (getCask c.val s).prog = some p) (unfitted : p.fit = false)
include prog unfitted

/-- A cycle whose verify read calls for a pulse on a row (R124, R125). -/
theorem caskProgram_posts {reads : List (Nat × Int)} {r : Prog} (inside : p.overConducts reads = false)
    (judged : p.judge (maxPulses s) Plan.empty.remap (entryRows e) reads = r) (left : r.row < 512) :
    ∃ u, exec (.caskProgram c reads) s = .next u ∧ RackPosted c.val (r.opened (r.targets Plan.empty.remap (entryRows e))) s u := by
  have run := caskProgram_cycle active hold may reads prog unfitted inside
  rw [show levelRows _ _ = entryRows e from rfl, rackingCycle_pulses judged left] at run
  obtain ⟨frame, others, own⟩ := progPulse_verifies c.val Plan.empty.remap (entryRows e) r s
  exact ⟨_, run, frame, others, own⟩

variable (row : RackRow p)
include row

/-- A row inside its windows goes on to the next (R124, R125). -/
theorem caskProgram_nextRow (left : p.row < 511) : ∃ u p', exec (.caskProgram c []) s = .next u ∧ RackPosted c.val p' s u ∧
    p'.row = p.row + 1 ∧ p'.cycles = 1 ∧ p'.second = false ∧ p'.fails = p.fails ∧ p'.pulses = p.pulses ++ [p.cycles] := by
  have kind := row.kind
  obtain ⟨u, run, posted⟩ := caskProgram_posts active hold may prog unfitted (by simp [Prog.overConducts])
    (row.judge_passes (maxPulses s) (entryRows e)) (Nat.succ_lt_succ left)
  refine ⟨u, _, run, posted, ?_⟩
  simp [Prog.opened, Prog.rowPassed, Prog.fresh, kind]

variable {x : Nat} {v : Int} (inRow : x < 1064)
include inRow

/-- A cell below its window is pulsed again up to the limit (R123, R124). -/
theorem caskProgram_pulses (one : (p.below.filter fun e => decide (e.1 = x)).length = 1)
    (conducts : 0 < cellTarget [] (nthD [] p.row (entryRows e)) x) (below : v < 1000 * cellTarget [] (nthD [] p.row (entryRows e)) x - 150)
    (safe : v ≤ 15500) (left : p.cycles < maxPulses s) (inCask : p.row < 512) : ∃ u, exec (.caskProgram c [(x, v)]) s = .next u ∧
      RackPosted c.val { p with cycles := p.cycles + 1, below := [(x, v)] } s u := by
  have inside : p.overConducts [(x, v)] = false := by
    refine Bool.eq_false_iff.mpr fun h => ?_
    have := ((row.overConducts_iff inRow).mp h).2
    omega
  obtain ⟨u, run, posted⟩ := caskProgram_posts active hold may prog unfitted inside
    (row.judge_pulses (maxPulses s) (entryRows e) inRow one conducts below left) inCask
  rw [Prog.opened, if_pos row.reading] at posted
  exact ⟨u, run, posted⟩

/-- A cell above its window calls for the row's second attempt (R123, R125). -/
theorem caskProgram_again (first : p.second = false) (high : aboveWindow (cellTarget [] (nthD [] p.row (entryRows e)) x) v = true)
    (inCask : p.row < 512) : ∃ u p', exec (.caskProgram c [(x, v)]) s = .next u ∧ RackPosted c.val p' s u ∧
      p'.row = p.row ∧ p'.second = true ∧ p'.cycles = 1 ∧ p'.above = [] ∧ p'.fails = p.fails ∧ p'.pulses = p.pulses := by
  have kind := row.kind
  have inside : p.overConducts [(x, v)] = false := by
    refine Bool.eq_false_iff.mpr fun h => ?_
    have second := ((row.overConducts_iff inRow).mp h).1
    rw [first] at second
    cases second
  obtain ⟨u, run, posted⟩ := caskProgram_posts active hold may prog unfitted inside
    (row.judge_again (maxPulses s) (entryRows e) inRow first high) inCask
  refine ⟨u, _, run, posted, ?_⟩
  simp [Prog.opened, Prog.again, Prog.fresh, kind]

omit inRow in
/-- After its last row, with no cell given up, the cask is racked and read for its fit (R126, R127, R131, R132). -/
theorem caskProgram_lastRow (last : p.row = 511) (clean : p.fails = []) : ∃ u, exec (.caskProgram c []) s = .next u ∧
    RowsRacked c.val (decide (byteAt 10 e = 1)) (entryRows e) s u := by
  have done : 512 ≤ p.rowPassed.row := by
    show 512 ≤ p.row + 1
    omega
  have run := caskProgram_cycle active hold may [] prog unfitted (by simp [Prog.overConducts])
  rw [show levelRows _ _ = entryRows e from rfl,
    rackingCycle_ends (p := p.rowPassed) row.kind clean (row.judge_passes (maxPulses s) (entryRows e)) done] at run
  exact ⟨_, run, endRows_racks may (decide (byteAt 10 e = 1)) (entryRows e) (p := p.rowPassed) clean⟩

end program

/-- The statement's window is one of naturals: below it, so is the value as an integer. -/
theorem belowWindow_cast {v l : Nat} (low : v < 1000 * l - 150) : (v : Int) < 1000 * l - 150 := by omega

/-- Settles O26: a plan entry's checks, the cycles of a racking's rows, and the fit that ends it. -/
theorem rackingPlansProgramTheirCasks : Obligations.RackingPlansProgramTheirCasks := by
  unfold Obligations.RackingPlansProgramTheirCasks
  refine ⟨fun n i a cnt k x e s u => ?_, fun c y q at' e s => ?_, fun c id a b s => ?_⟩
  · intro p c s1 found plan more running goes read
    have run := rackEntry_checks found plan more running goes read
    refine ⟨fun src w formed fits source limit fresh idle on always => ⟨_, run, ?_⟩, fun bad idle => ⟨_, run, ?_⟩⟩
    · exact rackChecks_starts found read formed fits source limit fresh idle on always
    · exact rackChecks_illFormed found read bad idle
  · refine fun active hold may => ⟨fun fresh reads => ?_, fun p prog kind unfitted reading above => ?_⟩
    · obtain ⟨u, run, begun⟩ := caskProgram_begins active hold may fresh reads
      obtain ⟨held, unracked, incomplete, levels, posted⟩ := begun.own
      exact ⟨u, run, begun.frame, begun.others, held, unracked, incomplete, levels, posted, begun.first, begun.active⟩
    · have row : RackRow p := ⟨kind, reading, above⟩
      refine ⟨fun left => ⟨?_, ?_, ?_, ?_⟩, fun last clean => ?_⟩
      · obtain ⟨u, p', run, posted, next, cycles, second, fails, pulses⟩ := caskProgram_nextRow active hold may prog unfitted row left
        exact ⟨u, run, posted.frame, posted.others, by rw [posted.own, ← next]; rfl, p', by rw [posted.own]; rfl, next, cycles, second, fails, pulses⟩
      · intro x v one inRow conducts below safe cycles
        obtain ⟨u, run, posted⟩ :=
          caskProgram_pulses (x := x) (v := v) active hold may prog unfitted row inRow one conducts (belowWindow_cast below)
            (Int.ofNat_le.mpr safe) cycles (Nat.lt_succ_of_lt left)
        exact ⟨u, run, posted.frame, posted.others, posted.own⟩
      · intro x v inRow first high
        have outside := (aboveWindow_iff _ v).mpr high
        obtain ⟨u, p', run, posted, same, second, cycles, none, fails, pulses⟩ :=
          caskProgram_again active hold may prog unfitted row inRow first outside (Nat.lt_succ_of_lt left)
        exact ⟨u, run, posted.frame, posted.others, by rw [posted.own, ← same]; rfl, p', by rw [posted.own]; rfl, same, second, cycles, none, fails, pulses⟩
      · intro x v inRow second high
        have run := caskProgram_ends active hold may [(x, v)] prog unfitted ((row.overConducts_iff inRow).mpr ⟨second, high⟩)
        obtain ⟨frame, ended, gen, own⟩ := endErased_spec (status := 5) active
        exact ⟨_, run, frame, by rw [own]; rfl, by rw [own]; rfl, by rw [own], by rw [own], ended⟩
      · obtain ⟨u, run, racked⟩ := caskProgram_lastRow active hold may prog unfitted row last clean
        obtain ⟨isRacked, incomplete, shadow, digest, levels, cycles, held⟩ := racked.own
        exact ⟨u, run, racked.frame, racked.others, isRacked, incomplete, shadow, digest, levels, cycles, held.trans hold, racked.mode, racked.words,
          fun i hi => racked.table i (by rw [entryRows_length]; exact hi), racked.sent, racked.reads, racked.fits,
          racked.active⟩
  · refine fun active hold fits ended noInc reads => ?_
    obtain ⟨frame, ⟨refA, refB, refA0, refB0, fitted, prog, held, incomplete⟩, waits, folds⟩ := endRacked_spec c.val id a b s
    exact ⟨_, caskProgram_fits active hold fits ended noInc reads, frame, refA, refB, refA0, refB0, fitted, prog, held.trans hold, incomplete, waits, folds⟩

end Sys2Proof.Machine
end

section
/-! SUPPORT. What an abort and the reset of an engine leave as it was (R134, R407, R508 to R511). -/

namespace Sys2Proof.Machine

/-- A packet that has been aborted: its work is over, with ABORTED or a code above it (R511). -/
def Pkt.Aborted (k : Pkt) : Prop := 8 ≤ k.code ∧ k.work = .done

/-- A cask in reset, with no operation of its own (R510). -/
def Cask.Cleared (k : Cask) : Prop := k.inReset = true ∧ k.queue = [] ∧ k.running = []

/-- A part of an abort or of an engine's reset: of recovery only the slices to write back change; casks that are cleared stay cleared and
aborted packets stay aborted. -/
structure ResetStep (s u : State) : Prop where
  now : u.now = s.now
  hang : u.hang = { s.hang with flush := u.hang.flush }
  cleared : ∀ c, (getCask c s).Cleared → (getCask c u).Cleared
  aborted : PktsKept Pkt.Aborted s u

theorem resetStep_trans {s u v : State} (h : ResetStep s u) (k : ResetStep u v) : ResetStep s v where
  now := k.now.trans h.now
  hang := by rw [k.hang, h.hang]
  cleared c hc := k.cleared c (h.cleared c hc)
  aborted := pktsKept_trans h.aborted k.aborted

theorem resetStep_of_same {s u : State} (now : u.now = s.now) (hang : u.hang = s.hang) (casks : u.casks = s.casks)
    (rings : u.rings = s.rings) : ResetStep s u where
  now := now
  hang := by rw [hang]
  cleared c hc := by rwa [getCask_congr casks]
  aborted := pktsKept_of_rings rings

theorem resetStep_refl (s : State) : ResetStep s s := resetStep_of_same rfl rfl rfl rfl

theorem resetStep_of_onlyIn {ps : List Part} {s u : State} (h : onlyIn ps s u)
    (apart : ∀ p ∈ [Part.clock, .hang, .casks, .rings], p ∉ ps) : ResetStep s u :=
  resetStep_of_same (h.same .clock (apart _ (by decide))) (h.same .hang (apart _ (by decide))) (h.same .casks (apart _ (by decide)))
    (h.same .rings (apart _ (by decide)))

/-- Packets aside, a step that leaves the casks. -/
theorem resetStep_of_pkts {ps : List Part} {s u : State} (h : onlyIn ps s u) (pkts : PktsKept Pkt.Aborted s u)
    (apart : ∀ p ∈ [Part.clock, .hang, .casks], p ∉ ps) : ResetStep s u where
  now := h.same .clock (apart _ (by decide))
  hang := by rw [h.same .hang (apart _ (by decide))]
  cleared c hc := by rwa [getCask_congr (h.same .casks (apart _ (by decide)))]
  aborted := pkts

/-- A step of one cask. -/
theorem resetStep_of_cask {ps : List Part} {c : Nat} {s u : State} (h : onlyIn ps s u) (others : otherCasks c s u)
    (own : (getCask c s).Cleared → (getCask c u).Cleared) (apart : ∀ p ∈ [Part.clock, .hang, .rings], p ∉ ps) : ResetStep s u where
  now := h.same .clock (apart _ (by decide))
  hang := by rw [h.same .hang (apart _ (by decide))]
  cleared d hd := by
    by_cases e : d = c
    · subst e
      exact own hd
    · rwa [getCask_of_otherCasks others e]
  aborted := pktsKept_of_rings (h.same .rings (apart _ (by decide)))

theorem resetStep_foldl {α : Type} (f : State → α → State) (h : ∀ s x, ResetStep s (f s x)) (l : List α) (s : State) :
    ResetStep s (l.foldl f s) :=
  List.foldlRecOn l f (resetStep_refl s) fun u hu x _ => resetStep_trans hu (h u x)

theorem resetStep_ite {p : Prop} [Decidable p] {s u v : State} (h : ResetStep s u) (k : ResetStep s v) :
    ResetStep s (if p then u else v) := by
  split
  · exact h
  · exact k

theorem resetStep_modCask (c : Nat) (f : Cask → Cask) (own : ∀ k, k.Cleared → (f k).Cleared) (s : State) : ResetStep s (modCask c f s) :=
  resetStep_of_cask (modCask_onlyIn ..) (otherCasks_modCask c f s) (fun h => by rw [getCask_modCask]; exact own _ h) (by decide)

theorem resetStep_raiseEvent (code unit aux detail : Nat) (p : Option PktId) (s : State) :
    ResetStep s (raiseEvent code unit aux detail p s) :=
  resetStep_of_pkts (raiseEvent_onlyIn ..) (pktsKept_raiseEvent (Q := Pkt.Aborted) (fun _ _ h => h) code unit aux detail p s) (by decide)

theorem resetStep_cfgEvent (b : CfgBlock) (unit off : Nat) (s : State) : ResetStep s (cfgEvent b unit off s) := by
  cases b with
  | none => exact resetStep_refl s
  | _ => exact resetStep_raiseEvent ..

/-! ### Aborts (R511, R513, R514) -/

theorem dropSlot_onlyIn (s : State) (x : Nat × Nat) : onlyIn [.racks, .opNames] s (dropSlot s x) := by
  unfold dropSlot acceptDrain acceptStaged
  refine onlyIn_either ?_ (onlyIn_mono (modRack_onlyIn ..) (by decide))
  exact onlyIn_mono (((modSlot_onlyIn ..).andThen (modRack_onlyIn ..)).andThen (nextOp_onlyIn ..)) (by decide)

/-- Cancelling a packet's work on engines changes no cask and no ring (R514). -/
theorem cancelWork_casksRings (p : PktId) (s : State) : (cancelWork p s).now = s.now ∧ (cancelWork p s).hang = s.hang ∧
    (cancelWork p s).casks = s.casks ∧ (cancelWork p s).rings = s.rings := by
  have drops : onlyIn [.racks, .opNames] s (dropSlots p s) := onlyIn_foldl _ dropSlot_onlyIn _ s
  exact ⟨drops.same .clock (by decide), drops.same .hang (by decide), drops.same .casks (by decide), drops.same .rings (by decide)⟩

theorem abortPkt_casks (p : PktId) (s : State) : (abortPkt p s).casks = s.casks := (cancelWork_casksRings p s).2.2.1

section kept
variable {Q : Pkt → Prop} (codes : ∀ k n, Q k → Q { k with code := max k.code n }) (works : ∀ k, Q k → Q { k with work := .done })
include codes works

/-- An abort keeps what a packet's code and work may change. -/
theorem pktsKept_abortPkt (p : PktId) (s : State) : PktsKept Q s (abortPkt p s) := by
  obtain ⟨-, -, -, rings⟩ := cancelWork_casksRings p s
  have coded : PktsKept Q (cancelWork p s) (pktCode 8 (some p) (cancelWork p s)) :=
    pktsKept_modPkt (f := fun k => { k with code := max k.code 8 }) p (fun _ => rfl) (fun k => codes k 8) _
  have worked := pktsKept_modPkt (f := fun k => { k with work := .done }) p (fun _ => rfl) works (pktCode 8 (some p) (cancelWork p s))
  exact pktsKept_trans (pktsKept_of_rings rings) (pktsKept_trans coded worked)

end kept

theorem Pkt.Aborted.code {k : Pkt} (h : k.Aborted) (n : Nat) : Pkt.Aborted { k with code := max k.code n } :=
  ⟨Nat.le_trans h.1 (Nat.le_max_left ..), h.2⟩

theorem resetStep_abortPkt (p : PktId) (s : State) : ResetStep s (abortPkt p s) := by
  obtain ⟨now, hang, casks, -⟩ := cancelWork_casksRings p s
  have pkts := pktsKept_abortPkt (Q := Pkt.Aborted) (fun k n h => h.code n) (fun k h => ⟨h.1, rfl⟩) p s
  exact ⟨now, by rw [show (abortPkt p s).hang = s.hang from hang], fun c hc => by rwa [getCask_congr (abortPkt_casks p s)], pkts⟩

/-- A packet in flight that is aborted completes with ABORTED (R511). -/
theorem abortPkt_aborts {p : PktId} {s : State} (there : PktHas p (fun _ => True) s) : PktHas p Pkt.Aborted (abortPkt p s) := by
  obtain ⟨x, found, -⟩ := there
  obtain ⟨-, -, -, rings⟩ := cancelWork_casksRings p s
  have before : findPkt p (cancelWork p s) = some x := by rw [findPkt, getRing_congr rings, ← findPkt, found]
  have after : findPkt p (abortPkt p s) = some { x with code := max x.code 8, work := .done } := by
    rw [abortPkt, pktCode, modPktOf, findPkt_modPkt _ (fun k => { k with work := .done }) _ (fun _ => rfl),
      findPkt_modPkt _ (fun k => { k with code := max k.code 8 }) _ (fun _ => rfl), before]
    rfl
  exact ⟨_, after, Nat.le_max_right .., rfl⟩

/-- A packet that has started and is not complete is in flight. -/
theorem mem_allFlying {p : PktId} {x : Pkt} {s : State} (found : findPkt p s = some x) (runs : x.complete = false) : p ∈ allFlying s := by
  obtain ⟨r, hr⟩ : ∃ r, Store.find p.ring.val s.rings = some r := by
    rw [← Option.ne_none_iff_exists']
    intro none
    rw [findPkt, getRing, Store.getD, none] at found
    cases found
  have ring : getRing p.ring.val s = r := by rw [getRing, Store.getD, hr, Option.getD_some]
  rw [findPkt, ring] at found
  have idx : x.idx = p.idx := by simpa using List.find?_some found
  refine List.mem_flatMap.mpr ⟨_, Store.find_mem _ hr, List.mem_map.mpr ⟨x, ?_, ?_⟩⟩
  · exact List.mem_filter.mpr ⟨List.mem_of_find?_eq_some found, by simp [runs]⟩
  · have place : p.ring.val % 65536 = p.ring.val := Nat.mod_eq_of_lt p.ring.isLt
    simp [place, idx]

theorem resetStep_abortOn (e : Engine) (s : State) : ResetStep s (abortOn e s) :=
  resetStep_foldl (fun s p => abortPkt p s) (fun s p => resetStep_abortPkt p s) _ s

/-- A host's reset of an engine aborts the packets that have work on it (R511). -/
theorem abortOn_aborts {e : Engine} {p : PktId} {x : Pkt} {s : State} (found : findPkt p s = some x) (runs : x.complete = false)
    (uses : engineHas e p s = true) : PktHas p Pkt.Aborted (abortOn e s) := by
  have listed : p ∈ (allFlying s).filter fun p => engineHas e p s := List.mem_filter.mpr ⟨mem_allFlying found runs, uses⟩
  refine foldl_reaches (f := fun s p => abortPkt p s) (I := PktHas p fun _ => True) (P := PktHas p Pkt.Aborted) ?_ ?_ ?_ listed
    ⟨x, found, trivial⟩
  · exact fun u q _ there => there.kept (pktsKept_abortPkt (fun _ _ _ => trivial) (fun _ _ => trivial) q u)
  · exact fun u there => abortPkt_aborts there
  · exact fun u q has => has.kept (resetStep_abortPkt q u).aborted

end Sys2Proof.Machine
end

section
/-! SUPPORT. The resets of casks, racks and quadrants (R80, R81, R134, R154, R407, R408, R508, R510). -/

namespace Sys2Proof.Machine

/-! ### What was under way on a cask (R134, R154, R510) -/

theorem Cask.Cleared.erased {k : Cask} (h : k.Cleared) (gen : Nat) : (k.erased gen).Cleared := h

theorem resetStep_topUpOver (c : Nat) (s : State) : ResetStep s (topUpOver c s) :=
  resetStep_of_pkts (topUpOver_onlyIn c s)
    (pktsKept_topUpOver (fun k cs h work => by rw [h.2] at work; cases work) c s) (by decide)

theorem resetStep_eraseIncomplete (c : Nat) (s : State) : ResetStep s (eraseIncomplete c s) := by
  obtain ⟨frame, others, gen, erased⟩ := eraseCask_spec c s
  unfold eraseIncomplete
  refine resetStep_ite (resetStep_trans (resetStep_of_cask frame others (fun h => ?_) (by decide))
    (resetStep_of_onlyIn (newDigest_onlyIn _) (by decide))) (resetStep_refl s)
  rw [erased]
  exact h.erased gen

theorem Pkt.planned_aborted (p : PktId) (m : Cellar) {k : Pkt} (h : k.Aborted) : (k.planned p m).Aborted := by
  rw [Pkt.planned, h.2]
  exact h

theorem resetStep_endEntry (c status a : Nat) (p : PktId) (e : List Byte) (s : State) : ResetStep s (endEntry c status a p e s) := by
  obtain ⟨-, told⟩ := entryTold_spec c status a p e s
  have frame := (endEntry_spec c status a p e s).1
  have kept := told Pkt.Aborted fun _ _ h => h
  rw [endEntry_eq] at frame ⊢
  generalize entryTold c status a p e s = u at *
  refine resetStep_of_pkts frame (pktsKept_trans kept ?_) (by decide)
  rw [planDone_eq]
  exact pktsKept_modPkt (Q := Pkt.Aborted) (f := Pkt.planned p u.cellar) p (Pkt.planned_idx p _) (fun _ => Pkt.planned_aborted p _) u

theorem resetStep_endRacking (c status : Nat) (s : State) : ResetStep s (endRacking c status s) := by
  unfold endRacking
  split
  · exact resetStep_trans (resetStep_modCask c (fun k => { k with hold := none, prog := none }) (fun _ h => h) s) (resetStep_endEntry ..)
  · exact resetStep_refl s

theorem resetStep_vppAsk (c : Nat) (s : State) : ResetStep s (vppAsk c s) := resetStep_of_onlyIn (vppAsk_spec c s).1 (by decide)

theorem resetStep_interruptRacking (c : Nat) (s : State) : ResetStep s (interruptRacking c s) := by
  unfold interruptRacking
  have waits : ResetStep s { s with quant := { s.quant with rackWait := s.quant.rackWait.filter (· ≠ c) } } := resetStep_of_same rfl rfl rfl rfl
  exact resetStep_trans waits (resetStep_trans (resetStep_eraseIncomplete c _) (resetStep_endRacking c 7 _))

theorem resetStep_interrupt (c : Nat) (s : State) : ResetStep s (interrupt c s) := by
  have frees : ResetStep s (if (activeEntry c s).isSome && !decide ((getCask c s).hold = some .racking) then s else vppFree c s) :=
    resetStep_ite (resetStep_refl s) (resetStep_of_same rfl rfl rfl rfl)
  unfold interrupt
  simp only
  generalize (if (activeEntry c s).isSome && !decide ((getCask c s).hold = some .racking) then s else vppFree c s) = u at *
  refine resetStep_trans frees ?_
  split
  · exact resetStep_interruptRacking c u
  · exact resetStep_of_same rfl rfl rfl rfl
  · exact resetStep_vppAsk c u
  · next h _ _ _ _ =>
    have released := resetStep_modCask c (fun k => { k with
      hold := none
      prog := none
      thenTop := false
      failed := []
      fitWas := none
      topDue := k.topDue || decide (h = .topping)
      diagDue := k.diagDue || (decide (h = .remap) || decide (h = .topRemap) || decide (h = .diagnosis)) }) (fun _ h => h) u
    exact resetStep_ite (resetStep_trans released (resetStep_topUpOver c _)) released
  · exact resetStep_eraseIncomplete c u

/-! ### A cask's reset (R80, R134, R407, R510) -/

theorem resetStep_remapChecks (c : Nat) (s : State) : ResetStep s (remapChecks c s) := by
  unfold remapChecks
  simp only
  have entries : ResetStep s ((List.range 16).foldl (fun t k =>
      if flagOf 31 (nthD 0 k (remapWords c s)) && decide (514 ≤ fieldOf 9 0 (nthD 0 k (remapWords c s))) then
        cfgEvent .ck c (regOff .CK_REMAP c k) t else t) s) :=
    resetStep_foldl _ (fun t k => resetStep_ite (resetStep_cfgEvent ..) (resetStep_refl t)) _ s
  exact resetStep_ite (resetStep_trans entries (resetStep_of_onlyIn (rput_onlyIn ..) (by decide))) entries

theorem resetStep_reloadCells (c : Nat) (s : State) : ResetStep s (reloadCells c s) := by
  unfold reloadCells
  simp only
  generalize hx : rput .CK_REMAP_COMMIT c 0 15 0 _ _ = x
  have regs : ResetStep s x := by
    rw [← hx]
    exact resetStep_of_onlyIn (((setMap_onlyIn ..).andThen (rset_onlyIn ..)).andThen (rput_onlyIn ..)) (by decide)
  exact resetStep_trans regs (resetStep_trans (resetStep_modCask c (fun k => { k with saving := false }) (fun _ h => h) x)
    (resetStep_remapChecks c _))

theorem dropOp_onlyIn (c : Nat) (s : State) (o : CaskOp) : onlyIn [.racks] s (dropOp c s o) :=
  onlyIn_trans (modRack_onlyIn ..) (onlyIn_foldl _ (fun _ _ => modSlot_onlyIn ..) _ _)

/-- A cask's operations, integrators and requests gone with its reset (R510). -/
def Cask.clearedOps (k : Cask) : Cask :=
  { k with
    inReset := true
    queue := []
    running := []
    waiting := []
    posted := none
    replays := []
    bufA := none
    bufB := none
    intoB := false
    convs := [] }

theorem Cask.clearedOps_cleared (k : Cask) : k.clearedOps.Cleared := ⟨rfl, rfl, rfl⟩

/-- The state in which a cask's window and operations are gone. -/
def opsDropped (c : Nat) (s : State) : State :=
  modCask c Cask.clearedOps { s with ledger := { s.ledger with home := Store.drop c s.ledger.home } }

/-- The rest of a cask's reset. -/
def caskRestored (ops : List CaskOp) (c : Nat) (s : State) : State :=
  reloadCells c (interrupt c (clearRegs (caskBlock c) (caskBlock c + 0x400) (ops.foldl (dropOp c) s)))

theorem caskReset_eq (c : Nat) (s : State) :
    caskReset c s = caskRestored ((getCask c s).queue ++ (getCask c s).running.map (·.op)).eraseDups c (opsDropped c s) := rfl

theorem resetStep_opsDropped (c : Nat) (s : State) : ResetStep s (opsDropped c s) :=
  resetStep_trans (resetStep_of_onlyIn (ledger_onlyIn { s.ledger with home := Store.drop c s.ledger.home } s) (by decide))
    (resetStep_modCask c _ (fun k _ => k.clearedOps_cleared) _)

theorem resetStep_caskRestored (ops : List CaskOp) (c : Nat) (s : State) : ResetStep s (caskRestored ops c s) := by
  have drops : ResetStep s (ops.foldl (dropOp c) s) := resetStep_of_onlyIn (onlyIn_foldl _ (dropOp_onlyIn c) ops s) (by decide)
  unfold caskRestored
  generalize ops.foldl (dropOp c) s = u at *
  have regs : ResetStep u (clearRegs (caskBlock c) (caskBlock c + 0x400) u) := resetStep_of_same rfl rfl rfl rfl
  exact resetStep_trans drops (resetStep_trans regs (resetStep_trans (resetStep_interrupt c _) (resetStep_reloadCells c _)))

theorem resetStep_caskReset (c : Nat) (s : State) : ResetStep s (caskReset c s) := by
  rw [caskReset_eq]
  exact resetStep_trans (resetStep_opsDropped c s) (resetStep_caskRestored _ c _)

theorem caskReset_clears (c : Nat) (s : State) : (getCask c (caskReset c s)).Cleared := by
  rw [caskReset_eq]
  refine (resetStep_caskRestored _ c _).cleared c ?_
  rw [opsDropped, getCask_modCask]
  exact Cask.clearedOps_cleared _

/-! ### The resets of racks and quadrants (R407, R408) -/

/-- Resets of units in turn: what one of them clears stays cleared. -/
theorem foldl_clears {f : State → Nat → State} (steps : ∀ s j, ResetStep s (f s j)) {c j : Nat}
    (clears : ∀ s, (getCask c (f s j)).Cleared) {l : List Nat} (hj : j ∈ l) (s : State) : (getCask c (l.foldl f s)).Cleared :=
  foldl_reaches (f := f) (I := fun _ => True) (P := fun u => (getCask c u).Cleared) (fun _ _ _ _ => trivial) (fun u _ => clears u)
    (fun u i h => (steps u i).cleared c h) hj trivial

theorem resetStep_rackCasks (r : Nat) (s : State) : ResetStep s ((List.range 16).foldl (fun s j => caskReset (16 * r + j) s) s) :=
  resetStep_foldl _ (fun u j => resetStep_caskReset (16 * r + j) u) _ s

/-- What a rack's reset clears but for its casks (R407). -/
def rackCleared (r : Nat) (s : State) : State :=
  let s := clearRegs (0x1000000 + r * 0x10000) (0x1000000 + r * 0x10000 + 0x8000) s
  let s := setRack r { RackSt.init with resetAt := s.now } (clearThreads r (unitBanks r s))
  { s with mem := { s.mem with
    sp := Store.clear (0x80000 * r) (0x80000 * (r + 1)) s.mem.sp
    acc := Store.clear (accKey r 0 0 0) (accKey (r + 1) 0 0 0) s.mem.acc
    spBad := Store.clear (0x4000 * r) (0x4000 * (r + 1)) s.mem.spBad
    accBad := Store.clear (16 * r) (16 * (r + 1)) s.mem.accBad } }

theorem rackReset_eq (r : Nat) (s : State) :
    rackReset r s = rackCleared r ((List.range 16).foldl (fun s j => caskReset (16 * r + j) s) s) := rfl

theorem resetStep_rackCleared (r : Nat) (s : State) : ResetStep s (rackCleared r s) := resetStep_of_same rfl rfl rfl rfl

theorem resetStep_rackReset (r : Nat) (s : State) : ResetStep s (rackReset r s) := by
  rw [rackReset_eq]
  exact resetStep_trans (resetStep_rackCasks r s) (resetStep_rackCleared r _)

theorem rackReset_clears {c r : Nat} (mine : c / 16 = r) (s : State) : (getCask c (rackReset r s)).Cleared := by
  rw [rackReset_eq]
  refine (resetStep_rackCleared r _).cleared c (foldl_clears (fun u j => resetStep_caskReset (16 * r + j) u) (j := c % 16) (fun u => ?_)
    (List.mem_range.mpr (Nat.mod_lt _ (by decide))) s)
  rw [show 16 * r + c % 16 = c by omega]
  exact caskReset_clears c u

theorem flushSlice_onlyIn (q : Nat) (s : State) : onlyIn [.regs, .mem, .armed, .sent, .px] s (flushSlice q s) :=
  onlyIn_foldl _ (fun u l => onlyIn_trans (onlyIn_mono (mem_onlyIn (evictLine l u.mem).1 u) (by decide)) (poisonEvents_onlyIn ..)) _ s

theorem resetStep_wipeSlice (q : Nat) (s : State) : ResetStep s (wipeSlice q s) := by
  unfold wipeSlice
  refine resetStep_ite ⟨rfl, rfl, fun _ h => h, pktsKept_of_rings rfl⟩ (resetStep_of_onlyIn (flushSlice_onlyIn q s) (by decide))

theorem resetStep_quadRacks (q : Nat) (s : State) : ResetStep s ((List.range 64).foldl (fun s j => rackReset (64 * q + j) s) s) :=
  resetStep_foldl _ (fun u j => resetStep_rackReset (64 * q + j) u) _ s

/-- What a quadrant's reset clears but for its racks (R107, R407, R408). -/
def quadCleared (q : Nat) (s : State) : State :=
  let s := wipeSlice q s
  { s with
    mem := { s.mem with dma := Store.clear (4 * q) (4 * q + 4) s.mem.dma }
    ledger := { s.ledger with books := Store.clear (32 * q) (32 * q + 32) s.ledger.books } }

theorem quadReset_eq (q : Nat) (s : State) :
    quadReset q s = quadCleared q ((List.range 64).foldl (fun s j => rackReset (64 * q + j) s) s) := rfl

theorem resetStep_quadCleared (q : Nat) (s : State) : ResetStep s (quadCleared q s) :=
  resetStep_trans (resetStep_wipeSlice q s) (resetStep_of_same rfl rfl rfl rfl)

theorem resetStep_quadReset (q : Nat) (s : State) : ResetStep s (quadReset q s) := by
  rw [quadReset_eq]
  exact resetStep_trans (resetStep_quadRacks q s) (resetStep_quadCleared q _)

theorem quadReset_clears {c q : Nat} (mine : c / 1024 = q) (s : State) : (getCask c (quadReset q s)).Cleared := by
  rw [quadReset_eq]
  refine (resetStep_quadCleared q _).cleared c (foldl_clears (fun u j => resetStep_rackReset (64 * q + j) u) (j := c / 16 % 64) (fun u => ?_)
    (List.mem_range.mpr (Nat.mod_lt _ (by decide))) s)
  exact rackReset_clears (by omega) u

/-! ### An engine's reset (R508, R509) -/

/-- What an engine's reset does to the engine itself. -/
def unitReset (e : Engine) (s : State) : State :=
  match e.domain with
  | 0 => caskReset e.unit s
  | 1 => rackReset e.unit s
  | _ => quadReset e.unit s

/-- An engine's reset in progress from now on. -/
def resetBegun (e : Engine) (escalated : Bool) (s : State) : State :=
  { s with hang := { s.hang with resets := s.hang.resets ++ [(e, escalated, s.now)] } }

theorem resetEngine_eq (escalated : Bool) (e : Engine) (s : State) :
    resetEngine escalated e s = resetBegun e escalated (unitReset e s) := rfl

theorem resetStep_unitReset (e : Engine) (s : State) : ResetStep s (unitReset e s) := by
  unfold unitReset
  split
  · exact resetStep_caskReset ..
  · exact resetStep_rackReset ..
  · exact resetStep_quadReset ..

theorem unitReset_clears {e : Engine} {c : Nat} (inDevice : e.domain ≤ 2) (covers : e.coversCask c = true) (s : State) :
    (getCask c (unitReset e s)).Cleared := by
  have place : (e.domain = 0 ∧ e.unit = c) ∨ (e.domain = 1 ∧ e.unit = c / 16) ∨ (e.domain = 2 ∧ e.unit = c / 1024) := by
    simp only [Engine.coversCask, Bool.or_eq_true, decide_eq_true_eq] at covers
    omega
  rcases place with ⟨domain, unit⟩ | ⟨domain, unit⟩ | ⟨domain, unit⟩ <;> rw [unitReset, domain, unit]
  · exact caskReset_clears c s
  · exact rackReset_clears rfl s
  · exact quadReset_clears rfl s

/-- What the reset of an engine leaves: its reset in progress, and of the rest what a part of a reset leaves. -/
theorem resetEngine_hang (escalated : Bool) (e : Engine) (s : State) : (resetEngine escalated e s).hang =
    { s.hang with
      resets := s.hang.resets ++ [(e, escalated, s.now)]
      flush := (resetEngine escalated e s).hang.flush } := by
  obtain ⟨now, hang, -, -⟩ := resetStep_unitReset e s
  rw [resetEngine_eq]
  generalize unitReset e s = u at *
  show { u.hang with resets := u.hang.resets ++ [(e, escalated, u.now)] } = _
  rw [hang, now]
  rfl

end Sys2Proof.Machine
end

section
/-! SUPPORT. How engine resets end: the write-back of slices, what is written anew, casks that leave reset (R134, R408, R509, R510, R513). -/

namespace Sys2Proof.Machine

/-! ### The write-back of a slice (R387, R391, R408) -/

/-- A cache in canonical form whose sectors all pass their parity. -/
def CacheSound (m : Mem) : Prop := m.wf = true ∧ ∀ e ∈ m.csec, e.2.par = parityOf e.2.data

/-- One sector of a line that leaves the cache. -/
def evictSector (line : Nat) (acc : Mem × List Nat) (k : Nat) : Mem × List Nat :=
  let sec := 4 * line + k
  match acc.1.csec.find sec with
  | none => acc
  | some c =>
    let m1 := { acc.1 with csec := acc.1.csec.drop sec }
    if c.dirty then
      if c.par = parityOf c.data then (dramPut sec c.data c.par m1, acc.2)
      else (dramPut sec c.data (poisonOf c.data) m1, acc.2 ++ [sec])
    else (m1, acc.2)

/-- The sectors of a line that leaves the cache. -/
def evictSectors (line : Nat) (m : Mem) : Mem × List Nat := (List.range 4).foldl (evictSector line) (m, [])

theorem evictLine_eq (line : Nat) (m : Mem) : evictLine line m =
    ({ (evictSectors line m).1 with cline := (evictSectors line m).1.cline.drop line }, (evictSectors line m).2) := rfl

/-- Sectors that pass their parity leave the cache without a poison, the lines as they were. -/
structure EvictsClean (m : Mem) (acc : Mem × List Nat) : Prop where
  lines : acc.1.cline = m.cline
  poisons : acc.2 = []
  parity : ∀ e ∈ acc.1.csec, e.2.par = parityOf e.2.data

theorem evictSector_clean (line k : Nat) {m : Mem} {acc : Mem × List Nat} (h : EvictsClean m acc) :
    EvictsClean m (evictSector line acc k) := by
  obtain ⟨lines, poisons, parity⟩ := h
  unfold evictSector
  simp only
  split
  · exact ⟨lines, poisons, parity⟩
  · next c found =>
    have good : c.par = parityOf c.data := parity _ (Store.find_mem _ found)
    have rest : ∀ e ∈ acc.1.csec.drop (4 * line + k), e.2.par = parityOf e.2.data := fun e he => parity e (Store.drop_mem _ he)
    rw [if_pos good]
    split
    · exact ⟨lines, poisons, rest⟩
    · exact ⟨lines, poisons, rest⟩

theorem evictSectors_clean {m : Mem} (parity : ∀ e ∈ m.csec, e.2.par = parityOf e.2.data) (line : Nat) :
    EvictsClean m (evictSectors line m) :=
  List.foldlRecOn (motive := EvictsClean m) _ _ ⟨rfl, rfl, parity⟩ fun _ h k _ => evictSector_clean line k h

theorem evictLine_sound {m : Mem} (sound : CacheSound m) (line : Nat) : CacheSound (evictLine line m).1 ∧
    (evictLine line m).1.cline = m.cline.drop line ∧ (evictLine line m).2 = [] := by
  obtain ⟨lines, poisons, parity⟩ := evictSectors_clean sound.2 line
  refine ⟨⟨evictLine_wf line m sound.1, ?_⟩, ?_, ?_⟩ <;> rw [evictLine_eq]
  · exact parity
  · rw [lines]
  · exact poisons

theorem poisonEvents_nil (s : State) : poisonEvents [] s = s := by
  unfold poisonEvents
  cases [].length + s.mem.csec.length <;> rfl

/-- A line written back and gone. -/
def flushLine (s : State) (l : Nat) : State := poisonEvents (evictLine l s.mem).2 { s with mem := (evictLine l s.mem).1 }

theorem flushSlice_eq (q : Nat) (s : State) :
    flushSlice q s = ((s.mem.cline.filter fun e => decide (homeSlice e.1 = q)).map (·.1)).foldl flushLine s := rfl

theorem flushLine_sound {s : State} (sound : CacheSound s.mem) (l : Nat) :
    CacheSound (flushLine s l).mem ∧ (flushLine s l).mem.cline = s.mem.cline.drop l := by
  obtain ⟨keeps, lines, none⟩ := evictLine_sound sound l
  rw [flushLine, none, poisonEvents_nil]
  exact ⟨keeps, lines⟩

/-- A line that a sound cache does not hold. -/
def LineGone (l : Nat) (s : State) : Prop := CacheSound s.mem ∧ Store.find l s.mem.cline = none

theorem lineGone_flushLine_same {s : State} (sound : CacheSound s.mem) (l : Nat) : LineGone l (flushLine s l) := by
  obtain ⟨keeps, lines⟩ := flushLine_sound sound l
  exact ⟨keeps, by rw [lines]; exact Store.find_drop_same l _ (Mem.cline_rises sound.1)⟩

theorem lineGone_flushLine {l : Nat} {s : State} (h : LineGone l s) (k : Nat) : LineGone l (flushLine s k) := by
  obtain ⟨sound, gone⟩ := h
  obtain ⟨keeps, lines⟩ := flushLine_sound sound k
  exact ⟨keeps, by rw [lines]; exact Store.find_drop_none k (Mem.cline_rises sound.1) gone⟩

theorem lineGone_flushSlice {l : Nat} {s : State} (h : LineGone l s) (q : Nat) : LineGone l (flushSlice q s) := by
  rw [flushSlice_eq]
  exact List.foldlRecOn (motive := LineGone l) _ flushLine h fun _ gone k _ => lineGone_flushLine gone k

theorem flushSlice_sound {s : State} (sound : CacheSound s.mem) (q : Nat) : CacheSound (flushSlice q s).mem := by
  rw [flushSlice_eq]
  exact List.foldlRecOn (motive := fun u : State => CacheSound u.mem) _ flushLine sound fun _ h k _ => (flushLine_sound h k).1

/-- A slice that is written back holds none of its lines. -/
theorem flushSlice_gone {s : State} (sound : CacheSound s.mem) (l : Nat) : LineGone l (flushSlice (homeSlice l) s) := by
  by_cases gone : Store.find l s.mem.cline = none
  · exact lineGone_flushSlice ⟨sound, gone⟩ _
  · obtain ⟨t, found⟩ := Option.ne_none_iff_exists'.mp gone
    have listed : l ∈ (s.mem.cline.filter fun e => decide (homeSlice e.1 = homeSlice l)).map (·.1) :=
      List.mem_map.mpr ⟨(l, t), List.mem_filter.mpr ⟨Store.find_mem _ found, by simp⟩, rfl⟩
    rw [flushSlice_eq]
    exact foldl_reaches (I := fun u => CacheSound u.mem) (P := LineGone l) (fun _ k _ h => (flushLine_sound h k).1)
      (fun _ h => lineGone_flushLine_same h l) (fun _ k h => lineGone_flushLine h k) listed sound

theorem endFlush_onlyIn (s : State) : onlyIn [.regs, .mem, .armed, .sent, .px] { s with hang := { s.hang with flush := [] } } (endFlush s) :=
  onlyIn_foldl _ (fun u q => flushSlice_onlyIn q u) _ _

theorem endFlush_gone {s : State} (sound : CacheSound s.mem) {l : Nat} (slice : homeSlice l ∈ s.hang.flush) : LineGone l (endFlush s) :=
  foldl_reaches (f := fun u q => flushSlice q u) (I := fun u => CacheSound u.mem) (P := LineGone l)
    (fun _ q _ h => flushSlice_sound h q) (fun _ h => flushSlice_gone h l) (fun _ q h => lineGone_flushSlice h q) slice sound

/-! ### What the end of an engine's reset leaves as it was -/

/-- A cask with nothing racked and nothing to erase (R134). -/
def Cask.Bare (k : Cask) : Prop := k.racked = false ∧ k.incomplete = false

/-- A part of what follows an engine's reset: the resets in progress stay, a bare cask stays bare and out of reset. -/
structure RestoreStep (s u : State) : Prop where
  resets : u.hang.resets = s.hang.resets
  bare : ∀ c, (getCask c s).Bare → (getCask c u).Bare
  out : ∀ c, (getCask c s).Bare → (getCask c s).inReset = false → (getCask c u).inReset = false

theorem restoreStep_trans {s u v : State} (h : RestoreStep s u) (k : RestoreStep u v) : RestoreStep s v where
  resets := k.resets.trans h.resets
  bare c hc := k.bare c (h.bare c hc)
  out c hc ho := k.out c (h.bare c hc) (h.out c hc ho)

theorem restoreStep_of_shadows {s u : State} (resets : u.hang.resets = s.hang.resets) (h : shadowsOnly s u) : RestoreStep s u where
  resets := resets
  bare c hc := by
    rcases h c with same | lost
    · rwa [same]
    · rw [lost]
      exact hc
  out c _ ho := by
    rcases h c with same | lost
    · rwa [same]
    · rw [lost]
      exact ho

theorem restoreStep_of_casks {s u : State} (resets : u.hang.resets = s.hang.resets) (casks : u.casks = s.casks) : RestoreStep s u :=
  restoreStep_of_shadows resets (shadowsOnly_of_casks casks)

theorem restoreStep_refl (s : State) : RestoreStep s s := restoreStep_of_casks rfl rfl

theorem restoreStep_of_onlyIn {ps : List Part} {s u : State} (h : onlyIn ps s u) (apart : ∀ p ∈ [Part.hang, .casks], p ∉ ps) :
    RestoreStep s u :=
  restoreStep_of_casks (congrArg Hang.resets (h.same .hang (apart _ (by decide)))) (h.same .casks (apart _ (by decide)))

theorem restoreStep_foldl {α : Type} (f : State → α → State) (h : ∀ s x, RestoreStep s (f s x)) (l : List α) (s : State) :
    RestoreStep s (l.foldl f s) :=
  List.foldlRecOn l f (restoreStep_refl s) fun u hu x _ => restoreStep_trans hu (h u x)

theorem restoreStep_ite {p : Prop} [Decidable p] {s u v : State} (h : RestoreStep s u) (k : RestoreStep s v) :
    RestoreStep s (if p then u else v) := by
  split
  · exact h
  · exact k

theorem restoreStep_raiseEvent (code unit aux detail : Nat) (p : Option PktId) (s : State) :
    RestoreStep s (raiseEvent code unit aux detail p s) := restoreStep_of_onlyIn (raiseEvent_onlyIn ..) (by decide)

/-! ### What is written anew (R134, R170, R226, R409) -/

/-- The cask that leaves reset. -/
def Cask.inService (k : Cask) : Cask := { k with inReset := false }

theorem leaveReset_eq (s : State) (c : Nat) :
    leaveReset s c = if (getCask c s).racked || (getCask c s).incomplete then s else modCask c Cask.inService s := rfl

theorem leaveReset_out {c : Nat} {s : State} (bare : (getCask c s).Bare) : (getCask c (leaveReset s c)).inReset = false := by
  rw [leaveReset_eq, bare.1, bare.2, Bool.or_self, if_neg Bool.false_ne_true, getCask_modCask]
  rfl

theorem getCask_modCask_either (c d : Nat) (f : Cask → Cask) (s : State) :
    getCask d (modCask c f s) = getCask d s ∨ getCask d (modCask c f s) = f (getCask d s) := by
  by_cases e : d = c
  · subst e
    exact .inr (getCask_modCask ..)
  · exact .inl (getCask_modCask_ne f s e)

theorem restoreStep_leaveReset (s : State) (c : Nat) : RestoreStep s (leaveReset s c) := by
  rw [leaveReset_eq]
  refine restoreStep_ite (restoreStep_refl s) ⟨rfl, fun d bare => ?_, fun d _ out => ?_⟩
  · rcases getCask_modCask_either c d Cask.inService s with same | leaves
    · rwa [same]
    · rw [leaves]
      exact bare
  · rcases getCask_modCask_either c d Cask.inService s with same | leaves
    · rwa [same]
    · rw [leaves]
      rfl

theorem restoreStep_rewriteResid (s : State) (c : Nat) : RestoreStep s (rewriteResid s c) := by
  obtain ⟨frame, -, shadows⟩ := readShadow_only none c s
  have reads : RestoreStep s (readShadow none c s).2 :=
    restoreStep_of_shadows (congrArg Hang.resets (frame.same .hang (by decide))) shadows
  unfold rewriteResid
  refine restoreStep_ite ?_ (restoreStep_refl s)
  split
  · next rows u read =>
    rw [read] at reads
    exact restoreStep_trans reads (restoreStep_of_onlyIn (modRack_onlyIn ..) (by decide))
  · next u read =>
    rw [read] at reads
    exact reads

/-- A rack's slice of the staged bank in force at once (R226). -/
def rackBankTaken (r : Nat) (s : State) : State :=
  { s with quant := { s.quant with
    crt := takeRange (crtKey r 0 0) (crtKey (r + 1) 0 0) s.quant.crtStaged s.quant.crt
    gain := takeRange (16 * r) (16 * r + 16) s.quant.gainStaged s.quant.gain } }

theorem foldRackNow_eq (s : State) (r : Nat) : foldRackNow s r = rackBankTaken r (foldRack true r s) := rfl

theorem restoreStep_foldRackNow (s : State) (r : Nat) : RestoreStep s (foldRackNow s r) := by
  obtain ⟨frame, shadows, -, -, -⟩ := foldRack_spec true r s
  rw [foldRackNow_eq]
  exact restoreStep_trans (restoreStep_of_shadows (congrArg Hang.resets (frame.same .hang (by decide))) shadows)
    (restoreStep_of_onlyIn (quant_onlyIn _ _) (by decide))

/-- The casks of an engine that are in reset. -/
def inResetOf (e : Engine) (s : State) : List Nat := (List.range 4096).filter fun c => e.coversCask c && (getCask c s).inReset

/-- Residual entries and match gains written anew for some casks of an engine (R170, R226). -/
def rewritten (e : Engine) (cs : List Nat) (s : State) : State :=
  if e.domain = 0 then s
  else ((List.range 256).filter e.coversRack).foldl foldRackNow (cs.foldl rewriteResid s)

theorem restoreEngine_eq (e : Engine) (s : State) :
    restoreEngine e s = rewritten e (inResetOf e s) ((inResetOf e s).foldl leaveReset s) := rfl

theorem restoreStep_rewritten (e : Engine) (cs : List Nat) (s : State) : RestoreStep s (rewritten e cs s) :=
  restoreStep_ite (restoreStep_refl s)
    (restoreStep_trans (restoreStep_foldl _ restoreStep_rewriteResid cs s) (restoreStep_foldl _ restoreStep_foldRackNow _ _))

theorem restoreStep_restoreEngine (e : Engine) (s : State) : RestoreStep s (restoreEngine e s) := by
  rw [restoreEngine_eq]
  exact restoreStep_trans (restoreStep_foldl _ restoreStep_leaveReset _ s) (restoreStep_rewritten e _ _)

/-- Casks that leave reset in turn: a bare one among them is out of reset. -/
theorem foldl_leaveReset_out {c : Nat} {cs : List Nat} (listed : c ∈ cs) {s : State} (bare : (getCask c s).Bare) :
    (getCask c (cs.foldl leaveReset s)).inReset = false := by
  have reached := foldl_reaches (f := leaveReset) (I := fun u => (getCask c u).Bare)
    (P := fun u => (getCask c u).Bare ∧ (getCask c u).inReset = false) (fun u d _ h => (restoreStep_leaveReset u d).bare c h)
    (fun u h => ⟨(restoreStep_leaveReset u c).bare c h, leaveReset_out h⟩)
    (fun u d h => ⟨(restoreStep_leaveReset u d).bare c h.1, (restoreStep_leaveReset u d).out c h.1 h.2⟩) listed bare
  exact reached.2

/-- A bare cask of an engine leaves reset as the engine's reset ends (R134). -/
theorem restoreEngine_out {e : Engine} {c : Nat} {s : State} (inDevice : c < 4096) (covers : e.coversCask c = true)
    (bare : (getCask c s).Bare) : (getCask c (restoreEngine e s)).inReset = false := by
  rw [restoreEngine_eq]
  have leaves := restoreStep_foldl _ restoreStep_leaveReset (inResetOf e s) s
  refine (restoreStep_rewritten e _ _).out c (leaves.bare c bare) ?_
  cases reset : (getCask c s).inReset with
  | false => exact leaves.out c bare reset
  | true =>
    exact foldl_leaveReset_out (List.mem_filter.mpr ⟨List.mem_range.mpr inDevice, by rw [covers, reset]; rfl⟩) bare

/-! ### The incident once the resets are over (R513, R517, R518, R523) -/

theorem restoreStep_abortSuspect (s : State) (p : PktId) : RestoreStep s (abortSuspect s p) := by
  obtain ⟨-, hang, casks, -⟩ := cancelWork_casksRings p s
  refine restoreStep_of_casks ?_ casks
  show (cancelWork p s).hang.resets = s.hang.resets
  rw [hang]

theorem restoreStep_freeze (i : Incident) (s : State) : RestoreStep s (freeze i s) := by
  unfold freeze
  refine restoreStep_trans ?_ (restoreStep_foldl _ (fun u _ => restoreStep_raiseEvent _ _ _ _ _ u) _ _)
  exact restoreStep_of_casks rfl rfl

theorem restoreStep_startIncident (s : State) : RestoreStep s (startIncident s) := by
  unfold startIncident
  split
  · next i rest _ _ =>
    have takes : RestoreStep s { s with hang := { s.hang with detected := rest } } := restoreStep_of_casks rfl rfl
    exact restoreStep_trans takes (restoreStep_freeze i _)
  · exact restoreStep_refl s

theorem restoreStep_returnEngine (s : State) (e : Engine) : RestoreStep s (returnEngine s e) := by
  have stays : RestoreStep s { s with hang := { s.hang with oos := s.hang.oos ++ [e] } } := restoreStep_of_casks rfl rfl
  exact restoreStep_ite (restoreStep_refl s) (restoreStep_trans stays (restoreStep_raiseEvent ..))

theorem restoreStep_endIncident (i : Incident) (s : State) : RestoreStep s (endIncident i s) := by
  have ends : RestoreStep s { s with hang := { s.hang with incident := none } } := restoreStep_of_casks rfl rfl
  unfold endIncident
  exact restoreStep_trans (restoreStep_trans ends (restoreStep_raiseEvent ..))
    (restoreStep_trans (restoreStep_foldl _ restoreStep_returnEngine _ _) (restoreStep_startIncident _))

theorem restoreStep_maybeEnd (s : State) : RestoreStep s (maybeEnd s) := by
  unfold maybeEnd
  split
  · exact restoreStep_ite (restoreStep_endIncident _ s) (restoreStep_refl s)
  · exact restoreStep_refl s

theorem restoreStep_modIncident (f : Incident → Incident) (s : State) : RestoreStep s (modIncident f s) := restoreStep_of_casks rfl rfl

theorem restoreStep_sortSuspects (s : State) : RestoreStep s (sortSuspects s) := by
  unfold sortSuspects
  split
  · refine restoreStep_ite ?_ (restoreStep_maybeEnd s)
    exact restoreStep_trans (restoreStep_modIncident _ s)
      (restoreStep_trans (restoreStep_foldl _ restoreStep_abortSuspect _ _) (restoreStep_maybeEnd _))
  · exact restoreStep_refl s

/-! ### The end of the resets in progress (R509, R510) -/

/-- The end of one engine's reset, with its event. -/
def resetOver (s : State) (x : Engine × Bool × Nat) : State :=
  raiseEvent 0x0D03 x.1.unit (x.1.domain + 2 ^ 8 * x.2.1.toNat) 0 none (restoreEngine x.1 s)

/-- The end of all resets in progress. -/
def resetsOver (s : State) : State := sortSuspects (s.hang.resets.foldl resetOver { s with hang := { s.hang with resets := [] } })

theorem engineResetDone_eq (s : State) : exec .engineResetDone s =
    .next (if s.hang.resets.isEmpty then s else if !s.hang.flush.isEmpty then endFlush s else resetsOver s) := rfl

theorem restoreStep_resetOver (s : State) (x : Engine × Bool × Nat) : RestoreStep s (resetOver s x) :=
  restoreStep_trans (restoreStep_restoreEngine x.1 s) (restoreStep_raiseEvent ..)

theorem resetOver_out {x : Engine × Bool × Nat} {c : Nat} {s : State} (inDevice : c < 4096) (covers : x.1.coversCask c = true)
    (bare : (getCask c s).Bare) : (getCask c (resetOver s x)).inReset = false :=
  (restoreStep_raiseEvent _ _ _ _ _ _).out c ((restoreStep_restoreEngine x.1 s).bare c bare) (restoreEngine_out inDevice covers bare)

/-- What ending the resets in progress leaves: no reset in progress. -/
theorem resetsOver_resets (s : State) : (resetsOver s).hang.resets = [] := by
  have all := restoreStep_foldl _ restoreStep_resetOver s.hang.resets { s with hang := { s.hang with resets := [] } }
  exact (restoreStep_sortSuspects _).resets.trans all.resets

/-- A cask of an engine whose reset ends leaves reset where it is bare (R134). -/
theorem resetsOver_out {x : Engine × Bool × Nat} {c : Nat} {s : State} (listed : x ∈ s.hang.resets) (inDevice : c < 4096)
    (covers : x.1.coversCask c = true) (bare : (getCask c s).Bare) : (getCask c (resetsOver s)).inReset = false := by
  obtain ⟨stays, out⟩ := foldl_reaches (f := resetOver) (I := fun u => (getCask c u).Bare)
    (P := fun u => (getCask c u).Bare ∧ (getCask c u).inReset = false) (fun u y _ h => (restoreStep_resetOver u y).bare c h)
    (fun u h => ⟨(restoreStep_resetOver u x).bare c h, resetOver_out inDevice covers h⟩)
    (fun u y h => ⟨(restoreStep_resetOver u y).bare c h.1, (restoreStep_resetOver u y).out c h.1 h.2⟩) listed
    (s := { s with hang := { s.hang with resets := [] } }) bare
  exact (restoreStep_sortSuspects _).out c stays out

end Sys2Proof.Machine
end

section
/-! SUPPORT. The statement on engine resets, clause by clause (R134, R507, R509, R511, R523). -/

namespace Sys2Proof.Machine

/-! ### Escalation (R408, R509) -/

theorem escalatePkts_hang (e f : Engine) (s : State) : (escalatePkts e f s).now = s.now ∧
    (escalatePkts e f s).hang.resets = s.hang.resets := by
  have aborts : (abortOn f s).now = s.now ∧ (abortOn f s).hang.resets = s.hang.resets := by
    obtain ⟨now, hang, -, -⟩ := resetStep_abortOn f s
    exact ⟨now, by rw [hang]⟩
  unfold escalatePkts
  split
  · split
    · exact ⟨rfl, rfl⟩
    · exact aborts
  · exact aborts

theorem Engine.up_domain (e : Engine) : e.up.domain = if e.domain < 2 then e.domain + 1 else 3 := by
  unfold Engine.up
  split
  · next h => rw [h]; rfl
  · split
    · next h => rw [h]; rfl
    · rw [if_neg (by omega)]

/-- The reset of the next domain up, in place of one that is overdue. -/
def escalated (x : Engine × Bool × Nat) (s : State) : State :=
  resetEngine true x.1.up { escalatePkts x.1 x.1.up s with
    hang := { (escalatePkts x.1 x.1.up s).hang with
      resets := (escalatePkts x.1 x.1.up s).hang.resets.filter fun y => decide (y ≠ x) } }

theorem escalated_resets (x : Engine × Bool × Nat) (s : State) : (escalated x s).hang.resets =
    s.hang.resets.filter (fun y => decide (y ≠ x)) ++ [(x.1.up, true, s.now)] := by
  obtain ⟨now, resets⟩ := escalatePkts_hang x.1 x.1.up s
  rw [escalated, resetEngine_hang]
  show (escalatePkts x.1 x.1.up s).hang.resets.filter _ ++ [(x.1.up, true, (escalatePkts x.1 x.1.up s).now)] = _
  rw [resets, now]

section escalation
variable {s : State} {x : Engine × Bool × Nat} (inTime : warmOverdue s = false)
  (overdue : s.hang.resets.find? (fun x => resetOverdue x s) = some x)
include inTime overdue

theorem resetEscalation_engine (below : x.1.domain < 2) : exec .resetEscalation s = .next (escalated x s) := by
  have domain : x.1.up.domain ≠ 3 := by
    rw [Engine.up_domain, if_pos below]
    omega
  show execResetEscalation s = _
  rw [execResetEscalation, inTime, overdue]
  simp only [Bool.false_eq_true, if_false, if_neg domain]
  rfl

theorem resetEscalation_warm (quadrant : 2 ≤ x.1.domain) :
    exec .resetEscalation s = .next (warmReset false 6 (raiseEvent 0x0D03 0 (3 + 2 ^ 8) 0 none s)) := by
  have domain : x.1.up.domain = 3 := by rw [Engine.up_domain, if_neg (by omega)]
  show execResetEscalation s = _
  rw [execResetEscalation, inTime, overdue]
  simp only [Bool.false_eq_true, if_false, if_pos domain]

end escalation

theorem resetEscalation_cold {s : State} (late : warmOverdue s = true) :
    exec .resetEscalation s = .next (deviceReset false false 6 (raiseEvent 0x0D03 0 (4 + 2 ^ 8) 0 none s)) := by
  show execResetEscalation s = _
  rw [execResetEscalation, if_pos late]

/-- What either device reset of an escalation leaves. -/
structure DeviceWiped (warm : Bool) (s u : State) : Prop where
  memories : u.threads = State.reset.threads ∧ u.rings = State.reset.rings ∧ u.mem = State.reset.mem
  mode : u.pm.cause = 6 ∧ u.pm.warm = warm ∧ u.pm.fwReady = false
  queue : u.pending = s.pending

theorem deviceReset_wipes (s : State) : DeviceWiped false s (deviceReset false false 6 s) := ⟨⟨rfl, rfl, rfl⟩, ⟨rfl, rfl, rfl⟩, rfl⟩

theorem warmReset_wipes (s : State) : DeviceWiped true s (warmReset false 6 s) := ⟨⟨rfl, rfl, rfl⟩, ⟨rfl, rfl, rfl⟩, rfl⟩

/-- An event before a reset of the device leaves its queue of commands. -/
theorem DeviceWiped.after_event {warm : Bool} {s u v : State} (h : DeviceWiped warm u v) (event : onlyIn eventParts s u) :
    DeviceWiped warm s v := ⟨h.memories, h.mode, h.queue.trans (event.same .queue (by decide))⟩

/-! ### Resets and returns to service at the host's request (R511, R523) -/

theorem hostReset_resets {v : Word} {s : State} (reach : hostReaches (regOff .HG_RESET 0 0) s) (go : flagOf 31 v = true)
    (engine : fieldOf 18 16 v ≤ 2) (unit : unitOk (fieldOf 18 16 v) (fieldOf 11 0 v) = true)
    (free : inRecovery ⟨fieldOf 18 16 v, fieldOf 11 0 v⟩ s = false) : exec (.hostReset v) s =
      .next (resetEngine false ⟨fieldOf 18 16 v, fieldOf 11 0 v⟩ (abortOn ⟨fieldOf 18 16 v, fieldOf 11 0 v⟩ s)) := by
  show Host.Outcome.next (hostWrite .HG_RESET 0 0 (resetRequest v) s) = _
  rw [hostWrite_of_hostReaches reach, resetRequest]
  simp only [unit, go, free, Bool.not_true, Bool.false_eq_true, if_false, show fieldOf 18 16 v ≠ 3 by omega,
    show fieldOf 18 16 v ≠ 4 by omega]

/-- The reset of an engine from the host: in progress, its casks cleared, the packets that used it aborted (R511). -/
structure HostReset (e : Engine) (s u : State) : Prop where
  hang : u.hang = { s.hang with resets := s.hang.resets ++ [(e, false, s.now)], flush := u.hang.flush }
  casks : ∀ c, e.coversCask c = true → (getCask c u).Cleared
  aborted : ∀ p x, findPkt p s = some x → x.complete = false → engineHas e p s = true → PktHas p Pkt.Aborted u

theorem resetEngine_after_abort {e : Engine} (inDevice : e.domain ≤ 2) (s : State) : HostReset e s (resetEngine false e (abortOn e s)) := by
  obtain ⟨now, hang, -, -⟩ := resetStep_abortOn e s
  refine ⟨?_, fun c covers => unitReset_clears inDevice covers (abortOn e s), fun p x found runs uses => ?_⟩
  · rw [resetEngine_hang, hang, now]
  · exact (abortOn_aborts found runs uses).kept (resetStep_unitReset e (abortOn e s)).aborted

/-- The engines that a write to HG_RESUME takes back into service. -/
def resumed (v : Word) (e : Engine) (s : State) : List Engine := s.hang.oos.filter fun x => flagOf 30 v || decide (x = e)

/-- The state in which some engines are no longer out of service. -/
def backInService (out : List Engine) (s : State) : State :=
  { s with hang := { s.hang with oos := s.hang.oos.filter fun x => !out.contains x } }

theorem hostResume_resumes {v : Word} {s : State} (reach : hostReaches (regOff .HG_RESUME 0 0) s) (go : flagOf 31 v = true)
    (names : flagOf 30 v = true ∨ (fieldOf 18 16 v ≤ 2 ∧ unitOk (fieldOf 18 16 v) (fieldOf 11 0 v) = true)) :
    exec (.hostResume v) s = .next ((resumed v ⟨fieldOf 18 16 v, fieldOf 11 0 v⟩ s).foldl
      (fun u x => raiseEvent 0x0D06 x.unit (x.domain + 2 ^ 8) (recentCount x u) none u)
      (backInService (resumed v ⟨fieldOf 18 16 v, fieldOf 11 0 v⟩ s) s)) := by
  have named : (!flagOf 30 v && (decide (2 < fieldOf 18 16 v) || !unitOk (fieldOf 18 16 v) (fieldOf 11 0 v))) = false := by
    rcases names with all | ⟨engine, unit⟩
    · rw [all]
      rfl
    · rw [unit, decide_eq_false (by omega : ¬ 2 < fieldOf 18 16 v)]
      simp
  show Host.Outcome.next (hostWrite .HG_RESUME 0 0 (hostResume v) s) = _
  rw [hostWrite_of_hostReaches reach, hostResume]
  simp only [named, go, Bool.not_true, Bool.false_eq_true, if_false]
  rfl

theorem oos_resumed (v : Word) (e : Engine) (s : State) : (backInService (resumed v e s) s).hang =
    { s.hang with oos := if flagOf 30 v then [] else s.hang.oos.filter fun x => decide (x ≠ e) } := by
  refine congrArg (fun l => { s.hang with oos := l }) ?_
  have kept : s.hang.oos.filter (fun x => !(resumed v e s).contains x) = s.hang.oos.filter fun x => !(flagOf 30 v || decide (x = e)) := by
    refine List.filter_congr fun x hx => ?_
    congr 1
    rw [Bool.eq_iff_iff, List.contains_iff_mem, resumed, List.mem_filter]
    exact and_iff_right hx
  rw [kept]
  cases flagOf 30 v <;> simp

theorem hang_onlyIn (h : Hang) (s : State) : onlyIn [.hang] s { s with hang := h } := by
  constructor
  intro p hp
  cases p with
  | hang => exact absurd (List.mem_singleton.mpr rfl) hp
  | _ => rfl

/-- The events of engines that return to service. -/
theorem resumeEvents_onlyIn (l : List Engine) (s : State) : onlyIn eventParts s
    (l.foldl (fun u x => raiseEvent 0x0D06 x.unit (x.domain + 2 ^ 8) (recentCount x u) none u) s) :=
  onlyIn_foldl _ (fun _ _ => raiseEvent_onlyIn ..) l s

/-- Settles O47: how engine resets end and escalate, and what the host's writes to HG_RESET and HG_RESUME do. -/
theorem resetsEscalateAndTheHostResets : Obligations.ResetsEscalateAndTheHostResets := by
  unfold Obligations.ResetsEscalateAndTheHostResets
  refine fun s => ⟨fun running flushing => ?_, fun running flushed => ?_, fun inTime x overdue => ⟨fun below => ?_, fun quadrant => ?_⟩,
    fun late => ?_, fun v reach go engine unit free => ?_, fun v reach go names => ?_⟩
  · have frame := endFlush_onlyIn s
    refine ⟨endFlush s, ?_, frame.same .hang (by decide), frame.same .casks (by decide), fun wf parity l slice => ?_⟩
    · rw [engineResetDone_eq]
      simp [running, flushing]
    · exact (endFlush_gone ⟨wf, parity⟩ slice).2
  · refine ⟨resetsOver s, ?_, resetsOver_resets s, fun c ⟨x, listed, covers⟩ unracked complete => ?_⟩
    · rw [engineResetDone_eq]
      simp [running, flushed]
    · exact resetsOver_out listed c.isLt covers ⟨unracked, complete⟩
  · exact ⟨_, resetEscalation_engine inTime overdue below, escalated_resets x s⟩
  · have wiped := (warmReset_wipes _).after_event (raiseEvent_onlyIn 0x0D03 0 (3 + 2 ^ 8) 0 none s)
    obtain ⟨⟨threads, rings, mem⟩, ⟨cause, warm, ready⟩, queue⟩ := wiped
    exact ⟨_, resetEscalation_warm inTime overdue quadrant, threads, rings, mem, cause, warm, ready, queue⟩
  · have wiped := (deviceReset_wipes _).after_event (raiseEvent_onlyIn 0x0D03 0 (4 + 2 ^ 8) 0 none s)
    obtain ⟨⟨threads, rings, mem⟩, ⟨cause, warm, ready⟩, queue⟩ := wiped
    exact ⟨_, resetEscalation_cold late, threads, rings, mem, cause, warm, ready, queue⟩
  · have resets := resetEngine_after_abort (e := ⟨fieldOf 18 16 v, fieldOf 11 0 v⟩) engine s
    obtain ⟨hang, casks, aborted⟩ := resets
    refine ⟨_, hostReset_resets reach go engine unit free, hang, fun c covers => casks c.val covers, fun p x found runs uses => ?_⟩
    exact aborted p x found runs uses
  · have events := resumeEvents_onlyIn (resumed v ⟨fieldOf 18 16 v, fieldOf 11 0 v⟩ s)
      (backInService (resumed v ⟨fieldOf 18 16 v, fieldOf 11 0 v⟩ s) s)
    have back : onlyIn [.hang] s (backInService (resumed v ⟨fieldOf 18 16 v, fieldOf 11 0 v⟩ s) s) := hang_onlyIn _ s
    refine ⟨_, hostResume_resumes reach go names, onlyIn_mono (back.andThen events) (by decide), ?_⟩
    rw [events.same .hang (by decide), oos_resumed]

end Sys2Proof.Machine
end

section
/-! SUPPORT. How the operations of a CK.MVM enter the queues of their casks, the correction unit and the counts of their slots (R166, R243, R244,
R246, R247, R289, R568). -/

namespace Sys2Proof.Machine

/-! ### An issue leaves what decides on acceptance -/

theorem getRack_issued (r : Rack) (t : Tid) (s : State) : getRack r.val (issued r t s) = issuedRack r.val t.val s := getRack_setRack ..

theorem getSlot_issued (r : Rack) (t : Tid) (m : Nat) (s : State) : getSlot r.val m (issued r t s) = getSlot r.val m s := by
  rw [getSlot, getRack_issued]
  rfl

theorem corr_issued (r : Rack) (t : Tid) (s : State) : (getRack r.val (issued r t s)).corr = (getRack r.val s).corr := by
  rw [getRack_issued]
  rfl

theorem otherRacks_issued (r : Rack) (t : Tid) (s : State) : otherRacks r.val s (issued r t s) := otherRacks_setRack _ _ s

theorem tileRefused_issued (r : Rack) (t : Tid) (d : Tile) (s : State) : tileRefused r.val d (issued r t s) = tileRefused r.val d s := by
  unfold tileRefused
  simp only [getSlot_issued]
  rfl

theorem mayAccept_issued (r : Rack) (t : Tid) (x since : Nat) (d : Tile) (p : Option PktId) (s : State) :
    mayAccept r.val x since d p (issued r t s) = mayAccept r.val x since d p s := by
  unfold mayAccept tileRoom keptOut
  simp only [corr_issued]
  rfl

/-! ### What entering operations changes of a rack -/

/-- Work has joined the correction unit of a rack, and slots of the rack, named once for each operation, have their pending counts higher; the
other slots of the rack and the other racks are as they were. -/
structure Enters (r : Nat) (slots : List Nat) (work : List CorrWork) (s u : State) : Prop where
  racks : otherRacks r s u
  corr : (getRack r u).corr = (getRack r s).corr ++ work
  slot : ∀ m, (getSlot r m u).pend = (getSlot r m s).pend + slots.count m ∧ (m ∉ slots → getSlot r m u = getSlot r m s)

theorem enters_of_racks {r : Nat} {s u : State} (same : u.racks = s.racks) : Enters r [] [] s u where
  racks := otherRacks_of_racks same
  corr := by rw [getRack_congr same, List.append_nil]
  slot := fun m => by
    have slot : getSlot r m u = getSlot r m s := by rw [getSlot, getRack_congr same, getSlot]
    exact ⟨by rw [slot, List.count_nil, Nat.add_zero], fun _ => slot⟩

theorem enters_trans {r : Nat} {ks ls : List Nat} {vs ws : List CorrWork} {s u v : State} (h : Enters r ks vs s u) (k : Enters r ls ws u v) :
    Enters r (ks ++ ls) (vs ++ ws) s v where
  racks := otherRacks_trans h.racks k.racks
  corr := by rw [k.corr, h.corr, List.append_assoc]
  slot := fun m => by
    obtain ⟨count, out⟩ := h.slot m
    obtain ⟨count', out'⟩ := k.slot m
    refine ⟨by rw [count', count, List.count_append, Nat.add_assoc], fun n => ?_⟩
    rw [List.mem_append, not_or] at n
    rw [out' n.2, out n.1]

theorem enters_foldl {α : Type} {r : Nat} {f : State → α → State} {ks : α → List Nat} {ws : α → List CorrWork}
    (h : ∀ s x, Enters r (ks x) (ws x) s (f s x)) (l : List α) (s : State) : Enters r (l.flatMap ks) (l.flatMap ws) s (l.foldl f s) := by
  induction l generalizing s with
  | nil => exact enters_of_racks rfl
  | cons x l ih => exact enters_trans (h s x) (ih _)

/-! ### One operation enters -/

theorem getSlot_modSlot (r k : Nat) (f : Slot → Slot) (s : State) : getSlot r k (modSlot r k f s) = f (getSlot r k s) := by
  simp only [getSlot, modSlot, getRack_modRack, Store.getD_put_same]

theorem getSlot_modSlot_ne {r k m : Nat} (f : Slot → Slot) (s : State) (h : m ≠ k) : getSlot r m (modSlot r k f s) = getSlot r m s := by
  simp only [getSlot, modSlot, getRack_modRack, Store.getD_put_ne _ _ _ h]

theorem countSlot_enters (r : Nat) (e : SlotRec) (x : Nat) (p : Option PktId) (s : State) : Enters r [x] [] s (countSlot r e x p s) where
  racks := otherRacks_modSlot r x _ s
  corr := by
    rw [countSlot, modSlot, getRack_modRack, List.append_nil]
  slot := fun m => by
    by_cases h : m = x
    · subst h
      exact ⟨by rw [countSlot, getSlot_modSlot, List.count_singleton_self], fun n => absurd List.mem_cons_self n⟩
    · have same : getSlot r m (countSlot r e x p s) = getSlot r m s := getSlot_modSlot_ne _ s h
      exact ⟨by rw [same, List.count_singleton, beq_false_of_ne (Ne.symm h), if_neg Bool.false_ne_true, Nat.add_zero], fun _ => same⟩

/-- The work of an operation for the correction unit, none of it done (R166). -/
def freshWork (c : Nat) (o : CaskOp) : CorrWork := ⟨c, o, 0, none, none, []⟩

theorem addWork_enters (r : Nat) (w : CorrWork) (s : State) : Enters r [] [w] s (modRack r (fun k => { k with corr := k.corr ++ [w] }) s) where
  racks := otherRacks_setRack _ _ s
  corr := by rw [getRack_modRack]
  slot := fun m => by
    have same : getSlot r m (modRack r (fun k => { k with corr := k.corr ++ [w] }) s) = getSlot r m s := by
      rw [getSlot, getRack_modRack, getSlot]
    exact ⟨by rw [same, List.count_nil, Nat.add_zero], fun _ => same⟩

/-- A cask with one more operation in its queue (R144, R244). -/
def Cask.queued (o : CaskOp) (k : Cask) : Cask := { k with queue := k.queue ++ [o], foundEmpty := k.foundEmpty || k.standsEmpty }

/-- A cask's operation enters its queue and the correction unit, before its slots count it. -/
def queueNamed (r : Nat) (d : Tile) (p : Option PktId) (base : Nat) (s : State) (c : Nat × Nat) : State :=
  let o := tileOp d c.2 p (base + c.2)
  modRack r (fun k => { k with corr := k.corr ++ [freshWork (16 * r + c.1) o] })
    (modCask (16 * r + c.1) (Cask.queued o) { s with nextOp := s.nextOp + 1 })

/-- The operation of a named cask enters, under a name that depends on its place among the named casks alone. -/
def enterNamed (r : Nat) (d : Tile) (p : Option PktId) (base : Nat) (s : State) (c : Nat × Nat) : State :=
  (tileSlots d c.2).foldl (fun s x => countSlot r (tileRec d x.2) x.1 p s) (queueNamed r d p base s c)

section entering
variable (r : Nat) (d : Tile) (p : Option PktId) (base : Nat)

theorem queueNamed_enters (s : State) (c : Nat × Nat) :
    Enters r [] [freshWork (16 * r + c.1) (tileOp d c.2 p (base + c.2))] s (queueNamed r d p base s c) := by
  have queued : Enters r [] [] s (modCask (16 * r + c.1) (Cask.queued (tileOp d c.2 p (base + c.2))) { s with nextOp := s.nextOp + 1 }) :=
    enters_of_racks rfl
  exact enters_trans queued (addWork_enters r _ _)

theorem queueNamed_onlyIn (s : State) (c : Nat × Nat) : onlyIn [.opNames, .casks, .racks] s (queueNamed r d p base s c) := by
  have named := nextOp_onlyIn (s.nextOp + 1) s
  unfold queueNamed
  exact named.andThen ((modCask_onlyIn ..).andThen (modRack_onlyIn ..))

theorem countSlots_onlyIn (xs : List (Nat × Nat)) (s : State) :
    onlyIn [.racks] s (xs.foldl (fun s x => countSlot r (tileRec d x.2) x.1 p s) s) :=
  onlyIn_foldl _ (fun _ _ => modSlot_onlyIn ..) xs s

theorem countSlots_enters (xs : List (Nat × Nat)) (s : State) :
    Enters r (xs.map (·.1)) [] s (xs.foldl (fun s x => countSlot r (tileRec d x.2) x.1 p s) s) := by
  have counted := enters_foldl (fun s (x : Nat × Nat) => countSlot_enters r (tileRec d x.2) x.1 p s) xs s
  rwa [← List.map_eq_flatMap, List.flatMap_eq_nil_iff.mpr fun _ _ => rfl] at counted

theorem enterNamed_enters (s : State) (c : Nat × Nat) :
    Enters r ((tileSlots d c.2).map (·.1)) [freshWork (16 * r + c.1) (tileOp d c.2 p (base + c.2))] s (enterNamed r d p base s c) := by
  have counted := countSlots_enters r d p (tileSlots d c.2) (queueNamed r d p base s c)
  exact enters_trans (queueNamed_enters r d p base s c) counted

theorem enterNamed_onlyIn (s : State) (c : Nat × Nat) : onlyIn [.opNames, .casks, .racks] s (enterNamed r d p base s c) :=
  onlyIn_trans (queueNamed_onlyIn ..) (onlyIn_mono (countSlots_onlyIn ..) (by decide))

theorem enterNamed_casks (s : State) (c : Nat × Nat) : (enterNamed r d p base s c).nextOp = s.nextOp + 1 ∧
    otherCasks (16 * r + c.1) s (enterNamed r d p base s c) ∧
    getCask (16 * r + c.1) (enterNamed r d p base s c) = (getCask (16 * r + c.1) s).queued (tileOp d c.2 p (base + c.2)) := by
  have counted := countSlots_onlyIn r d p (tileSlots d c.2) (queueNamed r d p base s c)
  refine ⟨counted.same .opNames (by decide), ?_, ?_⟩
  · have queued : otherCasks (16 * r + c.1) s (queueNamed r d p base s c) := otherCasks_modCask _ _ { s with nextOp := s.nextOp + 1 }
    exact otherCasks_trans queued (otherCasks_of_onlyIn counted (by decide))
  · exact (getCask_congr (counted.same .casks (by decide)) _).trans (getCask_modCask ..)

/-! ### Every named cask -/

/-- The names that operations take in turn are those of their places (R247). -/
theorem foldl_enterOp_eq (ks : List Nat) (n : Nat) {s : State} (h : s.nextOp = base + n) :
    (ks.zipIdx n).foldl (enterOp r d p) s = (ks.zipIdx n).foldl (enterNamed r d p base) s := by
  induction ks generalizing n s with
  | nil => rfl
  | cons k ks ih =>
    have first : enterOp r d p s (k, n) = enterNamed r d p base s (k, n) := by
      simp only [enterOp, enterNamed, queueNamed, h]
      rfl
    have named : (enterNamed r d p base s (k, n)).nextOp = base + (n + 1) := by
      rw [(enterNamed_casks r d p base s (k, n)).1, h, Nat.add_assoc]
    rw [List.zipIdx_cons, List.foldl_cons, List.foldl_cons, first, ih (n + 1) named]

theorem enterOps_eq (s : State) : enterOps r d p s = (tileCasks d).foldl (enterNamed r d p s.nextOp) s :=
  foldl_enterOp_eq r d p s.nextOp (maskBits 16 (leAt 16 2 d)) 0 rfl

theorem enterOps_onlyIn (s : State) : onlyIn [.opNames, .casks, .racks] s (enterOps r d p s) := by
  rw [enterOps_eq]
  exact onlyIn_foldl _ (enterNamed_onlyIn r d p s.nextOp) (tileCasks d) s

end entering

theorem tileCasks_nodup (r : Nat) (d : Tile) : ((tileCasks d).map fun e => 16 * r + e.1).Nodup := by
  have places : (tileCasks d).map (·.1) = maskBits 16 (leAt 16 2 d) := List.zipIdx_map_fst ..
  have rising : (maskBits 16 (leAt 16 2 d)).Nodup := List.nodup_range.filter _
  have keys := rising.map (f := (16 * r + ·)) fun _ _ e => Nat.add_left_cancel e
  rwa [← places, List.map_map] at keys

/-- The slots that the operations of a tile name, each as often as it is named. -/
def namedSlots (d : Tile) : List Nat := (tileCasks d).flatMap fun e => (tileSlots d e.2).map (·.1)

/-- What an accepted CK.MVM does: every operation it holds enters (R166, R243, R244, R247). -/
structure OpsEntered (r : Nat) (d : Tile) (p : Option PktId) (s u : State) : Prop where
  enters : Enters r (namedSlots d) ((tileCasks d).map fun e => freshWork (16 * r + e.1) (tileOp d e.2 p (s.nextOp + e.2))) s u
  names : u.nextOp = s.nextOp + (tileCasks d).length
  own : ∀ e ∈ tileCasks d, getCask (16 * r + e.1) u = (getCask (16 * r + e.1) s).queued (tileOp d e.2 p (s.nextOp + e.2))
  others : ∀ c, (∀ e ∈ tileCasks d, c ≠ 16 * r + e.1) → Store.find c u.casks = Store.find c s.casks

theorem nextOp_foldl {α : Type} {f : State → α → State} (one : ∀ s x, (f s x).nextOp = s.nextOp + 1) (l : List α) (s : State) :
    (l.foldl f s).nextOp = s.nextOp + l.length := by
  induction l generalizing s with
  | nil => rfl
  | cons x l ih => rw [List.foldl_cons, ih, one, List.length_cons, Nat.add_assoc, Nat.add_comm 1]

theorem enterOps_entered (r : Nat) (d : Tile) (p : Option PktId) (s : State) : OpsEntered r d p s (enterOps r d p s) := by
  rw [enterOps_eq]
  have steps := enterNamed_casks r d p s.nextOp
  refine ⟨?_, nextOp_foldl (fun s x => (steps s x).1) _ s, fun e he => ?_, fun c out => ?_⟩
  · rw [List.map_eq_flatMap]
    exact enters_foldl (enterNamed_enters r d p s.nextOp) (tileCasks d) s
  · exact getCask_foldl_own (fun e => 16 * r + e.1) (fun s x => (steps s x).2.1) (g := fun _ x => Cask.queued (tileOp d x.2 p (s.nextOp + x.2)))
      (fun s x => (steps s x).2.2) (fun _ _ _ => rfl) (tileCasks_nodup r d) he s
  · exact List.foldlRecOn (motive := fun u => Store.find c u.casks = Store.find c s.casks) (tileCasks d) _ rfl fun u hu x hx =>
      ((steps u x).2.1 c (out x hx)).trans hu

/-! ### The command, at once or after a wait -/

theorem issued_enters (r : Rack) (t : Tid) (s : State) : Enters r.val [] [] s (issued r t s) where
  racks := otherRacks_issued r t s
  corr := by rw [corr_issued, List.append_nil]
  slot := fun m => ⟨by rw [getSlot_issued, List.count_nil, Nat.add_zero], fun _ => getSlot_issued r t m s⟩

/-- Operations that enter once their instruction has issued. -/
theorem OpsEntered.after_issue {r : Rack} {t : Tid} {d : Tile} {p : Option PktId} {s u : State} (h : OpsEntered r.val d p (issued r t s) u) :
    OpsEntered r.val d p s u where
  enters := enters_trans (issued_enters r t s) h.enters
  names := h.names
  own := h.own
  others := h.others

/-- A CK.MVM is accepted: its operations enter, and of the threads its own alone changes (R247, R289). -/
structure MvmAccepted (r t : Nat) (d : Tile) (p : Option PktId) (done : Thread) (s u : State) : Prop where
  frame : onlyIn [.threads, .regs, .racks, .casks, .opNames] s u
  ops : OpsEntered r d p s u
  threads : otherThreads r t s u
  thread : getThread r t u = done

/-- The thread of a CK.MVM goes on when its operations have entered. -/
theorem mvmAccepted_of_ops {r t : Nat} {d : Tile} {p : Option PktId} {s u : State} (frame : onlyIn [.regs, .racks, .casks, .opNames] s u)
    (h : OpsEntered r d p s u) (f : Thread → Thread) : MvmAccepted r t d p (f (getThread r t s)) s (modThread r t f u) where
  frame := onlyIn_mono (frame.andThen (modThread_onlyIn r t f u)) (by decide)
  ops := ⟨⟨h.enters.racks, h.enters.corr, h.enters.slot⟩, h.names, h.own, h.others⟩
  threads := fun k n => by
    have others : otherThreads r t u (modThread r t f u) := otherThreads_setThread r t _ u
    rw [others k n, frame.same .threads (by decide)]
  thread := by rw [getThread_modThread, getThread_congr (frame.same .threads (by decide))]

section command
variable {r : Rack} {t : Tid} {s : State} {d : Tile} (formed : tileRefused r.val d s = false)
include formed

theorem skCkMvm_accepts {a : TReg} (may : issues r t true [] [.treg a] s) (tile : leBytes 64 ((getThread r.val t.val s).getT a).toNat = d)
    (room : mayAccept r.val t.val s.now d (getThread r.val t.val s).pkt s = true)
    (first : (mvmWaiters r.val s).any (fun u => mayAccept r.val u.1 u.2.1 u.2.2.1 u.2.2.2 s) = false) :
    ∃ u, exec (.skCkMvm r t a) s = .next u ∧
      MvmAccepted r.val t.val d (getThread r.val t.val s).pkt (getThread r.val t.val s).step s u := by
  have waiters : mvmWaiters r.val (issued r t s) = mvmWaiters r.val s := rfl
  have now : (issued r t s).now = s.now := rfl
  have run : exec (.skCkMvm r t a) s =
      .next (modThread r.val t.val Thread.step (enterOps r.val d (getThread r.val t.val s).pkt (issued r t s))) := by
    show execSkCkMvm r t a s = _
    rw [execSkCkMvm, issue_of_issues may]
    simp only [issued_thread, tile, tileRefused_issued, mayAccept_issued, formed, waiters, now, room, first]
    rfl
  have frame := (issued_onlyIn r t s).andThen (enterOps_onlyIn r.val d (getThread r.val t.val s).pkt (issued r t s))
  exact ⟨_, run, mvmAccepted_of_ops (onlyIn_mono frame (by decide)) (enterOps_entered ..).after_issue Thread.step⟩

theorem skCkMvm_waits {a : TReg} (may : issues r t true [] [.treg a] s) (tile : leBytes 64 ((getThread r.val t.val s).getT a).toNat = d)
    (full : mayAccept r.val t.val s.now d (getThread r.val t.val s).pkt s = false) :
    turns (.skCkMvm r t a) r t (waits .waitCask (.mvm ((getThread r.val t.val s).getT a)) (.skCkMvm r t a) s.now) s := by
  have now : (issued r t s).now = s.now := rfl
  have run : exec (.skCkMvm r t a) s = .next (modThread r.val t.val
      (waits .waitCask (.mvm ((getThread r.val t.val s).getT a)) (.skCkMvm r t a) s.now) (issued r t s)) := by
    show execSkCkMvm r t a s = _
    rw [execSkCkMvm, issue_of_issues may]
    simp only [issued_thread, tile, tileRefused_issued, mayAccept_issued, formed, now, full]
    rfl
  exact ⟨_, run, threadOnly_modThread .., getThread_modThread ..⟩

theorem ckMvmAccept_accepts {tile : BitVec 512} (st : (getThread r.val t.val s).st = .waitCask)
    (wait : (getThread r.val t.val s).wait = some (.mvm tile)) (bytes : leBytes 64 tile.toNat = d) (runs : rackStops r.val s = false)
    (room : mayAccept r.val t.val (getThread r.val t.val s).since d (getThread r.val t.val s).pkt s = true)
    (longest : ∀ u ∈ mvmWaiters r.val s, (getThread r.val t.val s).since ≤ u.2.1) :
    ∃ u, exec (.ckMvmAccept r t) s = .next u ∧ MvmAccepted r.val t.val d (getThread r.val t.val s).pkt
      { (getThread r.val t.val s).step with st := .ready, wait := none } s u := by
  have ready : wakeState r.val (getThread r.val t.val s) (enterOps r.val d (getThread r.val t.val s).pkt s) = .ready := by
    rw [wakeState, rackStops, rflag, rget_congr ((enterOps_onlyIn ..).same .regs (by decide)), st]
    exact if_neg (Bool.eq_false_iff.mp runs)
  have first : ((mvmWaiters r.val s).all fun u => decide (u.1 = t.val) || decide ((getThread r.val t.val s).since ≤ u.2.1) ||
      !mayAccept r.val u.1 u.2.1 u.2.2.1 u.2.2.2 s) = true :=
    List.all_eq_true.mpr fun u hu => by simp [longest u hu]
  have run : exec (.ckMvmAccept r t) s = .next (releasePast r.val t.val (enterOps r.val d (getThread r.val t.val s).pkt s)) := by
    show execCkMvmAccept r t s = _
    simp only [execCkMvmAccept, wait, st, bytes, room, first, formed]
    rfl
  have accepted := mvmAccepted_of_ops (t := t.val) (onlyIn_mono (enterOps_onlyIn r.val d (getThread r.val t.val s).pkt s) (by decide))
    (enterOps_entered r.val d (getThread r.val t.val s).pkt s)
    fun k => { k with st := wakeState r.val k (enterOps r.val d (getThread r.val t.val s).pkt s), wait := none, pc := k.pc + 4 }
  rw [ready] at accepted
  exact ⟨_, run, accepted⟩

end command

/-- Settles O17: a CK.MVM that is accepted as it issues, one that waits, and one that is accepted after its wait. -/
theorem caskOperationsEnterTheirQueue : Obligations.CaskOperationsEnterTheirQueue := by
  unfold Obligations.CaskOperationsEnterTheirQueue
  intro r t a tile s k d op slots accepted formed
  have told : ∀ i done, (∃ u, exec i s = .next u ∧ MvmAccepted r.val t.val d k.pkt done s u) → accepted i done :=
    fun i done ⟨u, run, h⟩ => ⟨u, run, h.frame, h.threads, h.ops.enters.racks, h.thread, h.ops.names, h.ops.own, h.ops.others,
      h.ops.enters.corr, h.ops.enters.slot⟩
  refine ⟨fun may operand => ?_, fun st wait runs room longest => ?_⟩
  · subst operand
    exact ⟨fun room first => told _ _ (skCkMvm_accepts formed may rfl room first), fun full => skCkMvm_waits formed may rfl full⟩
  · exact told _ _ (ckMvmAccept_accepts formed st wait rfl runs room longest)

end Sys2Proof.Machine
end

section
/-! SUPPORT. A tasting run: how it begins on a cask, and how it ends when its vectors are converted (R176, R179, R180, R182). -/

namespace Sys2Proof.Machine

/-! ### A run begins -/

/-- A tasting run with its vectors as codes, none admitted (R179). -/
def tasteRun (c : Nat) (s : State) : RunOp :=
  let n := rfield .CT_TASTE_CFG 0 0 9 8 s + 1
  ⟨.taste, probeOp s.nextOp n (caskW5 c s), (List.range n).map (tasteCodes c), none, none, none, 0, 0, [], false, 0⟩

/-- A cask held for a tasting run, which is owed no more (R179, R180). -/
def Cask.heldToTaste (k : Cask) : Cask := { k with hold := some .tasting, tasteDue := false }

theorem tasteOver_of_quiet {k : Cask} (h : k.quiet = true) : tasteOver k = none := by
  obtain ⟨running, -⟩ := k.quiet_iff.mp h
  rw [tasteOver, Cask.probe, running]
  rfl

theorem free_of_caskStopped {c : Nat} {s : State} (h : caskStopped c s = false) : (getCask c s).hold = none := by
  simp only [caskStopped, Bool.or_eq_false_iff, Option.isSome_eq_false_iff, Option.isNone_iff_eq_none] at h
  exact h.1.1.1.2

/-- The round robin moves on without a change of how many runs the point still allows (R180). -/
theorem robinPast_spec (c : Nat) (s : State) : onlyIn [.cellar] s (robinPast c s) ∧
    (robinPast c s).cellar.tasteLeft = s.cellar.tasteLeft := by
  unfold robinPast
  simp only
  split
  · exact ⟨cellar_onlyIn _ s, rfl⟩
  · exact ⟨cellar_onlyIn _ s, rfl⟩

/-- A run counted, the round robin moved on, and one run less left at the present point (R180). -/
def tasteCounted (c : Nat) (s : State) : State := countTaste (robinPast c (bump .CT_TASTE_RUNS 0 0 1 s))

theorem tasteCounted_spec (c : Nat) (s : State) : onlyIn [.regs, .cellar] s (tasteCounted c s) ∧
    otherRegs [regOff .CT_TASTE_RUNS 0 0] s (tasteCounted c s) ∧
    rget .CT_TASTE_RUNS 0 0 (tasteCounted c s) = rget .CT_TASTE_RUNS 0 0 s + 1 ∧
    (tasteCounted c s).cellar.tasteLeft = s.cellar.tasteLeft.map (· - 1) := by
  have counted := bump_onlyIn .CT_TASTE_RUNS 0 0 1 s
  obtain ⟨past, left⟩ := robinPast_spec c (bump .CT_TASTE_RUNS 0 0 1 s)
  have used : onlyIn [.cellar] (robinPast c (bump .CT_TASTE_RUNS 0 0 1 s)) (tasteCounted c s) := cellar_onlyIn _ _
  have tail := onlyIn_trans past used
  refine ⟨counted.andThen tail, ?_, ?_, ?_⟩
  · exact otherRegs_trans (otherRegs_rset _ _ _ _ s) (otherRegs_of_onlyIn tail (by decide))
  · rw [rget_congr (tail.same .regs (by decide)), bump, rget_rset]
    rfl
  · exact congrArg (Option.map (· - 1)) left

/-- The vectors of a quiet cask come into execution alone (R179). -/
theorem putVectors_spec {c : Nat} {s : State} (quiet : (getCask c s).quiet = true) : onlyIn [.opNames, .casks] s (putVectors c s) ∧
    otherCasks c s (putVectors c s) ∧ getCask c (putVectors c s) = { getCask c s with running := [tasteRun c s] } := by
  obtain ⟨none, -⟩ := (getCask c s).quiet_iff.mp quiet
  have puts : putVectors c s =
      modCask c (fun k => { k with running := k.running ++ [tasteRun c s] }) { s with nextOp := s.nextOp + 1 } := by
    unfold putVectors
    simp only [quiet, if_true]
    rfl
  rw [puts]
  refine ⟨(nextOp_onlyIn _ s).andThen (modCask_onlyIn ..), otherCasks_modCask _ _ { s with nextOp := s.nextOp + 1 }, ?_⟩
  rw [getCask_modCask]
  show { getCask c s with running := (getCask c s).running ++ [tasteRun c s] } = _
  rw [none, List.nil_append]

theorem tasteRun_reads (c : Nat) {s u : State} (names : u.nextOp = s.nextOp) (others : otherRegs [regOff .CT_TASTE_RUNS 0 0] s u) :
    tasteRun c u = tasteRun c s := by
  have config : rget .CK_CONFIG c 0 u = rget .CK_CONFIG c 0 s := rget_of_otherRegs others _ _ _ (by
    rw [List.mem_singleton, regOff_cask rfl, show regOff .CT_TASTE_RUNS 0 0 = 0x102048 from rfl]
    omega)
  have vectors : rget .CT_TASTE_CFG 0 0 u = rget .CT_TASTE_CFG 0 0 s := rget_of_otherRegs others _ _ _ (by decide)
  simp only [tasteRun, caskW5, rflag, rfield, config, vectors, names]

/-- A tasting run as it begins: its cask holds its vectors, the run is counted, and nothing else changes (R179, R180). -/
theorem startTaste_spec {c : Nat} {s : State} (quiet : (getCask c s).quiet = true) :
    onlyIn [.casks, .regs, .cellar, .opNames] s (startTaste c s) ∧ otherCasks c s (startTaste c s) ∧
      otherRegs [regOff .CT_TASTE_RUNS 0 0] s (startTaste c s) ∧
      rget .CT_TASTE_RUNS 0 0 (startTaste c s) = rget .CT_TASTE_RUNS 0 0 s + 1 ∧
      (startTaste c s).cellar.tasteLeft = s.cellar.tasteLeft.map (· - 1) ∧
      getCask c (startTaste c s) = { (getCask c s).heldToTaste with running := [tasteRun c s] } := by
  have start : startTaste c s = putVectors c (modCask c Cask.heldToTaste (tasteCounted c s)) := rfl
  obtain ⟨counted, others, runs, left⟩ := tasteCounted_spec c s
  have hold := modCask_onlyIn c Cask.heldToTaste (tasteCounted c s)
  have cask : getCask c (modCask c Cask.heldToTaste (tasteCounted c s)) = (getCask c s).heldToTaste := by
    rw [getCask_modCask, getCask_congr (counted.same .casks (by decide))]
  have held := onlyIn_trans (onlyIn_mono (qs := [.regs, .cellar, .casks]) counted (by decide)) (onlyIn_mono hold (by decide))
  have regs := otherRegs_trans others (otherRegs_of_onlyIn hold (by decide))
  have run := tasteRun_reads c (held.same .opNames (by decide)) regs
  obtain ⟨puts, casks, own⟩ := putVectors_spec (c := c) (s := modCask c Cask.heldToTaste (tasteCounted c s)) (by rw [cask]; exact quiet)
  rw [cask, run] at own
  rw [start]
  refine ⟨onlyIn_mono (held.andThen puts) (by decide), ?_, ?_, ?_, ?_, own⟩
  · exact otherCasks_trans (otherCasks_of_onlyIn counted (by decide)) (otherCasks_trans (otherCasks_modCask _ _ _) casks)
  · exact otherRegs_trans regs (otherRegs_of_onlyIn puts (by decide))
  · rw [rget_congr (puts.same .regs (by decide)), rget_congr (hold.same .regs (by decide)), runs]
  · rw [puts.same .cellar (by decide)]
    exact left

theorem tastingRun_begins (c : CaskId) {s : State} (on : rflag .CT_CTRL 0 0 3 s = true) (running : rflag .CT_CTRL 0 0 8 s = false)
    (left : s.cellar.tasteLeft ≠ some 0) (next : tasteNext s = some c.val) (quiet : (getCask c.val s).quiet = true)
    (serves : caskStopped c.val s = false) : exec (.tastingRun c) s = .next (startTaste c.val s) := by
  have may : mayTaste c.val s = true := by simp [mayTaste, on, running, left, next]
  show execTastingRun c s = _
  simp [execTastingRun, tasteOver_of_quiet quiet, free_of_caskStopped serves, may]

/-! ### A run ends -/

/-- A cask released from a tasting run, the conversions of its vectors taken off (R179). -/
def Cask.tasted (id : Nat) (k : Cask) : Cask := { k.endProbe id with hold := none }

/-- The first column of a vector that fails, if one does, with its difference (R179). -/
def tasteFault (c : Nat) (o : RunOp) (bs : List Byte) (s : State) (v : Nat) : Option (Nat × Word) :=
  tasteFirst (caskW5 c s) (o.pins.getD (pinWords c s)) (rget .CT_TASTE_TOL 0 0 s) (gEff c s) ((getCask c s).convsOf o.op.op v)
    (bs.drop (4096 * v))

theorem zipIdx_map_range {α : Type} (f : Nat → α) (n : Nat) : ((List.range n).map f).zipIdx = (List.range n).map fun v => (f v, v) := by
  refine List.ext_getElem (by simp) fun i _ _ => ?_
  simp

theorem foldView_tasted (id : Nat) (k : Cask) : (k.tasted id).foldView false = (k.foldView false).tasted id := rfl

theorem gEff_tasted (c id : Nat) (s : State) : gEff c (modCask c (Cask.tasted id) s) = gEff c s := by
  have temp : quadTemp (c / 1024) (modCask c (Cask.tasted id) s) = quadTemp (c / 1024) s := quadTemp_congr rfl rfl _
  have beta : quadBeta (c / 1024) (modCask c (Cask.tasted id) s) = quadBeta (c / 1024) s := rfl
  simp only [gEff, gFold, getCask_modCask, temp, beta, modCask_freeCtr, foldView_tasted]
  generalize (getCask c s).foldView false = k
  rfl

/-- What the comparison reads is as before the release. -/
theorem tasteFault_reads {c : Nat} {o : RunOp} {s x : State} (read : EventOnly (modCask c (Cask.tasted o.op.op) s) x) :
    caskW5 c x = caskW5 c s ∧ rget .CT_TASTE_TOL 0 0 x = rget .CT_TASTE_TOL 0 0 s ∧ gEff c x = gEff c s := by
  refine ⟨congrArg (flagOf 0) (read.caskReg rfl c 0), rget_of_otherRegs read.regs _ _ _ (by decide), ?_⟩
  rw [← gEff_tasted c o.op.op s]
  exact gFold_congr (shadowsOnly_of_casks (read.frame.same .casks (by decide))) (read.frame.same .cal (by decide))
    (read.frame.same .cellar (by decide)) (read.frame.same .free (by decide)) false c

/-- A run whose records are read ends as its first failing vector says. -/
theorem endTaste_compares {c : Nat} {o : RunOp} {bs : List Byte} {s x : State}
    (read : readDram (tasteAt c (modCask c (Cask.tasted o.op.op) s)) (4096 * o.op.ntok) none (modCask c (Cask.tasted o.op.op) s) = (.ok bs, x)) :
    endTaste c o s = match (List.range o.op.ntok).findSome? fun v => (tasteFault c o bs s v).map fun e => (v, e) with
      | some (v, j, d) => tasteFailed c v j d x
      | none => tastePassed c x := by
  obtain ⟨mode, tol, gain⟩ := tasteFault_reads (readDram_reads read)
  show tasteCompare c _ ((List.range o.op.ntok).map ((getCask c s).convsOf o.op.op)) (modCask c (Cask.tasted o.op.op) s) = _
  unfold tasteCompare
  rw [List.length_map, List.length_range, read]
  simp only [mode, tol, gain, zipIdx_map_range, List.findSome?_map]
  rfl

/-- A run that passed clears SUSPECT, unless a diagnosis is due or a repeated run has failed (R176, R182). -/
def Cask.passed (k : Cask) : Cask :=
  { k with suspect := k.suspect && (k.diagDue || k.condemned), tasteRepeat := k.tasteRepeat && (k.diagDue || k.condemned) }

/-- A run that failed sets SUSPECT, asks for a diagnosis the first time, and condemns the cask the second time (R182). -/
def Cask.failedTaste (k : Cask) : Cask :=
  { k with
    suspect := true
    tasteRepeat := true
    condemned := k.condemned || k.tasteRepeat
    diagDue := if k.tasteRepeat then k.diagDue else !k.condemned }

theorem tastePassed_eq (c : Nat) (s : State) : tastePassed c s = modCask c Cask.passed s := by
  have same : (fun k : Cask => if k.diagDue || k.condemned then k else { k with suspect := false, tasteRepeat := false }) = Cask.passed := by
    funext k
    cases due : k.diagDue || k.condemned <;> simp [Cask.passed, due]
  rw [tastePassed, same]

theorem tasteFailed_eq (c v j : Nat) (diff : Word) (s : State) : tasteFailed c v j diff s =
    raiseEvent 0x0404 c (v + 2 ^ 24 * (getCask c s).tasteRepeat.toNat) (j + 2 ^ 32 * diff.toNat) none
      (modCask c Cask.failedTaste (bump .CT_TASTE_FAILS 0 0 1 s)) := by
  have kept : getCask c (bump .CT_TASTE_FAILS 0 0 1 s) = getCask c s := rfl
  have marks : (if (getCask c s).tasteRepeat then
        modCask c (fun k => { k with suspect := true, condemned := true }) (bump .CT_TASTE_FAILS 0 0 1 s)
      else modCask c (fun k => { k with tasteRepeat := true }) (setSuspect c (bump .CT_TASTE_FAILS 0 0 1 s))) =
      modCask c Cask.failedTaste (bump .CT_TASTE_FAILS 0 0 1 s) := by
    cases again : (getCask c s).tasteRepeat
    · simp [setSuspect, modCask, kept, Cask.failedTaste, again]
    · simp [modCask, kept, Cask.failedTaste, again]
  rw [← marks]
  rfl

theorem tastingRun_ends (c : CaskId) {o : RunOp} {s : State} (done : tasteOver (getCask c.val s) = some o) (noInc : s.hang.incident = none) :
    exec (.tastingRun c) s = .next (endTaste c.val o s) := by
  show execTastingRun c s = _
  simp [execTastingRun, done, frozenWhere_of_noIncident noInc]

/-- What the end of a run leaves: of the casks its own alone differs, and failing runs are counted. -/
structure TasteEnded (c : Nat) (k : Cask) (fails : Word) (s u : State) : Prop where
  frame : onlyIn (.casks :: eventParts) s u
  others : otherCasks c s u
  count : rget .CT_TASTE_FAILS 0 0 u = fails
  own : getCask c u = k

theorem tasteFails_not_eventReg : regOff .CT_TASTE_FAILS 0 0 ∉ eventRegs := by decide

/-- A cask released and its records read. -/
theorem tasteEnded_read {c id : Nat} {s x : State} (read : EventOnly (modCask c (Cask.tasted id) s) x) :
    TasteEnded c ((getCask c s).tasted id) (rget .CT_TASTE_FAILS 0 0 s) s x where
  frame := onlyIn_mono ((modCask_onlyIn c _ s).andThen read.frame) (by decide)
  others := otherCasks_trans (otherCasks_modCask c _ s) (otherCasks_of_onlyIn read.frame (by decide))
  count := rget_of_otherRegs read.regs _ _ _ tasteFails_not_eventReg
  own := by rw [read.getCask, getCask_modCask]

theorem TasteEnded.passes {c : Nat} {k : Cask} {n : Word} {s x : State} (h : TasteEnded c k n s x) :
    TasteEnded c k.passed n s (tastePassed c x) := by
  rw [tastePassed_eq]
  refine ⟨onlyIn_trans h.frame (onlyIn_mono (modCask_onlyIn ..) (by decide)), otherCasks_trans h.others (otherCasks_modCask c _ x), h.count, ?_⟩
  rw [getCask_modCask, h.own]

theorem TasteEnded.fails {c : Nat} {k : Cask} {n : Word} {s x : State} (h : TasteEnded c k n s x) (v j : Nat) (diff : Word) :
    TasteEnded c k.failedTaste (n + 1) s (tasteFailed c v j diff x) := by
  have counted := bump_onlyIn .CT_TASTE_FAILS 0 0 1 x
  have marked := modCask_onlyIn c Cask.failedTaste (bump .CT_TASTE_FAILS 0 0 1 x)
  have told := eventOnly_raiseEvent 0x0404 c (v + 2 ^ 24 * (getCask c x).tasteRepeat.toNat) (j + 2 ^ 32 * diff.toNat) none
    (modCask c Cask.failedTaste (bump .CT_TASTE_FAILS 0 0 1 x))
  rw [tasteFailed_eq]
  refine ⟨?_, ?_, ?_, ?_⟩
  · exact onlyIn_trans h.frame (onlyIn_mono (counted.andThen (marked.andThen told.frame)) (by decide))
  · have others := otherCasks_trans (otherCasks_of_onlyIn counted (by decide)) (otherCasks_modCask c Cask.failedTaste _)
    exact otherCasks_trans h.others (otherCasks_trans others (otherCasks_of_onlyIn told.frame (by decide)))
  · rw [rget_of_otherRegs told.regs _ _ _ tasteFails_not_eventReg, rget_congr (marked.same .regs (by decide)), bump, rget_rset, h.count]
    rfl
  · rw [told.getCask, getCask_modCask, getCask_congr (counted.same .casks (by decide)), h.own]

section ends
variable {c : CaskId} {o : RunOp} {bs : List Byte} {s x : State} (done : tasteOver (getCask c.val s) = some o)
  (noInc : s.hang.incident = none)
  (read : readDram (tasteAt c.val (modCask c.val (Cask.tasted o.op.op) s)) (4096 * o.op.ntok) none (modCask c.val (Cask.tasted o.op.op) s) =
    (.ok bs, x))
include done noInc read

theorem tastingRun_passes (pass : ∀ v, v < o.op.ntok → tasteFault c.val o bs s v = none) : ∃ u, exec (.tastingRun c) s = .next u ∧
    TasteEnded c.val ((getCask c.val s).tasted o.op.op).passed (rget .CT_TASTE_FAILS 0 0 s) s u := by
  have allPass : ((List.range o.op.ntok).findSome? fun v => (tasteFault c.val o bs s v).map fun e => (v, e)) = none :=
    List.findSome?_eq_none_iff.mpr fun v hv => by rw [pass v (List.mem_range.mp hv)]; rfl
  refine ⟨_, tastingRun_ends c done noInc, ?_⟩
  rw [endTaste_compares read, allPass]
  exact (tasteEnded_read (readDram_reads read)).passes

theorem tastingRun_fails {v : Nat} (vector : v < o.op.ntok) (fault : tasteFault c.val o bs s v ≠ none) :
    ∃ u, exec (.tastingRun c) s = .next u ∧
      TasteEnded c.val ((getCask c.val s).tasted o.op.op).failedTaste (rget .CT_TASTE_FAILS 0 0 s + 1) s u := by
  refine ⟨_, tastingRun_ends c done noInc, ?_⟩
  rw [endTaste_compares read]
  cases first : (List.range o.op.ntok).findSome? fun v => (tasteFault c.val o bs s v).map fun e => (v, e) with
  | none =>
    have pass := List.findSome?_eq_none_iff.mp first v (List.mem_range.mpr vector)
    exact absurd (Option.map_eq_none_iff.mp pass) fault
  | some e =>
    obtain ⟨w, j, diff⟩ := e
    exact (tasteEnded_read (readDram_reads read)).fails w j diff

end ends

end Sys2Proof.Machine
end

section
/-! SUPPORT. What reads of memory leave of AccMem, and what the correction unit reads of a token (R136, R161, R163 to R165, R168, R390). -/

namespace Sys2Proof.Machine

/-! ### Reads leave AccMem and the scratchpads as they were -/

theorem poisonSector_dramOnly (m : Mem) (sec : Nat) : DramOnly m (poisonSector m sec) := by
  unfold poisonSector
  split
  · exact dramOnly_refl m
  · exact dramOnly_refl m

theorem poisonBlock_dramOnly (blk : Nat) (m : Mem) : DramOnly m (poisonBlock blk m) :=
  List.foldlRecOn (motive := DramOnly m) _ poisonSector (dramOnly_refl m) fun n hn x _ => dramOnly_trans hn (poisonSector_dramOnly n x)

theorem installIfGood_dramOnly (sec : Nat) (m : Mem) : DramOnly m (installIfGood sec m) := by
  unfold installIfGood
  split
  · exact dramOnly_refl m
  · split
    · exact dramOnly_refl m
    · exact dramOnly_refl m

theorem fillLine_dramOnly (line : Nat) (s : State) : DramOnly s.mem (fillLine line s).1.mem := by
  have room := makeRoom_dramOnly line s.mem
  unfold fillLine
  split
  · simp only
    split
    · exact List.foldlRecOn (motive := DramOnly s.mem) _ (fun m k => installIfGood (4 * line + k) m) room
        fun n hn k _ => dramOnly_trans hn (installIfGood_dramOnly (4 * line + k) n)
    · exact room
  · exact dramOnly_refl s.mem

theorem shadowFails_dramOnly (c : Nat) (p : Option PktId) (s : State) : DramOnly s.mem (shadowFails c p s).mem := by
  unfold shadowFails
  split
  · exact raiseEvent_dramOnly 0x0305 c 0 0 p (modCask c (fun k => { k with shadowOk := false }) s)
  · exact dramOnly_refl s.mem

theorem shadowHit_dramOnly (a : Nat) (p : Option PktId) (s : State) : DramOnly s.mem (shadowHit a p s).mem := by
  unfold shadowHit
  split
  · exact shadowFails_dramOnly ..
  · exact dramOnly_refl s.mem

theorem parityError_dramOnly (mem unit addr : Nat) (p : Option PktId) (s : State) : DramOnly s.mem (parityError mem unit addr p s).mem := by
  unfold parityError
  simp only
  generalize hx : raiseEvent 0x0901 unit mem addr p _ = x
  have told : DramOnly s.mem x.mem := by
    rw [← hx]
    refine dramOnly_trans ?_ (raiseEvent_dramOnly ..)
    exact dramOnly_refl _
  split
  · exact dramOnly_trans told (shadowHit_dramOnly ..)
  · exact told

theorem linkError_dramOnly (sec : Nat) (p : Option PktId) (s : State) : DramOnly s.mem (linkError sec p s).mem :=
  parityError_dramOnly 0 (homeSlice (sec / 4)) (32 * sec) p { s with mem := { s.mem with failed := s.mem.failed.drop sec } }

theorem sealCheck_dramOnly (sec : Nat) (p : Option PktId) (s : State) : DramOnly s.mem (sealCheck sec p s).2.mem := by
  unfold sealCheck
  simp only
  split
  · exact dramOnly_refl s.mem
  · split
    · exact linkError_dramOnly ..
    · split
      · exact dramOnly_refl s.mem
      · refine dramOnly_trans ?_ (raiseEvent_dramOnly ..)
        have poisoned := poisonBlock_dramOnly (sec / 128) { s.mem with seals := s.mem.seals.drop (sec / 128) }
        generalize poisonBlock (sec / 128) { s.mem with seals := s.mem.seals.drop (sec / 128) } = m at poisoned ⊢
        exact poisoned

theorem missSector_dramOnly (sec : Nat) (p : Option PktId) (s : State) : DramOnly s.mem (missSector sec p s).2.mem := by
  have checked := sealCheck_dramOnly sec p s
  unfold missSector
  split
  · exact linkError_dramOnly ..
  · split
    · next found => rwa [found] at checked
    · next x found =>
      rw [found] at checked
      simp only
      split
      · exact dramOnly_trans checked (dramOnly_trans (fillLine_dramOnly (sec / 4) x) (poisonAll_dramOnly _ _ _))
      · exact dramOnly_trans checked (parityError_dramOnly 0 (homeSlice (sec / 4)) (32 * sec) p x)

theorem readSector_dramOnly (sec : Nat) (p : Option PktId) (s : State) : DramOnly s.mem (readSector sec p s).2.mem := by
  unfold readSector
  split
  · split
    · exact dramOnly_refl s.mem
    · exact parityError_dramOnly 1 (homeSlice (sec / 4)) (32 * sec) p s
  · exact missSector_dramOnly ..

theorem readSectors_dramOnly (p : Option PktId) (n sec : Nat) (s : State) : DramOnly s.mem (readSectors p sec n s).2.mem := by
  induction n generalizing sec s with
  | zero => exact dramOnly_refl s.mem
  | succ n ih =>
    have first := readSector_dramOnly sec p s
    unfold readSectors
    split
    · next x found =>
      rw [found] at first
      have rest := ih (sec + 1) x
      split
      · next read => rw [read] at rest; exact dramOnly_trans first rest
      · exact dramOnly_trans first rest
    · exact first

theorem readDram_dramOnly (a n : Nat) (p : Option PktId) (s : State) : DramOnly s.mem (readDram a n p s).2.mem := by
  have read := readSectors_dramOnly p ((a + n - 1) / 32 + 1 - a / 32) (a / 32) s
  unfold readDram
  split
  · exact dramOnly_refl s.mem
  · split
    · next found => rwa [found] at read
    · exact read

theorem devRead_dramOnly (r a n : Nat) (p : Option PktId) (s : State) : DramOnly s.mem (devRead r a n p s).2.mem := by
  unfold devRead
  split
  · exact dramOnly_refl s.mem
  · split
    · exact readDram_dramOnly ..
    · simp only
      split
      · unfold spFetch
        split
        · exact parityError_dramOnly ..
        · exact dramOnly_refl s.mem
      · exact dramOnly_refl s.mem
    · exact dramOnly_refl s.mem

end Sys2Proof.Machine
end

section
/-! SUPPORT. What the correction unit reads of a token, and what its reads leave as it was (R136, R161, R163 to R165, R168). -/

namespace Sys2Proof.Machine

/-! ### What a token's reading may change -/

/-- What the correction unit changes as it reads a token: row buffers, what its reads and events do, and nothing of AccMem. -/
structure TokenReads (s u : State) : Prop where
  frame : onlyIn (.racks :: readParts) s u
  acc : u.mem.acc = s.mem.acc

theorem tokenReads_refl (s : State) : TokenReads s s := ⟨onlyIn_refl .., rfl⟩

theorem tokenReads_trans {s u v : State} (h : TokenReads s u) (k : TokenReads u v) : TokenReads s v :=
  ⟨onlyIn_trans h.frame k.frame, k.acc.trans h.acc⟩

theorem tokenReads_of_onlyIn {ps : List Part} {s u : State} (h : onlyIn ps s u) (sub : ∀ p ∈ ps, p ∈ .racks :: readParts)
    (apart : Part.mem ∉ ps) : TokenReads s u :=
  ⟨onlyIn_mono h sub, congrArg Mem.acc (h.same .mem apart)⟩

theorem tokenReads_foldl {α β : Type} (f : State × β → α → State × β) (h : ∀ a x, TokenReads a.1 (f a x).1) (l : List α)
    (a : State × β) : TokenReads a.1 (l.foldl f a).1 :=
  List.foldlRecOn (motive := fun b => TokenReads a.1 b.1) l f (tokenReads_refl a.1) fun b hb x _ => tokenReads_trans hb (h b x)

theorem tokenReads_raiseEvent (code unit aux detail : Nat) (p : Option PktId) (s : State) :
    TokenReads s (raiseEvent code unit aux detail p s) :=
  ⟨onlyIn_mono (raiseEvent_onlyIn ..) (by decide), (raiseEvent_dramOnly ..).1⟩

theorem tokenReads_readDram (a n : Nat) (p : Option PktId) (s : State) : TokenReads s (readDram a n p s).2 :=
  ⟨onlyIn_mono (readDram_onlyIn ..) (by decide), (readDram_dramOnly ..).1⟩

theorem tokenReads_devRead (r a n : Nat) (p : Option PktId) (s : State) : TokenReads s (devRead r a n p s).2 :=
  ⟨onlyIn_mono (devRead_onlyIn ..) (by decide), (devRead_dramOnly ..).1⟩

theorem tokenReads_shadowFails (c : Nat) (p : Option PktId) (s : State) : TokenReads s (shadowFails c p s) :=
  ⟨onlyIn_mono (shadowFails_onlyIn ..) (by decide), (shadowFails_dramOnly ..).1⟩

theorem tokenReads_modRack (r : Nat) (f : RackSt → RackSt) (s : State) : TokenReads s (modRack r f s) :=
  tokenReads_of_onlyIn (modRack_onlyIn r f s) (by decide) (by decide)

theorem tokenReads_pktFlag (b : Nat) (p : Option PktId) (s : State) : TokenReads s (pktFlag b p s) :=
  tokenReads_of_onlyIn (pktFlag_onlyIn b p s) (by decide) (by decide)

/-! ### Codes, scale and side list (R159, R163, R204, R205) -/

theorem TokenReads.devRead {r a n : Nat} {p : Option PktId} {x : Rd} {s u v : State} (before : TokenReads s u)
    (found : devRead r a n p u = (x, v)) : TokenReads s v := by
  have read := tokenReads_devRead r a n p u
  rw [found] at read
  exact tokenReads_trans before read

theorem readTok_reads (w : CorrWork) (s : State) : TokenReads s (readTok w s).2.2 := by
  unfold readTok
  simp only
  split
  · next header =>
    have header := (tokenReads_refl s).devRead header
    split
    · next codes =>
      have codes := header.devRead codes
      split
      · next scale =>
        have scale := codes.devRead scale
        split
        · exact scale
        · split
          · next side => exact scale.devRead side
          · next side => exact scale.devRead side
      · next scale => exact codes.devRead scale
    · next codes => exact header.devRead codes
  · next header => exact (tokenReads_refl s).devRead header

theorem sideBad_reads (c : Nat) (o : CaskOp) (t row : Nat) (s : State) : TokenReads s (sideBad c o t row s) :=
  tokenReads_trans (tokenReads_pktFlag 20 o.pkt s) (tokenReads_raiseEvent ..)

theorem clampEvent_reads (c : Nat) (o : CaskOp) (t detail : Nat) (s : State) : TokenReads s (clampEvent c o t detail s) := by
  have counted : TokenReads s (bump .CT_ESC_CLAMPS 0 0 1 s) := tokenReads_of_onlyIn (bump_onlyIn ..) (by decide) (by decide)
  exact tokenReads_trans counted (tokenReads_trans (tokenReads_pktFlag 21 o.pkt _) (tokenReads_raiseEvent ..))

theorem useEntry_reads (c : Nat) (o : CaskOp) (t : Nat) (scale : Word) (escaped : Nat → Bool) (acc : State × List (Nat × Int) × List Nat)
    (e : Nat × Nat) : TokenReads acc.1 (useEntry c o t scale escaped acc e).1 := by
  unfold useEntry
  simp only
  split
  · exact sideBad_reads ..
  · split
    · exact tokenReads_refl _
    · exact clampEvent_reads ..

theorem useSide_reads (c : Nat) (o : CaskOp) (t : Nat) (scale : Word) (escaped : Nat → Bool) (side : List Byte) (s : State) :
    TokenReads s (useSide c o t scale escaped side s).1 := by
  unfold useSide
  simp only
  have used := tokenReads_foldl _ (useEntry_reads c o t scale escaped)
    ((List.range (side.length / 4)).filterMap fun k => sideEntry (leAt (4 * k) 4 side)) (s, [], [])
  exact List.foldlRecOn (motive := TokenReads s) _ (fun s i => sideBad c o t i s) used
    fun u hu row _ => tokenReads_trans hu (sideBad_reads c o t row u)

/-! ### Rows and columns of the shadow (R161, R164, R165, R168) -/

theorem shadowRowOf_reads (c row : Nat) (p : Option PktId) (s : State) : TokenReads s (shadowRowOf c row p s).2 := by
  have read := tokenReads_readDram (shadowAt c s + 512 * row) 512 p s
  obtain ⟨x, found⟩ : ∃ x, readDram (shadowAt c s + 512 * row) 512 p s = x := ⟨_, rfl⟩
  unfold shadowRowOf
  rw [found] at read ⊢
  split
  · exact tokenReads_refl s
  · split
    · exact tokenReads_refl s
    · split
      · next d u =>
        have buffered : TokenReads u (bufferRow c row d u) := tokenReads_modRack ..
        exact tokenReads_trans read buffered
      · exact tokenReads_trans read (tokenReads_shadowFails ..)

theorem escapedRows_reads (c : Nat) (p : Option PktId) (xs : List (Nat × Int)) (s : State) : TokenReads s (escapedRows c p xs s).2 := by
  induction xs generalizing s with
  | nil => exact tokenReads_refl s
  | cons x xs ih =>
    have first := shadowRowOf_reads c x.1 p s
    unfold escapedRows
    split
    · next found => rwa [found] at first
    · next u found =>
      rw [found] at first
      have rest := ih u
      split
      · next read => rw [read] at rest; exact tokenReads_trans first rest
      · exact tokenReads_trans first rest

/-- The recursion is unfolded by `delta`, with its reads generalized: the kernel would evaluate them as it checks the equation lemma. -/
theorem pinnedSectors_reads (c g : Nat) (p : Option PktId) (is : List Nat) (s : State) : TokenReads s (pinnedSectors c g p is s).2 := by
  have reads := fun i u => tokenReads_readDram (shadowAt c u + 512 * i + 32 * g) 32 p u
  delta pinnedSectors pinnedSectors._f
  obtain ⟨dram, same⟩ : ∃ dram, readDram = dram := ⟨_, rfl⟩
  rw [same] at reads ⊢
  induction is generalizing s with
  | nil => exact tokenReads_refl s
  | cons i is ih =>
    have first := reads i s
    dsimp only
    split
    · next u found =>
      rw [found] at first
      have both := tokenReads_trans first (ih u)
      split
      · next read => exact congrArg Prod.snd read ▸ both
      · exact both
    · next found => rw [found] at first; exact tokenReads_trans first (tokenReads_shadowFails ..)

/-- The recursion is unfolded by `delta`, with the 512 rows generalized, as above. -/
theorem pinnedLevels_reads (c : Nat) (p : Option PktId) (gs : List Nat) (s : State) : TokenReads s (pinnedLevels c p gs s).2 := by
  have reads := fun g => pinnedSectors_reads c g p (List.range 512)
  delta pinnedLevels pinnedLevels._f
  obtain ⟨rows, same⟩ : ∃ rows, List.range 512 = rows := ⟨_, rfl⟩
  rw [same] at reads ⊢
  induction gs generalizing s with
  | nil => exact tokenReads_refl s
  | cons g gs ih =>
    have first := reads g s
    dsimp only
    split
    · exact tokenReads_refl s
    · split
      · next found => rwa [found] at first
      · next u found =>
        rw [found] at first
        have both := tokenReads_trans first (ih u)
        split
        · next read => exact congrArg Prod.snd read ▸ both
        · exact both

theorem pinnedCols_reads (w : CorrWork) (pin : List Word) (s : State) : TokenReads s (pinnedCols w pin s).2 := by
  have read := pinnedLevels_reads w.cask w.op.pkt (pinnedGroups w.op.w5 pin) s
  unfold pinnedCols
  split
  · exact tokenReads_refl s
  · split
    · next gs u found =>
      rw [found] at read
      dsimp only at read ⊢
      exact tokenReads_trans read (tokenReads_modRack ..)
    · exact read

end Sys2Proof.Machine
end

section
/-! SUPPORT. What the correction unit adds for a token, and how it goes on to the next one (R161, R164, R165, R167). -/

namespace Sys2Proof.Machine

/-! ### Adds of a list, each to an element of its own -/

/-- An add that is exact modulo 2³⁶ into the element with a key, and leaves every other element (R239). -/
structure AddsAt (key : Nat) (add : BitVec 36) (s u : State) : Prop where
  wf : AccWf u
  own : accAt key u = accAt key s + add
  others : ∀ a, a ≠ key → accAt a u = accAt a s

theorem addsAt_accAdd {s u : State} (wf : AccWf s) (same : u.mem.acc = s.mem.acc) (r slot t c : Nat) (v : Int) :
    AddsAt (accKey r slot t c) (BitVec.ofInt 36 v) s (accAdd r slot t c v u) where
  wf := Store.setD_wf _ _ _ _ (same ▸ wf)
  own := by
    show Store.getD 0 _ (Store.setD 0 _ _ u.mem.acc) = _
    rw [same, Store.getD_setD_same _ _ _ _ wf]
    rfl
  others a n := by
    show Store.getD 0 a (Store.setD 0 _ _ u.mem.acc) = _
    rw [same, Store.getD_setD_ne _ _ _ wf n]
    rfl

section fold
variable {α : Type} {f : State → α → State} {key : α → Nat} {add : α → BitVec 36}
  (one : ∀ s x, AccWf s → AddsAt (key x) (add x) s (f s x))
include one

theorem accAt_foldl_other {l : List α} {s : State} (wf : AccWf s) {a : Nat} (n : ∀ x ∈ l, a ≠ key x) :
    accAt a (l.foldl f s) = accAt a s := by
  induction l generalizing s with
  | nil => rfl
  | cons x l ih =>
    obtain ⟨first, rest⟩ := List.forall_mem_cons.mp n
    have added := one s x wf
    exact (ih added.wf rest).trans (added.others a first)

theorem accAt_foldl_own {l : List α} (nd : (l.map key).Nodup) {s : State} (wf : AccWf s) {x : α} (hx : x ∈ l) :
    accAt (key x) (l.foldl f s) = accAt (key x) s + add x := by
  induction l generalizing s with
  | nil => exact absurd hx List.not_mem_nil
  | cons y l ih =>
    obtain ⟨out, nd⟩ := List.nodup_cons.mp nd
    have added := one s y wf
    rcases List.mem_cons.mp hx with rfl | hx
    · exact (accAt_foldl_other one added.wf fun z hz e => out (List.mem_map.mpr ⟨z, hz, e.symm⟩)).trans added.own
    · have apart : key x ≠ key y := fun e => out (List.mem_map.mpr ⟨x, hx, e⟩)
      rw [List.foldl_cons, ih nd added.wf hx, added.others _ apart]

end fold

/-! ### One column, and all of them (R161) -/

/-- What the correction unit adds to a column: G_c × C, rounded and limited to 32 bits (R161). -/
def corrAdd (g : Word) (x : Int) : BitVec 36 :=
  BitVec.ofInt 36 (clampInt (-2147483648) 2147483647 (roundAway (sval g * x) (2 ^ 149)))

theorem corrAdd_zero (g : Word) : corrAdd g 0 = 0 := by
  rw [corrAdd, mul_zero]
  rfl

theorem corrColumn_addsAt (c : Nat) (o : CaskOp) (t : Nat) (g : Word) (s : State) (e : Nat × Int) (wf : AccWf s) :
    AddsAt (columnKey c o t e.1) (corrAdd g e.2) s (corrColumn c o t g s e) := by
  unfold corrColumn
  split
  · next zero => exact ⟨wf, by rw [zero, corrAdd_zero]; exact (add_zero _).symm, fun _ _ => rfl⟩
  · refine addsAt_accAdd wf ?_ ..
    split
    · rfl
    · exact (clampEvent_reads ..).acc

/-- The columns of a token corrected: each gets its own add, and no other element changes. -/
theorem accAt_corrColumns {s : State} (wf : AccWf s) (c : Nat) (o : CaskOp) (t : Nat) (g : Word) (sum : Nat → Int) (n : Nat) :
    let u := ((List.range n).map fun j => (j, sum j)).foldl (corrColumn c o t g) s
    (∀ j, j < n → accAt (columnKey c o t j) u = accAt (columnKey c o t j) s + corrAdd g (sum j)) ∧
    ∀ a, (∀ j, j < n → a ≠ columnKey c o t j) → accAt a u = accAt a s := by
  intro u
  have folded : u = (List.range n).foldl (fun s j => corrColumn c o t g s (j, sum j)) s := List.foldl_map
  have one : ∀ s j, AccWf s → AddsAt (columnKey c o t j) (corrAdd g (sum j)) s (corrColumn c o t g s (j, sum j)) :=
    fun s j h => corrColumn_addsAt c o t g s (j, sum j) h
  have distinct : ((List.range n).map (columnKey c o t)).Nodup :=
    List.nodup_range.map fun i j e => by_contra fun ne => columnKey_ne ne e
  rw [folded]
  exact ⟨fun j hj => accAt_foldl_own one distinct wf (List.mem_range.mpr hj),
    fun a n => accAt_foldl_other one wf fun j hj => n j (List.mem_range.mp hj)⟩

/-! ### A token served (R161, R164, R165) -/

/-- Whether a row of a token is escaped (R159). -/
def tokEscaped (o : CaskOp) (i : TokIn) : Nat → Bool :=
  fun k => decide (codeAt (decide (o.infmt = 1)) i.codes k = escCode (decide (o.infmt = 1)))

/-- The codes of a token by row, 0 where the row is escaped (R164). -/
def tokRows (o : CaskOp) (i : TokIn) : List Int :=
  (List.range 512).map fun k => if tokEscaped o i k then 0 else codeAt (decide (o.infmt = 1)) i.codes k

/-- A token whose operands are read: its side list, its escaped rows and its pinned columns, each from the state the one before left. -/
structure TokenRead (w : CorrWork) (pin : List Word) (i : TokIn) (used : List (Nat × Int)) (esc : List (Int × List Int))
    (gs : List (Nat × LevelRows)) (s s1 s4 : State) : Prop where
  operands : ∃ x, readTok w s = (.ok x, i, s1)
  weights : ∃ s2 s3, useSide w.cask w.op w.tok i.scale (tokEscaped w.op i) i.side s1 = (s2, used) ∧
    escapedRows w.cask w.op.pkt used s2 = (some esc, s3) ∧ pinnedCols w pin s3 = (some gs, s4)

section token
variable {w : CorrWork} {pin : List Word} {i : TokIn} {used : List (Nat × Int)} {esc : List (Int × List Int)}
  {gs : List (Nat × LevelRows)} {s s1 s4 : State}

theorem TokenRead.reads (h : TokenRead w pin i used esc gs s s1 s4) : TokenReads s s4 := by
  obtain ⟨⟨x, operands⟩, s2, s3, side, rows, cols⟩ := h
  have r1 := readTok_reads w s
  have r2 := useSide_reads w.cask w.op w.tok i.scale (tokEscaped w.op i) i.side s1
  have r3 := escapedRows_reads w.cask w.op.pkt used s2
  have r4 := pinnedCols_reads w pin s3
  rw [operands] at r1
  rw [side] at r2
  rw [rows] at r3
  rw [cols] at r4
  exact tokenReads_trans r1 (tokenReads_trans r2 (tokenReads_trans r3 r4))

/-- A token of a cask that is not suspect, whose adds the cask did not drop, gets its terms and its adds (R161, R171, R175). -/
theorem TokenRead.serves (h : TokenRead w pin i used esc gs s s1 s4) (live : (getCask w.cask s4).suspect = false)
    (takes : w.dropped.contains w.tok = false) :
    corrServe w pin i s1 = ((List.range (columns w.op.w5)).map fun j => (j, corrSum w.op.w5 pin esc gs (tokRows w.op i) j)).foldl
      (corrColumn w.cask w.op w.tok (Store.getD one32 w.cask s.quant.gain)) (corrTerms w.cask w.op w.tok pin gs (tokRows w.op i) s4) := by
  have gain : s4.quant = s.quant := h.reads.frame.same .quant (by decide)
  obtain ⟨-, s2, s3, side, rows, cols⟩ := h
  have sound : dropsAdds w.cask (corrTerms w.cask w.op w.tok pin gs (tokRows w.op i) s4) = false := by
    rw [dropsAdds, show getCask w.cask (corrTerms w.cask w.op w.tok pin gs (tokRows w.op i) s4) = getCask w.cask s4 from rfl, live]
    rfl
  rw [← gain]
  unfold tokRows at sound ⊢
  unfold tokEscaped at side sound ⊢
  unfold corrServe
  simp only [side, rows, cols, sound, takes]
  rfl

end token

/-! ### On to the next token (R167) -/

section next
variable {w : CorrWork} (more : w.tok + 1 < w.op.ntok) (s : State)
include more

theorem corrNext_mem : (corrNext w s).mem = s.mem := by
  unfold corrNext
  simp only [if_pos more]
  split
  · rfl
  · rfl

theorem corrNext_tok : ∀ y ∈ (getRack (w.cask / 16) (corrNext w s)).corr, y.op.op = w.op.op → y.tok = w.tok + 1 := by
  unfold corrNext
  simp only [if_pos more]
  split
  · next gone =>
    intro y hy same
    simp only [corrHas, Bool.not_eq_true', List.any_eq_false, decide_eq_true_eq] at gone
    exact absurd same (gone y hy)
  · rw [getRack_modRack]
    intro y hy same
    obtain ⟨x, -, rfl⟩ := List.mem_map.mp hy
    by_cases mine : x.op.op = w.op.op
    · rw [if_pos mine]
    · rw [if_neg mine] at same
      exact absurd same mine

end next

/-! ### The two commands -/

/-- A shadow row that the row buffer misses is read into it (R168). -/
theorem shadowRowOf_miss {c row : Nat} {p : Option PktId} {d : List Byte} {s s1 : State} (ok : (getCask c s).shadowOk = true)
    (miss : bufferedRow c row s = none) (read : readDram (shadowAt c s + 512 * row) 512 p s = (.ok d, s1)) :
    shadowRowOf c row p s = (some d, bufferRow c row d s1) := by
  unfold shadowRowOf
  rw [read]
  simp only [ok, miss]
  rfl

section commands
variable {r : Rack} {w : CorrWork} {rest : List CorrWork} {s : State} (corr : (getRack r.val s).corr = w :: rest)
  (home : w.cask / 16 = r.val)
include corr

theorem correctionToken_serves {pin : List Word} {i : TokIn} {used : List (Nat × Int)} {esc : List (Int × List Int)}
    {gs : List (Nat × LevelRows)} {s1 s4 : State} (h : TokenRead w pin i used esc gs s s1 s4) (pins : w.pins = some pin)
    (thawed : frozenWhere (·.coversRack r.val) s = false) :
    exec (.correctionToken r) s = .next (corrNext w (corrServe w pin i s1)) := by
  obtain ⟨x, operands⟩ := h.operands
  show execCorrectionToken r s = _
  unfold execCorrectionToken
  simp only [corr, pins, thawed, operands]
  rfl

theorem correctionToken_adds {pin : List Word} {i : TokIn} {used : List (Nat × Int)} {esc : List (Int × List Int)}
    {gs : List (Nat × LevelRows)} {s1 s4 : State} (h : TokenRead w pin i used esc gs s s1 s4) (pins : w.pins = some pin)
    (thawed : frozenWhere (·.coversRack r.val) s = false) (live : (getCask w.cask s4).suspect = false)
    (takes : w.dropped.contains w.tok = false) (wf : AccWf s) (more : w.tok + 1 < w.op.ntok) :
    ∃ u, exec (.correctionToken r) s = .next u ∧
      (∀ j, j < columns w.op.w5 → accAt (columnKey w.cask w.op w.tok j) u = accAt (columnKey w.cask w.op w.tok j) s +
        corrAdd (Store.getD one32 w.cask s.quant.gain) (corrSum w.op.w5 pin esc gs (tokRows w.op i) j)) ∧
      (∀ a, (∀ j, j < columns w.op.w5 → a ≠ columnKey w.cask w.op w.tok j) → accAt a u = accAt a s) ∧
      ∀ y ∈ (getRack (w.cask / 16) u).corr, y.op.op = w.op.op → y.tok = w.tok + 1 := by
  have same : ∀ a, accAt a (corrTerms w.cask w.op w.tok pin gs (tokRows w.op i) s4) = accAt a s := fun a =>
    congrArg (Store.getD 0 a) h.reads.acc
  have wf4 : AccWf (corrTerms w.cask w.op w.tok pin gs (tokRows w.op i) s4) := (congrArg (Store.wf 0) h.reads.acc).trans wf
  obtain ⟨own, others⟩ := accAt_corrColumns wf4 w.cask w.op w.tok (Store.getD one32 w.cask s.quant.gain)
    (corrSum w.op.w5 pin esc gs (tokRows w.op i)) (columns w.op.w5)
  rw [← h.serves live takes] at own others
  have next : ∀ a, accAt a (corrNext w (corrServe w pin i s1)) = accAt a (corrServe w pin i s1) := fun a => by
    rw [accAt, corrNext_mem more, accAt]
  refine ⟨_, correctionToken_serves corr h pins thawed, fun j hj => ?_, fun a out => ?_, corrNext_tok more _⟩
  · rw [next, own j hj, same]
  · rw [next, others a out, same]

include home

theorem rowBufferFill_buffers (c : CaskId) (row : Fin 512) {d : List Byte} {s1 : State} (mine : c.val = w.cask)
    (ok : (getCask c.val s).shadowOk = true) (miss : ∀ b ∈ (getRack r.val s).rowBuf, ¬ (b.cask = c.val ∧ b.row = row.val))
    (read : readDram (shadowAt c.val s + 512 * row.val) 512 w.op.pkt s = (.ok d, s1)) :
    exec (.rowBufferFill c row) s = .next (bufferRow c.val row.val d s1) := by
  have rack : c.val / 16 = r.val := mine ▸ home
  have absent : bufferedRow c.val row.val s = none := by
    rw [bufferedRow, rack, Option.map_eq_none_iff, List.find?_eq_none]
    exact fun b hb => by simpa using miss b hb
  show execRowBufferFill c row s = _
  unfold execRowBufferFill
  simp only [rack, corr, List.find?_cons, ← mine, decide_true, shadowRowOf_miss ok absent read]

theorem rowBufferFill_fills (c : CaskId) (row : Fin 512) {d : List Byte} {s1 : State} (mine : c.val = w.cask)
    (ok : (getCask c.val s).shadowOk = true) (miss : ∀ b ∈ (getRack r.val s).rowBuf, ¬ (b.cask = c.val ∧ b.row = row.val))
    (read : readDram (shadowAt c.val s + 512 * row.val) 512 w.op.pkt s = (.ok d, s1)) :
    ∃ u, exec (.rowBufferFill c row) s = .next u ∧ onlyIn (.racks :: eventParts) s u ∧ otherRacks r.val s u ∧
      (getRack r.val u).rowBuf = (if 128 ≤ (getRack r.val s).rowBuf.length then (getRack r.val s).rowBuf.drop 1
        else (getRack r.val s).rowBuf) ++ [⟨c.val, row.val, d⟩] := by
  have rack : c.val / 16 = r.val := mine ▸ home
  have reads := (readDram_reads read).frame
  refine ⟨_, rowBufferFill_buffers corr home c row mine ok miss read, ?_, ?_, ?_⟩
  · exact onlyIn_mono (reads.andThen (modRack_onlyIn (c.val / 16) _ s1)) (by decide)
  · rw [← rack]
    exact otherRacks_trans (otherRacks_of_onlyIn reads (by decide)) (otherRacks_setRack _ _ s1)
  · rw [bufferRow, rack, getRack_modRack, getRack_congr (reads.same .racks (by decide))]

end commands

end Sys2Proof.Machine
end

section
/-! PROOFS. The correction unit and tasting (R161 to R168, R176 to R182). -/

namespace Sys2Proof.Machine

/-- Settles O29: the correction unit adds each column once from the operands that its reads leave with AccMem as it was, and a tasting run
changes its own cask alone as it begins and as it ends. -/
theorem correctionAndTasting : Obligations.CorrectionAndTasting := by
  unfold Obligations.CorrectionAndTasting
  refine ⟨fun r w rest s corr home => ⟨?_, ?_⟩, ?_, ?_⟩
  · intro pin i x s1 s2 s3 s4 used esc gs a4 escaped xs pins thawed operands side rows cols live takes wf more
    have read : TokenRead w pin i used esc gs s s1 s4 := ⟨⟨x, operands⟩, s2, s3, side, rows, cols⟩
    have adds := correctionToken_adds corr read pins thawed live takes wf more
    have codes : tokRows w.op i = xs := by unfold tokRows tokEscaped; rfl
    rw [codes] at adds
    rw [← home]
    exact adds
  · intro c row d s1 mine ok miss read
    exact rowBufferFill_fills corr home c row mine ok miss read
  · intro c s on running left next quiet serves _ _ n
    exact ⟨_, tastingRun_begins c on running left next quiet serves, startTaste_spec quiet⟩
  · intro c o bs s s1 k s0 first done noInc read
    refine ⟨fun pass => ?_, fun v vector fault => ?_⟩
    · obtain ⟨u, ran, ended⟩ := tastingRun_passes done noInc read pass
      obtain ⟨frame, others, count, own⟩ := ended
      unfold Cask.passed Cask.tasted at own
      exact ⟨u, ran, frame, others, count, own⟩
    · obtain ⟨u, ran, ended⟩ := tastingRun_fails done noInc read vector fault
      obtain ⟨frame, others, count, own⟩ := ended
      unfold Cask.failedTaste Cask.tasted at own
      exact ⟨u, ran, frame, others, count, own⟩

end Sys2Proof.Machine
end

section
/-! SUPPORT. What reading descriptors, and rejecting a packet for them, leave of the packet and of the rest of the state (R366 to R371). -/

namespace Sys2Proof.Machine

/-! ### A read changes of a packet only its count of events -/

section kept
variable {Q : Pkt → Prop} (counts : ∀ k n, Q k → Q { k with events := n })
include counts

theorem pktsKept_loseShadow (c : Nat) (p : Option PktId) (s : State) : PktsKept Q s (loseShadow c p s) :=
  pktsKept_trans (pktsKept_of_onlyIn (modCask_onlyIn ..) (by decide)) (pktsKept_raiseEvent counts _ _ _ _ p _)

theorem pktsKept_shadowHit (a : Nat) (p : Option PktId) (s : State) : PktsKept Q s (shadowHit a p s) := by
  unfold shadowHit
  split
  · unfold shadowFails
    split
    · exact pktsKept_loseShadow counts _ p s
    · exact pktsKept_refl s
  · exact pktsKept_refl s

/-- A parity error is an event of the packet, and may be one of a shadow's loss (R136, R390). -/
theorem pktsKept_parityError (m unit addr : Nat) (p : Option PktId) (s : State) : PktsKept Q s (parityError m unit addr p s) := by
  have noted := ((bump_onlyIn .MC_PARITY_ERRS 0 0 1 s).andThen (rset64_onlyIn .MC_ERR_ADDR 0 0 addr _)).andThen
    (rset_onlyIn .MC_ERR_SRC 0 0 (BitVec.ofNat 32 (m * 2 ^ 28 + unit)) _)
  have told := pktsKept_trans (pktsKept_of_onlyIn (Q := Q) noted (by decide)) (pktsKept_raiseEvent counts 0x0901 unit m addr p _)
  unfold parityError
  simp only
  split
  · exact pktsKept_trans told (pktsKept_shadowHit counts addr p _)
  · exact told

theorem pktsKept_linkError (sec : Nat) (p : Option PktId) (s : State) : PktsKept Q s (linkError sec p s) :=
  pktsKept_trans (pktsKept_of_onlyIn (mem_onlyIn _ s) (by decide)) (pktsKept_parityError counts _ _ _ p _)

theorem pktsKept_sealCheck (sec : Nat) (p : Option PktId) (s : State) : PktsKept Q s (sealCheck sec p s).2 := by
  unfold sealCheck
  simp only
  split
  · exact pktsKept_refl s
  · split
    · dsimp only
      exact pktsKept_linkError counts _ p s
    · split
      · dsimp only
        exact pktsKept_of_onlyIn (mem_onlyIn _ s) (by decide)
      · dsimp only
        refine pktsKept_trans ?_ (pktsKept_raiseEvent counts _ _ _ _ p _)
        refine pktsKept_of_rings ?_
        simp only [bump_rings]

theorem pktsKept_missSector (sec : Nat) (p : Option PktId) (s : State) : PktsKept Q s (missSector sec p s).2 := by
  unfold missSector
  split
  · dsimp only
    exact pktsKept_linkError counts sec p s
  · have checked := pktsKept_sealCheck counts sec p s
    split
    · next e => rwa [e] at checked
    · next e =>
      rw [e] at checked
      dsimp only
      split
      · dsimp only
        exact pktsKept_trans checked (pktsKept_of_onlyIn ((fillLine_onlyIn ..).andThen (poisonEvents_onlyIn ..)) (by decide))
      · dsimp only
        exact pktsKept_trans checked (pktsKept_parityError counts _ _ _ p _)

theorem pktsKept_readSector (sec : Nat) (p : Option PktId) (s : State) : PktsKept Q s (readSector sec p s).2 := by
  unfold readSector
  split
  · split
    · exact pktsKept_of_onlyIn (mem_onlyIn _ s) (by decide)
    · dsimp only
      exact pktsKept_parityError counts _ _ _ p s
  · exact pktsKept_missSector counts sec p s

theorem pktsKept_readSectors (p : Option PktId) (n sec : Nat) (s : State) : PktsKept Q s (readSectors p sec n s).2 := by
  induction n generalizing sec s with
  | zero => exact pktsKept_refl s
  | succ n ih =>
    unfold readSectors
    have first := pktsKept_readSector counts sec p s
    split
    · next s1 e =>
      rw [e] at first
      have rest := ih (sec + 1) s1
      split
      · next e' =>
        rw [e'] at rest
        exact pktsKept_trans first rest
      · exact pktsKept_trans first rest
    · exact first

theorem pktsKept_readDram (a n : Nat) (p : Option PktId) (s : State) : PktsKept Q s (readDram a n p s).2 := by
  unfold readDram
  split
  · exact pktsKept_refl s
  · have read := pktsKept_readSectors counts p ((a + n - 1) / 32 + 1 - a / 32) (a / 32) s
    split
    · next e => rwa [e] at read
    · exact read

/-- A read of the device's memories changes of a packet only its count of events (R376, R390). -/
theorem pktsKept_devRead (r a n : Nat) (p : Option PktId) (s : State) : PktsKept Q s (devRead r a n p s).2 := by
  unfold devRead
  split
  · exact pktsKept_refl s
  · split
    · exact pktsKept_readDram counts _ n p s
    · simp only
      split
      · unfold spFetch
        split
        · dsimp only
          exact pktsKept_parityError counts _ _ _ p s
        · exact pktsKept_refl s
      · exact pktsKept_refl s
    · exact pktsKept_refl s

end kept

/-! ### What descriptor reads change -/

/-- What the reads of a packet's descriptors may change, each of which brings its bytes or fails: packets stay where they are. -/
structure DescRead (s u : State) : Prop where
  frame : onlyIn readParts s u
  shadows : shadowsOnly s u
  packets : PktsKept (fun _ => True) s u

theorem descRead_refl (s : State) : DescRead s s := ⟨onlyIn_refl .., shadowsOnly_refl s, pktsKept_refl s⟩

theorem descRead_trans {s u v : State} (h : DescRead s u) (k : DescRead u v) : DescRead s v :=
  ⟨onlyIn_trans h.frame k.frame, shadowsOnly_trans h.shadows k.shadows, pktsKept_trans h.packets k.packets⟩

theorem descRead_of_fetch {s u : State} (h : onlyIn fetchParts s u) : DescRead s u :=
  ⟨onlyIn_mono h (by decide), shadowsOnly_of_casks (h.same .casks (by decide)), pktsKept_of_onlyIn h (by decide)⟩

theorem descRead_devRead {r a n : Nat} {p : Option PktId} {x : Rd} {s u : State} (h : devRead r a n p s = (x, u)) : DescRead s u := by
  obtain rfl : (devRead r a n p s).2 = u := by rw [h]
  exact ⟨devRead_onlyIn .., devRead_shadows _ _ _ _ _, pktsKept_devRead (fun _ _ _ => trivial) _ _ _ _ _⟩

theorem DescRead.found {s u : State} (h : DescRead s u) {p : PktId} {x : Pkt} (found : findPkt p s = some x) : ∃ y, findPkt p u = some y := by
  obtain ⟨y, there, -⟩ := PktHas.kept ⟨x, found, trivial⟩ h.packets
  exact ⟨y, there⟩

/-- A read that brings its bytes leaves every packet and every cask (R376, R390). -/
theorem devRead_fetches {r a n : Nat} {p : Option PktId} {s u : State} {d : List Byte} (h : devRead r a n p s = (.ok d, u)) :
    onlyIn fetchParts s u := by
  unfold devRead at h
  split at h
  · cases h
  · split at h
    · exact readDram_fetches h
    · simp only at h
      split at h
      · unfold spFetch at h
        split at h
        · cases h
        · cases h
          exact onlyIn_refl ..
      · cases h
    · cases h

theorem findPkt_of_fetch {p : PktId} {s u : State} (h : onlyIn fetchParts s u) : findPkt p u = findPkt p s := by
  rw [findPkt, getRing_congr (h.same .rings (by decide)), ← findPkt]

/-! ### One descriptor -/

section desc
variable {a n : Nat} {p : PktId} {s u : State}

theorem readDesc_misplaced (h : a % 32 ≠ 0 ∨ inMemory noRack a n s = false) : readDesc a n p s = (.error 3, s) := by
  unfold readDesc
  rw [if_pos (by simpa using h)]

theorem readDesc_reads (aligned : a % 32 = 0) (inside : inMemory noRack a n s = true) {d : List Byte}
    (read : devRead noRack a n (some p) s = (.ok d, u)) : readDesc a n p s = (.ok d, u) := by
  unfold readDesc
  rw [if_neg (by simp [aligned, inside]), read]

theorem readDesc_fails (aligned : a % 32 = 0) (inside : inMemory noRack a n s = true) {x : Rd} (failed : x = .bus ∨ x = .badSeal)
    (read : devRead noRack a n (some p) s = (x, u)) : readDesc a n p s = (.error 5, busOf x (some p) u) := by
  unfold readDesc
  rw [if_neg (by simp [aligned, inside]), read]
  rcases failed with rfl | rfl <;> rfl

theorem readDesc_fetches {d : List Byte} (h : readDesc a n p s = (.ok d, u)) : onlyIn fetchParts s u := by
  unfold readDesc at h
  split at h
  · cases h
  · split at h
    · next read =>
      cases h
      exact devRead_fetches read
    · cases h

end desc

/-! ### Tensors and the parameter block -/

/-- Tensor descriptors that are all in order are read without an event of the packet. -/
theorem readTensors_fetches {p : PktId} {l : List (Nat × Bool)} {s u : State} {ts : List (List Byte)}
    (h : readTensors p l s = (.ok ts, u)) : onlyIn fetchParts s u := by
  induction l generalizing s ts with
  | nil =>
    cases h
    exact onlyIn_refl ..
  | cons e l ih =>
    unfold readTensors at h
    split at h
    · next read =>
      split at h
      · cases h
      · split at h
        · cases h
        · split at h
          · next rest =>
            cases h
            exact onlyIn_trans (readDesc_fetches read) (ih rest)
          · next no => exact absurd h (no _ _)
    · cases h

/-- Descriptors up to the first that is wrong: those before it are in order. -/
theorem readTensors_append_error {p : PktId} {before rest : List (Nat × Bool)} {s s1 u : State} {ts : List (List Byte)} {e : Nat × Bool}
    (read : readTensors p before s = (.ok ts, s1)) (wrong : readTensors p rest s1 = (.error e, u)) :
    readTensors p (before ++ rest) s = (.error e, u) := by
  induction before generalizing s ts with
  | nil =>
    cases read
    exact wrong
  | cons b before ih =>
    unfold readTensors at read
    rw [List.cons_append, readTensors]
    split at read
    · split at read
      · cases read
      · next good =>
        split at read
        · cases read
        · next pads =>
          split at read
          · next others =>
            cases read
            simp only [if_neg good, if_neg pads, ih others]
          · next no => exact absurd read (no _ _)
    · cases read

section tensors
variable {p : PktId} {a : Nat} {pad : Bool} {rest : List (Nat × Bool)} {s u : State}

theorem readTensors_unread {c : Nat} (h : readDesc a 64 p s = (.error c, u)) :
    readTensors p ((a, pad) :: rest) s = (.error (c, false), u) := by
  simp only [readTensors, h]

/-- A tensor descriptor that is read and violates Table 10.9 or R216 gives CONFIG; only one that violates R216 alone counts as padding. -/
theorem readTensors_wrong {t : List Byte} (h : readDesc a 64 p s = (.ok t, u))
    (wrong : tensorBad t = true ∨ (pad = true ∧ padBad t = true)) :
    ∃ e, readTensors p ((a, pad) :: rest) s = (.error (3, e), u) := by
  simp only [readTensors, h]
  split
  · exact ⟨_, rfl⟩
  · next good =>
    obtain ⟨pads, wrong⟩ := wrong.resolve_left good
    exact ⟨true, by simp [pads, wrong]⟩

end tensors

theorem readParams_fetches {hasPar : Bool} {a : Nat} {p : PktId} {s u : State} {par : List Byte}
    (h : (if hasPar then readParams a p s else (.ok (leBytes 128 0), s)) = (.ok par, u)) : onlyIn fetchParts s u := by
  unfold readParams at h
  split at h
  · split at h
    · cases h
      exact onlyIn_refl ..
    · exact readDesc_fetches h
  · cases h
    exact onlyIn_refl ..

theorem readParams_given {a : Nat} (p : PktId) (s : State) (given : a ≠ 0) : readParams a p s = readDesc a 128 p s := if_neg given

/-! ### A packet ends with a code -/

theorem findPkt_setWork (w : OpWork) (p : PktId) (s : State) : findPkt p (setWork w p s) = (findPkt p s).map fun k => { k with work := w } :=
  findPkt_modPkt p (fun k => { k with work := w }) s fun _ => rfl

theorem findPkt_pktCode (c : Nat) (p : PktId) (s : State) :
    findPkt p (pktCode c (some p) s) = (findPkt p s).map fun k => { k with code := max k.code c } :=
  findPkt_modPkt p (fun k => { k with code := max k.code c }) s fun _ => rfl

theorem findPkt_pktFlag (b : Nat) (p : PktId) (s : State) :
    findPkt p (pktFlag b (some p) s) = (findPkt p s).map fun k => { k with flags := k.flags ||| 2 ^ b } :=
  findPkt_modPkt p (fun k => { k with flags := k.flags ||| 2 ^ b }) s fun _ => rfl

theorem findPkt_rejectPkt (c : Nat) (p : PktId) (s : State) :
    findPkt p (rejectPkt c p s) = (findPkt p s).map fun k => { k with work := .done, code := max k.code c } := by
  rw [rejectPkt, findPkt_setWork, findPkt_pktCode, Option.map_map]
  rfl

theorem rejectPkt_onlyIn (c : Nat) (p : PktId) (s : State) : onlyIn [.rings] s (rejectPkt c p s) :=
  onlyIn_trans (pktCode_onlyIn ..) (modPkt_onlyIn ..)

theorem otherRings_modPkt (p : PktId) (f : Pkt → Pkt) (s : State) : otherRings p.ring.val s (modPkt p f s) := otherRings_setRing _ _ s

theorem otherRings_rejectPkt (c : Nat) (p : PktId) (s : State) : otherRings p.ring.val s (rejectPkt c p s) :=
  fun k hk => (otherRings_modPkt p _ _ k hk).trans (otherRings_modPkt p _ s k hk)

/-- What a packet is told of a failure before it ends with code c: events, and codes that c covers. -/
structure Told (p : PktId) (c : Nat) (s u : State) : Prop where
  frame : onlyIn eventParts s u
  code : (findPkt p u).map (fun z => max z.code c) = (findPkt p s).map fun z => max z.code c

theorem told_refl (p : PktId) (c : Nat) (s : State) : Told p c s s := ⟨onlyIn_refl .., rfl⟩

theorem told_event (p : PktId) (c code unit aux detail : Nat) (s : State) : Told p c s (raiseEvent code unit aux detail (some p) s) where
  frame := raiseEvent_onlyIn ..
  code := by rw [findPkt_raiseEvent, Option.map_map]; rfl

theorem told_busOf (x : Rd) (p : PktId) (s : State) : Told p 5 s (busOf x (some p) s) := by
  have coded : Told p 5 s (pktCode 5 (some p) s) := by
    refine ⟨onlyIn_mono (pktCode_onlyIn ..) (by decide), ?_⟩
    rw [findPkt_pktCode, Option.map_map]
    exact congrArg (Option.map · _) (funext fun k => by simp)
  cases x with
  | ok d => exact told_refl p 5 s
  | bus => exact coded
  | badSeal =>
    refine ⟨onlyIn_trans coded.frame (onlyIn_mono (pktFlag_onlyIn ..) (by decide)), ?_⟩
    rw [busOf, findPkt_pktFlag, Option.map_map, ← coded.code]
    rfl

/-- The state in which a packet has ended with code c, no work issued, after reads that led from s to r (R371). -/
structure EndsWith (p : PktId) (c : Nat) (s r u : State) : Prop where
  frame : onlyIn readParts s u
  shadows : shadowsOnly s u
  packet : ∃ y, findPkt p u = some y ∧ y.work = .done ∧ some y.code = (findPkt p r).map fun z => max z.code c

theorem rejectPkt_ends {p : PktId} {x : Pkt} {c : Nat} {s r u : State} (found : findPkt p s = some x) (read : DescRead s r)
    (told : Told p c r u) : EndsWith p c s r (rejectPkt c p u) where
  frame := onlyIn_trans read.frame (onlyIn_trans (onlyIn_mono told.frame (by decide)) (onlyIn_mono (rejectPkt_onlyIn ..) (by decide)))
  shadows := shadowsOnly_trans read.shadows (shadowsOnly_of_casks
    ((told.frame.andThen (rejectPkt_onlyIn c p u)).same .casks (by decide)))
  packet := by
    obtain ⟨z, there⟩ := read.found found
    obtain ⟨y, now, -⟩ := Option.map_eq_some_iff.mp (told.code.trans (by rw [there]; rfl))
    refine ⟨_, by rw [findPkt_rejectPkt, now]; rfl, rfl, ?_⟩
    rw [← told.code, now]
    rfl

theorem rejectDesc_ends {p : PktId} {x : Pkt} {c : Nat} {s r u : State} (found : findPkt p s = some x) (read : DescRead s r)
    (told : Told p c r u) (pad : Bool) (b : List Byte) : EndsWith p c s r (rejectDesc (c, pad) p b u) := by
  unfold rejectDesc
  cases pad with
  | false => exact rejectPkt_ends found read told
  | true =>
    have event := told_event p c 0x0506 ((opRacks b u).headD 0) 0 0 u
    exact rejectPkt_ends found read ⟨onlyIn_trans told.frame event.frame, event.code.trans told.code⟩

end Sys2Proof.Machine
end

section
/-! SUPPORT. The library's operators: what each command does with a packet whose operator has not run (R308 to R314, R366 to R371). -/

namespace Sys2Proof.Machine

/-! ### The checks of a packet's descriptors, outcome by outcome -/

section checks
variable {op : Nat} {l : List (Nat × Bool)} {hasPar : Bool} {p : PktId} {b : List Byte} (f : List (List Byte) → List Byte → State → State)
  {s s1 s2 s3 : State} {ts : List (List Byte)} {par : List Byte}

theorem withDescs_tensors_wrong {e : Nat × Bool} (read : readTensors p l s = (.error e, s1)) :
    withDescs op l hasPar p b f s = rejectDesc e p b s1 := by
  simp only [withDescs, read]

variable (read : readTensors p l s = (.ok ts, s1))
include read

theorem withDescs_params_unread {c : Nat} (params : hasPar = true) (unread : readParams (leAt 56 8 b) p s1 = (.error c, s2)) :
    withDescs op l hasPar p b f s = rejectPkt c p s2 := by
  simp only [withDescs, read, params, if_true, unread]

theorem withDescs_params_wrong (params : hasPar = true) (given : leAt 56 8 b ≠ 0) (block : readParams (leAt 56 8 b) p s1 = (.ok par, s2))
    (wrong : parFieldsBad op par = true ∨ parChainBad par = true) : withDescs op l hasPar p b f s = rejectPkt 3 p s2 := by
  have fails : (hasPar && decide (leAt 56 8 b ≠ 0) && (parFieldsBad op par || parChainBad par)) = true := by
    simpa [params, given] using wrong
  subst params
  simp only [withDescs, read, if_true, block, fails]

theorem withDescs_good {ts' : List (List Byte)}
    (block : (if hasPar then readParams (leAt 56 8 b) p s1 else (.ok (leBytes 128 0), s1)) = (.ok par, s2))
    (right : hasPar = true → leAt 56 8 b ≠ 0 → parFieldsBad op par = false ∧ parChainBad par = false)
    (named : readTensors p (if hasPar then parTensors op par else []) s2 = (.ok ts', s3)) :
    withDescs op l hasPar p b f s = f ts par s3 := by
  have passes : (hasPar && decide (leAt 56 8 b ≠ 0) && (parFieldsBad op par || parChainBad par)) = false := by
    rw [Bool.and_eq_false_imp]
    intro asked
    obtain ⟨params, given⟩ : hasPar = true ∧ leAt 56 8 b ≠ 0 := by simpa using asked
    simp [right params given]
  simp only [withDescs, read, block, passes, Bool.false_eq_true, if_false, named]

end checks

/-! ### The walk of a layer begins -/

/-- A walk as a checked layer map, parameter block and tensors begin it (R314, R320). -/
def beginsWalk (op : Nat) (m : List Byte) (ts : List (List Byte)) (par : List Byte) (s : State) : Walk :=
  Walk.opened ⟨decide (op = 0x11), m, nthD [] 0 ts, nthD [] 1 ts,
    if (parTensors op par).isEmpty then [] else peekAny (((parTensors op par).getLast?.map (·.1)).getD 0) 64 s, par, [], []⟩

/-- Every stream of a walk that begins is at its first cell, with none in flight (R320). -/
theorem opened_streams {w : Walk} {t : Stream} (h : t ∈ w.opened.streams) : t.cell = 0 ∧ t.flights = [] := by
  obtain ⟨r, -, mine⟩ := List.mem_flatMap.mp h
  obtain ⟨home, -, rfl⟩ := List.mem_map.mp mine
  exact ⟨rfl, rfl⟩

/-- The racks of a packet's operands and layer map are the same in a state with other packets. -/
theorem opRacks_modPkt (b : List Byte) (p : PktId) (f : Pkt → Pkt) (s : State) : opRacks b (modPkt p f s) = opRacks b s := rfl

/-- The packet with its walk begun and its threads due on the racks of its operands (R314, R369). -/
def walkBegun (w : Walk) (p : PktId) (b : List Byte) (s : State) : State := placeKernel p b (modPkt p (fun k => { k with walk := some w }) s)

theorem walkBegun_onlyIn (w : Walk) (p : PktId) (b : List Byte) (s : State) : onlyIn [.rings] s (walkBegun w p b s) :=
  onlyIn_trans (modPkt_onlyIn ..) (modPkt_onlyIn ..)

theorem findPkt_walkBegun (w : Walk) (p : PktId) (b : List Byte) (s : State) : findPkt p (walkBegun w p b s) =
    (findPkt p s).map fun k => { k with walk := some w, work := .kernel (opRacks b s) } := by
  rw [walkBegun, placeKernel, opRacks_modPkt, findPkt_setWork, findPkt_modPkt p (fun k => { k with walk := some w }) s fun _ => rfl,
    Option.map_map]
  rfl

/-- What a walker does once its packet's descriptors are in order: the layer map is checked, then the walk begins (R308 to R314). -/
def checkMap (op : Nat) (p : PktId) (b : List Byte) (ts : List (List Byte)) (par : List Byte) (s : State) : State :=
  match readDesc (leAt 40 8 b) 64 p s with
  | (.error c, s) => rejectPkt c p s
  | (.ok h, s) =>
    match readDesc (leAt 40 8 b) (64 + 16 * leAt 14 2 h) p s with
    | (.error c, s) => rejectPkt c p s
    | (.ok m, s) => if mapBad m s then rejectMap (leAt 40 8 b) m p s else walkBegun (beginsWalk op m ts par s) p b s

theorem runWalker_eq (op : Nat) (p : PktId) (b : List Byte) (s : State) :
    runWalker op p b s = withDescs op (tensors2 b) true p b (checkMap op p b) s := rfl

theorem checkMap_reads {op : Nat} {p : PktId} {b h m : List Byte} {ts : List (List Byte)} {par : List Byte} {s s1 s2 : State}
    (head : readDesc (leAt 40 8 b) 64 p s = (.ok h, s1)) (map : readDesc (leAt 40 8 b) (64 + 16 * leAt 14 2 h) p s1 = (.ok m, s2)) :
    checkMap op p b ts par s =
      if mapBad m s2 then rejectMap (leAt 40 8 b) m p s2 else walkBegun (beginsWalk op m ts par s2) p b s2 := by
  simp only [checkMap, head, map]

/-! ### Each operator is its checks and what follows them -/

/-- What an operator does once its packet's descriptors are in order. -/
def OperatorRow.work (o : OperatorRow) (p : PktId) (b : List Byte) (ts : List (List Byte)) (par : List Byte) : State → State :=
  if o.walks then checkMap o.op p b ts par else placeKernel p b

/-- What an operator does with a packet that waits for it (R366, R371). -/
def OperatorRow.run (o : OperatorRow) (p : PktId) (b : List Byte) (s : State) : State :=
  if o.bodyOk b then withDescs o.op (o.tensors b) o.params p b (o.work p b) s else rejectPkt 3 p s

theorem opRow_waits {op : Nat} {n : RingId} {i : Index} {x : Pkt} {s : State} (waits : packetWaits ⟨n, i⟩ op x s)
    (f : PktId → List Byte → State → State) : opRow op n i f s = f ⟨n, i⟩ x.bytes s := by
  obtain ⟨found, work, runs, named⟩ := waits
  simp [opRow, found, work, runs, named]

/-- A packet whose operator has not run is no walker at work. -/
theorem walking_waits {op : Nat} {p : PktId} {x : Pkt} {s : State} (waits : packetWaits p op x s) : walking op p s = false := by
  obtain ⟨found, work, -, -⟩ := waits
  simp [walking, found, work]

theorem walkerRow_waits {op : Nat} {n : RingId} {i : Index} {x : Pkt} {s : State} (waits : packetWaits ⟨n, i⟩ op x s) :
    walkerRow op n i s = withDescs op (tensors2 x.bytes) true ⟨n, i⟩ x.bytes (checkMap op ⟨n, i⟩ x.bytes) s := by
  rw [walkerRow, walking_waits waits, if_neg Bool.false_ne_true, opRow_waits waits, runWalker_eq]

theorem runVector_noIn1 (op : Nat) (p : PktId) (b : List Byte) (s : State) : runVector op 0 p b s =
    if noIn1 b then withDescs op (tensors2 b) true p b (fun _ _ => placeKernel p b) s else rejectPkt 3 p s := by
  by_cases none : leAt 40 8 b = 0 <;> simp [runVector, noIn1, tensors2, none]

theorem runVector_in1 (op : Nat) (p : PktId) (b : List Byte) (s : State) :
    runVector op 1 p b s = withDescs op (tensors3 b) true p b (fun _ _ => placeKernel p b) s := rfl

theorem runVector_optional (op : Nat) (p : PktId) (b : List Byte) (s : State) :
    runVector op 2 p b s = withDescs op (tensorsOpt b) true p b (fun _ _ => placeKernel p b) s := by
  by_cases none : leAt 40 8 b = 0 <;> simp [runVector, tensorsOpt, tensors2, tensors3, none]

theorem not_podBody (root : Nat) (b : List Byte) : (!podBody root b) =
    (decide (leAt 40 8 b ≠ 0) || decide (1 < byteAt 58 b) || decide (root < byteAt 59 b) || decide (leAt 62 2 b ≠ 0)) := by
  simp only [podBody, noIn1, Bool.not_and, ← Nat.not_le, ne_eq, decide_not]

theorem runPod_eq (op : Nat) (root : Bool) (p : PktId) (b : List Byte) (s : State) : runPod op root p b s =
    if podBody (if root then 15 else 0) b then withDescs op (tensors2 b) false p b (fun _ _ => placeKernel p b) s
    else rejectPkt 3 p s := by
  rw [runPod, ← not_podBody]
  cases podBody (if root then 15 else 0) b <;> rfl

/-- What SENSOR_FUSE does with the body of a packet. -/
theorem sensorFuse_eq (p : PktId) (b : List Byte) (s : State) :
    (if decide (leAt 40 8 b ≠ 0) || decide (leAt 32 8 b % 32 ≠ 0) then rejectPkt 3 p s
      else withDescs 0x20 [(leAt 48 8 b, false)] true p b (fun _ _ => placeKernel p b) s) =
    if noIn1 b && decide (leAt 32 8 b % 32 = 0) then withDescs 0x20 [(leAt 48 8 b, false)] true p b (fun _ _ => placeKernel p b) s
    else rejectPkt 3 p s := by
  by_cases none : leAt 40 8 b = 0 <;> by_cases aligned : leAt 32 8 b % 32 = 0 <;> simp [noIn1, none, aligned]

/-- The command of an operator on a packet that waits for it (Table 10.8). -/
theorem operator_runs {o : OperatorRow} (listed : o ∈ operatorTable) {n : RingId} {i : Index} {x : Pkt} {s : State}
    (waits : packetWaits ⟨n, i⟩ o.op x s) : exec (o.command n i) s = .next (o.run ⟨n, i⟩ x.bytes s) := by
  simp only [operatorTable, List.mem_cons, List.not_mem_nil, or_false] at listed
  rcases listed with rfl | rfl | rfl | rfl | rfl | rfl | rfl | rfl | rfl | rfl | rfl | rfl | rfl
  · exact congrArg _ (walkerRow_waits waits)
  · exact congrArg _ (walkerRow_waits waits)
  · exact congrArg _ ((opRow_waits waits _).trans (runVector_in1 ..))
  · exact congrArg _ ((opRow_waits waits _).trans (runVector_in1 ..))
  · exact congrArg _ ((opRow_waits waits _).trans (runVector_noIn1 ..))
  · exact congrArg _ ((opRow_waits waits _).trans (runVector_noIn1 ..))
  · exact congrArg _ ((opRow_waits waits _).trans (runVector_noIn1 ..))
  · exact congrArg _ ((opRow_waits waits _).trans (runVector_optional ..))
  · exact congrArg _ ((opRow_waits waits _).trans (runVector_optional ..))
  · exact congrArg _ ((opRow_waits waits _).trans (sensorFuse_eq ..))
  · exact congrArg _ ((opRow_waits waits _).trans (runPod_eq ..))
  · exact congrArg _ ((opRow_waits waits _).trans (runPod_eq ..))
  · exact congrArg _ ((opRow_waits waits _).trans (runPod_eq ..))

end Sys2Proof.Machine
end

section
/-! SUPPORT. The outcomes of an operator on a packet that waits for it: its body or its descriptors are rejected, or its threads are due
(R308 to R314, R366 to R371). -/

namespace Sys2Proof.Machine

/-! ### Work set -/

theorem placeKernel_onlyIn (p : PktId) (b : List Byte) (s : State) : onlyIn [.rings] s (placeKernel p b s) := modPkt_onlyIn ..

theorem placeKernel_work {p : PktId} {x : Pkt} {s : State} (found : findPkt p s = some x) (b : List Byte) :
    (findPkt p (placeKernel p b s)).map Pkt.work = some (.kernel (opRacks b s)) := by
  rw [placeKernel, findPkt_setWork, found]
  rfl

section operator
variable {o : OperatorRow} (listed : o ∈ operatorTable) {n : RingId} {i : Index} {x : Pkt} {s : State}
  (waits : packetWaits ⟨n, i⟩ o.op x s)
include listed waits

/-- A body with a byte that is not named and not 0, or a field out of range, gives CONFIG and no work (R371). -/
theorem operator_body_rejected (bad : o.bodyOk x.bytes = false) :
    ∃ u, exec (o.command n i) s = .next u ∧ onlyIn [.rings] s u ∧ otherRings n.val s u ∧
      findPkt ⟨n, i⟩ u = some { x with work := .done, code := max x.code 3 } := by
  refine ⟨rejectPkt 3 ⟨n, i⟩ s, ?_, rejectPkt_onlyIn .., otherRings_rejectPkt 3 ⟨n, i⟩ s, ?_⟩
  · rw [operator_runs listed waits, OperatorRow.run, bad, if_neg Bool.false_ne_true]
  · rw [findPkt_rejectPkt, waits.1]
    rfl

variable (body : o.bodyOk x.bytes = true)
include body

/-- The command on a packet with a good body checks its descriptors (R371). -/
theorem operator_checks : exec (o.command n i) s =
    .next (withDescs o.op (o.tensors x.bytes) o.params ⟨n, i⟩ x.bytes (o.work ⟨n, i⟩ x.bytes) s) := by
  rw [operator_runs listed waits, OperatorRow.run, body, if_pos rfl]

/-! ### A tensor descriptor that is wrong -/

section tensors
variable {before after : List (Nat × Bool)} {a : Nat} {pad : Bool} {ts : List (List Byte)} {s1 : State}
  (operands : o.tensors x.bytes = before ++ (a, pad) :: after) (read : readTensors ⟨n, i⟩ before s = (.ok ts, s1))
include operands read

/-- The first tensor descriptor that is wrong ends the packet with its code. -/
theorem operator_tensor_ends {c : Nat} {e : Bool} {r u : State} (wrong : readTensors ⟨n, i⟩ ((a, pad) :: after) s1 = (.error (c, e), u))
    (later : DescRead s1 r) (told : Told ⟨n, i⟩ c r u) : ∃ u, exec (o.command n i) s = .next u ∧ EndsWith ⟨n, i⟩ c s r u := by
  have all := readTensors_append_error read wrong
  rw [← operands] at all
  refine ⟨_, ?_, rejectDesc_ends waits.1 (descRead_trans (descRead_of_fetch (readTensors_fetches read)) later) told e x.bytes⟩
  rw [operator_checks listed waits body, withDescs_tensors_wrong _ all]

theorem operator_tensor_misplaced (bad : a % 32 ≠ 0 ∨ inMemory noRack a 64 s1 = false) :
    ∃ u, exec (o.command n i) s = .next u ∧ EndsWith ⟨n, i⟩ 3 s s1 u :=
  operator_tensor_ends listed waits body operands read (readTensors_unread (readDesc_misplaced bad)) (descRead_refl s1) (told_refl _ _ s1)

variable (aligned : a % 32 = 0) (inside : inMemory noRack a 64 s1 = true) {s2 : State}
include aligned inside

theorem operator_tensor_wrong {t : List Byte} (descr : devRead noRack a 64 (some ⟨n, i⟩) s1 = (.ok t, s2))
    (bad : tensorBad t = true ∨ (pad = true ∧ padBad t = true)) :
    ∃ u, exec (o.command n i) s = .next u ∧ EndsWith ⟨n, i⟩ 3 s s2 u := by
  obtain ⟨e, wrong⟩ := readTensors_wrong (rest := after) (readDesc_reads aligned inside descr) bad
  exact operator_tensor_ends listed waits body operands read wrong (descRead_devRead descr) (told_refl _ _ s2)

theorem operator_tensor_unread {r : Rd} (failed : r = .bus ∨ r = .badSeal) (descr : devRead noRack a 64 (some ⟨n, i⟩) s1 = (r, s2)) :
    ∃ u, exec (o.command n i) s = .next u ∧ EndsWith ⟨n, i⟩ 5 s s2 u :=
  operator_tensor_ends listed waits body operands read (readTensors_unread (readDesc_fails aligned inside failed descr))
    (descRead_devRead descr) (told_busOf r _ s2)

end tensors

variable {ts : List (List Byte)} {s1 : State} (read : readTensors ⟨n, i⟩ (o.tensors x.bytes) s = (.ok ts, s1))
include read

/-! ### A parameter block that is wrong -/

section params
variable (params : o.params = true) (given : leAt 56 8 x.bytes ≠ 0)
include params given

theorem operator_params_unread {c : Nat} {r u : State} (block : readDesc (leAt 56 8 x.bytes) 128 ⟨n, i⟩ s1 = (.error c, u))
    (later : DescRead s1 r) (told : Told ⟨n, i⟩ c r u) : ∃ u, exec (o.command n i) s = .next u ∧ EndsWith ⟨n, i⟩ c s r u := by
  refine ⟨_, ?_, rejectPkt_ends waits.1 (descRead_trans (descRead_of_fetch (readTensors_fetches read)) later) told⟩
  rw [operator_checks listed waits body, withDescs_params_unread _ read params (by rw [readParams_given _ _ given, block])]

theorem operator_params_misplaced (bad : leAt 56 8 x.bytes % 32 ≠ 0 ∨ inMemory noRack (leAt 56 8 x.bytes) 128 s1 = false) :
    ∃ u, exec (o.command n i) s = .next u ∧ EndsWith ⟨n, i⟩ 3 s s1 u :=
  operator_params_unread listed waits body read params given (readDesc_misplaced bad) (descRead_refl s1) (told_refl _ _ s1)

variable (aligned : leAt 56 8 x.bytes % 32 = 0) (inside : inMemory noRack (leAt 56 8 x.bytes) 128 s1 = true) {s2 : State}
include aligned inside

theorem operator_params_wrong {par : List Byte} (block : devRead noRack (leAt 56 8 x.bytes) 128 (some ⟨n, i⟩) s1 = (.ok par, s2))
    (bad : parFieldsBad o.op par = true ∨ parChainBad par = true) :
    ∃ u, exec (o.command n i) s = .next u ∧ EndsWith ⟨n, i⟩ 3 s s2 u := by
  refine ⟨_, ?_, rejectPkt_ends waits.1 (descRead_trans (descRead_of_fetch (readTensors_fetches read)) (descRead_devRead block))
    (told_refl _ _ s2)⟩
  rw [operator_checks listed waits body, withDescs_params_wrong _ read params given
    (by rw [readParams_given _ _ given, readDesc_reads aligned inside block]) bad]

theorem operator_params_failed {r : Rd} (failed : r = .bus ∨ r = .badSeal)
    (block : devRead noRack (leAt 56 8 x.bytes) 128 (some ⟨n, i⟩) s1 = (r, s2)) :
    ∃ u, exec (o.command n i) s = .next u ∧ EndsWith ⟨n, i⟩ 5 s s2 u :=
  operator_params_unread listed waits body read params given (readDesc_fails aligned inside failed block) (descRead_devRead block)
    (told_busOf r _ s2)

end params

/-! ### Every descriptor in order -/

section good
variable {par : List Byte} {ts' : List (List Byte)} {s2 s3 : State}
  (block : (if o.params then readParams (leAt 56 8 x.bytes) ⟨n, i⟩ s1 else (.ok (leBytes 128 0), s1)) = (.ok par, s2))
  (right : o.params = true → leAt 56 8 x.bytes ≠ 0 → parFieldsBad o.op par = false ∧ parChainBad par = false)
  (named : readTensors ⟨n, i⟩ (if o.params then parTensors o.op par else []) s2 = (.ok ts', s3))
include block right named

/-- The operator goes on to its work in the state that its reads leave, which changed no packet. -/
theorem operator_works : exec (o.command n i) s = .next (o.work ⟨n, i⟩ x.bytes ts par s3) ∧ onlyIn fetchParts s s3 :=
  ⟨by rw [operator_checks listed waits body, withDescs_good _ read block right named],
    onlyIn_trans (readTensors_fetches read) (onlyIn_trans (readParams_fetches block) (readTensors_fetches named))⟩

theorem operator_places (walks : o.walks = false) : ∃ u, exec (o.command n i) s = .next u ∧ onlyIn eventParts s u ∧
    (findPkt ⟨n, i⟩ u).map Pkt.work = some (.kernel (opRacks x.bytes s3)) := by
  obtain ⟨ran, reads⟩ := operator_works listed waits body read block right named
  refine ⟨placeKernel ⟨n, i⟩ x.bytes s3, ?_, onlyIn_mono (reads.andThen (placeKernel_onlyIn ..)) (by decide), ?_⟩
  · rw [ran, OperatorRow.work, walks, if_neg Bool.false_ne_true]
  · exact placeKernel_work ((findPkt_of_fetch reads).trans waits.1) x.bytes

section map
variable (walks : o.walks = true) {h m : List Byte} {s4 s5 : State}
  (head : readDesc (leAt 40 8 x.bytes) 64 ⟨n, i⟩ s3 = (.ok h, s4))
  (map : readDesc (leAt 40 8 x.bytes) (64 + 16 * leAt 14 2 h) ⟨n, i⟩ s4 = (.ok m, s5))
include walks head map

theorem operator_reads_map : onlyIn fetchParts s s5 ∧ exec (o.command n i) s = .next (if mapBad m s5 then
    rejectMap (leAt 40 8 x.bytes) m ⟨n, i⟩ s5 else walkBegun (beginsWalk o.op m ts par s5) ⟨n, i⟩ x.bytes s5) := by
  obtain ⟨ran, reads⟩ := operator_works listed waits body read block right named
  refine ⟨onlyIn_trans reads (onlyIn_trans (readDesc_fetches head) (readDesc_fetches map)), ?_⟩
  rw [ran, OperatorRow.work, walks, if_pos rfl, checkMap_reads head map]

/-- A layer map that stands begins the walk, every stream at its first cell (R314, R320, R369). -/
theorem operator_walks (stands : mapBad m s5 = false) : ∃ u, exec (o.command n i) s = .next u ∧ onlyIn eventParts s u ∧
    (findPkt ⟨n, i⟩ u).map Pkt.work = some (.kernel (opRacks x.bytes s5)) ∧
    ∃ w, walkOf ⟨n, i⟩ u = some w ∧ w.map = m ∧ w.par = par ∧ ∀ t ∈ w.streams, t.cell = 0 ∧ t.flights = [] := by
  obtain ⟨reads, ran⟩ := operator_reads_map listed waits body read block right named walks head map
  rw [stands, if_neg Bool.false_ne_true] at ran
  have begun := findPkt_walkBegun (beginsWalk o.op m ts par s5) ⟨n, i⟩ x.bytes s5
  rw [findPkt_of_fetch reads, waits.1] at begun
  refine ⟨_, ran, onlyIn_mono (reads.andThen (walkBegun_onlyIn ..)) (by decide), by rw [begun]; rfl, beginsWalk o.op m ts par s5, ?_, rfl, rfl,
    fun t => opened_streams⟩
  rw [walkOf, begun]
  rfl

/-- A layer map that R314 rejects gives LAYER_MAP and no work. -/
theorem operator_map_rejected (bad : mapBad m s5 = true) : ∃ u, exec (o.command n i) s = .next u ∧ EndsWith ⟨n, i⟩ 4 s s5 u := by
  obtain ⟨reads, ran⟩ := operator_reads_map listed waits body read block right named walks head map
  rw [bad, if_pos rfl] at ran
  exact ⟨_, ran, rejectPkt_ends waits.1 (descRead_of_fetch reads) (told_event ..)⟩

end map
end good
end operator

/-! ### What the statement says of an end -/

theorem exists_packet_of_endsWith {i : Instr} {p : PktId} {c : Nat} {s r : State} (h : ∃ u, exec i s = .next u ∧ EndsWith p c s r u) :
    ∃ u y, exec i s = .next u ∧ onlyIn readParts s u ∧ shadowsOnly s u ∧ findPkt p u = some y ∧ y.work = .done ∧
      some y.code = (findPkt p r).map fun z => max z.code c := by
  obtain ⟨u, ran, frame, shadows, y, found, done, code⟩ := h
  exact ⟨u, y, ran, frame, shadows, found, done, code⟩

end Sys2Proof.Machine
end

section
/-! SUPPORT. A round of a tile walker that opens its next cell, or finds no slot for it (R242, R316, R323, R334). -/

namespace Sys2Proof.Machine

/-! ### Slots -/

/-- The lowest FREE slot of a rack (R242). -/
theorem freeSlot_lowest {r k : Nat} {s : State} (slot : k < 16) (free : (getSlot r k s).st = 0)
    (below : ∀ m, m < k → (getSlot r m s).st ≠ 0) : freeSlot r s = some k := by
  unfold freeSlot
  rw [List.find?_range_eq_some]
  exact ⟨by simpa using free, by simpa using slot, fun m hm => by simpa using below m hm⟩

theorem freeSlot_none {r : Nat} {s : State} (taken : ∀ k, k < 16 → (getSlot r k s).st ≠ 0) : freeSlot r s = none := by
  unfold freeSlot
  rw [List.find?_eq_none]
  exact fun k hk => by simpa using taken k (List.mem_range.mp hk)

/-! ### What the end of walkers leaves -/

/-- The end of walkers leaves the racks' slots, and empties the instruction buffers of racks whose threads are all FREE (R268, R273). -/
theorem getRack_endWalkers {p : PktId} {w : Walk} {s : State} (walk : walkOf p s = some w) (x : Nat) :
    getRack x (endWalkers p s) = if allFree x (endWalkers p s) then { getRack x s with ibuf := [] } else getRack x s := by
  simp only [endWalkers, walk]
  generalize Store.mapV _ s.threads = threads
  have mapped := Store.getD_mapV (fun r (k : RackSt) => if allFree r { s with threads := threads } then { k with ibuf := [] } else k) x
    s.racks RackSt.init
  have blank : (if allFree x { s with threads := threads } then { RackSt.init with ibuf := [] } else RackSt.init) = RackSt.init := by
    split <;> rfl
  rw [blank] at mapped
  exact mapped

theorem getSlot_endWalkers (p : PktId) (s : State) (x m : Nat) : getSlot x m (endWalkers p s) = getSlot x m s := by
  cases walk : walkOf p s with
  | none => simp only [endWalkers, walk]
  | some w =>
    rw [getSlot, getRack_endWalkers walk, getSlot]
    split <;> rfl

theorem walkOf_endWalkers (p : PktId) (s : State) : walkOf p (endWalkers p s) = walkOf p s :=
  walkOf_congr ((endWalkers_onlyIn p s).same .rings (by decide))

/-- A walk whose only stream still works on a rack is not over there. -/
theorem over_working {w : Walk} {x : Stream} (works : x.ended = false) : ({ w with streams := [x] } : Walk).over x.rack = false := by
  simp [Walk.over, works]

/-! ### A cell opens -/

theorem modStream_onlyIn (p : PktId) (i : Nat) (f : Stream → Stream) (s : State) : onlyIn [.rings] s (modStream p i f s) := modPkt_onlyIn ..

theorem findPkt_modStream (p : PktId) (i : Nat) (f : Stream → Stream) (s : State) : findPkt p (modStream p i f s) =
    (findPkt p s).map fun k => { k with walk := k.walk.map fun w => { w with streams := modAt i f w.streams } } :=
  findPkt_modPkt _ _ _ (by intro; rfl)

/-- A stream past the cell whose slot k it has taken for share j: the cell is in flight, with nothing done for it yet (R316, R323). -/
def Stream.past (shares j k : Nat) (t : Stream) : Stream :=
  { t.advance shares with flights := t.flights ++ [⟨j, t.cell, [k], false, 0, false, 0⟩], tried := none }

/-- Taking a slot leaves a stream on its rack, at work. -/
theorem Stream.past_stays (shares j k : Nat) (t : Stream) : (t.past shares j k).rack = t.rack ∧ (t.past shares j k).ended = t.ended := by
  unfold Stream.past Stream.advance
  split <;> exact ⟨rfl, rfl⟩

/-- A slot taken for a stream's next cell (R242, R316). -/
def cellOpened (p : PktId) (w : Walk) (t : Stream) (k : Nat) (s : State) : State :=
  modStream p 0 (Stream.past (w.sharesOn t.rack t.home).length (nthD 0 t.next (w.sharesOn t.rack t.home)) k)
    (modSlot t.rack k (fun x => { x with st := 1, pkt := some p }) s)

theorem cellOpened_onlyIn (p : PktId) (w : Walk) (t : Stream) (k : Nat) (s : State) : onlyIn [.racks, .rings] s (cellOpened p w t k s) :=
  (modSlot_onlyIn t.rack k _ s).andThen (modStream_onlyIn ..)

theorem walkOf_cellOpened {p : PktId} {w : Walk} {t : Stream} {s : State} (walk : walkOf p s = some w) (streams : w.streams = [t]) (k : Nat) :
    walkOf p (cellOpened p w t k s) =
      some { w with streams := [t.past (w.sharesOn t.rack t.home).length (nthD 0 t.next (w.sharesOn t.rack t.home)) k] } := by
  rw [cellOpened, walkOf_modStream, walkOf_congr ((modSlot_onlyIn t.rack k _ s).same .rings (by decide)), walk, Option.map_some, streams]
  rfl

theorem cellOpened_racks (p : PktId) (w : Walk) (t : Stream) (k : Nat) (s : State) :
    (cellOpened p w t k s).racks = (modSlot t.rack k (fun x => { x with st := 1, pkt := some p }) s).racks := rfl

theorem getSlot_cellOpened (p : PktId) (w : Walk) (t : Stream) (k : Nat) (s : State) :
    getSlot t.rack k (cellOpened p w t k s) = { getSlot t.rack k s with st := 1, pkt := some p } := by
  rw [getSlot, getRack_congr (cellOpened_racks ..), ← getSlot, getSlot_modSlot]

theorem getSlot_cellOpened_ne (p : PktId) (w : Walk) (t : Stream) {k m : Nat} (s : State) (other : m ≠ k) :
    getSlot t.rack m (cellOpened p w t k s) = getSlot t.rack m s := by
  rw [getSlot, getRack_congr (cellOpened_racks ..), ← getSlot, getSlot_modSlot_ne _ s other]

theorem getRack_cellOpened_ne (p : PktId) (w : Walk) (t : Stream) (k : Nat) {x : Nat} (s : State) (other : x ≠ t.rack) :
    getRack x (cellOpened p w t k s) = getRack x s := by
  rw [getRack_congr (cellOpened_racks ..), getRack, Store.getD, otherRacks_modSlot t.rack k _ s x other, ← Store.getD, ← getRack]

/-! ### No slot for a cell -/

/-- FALLBACK set on a packet, and its walk's first stream gone over to reduction-first order (R334). -/
def fallsBack (p : PktId) (s : State) : State := modStream p 0 (fun t => { t with redFirst := true }) (pktFlag 1 (some p) s)

theorem fallsBack_onlyIn (p : PktId) (s : State) : onlyIn [.rings] s (fallsBack p s) :=
  onlyIn_trans (pktFlag_onlyIn ..) (modStream_onlyIn ..)

theorem walkOf_fallsBack {p : PktId} {w : Walk} {t : Stream} {s : State} (walk : walkOf p s = some w) (streams : w.streams = [t]) :
    walkOf p (fallsBack p s) = some { w with streams := [{ t with redFirst := true }] } := by
  rw [fallsBack, walkOf_modStream, walkOf_pktFlag, walk, Option.map_some, streams]
  rfl

theorem fallsBack_flags {p : PktId} {x : Pkt} {s : State} (found : findPkt p s = some x) :
    PktHas p (fun y => y.flags.testBit 1 = true) (fallsBack p s) := by
  have flag : (x.flags ||| 2 ^ 1).testBit 1 = true := by rw [Nat.testBit_or, Nat.testBit_two_pow_self, Bool.or_true]
  refine ⟨_, by rw [fallsBack, findPkt_modStream, findPkt_pktFlag, found]; rfl, ?_⟩
  exact flag

/-- What a stream in breadth order does that finds no slot: it falls back, and tells of it where the layer map asks for that (R334, R335). -/
theorem openFailed_breadth {p : PktId} {w : Walk} {t : Stream} {s : State} (breadth : t.redFirst = false) : openFailed p 0 w t s =
    if bitAt 1 (byteAt 18 w.map) then raiseEvent 0x0702 t.rack (if t.home then 0 else 1) t.cell (some p) (fallsBack p s)
    else fallsBack p s := by
  rw [openFailed, breadth, if_neg Bool.false_ne_true]
  rfl

/-- A cell that finds no slot leaves its packet with FALLBACK and its stream in reduction-first order (R334, R358). -/
theorem openFailed_spec {p : PktId} {w : Walk} {t : Stream} {x : Pkt} {s : State} (breadth : t.redFirst = false)
    (walk : walkOf p s = some w) (streams : w.streams = [t]) (found : findPkt p s = some x) :
    onlyIn eventParts s (openFailed p 0 w t s) ∧ walkOf p (openFailed p 0 w t s) = some { w with streams := [{ t with redFirst := true }] } ∧
      PktHas p (fun y => y.flags.testBit 1 = true) (openFailed p 0 w t s) := by
  have frame := fallsBack_onlyIn p s
  have turned := walkOf_fallsBack walk streams
  have flags := fallsBack_flags found
  rw [openFailed_breadth breadth]
  split
  · exact ⟨onlyIn_mono (frame.andThen (raiseEvent_onlyIn ..)) (by decide), by rw [walkOf_raiseEvent, turned],
      flags.kept (pktsKept_raiseEvent (fun _ _ => id) _ _ _ _ _ _)⟩
  · exact ⟨onlyIn_mono frame (by decide), turned, flags⟩

/-! ### The round -/

section round
variable {p : PktId} {w : Walk} {v : Strip} {t : Stream} {s : State} (opens : opensNext p w v t s)
include opens

/-- The strip has nothing to do: every cell is coded and its stream still works. -/
theorem stripStep_rests : stripStep p s 0 = s := by
  obtain ⟨walk, strips, streams, rack, -, works, -, -, -, noBand, -, allCoded, -⟩ := opens
  have here : (walkOf p s).bind (fun w => (w.strips[0]?).map fun v => (w, v)) = some (w, v) := by simp [walk, strips]
  simp [stripStep, here, noBand, allCoded, streams, rack, works]

/-- The stream has no cell in flight and cells left: it opens the next. -/
theorem streamStep_opens : streamStep p s 0 = openNext p 0 w t s := by
  obtain ⟨walk, -, streams, -, -, works, breadth, noFlights, -, -, -, -, next, repl, more, -, thread⟩ := opens
  have here : (walkOf p s).bind (fun w => (w.streams[0]?).map fun t => (w, t)) = some (w, t) := by simp [walk, streams]
  have there : (walkThread t.rack p s).isNone = false := by simpa using thread
  have left : ((w.sharesOn t.rack t.home).all fun j => decide ((w.cells (w.replica j)).length ≤ t.cell)) = false := by
    refine List.all_eq_false.mpr ⟨_, List.getElem_mem next, ?_⟩
    rw [nthD_eq_getElem next] at repl
    simpa [repl] using more
  simp [streamStep, here, there, works, breadth, noFlights, firstSome, left]

theorem walkRound_opens : walkRound p s = endWalkers p (openNext p 0 w t s) := by
  have strip := stripStep_rests opens
  have stream := streamStep_opens opens
  obtain ⟨walk, strips, streams, -⟩ := opens
  simp [walkRound, walk, strips, streams, List.range_succ, strip, stream]

/-- The next cell is coded, and breadth order admits it: all that it still needs is a slot (R316, R324, R332). -/
theorem openNext_asks : openNext p 0 w t s =
    ((freeSlot t.rack s).map fun k => cellOpened p w t k s).getD (openFailed p 0 w t s) := by
  obtain ⟨-, strips, -, rack, home, -, breadth, noFlights, w9, -, -, -, -, repl, more, coded, -⟩ := opens
  have strip : ((w.strips.find? fun x => decide (x.rack = t.rack) && decide (x.repl = v.repl)).map (·.coded)).getD 0 = v.coded := by
    simp [strips, rack]
  have admits : orderAdmits w t s = true := by simp [orderAdmits, breadth, noFlights]
  unfold openNext
  simp only
  rw [repl, if_neg (Nat.not_le.mpr more), strip, if_neg (by simp [admits, home, coded]), cellSlots, w9, if_neg Bool.false_ne_true]
  cases freeSlot t.rack s <;> rfl

end round

/-- What a round leaves when its stream still works after what it did: the threads of the rack, and every rack but for instruction buffers. -/
theorem round_leaves {p : PktId} {w : Walk} {t x : Stream} {s m : State} (walk : walkOf p m = some { w with streams := [x] })
    (rack : x.rack = t.rack) (works : x.ended = false) (threads : m.threads = s.threads) :
    (∀ y, y < 64 → getThread t.rack y (endWalkers p m) = getThread t.rack y s) ∧
      ∀ y, getRack y m = getRack y s → getRack y (endWalkers p m) =
        if allFree y (endWalkers p m) then { getRack y s with ibuf := [] } else getRack y s := by
  refine ⟨fun y hy => ?_, fun y same => ?_⟩
  · rw [endWalkers_thread walk (by rw [← rack]; exact over_working works) hy, getThread_congr threads]
  · rw [getRack_endWalkers walk, same]

/-- The command of a walker at work is a round of it. -/
theorem walker_rounds {o : OperatorRow} (listed : o ∈ operatorTable) (walks : o.walks = true) {n : RingId} {i : Index} {s : State}
    (working : walking o.op ⟨n, i⟩ s = true) : exec (o.command n i) s = .next (walkRound ⟨n, i⟩ s) := by
  have begun : ∀ op, walking op ⟨n, i⟩ s = true → walkerRow op n i s = walkRound ⟨n, i⟩ s :=
    fun op h => by rw [walkerRow, h, if_pos rfl]
  simp only [operatorTable, List.mem_cons, List.not_mem_nil, or_false] at listed
  rcases listed with rfl | rfl | rfl | rfl | rfl | rfl | rfl | rfl | rfl | rfl | rfl | rfl | rfl
  · exact congrArg _ (begun 0x10 working)
  · exact congrArg _ (begun 0x11 working)
  all_goals exact absurd walks Bool.false_ne_true

end Sys2Proof.Machine
end

section
/-! PROOFS. The library's operators on started packets, and a walker that opens its next cell (R242, R314, R316, R334, R366 to R371). -/

namespace Sys2Proof.Machine

section round
variable {o : OperatorRow} (listed : o ∈ operatorTable) (walks : o.walks = true) {n : RingId} {i : Index} {w : Walk} {v : Strip} {t : Stream}
  {s : State} (working : walking o.op ⟨n, i⟩ s = true) (opens : opensNext ⟨n, i⟩ w v t s)
include listed walks working opens

/-- A round with a FREE slot opens the stream's next cell in the lowest (R242, R316). -/
theorem walker_opens {k : Nat} (slot : k < 16) (free : (getSlot t.rack k s).st = 0) (below : ∀ m, m < k → (getSlot t.rack m s).st ≠ 0) :
    ∃ u, exec (o.command n i) s = .next u ∧ onlyIn [.threads, .racks, .rings] s u ∧
      (∀ x, x < 64 → getThread t.rack x u = getThread t.rack x s) ∧
      (∀ x, x ≠ t.rack → getRack x u = if allFree x u then { getRack x s with ibuf := [] } else getRack x s) ∧
      getSlot t.rack k u = { getSlot t.rack k s with st := 1, pkt := some ⟨n, i⟩ } ∧
      (∀ m, m ≠ k → getSlot t.rack m u = getSlot t.rack m s) ∧
      ∃ w', walkOf ⟨n, i⟩ u = some w' ∧ w'.streams.map Stream.flights =
        [[⟨nthD 0 t.next (w.sharesOn t.rack t.home), t.cell, [k], false, 0, false, 0⟩]] := by
  have ran : exec (o.command n i) s = .next (endWalkers ⟨n, i⟩ (cellOpened ⟨n, i⟩ w t k s)) := by
    rw [walker_rounds listed walks working, walkRound_opens opens, openNext_asks opens, freeSlot_lowest slot free below]
    rfl
  obtain ⟨walk, -, streams, -, -, works, -, noFlights, -⟩ := opens
  have frame := cellOpened_onlyIn ⟨n, i⟩ w t k s
  have opened := walkOf_cellOpened walk streams k
  have stays := t.past_stays (w.sharesOn t.rack t.home).length (nthD 0 t.next (w.sharesOn t.rack t.home)) k
  obtain ⟨threads, racks⟩ := round_leaves opened stays.1 (stays.2.trans works) (frame.same .threads (by decide))
  refine ⟨_, ran, onlyIn_mono (frame.andThen (endWalkers_onlyIn ..)) (by decide), threads,
    fun x other => racks x (getRack_cellOpened_ne _ w t k s other), ?_, fun m other => ?_, _, (walkOf_endWalkers ..).trans opened, ?_⟩
  · rw [getSlot_endWalkers, getSlot_cellOpened]
  · rw [getSlot_endWalkers, getSlot_cellOpened_ne _ w t s other]
  · simp [Stream.past, noFlights]

/-- A round with no FREE slot gives FALLBACK and turns the stream to reduction-first order (R334). -/
theorem walker_falls_back (taken : ∀ k, k < 16 → (getSlot t.rack k s).st ≠ 0) :
    ∃ u, exec (o.command n i) s = .next u ∧ onlyIn (.threads :: .racks :: eventParts) s u ∧
      (∀ x, x < 64 → getThread t.rack x u = getThread t.rack x s) ∧
      (∀ x, getRack x u = if allFree x u then { getRack x s with ibuf := [] } else getRack x s) ∧
      walkOf ⟨n, i⟩ u = some { w with streams := [{ t with redFirst := true }] } ∧
      ∃ y, findPkt ⟨n, i⟩ u = some y ∧ y.flags.testBit 1 = true := by
  have ran : exec (o.command n i) s = .next (endWalkers ⟨n, i⟩ (openFailed ⟨n, i⟩ 0 w t s)) := by
    rw [walker_rounds listed walks working, walkRound_opens opens, openNext_asks opens, freeSlot_none taken]
    rfl
  obtain ⟨walk, -, streams, -, -, works, breadth, -⟩ := opens
  obtain ⟨x, found, -⟩ := Option.bind_eq_some_iff.mp walk
  obtain ⟨frame, turned, flags⟩ := openFailed_spec breadth walk streams found
  obtain ⟨threads, racks⟩ := round_leaves turned rfl works (frame.same .threads (by decide))
  refine ⟨_, ran, onlyIn_mono (frame.andThen (endWalkers_onlyIn ..)) (by decide), threads, fun x => racks x ?_,
    (walkOf_endWalkers ..).trans turned, ?_⟩
  · exact getRack_congr (frame.same .racks (by decide)) x
  · exact flags.kept (pktsKept_of_onlyIn (endWalkers_onlyIn ..) (by decide))

end round

/-- Settles O33: an operator's command is its checks in order, the first that fails ending the packet with its code, and else its threads
become due; a walker's round opens the lowest FREE slot or falls back. -/
theorem operatorsCheckAndPlace : Obligations.OperatorsCheckAndPlace := by
  unfold Obligations.OperatorsCheckAndPlace
  refine ⟨fun o listed n i x s waits => ⟨operator_body_rejected listed waits, fun body => ⟨?_, ?_, ?_⟩⟩, ?_⟩
  · intro ts par ts' s1 s2 s3 read block right named
    refine ⟨operator_places listed waits body read block right named, fun walks h m s4 s5 head map => ⟨fun stands => ?_, fun bad => ?_⟩⟩
    · exact operator_walks listed waits body read block right named walks head map stands
    · exact exists_packet_of_endsWith (operator_map_rejected listed waits body read block right named walks head map bad)
  · intro ts s1 read params given
    refine ⟨fun bad => exists_packet_of_endsWith (operator_params_misplaced listed waits body read params given bad),
      fun s2 aligned inside => ⟨?_, ?_⟩⟩
    · exact fun par block bad => exists_packet_of_endsWith (operator_params_wrong listed waits body read params given aligned inside block bad)
    · rintro (block | block)
      · exact exists_packet_of_endsWith (operator_params_failed listed waits body read params given aligned inside (.inl rfl) block)
      · exact exists_packet_of_endsWith (operator_params_failed listed waits body read params given aligned inside (.inr rfl) block)
  · intro before a pad after ts s1 operands read
    refine ⟨fun bad => exists_packet_of_endsWith (operator_tensor_misplaced listed waits body operands read bad),
      fun s2 aligned inside => ⟨?_, ?_⟩⟩
    · exact fun t descr bad => exists_packet_of_endsWith (operator_tensor_wrong listed waits body operands read aligned inside descr bad)
    · rintro (descr | descr)
      · exact exists_packet_of_endsWith (operator_tensor_unread listed waits body operands read aligned inside (.inl rfl) descr)
      · exact exists_packet_of_endsWith (operator_tensor_unread listed waits body operands read aligned inside (.inr rfl) descr)
  · intro o listed walks n i w v t s p emptied working opens
    exact ⟨fun k slot free below => walker_opens listed walks working opens slot free below,
      walker_falls_back listed walks working opens⟩

end Sys2Proof.Machine
end

section
/-! PROOFS. What an engine instruction leaves of its thread and of its rack's slots, and ACC.OPEN (R242, R250, R262). -/

namespace Sys2Proof.Machine

/-! ### The thread and its slots as an instruction leaves them -/

/-- A thread changed last is what the change makes of it, and the other threads are as they were. -/
theorem modThread_after {ps : List Part} {s u : State} (frame : onlyIn ps s u) (n : Part.threads ∉ ps) (r t : Nat) (f : Thread → Thread) :
    otherThreads r t s (modThread r t f u) ∧ getThread r t (modThread r t f u) = f (getThread r t s) := by
  have same : u.threads = s.threads := frame.same .threads n
  refine ⟨fun k other => ?_, by rw [getThread_modThread, getThread_congr same]⟩
  rw [← same]
  exact otherThreads_setThread r t _ u k other

/-- An instruction that changes its thread alone leaves the slots of its rack as they were. -/
theorem getSlot_of_threadOnly {r : Rack} {t : Tid} {s u : State} (h : threadOnly r t s u) (m : Nat) :
    getSlot r.val m u = getSlot r.val m s := by
  obtain ⟨-, -, -, -, -, rack⟩ := h
  rw [getSlot, rack]
  rfl

/-- A thread whose wait is over is READY where neither a freeze nor a quiesce holds it (R262, R513). -/
theorem wakeState_ready {r : Nat} {k : Thread} {s : State} (st : k.st ≠ .held) (runs : rackStops r s = false) :
    wakeState r k s = .ready := by
  simp [wakeState, st, runs]

theorem drains_issued (r : Rack) (t : Tid) (s : State) : (getRack r.val (issued r t s)).drains = (getRack r.val s).drains := by
  rw [getRack_issued]
  rfl

theorem ldp_issued (r : Rack) (t : Tid) (s : State) : (getRack r.val (issued r t s)).ldp = (getRack r.val s).ldp := by
  rw [getRack_issued]
  rfl

theorem decantRoom_issued (r : Rack) (t : Tid) (s : State) :
    decantRoom r.val (issued r t s) = decide ((getRack r.val s).drains.length < 8) := by
  rw [decantRoom, drains_issued]

theorem freeSlot_issued (r : Rack) (t : Tid) (s : State) : freeSlot r.val (issued r t s) = freeSlot r.val s := by
  simp only [freeSlot, getSlot_issued]

/-- Issuing changes nothing that the check of a drain reads (R250). -/
theorem drainRefused_issued (r : Rack) (t : Tid) (n : Nat) (d : List Byte) (s : State) :
    drainRefused r.val n d (issued r t s) = drainRefused r.val n d s := by
  unfold drainRefused
  simp only [getSlot_issued]
  rfl

/-! ### ACC.OPEN (R242) -/

/-- A FREE slot that the packet of a thread opens. -/
def Slot.opened (p : Option PktId) (x : Slot) : Slot := { x with st := 1, pkt := p }

theorem exec_skAccOpen {r : Rack} {t : Tid} {d : Reg} {s : State} (may : issues r t true [.sreg d] [] s) :
    exec (.skAccOpen r t d) s = .next (match freeSlot r.val s with
      | some n => modThread r.val t.val (lateResult d (BitVec.ofNat 64 n) (.skAccOpen r t d))
          (modSlot r.val n (Slot.opened (getThread r.val t.val s).pkt) (issued r t s))
      | none => modThread r.val t.val (lateResult d (-1) (.skAccOpen r t d)) (issued r t s)) := by
  show execSkAccOpen r t d s = _
  rw [execSkAccOpen, issue_of_issues may]
  simp only [freeSlot_issued]
  cases freeSlot r.val s <;> rfl

/-- Settles O13: the lowest FREE slot is OPEN and its number on the way to s_D; without one, −1 is, and no slot changes. -/
theorem openTakesTheLowestFreeSlot : Obligations.OpenTakesTheLowestFreeSlot := by
  unfold Obligations.OpenTakesTheLowestFreeSlot
  intro r t d s may
  refine ⟨fun n slot free below => ?_, fun taken => ?_⟩
  · have run := exec_skAccOpen may
    rw [freeSlot_lowest slot free below] at run
    have frame := (issued_onlyIn r t s).andThen (modSlot_onlyIn r.val n (Slot.opened (getThread r.val t.val s).pkt) (issued r t s))
    obtain ⟨threads, thread⟩ := modThread_after frame (by decide) r.val t.val (lateResult d (BitVec.ofNat 64 n) (.skAccOpen r t d))
    refine ⟨_, run, onlyIn_mono (frame.andThen (modThread_onlyIn ..)) (by decide), threads,
      otherRacks_trans (otherRacks_issued r t s) (otherRacks_modSlot r.val n _ _), thread, ?_, fun m other => ?_⟩
    · exact (getSlot_modSlot r.val n _ _).trans (congrArg _ (getSlot_issued r t n s))
    · exact (getSlot_modSlot_ne _ _ other).trans (getSlot_issued r t m s)
  · have run := exec_skAccOpen may
    rw [freeSlot_none taken] at run
    have alone := threadOnly_modThread r t (lateResult d (-1) (.skAccOpen r t d)) s
    have slots := getSlot_of_threadOnly alone
    obtain ⟨frame, threads, -, -, racks, -⟩ := alone
    exact ⟨_, run, frame, threads, racks, getThread_modThread .., slots⟩

end Sys2Proof.Machine
end

section
/-! PROOFS. Partial loads into slots, and drains and drops at issue or after a wait (R250, R255, R288, R291, R292, R568). -/

namespace Sys2Proof.Machine

/-! ### Slot operands and descriptors -/

/-- A register that names an OPEN slot is a slot operand (R288). -/
theorem slotOk_of_open {r n : Nat} {v : DWord} {s : State} (number : v.toNat = n) (bound : n < 16) (opened : (getSlot r n s).st = 1)
    (openOnly : Bool) : slotOk r v openOnly s = true := by
  have small : n ≤ 15 := by omega
  simp [slotOk, number, small, opened]

theorem slotOk_issued (r : Rack) (t : Tid) (v : DWord) (openOnly : Bool) (s : State) :
    slotOk r.val v openOnly (issued r t s) = slotOk r.val v openOnly s := by
  simp only [slotOk, getSlot_issued]

/-- A slot's number fits a register. -/
theorem toNat_slotNumber {v : DWord} {n : Nat} (bound : n < 16) (number : v = BitVec.ofNat 64 n) : v.toNat = n := by
  rw [number, BitVec.toNat_ofNat, Nat.mod_eq_of_lt (by omega)]

theorem ownWindow_own {a off n : Nat} (own : a = 0x2000000000 + off) (aligned : off % 32 = 0) (inside : off + n ≤ 0x80000) :
    ownWindow a n = some off := by
  have low : 0x2000000000 ≤ a := by omega
  have high : a + n ≤ 0x2000080000 := by omega
  have sector : a % 32 = 0 := by omega
  have offset : a - 0x2000000000 = off := by omega
  simp [ownWindow, low, high, sector, offset]

/-- Bytes of a scratchpad whose sectors are good are fetched as they stand (R389). -/
theorem spFetch_good {r off n : Nat} {s : State} (good : badSector r off n s = none) (p : Option PktId) :
    spFetch r off n p s = (.ok (spRead r off n s), s) := by
  simp only [spFetch, good]

/-! ### ACC.LDP (R288, R291) -/

/-- A partial load joins those outstanding, and its slot counts it. -/
def loadAdded (r : Nat) (l : Ldp) (s : State) : State :=
  modSlot r l.slot (fun x => { x with pend := x.pend + 1 }) (modRack r (fun x => { x with ldp := x.ldp ++ [l] }) s)

theorem loadAdded_onlyIn (r : Nat) (l : Ldp) (s : State) : onlyIn [.racks] s (loadAdded r l s) :=
  onlyIn_trans (modRack_onlyIn ..) (modSlot_onlyIn ..)

theorem getSlot_loadAdded (r : Nat) (l : Ldp) (s : State) :
    getSlot r l.slot (loadAdded r l s) = { getSlot r l.slot s with pend := (getSlot r l.slot s).pend + 1 } := by
  rw [loadAdded, getSlot_modSlot, getSlot, getRack_modRack, getSlot]

theorem ldp_loadAdded (r : Nat) (l : Ldp) (s : State) : (getRack r (loadAdded r l s)).ldp = (getRack r s).ldp ++ [l] := by
  rw [loadAdded, modSlot, getRack_modRack, getRack_modRack]

/-- A slot operand n of a thread about to issue: the register names it, and it is OPEN. -/
structure NamesOpen (r : Rack) (t : Tid) (a : Reg) (n : Nat) (s : State) : Prop where
  number : (sreg (getThread r.val t.val s) a).toNat = n
  bound : n < 16
  opened : (getSlot r.val n s).st = 1

theorem NamesOpen.ok {r : Rack} {t : Tid} {a : Reg} {n : Nat} {s : State} (names : NamesOpen r t a n s) :
    slotOk r.val ((getThread r.val t.val s).s' a) true (issued r t s) = true := by
  rw [slotOk_issued]
  exact slotOk_of_open names.number names.bound names.opened true

section partialLoad
variable {r : Rack} {t : Tid} {d a b : Reg} {n : Nat} {s : State} (may : issues r t true [.sreg d] [.sreg a, .sreg b] s)
  (names : NamesOpen r t a n s) (aligned : (sreg (getThread r.val t.val s) b).toNat % 32 = 0)
include may names aligned

theorem exec_skAccLdp : exec (.skAccLdp r t d a b) s = .next (
    if 4 ≤ (getRack r.val s).ldp.length then modThread r.val t.val (lateResult d 1 (.skAccLdp r t d a b)) (issued r t s)
    else modThread r.val t.val (lateResult d 0 (.skAccLdp r t d a b))
      (loadAdded r.val ⟨(sreg (getThread r.val t.val s) b).toNat, n, (getThread r.val t.val s).pkt⟩ (issued r t s))) := by
  have ok := names.ok
  have number : ((getThread r.val t.val s).s' a).toNat = n := names.number
  have sector : ¬ ((getThread r.val t.val s).s' b).toNat % 32 ≠ 0 := not_not.mpr aligned
  show execSkAccLdp r t d a b s = _
  rw [execSkAccLdp, issue_of_issues may]
  simp only [issued_thread, sector, ok, number, ldp_issued, Bool.not_true, Bool.false_eq_true, if_false]
  split <;> rfl

theorem skAccLdp_accepts (room : (getRack r.val s).ldp.length < 4) :
    ∃ u, exec (.skAccLdp r t d a b) s = .next u ∧ onlyIn [.threads, .regs, .racks] s u ∧ otherThreads r.val t.val s u ∧
      getThread r.val t.val u = lateResult d 0 (.skAccLdp r t d a b) (getThread r.val t.val s) ∧
      getSlot r.val n u = { getSlot r.val n s with pend := (getSlot r.val n s).pend + 1 } ∧
      (getRack r.val u).ldp =
        (getRack r.val s).ldp ++ [⟨(sreg (getThread r.val t.val s) b).toNat, n, (getThread r.val t.val s).pkt⟩] := by
  have run := exec_skAccLdp may names aligned
  rw [if_neg (by omega)] at run
  generalize load : (⟨(sreg (getThread r.val t.val s) b).toNat, n, (getThread r.val t.val s).pkt⟩ : Ldp) = l at run ⊢
  have slot : l.slot = n := by rw [← load]
  have frame := (issued_onlyIn r t s).andThen (loadAdded_onlyIn r.val l (issued r t s))
  obtain ⟨threads, thread⟩ := modThread_after frame (by decide) r.val t.val (lateResult d 0 (.skAccLdp r t d a b))
  refine ⟨_, run, onlyIn_mono (frame.andThen (modThread_onlyIn ..)) (by decide), threads, thread, ?_, ?_⟩
  · have counted := getSlot_loadAdded r.val l (issued r t s)
    rwa [slot, getSlot_issued] at counted
  · have joined := ldp_loadAdded r.val l (issued r t s)
    rwa [ldp_issued] at joined

theorem skAccLdp_full (full : 4 ≤ (getRack r.val s).ldp.length) :
    turns (.skAccLdp r t d a b) r t (lateResult d 1 (.skAccLdp r t d a b)) s := by
  have run := exec_skAccLdp may names aligned
  rw [if_pos full] at run
  exact ⟨_, run, threadOnly_modThread .., getThread_modThread ..⟩

end partialLoad

/-! ### Drains and drops join the decant queue (R255, R292, R568) -/

/-- A slot of a rack is sealed and a drain or drop of it is the last in the rack's decant queue; the other slots and racks are as they were. -/
structure SlotSealed (r n : Nat) (isDrop : Bool) (desc : List Byte) (p : Option PktId) (s u : State) : Prop where
  racks : otherRacks r s u
  own : getSlot r n u = { getSlot r n s with st := 2 }
  others : ∀ m, m ≠ n → getSlot r m u = getSlot r m s
  joined : (getRack r u).drains = (getRack r s).drains ++ [⟨s.nextOp, isDrop, n, desc, p, 0, none⟩]

/-- A request at the end of a rack's decant queue. -/
def drainQueued (r : Nat) (x : Drain) (s : State) : State := modRack r (fun k => { k with drains := k.drains ++ [x] }) s

theorem getSlot_drainQueued (r m : Nat) (x : Drain) (s : State) : getSlot r m (drainQueued r x s) = getSlot r m s := by
  rw [drainQueued, getSlot, getRack_modRack, getSlot]

theorem drains_drainQueued (r n : Nat) (x : Drain) (f : Slot → Slot) (s : State) :
    (getRack r (drainQueued r x (modSlot r n f s))).drains = (getRack r s).drains ++ [x] := by
  rw [drainQueued, getRack_modRack, modSlot, getRack_modRack]

/-- An accepted drain or drop seals its slot, joins the queue and takes the next name. -/
theorem acceptDrain_eq (r n : Nat) (isDrop : Bool) (desc : List Byte) (p : Option PktId) (s : State) :
    acceptDrain r isDrop n desc p s =
      { drainQueued r ⟨s.nextOp, isDrop, n, desc, p, 0, none⟩ (modSlot r n (fun k => { k with st := 2 }) s) with nextOp := s.nextOp + 1 } := rfl

theorem acceptDrain_onlyIn (r n : Nat) (isDrop : Bool) (desc : List Byte) (p : Option PktId) (s : State) :
    onlyIn [.racks, .opNames] s (acceptDrain r isDrop n desc p s) := by
  have slot := modSlot_onlyIn r n (fun k => { k with st := 2 }) s
  have queued := slot.andThen (modRack_onlyIn r (fun k => { k with drains := k.drains ++ [⟨s.nextOp, isDrop, n, desc, p, 0, none⟩] }) _)
  exact onlyIn_mono (queued.andThen (nextOp_onlyIn (s.nextOp + 1) _)) (by decide)

theorem acceptDrain_seals (r n : Nat) (isDrop : Bool) (desc : List Byte) (p : Option PktId) (s : State) :
    SlotSealed r n isDrop desc p s (acceptDrain r isDrop n desc p s) := by
  rw [acceptDrain_eq]
  refine ⟨otherRacks_trans (otherRacks_modSlot r n _ s) (otherRacks_setRack r _ _), ?_, fun m other => ?_, ?_⟩
  · exact (getSlot_drainQueued r n _ _).trans (getSlot_modSlot r n _ s)
  · exact (getSlot_drainQueued r m _ _).trans (getSlot_modSlot_ne _ s other)
  · exact drains_drainQueued r n _ _ s

/-- What an instruction seals as it issues is sealed. -/
theorem SlotSealed.after_issue {r : Rack} {t : Tid} {n : Nat} {isDrop : Bool} {desc : List Byte} {p : Option PktId} {s u : State}
    (h : SlotSealed r.val n isDrop desc p (issued r t s) u) : SlotSealed r.val n isDrop desc p s u where
  racks := otherRacks_trans (otherRacks_issued r t s) h.racks
  own := by rw [h.own, getSlot_issued]
  others := fun m other => by rw [h.others m other, getSlot_issued]
  joined := by
    rw [h.joined, drains_issued]
    rfl

/-- A drain or drop is accepted: its slot is sealed, and of the threads its own alone goes on. -/
structure DrainAccepted (r t n : Nat) (isDrop : Bool) (desc : List Byte) (done : Thread) (s u : State) : Prop where
  frame : onlyIn [.threads, .regs, .racks, .opNames] s u
  slot : SlotSealed r n isDrop desc (getThread r t s).pkt s u
  threads : otherThreads r t s u
  thread : getThread r t u = done

theorem drainAccepted_of_sealed {r t n : Nat} {isDrop : Bool} {desc : List Byte} {s u : State} (frame : onlyIn [.regs, .racks, .opNames] s u)
    (h : SlotSealed r n isDrop desc (getThread r t s).pkt s u) (f : Thread → Thread) :
    DrainAccepted r t n isDrop desc (f (getThread r t s)) s (modThread r t f u) := by
  obtain ⟨threads, thread⟩ := modThread_after frame (by decide) r t f
  exact ⟨onlyIn_mono (frame.andThen (modThread_onlyIn ..)) (by decide), ⟨h.racks, h.own, h.others, h.joined⟩, threads, thread⟩

/-- A drain or drop accepted as its instruction issues. -/
theorem drainAccepted_issued (r : Rack) (t : Tid) (n : Nat) (isDrop : Bool) (desc : List Byte) (s : State) :
    DrainAccepted r.val t.val n isDrop desc (getThread r.val t.val s).step s
      (modThread r.val t.val Thread.step (acceptDrain r.val isDrop n desc (getThread r.val t.val s).pkt (issued r t s))) :=
  drainAccepted_of_sealed (onlyIn_mono ((issued_onlyIn r t s).andThen (acceptDrain_onlyIn ..)) (by decide))
    (acceptDrain_seals ..).after_issue Thread.step

/-- A drain or drop accepted after its wait releases its thread, which no quiesce and no freeze holds (R262, R513, R568). -/
theorem drainAccepted_released {r t n : Nat} {s : State} (st : (getThread r t s).st = .waitDrain) (runs : rackStops r s = false)
    (isDrop : Bool) (desc : List Byte) :
    DrainAccepted r t n isDrop desc { (getThread r t s).step with st := .ready, wait := none } s
      (releasePast r t (acceptDrain r isDrop n desc (getThread r t s).pkt s)) := by
  have frame := acceptDrain_onlyIn r n isDrop desc (getThread r t s).pkt s
  have runs' : rackStops r (acceptDrain r isDrop n desc (getThread r t s).pkt s) = false := by
    rw [rackStops, rflag, rget_congr (frame.same .regs (by decide))]
    exact runs
  have ready := wakeState_ready (k := getThread r t s) (by rw [st]; decide) runs'
  have accepted := drainAccepted_of_sealed (t := t) (onlyIn_mono frame (by decide)) (acceptDrain_seals r n isDrop desc (getThread r t s).pkt s)
    fun k => { k with st := wakeState r k (acceptDrain r isDrop n desc (getThread r t s).pkt s), wait := none, pc := k.pc + 4 }
  rwa [ready] at accepted

/-! ### ACC.DROP (R288, R292) -/

section drop
variable {r : Rack} {t : Tid} {n : Nat} {s : State}

theorem exec_skAccDrop {a : Reg} (may : issues r t true [] [.sreg a] s) (names : NamesOpen r t a n s) :
    exec (.skAccDrop r t a) s = .next (
      if (getRack r.val s).drains.length < 8 then
        modThread r.val t.val Thread.step (acceptDrain r.val true n [] (getThread r.val t.val s).pkt (issued r t s))
      else modThread r.val t.val (waits .waitDrain (.drop n) (.skAccDrop r t a) s.now) (issued r t s)) := by
  have ok := names.ok
  have number : ((getThread r.val t.val s).s' a).toNat = n := names.number
  show execSkAccDrop r t a s = _
  rw [execSkAccDrop, issue_of_issues may]
  simp only [issued_thread, ok, number, decantRoom_issued, Bool.not_true, Bool.false_eq_true, if_false, decide_eq_true_eq]
  split <;> rfl

theorem exec_accDropAccept (st : (getThread r.val t.val s).st = .waitDrain) (wait : (getThread r.val t.val s).wait = some (.drop n))
    (room : (getRack r.val s).drains.length < 8) (opened : (getSlot r.val n s).st = 1) :
    exec (.accDropAccept r t) s = .next (releasePast r.val t.val (acceptDrain r.val true n [] (getThread r.val t.val s).pkt s)) := by
  have roomy : decantRoom r.val s = true := decide_eq_true room
  show execAccDropAccept r t s = _
  simp only [execAccDropAccept, wait, st, roomy, opened]
  rfl

end drop

/-! ### DC.DRAIN (R250, R255, R288) -/

section drain
variable {r : Rack} {t : Tid} {n : Nat} {s : State}

/-- The descriptor of a drain about to issue: 128 good bytes of the own-rack window, not refused for the slot that they or s_B name. -/
structure GoodDrain (r : Rack) (t : Tid) (a b : Reg) (n off : Nat) (s : State) : Prop where
  own : (sreg (getThread r.val t.val s) a).toNat = 0x2000000000 + off
  aligned : off % 32 = 0
  inside : off + 128 ≤ 0x80000
  slot : (if b = 0 then byteAt 51 (spRead r.val off 128 s) % 16 else (sreg (getThread r.val t.val s) b).toNat) = n
  good : badSector r.val off 128 s = none
  taken : drainRefused r.val n (spRead r.val off 128 s) s = false

/-- A slot that s_B names is a slot operand when it is OPEN. -/
theorem GoodDrain.named {a b : Reg} {off : Nat} (drain : GoodDrain r t a b n off s) (bound : n < 16) (opened : (getSlot r.val n s).st = 1) :
    (decide (b ≠ 0) && !slotOk r.val ((getThread r.val t.val s).s' b) true (issued r t s)) = false := by
  by_cases h : b = 0
  · simp [h]
  · have number := drain.slot
    rw [if_neg h] at number
    have ok : slotOk r.val ((getThread r.val t.val s).s' b) true (issued r t s) = true :=
      (slotOk_issued r t _ true s).trans (slotOk_of_open number bound opened true)
    simp [ok]

theorem exec_skDcDrain {a b : Reg} {off : Nat} (may : issues r t true [] [.sreg a, .sreg b] s) (drain : GoodDrain r t a b n off s)
    (bound : n < 16) (opened : (getSlot r.val n s).st = 1) :
    exec (.skDcDrain r t a b false) s = .next (
      if (getRack r.val s).drains.length < 8 then modThread r.val t.val Thread.step
        (acceptDrain r.val false n (spRead r.val off 128 s) (getThread r.val t.val s).pkt (issued r t s))
      else modThread r.val t.val (waits .waitDrain
        (.drain n (spRead r.val off 128 s) (sreg (getThread r.val t.val s) a).toNat) (.skDcDrain r t a b false) s.now) (issued r t s)) := by
  have window : ownWindow ((getThread r.val t.val s).s' a).toNat 128 = some off := ownWindow_own drain.own drain.aligned drain.inside
  have fetched := spFetch_good (s := issued r t s) drain.good (getThread r.val t.val s).pkt
  have bytes : spRead r.val off 128 (issued r t s) = spRead r.val off 128 s := rfl
  have slot : (if b = 0 then byteAt 51 (spRead r.val off 128 s) % 16 else ((getThread r.val t.val s).s' b).toNat) = n := drain.slot
  show execSkDcDrain r t a b false s = _
  rw [execSkDcDrain, issue_of_issues may]
  simp only [issued_thread, window, drain.named bound opened, Bool.false_eq_true, if_false, fetched, bytes, slot, drainRefused_issued, drain.taken,
    decantRoom_issued, decide_eq_true_eq]
  split <;> rfl

theorem exec_dcDrainAccept {desc : List Byte} {addr : Nat} (st : (getThread r.val t.val s).st = .waitDrain)
    (wait : (getThread r.val t.val s).wait = some (.drain n desc addr)) (room : (getRack r.val s).drains.length < 8)
    (taken : drainRefused r.val n desc s = false) :
    exec (.dcDrainAccept r t) s = .next (releasePast r.val t.val (acceptDrain r.val false n desc (getThread r.val t.val s).pkt s)) := by
  have roomy : decantRoom r.val s = true := decide_eq_true room
  show execDcDrainAccept r t s = _
  simp only [execDcDrainAccept, wait, st, roomy, taken]
  rfl

end drain

/-! ### The statement -/

/-- An instruction whose request the decant has no room for waits, and changes its thread alone. -/
theorem turns_of_full {i : Instr} {r : Rack} {t : Tid} {accepted : State} {f : Thread → Thread} {s : State}
    (run : exec i s = .next (if (getRack r.val s).drains.length < 8 then accepted else modThread r.val t.val f (issued r t s)))
    (full : 8 ≤ (getRack r.val s).drains.length) : turns i r t f s := by
  rw [if_neg (by omega)] at run
  exact ⟨_, run, threadOnly_modThread .., getThread_modThread ..⟩

/-- Settles O16: partial loads accepted or turned away; drops and drains accepted at issue, made to wait, and accepted after the wait. -/
theorem partialLoadsDrainsAndDrops : Obligations.PartialLoadsDrainsAndDrops := by
  unfold Obligations.PartialLoadsDrainsAndDrops
  intro r t n s bound opened k sealed'
  have told : ∀ i isDrop desc done, (∃ u, exec i s = .next u ∧ DrainAccepted r.val t.val n isDrop desc done s u) → sealed' i isDrop desc done :=
    fun i isDrop desc done ⟨u, run, h⟩ =>
      ⟨u, run, h.frame, h.threads, h.slot.racks, h.thread, h.slot.own, h.slot.others, h.slot.joined⟩
  refine ⟨fun d a b may number aligned => ?_, fun a may number => ?_, fun a b off may own aligned inside slot good taken => ?_,
    fun st runs room => ⟨fun wait => ?_, fun desc addr wait taken => ?_⟩⟩
  · have names : NamesOpen r t a n s := ⟨toNat_slotNumber bound number, bound, opened⟩
    exact ⟨skAccLdp_accepts may names aligned, skAccLdp_full may names aligned⟩
  · have run := exec_skAccDrop may ⟨toNat_slotNumber bound number, bound, opened⟩
    refine ⟨fun room => told _ _ _ _ ?_, turns_of_full run⟩
    rw [if_pos room] at run
    exact ⟨_, run, drainAccepted_issued r t n true [] s⟩
  · have run := exec_skDcDrain may ⟨own, aligned, inside, slot, good, taken⟩ bound opened
    refine ⟨fun room => told _ _ _ _ ?_, turns_of_full run⟩
    rw [if_pos room] at run
    exact ⟨_, run, drainAccepted_issued r t n false _ s⟩
  · exact told _ _ _ _ ⟨_, exec_accDropAccept st wait room opened, drainAccepted_released st runs true []⟩
  · exact told _ _ _ _ ⟨_, exec_dcDrainAccept st wait room taken, drainAccepted_released st runs false desc⟩

end Sys2Proof.Machine
end

section
/-! SUPPORT. Whole sectors written: what a scratchpad holds after a write, and what DRAM reads through a cache with room for two lines
(R234, R237, R387, R392). -/

namespace Sys2Proof.Machine

/-! ### Lists of bytes -/

theorem leBytes_eq_map (n x : Nat) : leBytes n x = (List.range n).map fun j => BitVec.ofNat 8 (x / 256 ^ j) := by
  induction n generalizing x with
  | zero => rfl
  | succ n ih =>
    rw [List.range_succ_eq_map, List.map_cons, List.map_map, leBytes, ih]
    simp [Function.comp_def, Nat.pow_succ', Nat.div_div_eq_div_mul]

theorem nthD_map_range {byte : Nat → Byte} {n j : Nat} (h : j < n) : nthD 0 j ((List.range n).map byte) = byte j := by
  rw [nthD_eq_getElem (by simpa using h)]
  simp

/-- A sector cut out of a list of bytes holds the bytes of its place. -/
theorem nthD_sectorCut {data : List Byte} {k j : Nat} (inside : 32 * k + 32 ≤ data.length) (h : j < 32) :
    nthD 0 j (padTo 32 ((data.drop (32 * k)).take 32)) = nthD 0 (32 * k + j) data := by
  have whole : ((data.drop (32 * k)).take 32).length = 32 := by simp; omega
  rw [padTo, whole, Nat.sub_self, List.replicate_zero, List.append_nil, List.take_take, nthD_eq_getElem (by simp; omega),
    nthD_eq_getElem (by omega)]
  simp

/-! ### Tables cleared over a range -/

theorem Store.find_clear {α : Type} {a : Nat} (lo hi k : Nat) (m : Store α) (w : Store.risesFrom a m = true) :
    Store.find k (Store.clear lo hi m) = if lo ≤ k ∧ k < hi then none else Store.find k m := by
  induction m generalizing a with
  | nil => simp [Store.clear, Store.find]
  | cons e m ih =>
    obtain ⟨j, v⟩ := e
    have rises := w
    simp only [Store.risesFrom, Bool.and_eq_true, decide_eq_true_eq] at w
    obtain ⟨-, above⟩ := w
    have rest := ih above
    by_cases keeps : j < lo ∨ hi ≤ j
    · have cleared : Store.clear lo hi ((j, v) :: m) = (j, v) :: Store.clear lo hi m := List.filter_cons_of_pos (by simpa using keeps)
      rw [cleared, Store.find, Store.find, rest]
      by_cases gone : lo ≤ k ∧ k < hi
      · have other : k ≠ j := by omega
        rw [if_pos gone, if_pos gone, if_neg other, ite_self]
      · rw [if_neg gone, if_neg gone]
    · have cleared : Store.clear lo hi ((j, v) :: m) = Store.clear lo hi m := List.filter_cons_of_neg (by simpa using keeps)
      rw [cleared, rest, Store.find]
      by_cases gone : lo ≤ k ∧ k < hi
      · rw [if_pos gone, if_pos gone]
      · have other : k ≠ j := by omega
        rw [if_neg gone, if_neg gone, if_neg other]
        split
        · exact Store.find_low m above (by omega)
        · rfl

theorem has_clear {m : KeySet} (w : Store.risesFrom 0 m = true) (lo n x : Nat) :
    KeySet.has x (Store.clear lo (lo + n) m) = (m.has x && !(decide (lo ≤ x) && decide (x < lo + n))) := by
  rw [KeySet.has, KeySet.has, Store.find_clear lo (lo + n) x m w]
  by_cases h : lo ≤ x ∧ x < lo + n
  · simp [h]
  · rw [if_neg h, ← Bool.decide_and, decide_eq_false h, Bool.not_false, Bool.and_true]

/-! ### Scratchpads (R234, R392) -/

/-- Whole sectors written into a scratchpad change the parity marks of those sectors alone. -/
theorem spWrite_onlySectors {q off c : Nat} {data : List Byte} {s : State} (w : Mem.wf s.mem = true) (aligned : off % 32 = 0)
    (length : data.length = 32 * c) : onlySectors (0x4000 * q + off / 32) c s (spWrite q off data s) := by
  obtain ⟨-, -, -, -, -, -, -, ⟨rises, -, -⟩, -⟩ := (Mem.wf_iff s.mem).mp w
  refine ⟨rfl, fun x => ?_⟩
  have lo : (0x80000 * q + off) / 32 = 0x4000 * q + off / 32 := by omega
  have hi : (0x80000 * q + off + data.length) / 32 = 0x4000 * q + off / 32 + c := by omega
  show KeySet.has x (Store.clear ((0x80000 * q + off) / 32) ((0x80000 * q + off + data.length) / 32) s.mem.spBad) = _
  rw [lo, hi, has_clear rises]

theorem spWrite_in {q off n : Nat} {byte : Nat → Byte} {s : State} (w : Mem.wf s.mem = true) {j : Nat} (h : j < n) :
    Store.getD 0 (0x80000 * q + off + j) (spWrite q off ((List.range n).map byte) s).mem.sp = byte j := by
  obtain ⟨-, -, -, -, -, wf, -, -, -⟩ := (Mem.wf_iff s.mem).mp w
  refine (Store.getD_setN_in 0 (0x80000 * q + off) j _ _ wf (by simpa using h)).trans ?_
  simp [h]

theorem spWrite_out {q off n : Nat} {byte : Nat → Byte} {s : State} (w : Mem.wf s.mem = true) {j : Nat}
    (h : ¬ (0x80000 * q + off ≤ j ∧ j < 0x80000 * q + off + n)) :
    Store.getD 0 j (spWrite q off ((List.range n).map byte) s).mem.sp = Store.getD 0 j s.mem.sp := by
  obtain ⟨-, -, -, -, -, wf, -, -, -⟩ := (Mem.wf_iff s.mem).mp w
  exact Store.getD_setN_out 0 (0x80000 * q + off) _ _ wf (by simp; omega)

/-! ### Room in the cache (R387) -/

theorem Store.length_put_of_present {α : Type} {k : Nat} {m : Store α} (v : α) (present : (Store.find k m).isSome = true) :
    (Store.put k v m).length = m.length := by
  induction m with
  | nil => simp [Store.find] at present
  | cons e m ih =>
    obtain ⟨j, x⟩ := e
    rcases Nat.lt_trichotomy k j with below | rfl | above
    · rw [Store.find, if_neg below.ne, if_pos below] at present
      cases present
    · simp [Store.put]
    · rw [Store.find, if_neg above.ne', if_neg above.not_gt] at present
      rw [Store.put, if_neg above.not_gt, if_neg above.ne', List.length_cons, ih present, List.length_cons]

theorem Store.length_put_le {α : Type} (k : Nat) (v : α) (m : Store α) : (Store.put k v m).length ≤ m.length + 1 := by
  induction m with
  | nil => exact le_rfl
  | cons e m ih =>
    obtain ⟨j, x⟩ := e
    rw [Store.put]
    split_ifs
    · exact le_rfl
    · exact Nat.le_succ _
    · rw [List.length_cons, List.length_cons]
      omega

/-- How many ways a line still needs: none where it is present. -/
def waysFor (l : Nat) (m : Store Nat) : Nat := if (Store.find l m).isSome then 0 else 1

/-- Two neighbouring lines fit into the cache together with the lines present, whatever sets they belong to. -/
def RoomForLines (l : Nat) (m : Store Nat) : Prop := m.length + waysFor l m + waysFor (l + 1) m ≤ 12

theorem roomForLines_of_length {l : Nat} {m : Store Nat} (h : m.length < 11) : RoomForLines l m := by
  unfold RoomForLines waysFor
  split_ifs <;> omega

/-- A line that is used is present and needs no way; the other lines need what they needed. -/
theorem waysFor_put (l x v : Nat) (m : Store Nat) : waysFor l (Store.put x v m) = if l = x then 0 else waysFor l m := by
  unfold waysFor
  by_cases h : l = x
  · rw [h, Store.find_put_same]
    simp
  · rw [Store.find_put_ne v m h, if_neg h]

theorem length_put_waysFor (x v : Nat) (m : Store Nat) : (Store.put x v m).length ≤ m.length + waysFor x m := by
  unfold waysFor
  split_ifs with present
  · exact (Store.length_put_of_present v present).le
  · exact Store.length_put_le x v m

theorem RoomForLines.put {l x v : Nat} {m : Store Nat} (room : RoomForLines l m) (own : x = l ∨ x = l + 1) :
    RoomForLines l (Store.put x v m) := by
  have length := length_put_waysFor x v m
  unfold RoomForLines at *
  rw [waysFor_put, waysFor_put]
  rcases own with rfl | rfl
  · rw [if_pos rfl, if_neg (by omega)]
    omega
  · rw [if_neg (by omega), if_pos rfl]
    omega

/-- A line that fits takes its way without an eviction. -/
theorem RoomForLines.makeRoom_eq {l x : Nat} {m : Mem} (room : RoomForLines l m.cline) (own : x = l ∨ x = l + 1) :
    makeRoom x m = (true, m, []) := by
  unfold makeRoom
  by_cases present : (m.cline.find x).isSome
  · rw [if_pos present]
  · have absent : waysFor x m.cline = 1 := if_neg present
    have short : m.cline.length < 12 := by
      unfold RoomForLines at room
      rcases own with rfl | rfl <;> omega
    have none : setLines x m = [] := if_pos short
    rw [if_neg present, none]
    rfl

/-! ### Sectors written through the cache (R387, R392, R395) -/

/-- A sector written whole: it is in the cache and dirty, and its block is sealed no more. -/
def sectorCached (sec : Nat) (data : List Byte) (m : Mem) : Mem :=
  cachePut sec ⟨padTo 32 data, parityOf (padTo 32 data), true⟩
    { m with seals := m.seals.drop (sec / 128), failed := m.failed.drop sec }

theorem writeSector_cached {l sec : Nat} {s : State} (on : sliceOn (sec / 4) s = true) (room : RoomForLines l s.mem.cline)
    (own : sec / 4 = l ∨ sec / 4 = l + 1) (data : List Byte) :
    writeSector sec data s = { s with mem := sectorCached sec data s.mem } := by
  have made : makeRoom (sec / 4) { s.mem with seals := s.mem.seals.drop (sec / 128), failed := s.mem.failed.drop sec } =
      (true, { s.mem with seals := s.mem.seals.drop (sec / 128), failed := s.mem.failed.drop sec }, []) :=
    RoomForLines.makeRoom_eq (m := { s.mem with seals := _, failed := _ }) room own
  rw [writeSector, putSector]
  simp only [on, if_true, made, poisonEvents_nil]
  rfl

theorem peekByte_sectorCached (sec : Nat) (data : List Byte) (s : State) (x : Nat) :
    peekByte x { s with mem := sectorCached sec data s.mem } = if x / 32 = sec then nthD 0 (x % 32) (padTo 32 data) else peekByte x s := by
  have cached : (sectorCached sec data s.mem).csec = s.mem.csec.put sec ⟨padTo 32 data, parityOf (padTo 32 data), true⟩ := rfl
  simp only [peekByte, cached]
  by_cases h : x / 32 = sec
  · rw [h, Store.find_put_same, if_pos rfl]
  · rw [Store.find_put_ne _ _ h, if_neg h]
    rfl

/-- What a run of sectors written through the cache leaves: the bytes written, every other byte of DRAM, and room for both lines. -/
structure SectorsCached (l a n : Nat) (data : List Byte) (s u : State) : Prop where
  frame : onlyIn [.mem] s u
  room : RoomForLines l u.mem.cline
  peek : ∀ x, peekByte x u = if a ≤ x ∧ x < a + n then nthD 0 (x - a) data else peekByte x s

theorem SectorsCached.next {l a k : Nat} {data : List Byte} {s u : State} (h : SectorsCached l a (32 * k) data s u) (aligned : a % 32 = 0)
    (inside : 32 * k + 32 ≤ data.length) (on : sliceOn ((a / 32 + k) / 4) s = true)
    (own : (a / 32 + k) / 4 = l ∨ (a / 32 + k) / 4 = l + 1) :
    SectorsCached l a (32 * (k + 1)) data s (writeSector (a / 32 + k) ((data.drop (32 * k)).take 32) u) := by
  have powered : sliceOn ((a / 32 + k) / 4) u = true := by
    rw [sliceOn, domainIsOff, h.frame.same .pm (by decide)]
    exact on
  rw [writeSector_cached powered h.room own]
  refine ⟨onlyIn_trans h.frame (mem_onlyIn ..), h.room.put own, fun x => ?_⟩
  rw [peekByte_sectorCached, h.peek x]
  by_cases sector : x / 32 = a / 32 + k
  · have place : x - a = 32 * k + x % 32 := by omega
    rw [if_pos sector, if_pos (by omega), nthD_sectorCut inside (by omega), place]
  · have same : (a ≤ x ∧ x < a + 32 * k) ↔ a ≤ x ∧ x < a + 32 * (k + 1) := by omega
    rw [if_neg sector, if_congr same rfl rfl]

/-- At most four sectors from an aligned address on are written through the cache into two lines that it has room for. -/
theorem writeDram_cached {a c : Nat} {data : List Byte} {s : State} (aligned : a % 32 = 0) (length : data.length = 32 * c) (few : c ≤ 4)
    (on : ∀ k, k < c → sliceOn ((a / 32 + k) / 4) s = true) (room : RoomForLines (a / 128) s.mem.cline) :
    SectorsCached (a / 128) a (32 * c) data s (writeDram a data s) := by
  have sectors : data.length / 32 = c := by omega
  rw [writeDram, sectors]
  have start : SectorsCached (a / 128) a (32 * 0) data s s := ⟨onlyIn_refl _ s, room, fun x => by rw [if_neg (by omega)]⟩
  have run : ∀ k, k ≤ c → SectorsCached (a / 128) a (32 * k) data s
      ((List.range k).foldl (fun s k => writeSector (a / 32 + k) ((data.drop (32 * k)).take 32) s) s) := by
    intro k
    induction k with
    | zero => exact fun _ => start
    | succ k ih =>
      intro h
      rw [List.range_succ, List.foldl_append]
      exact (ih (by omega)).next aligned (by omega) (on k (by omega)) (by omega)
  exact run c le_rfl

end Sys2Proof.Machine
end

section
/-! SUPPORT. What a store of whole sectors does: into a scratchpad, into DRAM, as a message to a pod member, or an exception (R234, R235, R266,
R267, R274, R298, R387, R392, R428 to R433). -/

namespace Sys2Proof.Machine

/-! ### What issuing leaves of addresses and links -/

/-- Issuing counts in a register of the rack alone, so the registers of the device below the racks' read as before (R17). -/
theorem rget_issued {n : RegName} {x i : Nat} (low : regOff n x i < 0x1000000) (r : Rack) (t : Tid) (s : State) :
    rget n x i (issued r t s) = rget n x i s := by
  have rack : regOff .RP_ISSUED r.val 0 = 0x1000000 + r.val * 0x10000 + 0x40 + 0 * 0 := rfl
  exact rget_rset_ne _ _ (by omega)

theorem accessCause_issued (r : Rack) (t : Tid) (a n align : Nat) (store : Bool) (s : State) :
    accessCause r.val a n align store (issued r t s) = accessCause r.val a n align store s := by
  have own : rget .BV_IDENT 0 0 (issued r t s) = rget .BV_IDENT 0 0 s := rget_issued (by decide) r t s
  unfold accessCause rfield
  rw [own]
  rfl

theorem bvRoute_low {m : Nat} (h : m < 16) : regOff .BV_ROUTE 0 m < 0x1000000 := by
  show 0x500040 + m * 4 < 0x1000000
  omega

/-- Issuing leaves the routes to the pod's members, the ports and the own member number as they were. -/
theorem route_issued {m : Nat} (h : m < 16) (r : Rack) (t : Tid) (s : State) : routeUp m (issued r t s) = routeUp m s ∧
    routePort m (issued r t s) = routePort m s ∧ routeVc1 m (issued r t s) = routeVc1 m s ∧ ownMember (issued r t s) = ownMember s := by
  have route : rget .BV_ROUTE 0 m (issued r t s) = rget .BV_ROUTE 0 m s := rget_issued (bvRoute_low h) r t s
  have own : rget .BV_IDENT 0 0 (issued r t s) = rget .BV_IDENT 0 0 s := rget_issued (by decide) r t s
  have port : routePort m (issued r t s) = routePort m s := by rw [routePort, rfield, route, routePort, rfield]
  refine ⟨?_, port, ?_, ?_⟩
  · rw [routeUp, routeValid, rflag, route, port, routeUp, routeValid, rflag]
    rfl
  · rw [routeVc1, rflag, route, routeVc1, rflag]
  · rw [ownMember, rfield, own, ownMember, rfield]

/-! ### Regions of the address space (R266) -/

/-- An address of the own-rack window, or of the window of a rack that the links reach, lies in that rack's scratchpad. -/
theorem regionOf_reached {r : Rack} {q off a : Nat} {s : State} (inside : off < 0x80000)
    (h : (a = 0x2000000000 + off ∧ q = r.val) ∨ (a = 0x1000000000 + 0x80000 * q + off ∧ q < 256 ∧ trellisUp r.val q s = true)) :
    regionOf r.val a s = .sp q off ∧ trellisUp r.val q s = true := by
  rcases h with ⟨rfl, rfl⟩ | ⟨rfl, rack, up⟩
  · have offset : 0x2000000000 + off - 0x2000000000 = off := by omega
    have own : (decide (0x2000000000 ≤ 0x2000000000 + off) && decide (0x2000000000 + off < 0x2000080000) && decide (r.val < 256)) = true := by
      simp
      omega
    exact ⟨by rw [regionOf, if_neg (by omega), if_neg (by omega), if_pos own, offset], trellisUp_self r.val s⟩
  · exact ⟨regionOf_spAddr rack inside r.val s, up⟩

theorem regionOf_dram {r a : Nat} {s : State} (low : a < 0x1000000000) (below : a < usable s) : regionOf r a s = .dram a := by
  rw [regionOf, if_pos low, if_pos below]

/-- Sixteen members have peer windows (Table 8.3). -/
theorem member_of_peer {r a m b : Nat} {s : State} (h : regionOf r a s = .peer m b) : m < 16 := by
  unfold regionOf at h
  simp only [Bool.and_eq_true, decide_eq_true_eq] at h
  split_ifs at h with _ _ _ _ windows
  rw [← (Region.peer.inj h).1]
  omega

/-! ### Writes that reach their memory -/

theorem devStore_sp {r q off a : Nat} {data : List Byte} {s : State} (region : regionOf r a s = .sp q off) (pos : 0 < data.length)
    (inside : off + data.length ≤ 0x80000) (up : trellisUp r q s = true) (p : Option PktId) :
    devStore r a data p s = spWrite q off data s := by
  have last : lastRack q off data.length = q := by unfold lastRack; omega
  simp [devStore, writeReaches, devWrite, inReach, inWindows, region, last, up, inside]

theorem devStore_dram {r a : Nat} {data : List Byte} {s : State} (region : regionOf r a s = .dram a) (inside : a + data.length ≤ usable s)
    (p : Option PktId) : devStore r a data p s = writeDram a data s := by
  simp [devStore, writeReaches, devWrite, inReach, region, inside]

theorem accessCause_sp {r q off a n align : Nat} {store : Bool} {s : State} (region : regionOf r a s = .sp q off) (aligned : a % align = 0)
    (inside : off + n ≤ 0x80000) : accessCause r a n align store s = none := by
  simp [accessCause, aligned, region, inWindows, inside]

theorem accessCause_dram {r a n align : Nat} {store : Bool} {s : State} (region : regionOf r a s = .dram a) (aligned : a % align = 0)
    (inside : a + n ≤ usable s) : accessCause r a n align store s = none := by
  simp [accessCause, aligned, region, inside]

/-- A store may go through the peer window of another member (R428). -/
theorem accessCause_peer {r a n align m b : Nat} {s : State} (region : regionOf r a s = .peer m b) (aligned : a % align = 0)
    (inside : b + n ≤ 0x2000000000) (other : m ≠ ownMember s) : accessCause r a n align true s = none := by
  unfold ownMember at other
  have window : ¬ 0x2000000000 < b + n := by omega
  simp [accessCause, aligned, region, window, other]

theorem peekByte_congr {s u : State} (h : u.mem = s.mem) (x : Nat) : peekByte x u = peekByte x s := by
  rw [peekByte, h, peekByte]

/-! ### A message to a pod member (R428, R431 to R433) -/

theorem bv_onlyIn (b : Bv) (s : State) : onlyIn [.bv] s { s with bv := b } := by
  refine ⟨fun p other => ?_⟩
  cases p
  case bv => exact absurd List.mem_cons_self other
  all_goals rfl

/-- The device with a message kept until it is acknowledged. -/
def messageKept (x : PeerMsg) (s : State) : State :=
  { s with bv := { s.bv with nextMsg := s.bv.nextMsg + 1, msgs := s.bv.msgs ++ [x] } }

section message
variable {m b : Nat} {data : List Byte} {p : Option PktId} {th : Option Nat} {s : State} (up : routeUp m s = true)
  (room : (getPort (routePort m s) s).maySend (routeVc1 m s) = true)
include up room

/-- A message that can leave at once leaves in a flit through the port of its route, and is kept. -/
theorem sendPeer_eq : sendPeer m b data false p th s =
    let flit := .burivo (routePort m s) (routeVc1 m s) (ownMember s) m s.bv.nextMsg (.store b data)
    respond flit (modPort (routePort m s) (Port.sent (routeVc1 m s) flit s.now)
      (messageKept ⟨s.bv.nextMsg, m, b, data, false, p, th⟩ s)) := by
  generalize kept : messageKept ⟨s.bv.nextMsg, m, b, data, false, p, th⟩ s = u
  have travels : routeUp m { s with bv := { s.bv with nextMsg := s.bv.nextMsg + 1 } } = true := up
  have up' : routeUp m u = true := by rw [← kept]; exact up
  have port : routePort m u = routePort m s := by rw [← kept]; rfl
  have channel : routeVc1 m u = routeVc1 m s := by rw [← kept]; rfl
  have now : u.now = s.now := by rw [← kept]; rfl
  have room' : (getPort (routePort m s) u).maySend (routeVc1 m s) = true := by rw [← kept]; exact room
  have leaves : sendPeer m b data false p th s = routeMsg false (ownMember s) m s.bv.nextMsg (.store b data) u := by
    rw [← kept]
    exact if_pos travels
  rw [leaves, routeMsg, if_pos up', Bool.false_or, port, channel, sendFlit, if_pos room', now]

theorem sendPeer_onlyIn : onlyIn [.bv, .sent] s (sendPeer m b data false p th s) := by
  rw [sendPeer_eq up room]
  have kept := bv_onlyIn { s.bv with nextMsg := s.bv.nextMsg + 1, msgs := s.bv.msgs ++ [⟨s.bv.nextMsg, m, b, data, false, p, th⟩] } s
  exact (onlyIn_trans kept (bv_onlyIn _ _)).andThen (respond_onlyIn ..)

theorem sendPeer_msgs :
    (sendPeer m b data false p th s).bv.msgs = s.bv.msgs ++ [⟨s.bv.nextMsg, m, b, data, false, p, th⟩] := by
  rw [sendPeer_eq up room]
  rfl

theorem sendPeer_sent : (sendPeer m b data false p th s).sent =
    s.sent ++ [.burivo (routePort m s) (routeVc1 m s) (ownMember s) m s.bv.nextMsg (.store b data)] := by
  rw [sendPeer_eq up room]
  rfl

end message

end Sys2Proof.Machine
end

section
/-! SUPPORT. The clauses of the statement on stores: into a scratchpad, into DRAM, to a pod member, and the exceptions (R234, R235, R266, R267,
R274, R298, R387, R392, R428 to R433). -/

namespace Sys2Proof.Machine

/-- A store is carried out: its thread goes on, no other thread changes, and of the rest only the parts listed, as x says. -/
def StoreGoes (i : Instr) (r : Rack) (t : Tid) (parts : List Part) (x : State → Prop) (s : State) : Prop :=
  ∃ u, exec i s = .next u ∧ onlyIn (.threads :: .regs :: .racks :: parts) s u ∧ otherThreads r.val t.val s u ∧
    getThread r.val t.val u = (getThread r.val t.val s).step ∧ x u

/-- An instruction that stores n bytes, one to four sectors, at the address of its operands. -/
structure StoreInstr (i : Instr) (r : Rack) (t : Tid) (a : Reg) (o : BitVec 10) (n : Nat) (byte : Nat → Byte) (regs : List LoadDest)
    (data : Thread → List Byte) (s : State) : Prop where
  may : issues r t true [] (.sreg a :: regs) s
  run : exec i s = .next (storeOp r t a o regs n data (skWord i) s)
  bytes : data (getThread r.val t.val s) = (List.range n).map byte
  sectors : n % 32 = 0
  pos : 0 < n
  few : n ≤ 128

/-- What a store does once it issues at an address that raises no exception: its message leaves, or its bytes are written. -/
def storeDone (r : Rack) (t : Tid) (ea : Nat) (bytes : List Byte) (p : Option PktId) (s : State) : State :=
  match regionOf r.val ea s with
  | .peer m b => sendPeer m b bytes false p (some (64 * r.val + t.val)) s
  | _ => ringProgress p (devStore r.val ea bytes p s)

section store
variable {i : Instr} {r : Rack} {t : Tid} {a : Reg} {o : BitVec 10} {n : Nat} {byte : Nat → Byte} {regs : List LoadDest}
  {data : Thread → List Byte} {s : State} {ea : Nat} (h : StoreInstr i r t a o n byte regs data s)
  (addr : effAddr (getThread r.val t.val s) a o 32 = ea)
include h addr

/-- A store that breaks a rule of its address raises the exception of that rule and stores nothing (R235, R267, R274, R298). -/
theorem store_traps {cause : Nat} (fails : accessFails r.val ea n 32 true cause s) : traps i r t cause ea s := by
  have run := h.run
  have bad := accessCause_of_fails fails
  simp only [storeOp, addr, bad, Option.isNone_some, Bool.and_false, Bool.false_eq_true, if_false] at run
  refine traps_of_issue h.may run ?_
  simp only [accessCause_issued, bad]

theorem store_runs (good : accessCause r.val ea n 32 true s = none)
    (free : ∀ m b, regionOf r.val ea s = .peer m b → maySendPeer m s = true) :
    exec i s = .next (modThread r.val t.val Thread.step
      (storeDone r t ea ((List.range n).map byte) (getThread r.val t.val s).pkt (issued r t s))) := by
  rw [h.run, storeOp, addr, if_neg ?_, issue_of_issues h.may]
  · simp only [issued_thread, accessCause_issued, good, h.bytes]
    rfl
  · simp only [good, Option.isNone_none, Bool.and_true, Bool.not_eq_true]
    split
    · next m b region => rw [free m b region, Bool.not_true]
    · rfl

/-- A store that leaves the threads to its last step goes on as its effect does. -/
theorem storeGoes_of_done {parts : List Part} {x : State → Prop} (good : accessCause r.val ea n 32 true s = none)
    (free : ∀ m b, regionOf r.val ea s = .peer m b → maySendPeer m s = true) {v : State}
    (done : storeDone r t ea ((List.range n).map byte) (getThread r.val t.val s).pkt (issued r t s) = v)
    (frame : onlyIn parts (issued r t s) v) (threads : Part.threads ∉ parts) (said : x (modThread r.val t.val Thread.step v)) :
    StoreGoes i r t parts x s := by
  have run := store_runs h addr good free
  rw [done] at run
  have both := (issued_onlyIn r t s).andThen frame
  obtain ⟨others, thread⟩ := modThread_after both (by simpa using threads) r.val t.val Thread.step
  refine ⟨_, run, onlyIn_mono (both.andThen (modThread_onlyIn ..)) ?_, others, thread, said⟩
  intro p listed
  simp only [List.mem_append, List.mem_cons, List.not_mem_nil, or_false] at listed ⊢
  tauto

theorem store_scratchpad (canonical : Mem.wf s.mem = true) {q off : Nat}
    (reach : (ea = 0x2000000000 + off ∧ q = r.val) ∨ (ea = 0x1000000000 + 0x80000 * q + off ∧ q < 256 ∧ trellisUp r.val q s = true))
    (aligned : off % 32 = 0) (inside : off + n ≤ 0x80000) :
    StoreGoes i r t [.mem, .rings] (fun u => onlySectors (0x4000 * q + off / 32) (n / 32) s u ∧
      (∀ j, j < n → Store.getD 0 (0x80000 * q + off + j) u.mem.sp = byte j) ∧
      ∀ j, ¬ (0x80000 * q + off ≤ j ∧ j < 0x80000 * q + off + n) → Store.getD 0 j u.mem.sp = Store.getD 0 j s.mem.sp) s := by
  have pos := h.pos
  have sectors := h.sectors
  obtain ⟨region, up⟩ := regionOf_reached (show off < 0x80000 by omega) reach
  have sector : ea % 32 = 0 := by
    rcases reach with ⟨rfl, -⟩ | ⟨rfl, -⟩ <;> omega
  have region' : regionOf r.val ea (issued r t s) = .sp q off := region
  have written : devStore r.val ea ((List.range n).map byte) (getThread r.val t.val s).pkt (issued r t s) =
      spWrite q off ((List.range n).map byte) (issued r t s) := devStore_sp region' (by simpa using pos) (by simpa using inside) up _
  have done : storeDone r t ea ((List.range n).map byte) (getThread r.val t.val s).pkt (issued r t s) =
      ringProgress (getThread r.val t.val s).pkt (spWrite q off ((List.range n).map byte) (issued r t s)) := by
    rw [storeDone, region', written]
  have mem : (ringProgress (getThread r.val t.val s).pkt (spWrite q off ((List.range n).map byte) (issued r t s))).mem =
      (spWrite q off ((List.range n).map byte) s).mem := (ringProgress_onlyIn ..).same .mem (by decide)
  refine storeGoes_of_done h addr (accessCause_sp region sector inside) (fun m b peer => by rw [region] at peer; cases peer) done
    ((spWrite_onlyIn ..).andThen (ringProgress_onlyIn ..)) (by decide) ?_
  simp only [onlySectors, modThread_mem, mem]
  exact ⟨spWrite_onlySectors canonical aligned (by rw [List.length_map, List.length_range]; omega), fun j => spWrite_in canonical,
    fun j => spWrite_out canonical⟩

theorem store_dram (low : ea < 0x1000000000) (aligned : ea % 32 = 0) (inside : ea + n ≤ usable s) (short : s.mem.cline.length < 11)
    (on : ∀ j, j < n → sliceOn ((ea + j) / 128) s = true) :
    StoreGoes i r t [.mem, .rings] (fun u => (∀ j, j < n → peekByte (ea + j) u = byte j) ∧
      ∀ x, ¬ (ea ≤ x ∧ x < ea + n) → peekByte x u = peekByte x s) s := by
  have pos := h.pos
  have few := h.few
  have sectors : n = 32 * (n / 32) := by have := h.sectors; omega
  have region : regionOf r.val ea s = .dram ea := regionOf_dram low (by omega)
  have region' : regionOf r.val ea (issued r t s) = .dram ea := region
  have written : devStore r.val ea ((List.range n).map byte) (getThread r.val t.val s).pkt (issued r t s) =
      writeDram ea ((List.range n).map byte) (issued r t s) := devStore_dram region' (by rw [List.length_map, List.length_range]; exact inside) _
  have done : storeDone r t ea ((List.range n).map byte) (getThread r.val t.val s).pkt (issued r t s) =
      ringProgress (getThread r.val t.val s).pkt (writeDram ea ((List.range n).map byte) (issued r t s)) := by
    rw [storeDone, region', written]
  have length : ((List.range n).map byte).length = 32 * (n / 32) := by simpa using sectors
  have powered : ∀ k, k < n / 32 → sliceOn ((ea / 32 + k) / 4) (issued r t s) = true := fun k hk => by
    have line : (ea + 32 * k) / 128 = (ea / 32 + k) / 4 := by omega
    rw [← line]
    exact on (32 * k) (by omega)
  have cached := writeDram_cached aligned length (by omega) powered (roomForLines_of_length short)
  have peek : ∀ x, peekByte x (modThread r.val t.val Thread.step
      (ringProgress (getThread r.val t.val s).pkt (writeDram ea ((List.range n).map byte) (issued r t s)))) =
        if ea ≤ x ∧ x < ea + n then nthD 0 (x - ea) ((List.range n).map byte) else peekByte x s := fun x => by
    rw [peekByte_congr (modThread_mem ..), peekByte_congr ((ringProgress_onlyIn ..).same .mem (by decide)), cached.peek x, ← sectors]
    rfl
  refine storeGoes_of_done h addr (accessCause_dram region aligned inside) (fun m b peer => by rw [region] at peer; cases peer) done
    (cached.frame.andThen (ringProgress_onlyIn ..)) (by decide) ⟨fun j hj => ?_, fun x out => ?_⟩
  · rw [peek, if_pos (by omega), Nat.add_sub_cancel_left, nthD_map_range hj]
  · rw [peek, if_neg out]

theorem store_peer {m b : Nat} (region : regionOf r.val ea s = .peer m b) (aligned : ea % 32 = 0) (inside : b + n ≤ 0x2000000000)
    (other : m ≠ ownMember s) (answers : answerable m s) (runs : rflag .BV_CTRL 0 0 8 s = false) :
    StoreGoes i r t [.bv, .sent] (fun u => u.bv.msgs = s.bv.msgs ++
        [⟨s.bv.nextMsg, m, b, (List.range n).map byte, false, (getThread r.val t.val s).pkt, some (64 * r.val + t.val)⟩] ∧
      u.sent = s.sent ++ [.burivo (routePort m s) (routeVc1 m s) (ownMember s) m s.bv.nextMsg (.store b ((List.range n).map byte))]) s := by
  obtain ⟨up, room⟩ := answers
  have free : maySendPeer m s = true := by simp [maySendPeer, runs, up, room]
  have region' : regionOf r.val ea (issued r t s) = .peer m b := region
  obtain ⟨up', port, channel, own⟩ := route_issued (member_of_peer region) r t s
  rw [← up'] at up
  have room' : (getPort (routePort m (issued r t s)) (issued r t s)).maySend (routeVc1 m (issued r t s)) = true := by
    rw [port, channel]
    exact room
  have done : storeDone r t ea ((List.range n).map byte) (getThread r.val t.val s).pkt (issued r t s) =
      sendPeer m b ((List.range n).map byte) false (getThread r.val t.val s).pkt (some (64 * r.val + t.val)) (issued r t s) := by
    rw [storeDone, region']
  refine storeGoes_of_done h addr (accessCause_peer region aligned inside other) (fun m' b' peer => ?_) done (sendPeer_onlyIn up room')
    (by decide) ⟨sendPeer_msgs up room', ?_⟩
  · rw [region] at peer
    rw [← (Region.peer.inj peer).1]
    exact free
  · have sent := sendPeer_sent (b := b) (data := (List.range n).map byte) (p := (getThread r.val t.val s).pkt)
      (th := some (64 * r.val + t.val)) up room'
    rwa [port, channel, own] at sent

end store

end Sys2Proof.Machine
end

section
/-! PROOFS. Stores and fences of Skovfa (R234, R235, R266, R267, R274, R298, R304, R387, R392, R428 to R433). -/

namespace Sys2Proof.Machine

/-! ### The three instructions that store (Table 8.10) -/

section instructions
variable {r : Rack} {t : Tid} {a : Reg} {s : State} (o : BitVec 10)

theorem skVst_stores {d : Reg} (sz : Fin 3) (may : issues r t true [] [.sreg a, .vreg d] s) :
    StoreInstr (.skVst r t d a sz o) r t a o (vbytes sz)
      (fun j => BitVec.ofNat 8 (((getThread r.val t.val s).getV d).toNat / 256 ^ j)) [.vreg d]
      (fun k => vecBytes (vbytes sz) (k.getV d)) s where
  may := may
  run := rfl
  bytes := leBytes_eq_map ..
  sectors := Nat.mul_mod_right ..
  pos := by revert sz; decide
  few := by revert sz; decide

theorem skTst_stores {d : TReg} (may : issues r t true [] [.sreg a, .treg d] s) :
    StoreInstr (.skTst r t d a o) r t a o 64
      (fun j => BitVec.ofNat 8 (((getThread r.val t.val s).getT d).toNat / 256 ^ j)) [.treg d]
      (fun k => leBytes 64 (k.getT d).toNat) s where
  may := may
  run := rfl
  bytes := leBytes_eq_map ..
  sectors := by decide
  pos := by decide
  few := by decide

/-- Four runs of eight bytes are one run of 32. -/
theorem flatten_fourWords (byte : Nat → Nat → Byte) :
    ((List.range 4).map fun j => (List.range 8).map (byte j)).flatten = (List.range 32).map fun j => byte (j / 8) (j % 8) := rfl

/-- The registers of SST4 follow one another where D is at most 28 (R269). -/
theorem sst4_bytes {d : Reg} (low : d.val ≤ 28) (k : Thread) : ((List.range 4).map fun j => leBytes 8 (k.s' (regPlus d j)).toNat).flatten =
    (List.range 32).map fun j => BitVec.ofNat 8 ((k.getS (d.val + j / 8)).toNat / 256 ^ (j % 8)) := by
  have words : ∀ j ∈ List.range 4, leBytes 8 (k.s' (regPlus d j)).toNat =
      (List.range 8).map fun i => BitVec.ofNat 8 ((k.getS (d.val + j)).toNat / 256 ^ i) := fun j hj => by
    have number : (regPlus d j).val = d.val + j := Nat.mod_eq_of_lt (by rw [List.mem_range] at hj; omega)
    rw [leBytes_eq_map, Thread.s', number]
  rw [List.map_congr_left words]
  exact flatten_fourWords fun j i => BitVec.ofNat 8 ((k.getS (d.val + j)).toNat / 256 ^ i)

theorem skSst4_stores {d : Reg} (low : d.val ≤ 28)
    (may : issues r t true [] [.sreg a, .sreg d, .sreg (regPlus d 1), .sreg (regPlus d 2), .sreg (regPlus d 3)] s) :
    StoreInstr (.skSst4 r t d a o) r t a o 32
      (fun j => BitVec.ofNat 8 (((getThread r.val t.val s).getS (d.val + j / 8)).toNat / 256 ^ (j % 8)))
      [.sreg d, .sreg (regPlus d 1), .sreg (regPlus d 2), .sreg (regPlus d 3)]
      (fun k => ((List.range 4).map fun j => leBytes 8 (k.s' (regPlus d j)).toNat).flatten) s where
  may := may
  run := by
    have formed : (Instr.skSst4 r t d a o).wf = true := decide_eq_true low
    exact congrArg Host.Outcome.next (if_pos formed)
  bytes := sst4_bytes low _
  sectors := by decide
  pos := by decide
  few := by decide

end instructions

/-! ### Fences (R304) -/

section fences
variable {r : Rack} {t : Tid} {s : State}

theorem fenceComplete_releases (st : (getThread r.val t.val s).st = .waitMem) (runs : rackStops r.val s = false)
    (wait : (getThread r.val t.val s).wait = some .fence) :
    ∃ u, exec (.fenceComplete r t) s = .next u ∧ onlyIn [.threads] s u ∧ otherThreads r.val t.val s u ∧
      getThread r.val t.val u = { (getThread r.val t.val s).step with st := .ready, wait := none } := by
  have run : exec (.fenceComplete r t) s = .next (releasePast r.val t.val s) := by
    show execFenceComplete r t s = _
    simp only [execFenceComplete, wait]
  refine ⟨_, run, modThread_onlyIn .., otherThreads_setThread _ _ _ s, ?_⟩
  rw [releasePast, getThread_modThread, wakeState_ready (by rw [st]; decide) runs]
  rfl

theorem setS_pc (d : Nat) (v : DWord) (k : Thread) : (k.setS d v).pc = k.pc := by
  unfold Thread.setS
  split <;> rfl

theorem fencePComplete_tells {d : Reg} (st : (getThread r.val t.val s).st = .waitMem) (runs : rackStops r.val s = false)
    (wait : (getThread r.val t.val s).wait = some (.fenceP d)) (settled : peerStoresOut r.val t.val s = false) :
    ∃ u, exec (.fenceComplete r t) s = .next u ∧ onlyIn [.threads] s u ∧ otherThreads r.val t.val s u ∧
      getThread r.val t.val u = { ((getThread r.val t.val s).setS d.val
        (if (getThread r.val t.val s).peerFailed then 1 else 0)).step with st := .ready, wait := none } := by
  have run : exec (.fenceComplete r t) s =
      .next (releaseWith r.val t.val d (bit64 (getThread r.val t.val s).peerFailed) s) := by
    show execFenceComplete r t s = _
    simp only [execFenceComplete, wait, settled, Bool.false_eq_true, if_false]
  refine ⟨_, run, modThread_onlyIn .., otherThreads_setThread _ _ _ s, ?_⟩
  rw [releaseWith, getThread_modThread, wakeState_ready (by rw [st]; decide) runs, Thread.step, setS_pc]
  rfl

end fences

/-- Settles O8: each storing instruction in each region and at each exception, the fences, and their completion. -/
theorem storesAndFences : Obligations.StoresAndFences := by
  unfold Obligations.StoresAndFences
  refine ⟨fun r t a o s canonical => ?_, fun r t s => ⟨fun may => ⟨?_, ?_⟩, fun d may => ?_, fun st runs =>
    ⟨fenceComplete_releases st runs, fun d => fencePComplete_tells st runs⟩⟩⟩
  · intro k ea goes stores
    have told : ∀ i n byte regs data, StoreInstr i r t a o n byte regs data s → stores i n byte := fun i n byte regs data h =>
      ⟨fun q off => store_scratchpad h rfl canonical, store_dram h rfl, fun m b => store_peer h rfl, fun cause => store_traps h rfl⟩
    exact ⟨fun d sz may => told _ _ _ _ _ (skVst_stores o sz may), fun d may => told _ _ _ _ _ (skTst_stores o may),
      fun d low may => told _ _ _ _ _ (skSst4_stores o low may)⟩
  · exact turns_of_issue may rfl rfl
  · exact turns_of_issue may rfl rfl
  · exact turns_of_issue may rfl rfl

end Sys2Proof.Machine
end

section
/-! SUPPORT. What the decoder reads in a word of each format: the fields that the encoder put there (Tables 8.4 and 8.5). -/

namespace Sys2Proof.Machine

@[simp] theorem regNo_val (x : Fin 32) : regNo x.val = x := by
  ext
  exact Nat.mod_eq_of_lt x.isLt

@[simp] theorem predNo_regNo (x : Fin 8) : predNo (regNo x.val) = some x := by
  have small : x.val % 32 = x.val := Nat.mod_eq_of_lt (by omega)
  simp [predNo, regNo, small]

@[simp] theorem tregNo_regNo (x : TReg) : tregNo (regNo x.val) = some x := by
  have small : x.val % 32 = x.val := Nat.mod_eq_of_lt (by omega)
  simp [tregNo, regNo, small]

@[simp] theorem condOf_code (c : Cond) : condOf c.code = c := by cases c <;> rfl

@[simp] theorem vtypeOf_code (ty : VType) : vtypeOf ty.code = some ty := by cases ty <;> rfl

@[simp] theorem nfmtOf_code (f : NFmt) : nfmtOf f.code = some f := by cases f <;> rfl

theorem condCode_lt (c : Cond) : c.code < 8 := by cases c <;> decide

theorem vtypeCode_lt (ty : VType) : ty.code < 8 := by cases ty <;> decide

theorem nfmtCode_lt (f : NFmt) : f.code < 16 := by cases f <;> decide

section words
variable {maj d a b p fn : Nat}

theorem fields_wReg (pn : Bool) (hmaj : maj < 64) (hd : d < 32) (ha : a < 32) (hb : b < 32) (hp : p < 8) (hfn : fn < 128) :
    (wReg maj d a b p pn fn).toNat / 2 ^ 26 = maj ∧
      regF (wReg maj d a b p pn fn).toNat = ⟨regNo d, regNo a, regNo b, ⟨p, hp⟩, pn, fn⟩ := by
  have hn : pn.toNat ≤ 1 := Bool.toNat_le pn
  have word : (wReg maj d a b p pn fn).toNat =
      maj * 2 ^ 26 + d * 2 ^ 21 + a * 2 ^ 16 + b * 2 ^ 11 + p * 2 ^ 8 + pn.toNat * 2 ^ 7 + fn := by
    rw [wReg, BitVec.toNat_ofNat]
    omega
  have bit : (wReg maj d a b p pn fn).toNat / 2 ^ 7 % 2 = pn.toNat := by omega
  refine ⟨by omega, ?_⟩
  simp only [regF, regNo, RegF.mk.injEq, Fin.mk.injEq, bit]
  refine ⟨by omega, by omega, by omega, by omega, ?_, by omega⟩
  cases pn <;> rfl

theorem fields_wImm {imm : Nat} (hmaj : maj < 64) (hd : d < 32) (ha : a < 32) (himm : imm < 2 ^ 16) :
    (wImm maj d a imm).toNat / 2 ^ 26 = maj ∧ regNo ((wImm maj d a imm).toNat / 2 ^ 21) = regNo d ∧
      regNo ((wImm maj d a imm).toNat / 2 ^ 16) = regNo a ∧ (wImm maj d a imm).toNat % 2 ^ 16 = imm := by
  simp only [wImm, BitVec.toNat_ofNat, regNo, Fin.mk.injEq]
  omega

theorem fields_wMem {sz : Nat} (off : BitVec 10) (hmaj : maj < 64) (hd : d < 32) (ha : a < 32) (hsz : sz < 8) :
    (wMem maj d a sz off.toNat).toNat / 2 ^ 26 = maj ∧ regNo ((wMem maj d a sz off.toNat).toNat / 2 ^ 21) = regNo d ∧
      regNo ((wMem maj d a sz off.toNat).toNat / 2 ^ 16) = regNo a ∧ (wMem maj d a sz off.toNat).toNat / 2 ^ 13 % 8 = sz ∧
      (wMem maj d a sz off.toNat).toNat / 2 ^ 10 % 8 = 0 ∧ BitVec.ofNat 10 (wMem maj d a sz off.toNat).toNat = off := by
  have hoff := off.isLt
  simp only [wMem, BitVec.toNat_ofNat, regNo, Fin.mk.injEq, ← BitVec.toNat_inj]
  omega

theorem fields_wBra {c : Nat} (disp : BitVec 18) (hmaj : maj < 64) (ha : a < 32) (hc : c < 8) :
    (wBra maj a c disp.toNat).toNat / 2 ^ 26 = maj ∧ regNo ((wBra maj a c disp.toNat).toNat / 2 ^ 21) = regNo a ∧
      (wBra maj a c disp.toNat).toNat / 2 ^ 18 % 8 = c ∧ BitVec.ofNat 18 (wBra maj a c disp.toNat).toNat = disp := by
  have hdisp := disp.isLt
  simp only [wBra, BitVec.toNat_ofNat, regNo, Fin.mk.injEq, ← BitVec.toNat_inj]
  omega

theorem fields_wJmp (disp : BitVec 26) (hmaj : maj < 64) :
    (wJmp maj disp.toNat).toNat / 2 ^ 26 = maj ∧ BitVec.ofNat 26 (wJmp maj disp.toNat).toNat = disp := by
  have hdisp := disp.isLt
  simp only [wJmp, BitVec.toNat_ofNat, ← BitVec.toNat_inj]
  omega

end words

/-! ### Which table decodes a word (Table 8.5) -/

section tables
variable {r : Rack} {t : Tid} {d a b : Nat}

section noPredicate
variable {fn : Nat} (hd : d < 32) (ha : a < 32) (hb : b < 32) (hfn : fn < 128)
include hd ha hb hfn

theorem decWord_sys : decWord r t (wReg 0x00 d a b 0 false fn).toNat = decSys r t ⟨regNo d, regNo a, regNo b, 0, false, fn⟩ := by
  obtain ⟨major, fields⟩ := fields_wReg (maj := 0x00) false (by decide) hd ha hb (p := 0) (by decide) hfn
  simp only [decWord, major, fields]
  rfl

theorem decWord_alu : decWord r t (wReg 0x01 d a b 0 false fn).toNat = decAlu r t ⟨regNo d, regNo a, regNo b, 0, false, fn⟩ := by
  obtain ⟨major, fields⟩ := fields_wReg (maj := 0x01) false (by decide) hd ha hb (p := 0) (by decide) hfn
  simp only [decWord, major, fields]
  rfl

theorem decWord_fpu : decWord r t (wReg 0x02 d a b 0 false fn).toNat = decFpu r t ⟨regNo d, regNo a, regNo b, 0, false, fn⟩ := by
  obtain ⟨major, fields⟩ := fields_wReg (maj := 0x02) false (by decide) hd ha hb (p := 0) (by decide) hfn
  simp only [decWord, major, fields]
  rfl

theorem decWord_fence : decWord r t (wReg 0x1E d a b 0 false fn).toNat = decFence r t ⟨regNo d, regNo a, regNo b, 0, false, fn⟩ := by
  obtain ⟨major, fields⟩ := fields_wReg (maj := 0x1E) false (by decide) hd ha hb (p := 0) (by decide) hfn
  simp only [decWord, major, fields]
  rfl

theorem decWord_engine {maj : Nat} (engine : maj ∈ [0x28, 0x30, 0x31, 0x32, 0x34, 0x38, 0x3A]) :
    decWord r t (wReg maj d a b 0 false fn).toNat = decEngine r t maj ⟨regNo d, regNo a, regNo b, 0, false, fn⟩ := by
  have small : maj < 64 := by
    revert maj
    decide
  obtain ⟨major, fields⟩ := fields_wReg false small hd ha hb (p := 0) (by decide) hfn
  simp only [List.mem_cons, List.not_mem_nil, or_false] at engine
  simp only [decWord, major, fields]
  rcases engine with rfl | rfl | rfl | rfl | rfl | rfl | rfl <;> rfl

end noPredicate

theorem decWord_jr (hd : d < 32) (ha : a < 32) :
    decWord r t (wReg 0x13 d a 0 0 false 0).toNat = some (.skJr r t (regNo d) (regNo a)) := by
  obtain ⟨major, fields⟩ := fields_wReg (maj := 0x13) false (by decide) hd ha (b := 0) (by decide) (p := 0) (by decide) (fn := 0) (by decide)
  simp only [decWord, major, fields]
  rfl

theorem vecFn_fields (op : Nat) (ty : VType) (h : op < 16) :
    8 * op + ty.code < 128 ∧ (8 * op + ty.code) % 8 = ty.code ∧ (8 * op + ty.code) / 8 = op := by
  have hty := vtypeCode_lt ty
  omega

section vector
variable {op : Nat} (ty : VType) (p : Fin 8) (pn : Bool) (hop : op < 16) (hd : d < 32) (ha : a < 32) (hb : b < 32)
include hop hd ha hb

theorem decWord_vector {maj : Nat} (vector : maj ∈ [0x20, 0x21, 0x22]) : decWord r t (wVec maj op ty d a b p pn).toNat =
    (match (generalizing := false) maj with
    | 0x20 => decVint r t ⟨regNo d, regNo a, regNo b, p, pn, 8 * op + ty.code⟩ ty
    | 0x21 => decVfp r t ⟨regNo d, regNo a, regNo b, p, pn, 8 * op + ty.code⟩ ty
    | _ => decVmisc r t ⟨regNo d, regNo a, regNo b, p, pn, 8 * op + ty.code⟩ ty) := by
  have small : maj < 64 := by
    revert maj
    decide
  obtain ⟨low, type, -⟩ := vecFn_fields op ty hop
  obtain ⟨major, fields⟩ := fields_wReg pn small hd ha hb p.isLt low
  simp only [List.mem_cons, List.not_mem_nil, or_false] at vector
  simp only [wVec, decWord, major, fields]
  rcases vector with rfl | rfl | rfl <;> simp only [decVector, type, vtypeOf_code] <;> rfl

end vector

theorem vecFn_op (n : Nat) (ty : VType) (h : n % 8 = 0) : (n + ty.code) / 8 = n / 8 := by
  have hty := vtypeCode_lt ty
  omega

theorem vtypeCode_op (ty : VType) : ty.code / 8 = 0 := Nat.div_eq_of_lt (vtypeCode_lt ty)

theorem decWord_imm {maj imm : Nat} (immediate : maj ∈ [0x04, 0x05, 0x06, 0x07, 0x08, 0x09, 0x0A, 0x0B, 0x0C, 0x3C, 0x3D])
    (hd : d < 32) (ha : a < 32) (himm : imm < 2 ^ 16) :
    decWord r t (wImm maj d a imm).toNat = decImm r t maj (wImm maj d a imm).toNat := by
  have small : maj < 64 := by
    revert maj
    decide
  obtain ⟨major, -⟩ := fields_wImm small hd ha himm
  generalize (wImm maj d a imm).toNat = w at major ⊢
  simp only [List.mem_cons, List.not_mem_nil, or_false] at immediate
  rcases immediate with rfl | rfl | rfl | rfl | rfl | rfl | rfl | rfl | rfl | rfl | rfl <;> simp only [decWord, major]

theorem decWord_mem {maj sz : Nat} (memory : maj ∈ [0x18, 0x19, 0x1A, 0x1B, 0x1C, 0x1D]) (off : BitVec 10) (hd : d < 32)
    (ha : a < 32) (hsz : sz < 8) : decWord r t (wMem maj d a sz off.toNat).toNat = (match (generalizing := false) maj with
      | 0x18 => decLd r t (regNo d) (regNo a) sz off
      | 0x19 => (vsize sz).map fun sz => .skVld r t (regNo d) (regNo a) sz off
      | 0x1A => (vsize sz).map fun sz => .skVst r t (regNo d) (regNo a) sz off
      | 0x1B => onlyIf (decide (sz = 0)) (some (.skSst4 r t (regNo d) (regNo a) off))
      | 0x1C => onlyIf (decide (sz = 0)) ((tregNo (regNo d)).map fun d => .skTld r t d (regNo a) off)
      | _ => onlyIf (decide (sz = 0)) ((tregNo (regNo d)).map fun d => .skTst r t d (regNo a) off)) := by
  have small : maj < 64 := by
    revert maj
    decide
  obtain ⟨major, dest, base, size, reserved, offset⟩ := fields_wMem off small hd ha hsz
  generalize (wMem maj d a sz off.toNat).toNat = w at major dest base size reserved offset ⊢
  have read : decWord r t w = decMem r t maj w := by
    simp only [List.mem_cons, List.not_mem_nil, or_false] at memory
    rcases memory with rfl | rfl | rfl | rfl | rfl | rfl <;> simp only [decWord, major]
  simp only [read, decMem, dest, base, size, reserved, offset, onlyIf, decide_true, if_true] <;> rfl

theorem decWord_br (c : Cond) (disp : BitVec 18) (ha : a < 32) (named : ¬ c = .pany ∧ ¬ c = .pnone ∨ a < 8) :
    decWord r t (wBra 0x10 a c.code disp.toNat).toNat = some (.skBr r t c (regNo a) disp) := by
  obtain ⟨major, reg, code, dist⟩ := fields_wBra (maj := 0x10) disp (by decide) ha (condCode_lt c)
  have number : (regNo a).val = a := Nat.mod_eq_of_lt ha
  have listed : (decide (c.code < 6) || decide ((regNo a).val < 8)) = true := by
    rw [number]
    cases c <;> simp_all [Cond.code]
  simp only [decWord, major]
  simp only [decBr, reg, code, dist, listed, condOf_code]
  rfl

theorem decWord_jump {maj : Nat} (disp : BitVec 26) (hmaj : maj = 0x11 ∨ maj = 0x12) :
    decWord r t (wJmp maj disp.toNat).toNat = some (if maj = 0x11 then .skJ r t disp else .skJal r t disp) := by
  obtain ⟨major, dist⟩ := fields_wJmp (maj := maj) disp (by omega)
  simp only [decWord, major, dist]
  rcases hmaj with rfl | rfl <;> rfl

theorem decWord_vcvt {src dst : NFmt} (part : Fin 4) (p : Fin 8) (pn : Bool) (hd : d < 32) (ha : a < 32) :
    decWord r t (wReg 0x23 d a src.code p.val pn (16 * part.val + dst.code)).toNat =
      some (.skVcvt r t (regNo d) (regNo a) src dst part p pn) := by
  have hs := nfmtCode_lt src
  have hf := nfmtCode_lt dst
  obtain ⟨major, fields⟩ := fields_wReg (maj := 0x23) pn (by decide) hd ha (b := src.code) (by omega) p.isLt
    (fn := 16 * part.val + dst.code) (by omega)
  have src' : (regNo src.code).val = src.code := Nat.mod_eq_of_lt (by omega)
  have dst' : (16 * part.val + dst.code) % 16 = dst.code := by omega
  have part' : partOf (16 * part.val + dst.code) = part := Fin.ext (by simp only [partOf]; omega)
  simp only [decWord, major, fields]
  simp only [decVcvt, onlyIf, src', dst', part', nfmtOf_code]
  rw [if_pos (by simp only [Bool.and_eq_true, decide_eq_true_eq]; omega)]
  rfl

theorem decWord_vscl {fmt : NFmt} (code : Bool) (part : Fin 4) (p : Fin 8) (pn : Bool) (hd : d < 32) (ha : a < 32) (hb : b < 32) :
    decWord r t (wReg 0x24 d a b p.val pn (64 * code.toNat + 16 * part.val + fmt.code)).toNat =
      some (if code then .skVsclCode r t (regNo d) (regNo a) (regNo b) fmt part p pn
        else .skVsclExpand r t (regNo d) (regNo a) (regNo b) fmt part p pn) := by
  have hf := nfmtCode_lt fmt
  have hc : code.toNat ≤ 1 := Bool.toNat_le code
  obtain ⟨major, fields⟩ := fields_wReg (maj := 0x24) pn (by decide) hd ha hb p.isLt
    (fn := 64 * code.toNat + 16 * part.val + fmt.code) (by omega)
  have fmt' : (64 * code.toNat + 16 * part.val + fmt.code) % 16 = fmt.code := by omega
  have part' : partOf (64 * code.toNat + 16 * part.val + fmt.code) = part := Fin.ext (by simp only [partOf]; omega)
  simp only [decWord, major, fields]
  simp only [decVscl, fmt', part', nfmtOf_code]
  cases code with
  | false => exact if_pos (by simp only [Bool.toNat_false]; omega)
  | true => exact if_neg (by simp only [Bool.toNat_true]; omega)

end tables

theorem tileFn_fields (ofs : Fin 64) (wd : Fin 4) : 64 * wd.val + ofs.val < 2 ^ 16 ∧ 64 * wd.val + ofs.val < 256 ∧
    tFields (64 * wd.val + ofs.val) = (ofs, wd) := by
  simp only [tFields, Prod.mk.injEq, Fin.ext_iff]
  omega

theorem predNumber_lt (x : Fin 8) : x.val < 32 := by omega

theorem tileNumber_lt (x : TReg) : x.val < 32 := by omega

theorem sizeCode_lt (x : Fin 3) : x.val < 8 := by omega

theorem shift_lt (x : Fin 64) : x.val < 2 ^ 16 := by omega

@[simp] theorem regNo_zero : regNo 0 = 0 := rfl

/-- Before the checks of its operands, an instruction's word reads as the instruction. -/
theorem decWord_skWord {r : Rack} {t : Tid} {i : Instr} (issuer : issuerOf i = some (r, t)) (formed : i.wf = true) :
    decWord r t (skWord i).toNat = some i := by
  cases i with
  | skDcDrain r' t' a b bad =>
    cases bad <;> cases issuer
    simp [skWord, decWord_engine, decEngine, onlyIf]
  | skNop | skEnd | skBrk | skCsrr | skCsrw =>
    cases issuer
    simp [skWord, decWord_sys, decSys]
  | skAdd | skSub | skAnd | skOr | skXor | skShl | skShr | skSra | skSlt | skSltu | skMin | skMax | skMinu | skMaxu | skMul | skMulh
  | skMulhu | skDiv | skDivu | skRem | skRemu | skClz | skPopc =>
    cases issuer
    simp [skWord, decWord_alu, decAlu, onlyIf]
  | skFadd | skFsub | skFmul | skFmadd | skFmin | skFmax | skFdiv | skFeq | skFlt | skFle | skFsqrt | skFtoi | skItof | skFrnd =>
    cases issuer
    simp [skWord, decWord_fpu, decFpu, onlyIf]
  | skAddi | skAndi | skOri | skXori | skSlti | skShli | skShri | skSrai | skLui | skTset | skTget =>
    cases issuer
    simp [skWord, decWord_imm, fields_wImm, tileNumber_lt, shift_lt, BitVec.isLt, tileFn_fields, decImm, decShift, onlyIf, -Nat.reducePow]
  | skBr r' t' c a disp =>
    cases issuer
    rw [skWord, decWord_br c disp a.isLt (by simpa [Instr.wf] using formed), regNo_val]
  | skJ | skJal =>
    cases issuer
    simp [skWord, decWord_jump]
  | skJr =>
    cases issuer
    simp [skWord, decWord_jr]
  | skLb | skLbu | skLh | skLhu | skLw | skLwu | skLdd | skVld | skVst | skSst4 | skTld | skTst =>
    cases issuer
    simp [skWord, decWord_mem, decLd, vsize, tileNumber_lt, sizeCode_lt, onlyIf]
  | skFenceL | skFenceD | skFenceP =>
    cases issuer
    simp [skWord, decWord_fence, decFence]
  | skVadd | skVsub | skVmul | skVmin | skVmax | skVand | skVor | skVxor | skVshl | skVshr | skVsra | skVadds | skVdot4 | skVabs =>
    cases issuer
    simp [skWord, decWord_vector, vecFn_op, vtypeCode_op, decVint, onlyIf]
  | skVfadd | skVfsub | skVfmul | skVfma | skVfmin | skVfmax | skVfmaw | skVfabs | skVfrcp | skVfrsq | skVfexp | skVftanh =>
    cases issuer
    simp [skWord, decWord_vector, vecFn_op, vtypeCode_op, decVfp, onlyIf]
  | skVins | skVext | skVperm | skVsel | skVcmpeq | skVcmplt | skVcmple | skVbcast | skVrsum | skVrmax | skVrmaxa | skPand | skPor
  | skPxor | skPcnt | skVlane =>
    cases issuer
    simp [skWord, decWord_vector, vecFn_op, vtypeCode_op, predNumber_lt, decVmisc, decPred, onlyIf]
  | skVcvt =>
    cases issuer
    simp [skWord, decWord_vcvt]
  | skVsclExpand r' t' d a b fmt part p pn =>
    cases issuer
    simpa [skWord] using decWord_vscl (r := r) (t := t) (fmt := fmt) false part p pn d.isLt a.isLt b.isLt
  | skVsclCode r' t' d a b fmt part p pn =>
    cases issuer
    simpa [skWord] using decWord_vscl (r := r) (t := t) (fmt := fmt) true part p pn d.isLt a.isLt b.isLt
  | skQtReq | skCkMvm | skAccOpen | skAccWait | skAccLdp | skAccDrop | skAccStat | skSySig | skSyWait | skSyWaitr | skSyRd | skRgPush
  | skRgStat | skPosRd | skPosFrm | skPosTagp | skPosTagf =>
    cases issuer
    simp [skWord, decWord_engine, tileNumber_lt, decEngine, onlyIf]
  | _ => cases issuer

/-- Settles O58: the word reads as the instruction, whose operands pass the decoder's checks since it is well formed. -/
theorem skovfaWordsDecodeToTheirInstruction : Obligations.SkovfaWordsDecodeToTheirInstruction := by
  unfold Obligations.SkovfaWordsDecodeToTheirInstruction
  intro r t i issuer formed
  rw [skovfaDecode, decWord_skWord issuer formed]
  exact if_pos formed

end Sys2Proof.Machine
end

section
/-! SUPPORT. The scalar integer arithmetic of Skovfa, of which the model computes on integers, as 64-bit words (R271, Tables 8.5 and 8.6). -/

namespace Sys2Proof.Machine

theorem sh64_eq (y : DWord) : sh64 y = (y % 64).toNat := rfl

theorem bit64_slt (x y : DWord) : bit64 (decide (x.toInt < y.toInt)) = if x.slt y then 1 else 0 := rfl

theorem bit64_ult (x y : DWord) : bit64 (decide (x.toNat < y.toNat)) = if x < y then 1 else 0 := by
  simp only [bit64, decide_eq_true_eq]
  rfl

theorem ite_toInt_lt {α : Type} (x y : DWord) (a b : α) : (if x.toInt < y.toInt then a else b) = if x.slt y then a else b := by
  simp only [BitVec.slt, decide_eq_true_eq]

theorem signExtend_eq_ofInt {v w : Nat} {x : BitVec v} (h : v ≤ w) : x.signExtend w = BitVec.ofInt w x.toInt := by
  rw [← BitVec.toInt_signExtend_of_le h, BitVec.ofInt_toInt]

theorem mulHigh_signed (x y : DWord) : BitVec.ofInt 64 (x.toInt * y.toInt / (2 ^ 64 : Nat)) =
    ((x.signExtend 128 * y.signExtend 128) >>> 64).setWidth 64 := by
  have product : x.signExtend 128 * y.signExtend 128 = BitVec.ofInt 128 (x.toInt * y.toInt) := by
    rw [BitVec.ofInt_mul, signExtend_eq_ofInt (by decide), signExtend_eq_ofInt (by decide)]
  rw [product]
  generalize x.toInt * y.toInt = p
  apply BitVec.eq_of_toNat_eq
  rw [BitVec.toNat_ofInt, BitVec.toNat_setWidth, BitVec.toNat_ushiftRight, BitVec.toNat_ofInt, Nat.shiftRight_eq_div_pow]
  omega

theorem mulHigh_unsigned (x y : DWord) : BitVec.ofNat 64 (x.toNat * y.toNat / 2 ^ 64) =
    ((x.setWidth 128 * y.setWidth 128) >>> 64).setWidth 64 := by
  apply BitVec.eq_of_toNat_eq
  have product : x.toNat * y.toNat < 2 ^ 128 := lt_of_lt_of_le (Nat.mul_lt_mul'' x.isLt y.isLt) (by norm_num)
  have wide : ∀ z : DWord, (z.setWidth 128).toNat = z.toNat := fun z => by
    rw [BitVec.toNat_setWidth, Nat.mod_eq_of_lt (z.isLt.trans (by norm_num))]
  rw [BitVec.toNat_ofNat, BitVec.toNat_setWidth, BitVec.toNat_ushiftRight, BitVec.toNat_mul, wide, wide, Nat.mod_eq_of_lt product,
    Nat.shiftRight_eq_div_pow]

theorem sdiv64_eq (x y : DWord) : sdiv64 x y = if y = 0 then -1 else x.sdiv y := by
  unfold sdiv64
  congr 1
  apply BitVec.eq_of_toInt_eq
  rw [BitVec.toInt_sdiv, BitVec.toInt_ofInt]

theorem srem64_eq (x y : DWord) : srem64 x y = if y = 0 then x else x.srem y := by
  unfold srem64
  rw [← BitVec.toInt_srem, BitVec.ofInt_toInt]

theorem udiv64_eq (x y : DWord) : udiv64 x y = if y = 0 then -1 else x / y := by
  unfold udiv64
  rw [← BitVec.toNat_udiv, BitVec.ofNat_toNat, BitVec.setWidth_eq]

theorem urem64_eq (x y : DWord) : urem64 x y = if y = 0 then x else x % y := by
  unfold urem64
  rw [← BitVec.toNat_umod, BitVec.ofNat_toNat, BitVec.setWidth_eq]

theorem clz64_eq (x : DWord) : BitVec.ofNat 64 (clz64 x) = x.clz := by
  apply BitVec.eq_of_toNat_eq
  have most : x.clz.toNat ≤ 64 := BitVec.clz_le
  have low := @BitVec.toNat_lt_two_pow_sub_clz 64 x
  rw [clz64, BitVec.toNat_ofNat]
  split
  · next zero =>
    subst zero
    decide
  · next hx =>
    have high := BitVec.two_pow_sub_clz_le_toNat_of_ne_zero (by decide) hx
    have some' : x.clz.toNat < 64 := BitVec.clz_lt_iff_ne_zero.mpr hx
    have top : Nat.log2 x.toNat = 63 - x.clz.toNat := (Nat.log2_eq_iff fun zero => hx (BitVec.eq_of_toNat_eq zero)).mpr
      ⟨by convert high using 2, by convert low using 2; omega⟩
    omega

theorem popCount_eq (x : DWord) : popCount 64 x.toNat = (List.range 64).countP fun j => x.getLsbD j := by
  rw [popCount, maskBits, ← List.countP_eq_length_filter]
  congr 1
  funext j
  rw [bitAt, BitVec.getLsbD, Nat.testBit_eq_decide_div_mod_eq, beq_eq_decide]

theorem luiWord_eq (i : BitVec 16) : BitVec.ofInt 64 (i.toInt * 2 ^ 16) = BitVec.signExtend 64 i <<< 16 := by
  rw [signExtend_eq_ofInt (by decide), BitVec.ofInt_mul, BitVec.shiftLeft_eq_mul_twoPow]
  rfl

theorem slti_eq (x : DWord) (i : BitVec 16) : bit64 (decide (x.toInt < i.toInt)) = if x.slt (i.signExtend 64) then 1 else 0 := by
  rw [← bit64_slt, BitVec.toInt_signExtend_of_le (by decide)]

end Sys2Proof.Machine
end

section
/-! PROOFS. The scalar integer instructions (R271, Tables 8.5 and 8.6). -/

namespace Sys2Proof.Machine

/-- Each two-operand instruction computes what Table 8.6 says. -/
theorem scalarTable_computes : ∀ e ∈ scalarTable, ∃ op : DWord → DWord → DWord,
    (∀ r t d a b s, exec (e.1 r t d a b) s = .next (alu2 r t d a b op s)) ∧ ∀ x y, op x y = e.2 x y := by
  simp only [scalarTable, List.forall_mem_cons, List.not_mem_nil, false_imp_iff, implies_true, and_true]
  exact ⟨⟨_, fun _ _ _ _ _ _ => rfl, fun _ _ => rfl⟩, ⟨_, fun _ _ _ _ _ _ => rfl, fun _ _ => rfl⟩,
    ⟨_, fun _ _ _ _ _ _ => rfl, fun _ _ => rfl⟩, ⟨_, fun _ _ _ _ _ _ => rfl, fun _ _ => rfl⟩,
    ⟨_, fun _ _ _ _ _ _ => rfl, fun _ _ => rfl⟩, ⟨_, fun _ _ _ _ _ _ => rfl, fun _ _ => rfl⟩,
    ⟨_, fun _ _ _ _ _ _ => rfl, fun _ _ => rfl⟩, ⟨_, fun _ _ _ _ _ _ => rfl, fun _ _ => rfl⟩,
    ⟨_, fun _ _ _ _ _ _ => rfl, bit64_slt⟩, ⟨_, fun _ _ _ _ _ _ => rfl, bit64_ult⟩,
    ⟨_, fun _ _ _ _ _ _ => rfl, fun x y => ite_toInt_lt x y x y⟩, ⟨_, fun _ _ _ _ _ _ => rfl, fun x y => ite_toInt_lt x y y x⟩,
    ⟨_, fun _ _ _ _ _ _ => rfl, fun _ _ => rfl⟩, ⟨_, fun _ _ _ _ _ _ => rfl, fun _ _ => rfl⟩,
    ⟨_, fun _ _ _ _ _ _ => rfl, fun _ _ => rfl⟩, ⟨_, fun _ _ _ _ _ _ => rfl, mulHigh_signed⟩,
    ⟨_, fun _ _ _ _ _ _ => rfl, mulHigh_unsigned⟩, ⟨_, fun _ _ _ _ _ _ => rfl, sdiv64_eq⟩,
    ⟨_, fun _ _ _ _ _ _ => rfl, udiv64_eq⟩, ⟨_, fun _ _ _ _ _ _ => rfl, srem64_eq⟩,
    ⟨_, fun _ _ _ _ _ _ => rfl, urem64_eq⟩⟩

/-- Each instruction with a 16-bit immediate computes what Table 8.5 says. -/
theorem immediateTable_computes : ∀ e ∈ immediateTable, ∃ op : BitVec 16 → DWord → DWord,
    (∀ r t d a i s, exec (e.1 r t d a i) s = .next (alu1 r t d a (op i) s)) ∧ ∀ x i, op i x = e.2 x i := by
  simp only [immediateTable, List.forall_mem_cons, List.not_mem_nil, false_imp_iff, implies_true, and_true]
  exact ⟨⟨fun i x => _, fun _ _ _ _ _ _ => rfl, fun _ _ => rfl⟩, ⟨fun i x => _, fun _ _ _ _ _ _ => rfl, fun _ _ => rfl⟩,
    ⟨fun i x => _, fun _ _ _ _ _ _ => rfl, fun _ _ => rfl⟩, ⟨fun i x => _, fun _ _ _ _ _ _ => rfl, fun _ _ => rfl⟩,
    ⟨fun i x => _, fun _ _ _ _ _ _ => rfl, slti_eq⟩⟩

/-- Each shift by an immediate computes what Table 8.5 says. -/
theorem shiftTable_computes : ∀ e ∈ shiftTable, ∀ r t d a n s,
    exec (e.1 r t d a n) s = .next (alu1 r t d a (fun x => e.2 x n.val) s) := by
  simp only [shiftTable, List.forall_mem_cons, List.not_mem_nil, false_imp_iff, implies_true, and_true]
  exact ⟨fun _ _ _ _ _ _ => rfl, fun _ _ _ _ _ _ => rfl, fun _ _ _ _ _ _ => rfl⟩

/-- An instruction that writes and reads fewer registers issues where another does. -/
theorem issues_of_subset {r : Rack} {t : Tid} {all : Bool} {dst src dst' src' : List LoadDest} {s : State}
    (may : issues r t all dst src s) (writes : dst' ⊆ dst) (reads : src' ⊆ src) : issues r t all dst' src' s := by
  obtain ⟨ready, fetch, walker, free, turn, sound⟩ := may
  refine ⟨ready, fetch, walker, ?_, turn, ?_⟩
  · simp only [Thread.blocked, Bool.or_eq_false_iff, List.any_eq_false, Bool.and_eq_true, not_and, List.contains_iff_mem,
      List.mem_append] at free ⊢
    exact ⟨free.1, fun l hl hd hm => free.2 l hl hd (hm.imp (fun h => writes h) fun h => reads h)⟩
  · simp only [Thread.spoilt, List.find?_eq_none] at sound ⊢
    exact fun x hx => sound x (reads hx)

section alu
variable {i : Instr} {r : Rack} {t : Tid} {d a : Reg} {s : State}

/-- An instruction that issues and writes s_D moves past itself with the value there. -/
theorem turns_of_putS {all : Bool} {dst src : List LoadDest} {f g : Thread → DWord} (may : issues r t all dst src s)
    (run : exec i s = .next (issue r t all dst src (putS r t d g) s)) (value : g (getThread r.val t.val s) = f (getThread r.val t.val s)) :
    turns i r t (fun k => (k.setS d.val (f k)).step) s :=
  turns_of_issue (g := fun k => (k.setS d.val (g k)).step) may run (by rw [value])

theorem turns_of_alu2 {b : Reg} {op f : DWord → DWord → DWord} (may : issues r t false [.sreg d] [.sreg a, .sreg b] s)
    (run : exec i s = .next (alu2 r t d a b op s)) (value : ∀ x y, op x y = f x y) :
    turns i r t (fun k => (k.setS d.val (f (sreg k a) (sreg k b))).step) s :=
  turns_of_putS may run (value _ _)

theorem turns_of_alu1 {op f : DWord → DWord} (may : issues r t false [.sreg d] [.sreg a] s) (run : exec i s = .next (alu1 r t d a op s))
    (value : ∀ x, op x = f x) : turns i r t (fun k => (k.setS d.val (f (sreg k a))).step) s :=
  turns_of_putS may run (value _)

end alu

/-- Settles O3: each table's instructions compute what it says, and an ALU instruction that issues writes what it computes. -/
theorem scalarInstructionsWriteTheirResult : Obligations.ScalarInstructionsWriteTheirResult := by
  unfold Obligations.ScalarInstructionsWriteTheirResult
  refine ⟨fun e he r t d a b s may => ?_, fun r t d a s may => ⟨fun e he i => ?_, fun e he n => ?_, ?_, ?_, fun i => ?_⟩⟩
  · obtain ⟨op, run, value⟩ := scalarTable_computes e he
    exact turns_of_alu2 may (run r t d a b s) value
  · obtain ⟨op, run, value⟩ := immediateTable_computes e he
    exact turns_of_alu1 (f := fun x => e.2 x i) may (run r t d a i s) fun x => value x i
  · exact turns_of_alu1 (f := fun x => e.2 x n.val) may (shiftTable_computes e he r t d a n s) fun _ => rfl
  · exact turns_of_alu1 (f := BitVec.clz) may rfl clz64_eq
  · exact turns_of_alu1 (f := fun x => BitVec.ofNat 64 ((List.range 64).countP fun j => x.getLsbD j)) may rfl fun x =>
      congrArg _ (popCount_eq x)
  · exact turns_of_putS (f := fun _ => BitVec.signExtend 64 i <<< 16) (issues_of_subset may (List.Subset.refl _) (List.nil_subset _)) rfl
      (luiWord_eq i)

end Sys2Proof.Machine
end

section
/-! PROOFS. Branches and system instructions (R264, R268, R270, R273, Tables 8.2, 8.5, 8.8 and 8.9). -/

namespace Sys2Proof.Machine

/-! ### Branches -/

theorem branchTo_eq {w : Nat} (h : w ≤ 64) (k : Thread) (disp : BitVec w) : branchTo k disp.toInt = k.pc + 4 * disp.signExtend 64 := by
  rw [branchTo, BitVec.ofInt_mul, signExtend_eq_ofInt h]
  rfl

section branches
variable {r : Rack} {t : Tid} {s : State}

theorem skBr_branches {c : Cond} {a : Reg} {disp : BitVec 18} (formed : (Instr.skBr r t c a disp).wf = true)
    (may : issues r t false [] (condReads c a) s) : turns (.skBr r t c a disp) r t
      (fun k => { k with pc := if condHolds c k a then k.pc + 4 * disp.signExtend 64 else k.pc + 4 }) s :=
  turns_of_issueWf formed may rfl (by rw [branchTo_eq (by decide)])

theorem skJ_jumps {disp : BitVec 26} (may : issues r t false [] [] s) :
    turns (.skJ r t disp) r t (fun k => { k with pc := k.pc + 4 * disp.signExtend 64 }) s :=
  turns_of_issue may rfl (by rw [branchTo_eq (by decide)])

theorem skJal_jumps {disp : BitVec 26} (may : issues r t false [.sreg 31] [] s) :
    turns (.skJal r t disp) r t (fun k => { k.setS 31 (k.pc + 4) with pc := k.pc + 4 * disp.signExtend 64 }) s :=
  turns_of_issue may rfl (by rw [branchTo_eq (by decide)])

theorem skJr_jumps {d a : Reg} (may : issues r t false [.sreg d] [.sreg a] s)
    (aligned : (sreg (getThread r.val t.val s) a).toNat % 4 = 0) :
    turns (.skJr r t d a) r t (fun k => { k.setS d.val (k.pc + 4) with pc := sreg k a }) s := by
  have run : exec (.skJr r t d a) s =
      .next (modThread r.val t.val (fun k => { k.setS d.val (k.pc + 4) with pc := sreg (getThread r.val t.val s) a }) (issued r t s)) := by
    show execSkJr r t d a s = _
    rw [execSkJr, issue_of_issues may]
    exact congrArg Host.Outcome.next (if_neg (not_not_intro aligned))
  exact ⟨_, run, threadOnly_modThread .., getThread_modThread ..⟩

theorem skJr_traps {d a : Reg} (may : issues r t false [.sreg d] [.sreg a] s)
    (misaligned : (sreg (getThread r.val t.val s) a).toNat % 4 ≠ 0) :
    traps (.skJr r t d a) r t 2 (sreg (getThread r.val t.val s) a).toNat s :=
  traps_of_issue may rfl (if_pos misaligned)

end branches

/-! ### The end of a thread (R268, R273) -/

section system
variable {r : Rack} {t : Tid} {s : State}

theorem emptyIbufs_onlyIn (s : State) : onlyIn [.racks] s (emptyIbufs s) := by
  constructor
  intro p hp
  cases p with
  | racks => exact absurd (List.mem_singleton.mpr rfl) hp
  | _ => rfl

theorem getRack_emptyIbufs (x : Nat) (s : State) :
    getRack x (emptyIbufs s) = if allFree x s then { getRack x s with ibuf := [] } else getRack x s := by
  simp only [getRack, emptyIbufs, Store.getD, Store.find_mapV]
  cases Store.find x s.racks with
  | none => split <;> rfl
  | some k => rfl

theorem skEnd_frees (may : issues r t true [] [] s) :
    ∃ u, exec (.skEnd r t) s = .next u ∧ onlyIn [.threads, .regs, .racks] s u ∧ otherThreads r.val t.val s u ∧
      otherRegs [regOff .RP_ISSUED r.val 0] s u ∧ getThread r.val t.val u = Thread.init ∧
      ∀ x, getRack x u =
        let k := if x = r.val then issuedRack r.val t.val s else getRack x s
        if allFree x u then { k with ibuf := [] } else k := by
  have run : exec (.skEnd r t) s = .next (emptyIbufs (setThread r.val t.val Thread.init (issued r t s))) := by
    show execSkEnd r t s = _
    rw [execSkEnd, issue_of_issues may]
  refine ⟨_, run, ?_, otherThreads_setThread _ _ _ s, otherRegs_rset _ _ _ _ _, getThread_setThread .., fun x => ?_⟩
  · exact onlyIn_mono ((issued_onlyIn r t s).andThen ((setThread_onlyIn ..).andThen (emptyIbufs_onlyIn _))) (by decide)
  · have rack : getRack x (setThread r.val t.val Thread.init (issued r t s)) =
        if x = r.val then issuedRack r.val t.val s else getRack x s := by
      split
      · next own => exact own ▸ getRack_issued r t s
      · next other => exact congrArg (Option.getD · RackSt.init) (otherRacks_issued r t s x other)
    rw [getRack_emptyIbufs, rack]
    rfl

/-! ### Control and status registers (Table 8.2) -/

theorem skCsrw_flags {a : Reg} (may : issues r t false [] [.sreg a] s) :
    turns (.skCsrw r t a 5) r t (fun k => { k.step with fflags := (sreg k a).setWidth 5 }) s :=
  turns_of_issueWf rfl may rfl rfl

/-- A register whose value does not tell when in its step clock it is read (log entry 15). -/
theorem skCsrr_reads {d : Reg} {n : Fin 32} (may : issues r t false [.sreg d] [] s) (listed : n.val < 8) (steady : n.val ≠ 3)
    {v : Thread → DWord} (value : BitVec.ofNat 64 (csrGet r.val t.val n.val (issued r t s)) = v (getThread r.val t.val s)) :
    turns (.skCsrr r t d n) r t (fun k => (k.setS d.val (v k)).step) s := by
  have formed : (Instr.skCsrr r t d n).wf = true := decide_eq_true listed
  have run : exec (.skCsrr r t d n) s =
      .next (modThread r.val t.val (fun k => (k.setS d.val (v (getThread r.val t.val s))).step) (issued r t s)) := by
    show execSkCsrr r t d n s = _
    rw [execSkCsrr, issueWf_of_issues formed may]
    simp only [if_neg steady, value]
    rfl
  exact ⟨_, run, threadOnly_modThread .., getThread_modThread ..⟩

theorem skCsrr_cycles {d : Reg} (may : issues r t false [.sreg d] [] s) :
    ∃ u n, n < 8 ∧ exec (.skCsrr r t d 3) s = .next u ∧ onlyIn [.free, .threads, .regs, .racks] s u ∧ otherThreads r.val t.val s u ∧
      getThread r.val t.val u = ((getThread r.val t.val s).setS d.val
        (BitVec.ofNat 64 ((s.now - (getRack r.val s).resetAt) * 15 / 2 + n))).step := by
  have run : exec (.skCsrr r t d 3) s = .next (modThread r.val t.val
      (fun k => (k.setS d.val (BitVec.ofNat 64 (rackCycle r.val (issued r t s)))).step) (drawFree (issued r t s))) := by
    show execSkCsrr r t d 3 s = _
    rw [execSkCsrr, issueWf_of_issues rfl may]
    rfl
  have since : (getRack r.val (issued r t s)).resetAt = (getRack r.val s).resetAt := by
    rw [getRack_issued]
    rfl
  have frame := (issued_onlyIn r t s).andThen (drawFree_onlyIn _)
  obtain ⟨others, thread⟩ := modThread_after frame (by decide) r.val t.val
    (fun k => (k.setS d.val (BitVec.ofNat 64 (rackCycle r.val (issued r t s)))).step)
  refine ⟨_, (Config.freeWord s.freeCtr).toNat % 8, Nat.mod_lt _ (by decide), run, ?_, others, ?_⟩
  · exact onlyIn_mono (frame.andThen (modThread_onlyIn ..)) (by decide)
  · rw [thread, rackCycle, since]
    rfl

end system

/-- Settles O4: the jumps, the end of a thread and each listed register. -/
theorem branchesAndSystemInstructions : Obligations.BranchesAndSystemInstructions := by
  unfold Obligations.BranchesAndSystemInstructions
  refine ⟨fun r t s => ⟨fun c a disp => skBr_branches, fun disp => skJ_jumps, fun disp => skJal_jumps, fun d a may =>
    ⟨skJr_jumps may, skJr_traps may⟩⟩, fun r t s => ⟨fun may => turns_of_issue may rfl rfl, skEnd_frees, fun a => skCsrw_flags,
    fun d may => ⟨skCsrr_reads may (by decide) (by decide) rfl, skCsrr_reads may (by decide) (by decide) rfl,
      skCsrr_reads may (by decide) (by decide) rfl, skCsrr_reads may (by decide) (by decide) (BitVec.ofNat_toNat ..),
      skCsrr_reads (v := fun _ => _) may (by decide) (by decide) ?_, fun p pkt =>
        ⟨skCsrr_reads (v := fun _ => _) may (by decide) (by decide) ?_, skCsrr_reads (v := fun _ => _) may (by decide) (by decide) ?_⟩,
      skCsrr_cycles may⟩⟩⟩
  · have own : rget .BV_IDENT 0 0 (issued r t s) = rget .BV_IDENT 0 0 s := rget_issued (by decide) r t s
    show BitVec.ofNat 64 (16 * rfield .BV_IDENT 0 0 15 4 (issued r t s) + rfield .BV_IDENT 0 0 3 0 (issued r t s)) = _
    rw [rfield, rfield, own]
    rfl
  · simp only [csrGet, issued_thread, pkt]
    rfl
  · simp only [csrGet, issued_thread, pkt]

end Sys2Proof.Machine
end

section
/-! PROOFS. Exceptions of Skovfa that need no operand: BRK, reserved words and operand combinations, fetch faults (R264, R268, R269, R297 to
R299). -/

namespace Sys2Proof.Machine

section exceptions
variable {r : Rack} {t : Tid} {s : State}

/-- A precise exception of an instruction that issues halts its thread with the record, the registers as they were (R298). -/
theorem trap_issued {all : Bool} {dst src : List LoadDest} (may : issues r t all dst src s) (cause addr : Nat) (w : Word) :
    onlyIn (.threads :: .regs :: .racks :: eventParts) s (trap r.val t.val cause addr w (issued r t s)) ∧
      otherThreads r.val t.val s (trap r.val t.val cause addr w (issued r t s)) ∧
      getThread r.val t.val (trap r.val t.val cause addr w (issued r t s)) =
        haltedWith (excRecord r.val t.val cause 0 (getThread r.val t.val s).pc.toNat addr w) (getThread r.val t.val s) := by
  have running : (getThread r.val t.val (issued r t s)).st ≠ .halted := by
    rw [issued_thread, may.1]
    decide
  obtain ⟨frame, others, thread⟩ :=
    raiseExc_spec r.val t.val cause 0 (getThread r.val t.val (issued r t s)).pc.toNat addr w (issued r t s) running
  exact ⟨onlyIn_mono ((issued_onlyIn r t s).andThen frame) (by decide), others, thread⟩

theorem illegalInstruction_traps {w : Word} (may : issues r t false [] [] s) (reserved : skovfaDecode r t w = none) :
    ∃ u, exec (.illegalInstruction r t w) s = .next u ∧ onlyIn (.threads :: .racks :: eventParts) s u ∧ otherThreads r.val t.val s u ∧
      getThread r.val t.val u =
        haltedWith (excRecord r.val t.val 1 0 (getThread r.val t.val s).pc.toNat 0 w) (getThread r.val t.val s) := by
  have run : exec (.illegalInstruction r t w) s = .next (trap r.val t.val 1 0 w (issued r t s)) := by
    show execIllegalInstruction r t w s = _
    rw [execIllegalInstruction, reserved]
    exact congrArg Host.Outcome.next (issue_of_issues may _)
  obtain ⟨frame, others, thread⟩ := trap_issued may 1 0 w
  exact ⟨_, run, onlyIn_mono frame (by decide), others, thread⟩

theorem traps_of_reserved {i : Instr} {all : Bool} {dst src : List LoadDest} {f : State → State} (may : issues r t false [] [] s)
    (reserved : i.wf = false) (run : exec i s = .next (issueWf i r t all dst src f s)) : traps i r t 1 0 s := by
  refine traps_of_issue (f := trap r.val t.val 1 0 (skWord i)) may ?_ rfl
  rw [run, issueWf, reserved]
  rfl

/-- A fetch that the PC alone makes fail: ALIGN before ADDRESS (R297). -/
theorem instructionFetchFault_halts {parity : Bool} (ready : (getThread r.val t.val s).st = .ready)
    (fails : (getThread r.val t.val s).pc.toNat % 4 ≠ 0 ∨ usable s < (getThread r.val t.val s).pc.toNat + 4) :
    ∃ u, exec (.instructionFetchFault r t parity) s = .next u ∧ onlyIn (.threads :: eventParts) s u ∧ otherThreads r.val t.val s u ∧
      getThread r.val t.val u = haltedWith
        (excRecord r.val t.val (if (getThread r.val t.val s).pc.toNat % 4 ≠ 0 then 2 else 3) 2 (getThread r.val t.val s).pc.toNat
          (getThread r.val t.val s).pc.toNat 0) (getThread r.val t.val s) := by
  have running : (getThread r.val t.val s).st ≠ .halted := by
    rw [ready]
    decide
  have halts := fun cause => raiseExc_spec r.val t.val cause 2 (getThread r.val t.val s).pc.toNat (getThread r.val t.val s).pc.toNat 0 s running
  refine ⟨_, ?_, halts _⟩
  show execInstructionFetchFault r t parity s = _
  simp only [execInstructionFetchFault, ready, ne_eq, not_true_eq_false, if_false]
  by_cases aligned : (getThread r.val t.val s).pc.toNat % 4 = 0
  · have outside : usable s < (getThread r.val t.val s).pc.toNat + 4 := fails.resolve_left (not_not_intro aligned)
    simp only [aligned, outside, not_true_eq_false, if_false, if_true]
  · simp only [aligned, not_false_eq_true, if_true]

end exceptions

/-- Settles O5: BRK, a reserved word, the three reserved operand combinations, a fetch outside DRAM or misaligned. -/
theorem exceptionsHaltTheThread : Obligations.ExceptionsHaltTheThread := by
  unfold Obligations.ExceptionsHaltTheThread
  refine ⟨fun r t s may => ⟨traps_of_issue may rfl rfl, fun w => illegalInstruction_traps may⟩, fun r t s i may reserved => ?_,
    fun r t parity s => instructionFetchFault_halts⟩
  rcases reserved with ⟨d, n, rfl, unlisted⟩ | ⟨a, n, rfl, other⟩ | ⟨d, a, o, rfl, high⟩
  · exact traps_of_reserved may (decide_eq_false (not_lt.mpr unlisted)) rfl
  · exact traps_of_reserved may (decide_eq_false other) rfl
  · have bad : (Instr.skSst4 r t d a o).wf = false := decide_eq_false (not_le.mpr high)
    refine traps_of_reserved may bad (all := true) (dst := []) (src := []) (f := id) ?_
    show execSkSst4 r t d a o s = _
    rw [execSkSst4, bad]
    rfl

end Sys2Proof.Machine
end

section
/-! SUPPORT. Rounding to the nearest value of a floating-point format (R188, R272): the value that a pattern of a finite magnitude stands
for, as a rational number, and the pattern that a quotient rounds to. -/

namespace Sys2Proof.Machine

/-! ### The value of a pattern -/

/-- The value of a finite magnitude: the pattern without its sign (Table 6.1). -/
def magValue (f : FFmt) (x : Nat) : ℚ :=
  if x / 2 ^ f.mw = 0 then (x % 2 ^ f.mw : Nat) * 2 ^ (1 - (f.bias : Int) - f.mw)
  else ((2 ^ f.mw + x % 2 ^ f.mw : Nat) : ℚ) * 2 ^ ((x / 2 ^ f.mw : Nat) - (f.bias : Int) - f.mw)

theorem scaled_value (neg : Bool) (m : Nat) (e : Int) :
    ∃ n d, scaled neg m e = .fin neg n d ∧ 0 < d ∧ (n : ℚ) / d = m * 2 ^ e := by
  by_cases h : 0 ≤ e
  · obtain ⟨k, rfl⟩ := Int.eq_ofNat_of_zero_le h
    exact ⟨_, _, if_pos h, Nat.one_pos, by simp⟩
  · obtain ⟨k, hk⟩ := Int.eq_ofNat_of_zero_le (show 0 ≤ -e by omega)
    refine ⟨_, _, if_neg h, Nat.two_pow_pos _, ?_⟩
    rw [show e = -(k : Int) by omega]
    simp [div_eq_mul_inv]

theorem fdecode_value {f : FFmt} {x : Nat} (neg : Bool) (fits : f.maxFin < 2 ^ f.signBit) (finite : x ≤ f.maxFin) :
    ∃ n d, fdecode f (withSign f neg x) = .fin neg n d ∧ 0 < d ∧ (n : ℚ) / d = magValue f x := by
  have sign : bitAt f.signBit (withSign f neg x) = neg ∧ withSign f neg x % 2 ^ f.signBit = x := by
    have low : x / 2 ^ f.signBit = 0 := Nat.div_eq_of_lt (by omega)
    have mod : x % 2 ^ f.signBit = x := Nat.mod_eq_of_lt (by omega)
    cases neg <;> simp [withSign, bitAt, Nat.add_div_left, low, mod]
  simp only [fdecode, sign, magValue, if_neg (not_lt.mpr finite)]
  split
  · exact scaled_value ..
  · exact scaled_value ..

/-! ### Rounding to an integer -/

theorem roundEven_bounds (a b : Nat) : a / b ≤ roundEven a b ∧ roundEven a b ≤ a / b + 1 := by
  simp only [roundEven]
  split_ifs <;> omega

/-- No integer is nearer to a quotient than the one that it rounds to. -/
theorem roundEven_nearest (a : Nat) {b : Nat} (hb : 0 < b) (k : Int) : |(roundEven a b : ℚ) - a / b| ≤ |(k : ℚ) - a / b| := by
  have hq : (0 : ℚ) < b := by exact_mod_cast hb
  have parts : b * (a / b) + a % b = a := Nat.div_add_mod a b
  have small : a % b < b := Nat.mod_lt a hb
  have scale : ∀ x : ℚ, |x - a / b| = |x * b - a| / b := fun x => by
    rw [← abs_of_pos hq, ← abs_div, abs_of_pos hq]
    congr 1
    field_simp
  rw [scale, scale]
  refine div_le_div_of_nonneg_right ?_ hq.le
  have whole : (a : Int) = b * (a / b : Nat) + (a % b : Nat) := by exact_mod_cast parts.symm
  have near : |(roundEven a b : Int) * b - a| ≤ (a % b : Nat) ∧ |(roundEven a b : Int) * b - a| ≤ b - (a % b : Nat) := by
    have two : roundEven a b = a / b ∧ 2 * (a % b) ≤ b ∨ roundEven a b = a / b + 1 ∧ b ≤ 2 * (a % b) := by
      simp only [roundEven]
      split_ifs <;> omega
    rcases two with ⟨down, half⟩ | ⟨up, half⟩
    · have gap : (roundEven a b : Int) * b - a = -(a % b : Nat) := by rw [down, whole]; push_cast; ring
      rw [gap, abs_neg, abs_of_nonneg (by positivity)]
      omega
    · have gap : (roundEven a b : Int) * b - a = b - (a % b : Nat) := by rw [up, whole]; push_cast; ring
      rw [gap, abs_of_nonneg (by omega)]
      omega
  have far : (a % b : Nat) ≤ |k * b - (a : Int)| ∨ (b : Int) - (a % b : Nat) ≤ |k * b - (a : Int)| := by
    rcases le_or_gt k (a / b : Nat) with below | above
    · have gap : k * b ≤ (a / b : Nat) * b := by gcongr
      exact .inl (le_trans (by linarith) (neg_abs_le _ |> neg_le.mpr))
    · have gap : ((a / b : Nat) + 1) * b ≤ k * b := by gcongr; omega
      exact .inr (le_trans (by linarith) (le_abs_self _))
  have ints : |(roundEven a b : Int) * b - a| ≤ |k * b - (a : Int)| := far.elim near.1.trans near.2.trans
  exact_mod_cast ints

/-! ### The scale of a quotient -/

theorem roundAt_spec (n : Nat) {d : Nat} (hd : 0 < d) (q : Int) : ∃ a b, (roundAt n d q).1 = roundEven a b ∧ 0 < b ∧
    (a : ℚ) / b = n / d / 2 ^ q := by
  refine ⟨_, _, rfl, ?_, ?_⟩ <;> by_cases h : 0 ≤ q
  · rw [if_pos h]
    positivity
  · rwa [if_neg h]
  · obtain ⟨k, rfl⟩ := Int.eq_ofNat_of_zero_le h
    simp [div_div]
  · obtain ⟨k, hk⟩ := Int.eq_ofNat_of_zero_le (show 0 ≤ -q by omega)
    rw [if_neg h, if_neg h, show q = -(k : Int) by omega]
    simp [div_eq_mul_inv]
    ring

/-- Whether 2^e is at most a quotient, as the model compares them. -/
theorem scale_le {n d : Nat} (hd : 0 < d) (e : Int) :
    (if 0 ≤ e then decide (d * 2 ^ e.toNat ≤ n) else decide (d ≤ n * 2 ^ (-e).toNat)) = true ↔ (2 : ℚ) ^ e ≤ n / d := by
  have hq : (0 : ℚ) < d := by exact_mod_cast hd
  rw [le_div_iff₀ hq]
  by_cases h : 0 ≤ e
  · obtain ⟨k, rfl⟩ := Int.eq_ofNat_of_zero_le h
    rw [if_pos h, decide_eq_true_eq, Int.toNat_natCast, zpow_natCast, mul_comm]
    exact_mod_cast Iff.rfl
  · obtain ⟨k, hk⟩ := Int.eq_ofNat_of_zero_le (show 0 ≤ -e by omega)
    rw [if_neg h, decide_eq_true_eq, hk, Int.toNat_natCast, show e = -(k : Int) by omega, zpow_neg, zpow_natCast,
      inv_mul_le_iff₀ (by positivity), mul_comm]
    exact_mod_cast Iff.rfl

theorem fexp_bounds {n d : Nat} (hn : 0 < n) (hd : 0 < d) : (2 : ℚ) ^ fexp n d ≤ n / d ∧ (n : ℚ) / d < 2 ^ (fexp n d + 1) := by
  have log : ∀ {x : Nat}, 0 < x → (2 : ℚ) ^ (Nat.log2 x : Int) ≤ x ∧ (x : ℚ) < 2 ^ ((Nat.log2 x : Int) + 1) := fun {x} hx => by
    have low : 2 ^ Nat.log2 x ≤ x := Nat.log2_self_le (by omega)
    have high : x < 2 ^ (Nat.log2 x + 1) := Nat.lt_log2_self
    exact ⟨by exact_mod_cast low, by exact_mod_cast high⟩
  obtain ⟨nlow, nhigh⟩ := log hn
  obtain ⟨dlow, dhigh⟩ := log hd
  have hq : (0 : ℚ) < d := by exact_mod_cast hd
  generalize he : (Nat.log2 n : Int) - Nat.log2 d = e
  have above : (n : ℚ) / d < 2 ^ (e + 1) := by
    rw [div_lt_iff₀ hq]
    calc (n : ℚ) < 2 ^ ((Nat.log2 n : Int) + 1) := nhigh
      _ = 2 ^ (e + 1) * 2 ^ (Nat.log2 d : Int) := by rw [← zpow_add₀ two_ne_zero]; congr 1; omega
      _ ≤ 2 ^ (e + 1) * d := by gcongr
  have below : (2 : ℚ) ^ (e - 1) ≤ n / d := by
    rw [le_div_iff₀ hq]
    calc (2 : ℚ) ^ (e - 1) * d ≤ 2 ^ (e - 1) * 2 ^ ((Nat.log2 d : Int) + 1) := by gcongr
      _ = 2 ^ (Nat.log2 n : Int) := by rw [← zpow_add₀ two_ne_zero]; congr 1; omega
      _ ≤ n := nlow
  have compare := scale_le (n := n) hd e
  simp only [fexp, he]
  generalize (if 0 ≤ e then decide (d * 2 ^ e.toNat ≤ n) else decide (d ≤ n * 2 ^ (-e).toNat)) = ge at compare ⊢
  cases ge with
  | true => exact ⟨compare.mp rfl, above⟩
  | false => exact ⟨below, by simpa using compare⟩

/-! ### The pattern that a quotient rounds to -/

/-- The magnitude of r units at the exponent that K stands for: its pattern is K exponents above that of r. -/
theorem magValue_units {f : FFmt} {K r : Nat} (few : r ≤ 2 ^ (f.mw + 1)) (normal : K = 0 ∨ 2 ^ f.mw ≤ r) :
    magValue f (K * 2 ^ f.mw + r) = r * 2 ^ ((K : Int) + 1 - f.bias - f.mw) := by
  have pos : 0 < 2 ^ f.mw := Nat.two_pow_pos _
  rw [pow_succ] at few
  rcases lt_or_ge r (2 ^ f.mw) with sub | norm
  · obtain rfl : K = 0 := normal.resolve_right (by omega)
    simp only [magValue, zero_mul, zero_add, Nat.div_eq_of_lt sub, Nat.mod_eq_of_lt sub, if_true, Nat.cast_zero]
  · obtain ⟨m, rfl⟩ := Nat.exists_eq_add_of_le norm
    rcases lt_or_ge m (2 ^ f.mw) with low | top
    · have exp : (K * 2 ^ f.mw + (2 ^ f.mw + m)) / 2 ^ f.mw = K + 1 := by
        rw [show K * 2 ^ f.mw + (2 ^ f.mw + m) = m + 2 ^ f.mw * (K + 1) by ring, Nat.add_mul_div_left _ _ pos, Nat.div_eq_of_lt low, zero_add]
      have man : (K * 2 ^ f.mw + (2 ^ f.mw + m)) % 2 ^ f.mw = m := by
        rw [show K * 2 ^ f.mw + (2 ^ f.mw + m) = m + 2 ^ f.mw * (K + 1) by ring, Nat.add_mul_mod_self_left, Nat.mod_eq_of_lt low]
      rw [magValue, exp, man, if_neg (by omega)]
      push_cast
      rfl
    · obtain rfl : m = 2 ^ f.mw := by omega
      have exp : (K * 2 ^ f.mw + (2 ^ f.mw + 2 ^ f.mw)) / 2 ^ f.mw = K + 2 := by
        rw [show K * 2 ^ f.mw + (2 ^ f.mw + 2 ^ f.mw) = (K + 2) * 2 ^ f.mw by ring, Nat.mul_div_cancel _ pos]
      have man : (K * 2 ^ f.mw + (2 ^ f.mw + 2 ^ f.mw)) % 2 ^ f.mw = 0 := by
        rw [show K * 2 ^ f.mw + (2 ^ f.mw + 2 ^ f.mw) = (K + 2) * 2 ^ f.mw by ring, Nat.mul_mod_left]
      rw [magValue, exp, man, if_neg (by omega), show ((K + 2 : Nat) : Int) - f.bias - f.mw = ((K : Int) + 1 - f.bias - f.mw) + 1 by
        push_cast; ring, zpow_add_one₀ two_ne_zero]
      push_cast
      ring

/-- A magnitude is a multiple of the unit at an exponent, or at most the least normal value there. -/
theorem magValue_grid (f : FFmt) (x K : Nat) : (∃ k : Int, magValue f x = k * 2 ^ ((K : Int) + 1 - f.bias - f.mw)) ∨
    0 < K ∧ magValue f x ≤ 2 ^ f.mw * 2 ^ ((K : Int) + 1 - f.bias - f.mw) := by
  have man : x % 2 ^ f.mw < 2 ^ f.mw := Nat.mod_lt _ (Nat.two_pow_pos _)
  have man' : ((x % 2 ^ f.mw : Nat) : ℚ) ≤ 2 ^ f.mw := by exact_mod_cast man.le
  rw [magValue]
  generalize x % 2 ^ f.mw = m at man man' ⊢
  generalize x / 2 ^ f.mw = E
  by_cases sub : E = 0
  · rw [if_pos sub]
    rcases Nat.eq_zero_or_pos K with rfl | up
    · exact .inl ⟨m, by simp⟩
    · refine .inr ⟨up, mul_le_mul man' (zpow_le_zpow_right₀ one_le_two (by omega)) (by positivity) (by positivity)⟩
  · rw [if_neg sub]
    rcases le_or_gt E K with low | high
    · refine .inr ⟨by omega, ?_⟩
      calc ((2 ^ f.mw + m : Nat) : ℚ) * 2 ^ ((E : Int) - f.bias - f.mw)
          ≤ (2 ^ f.mw * 2) * 2 ^ ((E : Int) - f.bias - f.mw) := by
            gcongr
            push_cast
            linarith
        _ = 2 ^ f.mw * 2 ^ ((E : Int) + 1 - f.bias - f.mw) := by
            rw [mul_assoc, ← zpow_one_add₀ two_ne_zero]
            congr 2
            ring
        _ ≤ 2 ^ f.mw * 2 ^ ((K : Int) + 1 - f.bias - f.mw) := by
            gcongr
            exact one_le_two
    · obtain ⟨j, rfl⟩ := Nat.exists_eq_add_of_lt high
      refine .inl ⟨(2 ^ f.mw + m) * 2 ^ j, ?_⟩
      rw [show ((K + j + 1 : Nat) : Int) - f.bias - f.mw = j + ((K : Int) + 1 - f.bias - f.mw) by push_cast; ring, zpow_add₀ two_ne_zero]
      push_cast
      rw [zpow_natCast]
      ring

/-- A quotient counted in units of 2^q: at most one more than its whole part, and at least each power of two that it reaches. -/
theorem roundAt_bounds {n d k : Nat} (hd : 0 < d) {q : Int} (high : (n : ℚ) / d < 2 ^ k * 2 ^ q) :
    (roundAt n d q).1 ≤ 2 ^ k ∧ ∀ j : Nat, (2 : ℚ) ^ j * 2 ^ q ≤ n / d → 2 ^ j ≤ (roundAt n d q).1 := by
  obtain ⟨a, b, rounded, hb, quotient⟩ := roundAt_spec n hd q
  obtain ⟨low, up⟩ := roundEven_bounds a b
  have unit : (0 : ℚ) < 2 ^ q := by positivity
  have hq : (0 : ℚ) < b := by exact_mod_cast hb
  rw [rounded]
  refine ⟨?_, fun j reaches => ?_⟩
  · rw [← div_lt_iff₀ unit, ← quotient, div_lt_iff₀ hq] at high
    have whole : a / b < 2 ^ k := (Nat.div_lt_iff_lt_mul hb).mpr (by exact_mod_cast high)
    omega
  · rw [← le_div_iff₀ unit, ← quotient, le_div_iff₀ hq] at reaches
    have whole : 2 ^ j ≤ a / b := (Nat.le_div_iff_mul_le hb).mpr (by exact_mod_cast reaches)
    omega

theorem roundAt_nearest {f : FFmt} {n d K : Nat} (hd : 0 < d)
    (normal : K = 0 ∨ (2 : ℚ) ^ f.mw * 2 ^ ((K : Int) + 1 - f.bias - f.mw) ≤ n / d) (x : Nat) :
    |((roundAt n d ((K : Int) + 1 - f.bias - f.mw)).1 : ℚ) * 2 ^ ((K : Int) + 1 - f.bias - f.mw) - n / d| ≤ |magValue f x - n / d| := by
  obtain ⟨a, b, rounded, hb, quotient⟩ := roundAt_spec n hd ((K : Int) + 1 - f.bias - f.mw)
  have grid := magValue_grid f x K
  generalize (K : Int) + 1 - f.bias - f.mw = q at *
  have unit : (0 : ℚ) < 2 ^ q := by positivity
  have inUnits : ∀ k : ℚ, |k * 2 ^ q - n / d| = |k - a / b| * 2 ^ q := fun k => by
    rw [quotient, ← abs_of_pos unit, ← abs_mul, abs_of_pos unit, sub_mul, div_mul_cancel₀ _ unit.ne']
  have nearest : ∀ k : Int, |((roundAt n d q).1 : ℚ) * 2 ^ q - n / d| ≤ |(k : ℚ) * 2 ^ q - n / d| := fun k => by
    rw [inUnits, inUnits, rounded]
    exact mul_le_mul_of_nonneg_right (roundEven_nearest a hb k) unit.le
  rcases grid with ⟨k, multiple⟩ | ⟨up, below⟩
  · rw [multiple]
    exact nearest k
  · have least : (2 : ℚ) ^ f.mw * 2 ^ q ≤ n / d := normal.resolve_left up.ne'
    calc _ ≤ |((2 ^ f.mw : Int) : ℚ) * 2 ^ q - n / d| := nearest _
      _ = n / d - 2 ^ f.mw * 2 ^ q := by
        push_cast
        rw [abs_of_nonpos (by linarith)]
        ring
      _ ≤ n / d - magValue f x := by linarith
      _ ≤ |magValue f x - n / d| := by
        rw [abs_sub_comm]
        exact le_abs_self _

/-- No finite value of the format is nearer to a quotient than the one that it rounds to, where it does not overflow (R188). -/
theorem fround_nearest (f : FFmt) (neg : Bool) (n : Nat) {d : Nat} (hd : 0 < d)
    (inRange : (fround f neg n d).2 &&& flOF = 0) : ∃ y, (fround f neg n d).1 = withSign f neg y ∧ y ≤ f.maxFin ∧
      ∀ x, |magValue f y - n / d| ≤ |magValue f x - n / d| := by
  by_cases zero : n = 0
  · subst zero
    refine ⟨0, rfl, Nat.zero_le _, fun x => ?_⟩
    simp [magValue]
  · obtain ⟨low, high⟩ := fexp_bounds (Nat.pos_of_ne_zero zero) hd
    simp only [fround, if_neg zero] at inRange ⊢
    generalize he : fexp n d = e at *
    generalize hee : (if e < 1 - (f.bias : Int) then 1 - (f.bias : Int) else e) = ee at *
    obtain ⟨K, hK⟩ := Int.eq_ofNat_of_zero_le (show 0 ≤ ee + f.bias - 1 by split at hee <;> omega)
    have unit : ee - f.mw = (K : Int) + 1 - f.bias - f.mw := by omega
    have scale : ∀ j : Nat, (2 : ℚ) ^ j * 2 ^ ((K : Int) + 1 - f.bias - f.mw) = 2 ^ (ee + j - f.mw) := fun j => by
      rw [← zpow_natCast, ← zpow_add₀ two_ne_zero]
      congr 1
      omega
    have normal : K = 0 ∨ (2 : ℚ) ^ f.mw * 2 ^ ((K : Int) + 1 - f.bias - f.mw) ≤ n / d := by
      rcases Nat.eq_zero_or_pos K with none | up
      · exact .inl none
      · refine .inr ?_
        rw [scale, show ee + f.mw - f.mw = e by split at hee <;> omega]
        exact low
    obtain ⟨few, most⟩ := roundAt_bounds (k := f.mw + 1) (q := (K : Int) + 1 - f.bias - f.mw) hd (by
      rw [scale]
      exact high.trans_le (zpow_le_zpow_right₀ one_le_two (by split at hee <;> push_cast <;> omega)))
    rw [hK, Int.toNat_natCast, unit] at inRange ⊢
    split at inRange
    · exact absurd inRange (show ¬ (flOF + flNX) &&& flOF = 0 by decide)
    · next fits' =>
      rw [if_neg fits']
      refine ⟨_, rfl, not_lt.mp fits', fun x => ?_⟩
      rw [magValue_units few (normal.imp_right (most f.mw))]
      exact roundAt_nearest hd normal x

end Sys2Proof.Machine
end

section
/-! PROOFS. The scalar floating-point instructions (R188, R272, Table 8.7). -/

namespace Sys2Proof.Machine

@[simp] theorem setS_fflags (d : Nat) (v : DWord) (k : Thread) : (k.setS d v).fflags = k.fflags := by
  unfold Thread.setS
  split <;> rfl

/-- Each two-operand FP32 instruction computes what Table 8.7 says. -/
theorem floatTable_computes : ∀ e ∈ floatTable, ∀ r t d a b s, exec (e.1 r t d a b) s = .next (fpu2 r t d a b e.2 s) := by
  simp only [floatTable, List.forall_mem_cons, List.not_mem_nil, false_imp_iff, implies_true, and_true]
  exact ⟨fun _ _ _ _ _ _ => rfl, fun _ _ _ _ _ _ => rfl, fun _ _ _ _ _ _ => rfl, fun _ _ _ _ _ _ => rfl, fun _ _ _ _ _ _ => rfl,
    fun _ _ _ _ _ _ => rfl, fun _ _ _ _ _ _ => rfl, fun _ _ _ _ _ _ => rfl, fun _ _ _ _ _ _ => rfl⟩

/-- An instruction that issues and gives a floating-point result writes it and adds its flags. -/
theorem turns_of_putF {i : Instr} {r : Rack} {t : Tid} {d : Reg} {all : Bool} {dst src : List LoadDest} {g : Thread → Nat × Nat}
    {v : Thread → DWord} {fl : Thread → Nat} {s : State} (may : issues r t all dst src s) (run : exec i s = .next (issue r t all dst src (putF r t d g) s))
    (value : BitVec.ofNat 64 (g (getThread r.val t.val s)).1 = v (getThread r.val t.val s))
    (flags : (g (getThread r.val t.val s)).2 = fl (getThread r.val t.val s)) :
    turns i r t (fun k => { (k.setS d.val (v k)).step with fflags := k.fflags ||| BitVec.ofNat 5 (fl k) }) s := by
  refine turns_of_issue (g := fun k => ((k.setS d.val (BitVec.ofNat 64 (g k).1)).orFlags (g k).2).step) may run ?_
  rw [value, flags, Thread.orFlags, setS_fflags]
  rfl

theorem ofNat_patternOf (w : Nat) (x : Int) : BitVec.ofNat w (patternOf w x) = BitVec.ofInt w x := by
  apply BitVec.eq_of_toNat_eq
  rw [BitVec.toNat_ofNat, BitVec.toNat_ofInt, patternOf]
  have := Int.emod_lt_of_pos x (b := ((2 ^ w : Nat) : Int)) (by positivity)
  have := Int.emod_nonneg x (b := ((2 ^ w : Nat) : Int)) (by positivity)
  exact Nat.mod_eq_of_lt (by omega)

/-- FTOI saturates to the range of 64 bits. -/
theorem exec_skFtoi (r : Rack) (t : Tid) (d a : Reg) (s : State) : exec (.skFtoi r t d a) s =
    .next (issue r t false [.sreg d] [.sreg a] (putF r t d fun k =>
      (patternOf 64 (toIntEven (-2 ^ 63) (2 ^ 63 - 1) (fdecode fp32 (k.f32 a))).1,
        (toIntEven (-2 ^ 63) (2 ^ 63 - 1) (fdecode fp32 (k.f32 a))).2)) s) := by
  have range : ((2 ^ 63 : Nat) : Int) = 2 ^ 63 := by norm_num
  show execSkFtoi r t d a s = _
  simp only [execSkFtoi, fpu1, range]

theorem withSign_positive (f : FFmt) (x : Nat) : withSign f false x = x := rfl

/-- Settles O6: each instruction writes its result and flags; rounding to nearest is `fround_nearest`, read back by the decoder. -/
theorem floatInstructionsRoundToNearest : Obligations.FloatInstructionsRoundToNearest := by
  unfold Obligations.FloatInstructionsRoundToNearest
  refine ⟨fun r t d a b s => ⟨fun may e he => ?_, fun may => ?_, fun may => ⟨?_, ?_, ?_, ?_⟩⟩, fun f hf neg n d hd inRange => ?_⟩
  · exact turns_of_putF may (floatTable_computes e he r t d a b s) rfl rfl
  · exact turns_of_putF may rfl rfl rfl
  · exact turns_of_putF may rfl rfl rfl
  · exact turns_of_putF may rfl rfl rfl
  · exact turns_of_putF may rfl rfl rfl
  · exact turns_of_putF may (exec_skFtoi r t d a s) (ofNat_patternOf 64 _) rfl
  · have fits : ∀ f ∈ [fp32, bf16, e5m2, e4m3, e2m1], f.maxFin < 2 ^ f.signBit := by decide
    obtain ⟨y, rounded, finite, nearest⟩ := fround_nearest f neg n hd inRange
    obtain ⟨m, e, decoded, pos, value⟩ := fdecode_value neg (fits f hf) finite
    refine ⟨m, e, rounded ▸ decoded, pos, fun x hx m' e' other => ?_⟩
    obtain ⟨m₁, e₁, decoded₁, -, value₁⟩ := fdecode_value false (fits f hf) hx
    rw [withSign_positive, other] at decoded₁
    cases decoded₁
    rw [value, value₁]
    exact nearest x

end Sys2Proof.Machine
end

section
/-! PROOFS. Loads of Skovfa: outstanding once they issue, and their data from a scratchpad or a cached sector of DRAM (R234, R266, R274,
R275, R298, R388 to R390). -/

namespace Sys2Proof.Machine

/-! ### Loads that issue (R266, R274, R275) -/

section issue
variable {i : Instr} {r : Rack} {t : Tid} {dest : LoadDest} {a : Reg} {o : BitVec 10} {unit n align : Nat} {signed : Bool} {s : State}

theorem turns_of_load (run : exec i s = .next (loadOp r t dest a o unit n align signed (skWord i) s))
    (may : issues r t false [dest] [.sreg a] s)
    (allowed : accessCause r.val (effAddr (getThread r.val t.val s) a o unit) n align false s = none) :
    turns i r t (fun k => { k.step with loads := k.loads ++ [⟨dest, effAddr k a o unit, n, signed, none, k.pc, skWord i⟩] }) s := by
  rw [loadOp, issue_of_issues may] at run
  simp only [issued_thread, accessCause_issued, allowed] at run
  exact ⟨_, run, threadOnly_modThread .., by simp only [thenStep, getThread_modThread, issued_thread]; rfl⟩

theorem traps_of_load {cause : Nat} (run : exec i s = .next (loadOp r t dest a o unit n align signed (skWord i) s))
    (may : issues r t false [dest] [.sreg a] s)
    (fails : accessFails r.val (effAddr (getThread r.val t.val s) a o unit) n align false cause s) :
    traps i r t cause (effAddr (getThread r.val t.val s) a o unit) s := by
  refine traps_of_issue may run ?_
  simp only [issued_thread, accessCause_issued, accessCause_of_fails fails]

end issue

/-- The loads of a scalar register, as Table 8.10 lists them. -/
theorem loadTable_runs (r : Rack) (t : Tid) (d a : Reg) (o : BitVec 10) (s : State) : ∀ e ∈ loadTable,
    exec (e.1 r t d a o) s = .next (loadOp r t (.sreg d) a o e.2.1 e.2.1 e.2.1 e.2.2 (skWord (e.1 r t d a o)) s) := by
  simp only [loadTable, List.forall_mem_cons, List.not_mem_nil, false_imp_iff, implies_true, and_true]
  exact ⟨rfl, rfl, rfl, rfl, rfl, rfl, rfl⟩

/-! ### What a read of memory brings -/

/-- A scratchpad behind links that are up is read as it stands (R234, R389, R406). -/
theorem devRead_reached {r : Rack} {q off a n : Nat} {s : State} (pos : 0 < n) (inside : off + n ≤ 0x80000)
    (h : (a = 0x2000000000 + off ∧ q = r.val) ∨ (a = 0x1000000000 + 0x80000 * q + off ∧ q < 256 ∧
      trellisUp r.val q s = true ∧ trellisUp q r.val s = true)) (p : Option PktId) :
    devRead r.val a n p s = spFetch q off n p s := by
  have back : trellisUp q r.val s = true := h.elim (fun own => own.2 ▸ trellisUp_self ..) (·.2.2.2)
  obtain ⟨region, up⟩ := regionOf_reached (r := r) (show off < 0x80000 by omega)
    (h.imp_right fun ⟨window, rack, there, _⟩ => ⟨window, rack, there⟩)
  have reach : inReach r.val a n s = true := by simp [inReach, region, inWindows, inside]
  have last : lastRack q off n = q := by unfold lastRack; omega
  simp [devRead, region, reach, last, up, back]

/-- Bytes of one cached sector of DRAM with good parity are read from its copy, whose line is then used (R388, R389). -/
theorem devRead_cached {r a n : Nat} {c : CSector} {s : State} (pos : 0 < n) (low : a < 0x1000000000) (below : a + n ≤ usable s)
    (one : a % 32 + n ≤ 32) (cached : s.mem.csec.find (a / 32) = some c) (good : c.par = parityOf c.data) (p : Option PktId) :
    devRead r a n p s = (.ok ((c.data.drop (a % 32)).take n), { s with mem := touchLine (a / 32 / 4) s.mem }) := by
  have region := regionOf_dram (r := r) low (show a < usable s by omega)
  have reach : inReach r a n s = true := by simp [inReach, region, below]
  have single : (a + n - 1) / 32 + 1 - a / 32 = 1 := by omega
  have sector : readSector (a / 32) p s = (.ok c.data, { s with mem := touchLine (a / 32 / 4) s.mem }) := by
    simp only [readSector, cached, good, if_true]
  simp only [devRead, reach, region, Bool.not_true, Bool.false_eq_true, if_false, readDram, single, readSectors, sector,
    List.append_nil, if_neg pos.ne']

/-! ### The data of a load (R275, R298) -/

/-- The thread's state once its n-th outstanding load is taken off the list. -/
def loadTaken (r : Rack) (t : Tid) (n : Nat) (s : State) : State :=
  modThread r.val t.val (fun k => { k with loads := k.loads.eraseIdx n }) s

section taken
variable {r : Rack} {t : Tid} {q off a m : Nat} {s : State}

theorem trellisUp_loadTaken (r : Rack) (t : Tid) (n x y : Nat) (s : State) : trellisUp x y (loadTaken r t n s) = trellisUp x y s := rfl

theorem badSector_loadTaken (r : Rack) (t : Tid) (n q off m : Nat) (s : State) :
    badSector q off m (loadTaken r t n s) = badSector q off m s := rfl

theorem usable_loadTaken (r : Rack) (t : Tid) (n : Nat) (s : State) : usable (loadTaken r t n s) = usable s := rfl

theorem devRead_taken (pos : 0 < m) (inside : off + m ≤ 0x80000)
    (window : (a = 0x2000000000 + off ∧ q = r.val) ∨ (a = 0x1000000000 + 0x80000 * q + off ∧ q < 256 ∧
      trellisUp r.val q s = true ∧ trellisUp q r.val s = true)) (n : Nat) (p : Option PktId) :
    devRead r.val a m p (loadTaken r t n s) = spFetch q off m p (loadTaken r t n s) :=
  devRead_reached pos inside (by rwa [trellisUp_loadTaken, trellisUp_loadTaken]) p

end taken

theorem writeLoad_st (k : Thread) (l : Load) (x : Nat) : (k.writeLoad l x).st = k.st ∧ (k.writeLoad l x).wait = k.wait := by
  unfold Thread.writeLoad Thread.setS
  split <;> (try split) <;> exact ⟨rfl, rfl⟩

theorem strike_wait (k : Thread) (x : LoadDest) : (k.strike x).wait = k.wait := by
  unfold Thread.strike
  split <;> rfl

section arrives
variable {r : Rack} {t : Tid} {n : Nat} {l : Load} {up : Upset} {s : State}

theorem loadDataReturn_reads (found : (getThread r.val t.val s).loads[n]? = some l) (late : l.result = none) (whole : up ≠ .source) :
    exec (.loadDataReturn r t n up) s =
      .next (match devRead r.val l.addr l.size (getThread r.val t.val s).pkt (loadTaken r t n s) with
        | (.ok bs, x) => deliverLoad r.val t.val l (leNat bs) up x
        | (.badSeal, x) => busLoad r.val t.val l (pktFlag 28 (getThread r.val t.val s).pkt x)
        | (.bus, x) => busLoad r.val t.val l x) := by
  show execLoadDataReturn r t n up s = _
  simp only [execLoadDataReturn, found, late, if_neg whole]
  rfl

/-- Data that arrives at a thread which waits for nothing reaches its register, and no more happens. -/
theorem deliverLoad_running (x : Nat) (running : (getThread r.val t.val s).st = .ready) (free : (getThread r.val t.val s).wait = none) :
    onlyIn [.threads] s (deliverLoad r.val t.val l x up s) ∧ otherThreads r.val t.val s (deliverLoad r.val t.val l x up s) ∧
      getThread r.val t.val (deliverLoad r.val t.val l x up s) =
        if up = .register then ((getThread r.val t.val s).writeLoad l x).strike l.dest else (getThread r.val t.val s).writeLoad l x := by
  have live : ¬ (getThread r.val t.val s).st = .halted := by
    rw [running]
    decide
  rw [deliverLoad, if_neg live]
  refine ⟨onlyIn_trans (modThread_onlyIn ..) (modThread_onlyIn ..), fun k other => ?_, ?_⟩
  · rw [wakeData, modThread, otherThreads_setThread r.val t.val _ _ k other]
    exact otherThreads_setThread r.val t.val _ s k other
  · have idle : (if up = .register then ((getThread r.val t.val s).writeLoad l x).strike l.dest
        else (getThread r.val t.val s).writeLoad l x).wait = none := by
      split
      · exact (strike_wait ..).trans ((writeLoad_st _ l x).2.trans free)
      · exact (writeLoad_st _ l x).2.trans free
    simp only [wakeData, getThread_modThread, idle]

theorem load_arrives {ps : List Part} {bs : List Byte} {x : State} (found : (getThread r.val t.val s).loads[n]? = some l)
    (late : l.result = none) (running : (getThread r.val t.val s).st = .ready) (free : (getThread r.val t.val s).wait = none)
    (read : devRead r.val l.addr l.size (getThread r.val t.val s).pkt (loadTaken r t n s) = (.ok bs, x))
    (frame : onlyIn ps (loadTaken r t n s) x) (kept : Part.threads ∉ ps) (whole : up ≠ .source) :
    let k := { getThread r.val t.val s with loads := (getThread r.val t.val s).loads.eraseIdx n }
    ∃ u, exec (.loadDataReturn r t n up) s = .next u ∧ onlyIn (.threads :: ps) s u ∧ otherThreads r.val t.val s u ∧
      getThread r.val t.val u = if up = .register then (k.writeLoad l (leNat bs)).strike l.dest else k.writeLoad l (leNat bs) := by
  intro k
  have same : x.threads = (loadTaken r t n s).threads := frame.same .threads kept
  have thread : getThread r.val t.val x = k := (getThread_congr same ..).trans (getThread_modThread ..)
  obtain ⟨only, others, gets⟩ := deliverLoad_running (r := r) (t := t) (l := l) (up := up) (s := x) (leNat bs)
    (by rw [thread]; exact running) (by rw [thread]; exact free)
  refine ⟨_, by rw [loadDataReturn_reads found late whole, read], ?_, fun j other => ?_, by rw [gets, thread]⟩
  · exact onlyIn_mono ((modThread_onlyIn ..).andThen (frame.andThen only)) (by simp [or_comm])
  · rw [others j other, same]
    exact otherThreads_setThread r.val t.val _ s j other

theorem load_fails {x : State} (found : (getThread r.val t.val s).loads[n]? = some l)
    (late : l.result = none) (running : (getThread r.val t.val s).st = .ready)
    (read : devRead r.val l.addr l.size (getThread r.val t.val s).pkt (loadTaken r t n s) = (.bus, x))
    (frame : onlyIn eventParts (loadTaken r t n s) x) :
    ∃ u, exec (.loadDataReturn r t n .none) s = .next u ∧ onlyIn (.threads :: eventParts) s u ∧ otherThreads r.val t.val s u ∧
      getThread r.val t.val u = haltedWith (excRecord r.val t.val 7 1 l.pc.toNat l.addr l.insn)
        { getThread r.val t.val s with loads := (getThread r.val t.val s).loads.eraseIdx n } := by
  have same : x.threads = (loadTaken r t n s).threads := frame.same .threads (by decide)
  have thread := (getThread_congr same r.val t.val).trans (getThread_modThread ..)
  have live : (getThread r.val t.val x).st ≠ .halted := by
    rw [thread, running]
    decide
  obtain ⟨only, others, gets⟩ := raiseExc_spec r.val t.val 7 1 l.pc.toNat l.addr l.insn x live
  refine ⟨_, by rw [loadDataReturn_reads found late (by decide), read], ?_, fun j other => ?_, ?_⟩
  · exact onlyIn_mono ((modThread_onlyIn ..).andThen (frame.andThen only)) (by decide)
  · exact ((others j other).trans (congrArg (Store.find j) same)).trans (otherThreads_setThread r.val t.val _ s j other)
  · exact gets.trans (congrArg _ thread)

end arrives

/-- A parity error found in a memory that is not DRAM loses no shadow: only its event and the counts remain (R390). -/
theorem parityError_events {m : Nat} (h : ¬ m < 2) (unit addr : Nat) (p : Option PktId) (s : State) :
    onlyIn eventParts s (parityError m unit addr p s) := by
  simp only [parityError, if_neg h]
  have counted := (bump_onlyIn .MC_PARITY_ERRS 0 0 1 s).andThen (rset64_onlyIn .MC_ERR_ADDR 0 0 addr _)
  exact onlyIn_mono ((counted.andThen (rset_onlyIn ..)).andThen (raiseEvent_onlyIn ..)) (by decide)

/-- Settles O7. -/
theorem loadsBringTheirData : Obligations.LoadsBringTheirData := by
  unfold Obligations.LoadsBringTheirData
  refine ⟨fun r t a o s => ⟨fun e he d => turns_of_load (loadTable_runs r t d a o s e he), fun d sz => turns_of_load rfl,
      fun d => turns_of_load rfl, fun cause => ⟨fun e he d => traps_of_load (loadTable_runs r t d a o s e he),
        fun d sz => traps_of_load rfl, fun d => traps_of_load rfl⟩⟩,
    fun r t n l s found late pos running free => ⟨fun q off window inside => ⟨fun good up whole => ?_, fun x bad => ?_⟩,
      fun c low below one cached good up whole => ?_⟩⟩
  · have fetched := spFetch_good (s := loadTaken r t n s) ((badSector_loadTaken ..).trans good) (getThread r.val t.val s).pkt
    exact load_arrives found late running free ((devRead_taken pos inside window ..).trans fetched) (onlyIn_refl [] _) (by decide) whole
  · have fetched : spFetch q off l.size (getThread r.val t.val s).pkt (loadTaken r t n s) = (.bus, parityError 2
        ((0x4000 * q + x) / 0x4000) (32 * ((0x4000 * q + x) % 0x4000)) (getThread r.val t.val s).pkt (loadTaken r t n s)) := by
      rw [spFetch, badSector_loadTaken, bad]
    exact load_fails found late running ((devRead_taken pos inside window ..).trans fetched) (parityError_events (by decide) ..)
  · have read := devRead_cached (r := r.val) (s := loadTaken r t n s) pos low ((usable_loadTaken ..).symm ▸ below) one cached good
      (getThread r.val t.val s).pkt
    exact load_arrives found late running free read (mem_onlyIn ..) (by decide) whole

end Sys2Proof.Machine
end

section
/-! SUPPORT. Vector registers as lanes (R277, R278): what a packed lane reads, what a merge leaves, patterns modulo 2^w, and a vector
register written. -/

namespace Sys2Proof.Machine

/-! ### Packed lanes -/

theorem packLanes_lt (w : Nat) (f : Nat → Nat) (n : Nat) : packLanes w f n < 2 ^ (w * n) := by
  induction n with
  | zero => simp [packLanes]
  | succ n ih =>
    have top : f n % 2 ^ w + 1 ≤ 2 ^ w := Nat.mod_lt _ (Nat.two_pow_pos w)
    calc packLanes w f n + f n % 2 ^ w * 2 ^ (w * n) < (f n % 2 ^ w + 1) * 2 ^ (w * n) := by rw [Nat.add_mul]; omega
      _ ≤ 2 ^ w * 2 ^ (w * n) := Nat.mul_le_mul_right _ top
      _ = 2 ^ (w * (n + 1)) := by rw [← pow_add, Nat.mul_succ, Nat.add_comm]

theorem packLanes_lane (w : Nat) (f : Nat → Nat) {n j : Nat} (h : j < n) : packLanes w f n / 2 ^ (w * j) % 2 ^ w = f j % 2 ^ w := by
  induction n with
  | zero => omega
  | succ n ih =>
    rw [packLanes]
    rcases Nat.lt_succ_iff_lt_or_eq.mp h with below | rfl
    · obtain ⟨m, rfl⟩ := Nat.exists_eq_add_of_lt below
      have above : f (j + m + 1) % 2 ^ w * 2 ^ (w * (j + m + 1)) = 2 ^ (w * j) * (2 ^ w * (f (j + m + 1) % 2 ^ w * 2 ^ (w * m))) := by ring
      rw [above, Nat.add_mul_div_left _ _ (Nat.two_pow_pos _), Nat.add_mul_mod_self_left, ih below]
    · rw [Nat.add_mul_div_right _ _ (Nat.two_pow_pos _), Nat.div_eq_of_lt (packLanes_lt w f j), Nat.zero_add, Nat.mod_mod]

theorem lane_lt (w j : Nat) (x : BitVec 1024) : lane w j x < 2 ^ w := Nat.mod_lt _ (Nat.two_pow_pos w)

theorem lane_vecOf {w j : Nat} (f : Nat → Nat) (h : j < 1024 / w) : lane w j (vecOf w f) = f j % 2 ^ w := by
  have fits : packLanes w f (1024 / w) < 2 ^ 1024 :=
    (packLanes_lt w f _).trans_le (Nat.pow_le_pow_right Nat.two_pos (Nat.mul_div_le 1024 w))
  rw [lane, vecOf, BitVec.toNat_ofNat, Nat.mod_eq_of_lt fits, packLanes_lane w f h]

theorem lane_mergeLanes {w j : Nat} (act : Nat → Bool) (f : Nat → Nat) (old : BitVec 1024) (h : j < 1024 / w) :
    lane w j (mergeLanes w act f old) = if act j then f j % 2 ^ w else lane w j old := by
  rw [mergeLanes, lane_vecOf _ h]
  split
  · rfl
  · exact Nat.mod_eq_of_lt (lane_lt w j old)

/-! ### Patterns modulo 2^w -/

theorem patternOf_natCast (w n : Nat) : patternOf w n = n % 2 ^ w := by
  rw [patternOf, ← Int.natCast_mod, Int.toNat_natCast]

theorem patternOf_congr {w : Nat} {x y : Int} (h : x ≡ y [ZMOD (2 ^ w : Nat)]) : patternOf w x = patternOf w y :=
  congrArg Int.toNat h

theorem patternOf_lt (w : Nat) (x : Int) : patternOf w x < 2 ^ w := by
  have range := Int.emod_lt_of_pos x (Int.natCast_pos.mpr (Nat.two_pow_pos w))
  unfold patternOf
  omega

theorem patternOf_mod (w : Nat) (x : Int) : patternOf w x % 2 ^ w = patternOf w x := Nat.mod_eq_of_lt (patternOf_lt w x)

theorem signedOf_modEq (w x : Nat) : signedOf w x ≡ x [ZMOD (2 ^ w : Nat)] := by
  rw [signedOf]
  split
  · exact (Int.natCast_mod x (2 ^ w)).symm ▸ Int.mod_modEq ..
  · exact (Int.sub_emod_right ..).trans ((Int.natCast_mod x (2 ^ w)).symm ▸ Int.mod_modEq ..)

/-! ### A vector register written -/

section registers
variable {k : Thread} {d : Reg}

theorem Thread.wf_v (canonical : k.wf = true) : Store.wf 0 k.v = true := by
  simp only [Thread.wf, Bool.and_eq_true] at canonical
  exact canonical.1.1.2

theorem getV_setV (canonical : k.wf = true) (d : Reg) (x : BitVec 1024) : (k.setV d x).getV d = x :=
  Store.getD_setD_same _ _ _ _ (Thread.wf_v canonical)

theorem getV_setV_ne (canonical : k.wf = true) {c d : Reg} (other : c ≠ d) (x : BitVec 1024) : (k.setV d x).getV c = k.getV c :=
  Store.getD_setD_ne _ _ _ (Thread.wf_v canonical) fun same => other (Fin.ext same)

theorem setV_wf (canonical : k.wf = true) (d : Reg) (x : BitVec 1024) : (k.setV d x).wf = true := by
  simp only [Thread.wf, Bool.and_eq_true] at canonical ⊢
  obtain ⟨⟨⟨scalars, vectors⟩, predicates⟩, tiles⟩ := canonical
  exact ⟨⟨⟨scalars, Store.setD_wf _ _ _ _ vectors⟩, predicates⟩, tiles⟩

theorem setV_pc (k : Thread) (d : Reg) (x : BitVec 1024) : (k.setV d x).pc = k.pc := rfl

theorem orFlags_pc (k : Thread) (fl : Nat) : (k.orFlags fl).pc = k.pc := rfl

theorem getV_orFlags (k : Thread) (fl : Nat) (d : Reg) : (k.orFlags fl).getV d = k.getV d := rfl

theorem getV_step (k : Thread) (d : Reg) : k.step.getV d = k.getV d := rfl

/-- What an instruction leaves that writes v_D, sets the flags and goes on. -/
theorem onlyVector_written (canonical : k.wf = true) (d : Reg) (x : BitVec 1024) (fl : BitVec 5) :
    onlyVector d k { (k.setV d x).step with fflags := fl } :=
  ⟨rfl, fun _ other => getV_setV_ne canonical other x⟩

/-- The lanes of v_D after a write under the predicate (R278). -/
theorem lanesAre_merged (canonical : k.wf = true) (ty : VType) (d : Reg) (act : Nat → Bool) {f g : Nat → Nat}
    (same : ∀ j, f j % 2 ^ ty.width = g j % 2 ^ ty.width) (fl : BitVec 5) :
    lanesAre ty d act g k { (k.setV d (mergeLanes ty.width act f (k.getV d))).step with fflags := fl } := by
  intro j below
  rw [← same, ← lane_mergeLanes act f (k.getV d) below]
  exact congrArg (lane ty.width j) (getV_setV canonical d _)

end registers

end Sys2Proof.Machine
end

section
/-! PROOFS. Lane-wise vector instructions of Skovfa (Tables 8.12, 8.13; R272, R277 to R280). -/

namespace Sys2Proof.Machine

section lanewise
variable {i : Instr} {r : Rack} {t : Tid} {ty : VType} {d a b : Reg} {p : Fin 8} {pn : Bool} {s : State}

/-- An instruction that issues and merges lanes into v_D under a choice of lanes. -/
theorem merge_of_issue {all : Bool} {dst src : List LoadDest} {act : Thread → Nat → Bool} {f : Thread → Nat → Nat} {g : Nat → Nat}
    (may : issues r t all dst src s)
    (run : exec i s = .next (issue r t all dst src
      (thenStep r t fun k => k.setV d (mergeLanes ty.width (act k) (f k) (k.getV d))) s))
    (canonical : (getThread r.val t.val s).wf = true)
    (same : ∀ j, f (getThread r.val t.val s) j % 2 ^ ty.width = g j % 2 ^ ty.width) :
    ∃ u, exec i s = .next u ∧ threadOnly r t s u ∧ onlyVector d (getThread r.val t.val s) (getThread r.val t.val u) ∧
      lanesAre ty d (act (getThread r.val t.val s)) g (getThread r.val t.val s) (getThread r.val t.val u) :=
  exists_of_issue (P := fun u => onlyVector d (getThread r.val t.val s) u ∧ lanesAre ty d _ _ (getThread r.val t.val s) u) may run
    ⟨onlyVector_written canonical d _ (getThread r.val t.val s).fflags,
      lanesAre_merged canonical ty d _ same (getThread r.val t.val s).fflags⟩

/-! ### Integer lanes (Table 8.12) -/

theorem vint2_lanes {op : Nat → Nat → Nat → Nat} {g : Nat → Nat → Nat} (formed : i.wf = true)
    (run : exec i s = .next (vint2 i r t ty d a b p pn op s)) (canonical : (getThread r.val t.val s).wf = true)
    (may : issues r t false [] [.vreg d, .vreg a, .vreg b] s)
    (same : ∀ x y, y < 2 ^ ty.width → op ty.width x y % 2 ^ ty.width = g x y % 2 ^ ty.width) :
    ∃ u, exec i s = .next u ∧ threadOnly r t s u ∧ onlyVector d (getThread r.val t.val s) (getThread r.val t.val u) ∧
      (getThread r.val t.val u).fflags = (getThread r.val t.val s).fflags ∧
      lanesAre ty d ((getThread r.val t.val s).active p pn) (fun j =>
        g (lane ty.width j ((getThread r.val t.val s).getV a)) (lane ty.width j ((getThread r.val t.val s).getV b)))
        (getThread r.val t.val s) (getThread r.val t.val u) :=
  exists_of_issueWf (P := fun u => onlyVector d (getThread r.val t.val s) u ∧ u.fflags = (getThread r.val t.val s).fflags ∧
      lanesAre ty d _ _ (getThread r.val t.val s) u) formed may run
    ⟨onlyVector_written canonical d _ (getThread r.val t.val s).fflags, rfl,
      lanesAre_merged canonical ty d _ (fun _ => same _ _ (lane_lt ..)) (getThread r.val t.val s).fflags⟩

/-- An integer operation of the model agrees with Table 8.12 where both are taken modulo 2^w. -/
def agrees (op : Nat → Nat → Nat → Nat) (g : Nat → Nat → Nat → Int) : Prop :=
  ∀ w x y : Nat, y < 2 ^ w → op w x y % 2 ^ w = patternOf w (g w x y) % 2 ^ w

theorem agrees_of_natCast {op : Nat → Nat → Nat → Nat} {g : Nat → Nat → Nat → Int}
    (h : ∀ w x y : Nat, y < 2 ^ w → (op w x y : Int) ≡ g w x y [ZMOD (2 ^ w : Nat)]) : agrees op g := by
  intro w x y hy
  rw [patternOf_mod, ← patternOf_congr (h w x y hy), patternOf_natCast]

theorem agrees_of_signed {op : Nat → Int → Int → Int} {g : Nat → Nat → Nat → Int}
    (h : ∀ w x y, op w (signedOf w x) (signedOf w y) = g w x y) : agrees (onSigned op) g :=
  fun w x y _ => by rw [onSigned, h]

theorem clampInt_eq {lo hi : Int} (h : lo ≤ hi) (x : Int) : clampInt lo hi x = max lo (min hi x) := by
  unfold clampInt
  split_ifs <;> omega

/-- What the lane-wise integer instructions of Table 8.12 are in the model, each with the reason that its operation agrees. -/
theorem vectorTable_runs (r : Rack) (t : Tid) (ty : VType) (d a b : Reg) (p : Fin 8) (pn : Bool) (int : ty.isFloat = false) :
    ∀ e ∈ vectorTable, (e.1 r t ty d a b p pn).wf = true ∧ ∃ op, agrees op e.2 ∧
      ∀ s, exec (e.1 r t ty d a b p pn) s = .next (vint2 (e.1 r t ty d a b p pn) r t ty d a b p pn op s) := by
  have formed : (!ty.isFloat) = true := by simp [int]
  have add : agrees (fun _ x y => x + y) fun w x y => signedOf w x + signedOf w y := agrees_of_natCast fun w x y _ =>
    ((signedOf_modEq w x).add (signedOf_modEq w y)).symm
  have sub : agrees (fun w x y => x + 2 ^ w - y) fun w x y => signedOf w x - signedOf w y := agrees_of_natCast fun w x y hy => by
    rw [show ((x + 2 ^ w - y : Nat) : Int) = x - y + (2 ^ w : Nat) by omega]
    exact (Int.add_emod_right ..).trans ((signedOf_modEq w x).sub (signedOf_modEq w y)).symm
  have mul : agrees (fun _ x y => x * y) fun w x y => signedOf w x * signedOf w y := agrees_of_natCast fun w x y _ =>
    ((signedOf_modEq w x).mul (signedOf_modEq w y)).symm
  have least : agrees (onSigned fun _ x y => if x < y then x else y) fun w x y => min (signedOf w x) (signedOf w y) :=
    agrees_of_signed fun w x y => by split_ifs <;> omega
  have most : agrees (onSigned fun _ x y => if x < y then y else x) fun w x y => max (signedOf w x) (signedOf w y) :=
    agrees_of_signed fun w x y => by split_ifs <;> omega
  have shl : agrees (fun w x y => x * 2 ^ (y % w)) fun w x y => (x : Int) * 2 ^ (y % w) :=
    agrees_of_natCast fun w x y _ => by push_cast; rfl
  have shr : agrees (fun w x y => x / 2 ^ (y % w)) fun w x y => (x : Int) / 2 ^ (y % w) :=
    agrees_of_natCast fun w x y _ => by push_cast; rfl
  have sra : agrees (fun w x y => patternOf w (signedOf w x / (2 ^ (y % w) : Nat))) fun w x y => signedOf w x / 2 ^ (y % w) :=
    fun w x y _ => by push_cast; rfl
  have adds : agrees (onSigned fun w x y => clampInt (-(2 ^ (w - 1) : Nat)) ((2 ^ (w - 1) : Nat) - 1) (x + y)) fun w x y =>
      max (-2 ^ (w - 1)) (min (2 ^ (w - 1) - 1) (signedOf w x + signedOf w y)) := agrees_of_signed fun w x y => by
    have half := Nat.two_pow_pos (w - 1)
    rw [clampInt_eq (by omega)]
    push_cast
    rfl
  simp only [vectorTable, List.forall_mem_cons, List.not_mem_nil, false_imp_iff, implies_true, and_true]
  exact ⟨⟨formed, _, add, fun _ => rfl⟩, ⟨formed, _, sub, fun _ => rfl⟩, ⟨formed, _, mul, fun _ => rfl⟩, ⟨formed, _, least, fun _ => rfl⟩,
    ⟨formed, _, most, fun _ => rfl⟩, ⟨formed, _, agrees_of_natCast fun _ _ _ _ => rfl, fun _ => rfl⟩,
    ⟨formed, _, agrees_of_natCast fun _ _ _ _ => rfl, fun _ => rfl⟩, ⟨formed, _, agrees_of_natCast fun _ _ _ _ => rfl, fun _ => rfl⟩,
    ⟨formed, _, shl, fun _ => rfl⟩, ⟨formed, _, shr, fun _ => rfl⟩, ⟨formed, _, sra, fun _ => rfl⟩, ⟨formed, _, adds, fun _ => rfl⟩⟩

/-! ### Floating-point lanes (Table 8.13) -/

theorem vfpOp_lanes {regs : List LoadDest} {op : Thread → Nat → Nat × Nat} {f : Nat → Nat × Nat} (formed : i.wf = true)
    (run : exec i s = .next (vfpOp i r t ty d regs p pn op s)) (canonical : (getThread r.val t.val s).wf = true)
    (may : issues r t false [] (.vreg d :: regs) s) (lanes : op (getThread r.val t.val s) = f) :
    ∃ u, exec i s = .next u ∧ threadOnly r t s u ∧ onlyVector d (getThread r.val t.val s) (getThread r.val t.val u) ∧
      (getThread r.val t.val u).fflags = (getThread r.val t.val s).fflags |||
        BitVec.ofNat 5 (laneFlags ty.lanes ((getThread r.val t.val s).active p pn) fun j => (f j).2) ∧
      lanesAre ty d ((getThread r.val t.val s).active p pn) (fun j => (f j).1) (getThread r.val t.val s) (getThread r.val t.val u) := by
  subst lanes
  exact exists_of_issueWf (P := fun u => onlyVector d (getThread r.val t.val s) u ∧ u.fflags = _ ∧
      lanesAre ty d _ _ (getThread r.val t.val s) u) formed may run
    ⟨onlyVector_written canonical d _ _, rfl, lanesAre_merged canonical ty d _ (fun _ => rfl) _⟩

theorem vectorFloatTable_runs (r : Rack) (t : Tid) (d a b : Reg) (p : Fin 8) (pn : Bool) (float : ty.isFloat = true) (s : State) :
    ∀ e ∈ vectorFloatTable, (e.1 r t ty d a b p pn).wf = true ∧
      exec (e.1 r t ty d a b p pn) s = .next (vfp2 (e.1 r t ty d a b p pn) r t ty d a b p pn e.2 s) := by
  simp only [vectorFloatTable, List.forall_mem_cons, List.not_mem_nil, false_imp_iff, implies_true, and_true]
  exact ⟨⟨float, rfl⟩, ⟨float, rfl⟩, ⟨float, rfl⟩, ⟨float, rfl⟩, ⟨float, rfl⟩⟩

theorem vectorUnaryTable_runs (r : Rack) (t : Tid) (d a : Reg) (p : Fin 8) (pn : Bool) (float : ty.isFloat = true) (s : State) :
    ∀ e ∈ vectorUnaryTable, (e.1 r t ty d a p pn).wf = true ∧
      exec (e.1 r t ty d a p pn) s = .next (vfp1 (e.1 r t ty d a p pn) r t ty d a p pn e.2 s) := by
  simp only [vectorUnaryTable, List.forall_mem_cons, List.not_mem_nil, false_imp_iff, implies_true, and_true]
  exact ⟨⟨float, rfl⟩, ⟨float, rfl⟩, ⟨float, rfl⟩, ⟨float, rfl⟩, ⟨float, rfl⟩⟩

end lanewise

/-- Settles O9: every entry of the tables is a merge of lanes, its integer results congruent modulo 2^w. -/
theorem vectorLanes : Obligations.VectorLanes := by
  unfold Obligations.VectorLanes
  refine ⟨fun r t ty d a b p pn s int canonical => ⟨fun may e he => ?_, fun may => ?_⟩,
    fun r t ty d a b p pn s float canonical => ⟨fun may e he => ?_, fun may e he => ?_⟩⟩
  · obtain ⟨formed, op, agree, run⟩ := vectorTable_runs r t ty d a b p pn int e he
    exact vint2_lanes (g := fun x y => patternOf ty.width (e.2 ty.width x y)) formed (run s) canonical may fun x y => agree ty.width x y
  · have formed : (Instr.skVabs r t ty d a p pn).wf = true := by simp [Instr.wf, int]
    refine vint2_lanes (op := onSigned fun _ x _ => x.natAbs) (g := fun x _ => (signedOf ty.width x).natAbs) formed rfl canonical
      (issues_of_subset may (List.Subset.refl _) (by simp)) fun x y _ => ?_
    rw [onSigned, patternOf_natCast, Nat.mod_mod]
  · obtain ⟨formed, run⟩ := vectorFloatTable_runs r t d a b p pn float s e he
    exact vfpOp_lanes formed run canonical may rfl
  · obtain ⟨formed, run⟩ := vectorUnaryTable_runs r t d a p pn float s e he
    exact vfpOp_lanes formed run canonical may rfl

end Sys2Proof.Machine
end

section
/-! PROOFS. Vector instructions of Skovfa that accumulate into v_D (Tables 8.12, 8.13; R279). -/

namespace Sys2Proof.Machine

section accumulate
variable {r : Rack} {t : Tid} {d a b : Reg} {p : Fin 8} {pn : Bool} {s : State}

theorem skVdot4_accumulates (canonical : (getThread r.val t.val s).wf = true) (may : issues r t false [] [.vreg d, .vreg a, .vreg b] s) :
    ∃ u, exec (.skVdot4 r t d a b p pn) s = .next u ∧ threadOnly r t s u ∧
      onlyVector d (getThread r.val t.val s) (getThread r.val t.val u) ∧
      lanesAre .int32 d ((getThread r.val t.val s).active p pn) (fun j =>
        let x := fun i => laneS 8 (4 * j + i) ((getThread r.val t.val s).getV a) * laneS 8 (4 * j + i) ((getThread r.val t.val s).getV b)
        patternOf 32 (laneS 32 j ((getThread r.val t.val s).getV d) + x 0 + x 1 + x 2 + x 3))
        (getThread r.val t.val s) (getThread r.val t.val u) := by
  refine merge_of_issue (i := .skVdot4 r t d a b p pn) (ty := .int32) (act := fun k => k.active p pn) (f := fun k j => patternOf 32 (laneS 32 j (k.getV d) +
    sumRange 4 fun i => laneS 8 (4 * j + i) (k.getV a) * laneS 8 (4 * j + i) (k.getV b))) may rfl canonical fun j => ?_
  have four : ∀ f : Nat → Int, sumRange 4 f = f 0 + f 1 + f 2 + f 3 := fun f => by simp [sumRange, List.range_succ]
  simp only [four, add_assoc]

/-- An even register and the next are two. -/
theorem pairHigh_ne (even : d.val % 2 = 0) : pairHigh d ≠ d := fun same => by
  have number : (d.val + 1) % 32 = d.val := congrArg Fin.val same
  omega

/-- What VFMAW makes of a thread: the FP32 lanes of its pair that the predicate selects, and their flags. -/
def fmawTurn (d a b : Reg) (p : Fin 8) (pn : Bool) (k : Thread) : Thread :=
  let act := k.active p pn
  let go := fun j acc => fmaw acc (lane 16 j (k.getV a)) (lane 16 j (k.getV b))
  let lo := fun j => go j (lane 32 j (k.getV d))
  let hi := fun j => go (32 + j) (lane 32 j (k.getV (pairHigh d)))
  let low := k.setV d (mergeLanes 32 act (fun j => (lo j).1) (k.getV d))
  let both := low.setV (pairHigh d) (mergeLanes 32 (fun j => act (32 + j)) (fun j => (hi j).1) (k.getV (pairHigh d)))
  both.orFlags (laneFlags 32 act (fun j => (lo j).2) ||| laneFlags 32 (fun j => act (32 + j)) fun j => (hi j).2)

theorem exec_skVfmaw (r : Rack) (t : Tid) (d a b : Reg) (p : Fin 8) (pn : Bool) (s : State) : exec (.skVfmaw r t d a b p pn) s =
    .next (issueWf (.skVfmaw r t d a b p pn) r t false [] [.vreg d, .vreg (pairHigh d), .vreg a, .vreg b]
      (modThread r.val t.val fun k => (fmawTurn d a b p pn k).step) s) := rfl

section turn
variable {k : Thread}

theorem fmawTurn_pc : (fmawTurn d a b p pn k).pc = k.pc := by
  rw [fmawTurn, orFlags_pc, setV_pc, setV_pc]

theorem fmawTurn_low (even : d.val % 2 = 0) (canonical : k.wf = true) : (fmawTurn d a b p pn k).getV d =
    mergeLanes 32 (k.active p pn) (fun j => (fmaw (lane 32 j (k.getV d)) (lane 16 j (k.getV a)) (lane 16 j (k.getV b))).1) (k.getV d) := by
  rw [fmawTurn, getV_orFlags, getV_setV_ne (setV_wf canonical d _) (pairHigh_ne even).symm, getV_setV canonical]

theorem fmawTurn_high (canonical : k.wf = true) : (fmawTurn d a b p pn k).getV (pairHigh d) =
    mergeLanes 32 (fun j => k.active p pn (32 + j)) (fun j => (fmaw (lane 32 j (k.getV (pairHigh d))) (lane 16 (32 + j) (k.getV a))
      (lane 16 (32 + j) (k.getV b))).1) (k.getV (pairHigh d)) := by
  rw [fmawTurn, getV_orFlags, getV_setV (setV_wf canonical d _)]

end turn

/-- VFMAW writes both registers of its pair. -/
theorem skVfmaw_accumulates (even : d.val % 2 = 0) (canonical : (getThread r.val t.val s).wf = true)
    (may : issues r t false [] [.vreg d, .vreg (pairHigh d), .vreg a, .vreg b] s) :
    ∃ u, exec (.skVfmaw r t d a b p pn) s = .next u ∧ threadOnly r t s u ∧
      (getThread r.val t.val u).pc = (getThread r.val t.val s).pc + 4 ∧
      (let k := getThread r.val t.val s
       let x := fun j acc => (fmaw acc (lane 16 j (k.getV a)) (lane 16 j (k.getV b))).1
       lanesAre .fp32 d (k.active p pn) (fun j => x j (lane 32 j (k.getV d))) k (getThread r.val t.val u) ∧
       lanesAre .fp32 (pairHigh d) (fun j => k.active p pn (32 + j)) (fun j => x (32 + j) (lane 32 j (k.getV (pairHigh d)))) k
         (getThread r.val t.val u)) := by
  have formed : (Instr.skVfmaw r t d a b p pn).wf = true := decide_eq_true even
  obtain ⟨u, run, only, thread⟩ := exists_of_issueWf
    (P := fun u => u = (fmawTurn d a b p pn (getThread r.val t.val s)).step) formed may (exec_skVfmaw ..) rfl
  refine ⟨u, run, only, by rw [thread, Thread.step, fmawTurn_pc], fun j below => ?_, fun j below => ?_⟩
  · rw [thread, getV_step, fmawTurn_low even canonical]
    exact lane_mergeLanes _ _ _ below
  · rw [thread, getV_step, fmawTurn_high canonical]
    exact lane_mergeLanes _ _ _ below

end accumulate

/-- Settles O10. -/
theorem vectorDotAndMultiplyAdd : Obligations.VectorDotAndMultiplyAdd := by
  unfold Obligations.VectorDotAndMultiplyAdd
  refine ⟨fun r t d a b p pn s canonical => skVdot4_accumulates canonical, fun r t d a b p pn s canonical =>
    ⟨fun ty float may => ?_, fun even may => skVfmaw_accumulates even canonical may⟩⟩
  obtain ⟨u, run, only, vector, _, lanes⟩ := vfpOp_lanes (i := .skVfma r t ty d a b p pn) float rfl canonical may rfl
  exact ⟨u, run, only, vector, lanes⟩

end Sys2Proof.Machine
end

section
/-! PROOFS. Vector instructions of Skovfa that move, select and convert lanes (Table 8.14, R278, R282 to R284). -/

namespace Sys2Proof.Machine

section moves
variable {i : Instr} {r : Rack} {t : Tid} {ty : VType} {d a b : Reg} {p : Fin 8} {pn : Bool} {s : State}

/-! ### Moves and selections (Table 8.14) -/

/-- VINS, whose lane the predicate may leave out. -/
theorem skVins_fills (canonical : (getThread r.val t.val s).wf = true) (may : issues r t false [] [.vreg d, .sreg a, .sreg b] s) :
    ∃ u, exec (.skVins r t ty d a b p pn) s = .next u ∧ threadOnly r t s u ∧
      onlyVector d (getThread r.val t.val s) (getThread r.val t.val u) ∧
      lanesAre ty d (fun j => (getThread r.val t.val s).active p pn j && decide (j = (sreg (getThread r.val t.val s) b).toNat % ty.lanes))
        (fun _ => (sreg (getThread r.val t.val s) a).toNat) (getThread r.val t.val s) (getThread r.val t.val u) := by
  obtain ⟨u, run, only, vector, lanes⟩ := merge_of_issue (i := .skVins r t ty d a b p pn) (ty := ty)
    (act := fun k j => decide (j = laneSel k ty b) && k.active p pn j) (f := fun k _ => (k.s' a).toNat) may rfl canonical fun _ => rfl
  simp only [Bool.and_comm] at lanes ⊢
  exact ⟨u, run, only, vector, lanes⟩

/-- VSEL masks nothing: every lane is taken from one of the two vectors. -/
theorem skVsel_fills (canonical : (getThread r.val t.val s).wf = true) (may : issues r t false [.vreg d] [.vreg a, .vreg b] s) :
    ∃ u, exec (.skVsel r t ty d a b p pn) s = .next u ∧ threadOnly r t s u ∧
      onlyVector d (getThread r.val t.val s) (getThread r.val t.val u) ∧
      lanesAre ty d (fun _ => true) (fun j => lane ty.width j (if (getThread r.val t.val s).active p pn j
        then (getThread r.val t.val s).getV a else (getThread r.val t.val s).getV b)) (getThread r.val t.val s) (getThread r.val t.val u) :=
  merge_of_issue (i := .skVsel r t ty d a b p pn) (ty := ty) (act := fun _ _ => true)
    (f := fun k j => lane ty.width j (k.getV (if k.active p pn j then a else b))) may rfl canonical fun j => by
      rw [apply_ite (getThread r.val t.val s).getV]

/-- VLANE of an integer type writes the lane's number. -/
theorem skVlane_fills (canonical : (getThread r.val t.val s).wf = true) (may : issues r t false [] [.vreg d] s) :
    ∃ u, exec (.skVlane r t ty d p pn) s = .next u ∧ threadOnly r t s u ∧
      onlyVector d (getThread r.val t.val s) (getThread r.val t.val u) ∧
      (ty.isFloat = false → lanesAre ty d ((getThread r.val t.val s).active p pn) id (getThread r.val t.val s) (getThread r.val t.val u)) := by
  obtain ⟨u, run, only, vector, lanes⟩ := merge_of_issue (i := .skVlane r t ty d p pn) (ty := ty) (act := fun k => k.active p pn)
    (f := fun _ j => if ty.isFloat then (fencode (vfmt ty) (ofInt j)).1 else j) may rfl canonical fun _ => rfl
  refine ⟨u, run, only, vector, fun int => ?_⟩
  simp only [int, Bool.false_eq_true, if_false] at lanes
  exact lanes

theorem skVext_turns (may : issues r t false [.sreg d] [.vreg a, .sreg b] s) : turns (.skVext r t ty d a b p pn) r t (fun k =>
    let j := (sreg k b).toNat % ty.lanes
    let x := lane ty.width j (k.getV a)
    if k.active p pn j then (k.setS d.val (if ty.isFloat then BitVec.ofNat 64 x else BitVec.ofInt 64 (signedOf ty.width x))).step
    else k.step) s := by
  refine turns_of_issue may rfl ?_
  rw [apply_ite Thread.step]
  rfl

/-! ### Conversions (R282 to R284) -/

/-- An instruction that merges lanes of any width into v_D and sets flags. -/
theorem merge_of_issueWf {dst src : List LoadDest} {w fl : Nat} {act : Nat → Bool} {f : Nat → Nat} {g : Thread → Thread}
    (formed : i.wf = true) (may : issues r t false dst src s)
    (run : exec i s = .next (issueWf i r t false dst src (thenStep r t g) s)) (canonical : (getThread r.val t.val s).wf = true)
    (writes : g (getThread r.val t.val s) =
      ((getThread r.val t.val s).setV d (mergeLanes w act f ((getThread r.val t.val s).getV d))).orFlags fl) :
    ∃ u, exec i s = .next u ∧ threadOnly r t s u ∧ onlyVector d (getThread r.val t.val s) (getThread r.val t.val u) ∧
      (getThread r.val t.val u).fflags = (getThread r.val t.val s).fflags ||| BitVec.ofNat 5 fl ∧
      ∀ j, j < 1024 / w → lane w j ((getThread r.val t.val u).getV d) =
        if act j then f j % 2 ^ w else lane w j ((getThread r.val t.val s).getV d) := by
  obtain ⟨u, run, only, thread⟩ := exists_of_issueWf (P := fun u => u = (g (getThread r.val t.val s)).step) formed may run rfl
  rw [writes] at thread
  refine ⟨u, run, only, ?_, by rw [thread]; rfl, fun j below => ?_⟩
  · rw [thread]
    exact onlyVector_written canonical d _ _
  · rw [thread, getV_step, getV_orFlags, getV_setV canonical, lane_mergeLanes _ _ _ below]

theorem skVcvt_converts {src dst : NFmt} {part : Fin 4} (canonical : (getThread r.val t.val s).wf = true)
    (formed : cvtOk src dst part = true) (may : issues r t false [] [.vreg d, .vreg a] s) :
    let k := getThread r.val t.val s
    let first := if dst.width < src.width then part.val * cvtLanes src dst else 0
    let from' := if src.width < dst.width then part.val * cvtLanes src dst else 0
    ∃ u, exec (.skVcvt r t d a src dst part p pn) s = .next u ∧ threadOnly r t s u ∧ onlyVector d k (getThread r.val t.val u) ∧
      ∀ j, j < 1024 / dst.width → lane dst.width j ((getThread r.val t.val u).getV d) =
        if first ≤ j ∧ j < first + cvtLanes src dst ∧ k.active p pn (j - first) = true then
          (cvtLane src dst (lane src.width (from' + (j - first)) (k.getV a))).1 % 2 ^ dst.width
        else lane dst.width j (k.getV d) := by
  intro k first from'
  obtain ⟨u, run, only, vector, _, lanes⟩ := merge_of_issueWf (i := .skVcvt r t d a src dst part p pn) (d := d) (w := dst.width)
    (act := fun j => decide (first ≤ j) && decide (j < first + cvtLanes src dst) && k.active p pn (j - first))
    (f := fun j => (cvtLane src dst (lane src.width (from' + (j - first)) (k.getV a))).1) formed may rfl canonical rfl
  simp only [Bool.and_eq_true, decide_eq_true_eq, and_assoc] at lanes
  exact ⟨u, run, only, vector, lanes⟩

/-- A good scale expands the narrow lanes of a part into BF16 lanes (R284). -/
theorem skVsclExpand_expands {fmt : NFmt} {part : Fin 4} (canonical : (getThread r.val t.val s).wf = true)
    (may : issues r t false [] [.vreg d, .vreg a, .sreg b] s) (formed : sclOk fmt part = true)
    (scale : posFin32 (BitVec.ofNat 32 ((getThread r.val t.val s).f32 b)) = true) :
    let k := getThread r.val t.val s
    ∃ u, exec (.skVsclExpand r t d a b fmt part p pn) s = .next u ∧ threadOnly r t s u ∧ onlyVector d k (getThread r.val t.val u) ∧
      lanesAre .bf16 d (k.active p pn)
        (fun j => (expandLane fmt (BitVec.ofNat 32 (k.f32 b)) (lane fmt.width (64 * part.val + j) (k.getV a))).1) k
        (getThread r.val t.val u) := by
  intro k
  obtain ⟨u, run, only, vector, _, lanes⟩ := merge_of_issueWf (i := .skVsclExpand r t d a b fmt part p pn) (d := d) (w := 16)
    (act := k.active p pn) (f := fun j => (if posFin32 (BitVec.ofNat 32 (k.f32 b)) then
      expandLane fmt (BitVec.ofNat 32 (k.f32 b)) (lane fmt.width (64 * part.val + j) (k.getV a)) else badScale .bf16).1)
    formed may rfl canonical rfl
  simp only [if_pos (show posFin32 (BitVec.ofNat 32 (k.f32 b)) = true from scale)] at lanes
  exact ⟨u, run, only, vector, lanes⟩

/-- The lanes of a part lie within the vector. -/
theorem part_within {fmt : NFmt} {part : Fin 4} (formed : sclOk fmt part = true) : 64 * part.val + 64 ≤ 1024 / fmt.width := by
  simp only [sclOk, Bool.and_eq_true, decide_eq_true_eq] at formed
  cases fmt <;> simp only [NFmt.code, NFmt.width] at formed ⊢ <;> omega

/-- What VSCL codes a lane of v_A to, at the scale in s_B: nothing but the flag where the scale is not positive and finite (R284). -/
def coded (fmt : NFmt) (k : Thread) (a b : Reg) (j : Nat) : Nat × Nat :=
  let sc := BitVec.ofNat 32 (k.f32 b)
  if posFin32 sc then codeLane fmt sc (lane 16 j (k.getV a)) else badScale fmt

theorem skVsclCode_codes {fmt : NFmt} {part : Fin 4} (canonical : (getThread r.val t.val s).wf = true)
    (may : issues r t false [] [.vreg d, .vreg a, .sreg b] s) (formed : sclOk fmt part = true) :
    let k := getThread r.val t.val s
    ∃ u, exec (.skVsclCode r t d a b fmt part p pn) s = .next u ∧ threadOnly r t s u ∧ onlyVector d k (getThread r.val t.val u) ∧
      (getThread r.val t.val u).fflags = k.fflags ||| BitVec.ofNat 5 (laneFlags 64 (k.active p pn) fun j => (coded fmt k a b j).2) ∧
      ∀ j, j < 64 → k.active p pn j = true →
        lane fmt.width (64 * part.val + j) ((getThread r.val t.val u).getV d) = (coded fmt k a b j).1 % 2 ^ fmt.width := by
  intro k
  obtain ⟨u, run, only, vector, flags, lanes⟩ := merge_of_issueWf (i := .skVsclCode r t d a b fmt part p pn) (d := d) (w := fmt.width)
    (act := fun j => decide (64 * part.val ≤ j) && decide (j < 64 * part.val + 64) && k.active p pn (j - 64 * part.val))
    (f := fun j => (coded fmt k a b (j - 64 * part.val)).1)
    (fl := laneFlags 64 (k.active p pn) fun j => (coded fmt k a b j).2) formed may rfl canonical rfl
  refine ⟨u, run, only, vector, flags, fun j below act => ?_⟩
  have within := part_within formed
  have offset : 64 * part.val + j - 64 * part.val = j := by omega
  rw [lanes _ (by omega), offset, if_pos]
  simp [act, below]

/-- A flag that every active lane sets, of which there is one, is what all of them set. -/
theorem laneFlags_const {n j : Nat} {act : Nat → Bool} (fl : Nat) (below : j < n) (active : act j = true) :
    laneFlags n act (fun _ => fl) = fl := by
  have kept : ∀ l : List Nat, (l.map fun j => if act j then fl else 0).foldl (· ||| ·) fl = fl := fun l => by
    induction l with
    | nil => rfl
    | cons x l ih => cases h : act x <;> simp [h, ih]
  have met : ∀ l : List Nat, j ∈ l → (l.map fun j => if act j then fl else 0).foldl (· ||| ·) 0 = fl := fun l => by
    induction l with
    | nil => simp
    | cons x l ih =>
      intro mem
      rw [List.map_cons, List.foldl_cons, Nat.zero_or]
      cases h : act x with
      | true => exact kept l
      | false => exact ih ((List.mem_cons.mp mem).resolve_left fun same => by simp [← same, active] at h)
  exact met _ (List.mem_range.mpr below)

end moves

/-- Settles O11. -/
theorem vectorMovesAndConversions : Obligations.VectorMovesAndConversions := by
  unfold Obligations.VectorMovesAndConversions
  refine ⟨fun r t ty d a b p pn s canonical => ⟨fun may => ?_, skVins_fills canonical, fun may => ?_, skVsel_fills canonical,
      skVlane_fills canonical, skVext_turns⟩,
    fun r t d a b src dst fmt part p pn s canonical => ⟨skVcvt_converts canonical, skVsclExpand_expands canonical,
      fun may formed scale code act => ?_, fun may formed scale => ?_⟩⟩
  · exact merge_of_issue (i := .skVbcast r t ty d a p pn) (act := fun k => k.active p pn) (f := fun k _ => (k.s' a).toNat) may rfl canonical
      fun _ => rfl
  · exact merge_of_issue (i := .skVperm r t ty d a b p pn) (act := fun k => k.active p pn)
      (f := fun k j => lane ty.width (lane ty.width j (k.getV b) % ty.lanes) (k.getV a)) may rfl canonical fun _ => rfl
  · obtain ⟨u, run, only, vector, flags, lanes⟩ := skVsclCode_codes canonical may formed
    have none' : coded fmt (getThread r.val t.val s) a b = fun _ => (0, flNV) := by
      funext j
      rw [coded, if_neg (by rw [scale]; decide)]
      rcases code with rfl | rfl <;> rfl
    rw [none'] at flags lanes
    refine ⟨u, run, only, vector, ?_, ?_⟩
    · rw [flags, laneFlags_const flNV (by decide) act]
      rfl
    · exact (lanes 0 (by decide) act).trans (Nat.zero_mod _)
  · obtain ⟨u, run, only, vector, _, lanes⟩ := skVsclCode_codes canonical may formed
    refine ⟨u, run, only, vector, fun j below act => ?_⟩
    rw [lanes j below act, coded, if_pos scale]

end Sys2Proof.Machine
end

section
/-! SUPPORT. Predicate registers bit by bit (R278), and the largest of a list of integers. -/

namespace Sys2Proof.Machine

/-! ### Predicates -/

theorem bitAt_toNat {n : Nat} (j : Nat) (x : BitVec n) : bitAt j x.toNat = x.getLsbD j := by
  rw [bitAt, BitVec.getLsbD, Nat.testBit_eq_decide_div_mod_eq]
  rfl

theorem getLsbD_predOf {l j : Nat} (f : Nat → Bool) (below : j < 128) : (predOf l f).getLsbD j = (decide (j < l) && f j) := by
  have bit := packLanes_lane 1 (fun i => if decide (i < l) && f i then 1 else 0) below
  rw [Nat.one_mul] at bit
  rw [predOf, BitVec.getLsbD_ofNat, decide_eq_true below, Bool.true_and, Nat.testBit_eq_decide_div_mod_eq]
  refine (congrArg (fun x => decide (x = 1)) bit).trans ?_
  cases decide (j < l) && f j <;> rfl

section registers
variable {k : Thread} {d : Fin 8}

theorem Thread.wf_p (canonical : k.wf = true) : Store.wf 0 k.p = true := by
  simp only [Thread.wf, Bool.and_eq_true] at canonical
  exact canonical.1.2

theorem getP_setP (canonical : k.wf = true) (named : d.val ≠ 0) (x : BitVec 128) : (k.setP d x).getP d = x := by
  rw [Thread.setP, if_neg named, Thread.getP, if_neg named]
  exact Store.getD_setD_same _ _ _ _ (Thread.wf_p canonical)

theorem getP_setP_ne (canonical : k.wf = true) {c d : Fin 8} (other : c ≠ d) (x : BitVec 128) : (k.setP d x).getP c = k.getP c := by
  unfold Thread.setP
  split
  · rfl
  · exact congrArg (if c.val = 0 then BitVec.allOnes 128 else ·)
      (Store.getD_setD_ne _ _ _ (Thread.wf_p canonical) fun same => other (Fin.ext same))

/-- What an instruction leaves that writes p_D, adds flags and goes on. -/
theorem onlyPredicate_written (canonical : k.wf = true) (d : Fin 8) (x : BitVec 128) (fl : Nat) :
    onlyPredicate d fl k ((k.setP d x).orFlags fl).step := by
  refine ⟨?_, fun _ other => getP_setP_ne canonical other x, fun discards => ?_⟩
  · unfold Thread.setP
    split <;> rfl
  · show (k.setP d x).p = k.p
    rw [Thread.setP, if_pos discards]

theorem orFlags_zero (k : Thread) : k.orFlags 0 = k := by
  simp [Thread.orFlags]

end registers

theorem laneFlags_zero (n : Nat) (act : Nat → Bool) : laneFlags n act (fun _ => 0) = 0 := by
  have none' : ∀ l : List Nat, (l.map fun j => if act j then 0 else 0).foldl (· ||| ·) 0 = 0 := fun l => by
    induction l with
    | nil => rfl
    | cons x l ih => simpa using ih
  exact none' _

/-! ### The largest of a list -/

theorem imaxList_eq_max (z x : Int) (l : List Int) : (x :: l).max? = some (imaxList z (x :: l)) := by
  have larger : (fun m y : Int => if m < y then y else m) = max := funext fun m => funext fun y => (max_def_lt m y).symm
  rw [imaxList, larger, List.max?_cons']

theorem imaxList_spec (z : Int) {l : List Int} (some' : l ≠ []) : imaxList z l ∈ l ∧ ∀ x ∈ l, x ≤ imaxList z l := by
  cases l with
  | nil => exact absurd rfl some'
  | cons x l => exact List.max?_eq_some_iff.mp (imaxList_eq_max z x l)

/-- The largest magnitude of a list, 0 where there is none. -/
theorem imaxList_natAbs (l : List Int) : ∃ m : Nat, imaxList 0 (l.map fun x => (x.natAbs : Int)) = m ∧
    (∀ x ∈ l, x.natAbs ≤ m) ∧ (m = 0 ∨ ∃ x ∈ l, x.natAbs = m) := by
  rcases eq_or_ne l [] with rfl | some'
  · exact ⟨0, rfl, by simp⟩
  · obtain ⟨mem, all⟩ := imaxList_spec 0 (l := l.map fun x => (x.natAbs : Int)) (by simpa using some')
    obtain ⟨x, hx, most⟩ := List.mem_map.mp mem
    refine ⟨x.natAbs, most.symm, fun y hy => ?_, .inr ⟨x, hx, rfl⟩⟩
    have bound := all _ (List.mem_map_of_mem hy)
    omega

theorem sumList_id (l : List Int) : sumList id l = l.sum := List.sum_eq_foldl.symm

end Sys2Proof.Machine
end

section
/-! PROOFS. Compares, predicate logic and reductions of Skovfa (Table 8.14, R278, R279, R281). -/

namespace Sys2Proof.Machine

section predicates
variable {i : Instr} {r : Rack} {t : Tid} {d p : Fin 8} {pn : Bool} {s : State}

/-- An instruction that writes p_D from its lanes under the predicate, and adds flags (R278). -/
theorem predicate_of_issue {dst src : List LoadDest} {l fl : Nat} {f g : Nat → Bool} {turn : Thread → Thread}
    (canonical : (getThread r.val t.val s).wf = true) (may : issues r t false dst src s)
    (run : exec i s = .next (issue r t false dst src (thenStep r t turn) s))
    (writes : turn (getThread r.val t.val s) = ((getThread r.val t.val s).setP d (predOf l f)).orFlags fl)
    (same : ∀ j, j < 128 → (decide (j < l) && f j) = ((getThread r.val t.val s).active p pn j && g j)) :
    ∃ u, exec i s = .next u ∧ threadOnly r t s u ∧ onlyPredicate d fl (getThread r.val t.val s) (getThread r.val t.val u) ∧
      ∀ j, j < 128 → d.val ≠ 0 →
        ((getThread r.val t.val u).getP d).getLsbD j = ((getThread r.val t.val s).active p pn j && g j) := by
  obtain ⟨u, run, only, thread⟩ := exists_of_issue (P := fun u => u = (turn (getThread r.val t.val s)).step) may run rfl
  rw [writes] at thread
  refine ⟨u, run, only, ?_, fun j below named => ?_⟩
  · rw [thread]
    exact onlyPredicate_written canonical d _ fl
  · rw [thread, ← same j below, ← getLsbD_predOf f below]
    exact congrArg (BitVec.getLsbD · j) (getP_setP canonical named _)

/-- An integer compare adds no flag. -/
theorem vcmp_int {ty : VType} {a b : Reg} {ci : Int → Int → Bool} {cf : FVal → FVal → Bool} {fl : FVal → FVal → Nat}
    (canonical : (getThread r.val t.val s).wf = true) (may : issues r t false [] [.vreg a, .vreg b] s) (int : ty.isFloat = false)
    (run : exec i s = .next (vcmp r t ty d a b p pn ci cf fl s)) :
    ∃ u, exec i s = .next u ∧ threadOnly r t s u ∧ onlyPredicate d 0 (getThread r.val t.val s) (getThread r.val t.val u) ∧
      ∀ j, j < 128 → d.val ≠ 0 → ((getThread r.val t.val u).getP d).getLsbD j = ((getThread r.val t.val s).active p pn j &&
        (decide (j < ty.lanes) && ci (laneS ty.width j ((getThread r.val t.val s).getV a))
          (laneS ty.width j ((getThread r.val t.val s).getV b)))) := by
  refine predicate_of_issue (fl := 0) canonical may run ?_ fun j _ => Bool.and_left_comm ..
  simp only [cmpLane, int, Bool.false_eq_true, if_false, laneFlags_zero]
  rfl

/-- A floating-point compare adds the flags of the active lanes alone. -/
theorem vcmp_float {ty : VType} {a b : Reg} {ci : Int → Int → Bool} {cf : FVal → FVal → Bool} {fl : FVal → FVal → Nat}
    (canonical : (getThread r.val t.val s).wf = true) (may : issues r t false [] [.vreg a, .vreg b] s) (float : ty.isFloat = true)
    (run : exec i s = .next (vcmp r t ty d a b p pn ci cf fl s)) :
    let x := fun j => fdecode (vfmt ty) (lane ty.width j ((getThread r.val t.val s).getV a))
    let y := fun j => fdecode (vfmt ty) (lane ty.width j ((getThread r.val t.val s).getV b))
    ∃ u, exec i s = .next u ∧ threadOnly r t s u ∧
      onlyPredicate d (laneFlags ty.lanes ((getThread r.val t.val s).active p pn) fun j => fl (x j) (y j))
        (getThread r.val t.val s) (getThread r.val t.val u) ∧
      ∀ j, j < 128 → d.val ≠ 0 → ((getThread r.val t.val u).getP d).getLsbD j = ((getThread r.val t.val s).active p pn j &&
        (decide (j < ty.lanes) && cf (x j) (y j))) := by
  refine predicate_of_issue canonical may run ?_ fun j _ => Bool.and_left_comm ..
  simp only [cmpLane, float, if_true]

theorem predOp_gives {a b : Fin 8} {op : Bool → Bool → Bool} (canonical : (getThread r.val t.val s).wf = true)
    (may : issues r t false [] [] s) (run : exec i s = .next (predOp r t d a b p pn op s)) :
    ∃ u, exec i s = .next u ∧ threadOnly r t s u ∧ onlyPredicate d 0 (getThread r.val t.val s) (getThread r.val t.val u) ∧
      ∀ j, j < 128 → d.val ≠ 0 → ((getThread r.val t.val u).getP d).getLsbD j = ((getThread r.val t.val s).active p pn j &&
        op (((getThread r.val t.val s).getP a).getLsbD j) (((getThread r.val t.val s).getP b).getLsbD j)) :=
  predicate_of_issue (fl := 0) canonical may run (orFlags_zero _).symm fun j below => by
    rw [decide_eq_true below, Bool.true_and, bitAt_toNat, bitAt_toNat]

end predicates

section reductions
variable {i : Instr} {r : Rack} {t : Tid} {ty : VType} {d a : Reg} {p : Fin 8} {pn : Bool} {s : State} {fi : List Int → Int}
  {ff : List FVal → Nat × Nat}

theorem reduce_float (float : ty.isFloat = true) (may : issues r t false [.sreg d] [.vreg a] s)
    (run : exec i s = .next (reduce r t ty d a p pn fi ff s)) {x : Nat × Nat}
    (value : ff (((List.range ty.lanes).filter fun j => (getThread r.val t.val s).active p pn j).map fun j =>
      fdecode (vfmt ty) (lane ty.width j ((getThread r.val t.val s).getV a))) = x) :
    turns i r t (fun k => { (k.setS d.val (BitVec.ofNat 64 x.1)).step with fflags := k.fflags ||| BitVec.ofNat 5 x.2 }) s := by
  refine turns_of_issue may run ?_
  have lanes : ff ((activeLanes (getThread r.val t.val s) ty a p pn).map (fdecode (vfmt ty))) = x := by
    rw [activeLanes, List.map_map, ← value]
    rfl
  simp only [float, if_true, lanes]
  rw [Thread.orFlags, setS_fflags]
  rfl

theorem reduce_int (int : ty.isFloat = false) (may : issues r t false [.sreg d] [.vreg a] s)
    (run : exec i s = .next (reduce r t ty d a p pn fi ff s)) :
    turns i r t (fun k => (k.setS d.val (BitVec.ofInt 64 (fi (((List.range ty.lanes).filter fun j =>
      (getThread r.val t.val s).active p pn j).map fun j => laneS ty.width j ((getThread r.val t.val s).getV a))))).step) s := by
  refine turns_of_issue may run ?_
  simp only [int, Bool.false_eq_true, if_false, activeLanes, List.map_map]
  rfl

theorem exec_skVrmaxa (r : Rack) (t : Tid) (ty : VType) (d a : Reg) (p : Fin 8) (pn : Bool) (s : State) :
    exec (.skVrmaxa r t ty d a p pn) s = .next (reduce r t ty d a p pn (fun l => imaxList 0 (l.map fun x => (x.natAbs : Int)))
      (fun l => fmaxList (.fin false 0 1) (l.map FVal.abs)) s) := rfl

end reductions

/-- Settles O12. -/
theorem predicatesAndReductions : Obligations.PredicatesAndReductions := by
  unfold Obligations.PredicatesAndReductions
  refine ⟨fun r t d p pn s canonical => ⟨fun ty a b may => ⟨fun int => ?_, fun float => ?_⟩, fun may a b => ?_⟩,
    fun r t ty d a p pn s float may => ?_, fun r t ty d a q p pn s int may => ⟨?_, fun some' => ?_, ?_, ?_⟩⟩
  · exact ⟨vcmp_int (i := .skVcmpeq r t ty d a b p pn) (ci := fun x y => decide (x = y)) canonical may int rfl,
      vcmp_int (i := .skVcmplt r t ty d a b p pn) (ci := fun x y => decide (x < y)) canonical may int rfl,
      vcmp_int (i := .skVcmple r t ty d a b p pn) (ci := fun x y => decide (x ≤ y)) canonical may int rfl⟩
  · exact ⟨vcmp_float canonical may float rfl, vcmp_float canonical may float rfl, vcmp_float canonical may float rfl⟩
  · exact ⟨predOp_gives canonical may rfl, predOp_gives canonical may rfl, predOp_gives canonical may rfl⟩
  · exact ⟨reduce_float float may rfl rfl, reduce_float float may rfl rfl, reduce_float float may (exec_skVrmaxa ..) rfl⟩
  · rw [← sumList_id]
    exact reduce_int int may rfl
  · obtain ⟨mem, all⟩ := imaxList_spec (-(2 ^ (ty.width - 1) : Nat)) some'
    exact ⟨_, mem, all, reduce_int int may rfl⟩
  · obtain ⟨m, most, all, met⟩ := imaxList_natAbs (((List.range ty.lanes).filter fun j => (getThread r.val t.val s).active p pn j).map
      fun j => laneS ty.width j ((getThread r.val t.val s).getV a))
    refine ⟨m, all, met, ?_⟩
    have turned := reduce_int int may (exec_skVrmaxa r t ty d a p pn s)
    rw [most, BitVec.ofInt_natCast] at turned
    exact turned
  · refine turns_of_putS (issues_of_subset may (List.Subset.refl _) (List.nil_subset _)) rfl ?_
    simp only [List.countP_eq_length_filter, bitAt_toNat]

end Sys2Proof.Machine
end

section
/-! SUPPORT. Fields of a little-endian number and its bytes: a byte, a field cut out, a field replaced. -/

namespace Sys2Proof.Machine

theorem leNat_lt (bs : List Byte) : leNat bs < 256 ^ bs.length := by
  induction bs with
  | nil => simp [leNat]
  | cons b bs ih =>
    have byte := b.isLt
    rw [leNat, List.length_cons, Nat.pow_succ]
    omega

theorem leNat_drop (k : Nat) (bs : List Byte) : leNat (bs.drop k) = leNat bs / 256 ^ k := by
  induction k generalizing bs with
  | zero => simp
  | succ k ih =>
    cases bs with
    | nil => simp [leNat]
    | cons b bs =>
      have byte := b.isLt
      have rest : leNat (b :: bs) / 256 = leNat bs := by rw [leNat]; omega
      rw [List.drop_succ_cons, ih, Nat.pow_succ', ← Nat.div_div_eq_div_mul, rest]

theorem leNat_take (n : Nat) (bs : List Byte) : leNat (bs.take n) = leNat bs % 256 ^ n := by
  induction n generalizing bs with
  | zero => simp [leNat, Nat.mod_one]
  | succ n ih =>
    cases bs with
    | nil => simp [leNat]
    | cons b bs =>
      have byte := b.isLt
      have low : leNat (b :: bs) % 256 = b.toNat := by rw [leNat]; omega
      have rest : leNat (b :: bs) / 256 = leNat bs := by rw [leNat]; omega
      rw [List.take_succ_cons, leNat, ih, Nat.pow_succ', Nat.mod_mul, low, rest]

theorem leAt_eq (a n : Nat) (bs : List Byte) : leAt a n bs = leNat bs / 256 ^ a % 256 ^ n := by
  rw [leAt, leNat_take, leNat_drop]

theorem nthD_eq_getElem? {α : Type} (d : α) (k : Nat) (l : List α) : nthD d k l = l[k]?.getD d := by
  rw [nthD, List.headD_eq_head?_getD, List.head?_drop]

theorem leNat_byte (j : Nat) (bs : List Byte) : leNat bs / 256 ^ j % 256 = (nthD 0 j bs).toNat := by
  rw [← leNat_drop, nthD]
  cases bs.drop j with
  | nil => rfl
  | cons b l =>
    have byte := b.isLt
    rw [leNat, List.headD_cons]
    omega

theorem leBytes_length (n x : Nat) : (leBytes n x).length = n := by simp [leBytes_eq_map]

theorem leBytes_byte (n x : Nat) {j : Nat} (h : j < n) : nthD 0 j (leBytes n x) = BitVec.ofNat 8 (x / 256 ^ j) := by
  rw [leBytes_eq_map, nthD_map_range h]

theorem nthD_patchAt {a j : Nat} {new bs : List Byte} (fits : a + new.length ≤ bs.length) :
    nthD 0 j (patchAt a new bs) = if a ≤ j ∧ j < a + new.length then nthD 0 (j - a) new else nthD 0 j bs := by
  have cut : (bs.take a).length = a := List.length_take_of_le (by omega)
  simp only [patchAt, nthD_eq_getElem?, List.append_assoc]
  rcases Nat.lt_or_ge j a with below | above
  · rw [List.getElem?_append_left (by omega), List.getElem?_take_of_lt below, if_neg (by omega)]
  · rw [List.getElem?_append_right (by omega), cut]
    rcases Nat.lt_or_ge (j - a) new.length with inside | past
    · rw [List.getElem?_append_left inside, if_pos (by omega)]
    · rw [List.getElem?_append_right past, List.getElem?_drop, if_neg (by omega)]
      congr 2
      omega

/-- A tile register with a field replaced, byte by byte (R287). -/
theorem tileSet_byte {ofs n : Nat} (fits : ofs + n ≤ 64) (x : BitVec 512) (v j : Nat) (h : j < 64) :
    (tileSet x ofs n v).toNat / 256 ^ j % 256 =
      if ofs ≤ j ∧ j < ofs + n then v / 256 ^ (j - ofs) % 256 else x.toNat / 256 ^ j % 256 := by
  have room : ofs + (leBytes n v).length ≤ (leBytes 64 x.toNat).length := by rwa [leBytes_length, leBytes_length]
  have whole : (patchAt ofs (leBytes n v) (leBytes 64 x.toNat)).length = 64 := by
    simp only [patchAt, List.length_append, List.length_take, List.length_drop, leBytes_length]
    omega
  have small : leNat (patchAt ofs (leBytes n v) (leBytes 64 x.toNat)) < 2 ^ 512 := by
    have bound := leNat_lt (patchAt ofs (leBytes n v) (leBytes 64 x.toNat))
    rw [whole, show (256 : Nat) = 2 ^ 8 from rfl, ← Nat.pow_mul] at bound
    exact bound
  rw [tileSet, BitVec.toNat_ofNat, Nat.mod_eq_of_lt small, leNat_byte, nthD_patchAt room, leBytes_length]
  split_ifs with field
  · rw [leBytes_byte n v (by omega), BitVec.toNat_ofNat]
  · rw [leBytes_byte 64 _ h, BitVec.toNat_ofNat]

end Sys2Proof.Machine
end

section
/-! PROOFS. Tile register fields and engine instructions that read (R45, R287, R288, R294 to R296, R450, R454). -/

namespace Sys2Proof.Machine

section tiles
variable {r : Rack} {t : Tid} {ofs : Fin 64} {wd : Fin 4} {s : State}

theorem field_within (ofs : Fin 64) (wd : Fin 4) (aligned : ofs.val % 2 ^ wd.val = 0) : ofs.val + 2 ^ wd.val ≤ 64 := by
  have below := ofs.isLt
  have widths : ∀ w : Fin 4, 2 ^ w.val = 1 ∨ 2 ^ w.val = 2 ∨ 2 ^ w.val = 4 ∨ 2 ^ w.val = 8 := by decide
  rcases widths wd with width | width | width | width <;> rw [width] at aligned ⊢ <;> omega

theorem tile_whole (x : BitVec 512) : x.toNat % 256 ^ 64 = x.toNat := by
  rw [show (256 : Nat) = 2 ^ 8 from rfl, ← Nat.pow_mul]
  exact Nat.mod_eq_of_lt x.isLt

theorem Thread.wf_t {k : Thread} (canonical : k.wf = true) : Store.wf 0 k.t = true := by
  simp only [Thread.wf, Bool.and_eq_true] at canonical
  exact canonical.2

/-- A register that an instruction reads has not been struck, so a write of it mends nothing (R389). -/
theorem mend_of_issues {all : Bool} {dst src : List LoadDest} {x : LoadDest} (may : issues r t all dst src s) (reads : x ∈ src) :
    (getThread r.val t.val s).struck.filter (· ≠ x) = (getThread r.val t.val s).struck := by
  obtain ⟨_, _, _, _, _, sound⟩ := may
  have whole : x ∉ (getThread r.val t.val s).struck := by simpa using List.find?_eq_none.mp sound x reads
  exact List.filter_eq_self.mpr fun y hy => decide_eq_true fun same => whole (same ▸ hy)

theorem skTset_writes {d : TReg} {a : Reg} (aligned : ofs.val % 2 ^ wd.val = 0) (canonical : (getThread r.val t.val s).wf = true)
    (may : issues r t false [] [.treg d, .sreg a] s) :
    ∃ u, exec (.skTset r t d a ofs wd) s = .next u ∧ threadOnly r t s u ∧
      getThread r.val t.val u = { (getThread r.val t.val s).step with t := (getThread r.val t.val u).t } ∧
      (∀ x : TReg, x ≠ d → (getThread r.val t.val u).getT x = (getThread r.val t.val s).getT x) ∧
      ∀ j, j < 64 → ((getThread r.val t.val u).getT d).toNat / 256 ^ j % 256 =
        if ofs.val ≤ j ∧ j < ofs.val + 2 ^ wd.val then (sreg (getThread r.val t.val s) a).toNat / 256 ^ (j - ofs.val) % 256
        else ((getThread r.val t.val s).getT d).toNat / 256 ^ j % 256 := by
  have formed : (Instr.skTset r t d a ofs wd).wf = true := decide_eq_true aligned
  have tiles := Thread.wf_t canonical
  obtain ⟨u, run, only, thread⟩ := exists_of_issueWf (P := fun u => u = ((getThread r.val t.val s).setT d
    (tileSet ((getThread r.val t.val s).getT d) ofs.val (tWidth wd) ((getThread r.val t.val s).s' a).toNat)).step) formed may rfl rfl
  refine ⟨u, run, only, ?_, fun x other => ?_, fun j below => ?_⟩ <;> rw [thread]
  · simp only [Thread.setT, Thread.mend, mend_of_issues may (List.mem_cons_self ..)]
    rfl
  · exact Store.getD_setD_ne _ _ _ tiles fun same => other (Fin.ext same)
  · rw [← tileSet_byte (field_within ofs wd aligned) _ _ j below]
    exact congrArg (fun x : BitVec 512 => x.toNat / 256 ^ j % 256) (Store.getD_setD_same _ _ _ _ tiles)

theorem skTget_turns {d : Reg} {a : TReg} (aligned : ofs.val % 2 ^ wd.val = 0) (may : issues r t false [.sreg d] [.treg a] s) :
    turns (.skTget r t d a ofs wd) r t (fun k =>
      (k.setS d.val (BitVec.ofNat 64 ((k.getT a).toNat / 256 ^ ofs.val % 256 ^ 2 ^ wd.val))).step) s := by
  have formed : (Instr.skTget r t d a ofs wd).wf = true := decide_eq_true aligned
  refine turns_of_issueWf (g := fun k => (k.setS d.val (BitVec.ofNat 64 (leAt ofs.val (tWidth wd) (leBytes 64 (k.getT a).toNat)))).step)
    formed may rfl ?_
  simp only [leAt_eq, leNat_leBytes, tile_whole, tWidth]

end tiles

section reads
variable {i : Instr} {r : Rack} {t : Tid} {d a : Reg} {s : State}

/-- An engine instruction that issues and whose result is on its way (R296). -/
theorem turns_of_later {src : List LoadDest} {f : State → State} {v : DWord} (may : issues r t true [.sreg d] src s)
    (run : exec i s = .next (issue r t true [.sreg d] src f s))
    (value : f (issued r t s) = putLater r t d v (skWord i) (issued r t s)) : turns i r t (lateResult d v i) s := by
  rw [issue_of_issues may, value] at run
  exact ⟨_, run, threadOnly_modThread r t (lateResult d v i) s, getThread_modThread ..⟩

/-- A number up to 15 names a slot, in whatever state (R288). -/
theorem slotOk_of_number {v : DWord} {n q : Nat} (number : v.toNat = n) (bound : n < 16) (s : State) : slotOk q v false s = true := by
  simp only [slotOk, number, Bool.not_false, Bool.true_or, Bool.and_true, decide_eq_true_eq]
  omega

theorem skAccStat_turns {n : Nat} (bound : n < 16) (names : sreg (getThread r.val t.val s) a = BitVec.ofNat 64 n)
    (may : issues r t true [.sreg d] [.sreg a] s) : turns (.skAccStat r t d a) r t (lateResult d
      (BitVec.ofNat 64 ((getSlot r.val n s).st + 256 * ((getSlot r.val n s).pend % 65536))) (.skAccStat r t d a)) s := by
  refine turns_of_later may rfl ?_
  have number : ((getThread r.val t.val s).s' a).toNat = n := toNat_slotNumber bound names
  have ok := slotOk_of_number (q := r.val) number bound (issued r t s)
  simp only [issued_thread, ok, Bool.not_true, Bool.false_eq_true, if_false, number, getSlot_issued, Nat.reducePow]

/-- A number below 2^20 names a local sync object without any exception (R294). -/
theorem syncCause_none {v : DWord} (small : v.toNat < 2 ^ 20) (maySignal : Bool) (s : State) :
    opRemote v = false ∧ syncCause v maySignal s = none := by
  have near : opRemote v = false := by
    simp only [opRemote, bitAt, Nat.div_eq_of_lt small]
    rfl
  refine ⟨near, ?_⟩
  simp only [syncCause, near, Bool.false_and, Bool.false_eq_true, if_false]
  exact if_neg (by omega)

theorem skSyRd_turns (small : (sreg (getThread r.val t.val s) a).toNat < 2 ^ 20) (may : issues r t true [.sreg d] [.sreg a] s) :
    turns (.skSyRd r t d a) r t (lateResult d
      ((syncGet ((sreg (getThread r.val t.val s) a).toNat % 65536) s).setWidth 64) (.skSyRd r t d a)) s := by
  refine turns_of_later may rfl ?_
  obtain ⟨_, none'⟩ := syncCause_none small false (issued r t s)
  simp only [issued_thread]
  rw [show (getThread r.val t.val s).s' a = sreg (getThread r.val t.val s) a from rfl, none']
  rfl

theorem posUm_issued (r : Rack) (t : Tid) (s : State) : posUm (issued r t s) = posUm s := by
  rw [posUm, rget_issued (by decide), rget_issued (by decide)]
  rfl

theorem readInto_turns {f : State → DWord} {v : DWord} (may : issues r t true [.sreg d] [] s)
    (run : exec i s = .next (readInto r t d f i s)) (value : f (issued r t s) = v) : turns i r t (lateResult d v i) s :=
  turns_of_later may run (by rw [value])

theorem ofPkt_issued {p : PktId} {x : Pkt} (f : Pkt → Int) (own : (getThread r.val t.val s).pkt = some p) (found : findPkt p s = some x) :
    ofPkt r.val t.val f (issued r t s) = BitVec.ofInt 64 (f x) := by
  have found' : findPkt p (issued r t s) = some x := found
  rw [ofPkt, issued_thread, own, Option.bind_some, found']

end reads

/-- Settles O14. -/
theorem tileFieldsAndEngineReads : Obligations.TileFieldsAndEngineReads := by
  unfold Obligations.TileFieldsAndEngineReads
  refine ⟨fun r t ofs wd s aligned canonical => ⟨fun d a => skTset_writes aligned canonical, fun d a => skTget_turns aligned⟩,
    fun r t d s => ⟨fun a may => ⟨fun n bound names => skAccStat_turns bound names may, fun small => skSyRd_turns small may⟩,
      fun may => ⟨?_, ?_, fun p k own found => ⟨?_, ?_⟩⟩⟩⟩
  · exact readInto_turns may rfl (congrArg _ (posUm_issued r t s))
  · exact readInto_turns may rfl (BitVec.ofNat_toNat ..)
  · exact readInto_turns may rfl (ofPkt_issued _ own found)
  · exact readInto_turns may rfl ((ofPkt_issued _ own found).trans (BitVec.ofInt_natCast ..))

end Sys2Proof.Machine
end

section
/-! PROOFS. QT.REQ and ACC.WAIT (R285, R288, R290). -/

namespace Sys2Proof.Machine

theorem getRack_modThread (x r t : Nat) (f : Thread → Thread) (s : State) : getRack x (modThread r t f s) = getRack x s := rfl

section quantiser
variable {r : Rack} {t : Tid} {d a : Reg} {off : Nat} {s : State} (may : issues r t true [.sreg d] [.sreg a] s)
  (own : (sreg (getThread r.val t.val s) a).toNat = 0x2000000000 + off) (aligned : off % 32 = 0) (inside : off + 64 ≤ 0x80000)
include may own aligned inside

theorem exec_skQtReq : exec (.skQtReq r t d a) s = .next (
    if (getRack r.val s).qt.length < 16 then modThread r.val t.val (lateResult d 0 (.skQtReq r t d a))
      (modRack r.val (fun x => { x with qt := x.qt ++ [⟨off, [], (getThread r.val t.val s).pkt, 0, 0⟩] }) (issued r t s))
    else modThread r.val t.val (lateResult d 1 (.skQtReq r t d a)) (issued r t s)) := by
  have held : (getRack r.val (issued r t s)).qt = (getRack r.val s).qt := by
    rw [getRack_issued]
    rfl
  have window : ownWindow ((getThread r.val t.val s).s' a).toNat 64 = some off := ownWindow_own own aligned inside
  show execSkQtReq r t d a s = _
  rw [execSkQtReq, issue_of_issues may]
  simp only [issued_thread, window, held]
  split <;> rfl

theorem skQtReq_accepts (room : (getRack r.val s).qt.length < 16) :
    ∃ u, exec (.skQtReq r t d a) s = .next u ∧ onlyIn [.threads, .regs, .racks] s u ∧ otherThreads r.val t.val s u ∧
      otherRacks r.val s u ∧ getThread r.val t.val u = lateResult d 0 (.skQtReq r t d a) (getThread r.val t.val s) ∧
      getRack r.val u = { issuedRack r.val t.val s with
        qt := (getRack r.val s).qt ++ [⟨off, [], (getThread r.val t.val s).pkt, 0, 0⟩] } := by
  have run := exec_skQtReq may own aligned inside
  rw [if_pos room] at run
  have frame := (issued_onlyIn r t s).andThen
    (modRack_onlyIn r.val (fun x => { x with qt := x.qt ++ [⟨off, [], (getThread r.val t.val s).pkt, 0, 0⟩] }) (issued r t s))
  obtain ⟨threads, thread⟩ := modThread_after frame (by decide) r.val t.val (lateResult d 0 (.skQtReq r t d a))
  refine ⟨_, run, onlyIn_mono (frame.andThen (modThread_onlyIn ..)) (by decide), threads, ?_, thread, ?_⟩
  · exact otherRacks_trans (otherRacks_issued r t s) (otherRacks_setRack r.val _ _)
  · rw [getRack_modThread, getRack_modRack, getRack_issued]
    rfl

theorem skQtReq_full (full : (getRack r.val s).qt.length = 16) :
    turns (.skQtReq r t d a) r t (lateResult d 1 (.skQtReq r t d a)) s := by
  have run := exec_skQtReq may own aligned inside
  rw [if_neg (by omega)] at run
  exact ⟨_, run, threadOnly_modThread .., getThread_modThread ..⟩

end quantiser

section wait
variable {r : Rack} {t : Tid} {a : Reg} {n : Nat} {s : State}

theorem exec_skAccWait (bound : n < 16) (may : issues r t true [] [.sreg a] s)
    (names : sreg (getThread r.val t.val s) a = BitVec.ofNat 64 n) : exec (.skAccWait r t a) s = .next (
      if (getSlot r.val n s).pend = 0 then modThread r.val t.val Thread.step (issued r t s)
      else modThread r.val t.val (waits .waitCask (.acc n) (.skAccWait r t a) s.now) (issued r t s)) := by
  have number : ((getThread r.val t.val s).s' a).toNat = n := toNat_slotNumber bound names
  have ok := slotOk_of_number (q := r.val) number bound (issued r t s)
  show execSkAccWait r t a s = _
  rw [execSkAccWait, issue_of_issues may]
  simp only [issued_thread, ok, Bool.not_true, Bool.false_eq_true, if_false, number, getSlot_issued]
  split <;> rfl

theorem accWaitComplete_releases (st : (getThread r.val t.val s).st = .waitCask) (wait : (getThread r.val t.val s).wait = some (.acc n))
    (runs : rackStops r.val s = false) (idle : (getSlot r.val n s).pend = 0) :
    ∃ u, exec (.accWaitComplete r t) s = .next u ∧ onlyIn [.threads] s u ∧ otherThreads r.val t.val s u ∧
      getThread r.val t.val u = { (getThread r.val t.val s).step with st := .ready, wait := none } := by
  have run : exec (.accWaitComplete r t) s = .next (releasePast r.val t.val s) := by
    show execAccWaitComplete r t s = _
    simp only [execAccWaitComplete, wait, idle, if_true]
  refine ⟨_, run, modThread_onlyIn .., otherThreads_setThread _ _ _ s, ?_⟩
  rw [releasePast, getThread_modThread, wakeState_ready (by rw [st]; decide) runs]
  rfl

end wait

/-- Settles O15. -/
theorem quantiseRequestsAndAccWait : Obligations.QuantiseRequestsAndAccWait := by
  unfold Obligations.QuantiseRequestsAndAccWait
  refine ⟨fun r t d a off s may own aligned inside => ⟨skQtReq_accepts may own aligned inside, skQtReq_full may own aligned inside⟩,
    fun r t a n s bound => ⟨fun may names => ⟨fun idle => ?_, fun busy => ?_⟩, accWaitComplete_releases⟩⟩
  · have run := exec_skAccWait bound may names
    rw [if_pos idle] at run
    exact ⟨_, run, threadOnly_modThread .., getThread_modThread ..⟩
  · have run := exec_skAccWait bound may names
    rw [if_neg busy] at run
    exact ⟨_, run, threadOnly_modThread .., getThread_modThread ..⟩

end Sys2Proof.Machine
end

section
/-! SUPPORT. What a signal to a sync object changes: its count, its WRAP bit, the waits that it ends (R294, R359 to R361). -/

namespace Sys2Proof.Machine

/-! ### What one step of a signal may change -/

theorem sync_onlyIn (m : Store Word) (s : State) : onlyIn [.sync] s { s with sync := m } := by
  refine ⟨fun p other => ?_⟩
  cases p
  case sync => exact absurd List.mem_cons_self other
  all_goals rfl

theorem wraps_onlyIn (m : KeySet) (s : State) : onlyIn [.wraps] s { s with wraps := m } := by
  refine ⟨fun p other => ?_⟩
  cases p
  case wraps => exact absurd List.mem_cons_self other
  all_goals rfl

theorem latchWaits_onlyIn (s : State) : onlyIn [.rings] s (latchWaits s) := by
  refine ⟨fun p other => ?_⟩
  cases p
  case rings => exact absurd List.mem_cons_self other
  all_goals rfl

theorem releaseIf_onlyIn (o key : Nat) (s : State) : onlyIn [.threads] s (releaseIf o key s) := by
  unfold releaseIf
  split
  · split
    · exact modThread_onlyIn ..
    · exact onlyIn_refl ..
  · exact onlyIn_refl ..

/-- A thread that waits for nothing is released by no signal. -/
theorem releaseIf_idle {r t : Nat} {s : State} (idle : (getThread r t s).wait = none) (o key : Nat) :
    getThread r t (releaseIf o key s) = getThread r t s := by
  unfold releaseIf
  split
  case h_2 => rfl
  case h_1 o' target d b waiting =>
    split
    · have other : 64 * r + t ≠ 64 * (key / 64) + key % 64 := fun same => by
        have own : 64 * r + t = key := by omega
        rw [getThread, own, waiting] at idle
        cases idle
      exact congrArg (Option.getD · Thread.init) (Store.find_put_ne _ _ other)
    · rfl

/-- The threads that wait, each released where its object has reached its target. -/
def releaseAll (o : Nat) (keys : List Nat) (s : State) : State := keys.foldl (fun s k => releaseIf o k s) s

theorem releaseAll_onlyIn (o : Nat) (keys : List Nat) (s : State) : onlyIn [.threads] s (releaseAll o keys s) :=
  onlyIn_foldl _ (fun s k => releaseIf_onlyIn o k s) keys s

theorem releaseAll_idle {r t : Nat} (o : Nat) (keys : List Nat) {s : State} (idle : (getThread r t s).wait = none) :
    getThread r t (releaseAll o keys s) = getThread r t s := by
  induction keys generalizing s with
  | nil => rfl
  | cons key keys ih =>
    have kept := releaseIf_idle idle o key
    exact (ih (by rw [kept]; exact idle)).trans kept

/-! ### The count and the WRAP bit of a signal -/

/-- A signal's object counted: the sum, and WRAP with its event where the sum leaves the range of a count (R359). -/
def signalCounted (o : Nat) (sum : Int) (p : Option PktId) (s : State) : State :=
  let s' := { s with sync := Store.setD 0 o (BitVec.ofInt 32 ((syncGet o s).toNat + sum)) s.sync }
  if (syncGet o s).toNat + sum < 0 ∨ 2 ^ 32 ≤ (syncGet o s).toNat + sum then
    raiseEvent 0x0804 0 0 o p { s' with wraps := s'.wraps.add o }
  else s'

section signal
variable {o : Nat} {sum : Int} {p : Option PktId} {s : State}

theorem signal_eq : signal o sum p s =
    latchWaits (releaseAll o ((signalCounted o sum p s).threads.map (·.1)) (signalCounted o sum p s)) := by
  have range : (decide ((syncGet o s).toNat + sum < 0) || decide (0xFFFFFFFF < (syncGet o s).toNat + sum)) = true ↔
      (syncGet o s).toNat + sum < 0 ∨ 2 ^ 32 ≤ (syncGet o s).toNat + sum := by
    rw [Bool.or_eq_true, decide_eq_true_eq, decide_eq_true_eq]
    omega
  simp only [signal, range]
  rfl

theorem signalCounted_onlyIn : onlyIn (.sync :: .wraps :: eventParts) s (signalCounted o sum p s) := by
  have counted := sync_onlyIn (Store.setD 0 o (BitVec.ofInt 32 ((syncGet o s).toNat + sum)) s.sync) s
  unfold signalCounted
  split
  · exact onlyIn_mono ((counted.andThen (wraps_onlyIn (s.wraps.add o) _)).andThen (raiseEvent_onlyIn ..)) (by decide)
  · exact onlyIn_mono counted (by decide)

theorem signal_onlyIn : onlyIn (.threads :: .sync :: .wraps :: eventParts) s (signal o sum p s) := by
  rw [signal_eq]
  have released := signalCounted_onlyIn.andThen (releaseAll_onlyIn o ((signalCounted o sum p s).threads.map (·.1)) (signalCounted o sum p s))
  exact onlyIn_mono (released.andThen (latchWaits_onlyIn _)) (by decide)

/-- The waits that a signal ends change threads and rings alone. -/
theorem signal_after : onlyIn [.threads, .rings] (signalCounted o sum p s) (signal o sum p s) := by
  rw [signal_eq]
  exact (releaseAll_onlyIn ..).andThen (latchWaits_onlyIn _)

theorem signal_sync : (signal o sum p s).sync = Store.setD 0 o (BitVec.ofInt 32 ((syncGet o s).toNat + sum)) s.sync := by
  refine (signal_after.same .sync (by decide)).trans ?_
  unfold signalCounted
  split
  · exact (raiseEvent_onlyIn ..).same .sync (by decide)
  · rfl

theorem signal_wraps : (signal o sum p s).wraps =
    if (syncGet o s).toNat + sum < 0 ∨ 2 ^ 32 ≤ (syncGet o s).toNat + sum then s.wraps.add o else s.wraps := by
  refine (signal_after.same .wraps (by decide)).trans ?_
  unfold signalCounted
  split
  · exact (raiseEvent_onlyIn ..).same .wraps (by decide)
  · rfl

/-- A thread that waits for nothing is as it was. -/
theorem signal_idle {r t : Nat} (idle : (getThread r t s).wait = none) : getThread r t (signal o sum p s) = getThread r t s := by
  have counted : getThread r t (signalCounted o sum p s) = getThread r t s :=
    getThread_congr (signalCounted_onlyIn.same .threads (by decide)) r t
  rw [signal_eq]
  exact (releaseAll_idle o _ (by rw [counted]; exact idle)).trans counted

theorem signal_regs : otherRegs eventRegs s (signal o sum p s) := by
  refine otherRegs_trans (u := signalCounted o sum p s) ?_ fun off _ => by rw [signal_after.same .regs (by decide)]
  unfold signalCounted
  split
  · exact fun off other => raiseEvent_otherRegs _ _ _ _ _ _ off other
  · exact fun _ _ => rfl

end signal

theorem signedOf_toNat (v : Word) : signedOf 32 v.toNat = v.toInt := by
  have small := v.isLt
  rw [signedOf, BitVec.toInt, Nat.mod_eq_of_lt small]
  split_ifs <;> omega

/-- What a signal of a word adds to an object: the count, modulo 2³², and WRAP where the exact sum leaves its range (R294, R359). -/
theorem signal_adds {o : Nat} (v : Word) (p : Option PktId) {s : State} (canonical : Store.wf 0 s.sync = true) :
    (∀ x, syncGet x (signal o (signedOf 32 v.toNat) p s) = syncGet x s + if x = o then v else 0) ∧
      ((signal o (signedOf 32 v.toNat) p s).wraps.has o = true ↔
        s.wraps.has o = true ∨ (syncGet o s).toNat + v.toInt < 0 ∨ 2 ^ 32 ≤ (syncGet o s).toNat + v.toInt) := by
  rw [signedOf_toNat]
  refine ⟨fun x => ?_, ?_⟩
  · rw [syncGet, signal_sync]
    by_cases same : x = o
    · subst same
      rw [Store.getD_setD_same _ _ _ _ canonical, if_pos rfl, BitVec.ofInt_add, BitVec.ofInt_natCast, BitVec.ofNat_toNat,
        BitVec.setWidth_eq, BitVec.ofInt_toInt]
    · rw [Store.getD_setD_ne _ _ _ canonical same, if_neg same, add_zero]
      rfl
  · rw [signal_wraps]
    split
    next out => exact ⟨fun _ => .inr out, fun _ => by rw [KeySet.has, KeySet.add, Store.find_put_same]; rfl⟩
    next within => exact ⟨.inl, fun h => h.resolve_right within⟩

end Sys2Proof.Machine
end

section
/-! SUPPORT. Two sectors of one line written through a cache that has a way for it (R387, R392), and what an event leaves of a ring. -/

namespace Sys2Proof.Machine

/-- A line that is present, or whose set is not full, takes its way without an eviction. -/
theorem makeRoom_free {x : Nat} {m : Mem} (free : (m.cline.find x).isSome = true ∨ m.cline.length < 12) : makeRoom x m = (true, m, []) := by
  unfold makeRoom
  by_cases present : (m.cline.find x).isSome
  · rw [if_pos present]
  · have short : m.cline.length < 12 := free.resolve_left present
    have none' : setLines x m = [] := if_pos short
    rw [if_neg present, none']
    rfl

theorem putSector_free {sec : Nat} {s : State} (on : sliceOn (sec / 4) s = true)
    (free : (s.mem.cline.find (sec / 4)).isSome = true ∨ s.mem.cline.length < 12) (data : List Byte) :
    putSector sec data s = ({ s with mem := sectorCached sec data s.mem }, []) := by
  have made := makeRoom_free (x := sec / 4)
    (m := { s.mem with seals := s.mem.seals.drop (sec / 128), failed := s.mem.failed.drop sec }) free
  simp only [putSector, on, if_true, made]
  rfl

theorem writeSector_free {sec : Nat} {s : State} (on : sliceOn (sec / 4) s = true)
    (free : (s.mem.cline.find (sec / 4)).isSome = true ∨ s.mem.cline.length < 12) (data : List Byte) :
    writeSector sec data s = { s with mem := sectorCached sec data s.mem } := by
  rw [writeSector, putSector_free on free]
  exact poisonEvents_nil _

/-- 64 bytes on a 64-byte boundary lie in one line, and are written there alone. -/
theorem writeDram_line {a : Nat} {data : List Byte} {s : State} (aligned : a % 64 = 0) (length : data.length = 64)
    (on : sliceOn (a / 128) s = true) (free : s.mem.cline.length < 12) :
    onlyIn [.mem] s (writeDram a data s) ∧ (∀ j, j < 64 → peekByte (a + j) (writeDram a data s) = nthD 0 j data) ∧
      ∀ x, ¬ (a ≤ x ∧ x < a + 64) → peekByte x (writeDram a data s) = peekByte x s := by
  have line : a / 32 / 4 = a / 128 ∧ (a / 32 + 1) / 4 = a / 128 := by omega
  have first : writeSector (a / 32) ((data.drop 0).take 32) s = { s with mem := sectorCached (a / 32) ((data.drop 0).take 32) s.mem } :=
    writeSector_free (by rw [line.1]; exact on) (.inr free) _
  have second : writeSector (a / 32 + 1) ((data.drop 32).take 32) { s with mem := sectorCached (a / 32) ((data.drop 0).take 32) s.mem } =
      { s with mem := sectorCached (a / 32 + 1) ((data.drop 32).take 32) (sectorCached (a / 32) ((data.drop 0).take 32) s.mem) } := by
    refine writeSector_free (by rw [line.2]; exact on) (.inl ?_) _
    rw [line.2, ← line.1]
    exact congrArg Option.isSome (Store.find_put_same ..)
  have written : writeDram a data s =
      { s with mem := sectorCached (a / 32 + 1) ((data.drop 32).take 32) (sectorCached (a / 32) ((data.drop 0).take 32) s.mem) } := by
    rw [writeDram, length, ← second, ← first]
    rfl
  have peeks : ∀ x, peekByte x (writeDram a data s) = if x / 32 = a / 32 + 1 then nthD 0 (32 + x % 32) data
      else if x / 32 = a / 32 then nthD 0 (x % 32) data else peekByte x s := fun x => by
    rw [written]
    refine (peekByte_sectorCached _ _ { s with mem := sectorCached (a / 32) ((data.drop 0).take 32) s.mem } x).trans ?_
    have upper := nthD_sectorCut (data := data) (k := 1) (j := x % 32) (by omega) (Nat.mod_lt _ (by decide))
    have lower := nthD_sectorCut (data := data) (k := 0) (j := x % 32) (by omega) (Nat.mod_lt _ (by decide))
    rw [Nat.mul_one] at upper
    rw [Nat.mul_zero, Nat.zero_add] at lower
    rw [peekByte_sectorCached, upper, lower]
  refine ⟨written ▸ mem_onlyIn _ s, fun j below => ?_, fun x outside => ?_⟩
  · rw [peeks]
    rcases Nat.lt_or_ge j 32 with low | high
    · rw [if_neg (by omega), if_pos (by omega)]
      congr 1
      omega
    · rw [if_pos (by omega)]
      congr 1
      omega
  · rw [peeks, if_neg (by omega), if_neg (by omega)]

/-- An event counts on its packet and touches no ring otherwise. -/
theorem getRing_raiseEvent_tail (code unit aux detail : Nat) (p : Option PktId) (n : Nat) (s : State) :
    (getRing n (raiseEvent code unit aux detail p s)).tail = (getRing n s).tail := by
  rw [raiseEvent, getRing_congr (((postEvent_onlyIn ..).andThen (poisonEvents_onlyIn ..)).same .rings (by decide))]
  cases p with
  | none => rfl
  | some p =>
    by_cases own : n = p.ring.val
    · rw [own, modPktOf, modPkt, getRing_modRing]
    · rw [modPktOf, modPkt, getRing_modRing_ne _ _ own]

end Sys2Proof.Machine
end

section
/-! PROOFS. SY.SIG, SY.WAIT, SY.WAITR, RG.PUSH and RG.STAT (R294 to R296, R344, R356, R359, R360). -/

namespace Sys2Proof.Machine

section sync
variable {i : Instr} {r : Rack} {t : Tid} {d a b : Reg} {s : State}

theorem s'_eq_sreg (k : Thread) (a : Reg) : k.s' a = sreg k a := rfl

theorem syncGet_issued (o : Nat) (r : Rack) (t : Tid) (s : State) : syncGet o (issued r t s) = syncGet o s := rfl

/-- SY.SIG on an object of the device: the thread goes on, then the signal. -/
theorem exec_skSySig (may : issues r t true [] [.sreg a, .sreg b] s) (small : (sreg (getThread r.val t.val s) a).toNat < 2 ^ 20) :
    exec (.skSySig r t a b) s = .next (ringProgress (getThread r.val t.val s).pkt (signal ((sreg (getThread r.val t.val s) a).toNat % 65536)
      (signedOf 32 ((sreg (getThread r.val t.val s) b).setWidth 32).toNat) (getThread r.val t.val s).pkt
      (modThread r.val t.val Thread.step (issued r t s)))) := by
  obtain ⟨near, -⟩ := syncCause_none small true s
  obtain ⟨-, none'⟩ := syncCause_none small true (issued r t s)
  show execSkSySig r t a b s = _
  simp only [execSkSySig, s'_eq_sreg, near, Bool.and_false, Bool.false_and, Bool.false_eq_true, if_false, issue_of_issues may,
    issued_thread, none', BitVec.toNat_setWidth]
  rfl

theorem skSySig_signals (may : issues r t true [] [.sreg a, .sreg b] s) (small : (sreg (getThread r.val t.val s) a).toNat < 2 ^ 20)
    (canonical : Store.wf 0 s.sync = true) (idle : (getThread r.val t.val s).wait = none) :
    let k := getThread r.val t.val s
    let o := (sreg k a).toNat % 65536
    let target := (sreg k b).setWidth 32
    ∃ u, exec (.skSySig r t a b) s = .next u ∧ onlyIn (.threads :: .racks :: .sync :: .wraps :: eventParts) s u ∧
      syncGet o u = syncGet o s + (sreg k b).setWidth 32 ∧ (∀ m, m ≠ o → syncGet m u = syncGet m s) ∧
      getThread r.val t.val u = k.step ∧
      (u.wraps.has o = true ↔ s.wraps.has o = true ∨
        ((syncGet o s).toNat + target.toInt < 0 ∨ 2 ^ 32 ≤ (syncGet o s).toNat + target.toInt)) := by
  intro k o target
  have run := exec_skSySig may small
  have stepped := (issued_onlyIn r t s).andThen (modThread_onlyIn r.val t.val Thread.step (issued r t s))
  have thread : getThread r.val t.val (modThread r.val t.val Thread.step (issued r t s)) = k.step := getThread_modThread ..
  generalize goes : modThread r.val t.val Thread.step (issued r t s) = w at run stepped thread
  have same : w.sync = s.sync := stepped.same .sync (by decide)
  have marks : w.wraps = s.wraps := stepped.same .wraps (by decide)
  obtain ⟨counts, wraps⟩ := signal_adds (o := o) target k.pkt (s := w) (by rw [same]; exact canonical)
  have before : ∀ x, syncGet x w = syncGet x s := fun x => by rw [syncGet, same, syncGet]
  have told := ringProgress_onlyIn k.pkt (signal o (signedOf 32 target.toNat) k.pkt w)
  have after : ∀ x, syncGet x (ringProgress k.pkt (signal o (signedOf 32 target.toNat) k.pkt w)) =
      syncGet x (signal o (signedOf 32 target.toNat) k.pkt w) := fun x => by rw [syncGet, told.same .sync (by decide), syncGet]
  refine ⟨_, run, ?_, ?_, fun m other => ?_, ?_, ?_⟩
  · exact onlyIn_mono ((stepped.andThen signal_onlyIn).andThen told) (by decide)
  · rw [after, counts, if_pos rfl, before]
  · rw [after, counts, if_neg other, before, add_zero]
  · have still : (getThread r.val t.val w).wait = none := by rw [thread]; exact idle
    rw [getThread_congr (told.same .threads (by decide)), signal_idle still, thread]
  · rw [told.same .wraps (by decide), wraps, marks, before]

/-- SY.WAIT and SY.WAITR look at the count as it is. -/
theorem syWait_looks {remote : Bool} (may : issues r t true [.sreg d] [.sreg a, .sreg b] s)
    (small : (sreg (getThread r.val t.val s) a).toNat < 2 ^ 20) (run : exec i s = .next (syWait r t d a b remote i s)) :
    let o := (sreg (getThread r.val t.val s) a).toNat % 65536
    let target : Word := (sreg (getThread r.val t.val s) b).setWidth 32
    (target ≤ syncGet o s → turns i r t (lateResult d 0 i) s) ∧
      (syncGet o s < target → turns i r t (waits .waitSync (.sync o target d remote) i s.now) s) := by
  intro o target
  obtain ⟨-, none'⟩ := syncCause_none small false (issued r t s)
  have number : (sreg (getThread r.val t.val s) b).toNat % 2 ^ 32 = target.toNat := (BitVec.toNat_setWidth ..).symm
  have word : BitVec.ofNat 32 target.toNat = target := by rw [BitVec.ofNat_toNat, BitVec.setWidth_eq]
  have looks : exec i s = .next (if target.toNat ≤ (syncGet o s).toNat then modThread r.val t.val (lateResult d 0 i) (issued r t s)
      else modThread r.val t.val (waits .waitSync (.sync o target d remote) i s.now) (issued r t s)) := by
    rw [run, syWait, issue_of_issues may]
    simp only [issued_thread, s'_eq_sreg, none', number, word, syncGet_issued]
    rfl
  constructor
  · intro reached
    rw [if_pos (BitVec.le_def.mp reached)] at looks
    exact ⟨_, looks, threadOnly_modThread .., getThread_modThread ..⟩
  · intro short
    rw [if_neg (Nat.not_le.mpr (BitVec.lt_def.mp short))] at looks
    exact ⟨_, looks, threadOnly_modThread .., getThread_modThread ..⟩

end sync

/-- A ring after the device has put a packet at its tail (R344). -/
def Ring.pushed (g : Ring) : Ring := { g with tail := g.tail + 1, wbDue := true }

section rings
variable {r : Rack} {t : Tid} {d a b : Reg} {n : RingId} {s : State} (may : issues r t true [.sreg d] [.sreg a, .vreg b] s)
  (names : sreg (getThread r.val t.val s) a = BitVec.ofNat 64 n.val)
include may names

theorem exec_skRgPush : exec (.skRgPush r t d a b) s = .next (
    let g := getRing n.val s
    if !g.takes || !g.deviceFed then modThread r.val t.val (lateResult d 1 (.skRgPush r t d a b))
      (raiseEvent 0x0802 0 0 0 (getThread r.val t.val s).pkt (issued r t s))
    else if (g.tail - g.head).toNat = 2 ^ g.ctx.log2 then modThread r.val t.val (lateResult d 1 (.skRgPush r t d a b)) (issued r t s)
    else modThread r.val t.val (lateResult d 0 (.skRgPush r t d a b)) (modRing n.val Ring.pushed
      (writeDram (g.ctx.base + 64 * (g.tail.toNat % 2 ^ g.ctx.log2)) (vecBytes 64 ((getThread r.val t.val s).getV b)) (issued r t s)))) := by
  have bound := n.isLt
  have number : ((getThread r.val t.val s).s' a).toNat = n.val := by
    rw [s'_eq_sreg, names, BitVec.toNat_ofNat, Nat.mod_eq_of_lt (by omega)]
  have ring : getRing n.val (issued r t s) = getRing n.val s := rfl
  show execSkRgPush r t d a b s = _
  rw [execSkRgPush, issue_of_issues may]
  simp only [issued_thread, number, ring]
  rw [if_neg (by omega)]
  split
  · rfl
  · split <;> rfl

theorem skRgPush_pushes (takes : (getRing n.val s).takes = true) (fed : (getRing n.val s).deviceFed = true)
    (room : ((getRing n.val s).tail - (getRing n.val s).head).toNat ≠ 2 ^ (getRing n.val s).ctx.log2) (lines : s.mem.cline.length < 12) :
    let k := getThread r.val t.val s
    let g := getRing n.val s
    let addr := g.ctx.base + 64 * (g.tail.toNat % 2 ^ g.ctx.log2)
    addr % 64 = 0 → sliceOn (addr / 128) s = true →
    ∃ u, exec (.skRgPush r t d a b) s = .next u ∧
      onlyIn [.threads, .racks, .regs, .rings, .mem, .armed, .sent, .px] s u ∧ otherThreads r.val t.val s u ∧
      otherRings n.val s u ∧ getThread r.val t.val u = lateResult d 0 (.skRgPush r t d a b) k ∧
      getRing n.val u = { g with tail := g.tail + 1, wbDue := true } ∧
      (∀ j, j < 64 → peekByte (addr + j) u = BitVec.ofNat 8 ((k.getV b).toNat / 256 ^ j)) ∧
      ∀ x, ¬ (addr ≤ x ∧ x < addr + 64) → peekByte x u = peekByte x s := by
  intro k g addr aligned on
  have run : exec (.skRgPush r t d a b) s = .next (modThread r.val t.val (lateResult d 0 (.skRgPush r t d a b))
      (modRing n.val Ring.pushed (writeDram addr (vecBytes 64 (k.getV b)) (issued r t s)))) := by
    simpa only [takes, fed, Bool.not_true, Bool.or_self, Bool.false_eq_true, if_false, if_neg room] using exec_skRgPush may names
  obtain ⟨written, inside, outside⟩ := writeDram_line (s := issued r t s) aligned
    (show (vecBytes 64 (k.getV b)).length = 64 from leBytes_length ..) on lines
  generalize writeDram addr (vecBytes 64 (k.getV b)) (issued r t s) = w at run written inside outside
  have stored := (issued_onlyIn r t s).andThen written
  have rings : w.rings = s.rings := stored.same .rings (by decide)
  have frame := stored.andThen (modRing_onlyIn n.val Ring.pushed w)
  obtain ⟨threads, thread⟩ := modThread_after frame (by decide) r.val t.val (lateResult d 0 (.skRgPush r t d a b))
  refine ⟨_, run, onlyIn_mono (frame.andThen (modThread_onlyIn ..)) (by decide), threads, fun m other => ?_, thread, ?_, ?_, outside⟩
  · exact (otherRings_setRing n.val _ w m other).trans (congrArg (Store.find m) rings)
  · have ring : getRing n.val (modRing n.val Ring.pushed w) = Ring.pushed (getRing n.val w) := getRing_modRing ..
    rw [getRing_congr rings] at ring
    exact ring
  · exact fun j below => (inside j below).trans (leBytes_byte 64 _ below)

theorem skRgPush_refused (closed : (getRing n.val s).takes = false ∨ (getRing n.val s).deviceFed = false) :
    ∃ u, exec (.skRgPush r t d a b) s = .next u ∧ onlyIn (.threads :: .racks :: eventParts) s u ∧
      getThread r.val t.val u = lateResult d 1 (.skRgPush r t d a b) (getThread r.val t.val s) ∧
      (getRing n.val u).tail = (getRing n.val s).tail := by
  have run := exec_skRgPush may names
  have shut : (!(getRing n.val s).takes || !(getRing n.val s).deviceFed) = true := by
    rcases closed with closed | closed <;> simp [closed]
  simp only [shut, if_true] at run
  have frame := (issued_onlyIn r t s).andThen (raiseEvent_onlyIn 0x0802 0 0 0 (getThread r.val t.val s).pkt (issued r t s))
  obtain ⟨-, thread⟩ := modThread_after frame (by decide) r.val t.val (lateResult d 1 (.skRgPush r t d a b))
  exact ⟨_, run, onlyIn_mono (frame.andThen (modThread_onlyIn ..)) (by decide), thread, getRing_raiseEvent_tail 0x0802 0 0 0 _ n.val (issued r t s)⟩

theorem skRgPush_full (takes : (getRing n.val s).takes = true) (fed : (getRing n.val s).deviceFed = true)
    (full : ((getRing n.val s).tail - (getRing n.val s).head).toNat = 2 ^ (getRing n.val s).ctx.log2) :
    turns (.skRgPush r t d a b) r t (lateResult d 1 (.skRgPush r t d a b)) s := by
  have run := exec_skRgPush may names
  simp only [takes, fed, Bool.not_true, Bool.or_self, Bool.false_eq_true, if_false, if_pos full] at run
  exact ⟨_, run, threadOnly_modThread .., getThread_modThread ..⟩

end rings

theorem skRgStat_tells {r : Rack} {t : Tid} {a : Reg} {s : State} {p : PktId} {x : Pkt} (may : issues r t true [] [.sreg a] s)
    (own : (getThread r.val t.val s).pkt = some p) (found : findPkt p s = some x) :
    ∃ u, exec (.skRgStat r t a) s = .next u ∧ onlyIn [.threads, .racks, .regs, .rings] s u ∧
      getThread r.val t.val u = (getThread r.val t.val s).step ∧
      findPkt p u = some { x with kstatus := x.kstatus ||| (sreg (getThread r.val t.val s) a).setWidth 32 } := by
  have run : exec (.skRgStat r t a) s = .next (modThread r.val t.val Thread.step (modPkt p
      (fun k => { k with kstatus := k.kstatus ||| ((getThread r.val t.val s).s' a).setWidth 32 }) (issued r t s))) := by
    show execSkRgStat r t a s = _
    rw [execSkRgStat, issue_of_issues may]
    simp only [issued_thread, own]
    rfl
  have frame := (issued_onlyIn r t s).andThen (modPkt_onlyIn p
    (fun k => { k with kstatus := k.kstatus ||| ((getThread r.val t.val s).s' a).setWidth 32 }) (issued r t s))
  obtain ⟨-, thread⟩ := modThread_after frame (by decide) r.val t.val Thread.step
  refine ⟨_, run, onlyIn_mono (frame.andThen (modThread_onlyIn ..)) (by decide), thread, ?_⟩
  refine (findPkt_modPkt p (fun k => { k with kstatus := k.kstatus ||| ((getThread r.val t.val s).s' a).setWidth 32 }) (issued r t s)
    fun _ => rfl).trans ?_
  rw [show findPkt p (issued r t s) = some x from found]
  rfl

/-- Settles O18. -/
theorem signalsWaitsAndRingPushes : Obligations.SignalsWaitsAndRingPushes := by
  unfold Obligations.SignalsWaitsAndRingPushes
  refine ⟨fun r t d a b s may => ?_, fun r t d a b n s may => ?_⟩
  · intro k o target small
    have writes : issues r t true [] [.sreg a, .sreg b] s := issues_of_subset may (List.nil_subset _) (List.Subset.refl _)
    have here := syWait_looks (i := .skSyWait r t d a b) may small rfl
    have away := syWait_looks (i := .skSyWaitr r t d a b) may small rfl
    exact ⟨skSySig_signals writes small, fun reached => ⟨here.1 reached, away.1 reached⟩, fun short => ⟨here.2 short, away.2 short⟩⟩
  · intro k g addr names
    have reads : issues r t true [] [.sreg a] s := issues_of_subset may (List.nil_subset _) (by simp)
    exact ⟨fun takes fed room lines aligned on _ => skRgPush_pushes may names takes fed room lines aligned on,
      skRgPush_full may names, skRgPush_refused may names, fun p x own found => skRgStat_tells reads own found⟩

end Sys2Proof.Machine
end

section
/-! SUPPORT. A message taken out of a port's receive buffer, and one sent on its way (R426 to R433). -/

namespace Sys2Proof.Machine

/-! ### A message taken (R426) -/

section taken
variable (via : Via) (s : State)

theorem takeMsg_onlyIn : onlyIn [.bv, .sent] s (takeMsg via s) := by
  unfold takeMsg
  split
  · exact onlyIn_refl ..
  · split
    · exact (bv_onlyIn _ s).andThen (respond_onlyIn ..)
    · exact onlyIn_mono (bv_onlyIn _ s) (by decide)

/-- Of the links, only the receive buffers change. -/
theorem takeMsg_bv : (takeMsg via s).bv = { s.bv with ports := (takeMsg via s).bv.ports } := by
  unfold takeMsg
  split
  · rfl
  · split <;> rfl

theorem putRx_eq (vc : Fin 2) (l : List (List BvMsg)) (k : Port) : ∃ l0 l1, k.putRx vc l = { k with rx0 := l0, rx1 := l1 } := by
  unfold Port.putRx
  split
  · exact ⟨l, k.rx1, rfl⟩
  · exact ⟨k.rx0, l, rfl⟩

theorem getPort_modPort_putRx (p q : Nat) (vc : Fin 2) (l : List (List BvMsg)) :
    ∃ l0 l1, getPort p (modPort q (Port.putRx vc l) s) = { getPort p s with rx0 := l0, rx1 := l1 } := by
  by_cases own : p = q
  · obtain ⟨l0, l1, put⟩ := putRx_eq vc l (getPort q s)
    refine ⟨l0, l1, ?_⟩
    rw [own, ← put]
    exact congrArg (Option.getD · Port.init) (Store.find_put_same ..)
  · exact ⟨(getPort p s).rx0, (getPort p s).rx1, congrArg (Option.getD · Port.init) (Store.find_put_ne _ _ own)⟩

/-- A port but for its receive buffers is as it was. -/
theorem getPort_takeMsg (p : Nat) : ∃ l0 l1, getPort p (takeMsg via s) = { getPort p s with rx0 := l0, rx1 := l1 } := by
  unfold takeMsg
  split
  · exact ⟨_, _, rfl⟩
  · split
    · exact getPort_modPort_putRx s p via.port.val via.vc _
    · exact getPort_modPort_putRx s p via.port.val via.vc _

theorem behindPort_takeMsg (m p : Nat) : behindPort m p (takeMsg via s) = behindPort m p s := by
  obtain ⟨l0, l1, port⟩ := getPort_takeMsg via s p
  have regs : (takeMsg via s).regs = s.regs := (takeMsg_onlyIn via s).same .regs (by decide)
  have valid : routeValid m (takeMsg via s) = routeValid m s := congrArg (flagOf 31) (rget_congr regs ..)
  have route : routePort m (takeMsg via s) = routePort m s := congrArg (fieldOf 1 0) (rget_congr regs ..)
  have state : (getPort p (takeMsg via s)).st = (getPort p s).st := by rw [port]
  simp only [behindPort, valid, route, state]

/-- What counts as the loss of a member looks at no receive buffer. -/
theorem losesMember_takeMsg (m : Nat) (c : Instr) : losesMember m (takeMsg via s) c = losesMember m s c := by
  have regs : (takeMsg via s).regs = s.regs := (takeMsg_onlyIn via s).same .regs (by decide)
  have now : (takeMsg via s).now = s.now := (takeMsg_onlyIn via s).same .clock (by decide)
  have peers : (takeMsg via s).bv.peers = s.bv.peers := by rw [takeMsg_bv]
  have own : ownMember (takeMsg via s) = ownMember s := congrArg (fieldOf 3 0) (rget_congr regs ..)
  have route : routePort m (takeMsg via s) = routePort m s := congrArg (fieldOf 1 0) (rget_congr regs ..)
  have port : ∀ p, (getPort p (takeMsg via s)).lastRx = (getPort p s).lastRx ∧
      (getPort p (takeMsg via s)).replaying = (getPort p s).replaying ∧ (getPort p (takeMsg via s)).fails = (getPort p s).fails := by
    intro p
    obtain ⟨l0, l1, same⟩ := getPort_takeMsg via s p
    rw [same]
    exact ⟨rfl, rfl, rfl⟩
  unfold losesMember
  simp only [behindPort_takeMsg, now, peers, own, route, port]

end taken

/-! ### A message on its way (R428, R431) -/

theorem sendFlit_onlyIn (p : Nat) (vc1 : Bool) (m : HostMsg) (s : State) : onlyIn [.bv, .sent] s (sendFlit p vc1 m s) := by
  unfold sendFlit
  split
  · exact (bv_onlyIn _ s).andThen (respond_onlyIn ..)
  · exact onlyIn_mono (bv_onlyIn _ s) (by decide)

theorem ackPeer_onlyIn (m id : Nat) (accepted : Bool) (s : State) : onlyIn [.bv, .sent] s (ackPeer m id accepted s) := by
  unfold ackPeer routeMsg
  split
  · exact sendFlit_onlyIn ..
  · exact onlyIn_refl ..

/-- An acknowledgement that can leave at once is the last message sent. -/
theorem ackPeer_last {m : Nat} {s : State} (can : answerable m s) (id : Nat) (accepted : Bool) :
    (ackPeer m id accepted s).sent.getLast? =
      some (.burivo (routePort m s) (routeVc1 m s) (ownMember s) m 0 (.ack id accepted)) := by
  obtain ⟨up, room⟩ := can
  rw [ackPeer, routeMsg, if_pos up, Bool.false_or, sendFlit, if_pos room]
  exact List.getLast?_concat ..

end Sys2Proof.Machine
end

section
/-! PROOFS. Signals of the host and of other members, SY_SEL, and the remote-wait timeout (R295, R361, R362, R364, R365, R435, R438). -/

namespace Sys2Proof.Machine

/-- A signal of a word has reached an object, and no other object changes (R359). -/
def Signalled (s : State) (o : Nat) (v : Word) (u : State) : Prop :=
  (∀ x, syncGet x u = syncGet x s + if x = o then v else 0) ∧
    (u.wraps.has o = true ↔ s.wraps.has o = true ∨ (syncGet o s).toNat + v.toInt < 0 ∨ 2 ^ 32 ≤ (syncGet o s).toNat + v.toInt)

theorem Signalled.congr {s w u x : State} {o : Nat} {v : Word} (h : Signalled w o v u) (sync : w.sync = s.sync) (wraps : w.wraps = s.wraps)
    (sync' : x.sync = u.sync) (wraps' : x.wraps = u.wraps) : Signalled s o v x := by
  have before : ∀ y, syncGet y w = syncGet y s := fun y => by rw [syncGet, sync, syncGet]
  have after : ∀ y, syncGet y x = syncGet y u := fun y => by rw [syncGet, sync', syncGet]
  unfold Signalled at h ⊢
  simp only [before, wraps] at h
  simpa only [after, wraps'] using h

theorem hostSignal_signals {v : Word} {s : State} (canonical : Store.wf 0 s.sync = true) (reached : hostReaches (regOff .SY_SIGNAL 0 0) s) :
    ∃ u, exec (.hostSignal v) s = .next u ∧ onlyIn (.threads :: .sync :: .wraps :: eventParts) s u ∧
      Signalled s (rfield .SY_SEL 0 0 15 0 s) v u :=
  ⟨_, congrArg Host.Outcome.next (hostWrite_of_hostReaches reached _), signal_onlyIn, signal_adds v none canonical⟩

section remote
variable {via : Via} {m : Member} {o : BitVec 16} {v : Word} {s : State} (next : hasMsg via m (.signal o v) s = true)
  (own : via.dest.val = ownMember s)
include next own

theorem exec_remoteSignalArrive : exec (.remoteSignalArrive via m o v) s = .next (
    if memberPresent m.val s && !s.pending.any (losesMember m.val s) then
      ackPeer m.val via.id true (signal o.toNat (signedOf 32 v.toNat) none (heardFrom m.val (takeMsg via s)))
    else takeMsg via s) := by
  have present : memberPresent m.val (takeMsg via s) = memberPresent m.val s := by rw [memberPresent, takeMsg_bv, memberPresent]
  have queue : (takeMsg via s).pending = s.pending := (takeMsg_onlyIn via s).same .queue (by decide)
  have loses : losesMember m.val (takeMsg via s) = losesMember m.val s := funext (losesMember_takeMsg via s m.val)
  show execRemoteSignalArrive via m o v s = _
  rw [execRemoteSignalArrive, arrive, next, Bool.not_true, if_neg Bool.false_ne_true, if_pos own, present, queue, loses]

theorem remoteSignalArrive_signals (canonical : Store.wf 0 s.sync = true) (present : memberPresent m.val s = true)
    (kept : ∀ c ∈ s.pending, losesMember m.val s c = false) :
    ∃ u, exec (.remoteSignalArrive via m o v) s = .next u ∧ onlyIn (.threads :: .sync :: .wraps :: .bv :: eventParts) s u ∧
      Signalled s o.toNat v u ∧ (answerable m.val s →
        u.sent.getLast? = some (.burivo (routePort m.val s) (routeVc1 m.val s) (ownMember s) m.val 0 (.ack via.id true))) := by
  have run := exec_remoteSignalArrive next own
  have stays : s.pending.any (losesMember m.val s) = false := List.any_eq_false.mpr fun c hc => by simp [kept c hc]
  rw [present, stays, Bool.not_false, Bool.and_self, if_pos rfl] at run
  have heard : onlyIn [.bv, .sent] s (heardFrom m.val (takeMsg via s)) :=
    onlyIn_trans (takeMsg_onlyIn via s) (onlyIn_mono (bv_onlyIn _ _) (by decide))
  have ports : ∀ p, getPort p (heardFrom m.val (takeMsg via s)) = getPort p (takeMsg via s) := fun _ => rfl
  generalize heardFrom m.val (takeMsg via s) = w at run heard ports
  have sync : w.sync = s.sync := heard.same .sync (by decide)
  have signals := signal_onlyIn (o := o.toNat) (sum := signedOf 32 v.toNat) (p := none) (s := w)
  have adds := signal_adds (o := o.toNat) v none (s := w) (by rw [sync]; exact canonical)
  have regs : otherRegs eventRegs s (signal o.toNat (signedOf 32 v.toNat) none w) :=
    otherRegs_trans (fun _ _ => by rw [heard.same .regs (by decide)]) signal_regs
  generalize signal o.toNat (signedOf 32 v.toNat) none w = x at run signals adds regs
  have acked := ackPeer_onlyIn m.val via.id true x
  refine ⟨_, run, onlyIn_mono ((heard.andThen signals).andThen acked) (by decide), ?_, fun can => ?_⟩
  · exact Signalled.congr adds sync (heard.same .wraps (by decide)) (acked.same .sync (by decide)) (acked.same .wraps (by decide))
  · have apart : ∀ m : Fin 16, regOff .BV_ROUTE 0 m.val ∉ eventRegs := by decide
    have route : rget .BV_ROUTE 0 m.val x = rget .BV_ROUTE 0 m.val s := rget_of_otherRegs regs _ _ _ (apart m)
    have ident : rget .BV_IDENT 0 0 x = rget .BV_IDENT 0 0 s := rget_of_otherRegs regs _ _ _ (by decide)
    have port : routePort m.val x = routePort m.val s := congrArg (fieldOf 1 0) route
    have channel : routeVc1 m.val x = routeVc1 m.val s := congrArg (flagOf 30) route
    have valid : routeValid m.val x = routeValid m.val s := congrArg (flagOf 31) route
    have member : ownMember x = ownMember s := congrArg (fieldOf 3 0) ident
    obtain ⟨l0, l1, buffers⟩ := getPort_takeMsg via s (routePort m.val s)
    have link : getPort (routePort m.val s) x = { getPort (routePort m.val s) s with rx0 := l0, rx1 := l1 } := by
      rw [← buffers, ← ports, getPort, signals.same .bv (by decide), getPort]
    have can' : answerable m.val x := by
      obtain ⟨up, room⟩ := can
      refine ⟨?_, ?_⟩
      · rw [routeUp, valid, port, link]
        exact up
      · rw [port, channel, link]
        exact room
    rw [ackPeer_last can', port, channel, member]

theorem remoteSignalArrive_ignored (absent : memberPresent m.val s = false) :
    ∃ u, exec (.remoteSignalArrive via m o v) s = .next u ∧ onlyIn [.bv, .sent] s u := by
  have run := exec_remoteSignalArrive next own
  rw [absent, Bool.false_and, if_neg Bool.false_ne_true] at run
  exact ⟨_, run, takeMsg_onlyIn via s⟩

end remote

/-- A key dropped from a set. -/
theorem has_drop {m : KeySet} (rises : Store.risesFrom 0 m = true) (k x : Nat) :
    KeySet.has x (Store.drop k m) = (m.has x && !decide (x = k)) := by
  by_cases same : x = k
  · rw [KeySet.has, same, Store.find_drop_same k m rises]
    simp
  · rw [KeySet.has, Store.find_drop_ne m rises same, decide_eq_false same, Bool.not_false, Bool.and_true, KeySet.has]

theorem sySelWrite_selects {v : Word} {s : State} (reached : hostReaches (regOff .SY_SEL 0 0) s) (rises : Store.risesFrom 0 s.wraps = true) :
    ∃ u, exec (.sySelWrite v) s = .next u ∧ onlyIn [.regs, .wraps] s u ∧ otherRegs [regOff .SY_SEL 0 0] s u ∧
      rfield .SY_SEL 0 0 15 0 u = fieldOf 15 0 v ∧ ∀ o, u.wraps.has o = (s.wraps.has o && !(flagOf 31 v && decide (o = fieldOf 15 0 v))) := by
  have selected : rfield .SY_SEL 0 0 15 0 (rset .SY_SEL 0 0 (BitVec.ofNat 32 (fieldOf 15 0 v)) s) = fieldOf 15 0 v := by
    rw [rfield, rget_rset]
    simp only [fieldOf, bits, BitVec.toNat_ofNat]
    omega
  have stored := rset_onlyIn .SY_SEL 0 0 (BitVec.ofNat 32 (fieldOf 15 0 v)) s
  refine ⟨_, congrArg Host.Outcome.next (hostWrite_of_hostReaches reached _), ?_⟩
  unfold sySelect
  cases clear : flagOf 31 v with
  | false =>
    refine ⟨onlyIn_mono stored (by decide), otherRegs_rset _ _ _ _ s, selected, fun o => ?_⟩
    rw [Bool.false_and, Bool.not_false, Bool.and_true]
    rfl
  | true =>
    refine ⟨stored.andThen (wraps_onlyIn _ _), otherRegs_rset _ _ _ _ s, selected, fun o => ?_⟩
    rw [Bool.true_and]
    exact has_drop rises _ o

theorem remoteWaitTimeout_ends {r : Rack} {t : Tid} {o : Nat} {target : Word} {d : Reg} {s : State}
    (wait : (getThread r.val t.val s).wait = some (.sync o target d true))
    (late : (getThread r.val t.val s).since + rfield .BV_RWAIT_TMO 0 0 19 0 s * 200000 ≤ s.now) :
    ∃ u, exec (.remoteWaitTimeout (.thread r t)) s = .next u ∧ onlyIn [.threads] s u ∧ otherThreads r.val t.val s u ∧
      getThread r.val t.val u = { (getThread r.val t.val s).setS d.val 1 with
        st := if (getThread r.val t.val s).st = .held ∨ rackStops r.val s = true then .held else .ready
        wait := none
        pc := (getThread r.val t.val s).pc + 4 } := by
  have run : exec (.remoteWaitTimeout (.thread r t)) s = .next (releaseWith r.val t.val d 1 s) := by
    show execRemoteWaitTimeout (.thread r t) s = _
    simp only [execRemoteWaitTimeout, wait, rwaitOver, late, decide_true, if_true]
  refine ⟨_, run, modThread_onlyIn .., otherThreads_setThread _ _ _ s, ?_⟩
  rw [releaseWith, getThread_modThread, wakeState]
  simp only [Bool.or_eq_true, decide_eq_true_eq]

end Sys2Proof.Machine
end

section
/-! PROOFS. Event records in their queues, and the registers of the event queues (R375, R376, R378, R380, Table 10.13). -/

namespace Sys2Proof.Machine

/-! ### Event records (Table 10.13) -/

/-- A record with the phase of its pass over the queue. -/
def phased (phase : Nat) (rec' : List Byte) : List Byte := patchAt 2 [BitVec.ofNat 8 (byteAt 2 rec' + phase)] rec'

section queue
variable {e : Fin 16} {cls : Nat} {s : State} (route : rget .EV_ROUTE 0 cls s = BitVec.ofNat 32 (2 ^ 31 + e.val))

/-- The route of a class names an enabled queue (R376). -/
theorem route_names (e : Fin 16) : flagOf 31 (BitVec.ofNat 32 (2 ^ 31 + e.val)) = true ∧ fieldOf 3 0 (BitVec.ofNat 32 (2 ^ 31 + e.val)) = e.val := by
  revert e
  decide

include route

theorem deliverEvent_full (rec' : List Byte) (closed : flagOf 31 (rget .EQ_CFG 0 e.val s) = false ∨
    (rget .EQ_TAIL 0 e.val s - rget .EQ_HEAD 0 e.val s).toNat = 2 ^ fieldOf 20 16 (rget .EQ_CFG 0 e.val s)) :
    deliverEvent cls rec' s = (rset .EQ_LOST 0 e.val (rget .EQ_LOST 0 e.val s + 1) s, []) := by
  obtain ⟨on, queue⟩ := route_names e
  have shut : (!flagOf 31 (rget .EQ_CFG 0 e.val s) || decide ((rget .EQ_TAIL 0 e.val s - rget .EQ_HEAD 0 e.val s).toNat =
      2 ^ fieldOf 20 16 (rget .EQ_CFG 0 e.val s))) = true := by
    rcases closed with closed | closed <;> simp [closed]
  simp only [deliverEvent, route, on, queue, Bool.not_true, Bool.false_eq_true, if_false, shut, if_true]
  rfl

/-- A record for a queue with room stands at its tail, which counts it; its vector, once armed, is raised (R375, R378). -/
theorem deliverEvent_stores (rec' : List Byte) (enabled : flagOf 31 (rget .EQ_CFG 0 e.val s) = true)
    (room : (rget .EQ_TAIL 0 e.val s - rget .EQ_HEAD 0 e.val s).toNat ≠ 2 ^ fieldOf 20 16 (rget .EQ_CFG 0 e.val s))
    (lines : s.mem.cline.length < 12) :
    let l := fieldOf 20 16 (rget .EQ_CFG 0 e.val s)
    let tail := rget .EQ_TAIL 0 e.val s
    let a := rpair .EQ_BASE_LO .EQ_BASE_HI e.val s + 32 * (tail.toNat % 2 ^ l)
    sliceOn (a / 32 / 4) s = true → ∃ u, deliverEvent cls rec' s = (u, []) ∧ rget .EQ_TAIL 0 e.val u = tail + 1 ∧
      u.mem = sectorCached (a / 32) (phased (if bitAt l tail.toNat then 0x80 else 0) rec') s.mem := by
  intro l tail a on
  obtain ⟨routed, queue⟩ := route_names e
  have vacant : (!flagOf 31 (rget .EQ_CFG 0 e.val s) || decide ((rget .EQ_TAIL 0 e.val s - rget .EQ_HEAD 0 e.val s).toNat =
      2 ^ fieldOf 20 16 (rget .EQ_CFG 0 e.val s))) = false := by
    rw [enabled, decide_eq_false room]
    rfl
  have put := putSector_free on (.inr lines) (phased (if bitAt l tail.toNat then 0x80 else 0) rec')
  generalize stored : ({ s with mem := sectorCached (a / 32) (phased (if bitAt l tail.toNat then 0x80 else 0) rec') s.mem } : State) = x at put
  have mem : x.mem = sectorCached (a / 32) (phased (if bitAt l tail.toNat then 0x80 else 0) rec') s.mem := by rw [← stored]
  have delivered : deliverEvent cls rec' s = if (rset .EQ_TAIL 0 e.val (tail + 1) x).armed.has e.val then
      (raiseVector (fieldOf 10 0 (rget .EQ_CFG 0 e.val s)) { rset .EQ_TAIL 0 e.val (tail + 1) x with
        armed := Store.drop e.val (rset .EQ_TAIL 0 e.val (tail + 1) x).armed }, []) else (rset .EQ_TAIL 0 e.val (tail + 1) x, []) := by
    have put' : putSector (a / 32) (patchAt 2 [BitVec.ofNat 8 (byteAt 2 rec' + if bitAt l tail.toNat then 0x80 else 0)] rec') s = (x, []) := put
    simp only [deliverEvent, route, routed, queue, Bool.not_true, vacant, Bool.false_eq_true, if_false]
    rw [put']
  rw [delivered]
  split
  · have raised := raiseVector_onlyIn (fieldOf 10 0 (rget .EQ_CFG 0 e.val s)) { rset .EQ_TAIL 0 e.val (tail + 1) x with
      armed := Store.drop e.val (rset .EQ_TAIL 0 e.val (tail + 1) x).armed }
    exact ⟨_, rfl, (rget_congr (raised.same .regs (by decide)) ..).trans (rget_rset ..), (raised.same .mem (by decide)).trans mem⟩
  · exact ⟨_, rfl, rget_rset .., mem⟩

end queue

/-- A class that is not routed loses its events to queue 0's count (R376). -/
theorem deliverEvent_unrouted {cls : Nat} {s : State} (off : flagOf 31 (rget .EV_ROUTE 0 cls s) = false) (rec' : List Byte) :
    deliverEvent cls rec' s = (rset .EQ_LOST 0 0 (rget .EQ_LOST 0 0 s + 1) s, []) := by
  simp only [deliverEvent, off, Bool.not_false, if_true]
  rfl

/-- An event of no packet that is delivered at once and evicts nothing. -/
theorem raiseEvent_delivers {code unit aux detail : Nat} {s u : State} (ok : upstreamOk s = true)
    (delivered : deliverEvent (code / 256) (eventRecord code unit aux detail none s) s = (u, [])) :
    raiseEvent code unit aux detail none s = u := by
  have posted : postEvent (code / 256) (eventRecord code unit aux detail none s) s = (u, []) := (if_pos ok).trans delivered
  simp only [raiseEvent, modPktOf, posted, poisonEvents_nil]

/-- Bytes of a sector that stands in the cache, as they are peeked at. -/
theorem peek_sectorCached {a off n : Nat} {data : List Byte} {s u : State} (aligned : a % 32 = 0) (whole : data.length = 32)
    (inside : off + n ≤ 32) (mem : u.mem = sectorCached (a / 32) data s.mem) : peek (a + off) n u = (data.drop off).take n := by
  have pad : padTo 32 data = data := by simp [padTo, whole]
  refine List.ext_getElem (by simp [peek]; omega) fun j h h' => ?_
  have below : j < n := by simpa [peek] using h
  have same : peekByte (a + off + j) u = peekByte (a + off + j) { s with mem := sectorCached (a / 32) data s.mem } := peekByte_congr mem _
  have place : (a + off + j) % 32 = off + j := by omega
  simp only [peek, List.getElem_map, List.getElem_range, List.getElem_take, List.getElem_drop]
  rw [same, peekByte_sectorCached, if_pos (by omega), place, pad, nthD_eq_getElem (by omega)]

/-- The record of an event of no packet, field by field (Table 10.13). -/
theorem eventRecord_fields (code unit aux detail phase : Nat) (s : State) :
    let r := phased phase (eventRecord code unit aux detail none s)
    r.length = 32 ∧ (r.drop 0).take 2 = leBytes 2 code ∧ (r.drop 2).take 1 = [BitVec.ofNat 8 (0 + phase)] ∧
      (r.drop 4).take 2 = leBytes 2 unit ∧ (r.drop 12).take 4 = leBytes 4 aux ∧ (r.drop 16).take 8 = leBytes 8 s.now ∧
      (r.drop 24).take 8 = leBytes 8 detail :=
  ⟨rfl, rfl, rfl, rfl, rfl, rfl, rfl⟩

theorem leAt_leBytes (n x : Nat) : leAt 0 n (leBytes n x) = x % 256 ^ n := by
  rw [leAt, List.drop_zero, List.take_of_length_le (leBytes_length n x).le, leNat_leBytes]

section raised
variable {e : Fin 16} {code unit aux detail : Nat} {s : State} (ok : upstreamOk s = true)
  (route : rget .EV_ROUTE 0 (code / 256) s = BitVec.ofNat 32 (2 ^ 31 + e.val))
include ok route

theorem raiseEvent_stores (enabled : flagOf 31 (rget .EQ_CFG 0 e.val s) = true)
    (room : (rget .EQ_TAIL 0 e.val s - rget .EQ_HEAD 0 e.val s).toNat ≠ 2 ^ fieldOf 20 16 (rget .EQ_CFG 0 e.val s)) :
    let cfg := rget .EQ_CFG 0 e.val s
    let tail := rget .EQ_TAIL 0 e.val s
    let a := rpair .EQ_BASE_LO .EQ_BASE_HI e.val s + 32 * (tail.toNat % 2 ^ fieldOf 20 16 cfg)
    a % 32 = 0 → s.mem.cline.length < 12 → sliceOn (a / 128) s = true → code < 65536 →
    let u := raiseEvent code unit aux detail none s
    rget .EQ_TAIL 0 e.val u = tail + 1 ∧ leAt 0 2 (peek a 2 u) = code ∧
      byteAt 0 (peek (a + 2) 1 u) = (if bitAt (fieldOf 20 16 cfg) tail.toNat then 0x80 else 0) ∧
      leAt 0 2 (peek (a + 4) 2 u) = unit % 65536 ∧ leAt 0 4 (peek (a + 12) 4 u) = aux % 2 ^ 32 ∧
      leAt 0 8 (peek (a + 16) 8 u) = s.now % 2 ^ 64 ∧ leAt 0 8 (peek (a + 24) 8 u) = detail % 2 ^ 64 := by
  intro cfg tail a aligned lines on small u
  have line : a / 32 / 4 = a / 128 := by omega
  obtain ⟨x, delivered, counted, mem⟩ := deliverEvent_stores route (eventRecord code unit aux detail none s) enabled room lines
    (show sliceOn (a / 32 / 4) s = true by rw [line]; exact on)
  have raised : u = x := raiseEvent_delivers ok delivered
  rw [raised]
  generalize phase : (if bitAt (fieldOf 20 16 cfg) tail.toNat then 0x80 else 0) = f at mem ⊢
  obtain ⟨whole, code', phase', unit', aux', now', detail'⟩ := eventRecord_fields code unit aux detail f s
  have field := fun (off n : Nat) (inside : off + n ≤ 32) => peek_sectorCached (u := x) aligned whole inside mem
  refine ⟨counted, ?_, ?_, ?_, ?_, ?_, ?_⟩
  · exact (congrArg (leAt 0 2) ((field 0 2 (by decide)).trans code')).trans ((leAt_leBytes 2 code).trans (Nat.mod_eq_of_lt small))
  · rw [field 2 1 (by decide), phase', Nat.zero_add, ← phase]
    split <;> rfl
  · rw [field 4 2 (by decide), unit', leAt_leBytes, show 256 ^ 2 = 65536 from rfl]
  · rw [field 12 4 (by decide), aux', leAt_leBytes, show 256 ^ 4 = 2 ^ 32 from rfl]
  · rw [field 16 8 (by decide), now', leAt_leBytes, show 256 ^ 8 = 2 ^ 64 from rfl]
  · rw [field 24 8 (by decide), detail', leAt_leBytes, show 256 ^ 8 = 2 ^ 64 from rfl]

end raised

/-! ### The registers of the event queues (R375, R378, R380) -/

section registers
variable {e : Fin 16} {v : Word} {s : State}

theorem eqHeadWrite_moves (reached : hostReaches (regOff .EQ_HEAD 0 e.val) s)
    (within : (rget .EQ_TAIL 0 e.val s - v).toNat ≤ 2 ^ fieldOf 20 16 (rget .EQ_CFG 0 e.val s)) :
    ∃ u, exec (.eqHeadWrite e v) s = .next u ∧ onlyIn [.regs] s u ∧ otherRegs [regOff .EQ_HEAD 0 e.val] s u ∧
      rget .EQ_HEAD 0 e.val u = v := by
  have run : exec (.eqHeadWrite e v) s = .next (rset .EQ_HEAD 0 e.val v s) :=
    congrArg Host.Outcome.next ((hostWrite_of_hostReaches reached _).trans (if_pos within))
  exact ⟨_, run, rset_onlyIn .., otherRegs_rset _ _ _ _ s, rget_rset ..⟩

theorem eqArmWrite_arms (reached : hostReaches (regOff .EQ_ARM 0 e.val) s) (arms : flagOf 0 v = true)
    (empty : rget .EQ_TAIL 0 e.val s = rget .EQ_HEAD 0 e.val s) :
    ∃ u, exec (.eqArmWrite e v) s = .next u ∧ onlyIn [.armed] s u ∧ u.armed.has e.val = true := by
  have run : exec (.eqArmWrite e v) s = .next { s with armed := s.armed.add e.val } := by
    refine congrArg Host.Outcome.next ((hostWrite_of_hostReaches reached _).trans ?_)
    simp only [eqArm, arms, Bool.not_true, Bool.false_eq_true, if_false, empty, if_true]
  exact ⟨_, run, armed_onlyIn .., congrArg Option.isSome (Store.find_put_same ..)⟩

theorem eqArmWrite_raises (reached : hostReaches (regOff .EQ_ARM 0 e.val) s) (arms : flagOf 0 v = true)
    (records : rget .EQ_TAIL 0 e.val s ≠ rget .EQ_HEAD 0 e.val s) (ok : upstreamOk s = true)
    (unmasked : vectorOpen (fieldOf 10 0 (rget .EQ_CFG 0 e.val s)) s = true) (rises : Store.risesFrom 0 s.armed = true) :
    ∃ u, exec (.eqArmWrite e v) s = .next u ∧ onlyIn [.armed, .sent] s u ∧ u.armed.has e.val = false ∧
      u.sent = s.sent ++ [vectorMsg (fieldOf 10 0 (rget .EQ_CFG 0 e.val s)) s] := by
  have run : exec (.eqArmWrite e v) s =
      .next (respond (vectorMsg (fieldOf 10 0 (rget .EQ_CFG 0 e.val s)) s) { s with armed := Store.drop e.val s.armed }) := by
    refine congrArg Host.Outcome.next ((hostWrite_of_hostReaches reached _).trans ?_)
    have raised : raiseVector (fieldOf 10 0 (rget .EQ_CFG 0 e.val s)) { s with armed := Store.drop e.val s.armed } =
        sendUp (vectorMsg (fieldOf 10 0 (rget .EQ_CFG 0 e.val s)) s) { s with armed := Store.drop e.val s.armed } := if_pos unmasked
    simp only [eqArm, arms, Bool.not_true, Bool.false_eq_true, if_false, records, rfield, raised]
    exact if_pos ok
  refine ⟨_, run, (armed_onlyIn _ s).andThen (respond_onlyIn ..), ?_, rfl⟩
  exact congrArg Option.isSome (Store.find_drop_same e.val s.armed rises)

theorem eqCfgWrite_takes (reached : hostReaches (regOff .EQ_CFG 0 e.val) s) (allowed : RegName.EQ_CFG.desc.allows v = true)
    (free : busyWrite .EQ_CFG 0 e.val v s = false)
    (fits : flagOf 31 v = false ∨ rpair .EQ_BASE_LO .EQ_BASE_HI e.val s + 32 * 2 ^ fieldOf 20 16 v ≤ usable s) :
    ∃ u, exec (.eqCfgWrite e v) s = .next u ∧ onlyIn [.regs] s u ∧ otherRegs [regOff .EQ_CFG 0 e.val] s u ∧
      ∀ f ∈ RegName.EQ_CFG.desc.fields, f.acc = .rw → fieldOf f.hi f.lo (rget .EQ_CFG 0 e.val u) = fieldOf f.hi f.lo v := by
  have inside : (flagOf 31 v && decide (usable s < rpair .EQ_BASE_LO .EQ_BASE_HI e.val s + 32 * 2 ^ fieldOf 20 16 v)) = false := by
    rcases fits with off | below
    · rw [off, Bool.false_and]
    · rw [decide_eq_false (by omega), Bool.and_false]
  have run : exec (.eqCfgWrite e v) s =
      .next (rset .EQ_CFG 0 e.val (RegName.EQ_CFG.desc.fields.foldl (RegField.write false v) (rget .EQ_CFG 0 e.val s)) s) := by
    refine congrArg Host.Outcome.next ((hostWrite_of_hostReaches reached _).trans ?_)
    simp only [eqCfg, inside, Bool.false_eq_true, if_false]
    exact storeWrite_ok allowed free
  refine ⟨_, run, rset_onlyIn .., otherRegs_rset _ _ _ _ s, fun f hf rw' => ?_⟩
  rw [rget_rset, fieldOf_written .EQ_CFG v _ (by decide) hf, if_pos rw']

end registers

/-- Settles O35. -/
theorem signalsFromOutsideAndEventQueues : Obligations.SignalsFromOutsideAndEventQueues := by
  unfold Obligations.SignalsFromOutsideAndEventQueues
  refine ⟨fun s canonical => ⟨fun v => hostSignal_signals canonical, fun via m o v next own =>
      ⟨remoteSignalArrive_signals next own canonical, remoteSignalArrive_ignored next own⟩, fun v => sySelWrite_selects,
      fun r t o target d => remoteWaitTimeout_ends⟩,
    fun e s => ⟨fun code unit aux detail _ ok route => ⟨fun enabled room aligned lines on _ small =>
        raiseEvent_stores ok route enabled room aligned lines on small, fun closed => ?_⟩, fun code unit aux detail _ ok off => ?_,
      fun reached v => eqHeadWrite_moves reached, fun reached v arms => ⟨eqArmWrite_arms reached arms, eqArmWrite_raises reached arms⟩,
      fun reached v => eqCfgWrite_takes reached⟩⟩
  · exact raiseEvent_delivers ok (deliverEvent_full route _ closed)
  · exact raiseEvent_delivers ok (deliverEvent_unrouted off _)

end Sys2Proof.Machine
end
